-- ==== Sys2Proof/Word.lean ====
section
/-! DEFINITION. The word types of the controller's registers, messages and buffer (spec 00, R9: every multi-byte field
is little-endian; bit 0 is the least significant bit). -/

namespace Sys2Proof

/-- One byte. -/
abbrev Byte := BitVec 8
/-- A 16-bit register, object or message field. -/
abbrev Word16 := BitVec 16
/-- A 32-bit register, object or message field. -/
abbrev Word32 := BitVec 32
/-- A 64-bit register or counter. -/
abbrev Word64 := BitVec 64
/-- The 4,096 user bytes of one logical block (spec 00, R12), byte 0 in the low bits. -/
abbrev Block := BitVec 32768
/-- One buffer word of 288 bits: symbol `j` (0 to 35) of spec 12, R353 is bits `8*j+7 … 8*j`. -/
abbrev BufWord := BitVec 288
/-- An actuator channel number (spec 00, R8). -/
abbrev ChanId := Fin 8
/-- A head number H0 to H31 (spec 00, R8). -/
abbrev HeadId := Fin 32
/-- A host port number (spec 00: host 0 and host 1). -/
abbrev PortId := Fin 2
/-- An actuator drive link number (spec 02, R53). -/
abbrev LinkId := Fin 2

end Sys2Proof
end

