-- ==== Sys2Proof/Syntax.lean ====
section
/-! DEFINITION. The commands the block takes: one constructor of `Instr` for each row of the table of operations and
events, with the row's operands. Host commands carry their command dwords; events carry what the outside (the media, the
preamplifier, a power combo, a sensor, a NAND die, a pin) presents to the controller at that instant. -/

namespace Sys2Proof

/-! ## Operand types -/

/-- A path to the dictionary (spec 15, R460): the two host ports and the MCTP path. -/
inductive Path where
  | port0 | port1 | mctp
deriving DecidableEq, Repr

/-- The supply rails of spec 02, Table 2.8. -/
inductive Rail where
  | vddCore | vddSram | vddPhy | vddAna | vccqNand | vddIo | vccNand
deriving DecidableEq, Repr

/-- The straps of spec 02, Table 2.10, as sampled at the rising edge of PORST_N. -/
structure Straps where
  portMode : Bool
  addrSel1 : Bool
  addrSel0 : Bool
  lockClr  : Bool
  testMode : Bool
deriving DecidableEq, Repr

/-- What the boot ROM finds (spec 03, R82): the PLL and on-die memory tests, and whether the image of each slot passes
its SHA-384 digest and ECDSA signature checks. -/
structure BootCheck where
  memoriesOk : Bool
  slotAOk    : Bool
  slotBOk    : Bool
deriving DecidableEq, Repr

/-- A commit and the instant at which it comes (spec 01, R22): nanoseconds after the last tick boundary. -/
structure Timed (α : Type) where
  what : α
  atNs : Nat
deriving DecidableEq, Repr

/-- What MOUNT reads of the Mule (spec 03, R85, R86; spec 14, R415, R417): whether a header or the commit record of the vault in each
region still reads, how many of the newest copies of SYSTEM decode on neither die, and the blocks the first-mount scan finds factory bad on each die. -/
structure MountReading where
  vault0Ok   : Bool
  vault1Ok   : Bool
  systemLost : Nat
  factoryBad : List (Fin 2 × Fin 4 × Nat)
deriving DecidableEq, Repr

/-- What REPLAY reads of the vault it takes (spec 14, R427; spec 13, R402): whether the commit record is valid, whether
any tag page reads, whether the band list reads, the positions of lines whose tag page, and whose data page, is unreadable, and, for a
band whose lines cannot be identified, the write pointer that reading the band from the media recovers. -/
structure ReplayReading where
  commitOk    : Bool
  tagsOk      : Bool
  bandListOk  : Bool
  metaOk      : Bool
  lostTags    : List Nat
  lostLines   : List Nat
  recoveredWp : List (HeadId × Nat × Nat)
deriving DecidableEq, Repr

/-- What the zone metadata load reads (spec 03, R93): whether either copy of the checkpoint reads, and the bands whose
record cannot be recovered. -/
structure ZoneLoadReading where
  checkpointOk : Bool
  lostBands    : List (HeadId × Nat)
deriving DecidableEq, Repr

/-- The outcomes of the Lamgor checker (spec 12, Table 12.2); a correction names the symbol and the value added to it. -/
inductive WordCheck where
  | clean | corrected (symbol : Nat) (value : Byte) | poisoned | uncorrectable
deriving DecidableEq, Repr

/-- An upstream frame of an actuator drive link (spec 02, Table 2.4), its TYPE given by the row: the slot and sequence
fields of byte 1, the payload, the CRC received, and the time after the last tick boundary at which it has been checked. -/
structure UpFrame where
  slot    : BitVec 2
  seq     : BitVec 2
  payload : Word32
  crc     : Byte
  atNs    : Nat
deriving DecidableEq, Repr

/-- The samples of one bit of a servo field's number fields (spec 05, R129): of its first two cells and of its last two. -/
structure BitCells where
  early : List Int
  late  : List Int
deriving DecidableEq, Repr

/-- What SDM n samples of one servo field (spec 05, Table 5.1): the cells that pass the SAM correlator, as signed amplitudes, and the
time at which the first of them ends, in nanoseconds after the previous wedge's predicted end of SAM; the preamble amplitude, the
cells of each of the 22 track-number and 11 wedge-number bits (first bit first), the raw bursts, the
wedge phase, the sequencer wait J of spec 06, R175, and how many of the engine's two coefficient copies show a parity
error (spec 06, R178). -/
structure ServoField where
  cellFrom  : Int
  cells     : List Int
  amplitude : Nat
  gray      : List BitCells
  wedge     : List BitCells
  nRaw      : Int
  qRaw      : Int
  phaseNs   : Nat
  jitter    : Fin 100
  parity    : Fin 3
deriving DecidableEq, Repr

/-- An access request of MSQ (spec 01, R18): the head to select, the target track position in 1/512 servo track, the
write or retry offset in the same unit, and the read or write mark. -/
structure AccessReq where
  head   : HeadId
  target : Int
  offset : Int
  write  : Bool
deriving DecidableEq, Repr

/-- A sector as it passes the head (spec 07, R188): the inputs of readers A and B in microvolts, one value for each sampling instant of
the capture span (R206), oldest first. -/
structure SectorSignal where
  rxA : List Int
  rxB : List Int
deriving DecidableEq, Repr

/-- A self-test of the Lamgor blocks (spec 12, R356, Table 12.3): the fixed data word and the signature in the boot ROM, and the faults of
the blocks under test: cases in which the checker gives another outcome than the code's, and cases of steps 1 and 2 in which the encoder
gives other check symbols, c3 lowest (case 256 of step 2 is the all-ones word). -/
structure SelftestReading where
  romWord   : BitVec 256
  signature : Word32
  odd       : List (Fin 6 × Nat × WordCheck)
  oddChecks : List (Fin 6 × Nat × Word32)
deriving DecidableEq, Repr

/-- The bit errors in the 16 segments of a page at each threshold level that it is read at, in the order of the levels (spec 14, R413, R423,
Table 14.4). -/
abbrev SegmentErrors := List (List Nat)

/-- A sector whose pad is on media (spec 08, R236, R249): its channel, how many sectors have come whole into the write FIFO since, and
which of those, by number from 0, are poisoned. -/
structure SectorLanding where
  chan     : ChanId
  arrived  : Nat
  poisoned : List Nat
deriving DecidableEq, Repr

/-- The readings of one sensor in an ENV cycle (spec 09, R257, R258): the diode voltage at 10 µA and the difference to
100 µA in microvolts, the thermistor voltage in microvolts, and, for the die sensor, its factory-trimmed reading in 1/16 °C. -/
structure SensorInput where
  diodeUv : Nat
  deltaNv : Nat
  thermUv : Nat
  die     : Int
deriving DecidableEq, Repr

/-- The six calibration kinds of spec 09, Table 9.6. -/
inductive CalKind where
  | fe | align | eq | sync | servo | assist
deriving DecidableEq, Repr

/-- Which run of a head ends (spec 09, R275): its kind, none for a verification read, and for EQ its recording zone. -/
structure RunName where
  kind : Option CalKind
  zone : Nat
deriving DecidableEq, Repr

/-- Select and command dword 11 of Get Features (spec 10, R296). -/
structure FeatureDwords where
  sel   : BitVec 3
  cdw11 : Word32
deriving DecidableEq, Repr

/-- A vector of the MSI-X table of a port (spec 10, R291, R318). -/
structure PortVector where
  port   : PortId
  vector : Fin 66
deriving DecidableEq, Repr

/-- The I/O commands of spec 10, R295, by the rows of the table. -/
inductive IoOp where
  | flush | write | read | writeZeroes
  | resRegister | resReport | resAcquire | resRelease
  | zoneClose | zoneFinish | zoneOpen | zoneReset | zoneOffline | setZoneDescExt
  | reportZones | extReportZones | zoneAppend
  | unsupported (opcode : Byte)
deriving DecidableEq, Repr

/-- A submission-queue entry of an I/O queue, with the fields the operation uses. `nlb` is the number of blocks
(1-based); `prinfo` and `deac` are the protection field and the Deallocate bit; `resAction`, `iekey`, `rtype`,
`cptpl`, `crkey`, `nrkey` are the reservation fields; `zraOption` and `zraMax` are the Report Zones fields. -/
structure SqEntry where
  op        : IoOp
  cid       : Word16
  nsid      : Word32
  slba      : Nat
  nlb       : Nat
  fua       : Bool
  limited   : Bool
  prinfo    : BitVec 4
  selectAll : Bool
  resAction : BitVec 3
  iekey     : Bool
  rtype     : Byte
  cptpl     : BitVec 2
  crkey     : Word64
  nrkey     : Word64
  zraOption : Byte
  zraMax    : Nat
deriving DecidableEq, Repr

/-- The port and command identifier of an admin command. -/
structure AdminHdr where
  port : PortId
  cid  : Word16
deriving DecidableEq, Repr

/-- A request to the buffer memory on one port of one channel (spec 12, R366, R367): the requester, the row, the symbols
to write and which data bytes are written (a read writes none), and for the scrubber's requester which of its kinds it is. -/
inductive BufKind where
  | normal | repair | poison | scrub
deriving DecidableEq, Repr

/-- See `BufKind`; `data` is the word's 32 data bytes, `mask` bit `k` the write of data byte `k`. -/
structure BufReq where
  requester : Fin 23
  kind      : BufKind
  row       : BitVec 22
  data      : BitVec 256
  mask      : BitVec 32
deriving DecidableEq, Repr

/-- A NAND page address (spec 14, Table 14.1). -/
structure PageAddr where
  die   : Fin 2
  plane : Fin 4
  block : Nat
  page  : Nat
deriving DecidableEq, Repr

/-- The partitions of spec 14, Table 14.3. -/
inductive Partition where
  | system | vault0 | vault1 | slotA | slotB | journal | eventLog | calStore | oem | pool
deriving DecidableEq, Repr

/-- The header of a firmware image, spec 16, Table 16.1. `signatureOk` says whether SIGNATURE verifies with the key that
KEY_INDEX names, and `keyRevoked` whether that ROM key is revoked: the two things the header bytes cannot show. -/
structure FwHeader where
  bytes       : List Byte
  signatureOk : Bool
  keyRevoked  : Bool
deriving DecidableEq, Repr

/-- A firmware piece: the byte offset, its 4 KiB units in ascending order, and the judgement of a header at offset 0. -/
structure FwPiece where
  offset : Nat
  length : Nat
  header : FwHeader
deriving DecidableEq, Repr

/-- The NVMe-MI Configuration identifiers of spec 15, Table 15.10. -/
inductive MiConfig where
  | smbusFrequency | healthStatusChange | transmissionUnit | other (id : Byte)
deriving DecidableEq, Repr

/-- The admin commands that NVMe-MI may tunnel (spec 15, Table 15.10). -/
inductive Tunnel where
  | identify (cns : Byte) (nsid : Word32)
  | getLogPage (lid : Byte) (nsid : Word32)
  | getFeatures (fid : Byte) (nsid cdw11 : Word32)
  | other (opcode : Byte)
deriving DecidableEq, Repr

/-- A Plarik request as received (spec 15, Table 15.5): its bytes (header and payload, without MCTP framing), and the
MCTP source endpoint (ignored for the mailbox). -/
structure PlarikReq where
  bytes    : List Byte
  endpoint : Byte
deriving DecidableEq, Repr

/-- The addressing of an I3C dynamic address assignment (spec 15, R458). -/
inductive I3cAssign where
  | entdaa (addr : BitVec 7)
  | setdasa (static : BitVec 7) (addr : BitVec 7)
deriving DecidableEq, Repr

/-- The two planes a memory-error exception restarts (spec 13, R400). -/
inductive PlaneId where
  | dataPlane | mgmtPlane
deriving DecidableEq, Repr

/-! ## The commands -/

/-- One constructor for each row of the table of operations and events (opcode_table.json). -/
inductive Instr where
  -- power, start-up and the actuator drive links
  | powerGood (straps : Straps) (boot : BootCheck) (pwrdis : Bool)
  | railUndervoltage (rail : Rail)
  | bufferSelftest (r : SelftestReading)
  | bufferTrainingDone
  | bufferTrainingTimeout (c : Fin 4)
  | bufferFillDone
  | mountEnd (r : MountReading)
  | replayEnd (r : ReplayReading)
  | zoneMetadataLoadEnd (r : ZoneLoadReading)
  | spinUpInstant
  | spinupTimeout
  | testresFrame (k : LinkId) (f : UpFrame)
  | storeFrame (k : LinkId) (f : UpFrame)
  | holdupCheckRepeat
  | actuatorLoadStart
  | loadTimeout (n : ChanId)
  | phaseLimitExpired
  | tickBoundary
  | sheepdogPassLate
  | indexFrame (k : LinkId) (f : UpFrame)
  | indexLoss
  | indexLoss10s
  | bemfFrame (k : LinkId) (f : UpFrame)
  | faultFrame (k : LinkId) (f : UpFrame)
  | adlIdleFrame (k : LinkId) (f : UpFrame)
  | linkLoss (k : LinkId)
  | linkLossLimit (k : LinkId)
  | speedFaultLimit
  -- servo, control engines and the write path
  | wedgeStrobe (n : ChanId) (f : ServoField)
  | samWindowClose (n : ChanId) (f : ServoField)
  | reacqLimitExpired (n : ChanId)
  | accessRequest (n : ChanId) (r : AccessReq)
  | ceOutputIssue (n : ChanId)
  | seekFault (n : ChanId)
  | trimLate (n : ChanId)
  | dataWindowOpen (n : ChanId) (arrived : Nat) (poisoned : List Nat)
  | sectorOnMedia (x : SectorLanding)
  | excursionVerifyDone (n : ChanId) (reads : List (Nat × Nat))
  | repairDone (n : ChanId) (reads : List (Nat × Nat))
  | writeTimeLimit (n : ChanId)
  | paFaultFall (n : ChanId)
  | paFaultRise (n : ChanId)
  | paFaultHold (n : ChanId)
  | monitorReadDone (n : ChanId) (m : Word16)
  | faultReadDone (n : ChanId) (v : Word16)
  -- the read channel
  | sectorRead (n : ChanId) (sig : SectorSignal)
  | decodeComplete (n : ChanId) (entry : Fin 10)
  | secondLookAttemptEnd (n : ChanId) (code : Nat)
  | retryTimeLimit (n : ChanId)
  -- environment and calibration
  | envDecision (r : Vector SensorInput 11)
  | calSchedule (h : HeadId) (kind : CalKind)
  | calReqKindsWrite (path : Path) (v : Byte)
  | calRunEnd (h : HeadId) (r : RunName)
  | calDeferTimeout (h : HeadId) (kind : CalKind)
  -- host ports
  | perstAssert (p : PortId)
  | perstDeassert (p : PortId)
  | refclkLoss (p : PortId)
  | hotReset (p : PortId)
  | functionLevelReset (p : PortId)
  | linkDisable (p : PortId)
  | ccEnable (p : PortId)
  | ccDisable (p : PortId)
  | ccShutdown (p : PortId) (shn : BitVec 2)
  | nvmSubsystemReset (p : PortId) (v : Word32)
  | sqTailDoorbell (p : PortId) (qid tail : Nat)
  | cqHeadDoorbell (p : PortId) (qid head : Nat)
  | commandAdmission (p : PortId) (e : SqEntry)
  | completionCommit (id : Nat)
  | completionPost (p : PortId) (qid : Nat)
  | flushCommit (id : Nat)
  -- admin commands
  | createIoSq (a : AdminHdr) (qid size cqid : Nat) (contiguous : Bool)
  | deleteIoSq (a : AdminHdr) (qid : Nat)
  | createIoCq (a : AdminHdr) (qid size vector : Nat) (contiguous irqEnable : Bool)
  | deleteIoCq (a : AdminHdr) (qid : Nat)
  | getLogPage (a : AdminHdr) (lid : Byte) (rae : Bool) (nsid : Word32) (offset length : Nat)
  | identify (a : AdminHdr) (cns : Byte) (nsid : Word32) (csi : Byte) (cntid : Word16)
  | abort (a : AdminHdr) (sqid : Nat) (target : Word16)
  | getFeatures (a : AdminHdr) (fid : Byte) (x : FeatureDwords) (nsid : Word32)
  | setFeatArbitration (a : AdminHdr) (save : Bool) (v : Word32)
  | setFeatPowerManagement (a : AdminHdr) (save : Bool) (v : Word32)
  | setFeatTemperatureThreshold (a : AdminHdr) (save : Bool) (v : Word32)
  | setFeatErrorRecovery (a : AdminHdr) (save : Bool) (nsid : Word32) (v : Word32)
  | setFeatVolatileWriteCache (a : AdminHdr) (save : Bool) (v : Word32)
  | setFeatNumberOfQueues (a : AdminHdr) (save : Bool) (v : Word32)
  | setFeatInterruptCoalescing (a : AdminHdr) (save : Bool) (v : Word32)
  | setFeatInterruptVectorConfig (a : AdminHdr) (save : Bool) (v : Word32)
  | setFeatWriteAtomicity (a : AdminHdr) (save : Bool) (v : Word32)
  | setFeatAsyncEventConfig (a : AdminHdr) (save : Bool) (v : Word32)
  | setFeatTimestamp (a : AdminHdr) (save : Bool) (ms : BitVec 48)
  | setFeatHostBehaviorSupport (a : AdminHdr) (save : Bool) (acre : Bool)
  | setFeatSoftwareProgressMarker (a : AdminHdr) (save : Bool) (v : Word32)
  | setFeatHostIdentifier (a : AdminHdr) (save : Bool) (exhid : Bool) (v : BitVec 128)
  | setFeatReservationNotifMask (a : AdminHdr) (save : Bool) (nsid : Word32) (v : Word32)
  | setFeatReservationPersistence (a : AdminHdr) (save : Bool) (nsid : Word32) (v : Word32)
  | asyncEventRequest (a : AdminHdr)
  | namespaceCreate (a : AdminHdr) (csi : Byte) (nsze ncap : Nat) (lbaf : BitVec 4)
  | namespaceDelete (a : AdminHdr) (nsid : Word32)
  | namespaceAttach (a : AdminHdr) (nsid : Word32) (ctrls : List Word16)
  | namespaceDetach (a : AdminHdr) (nsid : Word32) (ctrls : List Word16)
  | formatNvm (a : AdminHdr) (nsid : Word32) (lbaf : BitVec 4) (ses : BitVec 3)
  | sanitizeOverwrite (a : AdminHdr) (owpass : BitVec 4) (pattern : Word32) (sanact : BitVec 3)
  | sanitizeExitFailureMode (a : AdminHdr)
  | sanitizeOverwriteDone (failed : Bool)
  | firmwareImageDownload (a : AdminHdr) (piece : FwPiece)
  | fwCommitKeep (a : AdminHdr) (fs : BitVec 3)
  | fwCommitNextReset (a : AdminHdr) (fs : BitVec 3)
  | fwCommitExisting (a : AdminHdr) (fs : BitVec 3)
  | fwCommitImmediate (a : AdminHdr) (fs : BitVec 3)
  | fwCommitBootPartition (a : AdminHdr) (ca : BitVec 3)
  | vendorCommit (a : Timed AdminHdr)
  | vendorDiscard (a : AdminHdr)
  | setObject (a : AdminHdr) (cdw10 offset : Word32) (data : List Byte)
  | getObject (a : AdminHdr) (cdw10 offset length : Word32)
  | unsupportedAdminOpcode (a : AdminHdr) (opcode : Byte) (nsid cdw10 : Word32)
  -- I/O commands, by the admission number of their context
  | flush (id : Nat)
  | write (id : Nat) (data : List Block)
  | read (id : Nat)
  | writeZeroes (id : Nat)
  | reservationRegister (id : Nat)
  | reservationReport (id : Nat)
  | reservationAcquire (id : Nat)
  | reservationRelease (id : Nat)
  | zoneClose (id : Nat)
  | zoneFinish (id : Nat)
  | zoneOpen (id : Nat)
  | zoneReset (id : Nat)
  | zoneOffline (id : Nat)
  | setZoneDescriptorExt (id : Nat)
  | reportZones (id : Nat)
  | extendedReportZones (id : Nat)
  | zoneAppend (id : Nat) (data : List Block)
  | unsupportedIoOpcode (id : Nat)
  | maintenanceOrderingPoint (id : Nat)
  | unloadIdleExpired (n : ChanId)
  -- the vendor block
  | statusWrite (p : PortId) (v : Word32) (setNow : Word32)
  | intEnableWrite (p : PortId) (v : Word32)
  | tickLoRead (p : PortId)
  | evtBaseWrite (p : PortId) (v : Word32)
  | mbDoorbellWrite (p : PortId) (v : Word32) (request : List Byte)
  | mailboxResponse (p : PortId)
  | msixUnmask (x : PortVector)
  -- power loss and the vault
  | holdSenseFall
  | holdSenseRise
  | pwrdisRise
  | pwrdisFall
  | vaultTrigger (pwrdis : Bool)
  | vaultRetract
  | vaultRestart (boot : BootCheck)
  -- buffer memory and cache
  | bufferSlotGrant (c : Fin 4) (writePort : Bool) (arrivals : List BufReq) (noise : BufWord)
  | repairWriteDrop (c : Fin 4)
  | rebuildDone (h : HeadId) (band : Nat) (journalOk : Bool) (mediaRun : Nat)
  | scrubLapWarn (c : Fin 4)
  | scrubEnableWrite (path : Path) (v : Byte)
  | ceTableClear (path : Path) (v : Byte)
  | waitMaxRead (path : Path) (c : Fin 4)
  | delayMaxRead (path : Path) (n : ChanId)
  | missWaitMaxRead (path : Path)
  | cacheModeWrite (path : Path) (v : Byte)
  | dirtyLimitWrite (path : Path) (v : Word16)
  | allocWaitExpired (set : Fin 6400)
  | captureDataRead (path : Path) (maxBytes : Nat)
  | captureCtrlWrite (path : Path) (v : Byte)
  | captureDecimWrite (path : Path) (v : Byte)
  | memExceptionDataPlane
  | memExceptionMgmtPlane
  | retireReqWrite (path : Path) (v : Word16)
  | unretireWrite (path : Path) (v : Byte)
  -- the Mule
  | nandProgramDone (die : Fin 2) (pulses : Nat)
  | nandEraseDone (die : Fin 2) (pulses : Nat)
  | nandReadDone (die : Fin 2) (errors : SegmentErrors) (data : List Byte)
  | journalFlushTimer
  | checkpointTrigger
  | codeMiss (slotPage : Nat) (die : Fin 2)
  | suspendIntervalEnd (die : Fin 2)
  | oemRead (path : Path)
  | oemProgram (path : Path)
  | oemErase (path : Path)
  | slotEraseWrite (path : Path) (v : Byte)
  -- the management fabric
  | mctpMessageDiscard (msgType : BitVec 7) (ic : Bool)
  | plarikGet (path : Path) (r : PlarikReq)
  | plarikSet (path : Path) (r : PlarikReq)
  | plarikCommit (path : Path) (r : Timed PlarikReq)
  | plarikDiscard (path : Path) (r : PlarikReq)
  | plarikDescribe (path : Path) (r : PlarikReq)
  | plarikNext (path : Path) (r : PlarikReq)
  | plarikUnknownOp (path : Path) (r : PlarikReq)
  | setEndpointId (eid : Byte)
  | getEndpointId
  | getEndpointUuid
  | getMctpVersionSupport (msgType : Byte)
  | getMessageTypeSupport
  | getVendorDefinedMsgSupport (selector : Byte)
  | readNvmeMiDataStructure (dtyp : Byte) (portId : Byte) (ctrlId : Word16)
  | nvmSubsystemHealthPoll (clear : Bool)
  | controllerHealthPoll (start : Word16) (maxEntries : Byte) (clear : Bool)
  | miConfigurationSet (c : MiConfig) (port : Byte) (v : Word16)
  | miConfigurationGet (c : MiConfig) (port : Byte)
  | miAdminTunnel (cntlid : Word16) (t : Tunnel)
  | smbusAlertResponse
  | objectWrite (path : Path) (index : Word16) (sub : Byte) (data : List Byte)
  | commitWrite (path : Timed Path)
  | discardWrite (path : Path)
  | channelCommitSwap (n : ChanId)
  | privEnterWrite (path : Path) (v : Word32)
  | ownerLockWrite (path : Path) (v : Byte)
  | nodeNumberWrite (path : Path) (v : Word16)
  | mctpStatusWrite (path : Path) (v : Word16) (setNow : Word16)
  | stageLeaseExpired
  | privIdleExpired (path : Path)
  | segmentTimeout (path : Path)
  | snapshotTimeout (path : Path)
  -- firmware
  | fwPieceWrite (path : Path) (piece : FwPiece)
  | fwSealDone (digestOk : Bool)
  | fwLeaseExpired
  | fwAbortWrite (path : Path) (v : Byte)
  | fwActionKeep (path : Path)
  | fwActionNextReset (path : Path)
  | fwActionExisting (path : Path)
  | fwActionImmediate (path : Path)
  | activationDrainDone (imageOk : Bool)
  | activationDrainLimit
  | activationResume
  | activationFallback
  -- the event recorder
  | eventWrite
  | evtFreezeWrite (path : Path) (v : Byte)
  | freezeLeaseExpired
  | evtModeWrite (path : Path) (v : Byte)
  | mirrorPageProgram
  | logSelectWrite (path : Path) (v : Word32)
  | logRead (path : Path)
  -- further events
  | porstAssert
  | railRestored (rail : Rail) (boot : BootCheck)
  | substituteLoss
  | pcieLinkDown (p : PortId)
  | i3cAddressAssignment (a : I3cAssign)
  | planeRestartDone (plane : PlaneId)
  | setFeatUnsupported (a : AdminHdr) (fid : Byte) (save : Bool) (v : Word32)
deriving DecidableEq, Repr

end Sys2Proof
end

