-- ==== Sys2Proof/WellFormed.lean ====
section
/-! DEFINITION. Well-formed commands: the bounds that the manual puts on what a command or an event can carry and that the
types do not already say. -/

namespace Sys2Proof

/-- A servo field has 22 track-number bits and 11 wedge-number bits (spec 05, Table 5.1). -/
def ServoField.wf (f : ServoField) : Bool := f.gray.length = 22 && f.wedge.length = 11

/-- A submission-queue entry names 1 to 65,536 blocks (a 16-bit zero-based count). -/
def SqEntry.wf (e : SqEntry) : Bool := 1 ≤ e.nlb && e.nlb ≤ 65536

/-- A firmware piece is 4 KiB to 1 MiB in whole 4 KiB units at a 4 KiB offset (spec 16, R466). -/
def FwPiece.wf (p : FwPiece) : Bool :=
  p.offset % 4096 = 0 && p.length % 4096 = 0 && 4096 ≤ p.length && p.length ≤ 1048576

/-- A mailbox or Plarik message is at most 4,096 bytes long (spec 15, R451). -/
def messageWf (bytes : List Byte) : Bool := bytes.length ≤ 4096

/-- Host data is at most 1 MiB, 256 blocks (spec 10, MDTS). -/
def dataWf (d : List Block) : Bool := d.length ≤ 256

/-- A dictionary value is at most 1 MiB long (spec 15, Table 15.1). -/
def valueWf (d : List Byte) : Bool := d.length ≤ 1048576

/-- The well-formed commands. -/
def Instr.wf : Instr → Bool
  | .wedgeStrobe _ f | .samWindowClose _ f => f.wf
  | .commandAdmission _ e => e.wf
  | .firmwareImageDownload _ p | .fwPieceWrite _ p => p.wf
  | .mbDoorbellWrite _ _ b => messageWf b
  | .plarikGet _ r | .plarikSet _ r | .plarikDiscard _ r | .plarikDescribe _ r | .plarikNext _ r
  | .plarikUnknownOp _ r => messageWf r.bytes
  | .plarikCommit _ r => messageWf r.what.bytes
  | .write _ d | .zoneAppend _ d => dataWf d
  | .objectWrite _ _ _ d => valueWf d
  | .setObject _ _ _ d => valueWf d
  | _ => true

end Sys2Proof
end

