-- ==== Sys2Proof/Config.lean ====
section
/-! DEFINITION. What an implementation of the controller fixes and the manual does not state, and the free values: each
is opaque, so no proof can rest on its value. -/

namespace Sys2Proof.Config

/-- [02 R56] the fixed receive latency of an actuator drive link, in ns. The manual gives no figure (log 11). -/
opaque adlRxLatency : Nat

/-- [07 R188] what the high-pass stage of a reader front-end passes on, in microvolts: the corner in 0.5 MHz, the sampling rate in 10 kHz,
and the inputs in microvolts, the newest first. The manual gives corners, no transfer function (log 35). -/
opaque highPass : Nat → Nat → List Int → Int

/-- [07 R188] what the continuous-time filter brings to the ADC, in microvolts: CTF_FC, CTF_BOOST, the zone's rate, and the outputs of the
VGA in microvolts, the newest first. The manual gives corner and boost, no transfer function (log 35). -/
opaque lowPass : Nat → Nat → Nat → List Int → Int

/-- [07 R192] the 8-tap interpolating filter at a phase, in 1/6,400 of the sample spacing, over the eight ADC codes about the instant,
the oldest first. The manual gives no coefficients (log 35). -/
opaque interpolate : Nat → List Int → Int

/-- [07 R193] the change of VGA gain, in 0.125 dB, that the correlation (in phase, quadrature) with 0b1100 over 32 bits calls for, with
AMP_TARGET (log 35). -/
opaque acquireGain : Nat → Int → Int → Int

/-- [07 R193, R194] the phase of the correlation with 0b1100, in 2^-20 bit (log 35). -/
opaque acquirePhase : Int → Int → Int

/-- [07 R190, R193] the AGC's error in 2^-14 of 0.125 dB, from AMP_TARGET, the joint samples and the bits taken as sent, newest first
(log 35). -/
opaque gainError : Nat → List Int → List Bool → Int

/-- [07 R192, R193] the timing error in 2^-20 bit, from the joint samples and the bits taken as sent, newest first (log 35). -/
opaque timingError : List Int → List Bool → Int

/-- [07, "Sync marks"] the preliminary decision of the 4-state detector on the bit that came 40 ns before the newest of the joint
samples, newest first (log 35). -/
opaque preliminary : Nat → List Int → Bool

/-- [07 R202] the joint signal that a target output of 1 stands for (log 35). -/
opaque unitSignal : Nat

/-- [07 R202] the metric difference that a log-likelihood ratio of 1 stands for, before LLR_SCALE (log 35). -/
opaque unitMetric : Nat

/-- [10 R293] Eznedy's PCI vendor identifier, for which the manual gives no number (log 12). -/
opaque pciVendorId : BitVec 16

/-- [15 R458] the MCTP endpoint UUID, for which the manual gives no number (log 12). -/
opaque endpointUuid : BitVec 128

/-- [14 R413] the 70 parity bytes of a segment of 1,024 bytes. The manual gives the code's field and its strength, no generator (log 20). -/
opaque bchParity : List Byte → BitVec 560

/-- [15 R458] the version word of the Plarik message type, for which the manual gives no number (log 12). -/
opaque plarikVersion : BitVec 32

/-- The dictionary layout of a version holds an object, by index and subindex (spec 16, R477): the manual gives the layout of firmware release
1 only (log 12). -/
opaque layoutHolds : Nat → Nat → Nat → Bool

/-- A value the manual leaves open: the `k`-th free value of a run (log 2). -/
opaque freeValue : Nat → Nat

/-- The data of a page of SYSTEM, of the numbers of its tables and its slot record (spec 14, R415); the spec gives no layout (log 20). -/
opaque systemPage : List Nat → List Byte

/-- The data of a page of CAL_STORE with a value of an object (spec 14, R416); the spec gives no layout (log 20). -/
opaque calPage : Nat → Nat → List Byte → List Byte

/-- The data of an image page and of a map page in a firmware slot (spec 16, R470), by image and offset or by the units programmed: the
bytes of a piece are no operand of the model (log 33), and the spec gives no layout of the map. -/
opaque imagePage : Nat → Nat → List Byte
/-- See `imagePage`. -/
opaque mapPage : List Nat → List Byte

/-- The 8 bytes of a relocation entry in the buffer (spec 12, R371): a position and whether a remap; the spec gives no layout (log 32). -/
opaque relocImage : Nat → Bool → BitVec 64

/-- The 64 bytes of a command context in the buffer (spec 12, Table 12.8), of its numbers; the spec gives no layout (log 32). -/
opaque contextImage : List Nat → BitVec 512

/-- The 64 bytes of a miss register in the buffer (spec 12, Table 12.8), of its numbers; the spec gives no layout (log 32). -/
opaque missImage : List Nat → BitVec 512

/-- The 32 bytes of a side-buffer slot's tag (spec 12, Table 12.8), of its numbers; the spec gives no layout (log 32). -/
opaque slotImage : List Nat → BitVec 256

end Sys2Proof.Config
end

