-- ==== Sys2Proof/Machine/Operands.lean ====
section
/-! DEFINITION. Bytes and bit fields: little-endian values, records, CRCs and the operand forms of frames, messages and
dictionary records (spec 00, R9). -/

namespace Sys2Proof.Machine

/-- `n` as `k` little-endian bytes, modulo 2^(8k) (R9). -/
def leBytes : Nat → Nat → List Byte
  | 0, _ => []
  | k + 1, n => BitVec.ofNat 8 n :: leBytes k (n / 256)

/-- The unsigned value of little-endian bytes (R9). -/
def leNat : List Byte → Nat
  | [] => 0
  | b :: bs => b.toNat + 256 * leNat bs

/-- `z` in two's complement as `k` little-endian bytes. -/
def leInt (k : Nat) (z : Int) : List Byte := leBytes k (z % (2 ^ (8 * k) : Nat)).toNat

/-- The two's complement reading of an unsigned value of `k` bytes. -/
def signed (k n : Nat) : Int := if n < 2 ^ (8 * k - 1) then n else (n : Int) - (2 ^ (8 * k) : Nat)

/-- Bytes `i` to `i + k - 1` of a record, little-endian and unsigned; absent bytes read as zero. -/
def fieldU (r : List Byte) (i k : Nat) : Nat := leNat ((r.drop i).take k)

/-- The same field in two's complement. -/
def fieldS (r : List Byte) (i k : Nat) : Int := signed k (fieldU r i k)

/-- Record `i` of a table of records of `k` bytes. -/
def recordAt (t : List Byte) (k i : Nat) : List Byte := (t.drop (k * i)).take k

/-- The records of a table. -/
def records (t : List Byte) (k : Nat) : List (List Byte) := (List.range (t.length / k)).map (recordAt t k)

/-- Bit `i` of a number. -/
def bitOf (n i : Nat) : Bool := n.testBit i

/-- `k` bits of `n` from bit `i`. -/
def bitsOf (n i k : Nat) : Nat := n / 2 ^ i % 2 ^ k

/-- 0 or 1. -/
def b2n (b : Bool) : Nat := if b then 1 else 0

/-- Bit `i` of a mask built from a predicate on 0 to `k - 1`. -/
def maskOf (k : Nat) (p : Nat → Bool) : Nat := (List.range k).foldl (fun a i => a + b2n (p i) * 2 ^ i) 0

/-- `n` limited to `m`. -/
def satNat (m n : Nat) : Nat := min m n

/-- Division rounded up. -/
def ceilDiv (a b : Nat) : Nat := (a + b - 1) / b

/-- One step of an msb-first CRC-8 (spec 02, R54: polynomial 0x07). -/
def crc8Bit (c : Byte) : Byte := if c.msb then (c <<< 1) ^^^ 0x07 else c <<< 1

/-- CRC-8 of a byte on a running value. -/
def crc8Byte (c b : Byte) : Byte :=
  crc8Bit (crc8Bit (crc8Bit (crc8Bit (crc8Bit (crc8Bit (crc8Bit (crc8Bit (c ^^^ b))))))))

/-- CRC-8 with polynomial 0x07 and initial value 0x00 (spec 02, R54). -/
def crc8 (bs : List Byte) : Byte := bs.foldl crc8Byte 0

/-- One step of a reflected CRC-32 (spec 04, Table 4.5: polynomial 0x04C11DB7 reflected). -/
def crc32Bit (c : Word32) : Word32 := if c.getLsbD 0 then (c >>> 1) ^^^ 0xEDB88320 else c >>> 1

/-- CRC-32 of a byte on a running value. -/
def crc32Byte (c : Word32) (b : Byte) : Word32 :=
  crc32Bit (crc32Bit (crc32Bit (crc32Bit (crc32Bit (crc32Bit (crc32Bit (crc32Bit (c ^^^ b.zeroExtend 32))))))))

/-- CRC-32, reflected, initial value and final XOR 0xFFFFFFFF (spec 04, Table 4.5). -/
def crc32 (bs : List Byte) : Word32 := bs.foldl crc32Byte 0xFFFFFFFF ^^^ 0xFFFFFFFF

/-- The bytes of a block, byte 0 first. -/
def blockBytes (b : Block) : List Byte := leBytes 4096 b.toNat

/-- A block from its bytes. -/
def blockOf (bs : List Byte) : Block := BitVec.ofNat 32768 (leNat bs)

/-- The least `n` from `a` on, within `fuel` steps, that meets `p`. -/
def firstFrom (p : Nat → Bool) : Nat → Nat → Option Nat
  | 0, _ => none
  | f + 1, a => if p a then some a else firstFrom p f (a + 1)

/-- A number inserted in an ordered list without repeats. -/
def insertSorted (lt : Nat → Nat → Bool) (x : Nat) : List Nat → List Nat
  | [] => [x]
  | y :: ys => if lt x y then x :: y :: ys else if x == y then y :: ys else y :: insertSorted lt x ys

/-- An association list with one entry replaced or added at the end. -/
def assocSet {κ α : Type} [DecidableEq κ] (k : κ) (v : α) : List (κ × α) → List (κ × α)
  | [] => [(k, v)]
  | (k', v') :: r => if k' = k then (k, v) :: r else (k', v') :: assocSet k v r

/-- The value of a key. -/
def assocGet {κ α : Type} [DecidableEq κ] (k : κ) (l : List (κ × α)) : Option α := (l.find? (·.1 = k)).map (·.2)

/-- An association list without a key. -/
def assocDel {κ α : Type} [DecidableEq κ] (k : κ) (l : List (κ × α)) : List (κ × α) := l.filter (·.1 ≠ k)

/-- A byte of a record. -/
def byteAt (r : List Byte) (i : Nat) : Nat := fieldU r i 1

/-- `x` held between `lo` and `hi`. -/
def clampInt (lo hi x : Int) : Int := if x < lo then lo else if hi < x then hi else x

/-- `a / b` rounded half away from zero. -/
def roundAway (a b : Int) : Int :=
  if b ≤ 0 then 0 else if a < 0 then -((2 * -a + b) / (2 * b)) else (2 * a + b) / (2 * b)

/-- The first `n` elements are kept: a bounded list, newest first. -/
def capped {α : Type} (n : Nat) (l : List α) : List α := l.take n

/-- One element of a vector replaced by its image. -/
def upd {α : Type} {k : Nat} (v : Vector α k) (i : Fin k) (f : α → α) : Vector α k := v.set i (f v[i])

/-- One element, by number, if the number is in range. -/
def updNat {α : Type} {k : Nat} (v : Vector α k) (i : Nat) (f : α → α) : Vector α k :=
  if h : i < k then v.set i (f v[i]) else v

end Sys2Proof.Machine
end

