-- ==== Sys2Proof/Machine/Objects.lean ====
section
/-! DEFINITION. The object dictionary: every object of the tables of spec 03 to 17 with its type, access, persistence,
staging, range and default (spec 15, R436 to R443). Objects 0xF000 to 0xFFFF follow R443 and stand in no table. -/

namespace Sys2Proof.Machine

/-- The types of spec 15, Table 15.1. -/
inductive ObjType where
  | bool | u8 | u16 | u32 | u64 | i16 | i32 | qs | str | blob | table
deriving DecidableEq, Repr

/-- The access codes of spec 15, Table 15.2. -/
inductive Access where
  | ro | rw | wo | const | rwp | rp
deriving DecidableEq, Repr

/-- Which units the subindices (or the indices) of an object number, for R2. -/
inductive ObjUnit where
  | none | chan | head | reader | chanIndex
deriving DecidableEq, Repr

/-- One row of an object table. A scalar has a range and a default; a TABLE has its record length and its least and
greatest record count; a STR or BLOB has its greatest length in `recLen`. -/
structure Obj where
  index0 : Nat
  index1 : Nat
  sub0 : Nat
  sub1 : Nat
  ty : ObjType
  acc : Access
  persistent : Bool
  staged : Bool
  unit : ObjUnit
  lo : Int
  hi : Int
  dflt : Int
  recLen : Nat
  cntLo : Nat
  cntHi : Nat
deriving DecidableEq, Repr

/-- A scalar object. -/
def scalar (a b c d : Nat) (t : ObjType) (acc : Access) (p st : Bool) (u : ObjUnit) (lo hi v : Int) : Obj :=
  ⟨a, b, c, d, t, acc, p, st, u, lo, hi, v, 0, 0, 0⟩

/-- A STR, BLOB or TABLE object. -/
def block (a b c d : Nat) (t : ObjType) (acc : Access) (p st : Bool) (u : ObjUnit) (r l h : Nat) : Obj :=
  ⟨a, b, c, d, t, acc, p, st, u, 0, 0, 0, r, l, h⟩

/-- The objects from VENDOR (0x1000) to POWER_STATE (0x2002). -/
def objects0 : List Obj := [
  block 0x1000 0x1000 1 1 .str .const true false .none 64 0 0,
  block 0x1000 0x1000 2 2 .str .const true false .none 64 0 0,
  block 0x1000 0x1000 3 3 .str .const true false .none 64 0 0,
  scalar 0x1000 0x1000 4 4 .u64 .const true false .none 0 18446744073709551615 0,
  scalar 0x1000 0x1000 5 5 .u8 .const true false .none 0 255 0,
  scalar 0x1000 0x1000 6 6 .u16 .const true false .none 0 65535 256,
  scalar 0x1001 0x1001 1 1 .u16 .rwp true false .none 0 65535 0,
  block 0x1001 0x1001 2 2 .str .rwp true false .none 64 0 0,
  scalar 0x1002 0x1002 1 1 .u32 .ro true false .none 0 4294967295 0,
  scalar 0x1002 0x1002 2 2 .u32 .ro true false .none 0 4294967295 0,
  scalar 0x1010 0x1010 1 1 .u32 .rw false false .none 0 4294967295 0,
  scalar 0x1010 0x1010 2 2 .u32 .rwp true false .none 0 4294967295 0,
  scalar 0x1010 0x1010 3 3 .u8 .ro false false .none 0 255 0,
  scalar 0x1010 0x1010 4 4 .u16 .rwp true false .none 0 65535 0,
  scalar 0x1011 0x1011 1 1 .bool .rwp true false .none 0 1 0,
  scalar 0x1011 0x1011 2 2 .u8 .ro true false .none 0 255 255,
  block 0x1011 0x1011 3 3 .blob .ro true false .none 16 0 0,
  scalar 0x1020 0x1020 1 1 .u8 .rwp false false .none 1 2 0,
  scalar 0x1020 0x1020 2 2 .u32 .ro false false .none 0 4294967295 0,
  scalar 0x1020 0x1020 3 3 .u32 .ro false false .none 0 4294967295 0,
  scalar 0x1020 0x1020 4 4 .u8 .ro false false .none 0 255 255,
  scalar 0x1020 0x1020 5 5 .u16 .ro false false .none 0 65535 0,
  scalar 0x1020 0x1020 6 6 .u16 .rwp true false .none 60 65535 600,
  scalar 0x1020 0x1020 7 7 .u32 .ro false false .none 0 4294967295 0,
  scalar 0x1020 0x1020 8 8 .u64 .ro false false .none 0 18446744073709551615 0,
  scalar 0x1030 0x1030 1 1 .u8 .ro false false .none 0 255 1,
  scalar 0x1030 0x1030 2 2 .u16 .ro false false .none 0 65535 0,
  scalar 0x1030 0x1030 3 3 .u32 .ro false false .none 0 4294967295 0,
  scalar 0x1030 0x1030 4 4 .u8 .ro false false .none 0 255 0,
  scalar 0x1100 0x1100 1 1 .u8 .ro false false .none 0 255 0,
  scalar 0x1100 0x1100 2 2 .u8 .ro false false .none 0 255 0,
  scalar 0x1100 0x1100 3 3 .u8 .rwp true false .none 0 15 15,
  scalar 0x1100 0x1100 4 4 .u8 .rwp true false .none 0 119 0,
  scalar 0x1100 0x1100 5 5 .u16 .rwp true false .none 0 16383 0,
  scalar 0x1100 0x1100 6 6 .u16 .ro false false .none 0 65535 64,
  scalar 0x1101 0x1101 1 1 .u16 .rw false false .none 0 65535 0,
  scalar 0x1101 0x1101 2 2 .u32 .ro false false .none 0 4294967295 0,
  scalar 0x1101 0x1101 3 3 .u32 .ro false false .none 0 4294967295 0,
  scalar 0x1101 0x1101 4 4 .u32 .ro false false .none 0 4294967295 0,
  scalar 0x2000 0x2000 1 1 .u16 .rwp true false .none 0 65535 0,
  scalar 0x2000 0x2000 2 2 .u16 .rwp true false .none 0 65535 0,
  block 0x2000 0x2000 3 3 .str .rwp true false .none 20 0 0,
  block 0x2000 0x2000 4 4 .str .rwp true false .none 40 0 0,
  scalar 0x2000 0x2000 5 5 .u32 .rwp true false .none 1000 1000000 43800,
  scalar 0x2001 0x2001 1 1 .u8 .ro false false .none 0 255 0,
  scalar 0x2001 0x2001 2 3 .u8 .rwp true false .none 0 2 0,
  scalar 0x2001 0x2001 4 5 .u16 .ro false false .none 0 65535 0,
  block 0x2002 0x2002 0 2 .table .rwp true false .none 16 1 1]

/-- The objects from UNLOAD_IDLE (0x2003) to MISSES (0x2311). -/
def objects1 : List Obj := [
  scalar 0x2003 0x2003 1 1 .u16 .rwp true false .none 100 60000 2000,
  scalar 0x2003 0x2003 2 3 .u8 .ro false false .none 0 255 0,
  scalar 0x2010 0x2010 1 1 .bool .rwp true false .none 0 1 1,
  scalar 0x2100 0x2100 1 1 .u16 .rwp true false .none 50 5000 500,
  scalar 0x2100 0x2100 2 2 .u8 .rwp true false .none 0 16 2,
  scalar 0x2100 0x2100 3 3 .u8 .rwp true false .none 0 64 2,
  scalar 0x2100 0x2100 4 4 .u16 .rwp true false .none 0 31744 16384,
  scalar 0x2100 0x2100 5 5 .u16 .const true false .none 0 65535 2048,
  block 0x2101 0x2101 0 7 .table .rwp true false .chan 8 32 32,
  scalar 0x2110 0x2110 1 1 .u32 .ro false false .none 0 4294967295 0,
  scalar 0x2110 0x2110 2 3 .u32 .ro false false .none 0 4294967295 0,
  scalar 0x2111 0x2111 0 7 .u32 .ro false false .chan 0 4294967295 0,
  scalar 0x2112 0x2112 0 7 .u64 .ro false false .chan 0 18446744073709551615 0,
  scalar 0x2113 0x2113 0 7 .u32 .ro false false .chan 0 4294967295 0,
  scalar 0x2114 0x2114 1 1 .u32 .ro false false .none 0 4294967295 0,
  scalar 0x2115 0x2115 0 7 .u32 .ro false false .chan 0 4294967295 0,
  block 0x2116 0x2116 0 7 .table .ro false false .chan 4 16 16,
  scalar 0x2120 0x2120 1 1 .u64 .ro true false .none 0 18446744073709551615 0,
  scalar 0x2121 0x2121 1 1 .u32 .ro false false .none 0 4294967295 0,
  scalar 0x2121 0x2121 2 2 .u32 .ro false false .none 0 4294967295 0,
  scalar 0x2200 0x2200 1 1 .u8 .ro false false .none 0 255 0,
  scalar 0x2200 0x2200 2 2 .u8 .ro false false .none 0 255 0,
  scalar 0x2200 0x2200 3 3 .u16 .ro false false .none 0 65535 0,
  scalar 0x2201 0x2201 1 1 .bool .rwp true false .none 0 1 1,
  scalar 0x2201 0x2201 2 2 .u8 .rwp true false .none 16 255 45,
  scalar 0x2201 0x2201 3 3 .u32 .ro false false .none 0 4294967295 0,
  scalar 0x2201 0x2201 4 4 .u32 .rwp true false .none 60 2592000 86400,
  scalar 0x2201 0x2201 5 5 .u32 .ro false false .none 0 4294967295 0,
  scalar 0x2201 0x2201 6 6 .u32 .ro false false .none 0 4294967295 0,
  scalar 0x2202 0x2202 0 3 .u32 .ro false false .none 0 4294967295 0,
  scalar 0x2203 0x2203 0 3 .u32 .ro false false .none 0 4294967295 0,
  scalar 0x2204 0x2204 0 3 .u32 .ro false false .none 0 4294967295 0,
  block 0x2205 0x2205 1 1 .table .ro false false .none 16 0 32,
  scalar 0x2205 0x2205 2 2 .bool .wo false false .none 0 1 0,
  scalar 0x2205 0x2205 3 3 .u32 .ro false false .none 0 4294967295 0,
  scalar 0x2206 0x2206 0 3 .u16 .ro false false .none 0 65535 0,
  scalar 0x2207 0x2207 0 3 .u32 .ro false false .none 0 4294967295 0,
  scalar 0x2300 0x2300 1 1 .u8 .rwp true false .none 0 2 0,
  scalar 0x2300 0x2300 2 2 .u8 .ro false false .none 0 255 0,
  scalar 0x2300 0x2300 3 3 .u16 .rwp true false .none 1 128 128,
  scalar 0x2300 0x2300 4 4 .u16 .rwp true false .none 4 64 32,
  scalar 0x2300 0x2300 5 5 .u8 .rwp true false .none 0 64 64,
  scalar 0x2300 0x2300 6 6 .u16 .rwp true false .none 100 10000 1000,
  scalar 0x2310 0x2310 1 5 .u32 .ro false false .none 0 4294967295 0,
  scalar 0x2311 0x2311 1 1 .u64 .ro false false .none 0 18446744073709551615 0,
  scalar 0x2311 0x2311 2 2 .u64 .ro false false .none 0 18446744073709551615 0,
  scalar 0x2311 0x2311 3 3 .u64 .ro false false .none 0 18446744073709551615 0,
  scalar 0x2311 0x2311 4 4 .u64 .ro false false .none 0 18446744073709551615 0]

/-- The objects from PREFETCHES (0x2311) to CAPTURE_CTRL (0x4010). -/
def objects2 : List Obj := [
  scalar 0x2311 0x2311 5 5 .u64 .ro false false .none 0 18446744073709551615 0,
  scalar 0x2312 0x2312 1 1 .u16 .ro false false .none 0 65535 0,
  scalar 0x2312 0x2312 2 2 .u32 .ro false false .none 0 4294967295 0,
  scalar 0x2312 0x2312 3 3 .u32 .ro false false .none 0 4294967295 0,
  scalar 0x2312 0x2312 4 4 .u32 .ro false false .none 0 4294967295 0,
  scalar 0x2312 0x2312 5 5 .u32 .ro false false .none 0 4294967295 0,
  scalar 0x2312 0x2312 6 6 .u32 .ro false false .none 0 4294967295 0,
  scalar 0x3000 0x3000 1 1 .u8 .rwp true false .none 1 2 2,
  scalar 0x3000 0x3000 2 2 .u8 .rwp true false .none 0 255 255,
  scalar 0x3000 0x3000 3 3 .u32 .rwp true false .none 0 4294967295 2004318071,
  scalar 0x3000 0x3000 4 4 .u16 .rwp true true .none 360 1024 720,
  scalar 0x3000 0x3000 5 5 .u16 .rwp true true .none 5400 7200 7200,
  scalar 0x3000 0x3000 6 6 .u8 .rwp true true .none 0 1 0,
  scalar 0x3000 0x3000 7 7 .u64 .ro false false .none 0 18446744073709551615 0,
  scalar 0x3000 0x3000 8 8 .u32 .ro false false .none 0 4294967295 0,
  scalar 0x3000 0x3000 9 9 .u32 .ro false false .none 0 4294967295 0,
  scalar 0x3001 0x3001 0 31 .u8 .rwp true false .head 0 255 0,
  scalar 0x3010 0x3010 1 1 .u16 .rwp true false .none 0 10000 1500,
  scalar 0x3010 0x3010 2 2 .u8 .rwp true false .none 1 64 8,
  scalar 0x3010 0x3010 3 3 .u8 .rwp true false .none 10 60 30,
  block 0x3100 0x3100 0 31 .table .rwp true true .head 32 1 64,
  block 0x3110 0x3110 0 31 .table .rwp true false .head 8 0 131072,
  block 0x3111 0x3111 0 31 .table .ro true false .head 8 0 131072,
  scalar 0x3120 0x3120 1 1 .u8 .rwp true false .none 0 1 0,
  scalar 0x3120 0x3120 2 2 .u32 .const true false .none 0 4294967295 4096,
  scalar 0x3130 0x3130 1 1 .u8 .rw false false .none 0 255 1,
  scalar 0x3130 0x3130 2 2 .u32 .rw false false .none 0 4294967295 0,
  scalar 0x3130 0x3130 3 3 .u32 .ro false false .none 0 4294967295 4294967295,
  scalar 0x4000 0x4000 1 1 .u16 .rwp true false .none 200 800 400,
  scalar 0x4000 0x4000 2 2 .u16 .rwp true false .none 0 65535 3915,
  scalar 0x4000 0x4000 3 3 .u16 .rwp true true .none 10 400 40,
  scalar 0x4000 0x4000 4 4 .u8 .rwp true true .none 64 255 192,
  scalar 0x4000 0x4000 5 5 .u8 .rwp true true .none 1 16 2,
  scalar 0x4000 0x4000 6 6 .u8 .rwp true true .none 0 255 64,
  scalar 0x4000 0x4000 7 7 .u8 .rwp true true .none 8 128 32,
  scalar 0x4000 0x4000 8 8 .u8 .rwp true true .none 16 224 64,
  scalar 0x4000 0x4000 9 9 .u8 .rwp true true .none 2 25 10,
  scalar 0x4000 0x4000 10 10 .u8 .rwp true true .none 0 6 2,
  scalar 0x4000 0x4000 11 11 .u16 .rwp true true .none 40 2000 200,
  scalar 0x4000 0x4000 12 12 .u8 .rwp true true .none 1 16 2,
  block 0x4001 0x4001 0 31 .table .rwp true true .head 32 1 1,
  scalar 0x4002 0x4002 0 31 .u32 .ro false false .head 0 4294967295 4294967295,
  scalar 0x4003 0x4003 0 7 .u16 .ro false false .chan 0 65535 65535,
  scalar 0x4004 0x4004 0 7 .u16 .ro false false .chan 0 65535 0,
  scalar 0x4005 0x4005 0 7 .u32 .ro false false .chan 0 4294967295 0,
  scalar 0x4006 0x4006 0 7 .u32 .ro false false .chan 0 4294967295 0,
  scalar 0x4007 0x4007 0 7 .u32 .ro false false .chan 0 4294967295 0,
  scalar 0x4010 0x4010 1 1 .u8 .rw false false .none 0 2 0]

/-- The objects from CAPTURE_MASK (0x4010) to SM1_DIST_HIST (0x5032). -/
def objects3 : List Obj := [
  scalar 0x4010 0x4010 2 2 .u8 .rw false false .none 0 255 0,
  scalar 0x4010 0x4010 3 3 .u8 .rw false false .none 1 255 1,
  scalar 0x4010 0x4010 4 4 .u32 .ro false false .none 0 4294967295 0,
  scalar 0x4010 0x4010 5 5 .u32 .ro false false .none 0 4294967295 0,
  block 0x4011 0x4011 0 7 .blob .ro false false .chan 32 0 0,
  block 0x4012 0x4012 1 1 .blob .ro false false .none 1048576 0 0,
  scalar 0x4100 0x4100 1 1 .u16 .rwp true false .none 100 10000 2000,
  scalar 0x4100 0x4100 2 2 .u16 .rwp true false .none 1000 60000 20000,
  scalar 0x4100 0x4100 3 3 .u8 .rwp true true .none 5 200 40,
  scalar 0x4101 0x4101 1 1 .u8 .ro false false .none 0 255 100,
  scalar 0x4102 0x4102 0 7 .u16 .ro false false .chan 0 65535 0,
  scalar 0x4103 0x4103 0 7 .u8 .ro false false .chan 0 255 0,
  block 0x4110 0x4117 1 1 .table .rwp true true .chanIndex 64 1 1,
  block 0x4110 0x4117 2 2 .table .rwp true true .chanIndex 48 14 14,
  block 0x4110 0x4117 3 3 .table .rwp true true .chanIndex 8 32 32,
  block 0x4120 0x4127 1 4 .table .rwp true true .chanIndex 112 1 1,
  scalar 0x4130 0x4130 0 7 .u32 .ro false false .chan 0 4294967295 0,
  scalar 0x4131 0x4131 0 7 .u32 .ro false false .chan 0 4294967295 0,
  scalar 0x4132 0x4132 0 7 .u32 .ro false false .chan 0 4294967295 0,
  scalar 0x4133 0x4133 0 7 .u16 .ro false false .chan 0 65535 0,
  scalar 0x4134 0x4134 0 7 .u32 .ro false false .chan 0 4294967295 0,
  scalar 0x4135 0x4135 0 7 .u32 .ro false false .chan 0 4294967295 0,
  scalar 0x4136 0x4136 0 7 .u32 .ro false false .chan 0 4294967295 0,
  scalar 0x5000 0x5000 1 1 .u8 .rwp true true .none 4 32 12,
  scalar 0x5000 0x5000 2 2 .u8 .rwp true true .none 0 4 2,
  scalar 0x5000 0x5000 3 3 .u8 .rwp true true .none 4 32 12,
  scalar 0x5000 0x5000 4 4 .u8 .rwp true true .none 0 4 2,
  scalar 0x5000 0x5000 5 5 .u8 .rwp true true .none 1 12 12,
  scalar 0x5000 0x5000 6 6 .u8 .rwp true true .none 1 48 48,
  scalar 0x5000 0x5000 7 7 .u8 .rwp true false .none 1 32 16,
  scalar 0x5000 0x5000 8 8 .u16 .rwp true false .none 50 5000 600,
  scalar 0x5000 0x5000 9 9 .u8 .rwp true false .none 0 32 2,
  scalar 0x5000 0x5000 10 10 .u8 .rwp true false .none 1 8 1,
  scalar 0x5000 0x5000 11 11 .u8 .rwp true false .none 0 15 15,
  scalar 0x5000 0x5000 12 12 .u32 .rwp true false .none 0 4294967295 1061043516,
  scalar 0x5000 0x5000 13 13 .u16 .rwp true false .none 10 10000 200,
  scalar 0x5000 0x5000 14 14 .u8 .rwp true true .none 8 120 40,
  scalar 0x5000 0x5000 15 15 .u8 .rwp true true .none 2 64 8,
  scalar 0x5000 0x5000 16 16 .u8 .rwp true true .none 0 255 32,
  scalar 0x5000 0x5000 17 17 .u16 .rwp true true .none 0 4096 256,
  scalar 0x5000 0x5000 18 18 .u8 .rwp true true .none 2 32 10,
  block 0x5001 0x5001 1 1 .table .rwp true false .none 1 1 33,
  block 0x5010 0x5010 0 63 .table .rwp true true .none 32 1 1,
  block 0x5020 0x5020 0 31 .table .rwp true true .head 320 1 64,
  block 0x5021 0x5021 0 31 .table .rwp true true .head 16 1 1,
  scalar 0x5030 0x5030 0 7 .u64 .ro false false .chan 0 18446744073709551615 0,
  scalar 0x5031 0x5031 0 7 .u32 .ro false false .chan 0 4294967295 0,
  block 0x5032 0x5032 0 7 .table .ro false false .chan 4 6 6]

/-- The objects from RECOVERED_AT (0x5033) to CRIT_HOLD (0x6010). -/
def objects4 : List Obj := [
  block 0x5033 0x5033 0 7 .table .ro false false .chan 4 6 6,
  scalar 0x5034 0x5034 0 7 .u32 .ro false false .chan 0 4294967295 0,
  scalar 0x5035 0x5035 0 7 .u32 .ro false false .chan 0 4294967295 0,
  scalar 0x5036 0x5036 0 7 .u32 .ro false false .chan 0 4294967295 0,
  block 0x5037 0x5037 0 7 .table .ro false false .chan 4 13 13,
  scalar 0x5038 0x5038 0 7 .u32 .ro false false .chan 0 4294967295 0,
  scalar 0x5039 0x5039 0 7 .u32 .ro false false .chan 0 4294967295 0,
  scalar 0x5040 0x5040 1 1 .u8 .rw false false .none 0 127 0,
  block 0x5040 0x5040 2 2 .blob .rp false false .none 98368 0 0,
  scalar 0x5040 0x5040 3 3 .bool .rwp false false .none 0 1 0,
  scalar 0x5100 0x5100 1 1 .u8 .rwp true false .none 1 8 3,
  scalar 0x5100 0x5100 2 2 .u16 .rwp true false .none 20 5000 200,
  scalar 0x5100 0x5100 3 3 .u8 .rwp true false .none 1 12 6,
  scalar 0x5100 0x5100 4 4 .u8 .rwp true false .none 1 4 2,
  scalar 0x5100 0x5100 5 5 .bool .rwp true true .none 0 1 1,
  scalar 0x5100 0x5100 6 6 .u8 .rwp true false .none 1 16 3,
  block 0x5101 0x5101 0 7 .table .rwp true false .chan 32 1 1,
  block 0x5102 0x5102 0 31 .table .rwp true true .head 16 1 1,
  block 0x5103 0x5103 0 31 .table .rwp true true .head 32 1 1,
  scalar 0x5104 0x5104 0 31 .i16 .ro false false .head (-32768) 32767 0,
  scalar 0x5105 0x5105 1 1 .u8 .ro false false .none 0 255 100,
  scalar 0x5106 0x5106 0 7 .u8 .ro false false .chan 0 255 0,
  scalar 0x5110 0x5110 0 7 .u64 .ro false false .chan 0 18446744073709551615 0,
  scalar 0x5111 0x5111 0 7 .u32 .ro false false .chan 0 4294967295 0,
  scalar 0x5112 0x5112 0 7 .u32 .ro false false .chan 0 4294967295 0,
  scalar 0x5113 0x5113 0 7 .u32 .ro false false .chan 0 4294967295 0,
  scalar 0x5114 0x5114 0 7 .u32 .ro false false .chan 0 4294967295 0,
  scalar 0x5115 0x5115 0 7 .u32 .ro false false .chan 0 4294967295 0,
  scalar 0x5116 0x5116 0 7 .u32 .ro false false .chan 0 4294967295 0,
  scalar 0x5117 0x5117 0 7 .u16 .ro false false .chan 0 65535 0,
  scalar 0x5118 0x5118 0 7 .u32 .ro false false .chan 0 4294967295 0,
  scalar 0x5119 0x5119 0 7 .u32 .ro false false .chan 0 4294967295 0,
  scalar 0x511A 0x511A 0 7 .u32 .ro false false .chan 0 4294967295 0,
  scalar 0x6000 0x6000 1 1 .u16 .rwp true false .none 0 2047 1280,
  scalar 0x6000 0x6000 2 2 .u8 .rwp true false .none 0 10 8,
  scalar 0x6000 0x6000 3 3 .u32 .rwp true false .none 0 4294967295 1985229328,
  scalar 0x6001 0x6001 0 10 .i16 .ro false false .none (-32768) 32767 0,
  scalar 0x6002 0x6002 0 10 .i16 .ro false false .none (-32768) 32767 0,
  block 0x6003 0x6003 0 10 .table .rwp true false .none 16 1 1,
  scalar 0x6004 0x6004 0 10 .u8 .ro false false .none 0 255 0,
  scalar 0x6010 0x6010 1 1 .u8 .ro false false .none 0 255 0,
  scalar 0x6010 0x6010 2 2 .u16 .rwp true false .none 2000 60000 2000,
  scalar 0x6010 0x6010 3 3 .u16 .rwp true false .none 2000 60000 10000,
  scalar 0x6010 0x6010 4 4 .u8 .rwp true false .none 16 160 48,
  scalar 0x6010 0x6010 5 5 .u32 .rwp true false .none 100 1000000 8000,
  scalar 0x6010 0x6010 6 6 .u32 .rwp true false .none 0 4294967295 800,
  scalar 0x6010 0x6010 7 7 .u32 .rwp true false .none 10 4294967295 400,
  scalar 0x6010 0x6010 8 8 .u16 .rwp true false .none 5 600 60]

/-- The objects from ADMIT_NOW (0x6010) to ERASE_FAILS (0x7022). -/
def objects5 : List Obj := [
  scalar 0x6010 0x6010 9 9 .u32 .ro false false .none 0 4294967295 0,
  scalar 0x6010 0x6010 10 10 .u32 .ro false false .none 0 4294967295 0,
  scalar 0x6020 0x6020 1 1 .i16 .rwp true false .none (-640) 32767 0,
  scalar 0x6020 0x6020 2 2 .i16 .rwp true false .none (-32768) 1600 1120,
  scalar 0x6020 0x6020 3 3 .u8 .rwp true false .none 0 64 32,
  scalar 0x6020 0x6020 4 4 .bool .ro false false .none 0 1 0,
  scalar 0x6020 0x6020 5 5 .u32 .ro false false .none 0 4294967295 0,
  scalar 0x6100 0x6100 1 1 .u8 .rwp true false .none 16 255 80,
  scalar 0x6100 0x6100 2 2 .u8 .rwp true false .none 5 100 25,
  scalar 0x6100 0x6100 3 3 .u8 .rwp true false .none 1 50 5,
  scalar 0x6100 0x6100 4 4 .u8 .rwp true false .none 4 30 12,
  scalar 0x6100 0x6100 5 5 .u8 .rwp true false .none 32 240 160,
  scalar 0x6100 0x6100 6 6 .u8 .rwp true false .none 0 20 5,
  scalar 0x6100 0x6100 7 7 .u8 .rwp true false .none 16 160 48,
  scalar 0x6100 0x6100 8 8 .u16 .rwp true false .none 1 4096 450,
  scalar 0x6100 0x6100 9 9 .u8 .rwp true false .none 6 20 12,
  scalar 0x6100 0x6100 10 10 .u16 .rwp true false .none 512 65535 4096,
  scalar 0x6100 0x6100 11 11 .u32 .rwp true false .none 100000 1000000000 1000000,
  scalar 0x6100 0x6100 12 12 .u16 .rwp true false .none 1 10000 50,
  scalar 0x6100 0x6100 13 13 .u16 .rwp true false .none 1 10000 5,
  scalar 0x6100 0x6100 14 14 .u8 .rwp true false .none 0 63 63,
  scalar 0x6101 0x6101 1 6 .u16 .rwp true false .none 1 8760 0,
  block 0x6102 0x6102 0 31 .table .ro true false .head 32 1 1,
  scalar 0x6103 0x6103 1 1 .u8 .rwp false false .none 0 31 0,
  scalar 0x6103 0x6103 2 2 .u8 .wo false false .none 0 63 0,
  scalar 0x6104 0x6104 0 7 .u32 .ro false false .chan 0 4294967295 0,
  scalar 0x6105 0x6105 0 7 .u32 .ro false false .chan 0 4294967295 0,
  scalar 0x7000 0x7000 0 1 .u16 .ro true false .none 0 65535 0,
  scalar 0x7001 0x7001 0 1 .u16 .ro true false .none 0 65535 0,
  block 0x7002 0x7002 1 1 .table .ro true false .none 8 10 10,
  scalar 0x7010 0x7010 1 1 .u16 .rwp true false .none 3000 60000 9000,
  scalar 0x7010 0x7010 2 2 .u8 .rwp true false .none 50 100 88,
  scalar 0x7010 0x7010 3 3 .u16 .rwp true false .none 100 5000 700,
  scalar 0x7010 0x7010 4 4 .u16 .rwp true false .none 150 1000 200,
  scalar 0x7010 0x7010 5 5 .u16 .rwp true false .none 5 100 20,
  scalar 0x7010 0x7010 6 6 .bool .ro false false .none 0 1 0,
  scalar 0x7010 0x7010 7 7 .u32 .ro false false .none 0 4294967295 0,
  scalar 0x7010 0x7010 8 8 .u32 .ro false false .none 0 4294967295 0,
  scalar 0x7011 0x7011 0 1 .u8 .ro false false .none 0 255 4,
  scalar 0x7012 0x7012 1 1 .u64 .ro true false .none 0 18446744073709551615 0,
  scalar 0x7012 0x7012 2 2 .u32 .ro true false .none 0 4294967295 0,
  scalar 0x7012 0x7012 3 3 .u32 .ro true false .none 0 4294967295 0,
  scalar 0x7012 0x7012 4 4 .u32 .ro false false .none 0 4294967295 0,
  scalar 0x7020 0x7020 1 1 .u8 .rwp true false .none 10 100 40,
  scalar 0x7020 0x7020 2 2 .u8 .rwp true false .none 1 8 4,
  scalar 0x7021 0x7021 0 9 .u32 .ro false false .none 0 4294967295 0,
  scalar 0x7022 0x7022 1 1 .u32 .ro true false .none 0 4294967295 0,
  scalar 0x7022 0x7022 2 2 .u32 .ro true false .none 0 4294967295 0]

/-- The objects from REFUSED_PROGRAMS (0x7022) to LOG_PENDING (0x7202). -/
def objects6 : List Obj := [
  scalar 0x7022 0x7022 3 3 .u32 .ro false false .none 0 4294967295 0,
  scalar 0x7022 0x7022 4 4 .u32 .ro true false .none 0 4294967295 0,
  scalar 0x7030 0x7030 1 1 .u16 .rwp true false .none 64 1024 256,
  scalar 0x7030 0x7030 2 2 .u16 .rwp true false .none 5 1440 60,
  scalar 0x7030 0x7030 3 3 .u64 .ro true false .none 0 18446744073709551615 0,
  scalar 0x7040 0x7040 1 1 .u32 .ro false false .none 0 4294967295 0,
  scalar 0x7040 0x7040 2 2 .u32 .ro false false .none 0 4294967295 0,
  scalar 0x7040 0x7040 3 3 .u16 .ro false false .none 0 65535 0,
  scalar 0x7050 0x7050 1 1 .u16 .rwp false false .none 0 682 0,
  scalar 0x7050 0x7050 2 2 .u16 .rwp false false .none 0 383 0,
  scalar 0x7050 0x7050 3 3 .u8 .rwp false false .none 1 3 0,
  block 0x7050 0x7050 4 4 .blob .rwp false false .none 16384 0 0,
  block 0x7050 0x7050 5 5 .blob .rp false false .none 16384 0 0,
  scalar 0x7050 0x7050 6 6 .u8 .ro false false .none 0 255 0,
  scalar 0x7050 0x7050 7 7 .bool .ro false false .none 0 1 0,
  scalar 0x7060 0x7060 1 1 .u8 .rwp false false .none 0 1 255,
  scalar 0x7100 0x7100 1 1 .u8 .ro false false .none 0 255 0,
  scalar 0x7100 0x7100 2 2 .u64 .ro true false .none 0 18446744073709551615 0,
  scalar 0x7100 0x7100 3 3 .u8 .ro true false .none 0 255 255,
  scalar 0x7100 0x7100 4 4 .u32 .ro false false .none 0 4294967295 0,
  scalar 0x7100 0x7100 5 5 .u32 .ro false false .none 0 4294967295 0,
  scalar 0x7100 0x7100 6 6 .u16 .rwp true false .none 1 8760 168,
  scalar 0x7100 0x7100 7 7 .u32 .ro false false .none 0 4294967295 0,
  scalar 0x7100 0x7100 8 8 .bool .wo false false .none 0 1 0,
  scalar 0x7100 0x7100 9 9 .u32 .rwp true false .none 0 4294967295 0,
  scalar 0x7101 0x7101 1 1 .u32 .rwp false false .none 0 4294967295 0,
  block 0x7101 0x7101 2 2 .blob .wo false false .none 1048576 0 0,
  block 0x7101 0x7101 3 3 .blob .ro false false .none 131072 0 0,
  scalar 0x7102 0x7102 1 1 .u8 .wo false false .none 0 3 0,
  scalar 0x7102 0x7102 2 2 .u8 .rwp false false .none 0 2 0,
  scalar 0x7102 0x7102 3 3 .u32 .ro false false .none 0 4294967295 0,
  block 0x7103 0x7103 0 1 .table .ro true false .none 32 1 1,
  scalar 0x7104 0x7104 1 1 .u32 .ro false false .none 0 4294967295 0,
  scalar 0x7104 0x7104 2 2 .u32 .ro false false .none 0 4294967295 0,
  scalar 0x7104 0x7104 3 3 .u32 .ro false false .none 0 4294967295 0,
  scalar 0x7104 0x7104 4 4 .u32 .ro true false .none 0 4294967295 0,
  scalar 0x7104 0x7104 5 5 .u32 .ro true false .none 0 4294967295 0,
  scalar 0x7200 0x7200 1 1 .u8 .rwp true false .none 0 1 0,
  scalar 0x7200 0x7200 2 2 .u8 .rw false false .none 0 1 0,
  scalar 0x7200 0x7200 3 3 .u16 .rwp true false .none 1 3600 60,
  scalar 0x7201 0x7201 1 1 .u32 .ro true false .none 0 4294967295 0,
  block 0x7201 0x7201 2 2 .blob .ro false false .none 131136 0 0,
  scalar 0x7201 0x7201 3 3 .u32 .ro false false .none 0 4294967295 0,
  scalar 0x7201 0x7201 4 4 .u32 .ro false false .none 0 4294967295 0,
  scalar 0x7202 0x7202 1 1 .u32 .rwp false false .none 0 4294967295 0,
  block 0x7202 0x7202 2 2 .blob .rp false false .none 16384 0 0,
  scalar 0x7202 0x7202 3 3 .u32 .ro true false .none 0 4294967295 0,
  scalar 0x7202 0x7202 4 4 .u16 .ro false false .none 0 65535 0]

/-- The objects from PERM_WINDOW (0x7300) to VAULT_LOSSES (0x7310). -/
def objects7 : List Obj := [
  scalar 0x7300 0x7300 1 1 .u16 .rwp true false .none 1 720 24,
  scalar 0x7300 0x7300 2 2 .u8 .rwp true false .none 1 4 3,
  scalar 0x7300 0x7300 3 3 .u8 .rwp true false .none 1 4 3,
  scalar 0x7300 0x7300 4 4 .u8 .rwp true false .none 1 4 3,
  scalar 0x7300 0x7300 5 5 .u8 .rwp true false .none 0 7 7,
  scalar 0x7300 0x7300 6 6 .u8 .rwp true false .none 1 16 3,
  scalar 0x7300 0x7300 7 7 .u8 .rwp true false .none 1 16 3,
  scalar 0x7300 0x7300 8 8 .u16 .rwp true false .none 4 65535 64,
  scalar 0x7300 0x7300 9 9 .u16 .rwp true false .none 10 60000 1000,
  scalar 0x7300 0x7300 10 10 .u16 .rwp true false .none 500 60000 5000,
  scalar 0x7300 0x7300 11 11 .u16 .rwp true false .none 10 60000 1000,
  scalar 0x7301 0x7301 1 1 .u64 .ro true false .none 0 18446744073709551615 0,
  scalar 0x7301 0x7301 2 2 .u32 .ro true false .none 0 4294967295 0,
  scalar 0x7301 0x7301 3 3 .u32 .ro true false .none 0 4294967295 0,
  scalar 0x7301 0x7301 4 4 .u8 .ro true false .none 0 255 0,
  scalar 0x7302 0x7302 1 1 .u16 .wo false false .none 0 65535 0,
  scalar 0x7302 0x7302 2 2 .bool .rwp false false .none 0 1 0,
  block 0x7303 0x7303 0 31 .table .ro true false .head 32 1 1,
  block 0x7304 0x7304 0 7 .table .ro true false .chan 32 1 1,
  block 0x7305 0x7305 0 63 .table .ro true false .reader 32 1 1,
  scalar 0x7310 0x7310 1 1 .u32 .ro true false .none 0 4294967295 0,
  scalar 0x7310 0x7310 2 2 .u32 .ro true false .none 0 4294967295 0,
  scalar 0x7310 0x7310 3 3 .u32 .ro true false .none 0 4294967295 0,
  scalar 0x7310 0x7310 4 4 .u32 .ro true false .none 0 4294967295 0,
  scalar 0x7310 0x7310 5 5 .u32 .ro true false .none 0 4294967295 0,
  scalar 0x7310 0x7310 6 6 .u32 .ro true false .none 0 4294967295 0]

/-- Every object of the tables. -/
def objects : List Obj :=
  objects0 ++ objects1 ++ objects2 ++ objects3 ++ objects4 ++ objects5 ++ objects6 ++ objects7

/-! ## Defaults of the objects that are not scalars -/

/-- A recording-zone record (spec 04, Table 4.2), less its reserved bytes. -/
structure ZoneRec where
  start : Nat
  tracks : Nat
  wdb : Nat
  n : Nat
  rate : Nat
  pitch : Nat
  skew : Nat
  bandTracks : Nat
  guard : Nat
  kind : Nat
  set : Nat
deriving DecidableEq, Repr

/-- The 32 bytes of a recording-zone record (Table 4.2). -/
def ZoneRec.bytes (z : ZoneRec) : List Byte :=
  leBytes 4 z.start ++ leBytes 4 z.tracks ++ leBytes 4 z.wdb ++ leBytes 2 z.n ++ leBytes 2 z.rate ++ leBytes 2 z.pitch
    ++ leBytes 2 z.skew ++ leBytes 2 z.bandTracks ++ leBytes 1 z.guard ++ leBytes 1 z.kind ++ leBytes 8 z.set

/-- A recording-zone record read from its bytes (Table 4.2). -/
def ZoneRec.of (r : List Byte) : ZoneRec :=
  ⟨fieldU r 0 4, fieldU r 4 4, fieldU r 8 4, fieldU r 12 2, fieldU r 14 2, fieldU r 16 2, fieldU r 18 2, fieldU r 20 2,
    fieldU r 22 1, fieldU r 23 1, fieldU r 24 1⟩

/-- The bands of the RD-96 recording zones 2 to 62, whose sum Table 4.8 fixes and whose split the manual does not print
(DESIGN CHOICE, log 13). -/
def rd96Bands : List Nat :=
  [245, 245, 244, 244, 244, 244, 244, 243, 243, 243, 243, 243,
   242, 242, 242, 242, 241, 241, 241, 240, 240, 240, 240, 239, 239, 239,
   238, 238, 237, 237, 237, 236, 236, 234, 233, 233, 233, 232, 232, 232,
   231, 231, 230, 230, 229, 229, 228, 228, 228, 227, 227, 226, 225, 225, 225, 225, 225, 225, 225, 225, 225]

/-- N of a window of `wdb` bits at 720 wedges: the largest that the fit rule of spec 04, R110 allows. -/
def fitSectors (wdb : Nat) : Nat := (720 * wdb - 48 * 719) / 37304

/-- BAND_TRACKS: the least that condition 5 of spec 04, R108 allows for N sectors a track, within 512 tracks. -/
def fitBandTracks (n : Nat) : Nat :=
  (firstFrom (fun b => 65536 ≤ b * n - ceilDiv (4 * (b * n)) 1000) 512 1).getD 0

/-- The RD-96 recording zones 2 to 62 from servo track `start` on, at rates falling by 40 Mbit/s (log 13). -/
def rd96Middle : Nat → Nat → List Nat → List ZoneRec
  | _, _, [] => []
  | start, rate, b :: bs =>
    let wdb := rate * 52 / 5
    let n := fitSectors wdb
    let bt := fitBandTracks n
    ⟨start, b * (bt + 1), wdb, n, rate, 256, 72, bt, 1, 2, 0⟩ :: rd96Middle (start + b * (bt + 1)) (rate - 40) bs

/-- The 64 recording zones of the RD-96 (spec 04, Table 4.3 for zones 0, 1 and 63; log 13 for the rest). -/
def rd96Zones : List ZoneRec :=
  ⟨256, 8832, 49920, 962, 4800, 346, 72, 69, 0, 1, 0⟩ :: ⟨12193, 16520, 49920, 962, 4800, 256, 72, 69, 1, 2, 0⟩
    :: rd96Middle 28713 4760 rd96Bands ++ [⟨1421604, 26508, 24440, 470, 2350, 256, 72, 140, 1, 2, 0⟩]

/-- Sixteen taps with 2,048 at tap 7 (spec 07, R226). -/
def eqTaps : List Byte := List.replicate 14 0 ++ leBytes 2 2048 ++ List.replicate 16 0

/-- A HEAD_EQ record at the factory default (spec 07, R226). -/
def eqDefault : List Byte := (List.replicate 10 eqTaps).flatten

/-- CHANNEL_SET `k` (spec 07, Table 7.10): set 0 of the RD-96, whose values are not printed (DESIGN CHOICE, log 14); 60 and 61 with
the boost raised and lowered by 2 dB, 62 and 63 with both tracking gains doubled and halved (after Table 7.8). -/
def channelSetDefault (k : Nat) : List Byte :=
  let boost := if k = 60 then 16 else if k = 61 then 8 else 12
  let kp := if k = 62 then 7 else if k = 63 then 9 else 8
  let ki := if k = 62 then 13 else if k = 63 then 15 else 14
  [120, 102, BitVec.ofNat 8 boost, 8, 4, 10, BitVec.ofNat 8 kp, BitVec.ofNat 8 ki, 3, 8, 64, 0] ++ leBytes 2 512 ++ leBytes 2 256
    ++ leInt 2 (-256) ++ leInt 2 (-128) ++ leBytes 2 128 ++ leBytes 2 64 ++ [16, 12] ++ List.replicate 6 0

/-- CE_HEADER (spec 06, Table 6.5; the RD-96 values are not printed: DESIGN CHOICE, log 15). -/
def ceHeaderDefault : List Byte :=
  [0, 0, 1, 8] ++ leBytes 2 30000 ++ leBytes 2 30000 ++ leBytes 2 128 ++ leBytes 2 40 ++ leBytes 2 26 ++ [10, 16]
    ++ leBytes 4 2048 ++ leBytes 4 4096 ++ leBytes 4 1 ++ [0, 0] ++ leBytes 2 4000 ++ List.replicate 32 0

/-- A section with c0 = 1 and every other coefficient 0 (log 15). -/
def unitSection : List Byte := leBytes 4 1 ++ List.replicate 44 0

/-- SEEK_PROFILE (spec 06, Table 6.7; log 15). -/
def seekProfileDefault : List Byte :=
  ((List.range 32).map (fun k => leBytes 4 (1024 * (k + 1) * (k + 1)) ++ leBytes 4 (256 * (k + 1)))).flatten

/-- SEEK_TIME: the three entries spec 11 prints, then a filler that rises to the full stroke (DESIGN CHOICE, log 16). -/
def seekTimeDefault : List Byte :=
  (([(500, 9), (2000, 31), (40000, 96)] ++
    (List.range 29).map (fun k => (40000 + 50000 * (k + 1), 96 + 12 * (k + 1)))).map
    (fun (p : Nat × Nat) => leBytes 4 p.1 ++ leBytes 4 p.2)).flatten

/-- SENSOR_LIMITS of sensor `j` (spec 09, Tables 9.2 and 9.5). -/
def sensorLimitsDefault (j : Nat) : List Byte :=
  let l : Nat × Nat × Nat × Nat := if j < 8 then (85, 95, 110, 10) else if j < 10 then (60, 65, 75, 5) else (100, 105, 115, 20)
  leBytes 2 (16 * l.1) ++ leBytes 2 (16 * l.2.1) ++ leBytes 2 (16 * l.2.2.1) ++ leBytes 2 (16 * l.2.2.2) ++ leBytes 2 0
    ++ leBytes 2 1008 ++ leBytes 2 10000 ++ leBytes 2 3435

/-- POWER_STATE of PS`k` (spec 10, Table 10.8). -/
def powerStateDefault (k : Nat) : List Byte :=
  let v : Nat × Nat × Nat × Nat :=
    if k = 0 then (1200, 0, 0, 410) else if k = 1 then (1200, 0, 550000, 300) else (160, 10000000, 25000000, 0)
  leBytes 2 v.1 ++ leBytes 2 0 ++ leBytes 4 v.2.1 ++ leBytes 4 v.2.2.1 ++ leBytes 2 v.2.2.2 ++ leBytes 2 0

/-- PA_PROFILE (spec 08, Table 8.6): a laser profile whose addresses and modes the manual does not print (log 17). -/
def paProfileDefault : List Byte :=
  [1, 0, 0, 1, 2, 3, 4, 5, 6, 7] ++ leBytes 2 1 ++ leBytes 2 2 ++ leBytes 2 0 ++ leBytes 2 3 ++ leBytes 2 20
    ++ List.replicate 12 0

/-- The text "Eznedy Microsystems". -/
def vendorText : List Byte := [0x45, 0x7A, 0x6E, 0x65, 0x64, 0x79, 0x20, 0x4D, 0x69, 0x63, 0x72, 0x6F, 0x73, 0x79, 0x73, 0x74, 0x65, 0x6D, 0x73]
/-- The text "CRX8-A256-FB" or "CRX4-A128-FB". -/
def partText (crx4 : Bool) : List Byte :=
  if crx4 then [0x43, 0x52, 0x58, 0x34, 0x2D, 0x41, 0x31, 0x32, 0x38, 0x2D, 0x46, 0x42]
  else [0x43, 0x52, 0x58, 0x38, 0x2D, 0x41, 0x32, 0x35, 0x36, 0x2D, 0x46, 0x42]
/-- The text "B0" (spec 00, R5; DESIGN CHOICE, log 10). -/
def revisionText : List Byte := [0x42, 0x30]
/-- The device serial "000000000001" (DESIGN CHOICE, log 10). -/
def serialText : List Byte := [0x30, 0x30, 0x30, 0x30, 0x30, 0x30, 0x30, 0x30, 0x30, 0x30, 0x30, 0x31]

/-- Whether the default HEAD_MASK fits head `h` (spec 04, Table 4.1 and R105). -/
def headFittedByDefault (crx4 : Bool) (h : Nat) : Bool := h % 4 < 3 && (!crx4 || h < 16)

/-- The default value of an object at subindex `sub`, in bytes. -/
def defaultBytes (crx4 : Bool) (o : Obj) (sub : Nat) : List Byte :=
  match o.ty with
  | .bool | .u8 | .u16 | .u32 | .u64 | .i16 | .i32 | .qs =>
    let k := match o.ty with | .bool | .u8 => 1 | .u16 | .i16 => 2 | .u64 => 8 | .qs => 5 | _ => 4
    leInt k <|
      if o.index0 = 0x3000 then
        (if sub = 1 then (if crx4 then 1 else 2) else if sub = 2 then (if crx4 then 0x0F else 0xFF)
          else if sub = 3 then (if crx4 then 0x7777 else 0x77777777) else o.dflt)
      else if o.index0 = 0x3001 then
        (if headFittedByDefault crx4 sub then (3 * (sub / 4) + sub % 4 : Nat) else 0xFF)
      else if o.index0 = 0x6101 then
        (if sub = 3 then 72 else if sub = 4 then 720 else if sub = 6 then 24 else 168)
      else if o.index0 = 0x1000 then
        (if sub = 4 then 1 else if sub = 5 then (if crx4 then 1 else 0) else o.dflt)
      else o.dflt
  | .str =>
    if o.index0 = 0x1000 then (if sub = 1 then vendorText else if sub = 2 then partText crx4 else revisionText)
    else if o.index0 = 0x2000 then (if sub = 3 then serialText else partText crx4)
    else []
  | .blob => if o.index0 = 0x1011 then List.replicate 16 0 else []
  | .table =>
    if o.index0 = 0x2002 then powerStateDefault sub
    else if o.index0 = 0x2101 then seekTimeDefault
    else if o.index0 = 0x3100 then (rd96Zones.map ZoneRec.bytes).flatten
    else if o.index0 = 0x4001 then leBytes 4 0 ++ leBytes 2 2400 ++ List.replicate 26 0
    else if o.index0 = 0x4110 then
      (if sub = 1 then ceHeaderDefault else if sub = 2 then (List.replicate 14 unitSection).flatten else seekProfileDefault)
    else if o.index0 = 0x4120 then 0xFF :: List.replicate 111 0
    else if o.index0 = 0x5001 then [0x01, 0x02, 0x03, 0x31, 0x11, 0x12, 0x13, 0x21, 0x22, 0x00]
    else if o.index0 = 0x5010 then channelSetDefault sub
    else if o.index0 = 0x5020 then (List.replicate 64 eqDefault).flatten
    else if o.index0 = 0x5021 then [112, 112] ++ List.replicate 14 0
    else if o.index0 = 0x5101 then paProfileDefault
    else if o.index0 = 0x5102 then leBytes 2 64 ++ leBytes 2 32 ++ leBytes 2 16 ++ List.replicate 10 0
    else if o.index0 = 0x5103 then List.replicate 32 0
    else if o.index0 = 0x6003 then sensorLimitsDefault sub
    else []

/-- The object at an index and subindex, by the tables (spec 15, R436). -/
def objAt (index sub : Nat) : Option Obj :=
  objects.find? (fun o => o.index0 ≤ index && index ≤ o.index1 && o.sub0 ≤ sub && sub ≤ o.sub1)

/-- An index that some object of the tables has. -/
def indexExists (index : Nat) : Bool := objects.any (fun o => o.index0 ≤ index && index ≤ o.index1)

/-- Objects absent on the CRX4-A128-FB (spec 00, R2; spec 04, R105): channels 4 to 7, their heads and readers. -/
def fusedOff (crx4 : Bool) (o : Obj) (index sub : Nat) : Bool :=
  crx4 && match o.unit with
    | .none => false
    | .chan => 4 ≤ sub
    | .head => 16 ≤ sub
    | .reader => 32 ≤ sub
    | .chanIndex => 4 ≤ index - o.index0

end Sys2Proof.Machine
end

