-- ==== Sys2Proof/Machine/State.lean ====
section
/-! DEFINITION. The state of the controller as plain data: one structure for each subsystem of spec 01, Table 1.1, or
for each piece of it that a rule names, and `State` that holds them all with the queue of waiting commands. Each field's
docstring begins with the spec file and rule that names it and ends with its reset value. -/

namespace Sys2Proof.Machine

/-! ## Stops -/

/-- The reasons a step stops with a fault: none. The spec gives every operation and event an effect, so no meaning of
this model faults. -/
inductive Fault
deriving DecidableEq, Repr

/-- The reasons a step is refused. -/
inductive Refusal where
  /-- Raised by an arm of `exec` that has no meaning yet; safe: nothing is claimed of the operation. -/
  | notModelled (mnemonic : String)
deriving DecidableEq, Repr

/-! ## Power, start-up and the vault -/

/-- The start-up phases of spec 03, Table 3.1. -/
inductive Phase where
  | boot | mount | replay | spinWait | spinUp | holdupCheck | headLoad | calibrate | zoneLoad
  | ready | standby | recovery | failed
deriving DecidableEq, Repr

/-- The stages of a vault (spec 02, Table 2.11). -/
inductive VaultStage where
  | none | triggered | programming | vaulted | noVault
deriving DecidableEq, Repr

/-- The stages of a change of set speed with heads loaded (spec 01, R40): none, the sectors in progress end and the heads
unload, the spindle ramps, the heads reload. -/
inductive SpeedStage where
  | none | unloading | ramping | loading
deriving DecidableEq, Repr

/-- Power, straps, input-power sense and the start-up sequence. -/
structure Power where
  /-- [00 R1] the variant: true is the CRX4-A128-FB (VARIANT, 0x1000:05). Reset: false (DESIGN CHOICE, log 10) -/
  crx4 : Bool
  /-- [02 R63] the rails below 90 % of nominal. Reset: none -/
  railsLow : List Rail
  /-- [02 R60] the level of PORST_N (true is high). Reset: low -/
  porst : Bool
  /-- [02 R63] out of reset: PORST_N high and every monitored rail above 90 %. Reset: false -/
  running : Bool
  /-- [03 R98] a PLL or on-die memory test failed (code 0x0101): nothing runs. Reset: false -/
  dead : Bool
  /-- [02 R66] the straps as sampled. Reset: all low (DESIGN CHOICE, log 4) -/
  straps : Straps
  /-- [02 R68] HOLD_SENSE fell below its trip level and has not risen above its recovery level. Reset: false (DESIGN CHOICE, log 4) -/
  holdLow : Bool
  /-- [02 R68] dips of HOLD_SENSE shorter than 20 us. Reset: 0 -/
  dips : Nat
  /-- [02 R69] the level of PWRDIS. Reset: low (DESIGN CHOICE, log 4) -/
  pwrdis : Bool
  /-- [02 R69] PWRDIS rose after it was seen low and the 100 us deglitch runs. Reset: false -/
  pwrdisTimer : Bool
  /-- [03 R100] PWRDIS has been seen low since power good. Reset: false -/
  pwrdisSeenLow : Bool
  /-- [03 R81] STARTUP_PHASE (0x1030:01). Reset: BOOT (0x01) -/
  phase : Phase
  /-- [03 R81] STARTUP_FAULT (0x1030:02). Reset: 0x0000 -/
  fault : Word16
  /-- [03 R95, R98] the codes of the fatal failures of this start-up: the failed parts of FAILED. Reset: none -/
  failCodes : List Word16
  /-- [03 R81] READY_TIME (0x1030:03) in ms. Reset: 0 -/
  readyTime : Nat
  /-- [03 R81] RETIRED_AT_START (0x1030:04). Reset: 0x00 -/
  retiredAtStart : BitVec 8
  /-- [03 R80] the instant the present phase began, ns. Reset: 0 -/
  phaseStart : Nat
  /-- [03 R93] the instant MOUNT ended, ns. Reset: 0 -/
  mountEndAt : Nat
  /-- [03 R87, R101] the instant the stagger delay counts from, ns. Reset: 0 -/
  staggerFrom : Nat
  /-- [03 R88] failed spin-up attempts of this start-up. Reset: 0 -/
  attempts : Nat
  /-- [03 R88] braked after a failed attempt or for a drive restart: the BEMF stopped flag is awaited. Reset: false -/
  braking : Bool
  /-- [13 R399] the brake belongs to a drive restart. Reset: false -/
  restarting : Bool
  /-- [03 R93] the zone metadata load has completed. Reset: false -/
  zoneLoadDone : Bool
  /-- [10 R310] STANDBY was requested and its entry is under way. Reset: false -/
  standbyPending : Bool
  /-- [09 R264] STANDBY was entered by thermal shutdown. Reset: false -/
  thermalStop : Bool
  /-- [01 R40] the stage of a change of set speed. Reset: none -/
  speedChange : SpeedStage
  /-- [03 R97] the start-up from power good has reached neither READY nor STANDBY. Reset: true -/
  fromPower : Bool
  /-- [03 R94] BOOT has ended. Reset: false -/
  bootEnded : Bool
  /-- [02 R60, 03 R98] start-up codes sent on UART_TX, oldest first (output trace). Reset: empty -/
  uart : List Word16
  /-- [02 R77] a HOLDTEST is running. Reset: false -/
  holdTesting : Bool
  /-- [02 R77] the store voltage of the last STORE frame of ADL 0, mV. Reset: 0 -/
  storeMv : Nat
  /-- [02 R77] the hold-up input voltage of the last STORE frame of ADL 0, 10 mV. Reset: 0 -/
  inputVolts : Nat
  /-- [14 R435] HOLDUP_PASSED (0x7010:06). Reset: 0 -/
  holdupPassed : Bool
  /-- [10 R311] a hold-up check has passed in this power cycle. Reset: false -/
  holdupEver : Bool
  /-- [03 R89] Critical Warning bit 4: the hold-up check fails. Reset: false -/
  holdupWarn : Bool
  /-- [14 R435] HOLDUP_CAP (0x7010:07), uF. Reset: 0 -/
  holdupCap : Nat
  /-- [14 R435] HOLDUP_ENERGY (0x7010:08), mJ. Reset: 0 -/
  holdupEnergy : Nat
  /-- [02 R71] the stage of the vault. Reset: none -/
  vault : VaultStage
  /-- [10 R298] the vault trigger found dirty data or a loaded head. Reset: false -/
  vaultUnsafe : Bool
  /-- [14 R426] the vault's TRIGGER: true for PWRDIS. Reset: false -/
  vaultByPwrdis : Bool
  /-- [14 R435] the instant of the vault trigger, ns. Reset: 0 -/
  vaultAt : Nat
  /-- [02 R60] ALERT_N is driven low. Reset: false (released) -/
  alertLow : Bool
deriving DecidableEq, Repr

/-- Time. The model's clock moves at each tick boundary by the spacing of that tick. -/
structure Clock where
  /-- [01 R30] nanoseconds since power good, at the last tick boundary. Reset: 0 -/
  ns : Nat
  /-- [01 R22] nanoseconds from that boundary to the latest instant that a command has given since. Reset: 0 -/
  sub : Nat
  /-- [15 R463] POWER_ON_TIME (0x1002:01) at the last power good, 1/1024 hour. Reset: 0 -/
  powerOnBase : Nat
  /-- [15 R463] POWER_CYCLES (0x1002:02). Reset: 0 -/
  cycles : Nat
  /-- [17 R492] the shutdown kind of the last power cycle: 0 orderly, 1 vaulted, 2 unsafe. Reset: 0 (DESIGN CHOICE, log 4) -/
  lastShutdown : Nat
  /-- [10 R298] Unsafe Shutdowns. Reset: 0 (DESIGN CHOICE, log 4) -/
  unsafeShutdowns : Nat
deriving DecidableEq, Repr

/-! ## The Bellwether tick -/

/-- The states of the tick generator (spec 01, Table 1.6; coded as in spec 10, Table 10.14). -/
inductive TickState where
  | stopped | acquire | locked | substitute | holdover
deriving DecidableEq, Repr

/-- The tick generator. -/
structure Tick where
  /-- [01 R33] the state. Reset: STOPPED -/
  state : TickState
  /-- [01 R33] a change of state waiting for the next tick boundary. Reset: none -/
  next : Option TickState
  /-- [01 R32] the 64-bit tick counter. Reset: 0 -/
  counter : Word64
  /-- [01 R31] the tick number, 0 to W - 1. Reset: 0 -/
  number : Nat
  /-- [01 R40] the set speed in force, rpm. Reset: 7200 (the default of SET_RPM) -/
  rpm : Nat
  /-- [01 R30] the revolution period the spacing is drawn from, ns. Reset: 8,333,333 (7,200 rpm, R29) -/
  revNs : Nat
  /-- [01 R30] the 32-bit fractional accumulator. Reset: 0 (DESIGN CHOICE, log 4) -/
  acc : Nat
  /-- [01 R36] the reconstructed edge the ticks of this revolution are reckoned from, ns (ACQUIRE). Reset: none -/
  snapEdge : Option Int
  /-- [01 R36] nanoseconds added to the next spacing by a snap. Reset: none -/
  snapDelay : Option Nat
  /-- [01 R30] the last index edge, ns (with the receive latency still in it). Reset: none -/
  lastEdge : Option Nat
  /-- [01 R34] consecutive revolutions within 0.1 %. Reset: 0 -/
  goodRevs : Nat
  /-- [01 R34] LOCKED has been entered at the present set speed. Reset: false -/
  wasLocked : Bool
  /-- [01 R34] a ramp runs. Reset: false -/
  ramp : Bool
  /-- [01 R34] a revolution outside 1.0 % holds media reads. Reset: false -/
  readsHeld : Bool
  /-- [01 R34] a spindle-speed fault persists. Reset: false -/
  speedFault : Bool
  /-- [01 R43] the index is lost. Reset: false -/
  indexLost : Bool
  /-- [01 R47] the instant of the declaration of loss, ns. Reset: 0 -/
  lostAt : Nat
  /-- [13 R399] the index has been lost for 10 s. Reset: false -/
  lost10s : Bool
  /-- [01 R43] index edges discarded as glitches. Reset: 0 -/
  glitches : Nat
  /-- [01 R45] the reference actuator. Reset: 0 -/
  refAct : ChanId
  /-- [01 R45] the last substitute edge, ns. Reset: none -/
  substEdge : Option Nat
  /-- [16 R475] the last measured revolution period, ns. Reset: none -/
  lastRev : Option Nat
  /-- [01 R22] the VCM current-limit percentage in force (CAP_PCT, 0x4101:01). Reset: 100 -/
  capPct : Nat
  /-- [01 R28] admission tokens left in this tick; none is unlimited. Reset: none -/
  tokens : Option Nat
  /-- [01 R28] the remainder of the token conversion, in commands x ns. Reset: 0 (DESIGN CHOICE, log 4) -/
  tokenAcc : Nat
deriving DecidableEq, Repr

/-- A frame sent down an actuator drive link (spec 02, Table 2.5). -/
inductive DownFrame where
  | idle
  | cmd (slot : BitVec 2) (ma vcm : BitVec 16)
  | spin (command : Nat) (rpm : Nat)
  | retract (mask : BitVec 4)
  | holdtest (ms : Nat)
deriving DecidableEq, Repr

/-- One actuator drive link. -/
structure Link where
  /-- [02 R57] a valid upstream frame has been received since PORST_N release and the link is not lost. Reset: false -/
  up : Bool
  /-- [02 R57] declared lost. Reset: false -/
  lost : Bool
  /-- [13 R396] this loss has been charged at LINK_LOSS_LIMIT. Reset: false -/
  charged : Bool
  /-- [02 R54] the SEQ expected next upstream; none accepts any. Reset: none -/
  rxSeq : Option (BitVec 2)
  /-- [02 R54] the next SEQ downstream. Reset: 0 (DESIGN CHOICE, log 24: the rule gives no starting count) -/
  txSeq : BitVec 2
  /-- [02 R57] frames discarded. Reset: 0 -/
  badFrames : Nat
  /-- [02 R54] the bytes of each frame sent other than IDLE, oldest first (output trace). Reset: empty -/
  sent : List (List Byte)
  /-- [02 R53] IDLE frames sent. Reset: 0 -/
  idles : Nat
  /-- [02 R53] frames other than IDLE sent since the last tick boundary. Reset: 0 -/
  sinceTick : Nat
  /-- [02 R54] revolution count of the last INDEX frame. Reset: 0 -/
  revCount : Word16
  /-- [02 R54] spindle speed of the last BEMF frame, 0.25 rpm. Reset: 0 -/
  bemfSpeed : Word16
  /-- [02 R54] flags of the last BEMF frame. Reset: 0 -/
  bemfFlags : Word16
  /-- [02 R54] the last combo fault code. Reset: 0 -/
  faultCode : Word16
deriving DecidableEq, Repr

/-! ## One actuator channel -/

/-- The classes of spec 05, Table 5.3. -/
inductive WedgeClass where
  | good | partialSample | coasted
deriving DecidableEq, Repr

/-- The modes of spec 06, Table 6.2 (coded as MODE in spec 05, Table 5.7). -/
inductive CeMode where
  | follow | settle | seek | reacquire
deriving DecidableEq, Repr

/-- The load state of an actuator (spec 03, R90; spec 06, R169). -/
inductive LoadState where
  | unloaded | beforeSam | acquiring | settling | loaded
deriving DecidableEq, Repr

/-- A servo status record (spec 05, Table 5.7), field by field. -/
structure ServoRec where
  tick : Word32
  head : HeadId
  act : ChanId
  cls : WedgeClass
  missRun : Nat
  mode : CeMode
  onTrack : Bool
  unsafeFlag : Bool
  phaseWrap : Bool
  overrun : Bool
  commit : Bool
  cap : Bool
  headSwitch : Bool
  doublePeak : Bool
  grayConflict : Bool
  wedgeBad : Bool
  trackBad : Bool
  burstLow : Bool
  tickUnlocked : Bool
  wedge : Nat
  position : Int
  pes : Int
  phase : Nat
  outDelay : Nat
  vcm : Int
  ma : Int
  burstSum : Nat
  samScore : Nat
  samDev : Int
  flockValid : BitVec 4
  flockAge : BitVec 4
  erasures : Nat
  seq : BitVec 8
deriving DecidableEq, Repr

/-- The histories of one section (spec 06, "Sections"). -/
structure Hist where
  x1 : Int
  x2 : Int
  y1 : Int
  y2 : Int
deriving DecidableEq, Repr

/-- The histories of one engine: the 14 section slots and two sections for each of the four Flock inputs. -/
structure CeHist where
  /-- [06 R160] slots 0 to 13. Reset: zero -/
  sections : Vector Hist 14
  /-- [06 R173] the two sections of each Flock input. Reset: zero -/
  flock : Vector (Hist × Hist) 4
deriving DecidableEq, Repr

/-- A computation in progress: what its output issue will make current (spec 06, R155). -/
structure Computation where
  hist : CeHist
  vcm : Int
  ma : Int
  delay : Nat
  tickOf : Word64
  record : ServoRec
deriving DecidableEq, Repr

/-- SDM n: position sensing. -/
structure Sdm where
  /-- [05 R148] the active head. Reset: the channel's local index 0 -/
  head : HeadId
  /-- [05 R142] the last position P, 1/512 servo track. Reset: 0 (DESIGN CHOICE, log 4) -/
  pos : Int
  /-- [05 R142] the per-wedge travel v. Reset: 0 (DESIGN CHOICE, log 4) -/
  vel : Int
  /-- [05 R141] the miss run m. Reset: 0 -/
  missRun : Nat
  /-- [05 R143] in REACQUIRE. Reset: false -/
  reacq : Bool
  /-- [05 R143] the wedge and track number of the last field that qualifies for leaving REACQUIRE. Reset: none -/
  reacqField : Option (Nat × Nat)
  /-- [05 R136] the last wedge number, measured or predicted. Reset: 0 (DESIGN CHOICE, log 4) -/
  wedge : Nat
  /-- [01 R44] consecutive wedges with a valid wedge number. Reset: 0 -/
  validRun : Nat
  /-- [03 R90] consecutive samples of class GOOD. Reset: 0 -/
  goodRun : Nat
  /-- [05 R131] the last 8 intervals between qualified SAMs of class GOOD, ns. Reset: empty -/
  intervals : List Int
  /-- [05 R131] time from the last qualified SAM of class GOOD to the last predicted end, ns. Reset: none -/
  sinceSam : Option Int
  /-- [05 R148] a head switch waits to be reported at the next strobe. Reset: false -/
  switched : Bool
  /-- [05 R146] kappa; none without a valid wedge number (KAPPA reads 0xFFFF). Reset: none -/
  kappa : Option Nat
  /-- [05 R147] kappa published to Sheepdog at the last tick boundary. Reset: none -/
  kappaPub : Option Nat
  /-- [05 R146] phi at the last strobe, ns (0x4004). Reset: 0 -/
  phase : Nat
  /-- [05 R148] after a head switch, the end of the new head's first SAM predicted from the last predicted end, ns; none
  searches the whole wedge interval. Reset: none -/
  switchPred : Option Int
  /-- [05 R147] tick number of the last strobe. Reset: none -/
  lastTick : Option Nat
  /-- [01 R44] the last 8 times from index edge to wedge-0 strobe, ns. Reset: empty -/
  wedge0 : List Int
  /-- [05 R149] on-track as the evaluation of R149 and its withdrawals leave it. Reset: false -/
  onTrack : Bool
  /-- [02 R57] the instant of the last FAULT frame naming the actuator, ns. Reset: none -/
  faultAt : Option Nat
  /-- [16 R475] the instant of the last UNSAFE strobe in FOLLOW, ns. Reset: none -/
  unsafeAt : Option Nat
  /-- [08 R239] a strobe above the limit has been seen since the last one inside it. Reset: false -/
  outside : Bool
  /-- [05 R152] MISSED_WEDGES (0x4005). Reset: 0 -/
  missed : Word32
  /-- [05 R152] SERVO_FAULTS (0x4006). Reset: 0 -/
  faults : Word32
  /-- [05 R152] PHASE_WRAPS (0x4007). Reset: 0 -/
  wraps : Word32
  /-- [05 R150] the record of the last strobe, not yet closed. Reset: none -/
  openRec : Option ServoRec
  /-- [05 R151] closed records waiting for the next tick boundary. Reset: empty -/
  closed : List ServoRec
  /-- [05 R152] LAST_RECORD (0x4011). Reset: none (reads zero) -/
  lastRec : Option ServoRec
  /-- [05 R150] the record count SEQ. Reset: 0 (DESIGN CHOICE, log 4) -/
  seq : BitVec 8
  /-- [05 R151] records counted toward CAPTURE_DECIM. Reset: 0 -/
  decim : Nat
deriving DecidableEq, Repr

/-- CE n: the control engine. -/
structure Ce where
  /-- [06 R163] the mode that the next computation starts from. Reset: FOLLOW (DESIGN CHOICE, log 4) -/
  mode : CeMode
  /-- [06 R183] MODE (0x4103): the mode of the last computation. Reset: 0 (FOLLOW) -/
  lastMode : CeMode
  /-- [06 R162] the target, 1/512 servo track, without offset. Reset: 0 (DESIGN CHOICE, log 4) -/
  target : Int
  /-- [06 R162] the write or retry offset added to the target. Reset: 0 (DESIGN CHOICE, log 4) -/
  offset : Int
  /-- [06 R166] MSQ has marked the coming access as a write. Reset: false -/
  writeMark : Bool
  /-- [06 R163] a move was requested and has not reached FOLLOW. Reset: false -/
  moving : Bool
  /-- [06 R163] a requested move waits to be taken by the next computation. Reset: false -/
  moveNew : Bool
  /-- [06 R166] consecutive samples inside the settle window. Reset: 0 -/
  settleCount : Nat
  /-- [06 R166] the running settle count is under the write pair. Reset: false -/
  settleWrite : Bool
  /-- [06 R155] the histories. Reset: zero -/
  hist : CeHist
  /-- [06 R171] the Flock output register: the sent VCM command and its strobe's tick. Reset: none -/
  flockOut : Option (Int × Word64)
  /-- [06 R155] the computation in progress. Reset: none -/
  busy : Option Computation
  /-- [06 R177] the VCM command last sent. Reset: 0 -/
  lastVcm : Int
  /-- [06 R177] the microactuator command last sent. Reset: 0 -/
  lastMa : Int
  /-- [06 R167] the VCM commands of the last 16 strobes before the present miss run, newest first. Reset: empty -/
  vcmLog : List Int
  /-- [06 R167] the VCM commands of the present miss run, newest first. Reset: empty -/
  vcmMiss : List Int
  /-- [06 R167] u_hold. Reset: 0 -/
  uHold : Int
  /-- [06 R179] consecutive abandoned computations. Reset: 0 -/
  abandonRun : Nat
  /-- [06 R180] strobes of REINIT_HOLD left. Reset: 0 -/
  reinitHold : Nat
  /-- [06 R180] an overrun was detected and no output has issued in time since. Reset: false -/
  overrunHold : Bool
  /-- [06 R178] the coefficient copy in use (false the first). Reset: false -/
  copyB : Bool
  /-- [05 R150] the next computation is the first with a newly committed set. Reset: false -/
  newSet : Bool
  /-- [06 R183] OVERRUNS (0x4130). Reset: 0 -/
  overruns : Word32
  /-- [06 R183] CE_FAULTS (0x4131). Reset: 0 -/
  ceFaults : Word32
  /-- [06 R183] CAP_CLAMPS (0x4132). Reset: 0 -/
  capClamps : Word32
  /-- [06 R183] DELAY_MAX (0x4133), ns. Reset: 0 -/
  delayMax : Word16
  /-- [06 R183] FLOCK_INVALID (0x4134). Reset: 0 -/
  flockInvalid : Word32
  /-- [06 R183] PARITY_SWITCHES (0x4135). Reset: 0 -/
  paritySwitches : Word32
  /-- [06 R183] SEEK_FAULTS (0x4136). Reset: 0 -/
  seekFaults : Word32
deriving DecidableEq, Repr

/-- A block of a namespace. -/
structure BlockKey where
  nsid : Nat
  lba  : Nat
deriving DecidableEq, Repr

/-- A band of the drive: its head and its number on the surface (spec 04, R121). -/
structure BandKey where
  head : HeadId
  band : Nat
deriving DecidableEq, Repr

/-- What a media operation is for (spec 11, R335). -/
inductive OpKind where
  | demandRead (mr : Nat) | destage | hostWrite (ctx : Nat) | calibration (write : Bool) | verify | repair
deriving DecidableEq, Repr

/-- A media operation (spec 11, R326, "Sheepdog"): one band's run of sectors. -/
structure MediaOp where
  id : Nat
  kind : OpKind
  band : BandKey
  offset : Nat
  count : Nat
  created : Nat
deriving DecidableEq, Repr

/-- The framing outcome of a sector's sync marks (spec 07, Table 7.3). -/
inductive Framing where
  | sm1 | sm2 (d : Int) | back | nominal
deriving DecidableEq, Repr

/-- The standing of a capture entry (spec 07, R206, R207). -/
inductive EntryState where
  | free | filling | held | kept
deriving DecidableEq, Repr

/-- The settings of one read or one attempt, latched when it starts: the CHANNEL_SET, HEAD_FE and HEAD_EQ records, the rate of the zone,
the asperity settings, the readers in service, and the iteration limit. -/
structure ReadParams where
  set : List Byte
  fe : List Byte
  eq : List Byte
  rate : Nat
  taThreshold : Nat
  taMinLen : Nat
  taMargin : Nat
  taSlMargin : Nat
  taHpMhz : Nat
  readerA : Bool
  readerB : Bool
  iterations : Nat
deriving DecidableEq, Repr

/-- A capture entry (spec 07, Table 7.5): its header, and the ADC codes of both readers, oldest first. -/
structure CaptureEntry where
  state : EntryState
  head : HeadId
  band : Nat
  offset : Nat
  rate : Nat
  samplePct : Nat
  channelSet : Nat
  tick : Word32
  samples : Nat
  gainLimit : Bool
  recovered : Bool
  sm1 : Option (Nat × Int)
  sm2 : Option Int
  synd : Nat
  frags : List Nat
  spans : List (Nat × Nat)
  spanReaders : List Bool
  overflow : Bool
  basis : Framing
  shift : Bool
  order : Nat
  codesA : List Int
  codesB : List Int
  /-- the loop's frequency at the start of the read (spec 07, R193) -/
  freq : Int
deriving DecidableEq, Repr

/-- The steps of the retry ladder (spec 07, Table 7.8): the re-reads carry their index. -/
inductive LadderStep where
  | secondLook | reread (k : Nat) | offsets (k : Nat) | altSets (k : Nat) | single (k : Nat)
deriving DecidableEq, Repr

/-- One sector's retry ladder (spec 07, R217 to R222): its step and those to come, the capture entries it holds, the newest first, the
attempts that the second-look engine has still to run on the newest (`plan`: each code with its shift in bits; at most `left` of them
count) and from when their time counts, and the limits in force at its start. `spans` are the asperity spans of the reads of the sector.
`stop` says that it stops at the end of its attempt or revolution, and whether its sector is then to be read again (R221). -/
structure Ladder where
  op : MediaOp
  offset : Nat
  step : LadderStep
  rest : List LadderStep
  entries : List (Fin 10)
  plan : List (Nat × Int)
  left : Nat
  lookAt : Option Nat
  lookLimit : Nat
  rereadCodes : Nat
  failedAt : Nat
  limit : Nat
  spans : List (Nat × Nat)
  stop : Option Bool
  early : Option (PortId × Nat)
deriving DecidableEq, Repr

/-- The attempt that the second-look engine runs (spec 07, R210, R213): the sector, the capture entry, the code and shift, and the settings
latched when it started. -/
structure Attempt where
  opId : Nat
  offset : Nat
  entry : Fin 10
  code : Nat
  shift : Int
  params : ReadParams
deriving DecidableEq, Repr

/-- A codeword received and waiting for the decoder (spec 07, R204): its operation and band offset, its capture entry,
whether a ladder's re-read took it, whether a joint set was in force, the log-likelihood ratios of its bits, the bit-rate samples of
both readers over the capture span, the distance of SM2 where SM1 frames it and the least distance elsewhere in its window (spec 09,
R278), the gain limit reached (R190), and the settings latched. -/
structure Codeword where
  op : MediaOp
  offset : Nat
  entry : Fin 10
  reread : Bool
  joint : Bool
  llr : List Int
  pairs : List (Int × Int)
  marks : Nat × Nat
  gainLimit : Bool
  params : ReadParams
deriving DecidableEq, Repr

/-- RWC n: the read channel. -/
structure Rwc where
  /-- [07 R188] the media read in progress. Reset: none -/
  op : Option MediaOp
  /-- [07 R205] the next sector of that operation, from 0. Reset: 0 -/
  nextSector : Nat
  /-- [07 R204] the sectors captured and waiting for the decoder, oldest first. Reset: empty -/
  decoding : List Codeword
  /-- [05 R141] MSQ ends reading at the current sector boundary. Reset: false -/
  stopRead : Bool
  /-- [07 R206] the capture entries. Reset: free -/
  entries : Vector CaptureEntry 10
  /-- [07 R217] the ladders of failed sectors, oldest first. Reset: empty -/
  ladders : List Ladder
  /-- [07 R210] the attempt that the second-look engine runs. Reset: none -/
  attempt : Option Attempt
  /-- [07 R189] reader A's front-end is powered (else standby). Reset: false -/
  powerA : Bool
  /-- [07 R189] reader B's front-end is powered (else standby). Reset: false -/
  powerB : Bool
  /-- [07 R193] the loop frequency held at the end of the last sector of each head and target track read within a revolution, in 2^-20 bit:
  the head, the track, the instant, and the frequency. Reset: none -/
  lastFreq : List (HeadId × Int × Nat × Int)
  /-- [07 R206] the count that orders failures. Reset: 0 -/
  order : Nat
  /-- [07 R219] the actuator is held by a ladder from its re-read step on. Reset: false -/
  heldByLadder : Bool
  /-- [01 R24] the channel takes its part of a commit at its next sector boundary. Reset: false -/
  swapPending : Bool
  /-- [07 R227] SECTORS_READ (0x5030). Reset: 0 -/
  sectorsRead : Word64
  /-- [07 R227] OTF_FAILS (0x5031). Reset: 0 -/
  otfFails : Word32
  /-- [07 R227] SM1_DIST_HIST (0x5032). Reset: zero -/
  sm1Hist : Vector Word32 6
  /-- [07 R227] RECOVERED_AT (0x5033): steps 2 to 6, then unrecovered. Reset: zero -/
  recoveredAt : Vector Word32 6
  /-- [07 R227] SM2_REFRAMES (0x5034). Reset: 0 -/
  sm2Reframes : Word32
  /-- [07 R227] TA_EVENTS (0x5035). Reset: 0 -/
  taEvents : Word32
  /-- [07 R227] CAPTURE_SKIPPED (0x5036). Reset: 0 -/
  skipped : Word32
  /-- [07 R227] ITER_HIST (0x5037). Reset: zero -/
  iterHist : Vector Word32 13
  /-- [07 R227] MISDIRECTED (0x5038). Reset: 0 -/
  misdirected : Word32
  /-- [07 R227] SM2_MISMATCH (0x5039). Reset: 0 -/
  sm2Mismatch : Word32
deriving DecidableEq, Repr

/-- A write run of MSQ on one channel (spec 08, R232 to R235): the operation, the sector it has come to, the instant of its first
abort, and whether a sector of it has begun or run short of data. -/
structure WriteRun where
  op : MediaOp
  next : Nat
  firstAbort : Option Nat
  tried : Bool
deriving DecidableEq, Repr

/-- A sector complete in a write FIFO (spec 08, R249): its band offset, the VERSION of its data (spec 12, R375), whether it is a zero
fill (spec 04, R125), its poison mark (R251), its user bytes and its metadata bytes 0 to 27. -/
structure FifoSector where
  offset : Nat
  version : Nat
  zeroFill : Bool
  poison : Bool
  user : Block
  metadata : List Byte
deriving DecidableEq, Repr

/-- What PAn_WD presents for a sector (spec 08, R232): its channel bits, for each window that it is written in the number of bits presented
and the bits, the first in time lowest, with the re-acquisition and splice fields (spec 04, R110, R112); PRECOMP, and WRITE_SHIFT in ns. -/
structure WriteData where
  bits : BitVec 37304
  windows : List (Nat × Nat)
  precomp : Nat
  shiftNs : Int
deriving DecidableEq, Repr

/-- An excursion being verified or repaired (spec 08, R239): the band track being written, and the block offsets of the
verify set and of the sectors under repair. -/
structure Excursion where
  band : BandKey
  track : Nat
  verify : List Nat
  repair : List Nat
  tries : Nat
  /-- the sectors under repair that are still to be rewritten -/
  todo : List Nat
deriving DecidableEq, Repr

/-- The write side of channel n: MSQ's write request and ASC. -/
structure WriteSide where
  /-- [08 R232] the write run in progress. Reset: none -/
  run : Option WriteRun
  /-- [09 R280] the fixed assist level of a calibration run that writes. Reset: none -/
  fixed : Option Nat
  /-- [08 R249] the sectors complete in the write FIFO, the one being written first. Reset: empty -/
  fifo : List FifoSector
  /-- [01 R20] the MSQ write request: a sector is being written. Reset: false -/
  request : Bool
  /-- [08 R232] the run's next sector begins later in the present window. Reset: false -/
  armed : Bool
  /-- [02 R52] the level of PAn_WG. Reset: low -/
  wg : Bool
  /-- [08 R232] what PAn_WD presents. Reset: none (static low) -/
  wd : Option WriteData
  /-- [08 R239] the band and the band track of the window written since the last strobe. Reset: none -/
  wroteIn : Option (BandKey × Nat)
  /-- [08 R235] consecutive write faults of sector positions: the band, the position, the count. Reset: empty -/
  posFaults : List (BandKey × Nat × Nat)
  /-- [08 R239] windows written since the last strobe inside the limit hold these sectors of the previous track. Reset: none -/
  sinceInside : Nat
  /-- [08 R239] the excursions being handled, oldest first. Reset: empty -/
  pendingExc : List Excursion
  /-- [08 R244] PAn_FLT_N is low. Reset: false -/
  paLow : Bool
  /-- [08 R244] whole wedges PAn_FLT_N has been high since its rise. Reset: 0 -/
  paHighWedges : Nat
  /-- [08 R244] assist-ready is withdrawn until the conditions of R244 are met. Reset: false -/
  paHold : Bool
  /-- [08 R244] a fault read has returned 0x0000 since the fault. Reset: false -/
  paClean : Bool
  /-- [08 R244] the first fault read of this fault is still to come. Reset: false -/
  paFirst : Bool
  /-- [13 R396] this fault has been charged at PA_FAULT_HOLD. Reset: false -/
  paCharged : Bool
  /-- [08 R247] the end of the first level frame of the active head's warm-up, ns. Reset: none -/
  warmFrom : Option Nat
  /-- [08 R247] assist-ready of the active head. Reset: false -/
  assistReady : Bool
  /-- [08 R247] assist-ready is withdrawn at the end of the sector being written. Reset: false -/
  withdrawAtEnd : Bool
  /-- [08 R242] the assist level last written to the preamplifier. Reset: 0 (DESIGN CHOICE, log 4) -/
  level : Nat
  /-- [08 R243] the level of a level frame not yet started, and whether a strobe has passed since it was computed. Reset: none -/
  levelPending : Option (Nat × Bool)
  /-- [08 R242] the level frame of the present servo gap has been sent before its strobe. Reset: false -/
  levelSent : Bool
  /-- [08 R242] the writer set has been sent for the active head since its select. Reset: false -/
  writerSent : Bool
  /-- [08 R242] serial frames issued (address and data, bit 23 set for a read), oldest first (output trace). Reset: empty -/
  serial : List (BitVec 24)
  /-- [08 R252] SECTORS_WRITTEN (0x5110). Reset: 0 -/
  sectorsWritten : Word64
  /-- [08 R252] WRITE_ABORTS (0x5111). Reset: 0 -/
  aborts : Word32
  /-- [08 R252] SLIPS (0x5112). Reset: 0 -/
  slips : Word32
  /-- [08 R252] UNDERRUNS (0x5113). Reset: 0 -/
  underruns : Word32
  /-- [08 R252] EXCURSIONS (0x5114). Reset: 0 -/
  excursions : Word32
  /-- [08 R252] REPAIRS (0x5115). Reset: 0 -/
  repairs : Word32
  /-- [08 R252] PA_FAULTS (0x5116). Reset: 0 -/
  paFaults : Word32
  /-- [08 R252] LAST_PA_FAULT (0x5117). Reset: 0x0000 -/
  lastPaFault : Word16
  /-- [08 R252] MON_OUT_OF_RANGE (0x5118). Reset: 0 -/
  monOut : Word32
  /-- [08 R252] TRIM_LATE (0x5119). Reset: 0 -/
  trimLate : Word32
  /-- [08 R252] ASSIST_CAP_CLAMPS (0x511A). Reset: 0 -/
  capClamps : Word32
deriving DecidableEq, Repr

/-- How MSQ learned the end of a move (spec 01, R18). -/
inductive MoveReport where
  | complete | failed
deriving DecidableEq, Repr

/-- One actuator channel: the access port, the load state, and subsystems 6 to 9 of that channel. -/
structure Chan where
  /-- [01 R18] the access request held in the access port. Reset: none -/
  access : Option AccessReq
  /-- [01 R18] the last report posted to MSQ. Reset: none -/
  report : Option MoveReport
  /-- [03 R90] the load state. Reset: unloaded -/
  load : LoadState
  /-- [03 R90] failed loads in a row. Reset: 0 -/
  loadFails : Nat
  /-- [02 R57] the load in progress began while the link was not up: it fails. Reset: false -/
  loadDoomed : Bool
  /-- [05 R144] the load follows REACQ_LIMIT, with this head active. Reset: none -/
  reloadOf : Option HeadId
  sdm : Sdm
  ce : Ce
  rwc : Rwc
  wr : WriteSide
deriving DecidableEq, Repr

/-- One head: what is kept per head rather than per channel. -/
structure Head where
  /-- [08 R252] ASSIST_TRIM (0x5104). Reset: 0 -/
  trim : Int
  /-- [08 R247] consecutive out-of-range monitor readings. Reset: 0 -/
  monRun : Nat
  /-- [13 R396] consecutive write stalls with no sector put on media between. Reset: 0 -/
  stalls : Nat
  /-- [05 R146] the last 8 measurements toward SAM_OFFSET, newest first, ns. Reset: empty (SAM_OFFSET reads 0xFFFFFFFF) -/
  samMeas : List Nat
deriving DecidableEq, Repr

/-! ## Environment and calibration -/

/-- One sensor (spec 09, Table 9.1). -/
structure Sensor where
  /-- [09 R267] SENSOR_TEMP (0x6001), 1/16 C. Reset: 0 -/
  temp : Int
  /-- [09 R267] SENSOR_RATE (0x6002). Reset: 0 -/
  rate : Int
  /-- [09 R267] SENSOR_STATUS (0x6004). Reset: 0x00 -/
  status : BitVec 8
  /-- [09 R259] broken. Reset: false -/
  broken : Bool
  /-- [09 R259] consecutive valid conversions since found broken. Reset: 0 -/
  validRun : Nat
  /-- [09 R260] the readings of the last 100 ENV cycles, newest first; none while broken. Reset: empty -/
  history : List (Option Int)
  /-- [09 R264] ENV decisions in a row at or above CRITICAL. Reset: 0 -/
  critRun : Nat
deriving DecidableEq, Repr

/-- ENV: thermal control. -/
structure Env where
  /-- [09 R256] the eleven sensors. Reset: each at its own reset -/
  sensors : Vector Sensor 11
  /-- [09 R261] the throttle step last decided. Reset: 0 -/
  step : Nat
  /-- [09 R267] THROTTLE_STEP (0x6010:01): the step in force. Reset: 0 -/
  stepNow : Nat
  /-- [09 R261] the sensor the pending step is recorded with. Reset: 0xFF -/
  stepCause : Nat
  /-- [09 R261] the instant of the last change, ns. Reset: none -/
  stepAt : Option Nat
  /-- [09 R267] STEP_CHANGES (0x6010:0A). Reset: 0 -/
  stepChanges : Word32
  /-- [09 R267] WIN_OPEN (0x6020:04). Reset: 0 -/
  winOpen : Bool
  /-- [09 R267] WIN_CLOSURES (0x6020:05). Reset: 0 -/
  winClosures : Word32
  /-- [09 R260] Critical Warning bit 1 as R260 sets and clears it. Reset: false -/
  tempWarn : Bool
  /-- [08 R252] ASSIST_CAP_PCT (0x5105:01). Reset: 100 -/
  assistCap : Nat
  /-- [09 R264] ENV decisions in a row with every sensor below the throttle hysteresis (shut down). Reset: 0 -/
  coolRun : Nat
  /-- [13 R400] the first ENV decision after a management restart is awaited. Reset: false -/
  held : Bool
  /-- [09 R267] the thermal objects as the last ENV decision took them. Reset: empty (the active values) -/
  latched : List ((Nat × Nat) × List Byte)
deriving DecidableEq, Repr

/-- A calibration request (spec 09, Table 9.7). -/
inductive CalPriority where
  | startUp | urgent | normal | background
deriving DecidableEq, Repr

/-- See `CalPriority`; `zone` matters for EQ only. -/
structure CalReq where
  head : HeadId
  kind : CalKind
  zone : Nat
  priority : CalPriority
deriving DecidableEq, Repr

/-- HEAD_CAL (spec 09, Table 9.12). -/
structure HeadCal where
  temp : Int
  time : Nat
  failRun : Nat
  suspect : BitVec 8
  iterBase : Nat
  results : Vector Nat 6
  permanent : BitVec 8
  /-- power-on time of the last accepted run of each kind, 1/1024 hour (spec 09, R273) -/
  lastRun : Vector Nat 6
  /-- tests failed by each suspect track (spec 09, R272) -/
  trackFails : Vector Nat 8
  /-- consecutive failed runs that were not ASSIST runs (spec 13, Table 13.1, CAL_FAIL) -/
  failOther : Nat
deriving DecidableEq, Repr

/-- The mean on-the-fly iteration count of one head and recording zone (spec 09, R273), in units of 2^-20, with the sectors
and iterations counted toward the first baseline. -/
structure ZoneTrend where
  head : HeadId
  zone : Nat
  mean : Nat
  base : Option Nat
  count : Nat
  sum : Nat
deriving DecidableEq, Repr

/-- An EQ run in progress on a zone (spec 09, R277, R281, R283): the shadow taps, the sectors adapted to, the sums of squares of the
target output and of e over them, and, of the sectors of the gate that follow, their number, the sums of squares of e with the active
and with the shadow joint set, and whether every one converged with both; and whether another source has changed the equaliser object
since the run began (R285). -/
structure EqRun where
  head : HeadId
  zone : Nat
  shadow : List Int
  sectors : Nat
  targetSq : Nat
  errSq : Nat
  gate : Nat
  gateActive : Nat
  gateShadow : Nat
  converged : Bool
  touched : Bool
deriving DecidableEq, Repr

/-- What a run on a calibration track does next (spec 09, R276, R279, R280, R272): one revolution of the track is read at an offset of
the sweep, or as it stands; the target ramps for so many wedges more; a level of the ladder, the new setpoint, or a suspect track at it
is written or read back. -/
inductive CalPhase where
  | sweep (i : Nat) | ramp (left : Nat) | read | write | readBack | validateWrite | validateRead | testWrite (t : Fin 8) | testRead (t : Fin 8)
  | done
deriving DecidableEq, Repr

/-- The statistics of sectors read on a calibration track (spec 09, R276 to R281): sectors read, those with neither sync mark, those
that converged; of these the sum of iterations and of syndrome weights, the histograms of both readers' ADC codes, the sums of |x| over
the preamble's acquisition bits with their count, the preamble correlation, the cross-correlation by lag, reader A's autocorrelation,
the squares of the target output and of e; and the monitor readings of the revolution written. -/
structure CalTally where
  read : Nat
  absent : Nat
  conv : Nat
  iters : Nat
  synd : Nat
  histA : List Nat
  histB : List Nat
  absA : Nat
  absB : Nat
  absCount : Nat
  pre : Int
  corr : List Int
  autoA : Int
  targetSq : Nat
  errSq : Nat
  mon : Nat
  monCount : Nat
deriving DecidableEq, Repr

/-- The run in progress on an actuator (spec 09, R273): its head, its kind (none: the verification read of spec 03, R91), the track, the
priority, the head temperature at its start, its phase and the media operation of that phase, the rung of the ladder; the wedges of the
run and those not GOOD in FOLLOW; the sums of the bursts, the amplitude profiles of the sweep and the histogram of f; the statistics of
the revolution under way and of the whole run; the last rung that passed, the validation, and the tests of suspect tracks; whether it
waits as deferred; the windows behind wedges that were not settled (R281); and whether another source has changed an object that the
run would write (R285). -/
structure CalRunning where
  head : HeadId
  kind : Option CalKind
  track : Fin 8
  priority : CalPriority
  startTemp : Option Int
  phase : CalPhase
  opId : Option Nat
  rung : Nat
  wedges : Nat
  bad : Nat
  nSum : Int
  qSum : Int
  sSum : Nat
  count : Nat
  profileA : List Nat
  profileB : List Nat
  hist : List Nat
  now : CalTally
  total : CalTally
  passed : Option Nat
  valid : Option CalTally
  tests : List (Fin 8 × Bool)
  deferred : Bool
  unsettled : List Nat
  touched : Bool
deriving DecidableEq, Repr

/-- An accepted result between its run and its swap (spec 09, R284, R285): the run's head, kind and zone, the values that still have to
swap, the head temperature at the start of the run, and the mean iterations of its track in 1/16. -/
structure CalStaged where
  head : HeadId
  kind : CalKind
  zone : Nat
  track : Fin 8
  values : List ((Nat × Nat) × List Byte)
  startTemp : Option Int
  iterMean : Option Nat
deriving DecidableEq, Repr

/-- The calibration sequencer. -/
structure Cal where
  /-- [09 R273] requested runs, oldest first. Reset: empty -/
  requests : List CalReq
  /-- [09 R286] HEAD_CAL (0x6102). Reset: zero (persistent) -/
  heads : Vector HeadCal 32
  /-- [09 R273] the iteration means. Reset: empty -/
  trends : List ZoneTrend
  /-- [09 R277] the EQ runs in progress. Reset: empty -/
  eqRuns : List EqRun
  /-- [09 R273] the run in progress on each actuator. Reset: none -/
  running : Vector (Option CalRunning) 8
  /-- [09 R274] the spans of time of the last 10 s that background runs took on each actuator, ns, newest first. Reset: empty -/
  duty : Vector (List (Nat × Nat)) 8
  /-- [09 R274] since when a background run holds each actuator, ns. Reset: none -/
  dutyFrom : Vector (Option Nat) 8
  /-- [03 R91] heads whose verification read is due. Reset: empty -/
  verify : List HeadId
  /-- [09 R278] sectors counted toward a SYNC run. Reset: 0 -/
  syncCount : Nat
  /-- [09 R278] sectors by the true distance of SM1, 0 to 21. Reset: zero -/
  syncTrue1 : Vector Nat 22
  /-- [09 R278] best impostors of SM1 at or below the true distance, by their distance. Reset: zero -/
  syncImp1 : Vector Nat 22
  /-- [09 R278] sectors by the distance of SM2 where SM1 frames it. Reset: zero -/
  syncTrue2 : Vector Nat 22
  /-- [09 R278] best impostors of SM2, as for SM1. Reset: zero -/
  syncImp2 : Vector Nat 22
  /-- [09 R273] power-on time of the last accepted SYNC run, 1/1024 hour. Reset: 0 -/
  syncTime : Nat
  /-- [09 R284] the calibration staging set: results waiting for their swap. Reset: empty -/
  staging : List CalStaged
  /-- [09 R284] SYNC thresholds that some channels have taken at their sector boundary: object, value and those channels. Reset: empty -/
  early : List ((Nat × Nat) × List Byte × BitVec 8)
  /-- [09 R285] another source has changed a SYNC threshold since the SYNC run was asked for. Reset: false -/
  syncTouched : Bool
  /-- [03 R91] heads whose CALIBRATE work is unfinished. Reset: empty -/
  startLeft : List HeadId
  /-- [09 R286] CAL_REQ_HEAD (0x6103:01). Reset: 0 -/
  reqHead : Nat
  /-- [09 R286] CAL_RUNS (0x6104). Reset: 0 -/
  runs : Vector Word32 8
  /-- [09 R286] CAL_ABANDONS (0x6105). Reset: 0 -/
  abandons : Vector Word32 8
deriving DecidableEq, Repr

/-! ## Host ports, NVMe and commands -/

/-- A status of an NVMe completion (the named statuses of spec 10, 11, 13 and 16). -/
inductive Status where
  | success | invalidOpcode | invalidField | internalError | abortRequested | sqDeletion | invalidNs | cmdSequence
  | sanitizeInProgress | sanitizeFailed | capacityExceeded | nsNotReady | reservationConflict | invalidQid | invalidQueueSize
  | invalidVector | invalidQueueDeletion | abortLimit | aerLimit | invalidFwSlot | invalidFwImage | invalidLogPage
  | invalidFormat | fwNeedsReset | fwProhibited | notSaveable | nsInsufficient | nsIdUnavailable | nsAttached
  | nsNotAttached | ctrlListInvalid | zoneBoundary | zoneFull | zoneReadOnly | zoneOffline | zoneInvalidWrite
  | tooManyActive | tooManyOpen | zoneTransition | writeFault | unrecoveredRead | lbaRange
  | deferredWrite | writeInhibited | dictAbort | stagingOther | cqInvalid
deriving DecidableEq, Repr

/-- Data a completed command leaves in host memory. -/
inductive CplData where
  | none | blocks (b : List Block) | bytes (b : List Byte)
deriving DecidableEq, Repr

/-- A completion-queue entry, with the data of the command. -/
structure Completion where
  sqid : Nat
  cqid : Nat
  cid : Word16
  status : Status
  dnr : Bool
  crd : Nat
  dw0 : Word32
  dw1 : Word32
  data : CplData
deriving DecidableEq, Repr

/-- An I/O or admin submission queue. -/
structure Sq where
  qid : Nat
  size : Nat
  head : Nat
  tail : Nat
  cqid : Nat
deriving DecidableEq, Repr

/-- A completion queue: `used` entries are posted and not yet freed by the head doorbell. -/
structure Cq where
  qid : Nat
  size : Nat
  head : Nat
  used : Nat
  vector : Nat
  irq : Bool
deriving DecidableEq, Repr

/-- One asynchronous event (spec 10, R301). -/
structure Aen where
  kind : Nat
  info : Byte
  page : Byte
deriving DecidableEq, Repr

/-- The features of one controller (spec 10, Table 10.5). -/
structure Features where
  /-- [10 R296] Arbitration. Reset: 0 (DESIGN CHOICE, log 5) -/
  arbitration : Word32
  /-- [10 R309] the power state, 0 to 2 (PS_NOW, 0x2003). Reset: 0 -/
  ps : Nat
  /-- [10 R310] the last operational state. Reset: 0 -/
  lastOp : Nat
  /-- [10 R296] over-temperature threshold, kelvin; none: WCTEMP stands. Reset: none (PRESUMED, log 5) -/
  overTh : Option Nat
  /-- [10 R296] under-temperature threshold, kelvin. Reset: none (PRESUMED, log 5) -/
  underTh : Option Nat
  /-- [10 R296] submission and completion queues granted. Reset: 64 -/
  queues : Nat
  /-- [10 R296] Interrupt Coalescing. Reset: 0 (DESIGN CHOICE, log 5) -/
  coalescing : Word32
  /-- [10 R296] Interrupt Vector Configuration, by vector. Reset: empty (DESIGN CHOICE, log 5) -/
  vectorConfig : List (Nat × Bool)
  /-- [10 R296] Write Atomicity Normal. Reset: 0 (DESIGN CHOICE, log 5) -/
  atomicity : Word32
  /-- [10 R296] Asynchronous Event Configuration. Reset: 0 (DESIGN CHOICE, log 5) -/
  asyncConfig : Word32
  /-- [10 R296] Timestamp, ms. Reset: 0 -/
  timestamp : BitVec 48
  /-- [17 R492] the Timestamp's attributes byte. Reset: 0 -/
  timestampAttr : Byte
  /-- [10 R296] the instant the Timestamp counts from, ns. Reset: 0 (DESIGN CHOICE, log 5) -/
  timestampAt : Nat
  /-- [03 R97] ACRE of Host Behavior Support. Reset: false -/
  acre : Bool
  /-- [10 R296] Software Progress Marker. Reset: 0 (DESIGN CHOICE, log 5) -/
  marker : Word32
  /-- [10 R296] Host Identifier. Reset: 0 -/
  hostId : BitVec 128
  /-- [10 R296] the 128-bit form is in use. Reset: false -/
  exhid : Bool
  /-- [10 R300] TLER of each namespace, 100 ms. Reset: empty (0) -/
  tler : List (Nat × Nat)
  /-- [10 R296] Reservation Notification Mask of each namespace. Reset: empty (0) -/
  resMask : List (Nat × Word32)
deriving DecidableEq, Repr

/-- A host port: the PCIe link, the NVMe controller and the BAR2 vendor block. -/
structure Port where
  /-- [02 R59] PERSTn_N is asserted (low). Reset: true -/
  perst : Bool
  /-- [10 R319] the link rate and width (LINK, 0x2001); none is down. Reset: none -/
  link : Option (Nat × Nat)
  /-- [03 R94] the later of power good and the deassertion of PERSTn_N, ns. Reset: 0 -/
  trainAt : Nat
  /-- [10 R289] the clocking architecture in force. Reset: 0 -/
  clocking : Nat
  /-- [03 R95] CC.EN. Reset: 0 -/
  en : Bool
  /-- [03 R95] CSTS.RDY. Reset: 0 -/
  rdy : Bool
  /-- [03 R95] CSTS.CFS. Reset: 0 -/
  cfs : Bool
  /-- [10 R311] CSTS.SHST. Reset: 0 -/
  shst : BitVec 2
  /-- [16 R476] CSTS.PP. Reset: 0 -/
  pp : Bool
  /-- [10 R294] the submission queues. Reset: empty -/
  sqs : List Sq
  /-- [10 R294] the completion queues; 0 is the admin queue. Reset: empty -/
  cqs : List Cq
  /-- [11 R322] the queue the round robin serves and the commands taken from it in this turn. Reset: 0, 0 (DESIGN CHOICE, log 5) -/
  rrQid : Nat
  rrTaken : Nat
  feat : Features
  /-- [10 R301] command identifiers of held Asynchronous Event Requests, oldest first. Reset: empty -/
  aers : List Word16
  /-- [10 R301] events waiting for a request. Reset: empty -/
  events : List Aen
  /-- [11 R346] an event condition is not re-armed until its log page is read (by log page). Reset: empty -/
  masked : List Byte
  /-- [10 R301] Critical Warning as last compared for asynchronous events. Reset: 0 -/
  warning : BitVec 8
  /-- [10 R297] the Changed Namespace List. Reset: empty -/
  changed : List Nat
  /-- [10 R297] Reservation Notification log entries. Reset: empty -/
  resLog : List (Nat × Nat)
  /-- [10 R297] Reservation Notification entries ever made. Reset: 0 (DESIGN CHOICE, log 5) -/
  resCount : Nat
  /-- [10 R297] the Error Information log, newest first. Reset: empty -/
  errors : List (Nat × Word16 × Status)
  /-- [10 R297] Error Information entries ever made. Reset: 0 (DESIGN CHOICE, log 5) -/
  errorCount : Nat
  /-- [11 R341] Delete I/O Submission Queue commands that wait for the queue's last completions: queue and command. Reset: empty -/
  deleting : List (Nat × Word16)
  /-- [11 R338] Aborts that wait for their target's commit: context and command. Reset: empty -/
  abortWait : List (Nat × Word16)
  /-- [11 R338] Aborts whose aborted target's completion is not yet posted: context and command. Reset: empty -/
  abortDone : List (Nat × Word16)
  /-- [11 R338] Aborts of an admin command that cannot be aborted and is not yet committed: target and command. Reset: empty -/
  abortAdmin : List (Word16 × Word16)
  /-- [11 R336] completions committed and not yet posted, oldest first. Reset: empty -/
  committed : List Completion
  /-- [11 R337] completions posted to host memory, oldest first (output trace). Reset: empty -/
  posted : List Completion
  /-- [10 R314] STATUS. Reset: 0 -/
  status : Word32
  /-- [10 R314] INT_ENABLE. Reset: 0 -/
  intEnable : Word32
  /-- [10 R291] the mask bits of vectors 0 to 64. Reset: all 1 (PRESUMED, log 5: PCIe resets the mask bit to 1) -/
  masked64 : BitVec 65
  /-- [10 R291] the pending bits of vectors 0 to 64. Reset: 0 -/
  pending64 : BitVec 65
  /-- [10 R291] messages sent for vectors 0 to 64, oldest first (output trace). Reset: empty -/
  msgs64 : List Nat
  /-- [10 R318] vector 65 is masked. Reset: true (PRESUMED, log 5: PCIe resets the mask bit to 1) -/
  masked65 : Bool
  /-- [10 R318] the pending bit of vector 65. Reset: false -/
  pending65 : Bool
  /-- [10 R318] vector 65 messages sent. Reset: 0 -/
  msgs65 : Nat
  /-- [10 R314] TICK_HI. Reset: 0 -/
  tickHi : Word32
  /-- [10 R314] EVT_BASE. Reset: 0 -/
  evtBase : BitVec 12
  /-- [10 R315] MB_DOORBELL GO. Reset: 0 -/
  mbGo : Bool
  /-- [10 R315] MB_DOORBELL LEN. Reset: 0 -/
  mbLen : Word16
  /-- [10 R314] MB_REQUEST as written, the bytes beyond zero. Reset: empty -/
  mbReq : List Byte
  /-- [10 R315] MB_RESPONSE; none while VALID is 0. Reset: none -/
  mbResp : Option (List Byte)
  /-- [10 R315] the response computed and not yet presented. Reset: none -/
  mbWait : Option (List Byte)
deriving DecidableEq, Repr

/-- The life of a command context (spec 11, Table 11.4): S2, S3, S3m and S4 are in `started`, `onMedia` and `committed`. -/
structure Ctx where
  id : Nat
  port : PortId
  sqid : Nat
  cqid : Nat
  entry : SqEntry
  started : Bool
  dataDone : Bool
  onMedia : Bool
  committed : Bool
  writeBack : Bool
  admittedNs : Nat
  start : Nat
  hostx : Nat
  media : Bool
  waiting : List Nat
  onMediaBlocks : List Nat
  data : List Block
  status : Status
  result : CplData
  covered : List (BlockKey × Option Nat)
  flushAtOnce : Bool
  effect : Bool
  /-- its port was reset: it finishes without a completion (spec 11, Table 11.4, S3m) -/
  silent : Bool
  /-- the actuators that a read needed media of (spec 11, R347) -/
  readOn : List ChanId
deriving DecidableEq, Repr

/-- The zone states of spec 04, Table 4.6. -/
inductive ZoneState where
  | conventional | empty | implicitOpen | explicitOpen | closed | readOnly | full | offline
deriving DecidableEq, Repr

/-- A band record (spec 04, Table 4.6) with the lists that RELOC and the bitmap stand for. -/
structure BandRec where
  key : BandKey
  wp : Nat
  zcap : Nat
  state : ZoneState
  shingled : Bool
  excluded : Bool
  sparesFree : Nat
  sparesAtEmpty : Nat
  frontier : Nat
  activeSlot : Option Nat
  gen : Word16
  nsid : Nat
  /-- the admitted write pointer (spec 11, R330) -/
  awp : Nat
  /-- block offsets marked lost-write (spec 11, R343) -/
  lost : List Nat
  /-- the relocation list, oldest first: the physical position of a slipped sector, or the block offset of a remapped one
  (true), whose spares are taken in order (spec 04, R118) -/
  reloc : List (Nat × Bool)
  /-- pending grown defects, by position in the band (spec 04, R119) -/
  pending : List Nat
  /-- slipped positions beyond the factory list (spec 04, R119) -/
  slipped : List Nat
  /-- the written-extent bits of the band (spec 04, R125) -/
  extents : BitVec 4096
  /-- shingled: the offsets on media of the frontier track and later (spec 08, R237); conventional: those on media in extents whose bit is
  clear (spec 04, R125) -/
  onMedia : List Nat
  /-- commands of the band are held for a metadata rebuild (spec 13, R401) -/
  held : Bool
  /-- words of the band's metadata found uncorrectable: 0 to 15 of its written-extent bits, 256 extents each, and 16 its record (spec 13,
  R401) -/
  lostWords : List Nat
deriving DecidableEq, Repr

/-- A reservation of a namespace (spec 10, R308): the registrants (host identifier, port, key) and the holder. -/
structure Reservation where
  generation : Nat
  registrants : List (BitVec 128 × PortId × Word64)
  holder : Option (BitVec 128 × Nat)
  ptpl : Bool
deriving DecidableEq, Repr

/-- A namespace (spec 10, R302; spec 04, R122). -/
structure Namespace where
  nsid : Nat
  zoned : Bool
  size : Nat
  bands : List BandKey
  attached0 : Bool
  attached1 : Bool
  res : Reservation
deriving DecidableEq, Repr

/-- A Deferred Write Error log entry (spec 11, Table 11.5). -/
structure DeferredEntry where
  seq : Nat
  slba : Nat
  nlb : Nat
  nsid : Nat
  cause : Nat
  port : PortId
  powerOn : Nat
deriving DecidableEq, Repr

/-- Sanitize (spec 10, R302): the state, the passes and the pattern. -/
structure Sanitize where
  /-- [10 R302] a sanitize runs. Reset: false -/
  running : Bool
  /-- [10 R302] the sanitize failure state. Reset: false -/
  failed : Bool
  /-- [10 R302] OWPASS of the last sanitize. Reset: 0 -/
  passes : Nat
  /-- [10 R302] the overwrite pattern. Reset: 0 -/
  pattern : Word32
  /-- [10 R297] sanitizes that have ended well. Reset: 0 -/
  done : Nat
deriving DecidableEq, Repr

/-- The index and subindex of a dictionary object. -/
structure ObjKey where
  index : Nat
  sub : Nat
deriving DecidableEq, Repr

/-- The NVM subsystem: what both controllers share. -/
structure Subsys where
  /-- [10 R302] the namespaces, ascending by identifier. Reset: none -/
  namespaces : List Namespace
  /-- [04 R121] band records that differ from a free band's, in allocation order of their first change. Reset: empty -/
  bands : List BandRec
  /-- [11 R344] pending deferred-error flags: host table index and namespace. Reset: none -/
  deferred : List (Nat × Nat)
  /-- [11 R346] the Deferred Write Error log, newest first, at most 256. Reset: empty -/
  deferredLog : List DeferredEntry
  /-- [11 R348] DEFERRED_TOTAL (0x2120:01). Reset: 0 -/
  deferredTotal : Nat
  /-- [10 R302] sanitize. Reset: idle -/
  sanitize : Sanitize
  /-- [10 R298] Media and Data Integrity Errors. Reset: 0 (DESIGN CHOICE, log 5) -/
  mediaErrors : Nat
  /-- [10 R298] read commands completed with success, and the blocks they read. Reset: 0 (DESIGN CHOICE, log 5) -/
  hostReads : Nat
  blocksRead : Nat
  /-- [10 R298] write commands completed with success, and the blocks they wrote. Reset: 0 (DESIGN CHOICE, log 5) -/
  hostWrites : Nat
  blocksWritten : Nat
  /-- [10 R319] identity and power-state objects as in force since the last power-on reset, where they differ from the default.
  Reset: empty -/
  identity : List (ObjKey × List Byte)
  /-- [12 R395] the host table: index and Host Identifier of entries 2 to 254. Reset: empty -/
  hosts : List (Nat × BitVec 128 × PortId)
deriving DecidableEq, Repr

/-- The command store. -/
structure Cmds where
  /-- [11 R322] the contexts in use, in admission order. Reset: empty -/
  ctxs : List Ctx
  /-- [11 R322] the next admission number. Reset: 1 (DESIGN CHOICE, log 5) -/
  nextId : Nat
  /-- [02 R71, 13 R400, 16 R476] HPC fetches no command. Reset: false -/
  fetchStopped : Bool
  /-- [09 R264] no further media command is fetched. Reset: false -/
  mediaStopped : Bool
  /-- [11 R348] ABORTS_DONE (0x2121:01). Reset: 0 -/
  abortsDone : Word32
  /-- [11 R348] ABORTS_REFUSED (0x2121:02). Reset: 0 -/
  abortsRefused : Word32
deriving DecidableEq, Repr

/-- Sheepdog. -/
structure Sched where
  /-- [11 R333] the media operations filed, in order of filing. Reset: empty -/
  queue : List MediaOp
  /-- [11 R333] the operation placed on each actuator. Reset: none -/
  placed : Vector (Option MediaOp) 8
  /-- [11 R333] the number of the next operation. Reset: 0 -/
  nextOp : Nat
  /-- [01 R39] this tick's pass was discarded. Reset: false -/
  passLateNow : Bool
  /-- [11 R333] the operation that the last pass chose for an actuator that becomes free at the next tick, by number, and whether its age
  forced it. Reset: none -/
  ahead : Vector (Option (Nat × Bool)) 8
  /-- [01 R39] the actuators that this tick's pass placed an operation on, and whether its age forced it. Reset: none -/
  fresh : List (ChanId × Bool)
  /-- [11 R348] PLACED (0x2112). Reset: 0 -/
  placedCount : Vector Word64 8
  /-- [11 R348] AGED (0x2113). Reset: 0 -/
  aged : Vector Word32 8
  /-- [11 R348] PASS_LATE (0x2114:01). Reset: 0 -/
  passLate : Word32
  /-- [11 R348] BIN_MISSES (0x2115). Reset: 0 -/
  binMisses : Vector Word32 8
  /-- [11 R348] LATENCY_HIST (0x2116). Reset: zero -/
  latency : Vector (Vector Word32 16) 8
deriving DecidableEq, Repr

/-! ## Buffer memory and cache -/

/-- The stages BMS_STATE reports (spec 12, Table 4 of start-up). -/
inductive BmsStage where
  | selfTest | training | fill | ready | failed
deriving DecidableEq, Repr

/-- A pending request with the slot it arrived in and its place in the order in which the channel's requests were issued. -/
structure Waiting where
  req : BufReq
  arrived : Nat
  seq : Nat
deriving DecidableEq, Repr

/-- The arbiter of one port of one channel (spec 12, R366, R367). -/
structure Arbiter where
  /-- [12 R349] the slot counter. Reset: 0 -/
  slot : Nat
  /-- [12 R366] the pending requests, oldest first. Reset: empty -/
  waiting : List Waiting
  /-- [12 R367] the requester last served in the normal lane. Reset: 21 (DESIGN CHOICE, log 6) -/
  lastServed : Nat
deriving DecidableEq, Repr

/-- A correctable-error table entry (spec 12, Table 12.5). -/
structure CeEntry where
  word : Nat
  symbol : Nat
  mask : Byte
  scrub : Bool
  hard : Bool
  count : Nat
  first : Nat
  repaired : Bool
deriving DecidableEq, Repr

/-- One channel of the buffer memory. -/
structure BmsChan where
  /-- [12 R350] words that differ from zero, rows strictly rising. Reset: empty (R357: after the fill every word is zero) -/
  words : List (Nat × BufWord)
  readPort : Arbiter
  writePort : Arbiter
  /-- [12 R361] rows found uncorrectable and not yet poisoned, in order of detection: the row, the data as received and the slot at
  which its poison write became pending or was detected. Reset: empty -/
  toPoison : List (BitVec 22 × BitVec 256 × Nat)
  /-- [12 R359] repair writes queued: the row, the corrected word and the slot queued in. Reset: empty -/
  repairs : List (BitVec 22 × BufWord × Nat)
  /-- [12 R393] CE_COUNT (0x2202). Reset: 0 -/
  ceCount : Word32
  /-- [12 R393] UE_COUNT (0x2203). Reset: 0 -/
  ueCount : Word32
  /-- [12 R393] POISON_READS (0x2204). Reset: 0 -/
  poisonReads : Word32
  /-- [12 R393] WAIT_MAX (0x2206). Reset: 0 -/
  waitMax : Word16
  /-- [12 R393] WRITEBACK_DROPS (0x2207). Reset: 0 -/
  drops : Word32
  /-- [12 R364] the row of the next scrub read (SCRUB_ROW, 0x2201:06, gives channel 0's). Reset: 0 -/
  scrubRow : BitVec 22
  /-- [12 R364] the slot of the last scrub read. Reset: none -/
  scrubSlot : Option Nat
  /-- [12 R365] the lap in progress has been recorded as long. Reset: false -/
  lapWarned : Bool
  /-- [12 R363] what the last read returned to its requester: none is an error response (output). Reset: none -/
  lastRead : Option (Nat × Option (BitVec 256))
  /-- [12 R351] the write granted last: its slot, its row, the word held before it and its requester. Reset: none -/
  justWritten : Option (Nat × BitVec 22 × BufWord × Nat)
  /-- [12 R351] the requests issued so far (the MODEL's own: it keeps the order of issue). Reset: 0 -/
  issued : Nat
deriving DecidableEq, Repr

/-- The buffer memory system. -/
structure Bms where
  /-- [12 R393] BMS_STATE (0x2200:01). Reset: 0x00 (self-test) -/
  stage : BmsStage
  /-- [12 R393] BMS_FAULT (0x2200:02). Reset: 0x00 -/
  fault : Byte
  /-- [12 R393] INIT_TIME (0x2200:03), us. Reset: 0 -/
  initTime : Nat
  chans : Vector BmsChan 4
  /-- [12 R360] CE_TABLE (0x2205:01). Reset: empty -/
  ceTable : List CeEntry
  /-- [12 R393] CE_TABLE_LOST (0x2205:03). Reset: 0 -/
  ceLost : Word32
  /-- [12 R364] channels that have read every row in this lap. Reset: none -/
  lapDone : List (Fin 4)
  /-- [12 R393] SCRUB_LAPS (0x2201:05). Reset: 0 -/
  laps : Word32
  /-- [12 R393] SCRUB_LAP (0x2201:03), ms. Reset: 0 -/
  lapMs : Nat
  /-- [12 R365] the instant the lap in progress began, ns. Reset: 0 -/
  lapStart : Nat
deriving DecidableEq, Repr

/-- The line states of spec 12, Table 12.10; an INVALID line is listed only while a transfer still has it pinned (R374). -/
inductive LineState where
  | clean | dirty | shadow | held | filling | invalid
deriving DecidableEq, Repr

/-- A cache line that holds a way: its tag (spec 12, Table 12.9) and its data. -/
structure Line where
  block : BlockKey
  way : Fin 16
  state : LineState
  version : Nat
  hostx : Nat
  port : PortId
  gen : Word16
  mr : Option Nat
  fromSide : Bool
  pinned : Bool
  poison : Bool
  replayed : Bool
  track : Nat
  data : Block
deriving DecidableEq, Repr

/-- The kinds of miss register (spec 12, R380). -/
inductive MrKind where
  | demand | prefetch | internal
deriving DecidableEq, Repr

/-- A miss register. `arrived` lists the blocks of the extent that have arrived or cannot be read, `kept` the data of those that have
arrived (R381). -/
structure MissReg where
  id : Nat
  kind : MrKind
  nsid : Nat
  lba : Nat
  count : Nat
  merged : List Nat
  stale : Bool
  written : List Nat
  arrived : List Nat
  kept : List (Nat × Block)
  transient : List Nat
  admittedAt : Nat
deriving DecidableEq, Repr

/-- A side-buffer slot that is not FREE: its block, whether its data is READY, whether it is transient. -/
structure SideSlot where
  block : BlockKey
  ready : Bool
  transient : Bool
  data : Block
deriving DecidableEq, Repr

/-- A paused write (spec 12, R377): the set of its next block, its context, whether the 12-way limit causes the pause, and whether it has
waited ALLOC_WAIT with the release of a SHADOW line still to come. -/
structure Pause where
  set : Nat
  ctx : Nat
  twelve : Bool
  expired : Bool
deriving DecidableEq, Repr

/-- A sequential stream (spec 12, R384). -/
structure Stream where
  nsid : Nat
  next : Nat
  extensions : Nat
  prefetched : Nat
  inFlight : Option Nat
deriving DecidableEq, Repr

/-- The cache modes of spec 12, R387. -/
inductive CacheMode where
  | writeBack | writeThrough | off | draining
deriving DecidableEq, Repr

/-- The buffer cache. -/
structure Cache where
  /-- [12 R373] the lines that are not INVALID, or still pinned. Reset: none -/
  lines : List Line
  /-- [12 R376] the PLRU words that are not zero, by set. Reset: all zero -/
  plru : List (Nat × Word16)
  /-- [12 R380] the miss registers in use. Reset: none -/
  regs : List MissReg
  /-- [12 R380] the number of the next register. Reset: 0 -/
  nextReg : Nat
  /-- [12 R385] the side-buffer slots in use, oldest first. Reset: none -/
  side : List SideSlot
  /-- [12 R384] the streams, least recently extended first. Reset: none -/
  streams : List Stream
  /-- [12 R387] the mode in force. Reset: WRITE_THROUGH (R78, Table 12.11) -/
  mode : CacheMode
  /-- [12 R387] the requested mode (CACHE_MODE_REQ, 0x2300:02). Reset: WRITE_BACK (the default of CACHE_MODE) -/
  requested : CacheMode
  /-- [12 R377] pauses waiting, oldest first. Reset: none -/
  pauses : List Pause
  /-- [12 R394] READ_HITS, SIDE_HITS, MERGES, MISSES, PREFETCHES (0x2311:01-05). Reset: 0 -/
  readHits : Word64
  sideHits : Word64
  merges : Word64
  misses : Word64
  prefetches : Word64
  /-- [12 R394] BYPASS_FILLS, STALE_FILLS, SHADOW_EARLY, ALLOC_WAITS, POISONED_LINES (0x2312:02-06). Reset: 0 -/
  bypass : Word32
  staleFills : Word32
  shadowEarly : Word32
  allocWaits : Word32
  poisoned : Word32
  /-- [12 R377] blocks destaged with priority, first first. Reset: none -/
  urgent : List BlockKey
deriving DecidableEq, Repr

/-! ## Fault management -/

/-- A fault record (spec 13, Table 13.6); each stamp carries whether its event was write-side. -/
structure FaultRec where
  transient : Word32
  permTotal : Nat
  state : Nat
  lastKind : Nat
  stamps : List (Nat × Bool)
  retiredAt : Nat
deriving DecidableEq, Repr

/-- A unit that can be retired. -/
inductive UnitId where
  | reader (h : HeadId) (b : Bool) | head (h : HeadId) | channel (n : ChanId)
deriving DecidableEq, Repr

/-- Fault management. -/
structure Faults where
  /-- [13 R409] READER_FAULTS (0x7305), index 2h + r. Reset: zero -/
  readers : Vector FaultRec 64
  /-- [13 R409] HEAD_FAULTS (0x7303). Reset: zero -/
  heads : Vector FaultRec 32
  /-- [13 R409] CHANNEL_FAULTS (0x7304). Reset: zero -/
  channels : Vector FaultRec 8
  /-- [13 R409] RETIRED_READERS (0x7301:01). Reset: 0 -/
  retiredReaders : BitVec 64
  /-- [13 R409] RETIRED_HEADS (0x7301:02). Reset: 0 -/
  retiredHeads : BitVec 32
  /-- [13 R409] READ_ONLY_HEADS (0x7301:03). Reset: 0 -/
  readOnlyHeads : BitVec 32
  /-- [13 R409] RETIRED_CHANNELS (0x7301:04). Reset: 0 -/
  retiredChannels : BitVec 8
  /-- [13 R403] decided retirements waiting for their instant: the unit and whether full. Reset: none -/
  decided : List (UnitId × Bool)
  /-- [13 R409] UNRETIRE (0x7302:02). Reset: 0 -/
  unretire : Bool
  /-- [13 R396] escalation: power-on times of reader blames, by blamed reader. Reset: empty -/
  blames : List (Nat × Nat)
  /-- [13 R396] consecutive seek faults per channel. Reset: 0 -/
  seekRun : Vector Nat 8
  /-- [13 R409] SPEED_FAULTS, INDEX_LOSSES, DRIVE_RESTARTS, PLANE_RESTARTS, REBUILDS, VAULT_LOSSES (0x7310:01-06). Reset: 0 -/
  speedFaults : Word32
  indexLosses : Word32
  driveRestarts : Word32
  planeRestarts : Word32
  rebuilds : Word32
  vaultLosses : Word32
  /-- [13 R400] power-on time of the last restart of the data plane and of the management plane. Reset: none -/
  dataRestart : Option Nat
  mgmtRestart : Option Nat
  /-- [13 R400] a restart of the plane is in progress. Reset: false -/
  dataDown : Bool
  mgmtDown : Bool
deriving DecidableEq, Repr

/-! ## The Mule -/

/-- REGION_STATE (spec 14, R424). -/
inductive RegionState where
  | erased | written | replayed | erasing | unknown
deriving DecidableEq, Repr

/-- The journal's records (spec 14, Table 14.7). -/
inductive JournalRec where
  | band (r : BandRec) | supersede (b : BlockKey) | lostRun (b : BandKey) (first count : Nat)
  | reloc (b : BandKey) (pos : Nat) | defect (b : BandKey) (pos : Nat)
  | bitmap (b : BandKey) (word : Fin 16) (bits : BitVec 256)
  | checkpoint (ends : Bool) (seq : Nat)
deriving DecidableEq, Repr

/-- A vault in a region (spec 14, R425, R426): the header fields, the lines with their tags, and the metadata. -/
structure VaultImage where
  seq : Nat
  byPwrdis : Bool
  cycle : Nat
  powerOn : Nat
  lines : List Line
  bands : List BandKey
  cacheReq : CacheMode
  records : List BandRec
  /-- the journal records not yet on the NAND, newest first -/
  unwritten : List JournalRec
  events : List (Nat × List Byte)
  oemMap : List PageAddr
  hosts : List (Nat × BitVec 128 × PortId)
  /-- its trigger counted an unsafe shutdown (spec 10, R298) -/
  counted : Bool
  /-- a copy of the header is programmed and reads -/
  headerOk : Bool
  committed : Bool
deriving DecidableEq, Repr

/-- A vault region. -/
structure Region where
  /-- [14 R424] REGION_STATE (0x7011). Reset: 4 (UNKNOWN) -/
  state : RegionState
  /-- [14 R425] the vault it holds. Reset: none -/
  image : Option VaultImage
  /-- [14 R427] the REPLAYED marker is programmed. Reset: false -/
  marker : Bool
  /-- [14 R424] stripes erased on die 0 and die 1 by the erase in progress. Reset: 0 -/
  erased : Vector Nat 2
  /-- [14 R425] step positions programmed. Reset: 0 -/
  steps : Nat
deriving DecidableEq, Repr

/-- A programmed page (spec 14, R413): the fields of its header (Table 14.2) and its data; the spare area is `Machine.spareArea`. -/
structure NandPage where
  part : Nat
  kind : Nat
  seq : Nat
  lpage : Nat
  /-- the owner bytes 16 to 27, zero where the list ends -/
  owner : List Byte
  data : List Byte
deriving DecidableEq, Repr

/-- A firmware slot (spec 16, Table 16.3). -/
structure Slot where
  /-- [16 R473] the slot's state: 0 EMPTY, 1 STAGING, 2 SEALED. Reset: slot A 2, slot B 0 (DESIGN CHOICE, log 9) -/
  state : Nat
  /-- [16 R472] the power-on time the lease counts from. Reset: 0 -/
  leaseMark : Nat
  /-- [16 R473] IMAGE_ID. Reset: slot A 1, slot B 0 (DESIGN CHOICE, log 9) -/
  imageId : Nat
  /-- [16 R473] VERSION. Reset: slot A 0x01000000, slot B 0 (DESIGN CHOICE, log 9) -/
  version : Nat
  /-- [16 R473] IMAGE_LENGTH. Reset: slot A 0x200000, slot B 0 (DESIGN CHOICE, log 9) -/
  length : Nat
  /-- [16 R475] the image can be activated at a reset only. Reset: false (DESIGN CHOICE, log 9) -/
  resetOnly : Bool
  /-- [16 R473] FR, the firmware revision. Reset: empty (DESIGN CHOICE, log 9) -/
  fr : List Byte
  /-- [16 R475] the image's vault format. Reset: slot A 1, slot B 0 (DESIGN CHOICE, log 9) -/
  vaultFormat : Nat
  /-- [16 R477] the image's dictionary version. Reset: slot A 0x0100, slot B 0 (DESIGN CHOICE, log 9) -/
  dictVersion : Nat
deriving DecidableEq, Repr

/-- A copy of SYSTEM (spec 14, R415): its SEQ, for each die the bad-block table and the partition table's remapping, and the slot record
(spec 16, Table 16.3). -/
structure SystemCopy where
  seq : Nat
  bad : Vector (List (Fin 4 × Nat × Bool)) 2
  remap : Vector (List (Fin 4 × Nat × Nat)) 2
  poolNext : Vector Nat 2
  active : Fin 2
  next : Option (Fin 2)
  source : Option Path
  slots : Vector Slot 2
deriving DecidableEq, Repr

/-- A NAND operation running on a die; a program carries its pages of that die. -/
inductive NandOp where
  | program (who : Partition) (at_ : PageAddr) (pages : List NandPage)
  | erase (who : Partition) (at_ : PageAddr)
  | read (who : Partition) (at_ : PageAddr)
deriving DecidableEq, Repr

/-- One NAND die. -/
structure Die where
  /-- [14 R418] the bad blocks: plane, block, grown. Reset: none (DESIGN CHOICE, log 7) -/
  bad : List (Fin 4 × Nat × Bool)
  /-- [14 R421] pages whose erased-page map bit is set. Reset: none (DESIGN CHOICE, log 7) -/
  erased : List (Fin 4 × Nat × Nat)
  /-- [14 R411, R413] the programmed pages. Reset: empty -/
  pages : List ((Fin 4 × Nat × Nat) × NandPage)
  /-- [14 R418] remapped blocks: plane, logical block, replacement. Reset: none -/
  remap : List (Fin 4 × Nat × Nat)
  /-- [14 R418] the next pool block of each plane. Reset: 175 -/
  poolNext : Nat
  /-- [14 R432] the operation running. Reset: none -/
  op : Option NandOp
  /-- [14 R432] the operation is suspended. Reset: false -/
  suspended : Bool
  /-- [14 R432] a suspend is barred: within 400 us after a resume. Reset: false -/
  barred : Bool
  /-- [14 R432] code misses waiting on the die: slot page and instant, oldest first. Reset: empty -/
  misses : List (Nat × Nat)
deriving DecidableEq, Repr

/-- The Mule. -/
structure Mule where
  dies : Vector Die 2
  /-- [14 R415] the copies of SYSTEM, newest first. Reset: the factory's, SEQ 0, with no bad block (DESIGN CHOICE, log 7) -/
  system : List SystemCopy
  /-- [14 R413] pages written so far in SYSTEM, the slots, EVENT_LOG and CAL_STORE: their last SEQ. Reset: none -/
  written : List (Partition × Nat)
  regions : Vector Region 2
  /-- [14 R417] the factory bad-block scan has run. Reset: false -/
  scanned : Bool
  /-- [03 R85] MOUNT has ended in this power cycle. Reset: false -/
  mounted : Bool
  /-- [14 R415] no copy of SYSTEM decodes: no vault is taken in this power cycle. Reset: false -/
  broken : Bool
  /-- [14 R435] VAULT_SEQ, LAST_VAULT_LINES, LAST_VAULT_TIME (0x7012:01-03). Reset: 0 -/
  vaultSeq : Nat
  lastLines : Nat
  lastVaultUs : Nat
  /-- [14 R435] LAST_REPLAY_TIME (0x7012:04). Reset: 0 -/
  lastReplayUs : Nat
  /-- [14 R425] the step position being programmed, and the steps of the vault. Reset: 0 -/
  vaultStep : Nat
  vaultSteps : Nat
  /-- [14 R425] the vault's steps that stand. Reset: 0 -/
  vaultDone : Nat
  /-- [14 R419] a page of the step being programmed has failed. Reset: false -/
  vaultFail : Bool
  /-- [14 R413] the last SEQ of the page headers of OEM and JOURNAL. Reset: 0 -/
  oemSeq : Nat
  journalPages : Nat
  /-- [14 R427] the region REPLAY takes. Reset: none -/
  replaying : Option (Fin 2)
  /-- [14 R430] the journal on the NAND, newest first. Reset: empty -/
  journal : List JournalRec
  /-- [14 R430] records in the page buffer, newest first. Reset: empty -/
  journalBuf : List JournalRec
  /-- [14 R430] records of the page being programmed, newest first. Reset: empty -/
  journalFlight : List JournalRec
  /-- [14 R430] the instant of the last checkpoint, ns. Reset: 0 -/
  ckptNs : Nat
  /-- [14 R430] records written since the last checkpoint. Reset: 0 -/
  sinceCkpt : Nat
  /-- [14 R435] CKPT_SEQ (0x7030:03). Reset: 0 -/
  ckptSeq : Nat
  /-- [14 R430] the journal sequence. Reset: 0 -/
  journalSeq : Nat
  /-- [14 R430] the journal pages at which the two newest checkpoints were taken, the older first. Reset: 0 -/
  ckptMarks : Nat × Nat
  /-- [14 R430] the journal's stripes erased for reuse on die 0 and die 1. Reset: 0 -/
  journalErased : Vector Nat 2
  /-- [14 R430] the checkpoint image of the band records. Reset: empty -/
  checkpoint : List BandRec
  /-- [14 R429] blocks whose supersede record is programmed, and those awaiting it. Reset: empty -/
  superseded : List BlockKey
  superWait : List (BlockKey × Nat)
  /-- [14 R435] RETRY_HIST (0x7021). Reset: 0 -/
  retryHist : Vector Word32 10
  /-- [14 R423] blocks queued for refresh. Reset: empty -/
  refresh : List (Fin 2 × Fin 4 × Nat)
  /-- [14 R435] PROGRAM_FAILS, ERASE_FAILS, REFUSED_PROGRAMS, REFRESHES (0x7022:01-04). Reset: 0 -/
  programFails : Word32
  eraseFails : Word32
  refused : Word32
  refreshes : Word32
  /-- [14 R431] the code cache: for each set the slot pages held, most recently used first. Reset: empty -/
  codeCache : List (Nat × List Nat)
  /-- [14 R435] CODE_MISSES, SUSPENDS, MISS_WAIT_MAX (0x7040:01-03). Reset: 0 -/
  codeMisses : Word32
  suspends : Word32
  missWaitMax : Word16
  /-- [14 R435] OEM_BLOCK, OEM_PAGE, OEM_CMD (0x7050:01-03). Reset: 0 -/
  oemBlock : Nat
  oemPage : Nat
  oemCmd : Byte
  /-- [14 R435] OEM_WBUF and OEM_RBUF (0x7050:04, 05). Reset: empty -/
  oemWbuf : List Byte
  oemRbuf : List Byte
  /-- [14 R435] OEM_STATUS (0x7050:06). Reset: 0 -/
  oemStatus : Byte
  /-- [14 R433] the OEM operation running has been moved to a replacement block. Reset: false -/
  oemRemapped : Bool
  /-- [14 R435] OEM_MAP_LOST (0x7050:07). Reset: 0 -/
  oemMapLost : Bool
  /-- [14 R422] the saved OEM part of the erased-page map and its power-cycle count. Reset: none -/
  oemSaved : Option (Nat × List PageAddr)
  /-- [14 R435] SLOT_ERASE (0x7060:01). Reset: 0xFF -/
  slotErase : Byte
deriving DecidableEq, Repr

/-! ## Dictionary, management fabric, firmware and events -/

/-- COMMIT readback states (spec 15, Table 15.4), apart from IDLE and STAGED which the staging copy shows. -/
inductive CommitStage where
  | idle | validating | swapping
deriving DecidableEq, Repr

/-- Who awaits the answer of a commit (spec 15, R446): a write of COMMIT, the Commit command of a port, or a Plarik message by its
bytes and its source endpoint. -/
inductive Waiter where
  | write (p : Path) | command (a : AdminHdr) | message (p : Path) (request : List Byte) (endpoint : Byte)
deriving DecidableEq, Repr

/-- The dictionary. -/
structure Dict where
  /-- [15 R436] values that differ from the default, by object. Reset: none -/
  values : List (ObjKey × List Byte)
  /-- [15 R444] the staging copy. Reset: empty -/
  staged : List (ObjKey × List Byte)
  /-- [15 R444] STAGE_OWNER (0x1020:04). Reset: none (0xFF) -/
  owner : Option Path
  /-- [15 R446] the commit in progress. Reset: idle -/
  stage : CommitStage
  /-- [01 R23] the servo and assist set of the commit in progress is in use. Reset: false -/
  servoSwapped : Bool
  /-- [01 R24] channels that have taken the channel part. Reset: none -/
  chanSwapped : BitVec 8
  /-- [15 R449] a cause of discard waits for the end of the commit. Reset: none -/
  discardAfter : Option Nat
  /-- [15 R446] who awaits the answer of the commit. Reset: none -/
  waiter : Option Waiter
  /-- [01 R22] the instant at which the commit in progress was written, ns. Reset: 0 -/
  commitAt : Nat
  /-- [04 R104] a direct write made the configuration unvalidated after the commit in progress had been checked. Reset: false -/
  changedSince : Bool
  /-- [15 R446] the tick counter at the swap boundary of the commit in progress. Reset: 0 -/
  swapTick : Word64
  /-- [15 R463] COMMIT_RESULT (0x1020:02). Reset: 0 -/
  result : Word32
  /-- [15 R463] COMMIT_OBJECT (0x1020:03). Reset: 0 -/
  object : Word32
  /-- [15 R463] COMMITS (0x1020:07). Reset: 0 -/
  commits : Word32
  /-- [15 R463] COMMIT_TICK (0x1020:08). Reset: 0 -/
  commitTick : Word64
  /-- [04 R104] the configuration is unvalidated (persistent). Reset: false -/
  unvalidated : Bool
deriving DecidableEq, Repr

/-- An open segmented write or a read snapshot of a path (spec 15, R454, R455). -/
structure PathState where
  /-- [15 R460] in the privileged view. Reset: false -/
  priv : Bool
  /-- [15 R454] the open segmented write. Reset: none -/
  segment : Option (ObjKey × List Byte)
  /-- [15 R455] the read snapshot and how many of its bytes have been read. Reset: none -/
  snapshot : Option (ObjKey × List Byte × Nat)
  /-- [16 R479] FW_PIECE_OFFSET (0x7101:01) of the source. Reset: 0 -/
  fwOffset : Nat
  /-- [16 R467] the source image: IMAGE_ID of the last header accepted. Reset: none -/
  sourceImage : Option Nat
deriving DecidableEq, Repr

/-- The management fabric. -/
structure Mgmt where
  /-- [15 R460] port 0, port 1 and the MCTP path, in this order. Reset: each at its own reset -/
  paths : Vector PathState 3
  /-- [15 R461] the owner lock: the path and the 128-bit identifier. Reset: none -/
  lock : Option (Path × BitVec 128)
  /-- [15 R463] MCTP_EID (0x1100:01). Reset: 0x00 -/
  eid : Byte
  /-- [15 R463] MCTP_TU (0x1100:06). Reset: 64 -/
  tu : Nat
  /-- [15 R458] SMBus frequency selected by Configuration Set (1: 100 kHz, 2: 400 kHz). Reset: 1 (PRESUMED, log 8) -/
  smbusFreq : Nat
  /-- [15 R458] Health Status Change flags cleared by Configuration Set. Reset: 0 -/
  healthChange : Word16
  /-- [15 R458] the I3C dynamic address. Reset: none -/
  i3cAddr : Option (BitVec 7)
  /-- [15 R463] MCTP_STATUS (0x1101:01). Reset: 0x0000 -/
  status : Word16
  /-- [15 R463] PLARIK_REQUESTS, PLARIK_DISCARDS, MCTP_DROPS (0x1101:02-04). Reset: 0 -/
  requests : Word32
  discards : Word32
  drops : Word32
  /-- [15 R456] MCTP endpoints with a request outstanding. Reset: empty -/
  busy : List Byte
  /-- [15 R452] responses sent on the MCTP path, oldest first (output trace). Reset: empty -/
  sent : List (List Byte)
  /-- [15 R459] Alert Response answers sent (output trace). Reset: 0 -/
  alertAnswers : List Byte
  /-- [15 R463] the last dictionary answer of a direct object write or read: abort code and value (output). Reset: none -/
  answer : Option (Word32 × List Byte)
  /-- [05 R152] CAPTURE_CTRL, CAPTURE_DECIM, CAPTURE_LOST (0x4010:01, 03, 05). Reset: 0, 1, 0 -/
  capCtrl : Nat
  capDecim : Nat
  capLost : Word32
  /-- [05 R151] the capture ring, oldest first, at most 32,768 records. Reset: empty -/
  capture : List ServoRec
deriving DecidableEq, Repr

/-- The stages of an immediate activation (spec 16, Table 16.6). -/
inductive Activation where
  | none | draining | loading | switched
deriving DecidableEq, Repr

/-- Firmware staging. -/
structure Fw where
  /-- [16 R473] the slots A and B. Reset: A SEALED, B EMPTY (DESIGN CHOICE, log 9) -/
  slots : Vector Slot 2
  /-- [16 R473] ACTIVE. Reset: 0 (DESIGN CHOICE, log 9) -/
  active : Fin 2
  /-- [16 R473] NEXT; none is 0xFF. Reset: none -/
  next : Option (Fin 2)
  /-- [16 R473] BIND_SOURCE; none is 0xFFFF. Reset: none -/
  source : Option Path
  /-- [16 R467] the bound header. Reset: none -/
  header : Option (List Byte)
  /-- [16 R471] SEALING. Reset: false -/
  sealing : Bool
  /-- [16 R469] units programmed, and units in the assembly buffer by image page, least recently added first. Reset: empty -/
  programmed : List Nat
  assembly : List (Nat × List Nat)
  /-- [16 R470] image pages programmed since the last map page. Reset: 0 -/
  sinceMap : Nat
  /-- [16 R472] the Lamb slot is being erased in the background. Reset: false -/
  erasing : Bool
  /-- [14 R434] stripes of the slot still to be erased on die 0 and die 1. Reset: 0 -/
  eraseLeft : Vector Nat 2
  /-- [16 R476] the immediate activation in progress. Reset: none -/
  activation : Activation
  /-- [16 R476] the slot it activates, the slot before, and who asked (port and command, or none for FW_ACTION). Reset: none -/
  target : Option (Fin 2)
  before : Fin 2
  asker : Option AdminHdr
  /-- [16 R476] the image failed SIGNATURE or HOT_DIGEST before the switch point. Reset: false -/
  badImage : Bool
  /-- [16 R479] FW_ACTION_SLOT (0x7102:02). Reset: 0 -/
  actionSlot : Nat
  /-- [16 R479] FW_ACTION_RESULT (0x7102:03). Reset: 0 -/
  actionResult : Word32
  /-- [16 R479] FW_PIECES, FW_REFUSALS, FW_UNITS_DROPPED, FW_ACTIVATIONS, FW_FALLBACKS (0x7104:01-05). Reset: 0 -/
  pieces : Word32
  refusals : Word32
  dropped : Word32
  activations : Word32
  fallbacks : Word32
deriving DecidableEq, Repr

/-- An event to be recorded (spec 17, Table 17.1): CODE, SEVERITY, SOURCE, UNIT_KIND, UNIT, KEY and DETAIL, with the
power-on time of its arrival. -/
structure Event where
  code : Word16
  severity : BitVec 2
  source : BitVec 3
  unitKind : BitVec 2
  unit : BitVec 6
  key : Word32
  detail : Word64
  powerOn : Nat
deriving DecidableEq, Repr

/-- A record of the ring. -/
structure EventRec where
  event : Event
  seq : Nat
  cycle : Nat
  rept : Nat
deriving DecidableEq, Repr

/-- The event recorder. -/
structure Evr where
  /-- [17 R483] pending events in arrival order, at most 256. Reset: empty -/
  queue : List Event
  /-- [17 R484] the boot list, at most 64. Reset: empty -/
  boot : List Event
  /-- [17 R484] events beyond the boot list. Reset: 0 -/
  bootLost : Nat
  /-- [17 R481] the newest 4,096 records, newest first. Reset: empty -/
  ring : List EventRec
  /-- [17 R482] SEQ of the next record (EVT_SEQ, 0x7201:01). Reset: 0 -/
  nextSeq : Nat
  /-- [17 R485] the newest record is open. Reset: false -/
  isOpen : Bool
  /-- [17 R493] EVT_MODE (0x7200:01) is FILL. Reset: false (REPEAT) -/
  fill : Bool
  /-- [17 R486] frozen. Reset: false -/
  frozen : Bool
  /-- [17 R486] events queued at the freeze and still to be written. Reset: 0 -/
  freezeLeft : Nat
  /-- [17 R493] FROZEN_COUNT (0x7201:03). Reset: 0 -/
  frozenCount : Nat
  /-- [17 R492] severity-3 and severity-2 events counted in the freeze, and the last CODE. Reset: 0 -/
  frozen3 : Nat
  frozen2 : Nat
  frozenLast : Word16
  /-- [17 R493] OVERFLOWS (0x7201:04). Reset: 0 -/
  overflows : Word32
  /-- [17 R483] events lost since the last OVERFLOW record. Reset: 0 -/
  lostSince : Nat
  /-- [17 R487] EVENT_LOG: mirrored records, newest first. Reset: empty -/
  log : List EventRec
  /-- [17 R491] LOG_SELECT (0x7202:01). Reset: 0 -/
  logSelect : Nat
deriving DecidableEq, Repr

/-! ## The machine -/

/-- The state of the controller. -/
structure State where
  power : Power
  clock : Clock
  tick : Tick
  links : Vector Link 2
  chans : Vector Chan 8
  heads : Vector Head 32
  env : Env
  cal : Cal
  ports : Vector Port 2
  sub : Subsys
  cmds : Cmds
  sched : Sched
  bms : Bms
  cache : Cache
  faults : Faults
  mule : Mule
  dict : Dict
  mgmt : Mgmt
  fw : Fw
  evr : Evr
  /-- [03 R90] actuators still to load, in load order. Reset: empty -/
  loadQueue : List ChanId
  /-- [] the model's own field: the number of the next free value (log 2). Reset: 0 (DESIGN CHOICE, log 2) -/
  freeCount : Nat
  /-- [] the model's own field: the commands that wait, first in, first out (log 1). Reset: empty -/
  pending : List Instr
deriving DecidableEq, Repr

/-! ## Reset -/

/-- The reset value of `Power`, field by field as its docstrings name it. -/
def Power.reset : Power :=
  { crx4 := false, railsLow := [], porst := false, running := false, dead := false,
    straps := ⟨false, false, false, false, false⟩, holdLow := false, dips := 0, pwrdis := false,
    pwrdisTimer := false, pwrdisSeenLow := false, phase := .boot, fault := 0, failCodes := [], readyTime := 0,
    retiredAtStart := 0, phaseStart := 0, mountEndAt := 0, staggerFrom := 0, attempts := 0, braking := false,
    restarting := false, zoneLoadDone := false, standbyPending := false, thermalStop := false,
    speedChange := .none, fromPower := true, bootEnded := false, uart := [], holdTesting := false, storeMv := 0,
    inputVolts := 0, holdupPassed := false, holdupEver := false, holdupWarn := false, holdupCap := 0,
    holdupEnergy := 0, vault := .none, vaultUnsafe := false, vaultByPwrdis := false, vaultAt := 0,
    alertLow := false }

/-- The reset value of `Clock`, field by field as its docstrings name it. -/
def Clock.reset : Clock :=
  { ns := 0, sub := 0, powerOnBase := 0, cycles := 0, lastShutdown := 0, unsafeShutdowns := 0 }

/-- The reset value of `Tick`, field by field as its docstrings name it. -/
def Tick.reset : Tick :=
  { state := .stopped, next := none, counter := 0, number := 0, rpm := 7200, revNs := 8333333, acc := 0,
    snapEdge := none, snapDelay := none, lastEdge := none, goodRevs := 0, wasLocked := false, ramp := false,
    readsHeld := false, speedFault := false, indexLost := false, lostAt := 0, lost10s := false, glitches := 0,
    refAct := 0, substEdge := none, lastRev := none, capPct := 100, tokens := none, tokenAcc := 0 }

/-- The reset value of `Link`, field by field as its docstrings name it. -/
def Link.reset : Link :=
  { up := false, lost := false, charged := false, rxSeq := none, txSeq := 0, badFrames := 0, sent := [],
    idles := 0, sinceTick := 0, revCount := 0, bemfSpeed := 0, bemfFlags := 0, faultCode := 0 }

/-- The reset value of `Sdm`, field by field as its docstrings name it. -/
def Sdm.reset : Sdm :=
  { head := 0, pos := 0, vel := 0, missRun := 0, reacq := false, reacqField := none, wedge := 0, validRun := 0,
    goodRun := 0, intervals := [], sinceSam := none, switched := false, kappa := none, kappaPub := none,
    phase := 0, switchPred := none, lastTick := none, wedge0 := [], onTrack := false, faultAt := none,
    unsafeAt := none, outside := false, missed := 0, faults := 0, wraps := 0, openRec := none, closed := [],
    lastRec := none, seq := 0, decim := 0 }

/-- The reset value of `Hist`, field by field as its docstrings name it. -/
def Hist.reset : Hist :=
  { x1 := 0, x2 := 0, y1 := 0, y2 := 0 }

/-- The reset value of `CeHist`, field by field as its docstrings name it. -/
def CeHist.reset : CeHist :=
  { sections := .replicate 14 Hist.reset, flock := .replicate 4 (Hist.reset, Hist.reset) }

/-- The reset value of `Ce`, field by field as its docstrings name it. -/
def Ce.reset : Ce :=
  { mode := .follow, lastMode := .follow, target := 0, offset := 0, writeMark := false, moving := false,
    moveNew := false, settleCount := 0, settleWrite := false, hist := CeHist.reset, flockOut := none, busy := none,
    lastVcm := 0, lastMa := 0, vcmLog := [], vcmMiss := [], uHold := 0, abandonRun := 0, reinitHold := 0,
    overrunHold := false, copyB := false, newSet := false, overruns := 0, ceFaults := 0, capClamps := 0,
    delayMax := 0, flockInvalid := 0, paritySwitches := 0, seekFaults := 0 }

/-- The reset value of `CaptureEntry`, field by field as its docstrings name it. -/
def CaptureEntry.reset : CaptureEntry :=
  { state := .free, head := 0, band := 0, offset := 0, rate := 0, samplePct := 0, channelSet := 0, tick := 0,
    samples := 0, gainLimit := false, recovered := false, sm1 := none, sm2 := none, synd := 0, frags := [],
    spans := [], spanReaders := [], overflow := false, basis := .nominal, shift := false, order := 0, codesA := [],
    codesB := [], freq := 0 }

/-- The reset value of `Rwc`, field by field as its docstrings name it. -/
def Rwc.reset : Rwc :=
  { op := none, nextSector := 0, decoding := [], stopRead := false, entries := .replicate 10 CaptureEntry.reset,
    ladders := [], attempt := none, powerA := false, powerB := false, lastFreq := [], order := 0,
    heldByLadder := false, swapPending := false, sectorsRead := 0, otfFails := 0, sm1Hist := .replicate 6 0,
    recoveredAt := .replicate 6 0, sm2Reframes := 0, taEvents := 0, skipped := 0, iterHist := .replicate 13 0,
    misdirected := 0, sm2Mismatch := 0 }

/-- The reset value of `WriteSide`, field by field as its docstrings name it. -/
def WriteSide.reset : WriteSide :=
  { run := none, fixed := none, fifo := [], request := false, armed := false, wg := false, wd := none,
    wroteIn := none, posFaults := [], sinceInside := 0, pendingExc := [], paLow := false, paHighWedges := 0,
    paHold := false, paClean := false, paFirst := false, paCharged := false, warmFrom := none,
    assistReady := false, withdrawAtEnd := false, level := 0, levelPending := none, levelSent := false,
    writerSent := false, serial := [], sectorsWritten := 0, aborts := 0, slips := 0, underruns := 0,
    excursions := 0, repairs := 0, paFaults := 0, lastPaFault := 0, monOut := 0, trimLate := 0, capClamps := 0 }

/-- The reset value of `Chan`, field by field as its docstrings name it. -/
def Chan.reset : Chan :=
  { access := none, report := none, load := .unloaded, loadFails := 0, loadDoomed := false, reloadOf := none,
    sdm := Sdm.reset, ce := Ce.reset, rwc := Rwc.reset, wr := WriteSide.reset }

/-- The reset value of the channel whose local index 0 is head `h` (spec 04, R102). -/
def Chan.resetAt (h : HeadId) : Chan := { Chan.reset with sdm := { Sdm.reset with head := h } }

/-- The reset value of `Head`, field by field as its docstrings name it. -/
def Head.reset : Head :=
  { trim := 0, monRun := 0, stalls := 0, samMeas := [] }

/-- The reset value of `Sensor`, field by field as its docstrings name it. -/
def Sensor.reset : Sensor :=
  { temp := 0, rate := 0, status := 0, broken := false, validRun := 0, history := [], critRun := 0 }

/-- The reset value of `Env`, field by field as its docstrings name it. -/
def Env.reset : Env :=
  { sensors := .replicate 11 Sensor.reset, step := 0, stepNow := 0, stepCause := 255, stepAt := none,
    stepChanges := 0, winOpen := false, winClosures := 0, tempWarn := false, assistCap := 100, coolRun := 0,
    held := false, latched := [] }

/-- The reset value of `HeadCal`, field by field as its docstrings name it. -/
def HeadCal.reset : HeadCal :=
  { temp := 0, time := 0, failRun := 0, suspect := 0, iterBase := 0, results := .replicate 6 0, permanent := 0,
    lastRun := .replicate 6 0, trackFails := .replicate 8 0, failOther := 0 }

/-- The reset value of `Cal`, field by field as its docstrings name it. -/
def Cal.reset : Cal :=
  { requests := [], heads := .replicate 32 HeadCal.reset, trends := [], eqRuns := [], running := .replicate 8 none,
    duty := .replicate 8 [], dutyFrom := .replicate 8 none, verify := [], syncCount := 0,
    syncTrue1 := .replicate 22 0, syncImp1 := .replicate 22 0, syncTrue2 := .replicate 22 0,
    syncImp2 := .replicate 22 0, syncTime := 0, staging := [], early := [], syncTouched := false, startLeft := [],
    reqHead := 0, runs := .replicate 8 0, abandons := .replicate 8 0 }

/-- The reset value of `Features`, field by field as its docstrings name it. -/
def Features.reset : Features :=
  { arbitration := 0, ps := 0, lastOp := 0, overTh := none, underTh := none, queues := 64, coalescing := 0,
    vectorConfig := [], atomicity := 0, asyncConfig := 0, timestamp := 0, timestampAttr := 0, timestampAt := 0,
    acre := false, marker := 0, hostId := 0, exhid := false, tler := [], resMask := [] }

/-- The reset value of `Port`, field by field as its docstrings name it. -/
def Port.reset : Port :=
  { perst := true, link := none, trainAt := 0, clocking := 0, en := false, rdy := false, cfs := false, shst := 0,
    pp := false, sqs := [], cqs := [], rrQid := 0, rrTaken := 0, feat := Features.reset, aers := [], events := [],
    masked := [], warning := 0, changed := [], resLog := [], resCount := 0, errors := [], errorCount := 0,
    deleting := [], abortWait := [], abortDone := [], abortAdmin := [], committed := [], posted := [], status := 0,
    intEnable := 0, masked64 := BitVec.allOnes 65, pending64 := 0, msgs64 := [], masked65 := true,
    pending65 := false, msgs65 := 0, tickHi := 0, evtBase := 0, mbGo := false, mbLen := 0, mbReq := [],
    mbResp := none, mbWait := none }

/-- The reset value of `Sanitize`, field by field as its docstrings name it. -/
def Sanitize.reset : Sanitize :=
  { running := false, failed := false, passes := 0, pattern := 0, done := 0 }

/-- The reset value of `Subsys`, field by field as its docstrings name it. -/
def Subsys.reset : Subsys :=
  { namespaces := [], bands := [], deferred := [], deferredLog := [], deferredTotal := 0,
    sanitize := Sanitize.reset, mediaErrors := 0, hostReads := 0, blocksRead := 0, hostWrites := 0,
    blocksWritten := 0, identity := [], hosts := [] }

/-- The reset value of `Cmds`, field by field as its docstrings name it. -/
def Cmds.reset : Cmds :=
  { ctxs := [], nextId := 1, fetchStopped := false, mediaStopped := false, abortsDone := 0, abortsRefused := 0 }

/-- The reset value of `Sched`, field by field as its docstrings name it. -/
def Sched.reset : Sched :=
  { queue := [], placed := .replicate 8 none, nextOp := 0, passLateNow := false, ahead := .replicate 8 none,
    fresh := [], placedCount := .replicate 8 0, aged := .replicate 8 0, passLate := 0, binMisses := .replicate 8 0,
    latency := .replicate 8 (.replicate 16 0) }

/-- The reset value of `Arbiter`, field by field as its docstrings name it. -/
def Arbiter.reset : Arbiter :=
  { slot := 0, waiting := [], lastServed := 21 }

/-- The reset value of `BmsChan`, field by field as its docstrings name it. -/
def BmsChan.reset : BmsChan :=
  { words := [], readPort := Arbiter.reset, writePort := Arbiter.reset, toPoison := [], repairs := [],
    ceCount := 0, ueCount := 0, poisonReads := 0, waitMax := 0, drops := 0, scrubRow := 0, scrubSlot := none,
    lapWarned := false, lastRead := none, justWritten := none, issued := 0 }

/-- The reset value of `Bms`, field by field as its docstrings name it. -/
def Bms.reset : Bms :=
  { stage := .selfTest, fault := 0, initTime := 0, chans := .replicate 4 BmsChan.reset, ceTable := [], ceLost := 0,
    lapDone := [], laps := 0, lapMs := 0, lapStart := 0 }

/-- The reset value of `Cache`, field by field as its docstrings name it. -/
def Cache.reset : Cache :=
  { lines := [], plru := [], regs := [], nextReg := 0, side := [], streams := [], mode := .writeThrough,
    requested := .writeBack, pauses := [], readHits := 0, sideHits := 0, merges := 0, misses := 0, prefetches := 0,
    bypass := 0, staleFills := 0, shadowEarly := 0, allocWaits := 0, poisoned := 0, urgent := [] }

/-- The reset value of `FaultRec`, field by field as its docstrings name it. -/
def FaultRec.reset : FaultRec :=
  { transient := 0, permTotal := 0, state := 0, lastKind := 0, stamps := [], retiredAt := 0 }

/-- The reset value of `Faults`, field by field as its docstrings name it. -/
def Faults.reset : Faults :=
  { readers := .replicate 64 FaultRec.reset, heads := .replicate 32 FaultRec.reset,
    channels := .replicate 8 FaultRec.reset, retiredReaders := 0, retiredHeads := 0, readOnlyHeads := 0,
    retiredChannels := 0, decided := [], unretire := false, blames := [], seekRun := .replicate 8 0,
    speedFaults := 0, indexLosses := 0, driveRestarts := 0, planeRestarts := 0, rebuilds := 0, vaultLosses := 0,
    dataRestart := none, mgmtRestart := none, dataDown := false, mgmtDown := false }

/-- The reset value of `Slot`, field by field as its docstrings name it. -/
def Slot.reset : Slot :=
  { state := 0, leaseMark := 0, imageId := 0, version := 0, length := 0, resetOnly := false, fr := [],
    vaultFormat := 0, dictVersion := 0 }

/-- The reset value of `Fw`, field by field as its docstrings name it. -/
def Fw.reset : Fw :=
  {
    slots := #v[{ Slot.reset with state := 2, imageId := 1, version := 0x01000000, length := 0x200000, vaultFormat := 1, dictVersion := 0x0100 }, Slot.reset],
    active := 0, next := none, source := none, header := none, sealing := false, programmed := [], assembly := [],
    sinceMap := 0, erasing := false, eraseLeft := .replicate 2 0, activation := .none, target := none, before := 0,
    asker := none, badImage := false, actionSlot := 0, actionResult := 0, pieces := 0, refusals := 0, dropped := 0,
    activations := 0, fallbacks := 0 }

/-- The reset value of `Die`, field by field as its docstrings name it. -/
def Die.reset : Die :=
  { bad := [], erased := [], pages := [], remap := [], poolNext := 175, op := none, suspended := false,
    barred := false, misses := [] }

/-- The reset value of `Region`, field by field as its docstrings name it. -/
def Region.reset : Region :=
  { state := .unknown, image := none, marker := false, erased := .replicate 2 0, steps := 0 }

/-- The reset value of `Mule`, field by field as its docstrings name it. -/
def Mule.reset : Mule :=
  { dies := .replicate 2 Die.reset,
    system := [⟨0, .replicate 2 [], .replicate 2 [], .replicate 2 175, 0, none, none, Fw.reset.slots⟩],
    written := [], regions := .replicate 2 Region.reset, scanned := false, mounted := false, broken := false,
    vaultSeq := 0, lastLines := 0, lastVaultUs := 0, lastReplayUs := 0, vaultStep := 0, vaultSteps := 0,
    vaultDone := 0, vaultFail := false, oemSeq := 0, journalPages := 0, replaying := none, journal := [],
    journalBuf := [], journalFlight := [], ckptNs := 0, sinceCkpt := 0, ckptSeq := 0, journalSeq := 0,
    ckptMarks := (0, 0), journalErased := .replicate 2 0, checkpoint := [], superseded := [], superWait := [],
    retryHist := .replicate 10 0, refresh := [], programFails := 0, eraseFails := 0, refused := 0, refreshes := 0,
    codeCache := [], codeMisses := 0, suspends := 0, missWaitMax := 0, oemBlock := 0, oemPage := 0, oemCmd := 0,
    oemWbuf := [], oemRbuf := [], oemStatus := 0, oemRemapped := false, oemMapLost := false, oemSaved := none,
    slotErase := 0xFF#8 }

/-- The reset value of `Dict`, field by field as its docstrings name it. -/
def Dict.reset : Dict :=
  { values := [], staged := [], owner := none, stage := .idle, servoSwapped := false, chanSwapped := 0,
    discardAfter := none, waiter := none, commitAt := 0, changedSince := false, swapTick := 0, result := 0,
    object := 0, commits := 0, commitTick := 0, unvalidated := false }

/-- The reset value of `PathState`, field by field as its docstrings name it. -/
def PathState.reset : PathState :=
  { priv := false, segment := none, snapshot := none, fwOffset := 0, sourceImage := none }

/-- The reset value of `Mgmt`, field by field as its docstrings name it. -/
def Mgmt.reset : Mgmt :=
  { paths := .replicate 3 PathState.reset, lock := none, eid := 0, tu := 64, smbusFreq := 1, healthChange := 0,
    i3cAddr := none, status := 0, requests := 0, discards := 0, drops := 0, busy := [], sent := [],
    alertAnswers := [], answer := none, capCtrl := 0, capDecim := 1, capLost := 0, capture := [] }

/-- The reset value of `Evr`, field by field as its docstrings name it. -/
def Evr.reset : Evr :=
  { queue := [], boot := [], bootLost := 0, ring := [], nextSeq := 0, isOpen := false, fill := false,
    frozen := false, freezeLeft := 0, frozenCount := 0, frozen3 := 0, frozen2 := 0, frozenLast := 0,
    overflows := 0, lostSince := 0, log := [], logSelect := 0 }

/-- The machine before power good, with every field at the reset value its docstring names. -/
def State.reset : State :=
  { power := Power.reset, clock := Clock.reset, tick := Tick.reset, links := .replicate 2 Link.reset,
    chans := #v[Chan.resetAt 0, Chan.resetAt 4, Chan.resetAt 8, Chan.resetAt 12, Chan.resetAt 16, Chan.resetAt 20, Chan.resetAt 24, Chan.resetAt 28],
    heads := .replicate 32 Head.reset, env := Env.reset, cal := Cal.reset, ports := .replicate 2 Port.reset,
    sub := Subsys.reset, cmds := Cmds.reset, sched := Sched.reset, bms := Bms.reset, cache := Cache.reset,
    faults := Faults.reset, mule := Mule.reset, dict := Dict.reset, mgmt := Mgmt.reset, fw := Fw.reset,
    evr := Evr.reset, loadQueue := [], freeCount := 0, pending := [] }

end Sys2Proof.Machine
end

