-- ==== Sys2Proof/Machine/Ops.lean ====
section
/-! DEFINITION. The shared operations: access to the parts of the state, dictionary values, time, geometry, frames of the
actuator drive links, and the arrival of events. -/

namespace Sys2Proof.Machine

/-! ## Parts of the state -/

/-- Channel `n`. -/
def State.chan (s : State) (n : ChanId) : Chan := s.chans[n]
/-- Channel `n` replaced by its image. -/
def State.modChan (s : State) (n : ChanId) (f : Chan → Chan) : State := { s with chans := upd s.chans n f }
/-- SDM `n`. -/
def State.sdm (s : State) (n : ChanId) : Sdm := (s.chan n).sdm
/-- CE `n`. -/
def State.ce (s : State) (n : ChanId) : Ce := (s.chan n).ce
/-- RWC `n`. -/
def State.rwc (s : State) (n : ChanId) : Rwc := (s.chan n).rwc
/-- The write side of channel `n`. -/
def State.wr (s : State) (n : ChanId) : WriteSide := (s.chan n).wr
/-- SDM `n` replaced. -/
def State.modSdm (s : State) (n : ChanId) (f : Sdm → Sdm) : State := s.modChan n (fun c => { c with sdm := f c.sdm })
/-- CE `n` replaced. -/
def State.modCe (s : State) (n : ChanId) (f : Ce → Ce) : State := s.modChan n (fun c => { c with ce := f c.ce })
/-- RWC `n` replaced. -/
def State.modRwc (s : State) (n : ChanId) (f : Rwc → Rwc) : State := s.modChan n (fun c => { c with rwc := f c.rwc })
/-- The write side of channel `n` replaced. -/
def State.modWr (s : State) (n : ChanId) (f : WriteSide → WriteSide) : State :=
  s.modChan n (fun c => { c with wr := f c.wr })
/-- Link `k`. -/
def State.link (s : State) (k : LinkId) : Link := s.links[k]
/-- Link `k` replaced. -/
def State.modLink (s : State) (k : LinkId) (f : Link → Link) : State := { s with links := upd s.links k f }
/-- Port `p`. -/
def State.port (s : State) (p : PortId) : Port := s.ports[p]
/-- Port `p` replaced. -/
def State.modPort (s : State) (p : PortId) (f : Port → Port) : State := { s with ports := upd s.ports p f }
/-- Head `h` replaced. -/
def State.modHead (s : State) (h : HeadId) (f : Head → Head) : State := { s with heads := upd s.heads h f }
/-- Both ports replaced. -/
def State.modPorts (s : State) (f : Port → Port) : State := (s.modPort 0 f).modPort 1 f

/-- The eight channels, in order. -/
def allChans : List ChanId := [0, 1, 2, 3, 4, 5, 6, 7]
/-- The two ports, in order. -/
def allPorts : List PortId := [0, 1]
/-- The heads H0 to H31. -/
def allHeads : List HeadId := List.ofFn (fun (h : Fin 32) => h)
/-- An operation on every channel of a list. -/
def forChans (l : List ChanId) (f : State → ChanId → State) (s : State) : State := l.foldl f s

/-! ## Channels, heads and links -/

/-- The channel of a head: h div 4 (spec 04, R102). -/
def chanOf (h : HeadId) : ChanId := ⟨h.val / 4, by omega⟩
/-- The local index of a head: h mod 4 (R102). -/
def localIndex (h : HeadId) : Nat := h.val % 4
/-- The head of a channel at a local index (R102). -/
def headAt (n : ChanId) (i : Nat) : HeadId := ⟨n.val * 4 + i % 4, by omega⟩
/-- The link that serves a channel: ADL 0 for 0 to 3, ADL 1 for 4 to 7 (spec 01, R15). -/
def linkOf (n : ChanId) : LinkId := ⟨n.val / 4, by omega⟩
/-- The slot of a channel on its link: its segment (spec 02). -/
def slotOf (n : ChanId) : BitVec 2 := BitVec.ofNat 2 n.val
/-- The tower of a channel (spec 00, R8). -/
def towerOf (n : ChanId) : Nat := n.val / 4
/-- The channels of a link. -/
def chansOf (k : LinkId) : List ChanId := allChans.filter (fun n => linkOf n = k)

/-! ## Dictionary values -/

/-- The active value of an object (spec 15, R445): the stored bytes, or the default. -/
def valueOf (s : State) (index sub : Nat) : List Byte :=
  (assocGet ⟨index, sub⟩ s.dict.values).getD
    ((objAt index sub).elim [] (fun o => defaultBytes s.power.crx4 o sub))

/-- The active value of a scalar, unsigned. -/
def cfg (s : State) (index sub : Nat) : Nat := leNat (valueOf s index sub)
/-- The active value of a 16-bit scalar in two's complement. -/
def cfgI16 (s : State) (index sub : Nat) : Int := signed 2 (cfg s index sub)

/-- The value of a thermal object in use: that of the last ENV decision, which changes it (spec 09, R267). -/
def envVal (s : State) (index sub : Nat) : List Byte := (assocGet (index, sub) s.env.latched).getD (valueOf s index sub)
/-- A thermal scalar in use. -/
def envCfg (s : State) (index sub : Nat) : Nat := leNat (envVal s index sub)

/-- The staged value, or the active one (R445). -/
def stagedOf (s : State) (index sub : Nat) : List Byte :=
  (assocGet ⟨index, sub⟩ s.dict.staged).getD (valueOf s index sub)

/-- The objects of the channel part of a commit (spec 01, R24): those of the read channels. -/
def channelPart (index : Nat) : Bool := 0x5000 ≤ index && index < 0x5100

/-- The value in use by the control plane: the staged one from the swap boundary on (spec 01, R23). -/
def servoVal (s : State) (index sub : Nat) : List Byte :=
  if s.dict.servoSwapped && !channelPart index then stagedOf s index sub else valueOf s index sub

/-- A calibrated value that channel `n` has taken at its sector boundary before the last of the channels (spec 09, R284). -/
def earlyVal (s : State) (n : ChanId) (index sub : Nat) : Option (List Byte) :=
  (s.cal.early.find? (fun x => x.1 = (index, sub) && x.2.2.getLsbD n)).map (·.2.1)

/-- The value in use by RWC `n`: the staged one once the channel has taken its part (R24). -/
def chanVal (s : State) (n : ChanId) (index sub : Nat) : List Byte :=
  let own := (earlyVal s n index sub).getD (valueOf s index sub)
  if s.dict.servoSwapped && s.dict.chanSwapped.getLsbD n then (assocGet ⟨index, sub⟩ s.dict.staged).getD own else own

/-- A scalar in use by the control plane. -/
def servoCfg (s : State) (index sub : Nat) : Nat := leNat (servoVal s index sub)
/-- A scalar in use by RWC `n`. -/
def chanCfg (s : State) (n : ChanId) (index sub : Nat) : Nat := leNat (chanVal s n index sub)

/-- An object given a new active value. -/
def setValue (s : State) (index sub : Nat) (v : List Byte) : State :=
  { s with dict.values := assocSet ⟨index, sub⟩ v s.dict.values }

/-! ## Geometry -/

/-- WEDGES in use. -/
def wedges (s : State) : Nat := servoCfg s 0x3000 4
/-- SET_RPM as configured: the speed that the spindle is to take when every head is unloaded (spec 01, R40). -/
def setRpm (s : State) : Nat := servoCfg s 0x3000 5
/-- The link that drives the spindle (SPINDLE_LINK). -/
def spindleLink (s : State) : LinkId := if servoCfg s 0x3000 6 = 0 then 0 else 1
/-- The nominal revolution period of the set speed in force, in ns (spec 01, R29). -/
def nominalRev (s : State) : Nat := 60000000000 / max 1 s.tick.rpm
/-- The tick period in force, in ns (R30). -/
def tickNs (s : State) : Nat := s.tick.revNs / wedges s
/-- An actuator channel is fitted (ACTUATOR_MASK; spec 00, R1). -/
def chanFitted (s : State) (n : ChanId) : Bool := bitOf (cfg s 0x3000 2) n.val && !(s.power.crx4 && 4 ≤ n.val)
/-- A head is fitted (HEAD_MASK). -/
def headFitted (s : State) (h : HeadId) : Bool := bitOf (cfg s 0x3000 3) h.val && !(s.power.crx4 && 16 ≤ h.val)
/-- A channel is retired (RETIRED_CHANNELS). -/
def chanRetired (s : State) (n : ChanId) : Bool := s.faults.retiredChannels.getLsbD n
/-- A head is retired, read-only or in full, or its channel is. -/
def headRetired (s : State) (h : HeadId) : Bool := s.faults.retiredHeads.getLsbD h || chanRetired s (chanOf h)
/-- A head is retired read-only and no more (spec 13, R404). -/
def headReadOnly (s : State) (h : HeadId) : Bool := s.faults.readOnlyHeads.getLsbD h && !headRetired s h
/-- A reader is retired. -/
def readerRetired (s : State) (h : HeadId) (b : Bool) : Bool := s.faults.retiredReaders.getLsbD (2 * h.val + b2n b)
/-- A channel in service: fitted and not retired. -/
def chanServes (s : State) (n : ChanId) : Bool := chanFitted s n && !chanRetired s n
/-- A head that reads: fitted and not retired in full. -/
def headServes (s : State) (h : HeadId) : Bool := headFitted s h && chanServes s (chanOf h) && !s.faults.retiredHeads.getLsbD h
/-- The fitted heads of a channel. -/
def headsOf (s : State) (n : ChanId) : List HeadId := ((List.range 4).map (headAt n)).filter (headFitted s)
/-- Some head is loaded. -/
def anyLoaded (s : State) : Bool := allChans.any (fun n => (s.chan n).load = .loaded)
/-- An actuator is unloaded. -/
def unloaded (s : State) (n : ChanId) : Bool := (s.chan n).load = .unloaded

/-! ## Time -/

/-- Power-on time in 1/1024 hour, modulo 2^32 (spec 15, 0x1002:01). -/
def powerOnAt (s : State) (ns : Nat) : Nat := (s.clock.powerOnBase + ns * 1024 / 3600000000000) % 2 ^ 32
/-- Power-on time now. -/
def powerOn (s : State) : Nat := powerOnAt s s.clock.ns
/-- Milliseconds since power good. -/
def nowMs (s : State) : Nat := s.clock.ns / 1000000
/-- A command that comes `ns` nanoseconds after the last tick boundary. -/
def atOffset (ns : Nat) (s : State) : State := { s with clock.sub := max s.clock.sub ns }
/-- At least `ns` nanoseconds have passed since `t`. -/
def passed (s : State) (t ns : Nat) : Bool := t + ns ≤ s.clock.ns

/-! ## Running -/

/-- The controller runs: out of reset, its memories sound, not in factory test, no vault triggered (spec 02, R63, R67, R71;
spec 03, R98). -/
def State.live (s : State) : Bool :=
  s.power.running && !s.power.dead && !s.power.straps.testMode && s.power.vault = .none

/-- The control plane and the write gates still act (spec 02, Table 2.11): the controller runs, or a vault has been triggered and
RETRACT not yet sent. -/
def State.servoLive (s : State) : Bool :=
  s.power.running && !s.power.dead && !s.power.straps.testMode && (s.power.vault = .none || s.power.vault = .triggered)

/-- The resident firmware runs: not in RECOVERY (spec 03, R83). -/
def State.resident (s : State) : Bool := s.live && s.power.phase ≠ .recovery

/-- An effect that needs the controller to run; otherwise nothing happens (log 3). -/
def ifLive (s : State) (f : State → State) : State := if s.live then f s else s
/-- An effect of the control plane or of a write gate (log 3). -/
def ifServo (s : State) (f : State → State) : State := if s.servoLive then f s else s
/-- An effect that needs the resident firmware (log 3). -/
def ifResident (s : State) (f : State → State) : State := if s.resident then f s else s
/-- An effect under a condition (log 3). -/
def when (c : Bool) (f : State → State) (s : State) : State := if c then f s else s

/-! ## Free values -/

/-- The next free value, and the state with the counter moved on (log 2). -/
def nextFree (s : State) : Nat × State := (Config.freeValue s.freeCount, { s with freeCount := s.freeCount + 1 })

/-! ## Events (spec 17) -/

/-- An event before its time stamp: CODE, SEVERITY, SOURCE, UNIT_KIND, UNIT, KEY and DETAIL (spec 17, Table 17.1). -/
def event (code sev src : Nat) (key detail unitKind unit : Nat := 0) : Event :=
  ⟨BitVec.ofNat 16 code, BitVec.ofNat 2 sev, BitVec.ofNat 3 src, BitVec.ofNat 2 unitKind, BitVec.ofNat 6 unit,
    BitVec.ofNat 32 key, BitVec.ofNat 64 detail, 0⟩

/-- The SOURCE code of a path (spec 17, Table 17.1). -/
def pathCode : Path → Nat
  | .port0 => 0 | .port1 => 1 | .mctp => 2
/-- The path of a port. -/
def pathOf (p : PortId) : Path := if p = 0 then .port0 else .port1
/-- The number of a path in `Mgmt.paths`. -/
def pathIx : Path → Fin 3
  | .port0 => 0 | .port1 => 1 | .mctp => 2
/-- SOURCE 4: the controller's own changes. -/
def srcController : Nat := 4

/-- An event counted while the recorder is frozen (spec 17, R486). -/
def Evr.count (r : Evr) (e : Event) : Evr :=
  { r with frozenCount := r.frozenCount + 1, frozen3 := r.frozen3 + b2n (e.severity = 3),
           frozen2 := r.frozen2 + b2n (e.severity = 2), frozenLast := e.code }

/-- An event arrives (spec 17, R483, R484, R486): in the boot list before MOUNT ends, counted while frozen, otherwise
queued, or counted in OVERFLOWS when the queue is full. -/
def raise (e : Event) (s : State) : State :=
  let e := { e with powerOn := powerOn s }
  if !s.mule.mounted then
    if s.evr.boot.length < 64 then { s with evr.boot := s.evr.boot ++ [e] }
    else { s with evr.bootLost := s.evr.bootLost + 1 }
  else if s.evr.frozen then { s with evr := s.evr.count e }
  else if s.evr.queue.length < 256 then { s with evr.queue := s.evr.queue ++ [e] }
  else { s with evr.overflows := s.evr.overflows + 1, evr.lostSince := s.evr.lostSince + 1 }

/-- The code of a start-up phase (spec 03, Table 3.1). -/
def Phase.code : Phase → Nat
  | .boot => 0x01 | .mount => 0x02 | .replay => 0x03 | .spinWait => 0x04 | .spinUp => 0x05 | .holdupCheck => 0x06
  | .headLoad => 0x07 | .calibrate => 0x08 | .zoneLoad => 0x09 | .ready => 0x0A | .standby => 0x0B | .recovery => 0x0C
  | .failed => 0x0F

/-- The OBJECT_CHANGED event of a persistent object (spec 15, R441). -/
def objectChanged (index sub len src : Nat) (s : State) : State :=
  raise (event 0xC001 0 src (index + sub * 65536) len) s

/-! ## Frames down the actuator drive links (spec 02, R54, R55) -/

/-- TYPE of a frame (spec 02, Table 2.5). -/
def DownFrame.type : DownFrame → Nat
  | .idle => 0 | .cmd .. => 1 | .spin .. => 2 | .retract .. => 3 | .holdtest .. => 4
/-- SLOT of a frame. -/
def DownFrame.slot : DownFrame → Nat
  | .cmd sl .. => sl.toNat | _ => 0
/-- PAYLOAD of a frame (Table 2.5). -/
def DownFrame.payload : DownFrame → Nat
  | .idle => 0
  | .cmd _ ma vcm => ma.toNat * 65536 + vcm.toNat
  | .spin c rpm => c * 65536 + rpm % 65536
  | .retract m => m.toNat
  | .holdtest ms => ms % 65536

/-- The eight bytes of a frame (spec 02, Table 2.4): SOF K28.5 (0xBC), TYPE SLOT SEQ, PAYLOAD, CRC-8 over bytes 1 to 5,
EOF K28.1 (0x3C). -/
def frameBytes (f : DownFrame) (seq : BitVec 2) : List Byte :=
  let body := BitVec.ofNat 8 (f.type * 16 + f.slot * 4 + seq.toNat) :: leBytes 4 f.payload
  0xBC :: body ++ [crc8 body, 0x3C]

/-- The rank of a frame among those issued at one instant (R55): RETRACT before all, CMD in order of issue, SPIN and HOLDTEST when
no CMD is pending. -/
def DownFrame.rank : DownFrame → Nat
  | .retract .. => 0 | .cmd .. => 1 | .idle => 1 | .spin .. => 2 | .holdtest .. => 2

/-- A frame placed behind every frame of its rank or a lower one (R55). -/
def insertFrame (f : DownFrame) : List DownFrame → List DownFrame
  | [] => [f]
  | g :: r => if f.rank < g.rank then f :: g :: r else g :: insertFrame f r

/-- One frame sent with the next SEQ (R54); the transmitter is in electrical idle in reset (R53). -/
def Link.send (l : Link) (f : DownFrame) : Link :=
  { l with sent := l.sent ++ [frameBytes f l.txSeq], txSeq := l.txSeq + 1, sinceTick := l.sinceTick + 1 }

/-- The frames issued at one instant on link `k`, sent in the order of R55. Frames leave at the instant of their issue: the 64 ns of
those ahead lie below the model's resolution, so no frame waits from one command to the next (DESIGN CHOICE, log 24). -/
def sendFrames (k : LinkId) (fs : List DownFrame) (s : State) : State :=
  if !s.power.running then s
  else s.modLink k (fun l => (fs.foldl (fun q f => insertFrame f q) []).foldl Link.send l)

/-- A frame sent on link `k`. -/
def sendFrame (k : LinkId) (f : DownFrame) (s : State) : State := sendFrames k [f] s

/-- What a tick of `ns` nanoseconds leaves free on a link is filled with IDLE frames of 64 ns, which SEQ counts too (R53, R54;
DESIGN CHOICE, log 24: they are counted at the tick's end). -/
def Link.fillIdle (ns : Nat) (l : Link) : Link :=
  let n := ns / 64 - l.sinceTick
  { l with idles := l.idles + n, txSeq := l.txSeq + BitVec.ofNat 2 n, sinceTick := 0 }

/-- The transmitters of both links are in electrical idle (R53): while PORST_N is low, and in any other reset of the device. -/
def linksElectricallyIdle (s : State) : Bool := !s.power.running

/-- RETRACT for the slots of `ns` on link `k`: their held access requests are discarded and reported as failed moves
(spec 01, R18). -/
def sendRetract (k : LinkId) (ns : List ChanId) (s : State) : State :=
  let s := sendFrame k (.retract (BitVec.ofNat 4 (maskOf 4 (fun i => ns.any (fun n => n.val % 4 = i))))) s
  ns.foldl (fun s n => s.modChan n (fun c =>
    { c with report := if c.access.isSome then some .failed else c.report, access := none })) s

/-- SPIN with a command and the set speed on the spindle link (Table 2.5). -/
def sendSpin (c : Nat) (s : State) : State := sendFrame (spindleLink s) (.spin c (setRpm s)) s

end Sys2Proof.Machine
end

