-- ==== Sys2Proof/Machine/Flags.lean ====
section
/-! DEFINITION. The flag computations: STATUS, INT_CAUSE and vector 65 (spec 10, R314 to R318), MCTP_STATUS and ALERT_N
(spec 15, R459), GATE_STATE (spec 01, R19), the Critical Warning field (spec 10, R298) with its asynchronous events
(R301), and the start-up phase with its fault code (spec 03, R79, R98). -/

namespace Sys2Proof.Machine

/-! ## STATUS -/

/-- Bits of STATUS (spec 10, Table 10.12). -/
inductive Flag where
  | mediaReady | notReady | stepChange | winChange | sensorBroken | holdupResult | retirement | deferredError
  | commitDone | mailboxDone | eventNew | tickChange | ownerLock | fwStaged
deriving DecidableEq, Repr

/-- The bit of a flag (Table 10.12). -/
def Flag.bit : Flag → Nat
  | .mediaReady => 0 | .notReady => 1 | .stepChange => 2 | .winChange => 3 | .sensorBroken => 4 | .holdupResult => 5
  | .retirement => 6 | .deferredError => 7 | .commitDone => 8 | .mailboxDone => 9 | .eventNew => 10 | .tickChange => 11
  | .ownerLock => 12 | .fwStaged => 13

/-- INT_CAUSE = STATUS AND INT_ENABLE (R314). -/
def intCause (p : Port) : Word32 := p.status &&& p.intEnable

/-- A request for a vector 65 message (R318): sent, or pending while the vector is masked. -/
def requestMsg (p : Port) : Port :=
  if p.masked65 then { p with pending65 := true } else { p with msgs65 := p.msgs65 + 1 }

/-- A port's STATUS changed: a message is requested when INT_CAUSE goes from zero to nonzero (R318). -/
def withStatus (v : Word32) (p : Port) : Port :=
  let q := { p with status := v }
  if intCause p = 0 ∧ intCause q ≠ 0 then requestMsg q else q

/-- A flag set in the STATUS of a port. -/
def setPortFlag (f : Flag) (p : Port) : Port := withStatus (p.status ||| (1 <<< f.bit)) p

/-- ALERT_N is low while MCTP_STATUS AND ALERT_MASK is nonzero (spec 15, R459). -/
def refreshAlert (s : State) : State :=
  { s with power.alertLow := (s.mgmt.status.toNat &&& cfg s 0x1100 5) ≠ 0 }

/-- A flag set by hardware: in STATUS of both ports and in MCTP_STATUS (R317, R459). -/
def setFlag (f : Flag) (s : State) : State :=
  refreshAlert { s.modPorts (setPortFlag f) with mgmt.status := s.mgmt.status ||| (1 <<< f.bit) }

/-! ## Start-up phase -/

/-- Entry to a phase: STARTUP_PHASE, the PHASE event, and the flags of entering and leaving READY (spec 03, R79, R97; spec
10, Table 10.12). READY_TIME is set at the first entry to READY (R81). -/
def enterPhase (ph : Phase) (s : State) : State :=
  let was := s.power.phase
  let s := { s with power.phase := ph, power.phaseStart := s.clock.ns }
  let s := raise (event 0x0002 0 srcController ph.code (nowMs s)) s
  if ph = .ready ∧ was ≠ .ready then
    setFlag .mediaReady { s with power.readyTime := if s.power.readyTime = 0 then nowMs s else s.power.readyTime }
  else if ph ≠ .ready ∧ was = .ready then setFlag .notReady s
  else s

/-- A start-up failure code in STARTUP_FAULT and in a START_FAULT event: severity 2 for 0x0601, 0x0701 and 0x0801, 3
otherwise (spec 03, R98; spec 17, Table 17.4). -/
def startFault (code : Nat) (s : State) : State :=
  let sev := if code = 0x0601 ∨ code = 0x0701 ∨ code = 0x0801 then 2 else 3
  raise (event code sev srcController s.power.phase.code) { s with power.fault := BitVec.ofNat 16 code }

/-- Entry to FAILED: an enabled controller shows CSTS.CFS unless MOUNT has ended (Table 3.6); no drive restart or brake goes on. -/
def enterFailed (s : State) : State :=
  let s := enterPhase .failed { s with power.restarting := false, power.braking := false, power.speedChange := .none }
  if s.mule.mounted then s else s.modPorts (fun p => if p.en then { p with rdy := false, cfs := true } else p)

/-- A fatal start-up failure: the code, and phase FAILED (R98). -/
def failStart (code : Nat) (s : State) : State :=
  enterFailed { startFault code s with power.failCodes := s.power.failCodes ++ [BitVec.ofNat 16 code] }

/-- The phases before READY of a start-up or a spin-up from STANDBY, and FAILED (R96): every phase but READY and STANDBY, which
follows READY in Table 3.1. -/
def beforeReady (s : State) : Bool := s.power.phase ≠ .ready && s.power.phase ≠ .standby

/-! ## Write-gate permission (spec 01, R19) -/

/-- The tick generator lets the media be written (Table 1.6). -/
def tickWrites (s : State) : Bool := s.tick.state = .locked || s.tick.state = .substitute

/-- The tick generator lets the media be read (Table 1.6; R34 holds reads at a revolution outside 1.0 %). -/
def tickReads (s : State) : Bool :=
  (s.tick.state = .acquire || tickWrites s) && !(s.tick.state = .acquire && s.tick.readsHeld)

/-- No FAULT frame has named the actuator in the last 20 us and its link is up (spec 02, R57). -/
def linkClean (s : State) (n : ChanId) : Bool :=
  (s.link (linkOf n)).up && (match (s.sdm n).faultAt with | none => true | some t => t + 20000 ≤ s.clock.ns + s.clock.sub)

/-- On-track of channel `n`: as R149 evaluated it, and not withdrawn by the tick, the link, a FAULT frame, or an overrun since which no
output has issued in time (spec 06, R180). -/
def onTrackNow (s : State) (n : ChanId) : Bool := (s.sdm n).onTrack && tickWrites s && linkClean s n && !(s.ce n).overrunHold

/-- Temperature-window-open (spec 09, R265), closed while ENV restarts (spec 13, R400). -/
def windowOpen (s : State) : Bool := s.env.winOpen && !s.env.held

/-- Write permission of the active head of channel `n` (R19, Table 1.3); never for a retired head (spec 13, Table 13.2). -/
def writePermission (s : State) (n : ChanId) : Bool :=
  s.servoLive && onTrackNow s n && (s.wr n).assistReady && windowOpen s && chanServes s n
    && !headRetired s (s.sdm n).head && !headReadOnly s (s.sdm n).head

/-- The levels of the outputs of a preamplifier link (spec 02, Table 2.3): write data, write gate and the serial control; `none` for
PAn_SDIO is high impedance. -/
structure PreampPins where
  writing : Bool
  wg : Bool
  sclk : Bool
  sdio : Option Bool
  sen : Bool
deriving DecidableEq, Repr

/-- Every output at its reset and idle level (Table 2.3): PAn_WD static low, PAn_WG, PAn_SCLK and PAn_SEN low, PAn_SDIO high
impedance. -/
def PreampPins.idle : PreampPins := ⟨false, false, false, none, false⟩

/-- The pins of channel `n` between two serial frames (spec 02, R52): idle in reset, while the channel is not configured and on
channels 4 to 7 of the CRX4-A128-FB; else PAn_WD carries write data while the gate is high, and the serial control rests at its idle
levels. -/
def preampPins (s : State) (n : ChanId) : PreampPins :=
  if !s.power.running || !chanFitted s n then .idle else { PreampPins.idle with writing := (s.wr n).wg, wg := (s.wr n).wg }

/-- GATE_STATE of channel `n` (0x5106; spec 08, Table 8.5). -/
def gateState (s : State) (n : ChanId) : Nat :=
  b2n (onTrackNow s n) + 2 * b2n (s.wr n).assistReady + 4 * b2n (windowOpen s) + 8 * b2n (writePermission s n)
    + 16 * b2n (s.wr n).request

/-- The AND that drives PAn_WG (R20): it can be high only with the request and the permission. -/
def gateAllowed (s : State) (n : ChanId) : Bool := (s.wr n).request && writePermission s n

/-! ## Critical Warning -/

/-- A reading of 1/16 C in kelvin: round(reading / 16 + 273.15) (spec 10, R299). -/
def kelvin (t : Int) : Nat := ((100 * t + 437040 + 800) / 1600).toNat

/-- SENSOR_TEMP of sensor `j`. -/
def sensorTemp (s : State) (j : Nat) : Int := if h : j < 11 then s.env.sensors[j].temp else 0
/-- A sensor is enabled (SENSOR_ENABLE; DIE always). The remote diodes of channels 4 to 7 are ignored on the CRX4-A128-FB (spec 00,
R4). -/
def sensorEnabled (s : State) (j : Nat) : Bool :=
  j = 10 || (j < 10 && bitOf (envCfg s 0x6000 1) j && !(s.power.crx4 && 4 ≤ j && j < 8))
/-- The sensor that is the HDA reference. -/
def hdaRef (s : State) : Nat := envCfg s 0x6000 2
/-- What SMART reports of a sensor: 0 if disabled, 423 K if broken (R299). -/
def smartTemp (s : State) (j : Nat) : Nat :=
  if !sensorEnabled s j then 0
  else if h : j < 11 then (if s.env.sensors[j].broken then 423 else kelvin s.env.sensors[j].temp) else 0
/-- The Composite Temperature: the HDA reference (R299). -/
def compositeTemp (s : State) : Nat := smartTemp s (hdaRef s)

/-- Available Spare in percent (R298): over the bands of namespaces; 100 with no spare at all. -/
def availableSpare (s : State) : Nat :=
  let l := s.sub.bands.filter (fun b => b.nsid ≠ 0)
  let free := (l.map (·.sparesFree)).sum
  let all := (l.map (·.sparesAtEmpty)).sum
  if all = 0 then 100 else 100 * free / all

/-- No fitted head can be written: every one retired or read-only (R298, bit 3). -/
def noWritableHead (s : State) : Bool :=
  (allHeads.filter (headFitted s)).all (fun h => headRetired s h || headReadOnly s h)

/-- A level of SENSOR_LIMITS of a sensor, in kelvin (spec 09, Table 9.5; R299): WARN at byte 0, CRITICAL at byte 4. -/
def limitKelvin (s : State) (j off : Nat) : Nat := kelvin (fieldS (envVal s 0x6003 j) off 2)

/-- The over-temperature threshold in force: that of the feature, WCTEMP until it is set (PRESUMED, log 5: NVMe Base 2.0). -/
def overThreshold (s : State) (f : Features) : Nat := f.overTh.getD (limitKelvin s (hdaRef s) 0)

/-- The Critical Warning field as the controller of port `p` reports it (R298). -/
def criticalWarning (s : State) (p : PortId) : BitVec 8 :=
  let f := (s.port p).feat
  let t := compositeTemp s
  let hot := s.env.tempWarn || overThreshold s f ≤ t
    || (match f.underTh with | none => false | some x => t ≤ x)
  let degraded := s.faults.retiredReaders ≠ 0 || s.faults.retiredHeads ≠ 0 || s.faults.readOnlyHeads ≠ 0
    || s.faults.retiredChannels ≠ 0 || s.sub.bands.any (fun b => b.nsid ≠ 0 && (b.state = .readOnly || b.state = .offline))
  BitVec.ofNat 8 (b2n (availableSpare s < 10) + 2 * b2n hot + 4 * b2n degraded + 8 * b2n (noWritableHead s)
    + 16 * b2n s.power.holdupWarn)

/-! ## Asynchronous events (R301) -/

/-- An admin completion with no data; DNR is 0 where no rule says otherwise (DESIGN CHOICE, log 5). -/
def plainCompletion (cid : Word16) (st : Status) : Completion := ⟨0, 0, cid, st, false, 0, 0, 0, .none⟩

/-- An Error Information entry for a completion that reports an error (R297). -/
def noteError (sqid : Nat) (cid : Word16) (st : Status) (q : Port) : Port :=
  if st = .success then q else { q with errors := capped 64 ((sqid, cid, st) :: q.errors), errorCount := q.errorCount + 1 }

/-- An asynchronous event on a port: it completes the oldest held request, or waits for one. Every SMART / Health event is posted, one for
each bit (R301); of the others the log page is then not re-armed until it has been read (PRESUMED, log 5). -/
def postAen (a : Aen) (p : Port) : Port :=
  let smart : Bool := a.kind = 1
  if !p.rdy || (!smart && (p.masked.contains a.page || p.events.contains a)) then p
  else match p.aers with
    | [] => { p with events := p.events ++ [a] }
    | c :: r =>
      { p with aers := r, masked := if smart then p.masked else a.page :: p.masked,
               committed := p.committed ++ [{ plainCompletion c .success with
                 dw0 := BitVec.ofNat 32 (a.kind + a.info.toNat * 256 + a.page.toNat * 65536) }] }

/-- The SMART / Health events of the Critical Warning bits that have become set, if enabled (R301): information 0x02 for
bit 0, 0x01 for bit 1 and 0x00 for the others, page 0x02 (PRESUMED, log 5: NVMe Base 2.0). -/
def noteWarningPort (p : PortId) (s : State) : State :=
  let w := criticalWarning s p
  let q := s.port p
  let fresh := (List.range 5).filter (fun i => w.getLsbD i && !q.warning.getLsbD i && q.feat.asyncConfig.getLsbD i)
  s.modPort p (fun q => fresh.foldl (fun q i => postAen ⟨1, if i = 0 then 2 else if i = 1 then 1 else 0, 0x02⟩ q)
    { q with warning := w })

/-- Both controllers compare their Critical Warning; after a vault trigger no event is posted any more (spec 02, R71). -/
def noteWarning (s : State) : State := if s.power.vault ≠ .none then s else noteWarningPort 1 (noteWarningPort 0 s)

end Sys2Proof.Machine
end

