-- ==== Sys2Proof/Machine/Fabric.lean ====
section
/-! DEFINITION. Plarik responses and how they reach who asked (spec 15, R452, R456; spec 10, R315). -/

namespace Sys2Proof.Machine

/-- A byte of a request; absent bytes read as zero. -/
def reqByte (r : List Byte) (i : Nat) : Nat := fieldU r i 1

/-- A Plarik response (Table 15.6) to a request: INDEX, SUB, ABORT, TOTAL and the payload. NODE is the node number in force. -/
def plarikResponse (s : State) (req : List Byte) (index sub abort total : Nat) (payload : List Byte) : List Byte :=
  leBytes 1 (reqByte req 0 + 0x80) ++ leBytes 1 (reqByte req 1) ++ leBytes 2 (fieldU req 2 2) ++ leBytes 2 (cfg s 0x1001 1)
    ++ leBytes 2 index ++ leBytes 1 sub ++ [0] ++ leBytes 2 payload.length ++ leBytes 4 abort ++ leBytes 4 total ++ payload

/-- A response on its path: through the mailbox of a port (R315), or as a message on the MCTP path, whose source endpoint may then
send its next request (R456). -/
def deliverTo (p : Path) (endpoint : Byte) (resp : List Byte) (s : State) : State :=
  match p with
  | .port0 => s.modPort 0 (fun q => if q.mbGo then { q with mbWait := some resp } else q)
  | .port1 => s.modPort 1 (fun q => if q.mbGo then { q with mbWait := some resp } else q)
  | .mctp => { s with mgmt.sent := s.mgmt.sent ++ [resp], mgmt.busy := s.mgmt.busy.filter (· ≠ endpoint) }

/-- The answer of a commit to who awaits it (R446): an abort code, 0 for success. -/
def answerWaiter (abort : Nat) (s : State) : State :=
  let s' := { s with dict.waiter := none }
  match s.dict.waiter with
  | none => s'
  | some (.write _) => { s' with mgmt.answer := some (BitVec.ofNat 32 abort, []) }
  | some (.message p req e) => deliverTo p e (plarikResponse s req (fieldU req 6 2) (reqByte req 8) abort 0 []) s'
  | some (.command a) =>
    if !(s.port a.port).rdy || s.power.vault ≠ .none then s'
    else
      let st : Status := if abort = 0 then .success else .dictAbort
      s'.modPort a.port (fun q =>
        noteError 0 a.cid st { q with committed := q.committed ++ [{ plainCompletion a.cid st with dw0 := BitVec.ofNat 32 abort }] })

/-- A restart of the management plane answers a Plarik request in progress with 0xD0000050 (spec 13, R400). -/
def answerBusy (s : State) : State :=
  match s.dict.waiter with
  | some (.message ..) => answerWaiter 0xD0000050 s
  | _ => s

end Sys2Proof.Machine
end

