-- ==== Sys2Proof/Machine/Events.lean ====
section
/-! DEFINITION. The event recorder's operations (spec 17): writing records, repeat and fill, freeze, the mirror in
EVENT_LOG, ring images and record bytes. -/

namespace Sys2Proof.Machine

/-- Two events are identical for REPEAT (R485): CODE, SEVERITY, SOURCE, UNIT_KIND, UNIT and KEY. -/
def sameEvent (a b : Event) : Bool :=
  a.code = b.code && a.severity = b.severity && a.source = b.source && a.unitKind = b.unitKind && a.unit = b.unit
    && a.key = b.key

/-- A new record at the head of the ring, with the next SEQ; EVENT_NEW is set at its valid mark (R481, R482). -/
def newRecord (e : Event) (leaveOpen : Bool) (s : State) : State :=
  setFlag .eventNew { s with
    evr.ring := capped 4096 (⟨e, s.evr.nextSeq, s.clock.cycles, 0⟩ :: s.evr.ring)
    evr.nextSeq := (s.evr.nextSeq + 1) % 2 ^ 32
    evr.isOpen := leaveOpen }

/-- One event written under REPEAT or FILL (R485). -/
def recordEvent (e : Event) (s : State) : State :=
  match s.evr.ring with
  | r :: rest =>
    if !s.evr.fill && s.evr.isOpen && sameEvent e r.event then
      { s with evr.ring := { r with rept := r.rept + 1 } :: rest, evr.isOpen := r.rept + 1 < 65535 }
    else newRecord e (!s.evr.fill) s
  | [] => newRecord e (!s.evr.fill) s

/-- The OVERFLOW record, once the queue holds fewer than 128 events (R483). -/
def overflowRecord (s : State) : State :=
  if 0 < s.evr.lostSince ∧ s.evr.queue.length < 128 then
    recordEvent { event 0xE002 2 srcController 0 s.evr.lostSince with powerOn := powerOn s }
      { s with evr.lostSince := 0 }
  else s

/-- The next queued event is written (R481, R483); while frozen, only the events held at the freeze, each as a closed
record of its own (R486). -/
def writeNext (s : State) : State :=
  match s.evr.queue with
  | [] => s
  | e :: q =>
    let s' := { s with evr.queue := q }
    if s.evr.frozen then
      if s.evr.freezeLeft = 0 then s
      else newRecord e false { s' with evr.freezeLeft := s.evr.freezeLeft - 1 }
    else overflowRecord (recordEvent e s')

/-- EVT_FREEZE = 1 (R486): the open record closes; the events in the queue are still to be written. A further write of 1
only renews the lease. -/
def freeze (s : State) : State :=
  if s.evr.frozen then s
  else { s with evr.frozen := true, evr.isOpen := false, evr.freezeLeft := s.evr.queue.length }

/-- The end of a freeze (R486): the FREEZE_SUMMARY record precedes any later event. -/
def unfreeze (s : State) : State :=
  if !s.evr.frozen then s
  else
    let r := s.evr
    let s := { s with evr := { r with frozen := false, freezeLeft := 0, frozenCount := 0, frozen3 := 0, frozen2 := 0, frozenLast := 0 } }
    if r.frozenCount = 0 then s
    else
      let detail := r.frozenCount % 2 ^ 32 + 2 ^ 32 * satNat 255 r.frozen3 + 2 ^ 40 * satNat 255 r.frozen2
        + 2 ^ 48 * r.frozenLast.toNat
      let e := { event 0xE001 1 srcController 0 detail with powerOn := powerOn s }
      { s with evr.queue := s.evr.queue.take r.freezeLeft ++ e :: s.evr.queue.drop r.freezeLeft }

/-- EVT_MODE: the open record closes at a change (R485). -/
def setEvtMode (fill : Bool) (s : State) : State :=
  if s.evr.fill = fill then s else { s with evr.fill := fill, evr.isOpen := false }

/-- The records not yet in EVENT_LOG, newest first: those after the newest mirrored one (R487). -/
def unmirrored (r : Evr) : List EventRec :=
  match r.log with
  | [] => r.ring
  | m :: _ => r.ring.takeWhile (fun x => x.seq ≠ m.seq)

/-- The closed records gathered and not yet programmed, oldest first (LOG_PENDING). -/
def gathered (r : Evr) : List EventRec :=
  ((if r.isOpen then (unmirrored r).drop 1 else unmirrored r)).reverse

/-- Records appended to EVENT_LOG, oldest first (R487). -/
def appendLog (l : List EventRec) (r : Evr) : Evr := { r with log := l.reverse ++ r.log }

/-- A page of up to 512 gathered records is programmed (R487). -/
def mirrorPage (s : State) : State := { s with evr := appendLog ((gathered s.evr).take 512) s.evr }

/-- The 32 bytes of a record (R480). -/
def recordBytes (r : EventRec) : List Byte :=
  leBytes 2 r.event.code.toNat
    ++ leBytes 1 (r.event.severity.toNat * 64 + r.event.source.toNat * 8)
    ++ leBytes 1 (r.event.unitKind.toNat * 64 + r.event.unit.toNat)
    ++ leBytes 4 r.seq ++ leBytes 4 r.event.powerOn ++ leBytes 4 r.cycle ++ leBytes 2 r.rept
    ++ leBytes 4 r.event.key.toNat ++ leBytes 8 r.event.detail.toNat ++ [0, 0xA5]

/-- The record at ring index `i`, or zero bytes if none was written there (R482). -/
def ringSlot (s : State) (i : Nat) : List Byte :=
  match s.evr.ring.find? (fun r => r.seq % 4096 = i) with
  | some r => recordBytes r
  | none => List.replicate 32 0

/-- EVT_HEAD (R482). -/
def evtHead (s : State) : Nat := s.evr.nextSeq % 4096 + s.evr.nextSeq / 4096 % 65536 * 65536

/-- The ring image (R490, Table 17.3). -/
def ringImage (s : State) : List Byte :=
  leBytes 4 s.evr.nextSeq ++ [BitVec.ofNat 8 (b2n s.evr.fill), BitVec.ofNat 8 (b2n s.evr.frozen), 0, 0]
    ++ leBytes 4 s.evr.frozenCount ++ leBytes 4 s.evr.overflows.toNat ++ List.replicate 48 0
    ++ ((List.range 4096).map (ringSlot s)).flatten

/-- LOG_OLDEST: SEQ of the oldest mirrored record, 0 with none. -/
def logOldest (s : State) : Nat := (s.evr.log.getLast?.map (·.seq)).getD 0

/-- The records LOG_READ returns (R491): from the selected SEQ, from the oldest if that one has been erased, none if it lies
beyond the newest mirrored record. SEQ values are compared by their distance from the oldest, modulo 2^32. -/
def logRead (s : State) : List EventRec :=
  let l := s.evr.log.reverse
  let dist (q : Nat) := (q + 2 ^ 32 - logOldest s) % 2 ^ 32
  match s.evr.log with
  | [] => []
  | newest :: _ =>
    if dist s.evr.logSelect ≤ dist newest.seq then (l.dropWhile (fun r => dist r.seq < dist s.evr.logSelect)).take 512
    else if dist s.evr.logSelect < 2 ^ 31 then [] else l.take 512

end Sys2Proof.Machine
end

