-- ==== Sys2Proof/Machine/Faults.lean ====
section
/-! DEFINITION. Fault management (spec 13): fault records, counting and charging, escalation, and the decision to retire
a unit. The retirement instant and its effects stand in Recovery. -/

namespace Sys2Proof.Machine

/-- The kinds of spec 13, Table 13.1. -/
inductive FaultKind where
  | otfFail | unrecovered | readerBlame | syncMiss | asperity | writeFault | writeStall | underrun | missedWedge
  | servoFault | reacqReload | overrun | ceFault | seekFault | paritySwitch | parityDouble | paFault | assistMon
  | calFail | loadFail | linkLoss | speedFault | indexLoss | bufferCe | bufferUe | memException | sensorBroken
  | bandRetired | vaultLoss | holdupFail
deriving DecidableEq, Repr

/-- The code of a kind (Table 13.1). -/
def FaultKind.code : FaultKind → Nat
  | .otfFail => 0x01 | .unrecovered => 0x02 | .readerBlame => 0x03 | .syncMiss => 0x04 | .asperity => 0x05
  | .writeFault => 0x06 | .writeStall => 0x07 | .underrun => 0x08 | .missedWedge => 0x09 | .servoFault => 0x0A
  | .reacqReload => 0x0B | .overrun => 0x0C | .ceFault => 0x0D | .seekFault => 0x0E | .paritySwitch => 0x0F
  | .parityDouble => 0x10 | .paFault => 0x11 | .assistMon => 0x12 | .calFail => 0x13 | .loadFail => 0x14
  | .linkLoss => 0x15 | .speedFault => 0x16 | .indexLoss => 0x17 | .bufferCe => 0x18 | .bufferUe => 0x19
  | .memException => 0x1A | .sensorBroken => 0x1B | .bandRetired => 0x1C | .vaultLoss => 0x1D | .holdupFail => 0x1E

/-- The classes of R396, coded as in spec 17, Table 17.4. -/
inductive FaultClass where
  | transient | permanent | immediate | driveLevel
deriving DecidableEq, Repr

/-- The class code in byte 18 of the record. -/
def FaultClass.code : FaultClass → Nat
  | .transient => 0 | .permanent => 1 | .immediate => 2 | .driveLevel => 3
/-- The severity: 1 transient, 2 permanent-class, 3 otherwise (Table 17.4). -/
def FaultClass.severity : FaultClass → Nat
  | .transient => 1 | .permanent => 2 | _ => 3

/-- UNIT_KIND and UNIT of a unit (spec 17, Table 17.1). -/
def UnitId.code : UnitId → Nat × Nat
  | .reader h b => (3, 2 * h.val + b2n b)
  | .head h => (2, h.val)
  | .channel n => (1, n.val)

/-- The fault record of a unit. -/
def faultRec (s : State) : UnitId → FaultRec
  | .reader h b => s.faults.readers[2 * h.val + b2n b]'(by have := h.isLt; cases b <;> simp [b2n] <;> omega)
  | .head h => s.faults.heads[h]
  | .channel n => s.faults.channels[n]

/-- The fault record of a unit replaced. -/
def modFaultRec (u : UnitId) (f : FaultRec → FaultRec) (s : State) : State :=
  match u with
  | .reader h b => { s with faults.readers := updNat s.faults.readers (2 * h.val + b2n b) f }
  | .head h => { s with faults.heads := upd s.faults.heads h f }
  | .channel n => { s with faults.channels := upd s.faults.channels n f }

/-- The FAULT event of a kind (spec 17, Table 17.4): byte 22 IN_WINDOW, bytes 24 to 29 the kind's own data. -/
def faultEvent (k : FaultKind) (c : FaultClass) (unit : Option UnitId) (inWindow extra : Nat) (s : State) : State :=
  let u := match unit with | none => (0, 0) | some u => u.code
  raise (event (0xF000 + k.code) c.severity srcController c.code (inWindow + extra % 2 ^ 48 * 65536) u.1 u.2) s

/-- A transient event: counted to its unit, if any, and recorded (R397). -/
def transientFault (k : FaultKind) (unit : Option UnitId) (extra : Nat) (s : State) : State :=
  let s := match unit with
    | none => s
    | some u => modFaultRec u (fun r => { r with transient := r.transient + 1 }) s
  faultEvent k .transient unit 0 extra s

/-- A stamp lies within the last PERM_WINDOW power-on hours (R398), modulo 2^32. -/
def inWindow (s : State) (t : Nat) : Bool := (powerOn s + 2 ^ 32 - t) % 2 ^ 32 ≤ cfg s 0x7300 1 * 1024

/-- The permanent-class events of a record within PERM_WINDOW. -/
def windowStamps (s : State) (r : FaultRec) : List (Nat × Bool) := r.stamps.filter (fun x => inWindow s x.1)

/-- A unit is retired in full. -/
def unitRetired (s : State) : UnitId → Bool
  | .reader h b => readerRetired s h b || headRetired s h
  | .head h => headRetired s h
  | .channel n => chanRetired s n

/-- The retirement of a unit is decided (R403): it takes effect at the next tick boundary. STATE reads 3 meanwhile. -/
def decideUnit (u : UnitId) (full : Bool) (s : State) : State :=
  let readOnly := match u with | .head h => headReadOnly s h | _ => false
  if unitRetired s u || (readOnly && !full) || s.faults.decided.any (fun d => d.1 = u && (d.2 || !full)) then s
  else modFaultRec u (fun r => { r with state := 3 })
    { s with faults.decided := s.faults.decided.filter (fun d => d.1 ≠ u) ++ [(u, full)] }

/-- A channel whose every fitted head has been retired in full is itself retired (R398). -/
def decideChannelOf (n : ChanId) (s : State) : State :=
  if (headsOf s n).all (headRetired s) ∧ headsOf s n ≠ [] then decideUnit (.channel n) true s else s

/-- A unit is to be retired: a reader whose head's other reader is retired takes its head, read-side, in its place
(R398). -/
def retireUnit (u : UnitId) (full : Bool) (s : State) : State :=
  match u with
  | .reader h b =>
    if readerRetired s h (!b) || s.faults.decided.contains (.reader h (!b), true) then decideUnit (.head h) true s
    else decideUnit (.reader h b) true s
  | .head h => decideUnit (.head h) full s
  | .channel n => decideUnit (.channel n) true s

/-- The limit of a unit's kind, and whether RETIRE_ENABLE lets that kind be retired (R398). -/
def unitLimit (s : State) : UnitId → Nat × Bool
  | .reader .. => (cfg s 0x7300 2, bitOf (cfg s 0x7300 5) 0)
  | .head _ => (cfg s 0x7300 3, bitOf (cfg s 0x7300 5) 1)
  | .channel _ => (cfg s 0x7300 4, bitOf (cfg s 0x7300 5) 2)

/-- A permanent-class event charged to a unit (R398): its stamp, its count in the window, its record, and the decision to
retire when the count reaches the limit. A head with only write-side events in its window is retired read-only (R404). -/
def charge (k : FaultKind) (u : UnitId) (writeSide : Bool) (extra : Nat) (s : State) : State :=
  let s := modFaultRec u (fun r => { r with
    stamps := (powerOn s, writeSide) :: r.stamps.take 3
    permTotal := satNat 65535 (r.permTotal + 1)
    lastKind := k.code }) s
  let win := windowStamps s (faultRec s u)
  let s := faultEvent k .permanent (some u) win.length extra s
  let (limit, enabled) := unitLimit s u
  if limit ≤ win.length ∧ enabled then retireUnit u (!(win.all (·.2))) s else s

/-- An event that retires its unit at once (R396). -/
def immediateFault (k : FaultKind) (u : UnitId) (extra : Nat) (s : State) : State :=
  retireUnit u true (faultEvent k .immediate (some u) (windowStamps s (faultRec s u)).length extra s)

/-- A drive-level event. -/
def driveFault (k : FaultKind) (extra : Nat) (s : State) : State := faultEvent k .driveLevel none 0 extra s

/-- READER_BLAME (Table 13.1): the other reader is counted; READER_BLAME_LIMIT recoveries within PERM_WINDOW make one
permanent-class event of it, and the count starts again. -/
def readerBlame (h : HeadId) (blamed : Bool) (s : State) : State :=
  let s := transientFault .readerBlame (some (.reader h blamed)) 0 s
  let ix := 2 * h.val + b2n blamed
  let mine := ((s.faults.blames.filter (fun x => x.1 = ix && inWindow s x.2)).length) + 1
  if cfg s 0x7300 8 ≤ mine then
    charge .readerBlame (.reader h blamed) false 0
      { s with faults.blames := s.faults.blames.filter (fun x => x.1 ≠ ix) }
  else { s with faults.blames := s.faults.blames ++ [(ix, powerOn s)] }

/-- SEEK_FAULT (Table 13.1): SEEK_FAULT_LIMIT consecutive on one channel make one permanent-class event of it. -/
def seekFaultEvent (n : ChanId) (s : State) : State :=
  let s := transientFault .seekFault (some (.channel n)) 0 s
  let k := s.faults.seekRun[n] + 1
  if cfg s 0x7300 7 ≤ k then
    charge .seekFault (.channel n) false 0 { s with faults.seekRun := s.faults.seekRun.set n 0 }
  else { s with faults.seekRun := s.faults.seekRun.set n k }

/-- A move of channel `n` reached FOLLOW: the run of seek faults starts again. -/
def seekRunEnd (n : ChanId) (s : State) : State :=
  { s with faults.seekRun := s.faults.seekRun.set n 0 }

/-- WRITE_STALL (Table 13.1): WRITE_STALL_LIMIT consecutive on one head make one write-side permanent-class event. -/
def writeStallEvent (h : HeadId) (s : State) : State :=
  let s := transientFault .writeStall (some (.head h)) 0 s
  let k := s.heads[h].stalls + 1
  if cfg s 0x7300 6 ≤ k then
    charge .writeStall (.head h) true 0 (s.modHead h (fun x => { x with stalls := 0 }))
  else s.modHead h (fun x => { x with stalls := k })

/-- A sector put on media by a head ends its run of stalls (Table 13.1). -/
def endStalls (h : HeadId) (s : State) : State :=
  s.modHead h (fun x => { x with stalls := 0 })

/-- The present count of a unit's escalation rule (Table 13.1): blames of a reader within PERM_WINDOW, consecutive stalls of a head,
consecutive seek faults of a channel. -/
def escalation (s : State) : UnitId → Nat
  | .reader h b => (s.faults.blames.filter (fun x => x.1 = 2 * h.val + b2n b && inWindow s x.2)).length
  | .head h => s.heads[h].stalls
  | .channel n => s.faults.seekRun[n]

/-- The 32 bytes of the fault record of a unit (R410, Table 13.6); ESCALATION saturates at 255 (DESIGN CHOICE, log 44). -/
def faultBytes (s : State) (u : UnitId) : List Byte :=
  let r := faultRec s u
  let win := windowStamps s r
  let stamp (i : Nat) := ((r.stamps[i]?).map (·.1)).getD 0
  leBytes 4 r.transient.toNat ++ leBytes 2 r.permTotal
    ++ [BitVec.ofNat 8 win.length, BitVec.ofNat 8 r.state, BitVec.ofNat 8 r.lastKind,
        BitVec.ofNat 8 (b2n (win ≠ [] && win.all (·.2))), BitVec.ofNat 8 (satNat 255 (escalation s u)), 0]
    ++ leBytes 4 (stamp 0) ++ leBytes 4 (stamp 1) ++ leBytes 4 (stamp 2) ++ leBytes 4 (stamp 3) ++ leBytes 4 r.retiredAt

end Sys2Proof.Machine
end

