-- ==== Sys2Proof/Machine/Bands.lean ====
section
/-! DEFINITION. Bands, zones and namespaces: the format (spec 04, R106 to R111), capacity and defects (R116 to R120), band
records (R121), the mapping of blocks (R122, R123), zone states and the active-zone pool (spec 10, R304). -/

namespace Sys2Proof.Machine

/-! ## Format -/

/-- The recording zones of a head (0x3100). -/
def formatOf (s : State) (h : HeadId) : List ZoneRec := (records (valueOf s 0x3100 h.val) 32).map ZoneRec.of

/-- Bands of a recording zone. -/
def ZoneRec.bands (z : ZoneRec) : Nat := z.tracks / (z.bandTracks + z.guard)
/-- P: the physical sectors of a band (spec 04). -/
def ZoneRec.p (z : ZoneRec) : Nat := z.bandTracks * z.n
/-- S: the reserved spares of a band. -/
def ZoneRec.s (z : ZoneRec) : Nat := ceilDiv (4 * z.p) 1000
/-- A shingled recording zone. -/
def ZoneRec.shingled (z : ZoneRec) : Bool := z.kind = 2

/-- The recording zone of band `b` of a surface, its number, and the band's number in it (R121). -/
def findBand : List ZoneRec → Nat → Nat → Option (ZoneRec × Nat × Nat)
  | [], _, _ => none
  | z :: zs, i, b => if b < z.bands then some (z, i, b) else findBand zs (i + 1) (b - z.bands)

/-- Where a band lies. -/
def bandPlace (s : State) (k : BandKey) : Option (ZoneRec × Nat × Nat) := findBand (formatOf s k.head) 0 k.band

/-- A calibration track as a band (spec 09, R271): BAND 0xFFFF00 + k. -/
def isCalBand (k : BandKey) : Bool := 0xFFFF00 ≤ k.band && k.band < 0xFFFF08

/-- The band of calibration track `t` of a head. -/
def calBand (h : HeadId) (t : Fin 8) : BandKey := ⟨h, 0xFFFF00 + t.val⟩

/-- The recording zone of a band's sectors, with its index: that of its record, or recording zone 0 for a calibration track. -/
def zoneOfBand (s : State) (k : BandKey) : Option (ZoneRec × Nat) :=
  if isCalBand k then (formatOf s k.head).head?.map (fun z => (z, 0)) else (bandPlace s k).map (fun x => (x.1, x.2.1))

/-- Bands of a surface. -/
def bandsOn (s : State) (h : HeadId) : Nat := ((formatOf s h).map ZoneRec.bands).sum

/-! ## Defects and capacity -/

/-- The positions in the band that an entry of a defect list makes bad (R116): one sector, or its whole track. -/
def defectPositions (z : ZoneRec) (zi bi : Nat) (e : List Byte) : List Nat :=
  let zone := fieldU e 0 1
  let d := fieldU e 1 3
  let first := bi * (z.bandTracks + z.guard)
  if zone = zi ∧ first ≤ d ∧ d < first + z.bandTracks then
    if bitOf (fieldU e 6 2) 0 then (List.range z.n).map (fun i => (d - first) * z.n + i)
    else [(d - first) * z.n + fieldU e 4 2]
  else []

/-- The factory-slipped positions of a band (R116, R117). -/
def factoryBad (s : State) (k : BandKey) (z : ZoneRec) (zi bi : Nat) : List Nat :=
  ((records (valueOf s 0x3110 k.head.val) 8).map (defectPositions z zi bi)).flatten.eraseDups

/-- ZCAP of a band of zone `z` with `d` slipped sectors (R117). -/
def zcapOf (z : ZoneRec) (d : Nat) : Nat := min 65536 (z.p - d - z.s)

/-- The record of a band that nothing has changed: free, empty, with its factory defects (R117, R121), and excluded on a retired head
(spec 13, Table 13.2). -/
def freeBand (s : State) (k : BandKey) : BandRec :=
  match bandPlace s k with
  | none => ⟨k, 0, 0, .offline, false, true, 0, 0, 0, none, 0, 0, 0, [], [], [], [], 0, [], false, []⟩
  | some (z, zi, bi) =>
    let d := (factoryBad s k z zi bi).length
    let cap := zcapOf z d
    let spares := z.p - d - cap
    ⟨k, 0, cap, if z.shingled then .empty else .conventional, z.shingled, !z.shingled && (z.p - d - z.s < 65536 || headRetired s k.head),
      spares, spares, 0, none, 0, 0, 0, [], [], [], [], 0, [], false, []⟩

/-- The record of a band. -/
def bandRec (s : State) (k : BandKey) : BandRec := (s.sub.bands.find? (fun b => b.key = k)).getD (freeBand s k)

/-- A band record stored; calibration tracks have none. -/
def setBand (r : BandRec) (s : State) : State :=
  { s with sub.bands :=
      if isCalBand r.key then s.sub.bands
      else if s.sub.bands.any (fun b => b.key = r.key) then s.sub.bands.map (fun b => if b.key = r.key then r else b)
      else s.sub.bands ++ [r] }

/-- A band record replaced by its image. -/
def modBand (k : BandKey) (f : BandRec → BandRec) (s : State) : State := setBand (f (bandRec s k)) s

/-- The slipped physical positions of a band: factory, promoted, and the slip entries of its relocation list. -/
def badPositions (s : State) (r : BandRec) : List Nat :=
  (match bandPlace s r.key with | none => [] | some (z, zi, bi) => factoryBad s r.key z zi bi)
    ++ r.slipped ++ (r.reloc.filter (fun e => !e.2)).map (·.1)

/-- The `i`-th good position when the sorted positions `bad` are skipped. -/
def nthGood (bad : List Nat) (i : Nat) : Nat :=
  (bad.foldl (fun l b => insertSorted (fun x y => x < y) b l) []).foldl (fun p b => if b ≤ p then p + 1 else p) i

/-- The physical position of a block offset of a band (R117, R118): a remapped block lies on the spare that its entry took. -/
def physical (s : State) (r : BandRec) (offset : Nat) : Nat :=
  let remaps := (r.reloc.filter (·.2)).map (·.1)
  match remaps.reverse.findIdx? (· = offset) with
  | some i => nthGood (badPositions s r) (r.zcap + (remaps.length - 1 - i))
  | none => nthGood (badPositions s r) offset

/-- The band track, the data track of the recording zone, the sector on the track and the recording zone of an offset. A calibration
track takes the skew of data track 0 (DESIGN CHOICE, log 27). -/
def sectorPlace (s : State) (k : BandKey) (offset : Nat) : Option (Nat × Nat × Nat × ZoneRec) :=
  match bandPlace s k with
  | none => if isCalBand k then (formatOf s k.head).head?.bind (fun z => if z.n = 0 then none else some (0, 0, offset % z.n, z)) else none
  | some (z, _, bi) =>
    if z.n = 0 then none
    else
      let p := physical s (bandRec s k) offset
      some (p / z.n, bi * (z.bandTracks + z.guard) + p / z.n, p % z.n, z)

/-- The band track of an offset. -/
def trackIn (s : State) (k : BandKey) (offset : Nat) : Nat := (sectorPlace s k offset).elim 0 (·.1)

/-- The window of a track, counted from the first, that holds a sector bit, and the bit's place in that window (R110): the first window
carries 16 bits fewer, each later one 48 and the last one 32. -/
def trackWindow (z : ZoneRec) (w bits : Nat) : Nat × Nat :=
  if bits < z.wdb - 16 then (0, bits)
  else
    let r := bits - (z.wdb - 16)
    let i := min (r / max 1 (z.wdb - 48)) (w - 2)
    (1 + i, 32 + (r - i * (z.wdb - 48)))

/-- The window that holds the start of a sector (R111). -/
def windowOf (z : ZoneRec) (w d sector : Nat) : Nat := (d * z.skew + (trackWindow z w (sector * 37304)).1) % w

/-- The angular bin of an offset (R111). -/
def binOf (s : State) (k : BandKey) (offset : Nat) : Nat :=
  match sectorPlace s k offset with | none => 0 | some (_, d, sec, z) => windowOf z (wedges s) d sec

/-- The servo track of a data track (spec 04, R108): start plus d times the pitch. -/
def servoTrack (z : ZoneRec) (d : Nat) : Nat := z.start + d * z.pitch / 256

/-- The servo track of an offset. -/
def servoTrackOf (s : State) (k : BandKey) (offset : Nat) : Nat :=
  if isCalBand k then 64 + 16 * (k.band % 8)
  else match sectorPlace s k offset with | none => 0 | some (_, d, _, z) => servoTrack z d

/-- The target position of an offset in 1/512 servo track; that of calibration track k is 512 × (64 + 16k) (spec 09, R271). -/
def targetOf (s : State) (k : BandKey) (offset : Nat) : Int :=
  if isCalBand k then 512 * (64 + 16 * (k.band % 8) : Nat)
  else match sectorPlace s k offset with | none => 0 | some (_, d, _, z) => (z.start : Int) * 512 + (d * z.pitch * 2 : Nat)

/-! ## Namespaces -/

/-- A namespace by its identifier. -/
def findNs (s : State) (nsid : Nat) : Option Namespace := s.sub.namespaces.find? (fun n => n.nsid = nsid)

/-- A namespace replaced by its image. -/
def modNs (nsid : Nat) (f : Namespace → Namespace) (s : State) : State :=
  { s with sub.namespaces := s.sub.namespaces.map (fun n => if n.nsid = nsid then f n else n) }

/-- Attached to the controller of port `p`. -/
def Namespace.attached (n : Namespace) (p : PortId) : Bool := if p = 0 then n.attached0 else n.attached1

/-- The band and offset of a block (R123). -/
def locate (n : Namespace) (lba : Nat) : Option (BandKey × Nat) := (n.bands[lba / 65536]?).map (fun k => (k, lba % 65536))

/-- The block of a namespace at an offset of a band: the inverse of `locate`. -/
def blockAt (s : State) (k : BandKey) (offset : Nat) : Option BlockKey :=
  s.sub.namespaces.findSome? (fun n => (n.bands.findIdx? (· = k)).map (fun i => ⟨n.nsid, i * 65536 + offset⟩))

/-- The band and offset of a block of any namespace. -/
def locateBlock (s : State) (b : BlockKey) : Option (BandKey × Nat) := (findNs s b.nsid).bind (fun n => locate n b.lba)

/-- The runs of bands that a range of blocks touches: band, first offset, length (R326). -/
def spanBands (n : Namespace) (lba count : Nat) : List (BandKey × Nat × Nat) :=
  if count = 0 then []
  else (List.range ((lba + count - 1) / 65536 - lba / 65536 + 1)).filterMap (fun i =>
    let z := lba / 65536 + i
    let a := max lba (z * 65536)
    let b := min (lba + count) ((z + 1) * 65536)
    (n.bands[z]?).map (fun k => (k, a - z * 65536, b - a)))

/-- Every fitted head's bands of a kind in the allocation order (R122), as keys (key order, band). -/
def allBands (s : State) (shingled : Bool) : List (Nat × BandKey) :=
  ((allHeads.filter (headFitted s)).map (fun h =>
    let fmt := formatOf s h
    let ofKind := ((List.range (fmt.map ZoneRec.bands).sum).filter (fun b =>
      (findBand fmt 0 b).any (fun x => x.1.shingled = shingled)))
    ofKind.zipIdx.map (fun br =>
      let n := (chanOf h).val
      let i := localIndex h
      let r := br.2
      let order := if cfg s 0x3120 1 = 0 then (r * 4 + i) * 8 + n else (n * 4 + i) * 2097152 + r
      (order, (⟨h, br.1⟩ : BandKey))))).flatten

/-- The free bands of a kind, in the order of ALLOC_ORDER (R122): not owned, not excluded, not offline, on a head in
service. -/
def freeBands (s : State) (shingled : Bool) : List BandKey :=
  (((allBands s shingled).filter (fun x =>
    let r := bandRec s x.2
    r.nsid = 0 && !r.excluded && r.state ≠ .offline && r.state ≠ .readOnly && headServes s x.2.head && !headReadOnly s x.2.head)).mergeSort
      (fun a b => a.1 ≤ b.1)).map (·.2)

/-! ## Zone states -/

/-- Open or closed: a zone that holds an active-zone slot (R121, R304). -/
def ZoneState.active : ZoneState → Bool
  | .implicitOpen | .explicitOpen | .closed => true
  | _ => false

/-- Open. -/
def ZoneState.isOpen : ZoneState → Bool
  | .implicitOpen | .explicitOpen => true
  | _ => false

/-- The state code (spec 04, Table 4.6). -/
def ZoneState.code : ZoneState → Nat
  | .conventional => 0x0 | .empty => 0x1 | .implicitOpen => 0x2 | .explicitOpen => 0x3 | .closed => 0x4
  | .readOnly => 0xD | .full => 0xE | .offline => 0xF

/-- Active-zone slots of the drive (R121). -/
def activeSlots : Nat := 40960

/-- The active-zone slots in use. -/
def slotsUsed (s : State) : List Nat := s.sub.bands.filterMap (·.activeSlot)

/-- The lowest free active-zone slot. -/
def freeSlot (s : State) : Option Nat :=
  if (slotsUsed s).length < activeSlots then
    firstFrom (fun i => !(slotsUsed s).contains i) ((slotsUsed s).length + 1) 0
  else none

/-- A band put in a zone state, its active-zone slot kept, taken or given back. -/
def setZoneState (k : BandKey) (z : ZoneState) (s : State) : State :=
  let r := bandRec s k
  let slot := if z.active then (if r.activeSlot.isSome then r.activeSlot else freeSlot s) else none
  setBand { r with state := z, activeSlot := slot } s

/-- The 32 bytes of a band record (R121, Table 4.6). `reloc` is the start of its relocation list. -/
def bandBytes (r : BandRec) (reloc : Nat) : List Byte :=
  leBytes 4 (r.key.head.val * 2 ^ 27 + r.key.band) ++ leBytes 4 r.wp ++ leBytes 4 r.zcap
    ++ [BitVec.ofNat 8 (r.state.code * 16 + if r.shingled then 2 else 1),
        BitVec.ofNat 8 (b2n (r.lost ≠ []) + 2 * b2n (r.pending ≠ []) + 4 * b2n (r.reloc ≠ []) + 8 * b2n r.excluded)]
    ++ leBytes 2 r.sparesFree ++ leBytes 4 r.frontier ++ leBytes 4 (if r.reloc = [] then 0xFFFFFFFF else reloc)
    ++ leBytes 2 (r.activeSlot.getD 0xFFFF) ++ leBytes 2 r.gen.toNat ++ [BitVec.ofNat 8 r.nsid, 0, 0, 0]

/-- Promotion of a shingled band when it is emptied (R119): pending and slip entries join the slipped set and ZCAP is
recomputed; a band whose ZCAP would fall below 32,768 is retired and its zone goes Offline. -/
def promote (s : State) (r : BandRec) : BandRec :=
  let slips := (r.reloc.filter (fun e => !e.2)).map (·.1)
  let slipped := (r.slipped ++ r.pending ++ slips).eraseDups
  match bandPlace s r.key with
  | none => r
  | some (z, zi, bi) =>
    let d := ((factoryBad s r.key z zi bi) ++ slipped).eraseDups.length
    let cap := zcapOf z d
    let r := { r with slipped := slipped, pending := [], reloc := [], zcap := cap, sparesFree := z.p - d - cap, sparesAtEmpty := z.p - d - cap }
    if cap < 32768 then { r with excluded := true, state := .offline } else r

/-- A band record brought up to the factory defects and the format in force (R117): its capacity and spares follow from the count of its
slipped sectors, each relocation entry having taken a spare. A retired band stays out of use; one that the format has no place for comes
back with a format that has. -/
def recount (s : State) (r : BandRec) : BandRec :=
  match bandPlace s r.key with
  | none => { r with zcap := 0, sparesFree := 0, sparesAtEmpty := 0 }
  | some (z, zi, bi) =>
    let d := ((factoryBad s r.key z zi bi) ++ r.slipped).eraseDups.length
    let cap := zcapOf z d
    let out := r.state = .offline || headRetired s r.key.head
    { r with
      shingled := z.shingled, zcap := cap, sparesAtEmpty := z.p - d - cap, sparesFree := z.p - d - cap - r.reloc.length
      state := if r.nsid ≠ 0 || out then r.state else if z.shingled then .empty else .conventional
      excluded := if z.shingled then r.excluded else out || z.p - d - z.s < 65536 }

/-- The records of the bands that `p` selects recounted. -/
def recountBands (p : BandRec → Bool) (s : State) : State :=
  { s with sub.bands := s.sub.bands.map (fun r => if p r then recount s r else r) }

/-- The bands of a head that an entry of its factory defect list names. -/
def listedBad (s : State) (h : HeadId) : List BandKey :=
  let fmt := formatOf s h
  ((records (valueOf s 0x3110 h.val) 8).filterMap (fun e =>
    let zi := fieldU e 0 1
    (fmt[zi]?).map (fun z => (⟨h, ((fmt.take zi).map ZoneRec.bands).sum + fieldU e 1 3 / max 1 (z.bandTracks + z.guard)⟩ : BandKey)))).eraseDups

/-- A band as it is after a power-on reset that may have ended the retirement of its head (UNRETIRE; spec 13, R406): a conventional one is
excluded by its defects (R117) or a standing retirement, and a free shingled one that only a retirement kept out of use is Empty. -/
def excludedNow (s : State) (r : BandRec) : BandRec :=
  match bandPlace s r.key with
  | none => r
  | some (z, zi, bi) =>
    if z.shingled then
      (if r.nsid = 0 && !r.excluded && !headRetired s r.key.head && !headReadOnly s r.key.head then { r with state := .empty } else r)
    else { r with excluded :=
      r.excluded && (headRetired s r.key.head || z.p - ((factoryBad s r.key z zi bi) ++ r.slipped).eraseDups.length - z.s < 65536) }

/-- Conventional bands of a head that its defects exclude, or that are excluded for another cause (R117): all of those of a retired head
(spec 13, Table 13.2). -/
def excludedOn (s : State) (h : HeadId) : Nat :=
  if headRetired s h then (((formatOf s h).filter (fun z => !z.shingled)).map ZoneRec.bands).sum else
  let named := listedBad s h ++ ((s.sub.bands.filter (fun r => r.key.head = h)).map (·.key)).filter (fun k => !(listedBad s h).contains k)
  named.countP (fun k => k.band < bandsOn s h && !(bandRec s k).shingled && (bandRec s k).excluded)

/-- A band emptied by a reset, a format or a deletion: WP 0, Empty, GEN incremented, FRONTIER 0, promotion (R119, R302; spec
08, R237); a conventional band's written-extent bits are cleared (R125). -/
def emptyBand (k : BandKey) (s : State) : State :=
  let r := bandRec s k
  if r.shingled then
    let r' := promote s { r with wp := 0, awp := 0, state := .empty, activeSlot := none, gen := r.gen + 1, frontier := 0, onMedia := [], lost := [] }
    let s := setBand r' s
    if r'.excluded then faultEvent .bandRetired .immediate none 0 k.band s else s
  else setBand { r with extents := 0, lost := [], onMedia := [] } s

end Sys2Proof.Machine
end

