-- ==== Sys2Proof/Machine/Format.lean ====
section
/-! DEFINITION. The sector as it stands on the media (spec 04, R110 to R114; spec 07, R203): where its bits fall in the windows of a
track, its fields, the scrambler, the LDPC code with its encoder, and the metadata. Bit `i` of a bit string is the `i`-th in time. -/

namespace Sys2Proof.Machine

/-! ## Windows of a track (R110, R111) -/

/-- The channel bits of a sector (R112). -/
def sectorBits : Nat := 37304

/-- The pieces of a sector of a track, in order (R110): the window counted from the track's first, the sector bit it begins with and
its length. At most `fuel` pieces. -/
def piecesFrom (z : ZoneRec) (w : Nat) : Nat → Nat → Nat → List (Nat × Nat × Nat)
  | 0, _, _ => []
  | fuel + 1, first, left =>
    if left = 0 then []
    else
      let (i, place) := trackWindow z w first
      let room := if i + 1 < w then z.wdb - 16 - place else left
      let n := min left (max 1 room)
      (i, first, n) :: piecesFrom z w fuel (first + n) (left - n)

/-- The pieces of physical sector `sec` of a track. -/
def sectorPieces (z : ZoneRec) (w sec : Nat) : List (Nat × Nat × Nat) := piecesFrom z w 8 (sec * sectorBits) sectorBits

/-! ## The LDPC code (R203) -/

/-- The shift of a nonzero information block. -/
def ldpcShift (r c : Nat) : Nat := ((2 * r + 1) * (c + 1) ^ 2 + 5 * r) % 256

/-- Block column `c` of a codeword. -/
def blockColumn (w : BitVec 37120) (c : Nat) : BitVec 256 := w.extractLsb' (256 * c) 256

/-- σ of block row `r`: row `k` of P^s has its 1 in column (k + s) mod 256. -/
def sigmaRow (w : BitVec 37120) (r : Nat) : BitVec 256 :=
  ((List.range 129).filter (fun c => r % 4 = c % 4)).foldl (fun x c => x ^^^ (blockColumn w c).rotateRight (ldpcShift r c)) 0

/-- Block row `r` of the syndrome. -/
def syndromeRow (w : BitVec 37120) (r : Nat) : BitVec 256 :=
  sigmaRow w r ^^^ blockColumn w (129 + r) ^^^ (if r = 0 then 0 else blockColumn w (128 + r))

/-- A word of the code. -/
def isCodeword (w : BitVec 37120) : Bool := (List.range 16).all (fun r => syndromeRow w r = 0)

/-- The parity blocks of a word whose information columns are set: block 0 is σ of row 0, each later one σ of its row with the block
before. -/
def parityFrom (w : BitVec 37120) : Nat → Nat → BitVec 256 → List (BitVec 256)
  | 0, _, _ => []
  | n + 1, r, last => let p := sigmaRow w r ^^^ last; p :: parityFrom w n (r + 1) p

/-- The codeword of 33,024 information bits (R113, R203). -/
def encodeInfo (info : BitVec 33024) : BitVec 37120 :=
  let w := info.zeroExtend 37120
  let parity := (parityFrom w 16 0 0).foldr (fun p a => a * 2 ^ 256 + p.toNat) 0
  w ||| BitVec.ofNat 37120 (parity * 2 ^ 33024)

/-! ## Scrambling (R113) -/

/-- The seed of the scrambler for a block offset. -/
def scrambleSeed (offset : Nat) : BitVec 16 :=
  let x := BitVec.ofNat 16 offset ^^^ 0xACE1
  if x = 0 then 1 else x

/-- One step of the Fibonacci LFSR of taps 16, 14, 13 and 11: the bit out is the one shifted out (log 28). -/
def lfsrStep (x : BitVec 16) : Bool × BitVec 16 :=
  let fb := x.getLsbD 0 ^^ x.getLsbD 2 ^^ x.getLsbD 3 ^^ x.getLsbD 5
  (x.getLsbD 0, (x >>> 1) ||| (if fb then 0x8000 else 0))

/-- A byte with the output of the LFSR added, bit 7 first. -/
def scrambleByte : Nat → Nat → BitVec 16 → Nat × BitVec 16
  | 0, v, x => (v, x)
  | k + 1, v, x =>
    let (b, x) := lfsrStep x
    scrambleByte k (if b then v ^^^ (2 ^ k) else v) x

/-- Bytes scrambled or descrambled: the same sum either way. -/
def scramble : List Byte → BitVec 16 → List Byte
  | [], _ => []
  | b :: r, x => let (v, x) := scrambleByte 8 b.toNat x; BitVec.ofNat 8 v :: scramble r x

/-- A byte with its bits in the other order. -/
def flipByte (b : Nat) : Nat := (List.range 8).foldl (fun v i => 2 * v + b2n (b.testBit i)) 0

/-- The information bits of bytes, bit 7 of each byte first (R113). -/
def infoBits (bs : List Byte) : BitVec 33024 := BitVec.ofNat 33024 (leNat (bs.map (fun b => BitVec.ofNat 8 (flipByte b.toNat))))

/-- The information bytes of a codeword from byte `j` on: codeword bit 8j is bit 7 of byte `j`. -/
def rawBytes (w : BitVec 37120) : Nat → Nat → List Byte
  | 0, _ => []
  | n + 1, j => BitVec.ofNat 8 (flipByte (w.extractLsb' (8 * j) 8).toNat) :: rawBytes w n (j + 1)

/-- The 4,128 information bytes of a codeword at a block offset, descrambled. -/
def infoBytes (w : BitVec 37120) (offset : Nat) : List Byte := scramble (rawBytes w 4128 0) (scrambleSeed offset)

/-! ## Metadata (R114) -/

/-- Metadata bytes 0 to 27 (Table 4.5): HEAD, BAND, OFFSET, GEN and the flags ZERO_FILL and RELOCATED. -/
def metaHead (k : BandKey) (offset gen : Nat) (zeroFill relocated : Bool) : List Byte :=
  leBytes 4 (k.head.val * 2 ^ 27 + k.band % 2 ^ 24) ++ leBytes 4 offset ++ leBytes 2 gen
    ++ leBytes 1 (b2n zeroFill + 2 * b2n relocated) ++ List.replicate 17 0

/-- The 4,128 information bytes of a sector: the user bytes, the metadata and its CRC over both. -/
def sectorInfo (user : Block) (head : List Byte) : List Byte :=
  let body := blockBytes user ++ head
  body ++ leBytes 4 (crc32 body).toNat

/-- The block is remapped to a spare (R118). -/
def isRelocated (r : BandRec) (offset : Nat) : Bool := r.reloc.any (fun e => e.2 && e.1 = offset)

/-- The metadata of a sector as it is written: GEN is zero in a conventional band. -/
def metaOf (s : State) (k : BandKey) (offset : Nat) (zeroFill : Bool) : List Byte :=
  let r := bandRec s k
  metaHead k offset (if r.shingled then r.gen.toNat else 0) zeroFill (isRelocated r offset)

/-- The codeword of a sector (R113): scrambled, then encoded. -/
def sectorCodeword (s : State) (k : BandKey) (offset : Nat) (zeroFill : Bool) (user : Block) : BitVec 37120 :=
  encodeInfo (infoBits (scramble (sectorInfo user (metaOf s k offset zeroFill)) (scrambleSeed offset)))

/-! ## The sector's bits (R112, Table 4.4) -/

/-- SM1 and SM2, written msb first. -/
def sm1Word : BitVec 20 := 0xB4E2D
/-- See `sm1Word`. -/
def sm2Word : BitVec 20 := 0x6C5A3

/-- A 20-bit word in the order of its transmission, msb first. -/
def msbFirst (v : BitVec 20) : Nat := (List.range 20).foldl (fun a i => 2 * a + b2n (v.getLsbD i)) 0

/-- The preamble: 0b1100 repeated 32 times. -/
def preambleBits : Nat := (2 ^ 128 - 1) / 15 * 3
/-- The re-acquisition field of 32 bits and the splice field of 16 (R110, R112): 0b1100 repeated. -/
def reacqBits : BitVec 32 := 0x33333333
/-- See `reacqBits`. -/
def spliceBits : BitVec 16 := 0x3333
/-- The pad: 0b0011 repeated. -/
def padBits : Nat := 0xCCCC

/-- The 37,304 bits of a sector with its codeword (Table 4.4). -/
def sectorStream (w : BitVec 37120) : BitVec 37304 :=
  BitVec.ofNat 37304 (preambleBits + msbFirst sm1Word * 2 ^ 128 + (w.extractLsb' 0 2028).toNat * 2 ^ 148
    + msbFirst sm2Word * 2 ^ 2176 + (w.extractLsb' 2028 35092).toNat * 2 ^ 2196 + padBits * 2 ^ 37288)

/-- What PAn_WD presents in each window that a sector is written in (R110, R112): its piece of the sector, behind the re-acquisition field
where the sector goes on from the window before, and before the splice field where it goes on in the next. Each with its length, the first
bit in time lowest. -/
def writtenWindows (bits : BitVec 37304) (pieces : List (Nat × Nat × Nat)) : List (Nat × Nat) :=
  pieces.zipIdx.map (fun x =>
    let (_, first, len) := x.1
    let lead := if x.2 = 0 then 0 else 32
    let tail := if x.2 + 1 < pieces.length then 16 else 0
    (lead + len + tail, (if x.2 = 0 then 0 else reacqBits.toNat) + (bits.toNat / 2 ^ first % 2 ^ len) * 2 ^ lead
      + (if tail = 0 then 0 else spliceBits.toNat * 2 ^ (lead + len))))

/-- The transitions of a written bit string with their times in 1/32 bit (R232): one that immediately follows a transition one bit
earlier moves by PRECOMP / 32 bit. `first` is the bit before the string. -/
def transitions (bits : BitVec 37304) (precomp : Nat) (first : Bool) : List (Nat × Nat) :=
  let bit (i : Nat) : Bool := if i = 0 then first else bits.getLsbD (i - 1)
  let turn (i : Nat) : Bool := bit i != bit (i + 1)
  ((List.range sectorBits).filter turn).map (fun i => (i, 32 * i + (if 0 < i && turn (i - 1) then precomp else 0)))

end Sys2Proof.Machine
end

