-- ==== Sys2Proof/Machine/Caching.lean ====
section
/-! DEFINITION. The buffer cache (spec 12, R372 to R395): sets, PLRU, lines and their states, limits, the side buffer and
miss registers as plain operations, the cache modes, maintenance; and lost-write marks (spec 11, R343, R344). -/

namespace Sys2Proof.Machine

/-! ## Sets and ways -/

/-- The set of a block (R372). -/
def setOf (b : BlockKey) : Nat := (b.lba + 1609 * b.nsid) % 6400

/-- The lines of a set. -/
def setLines (s : State) (q : Nat) : List Line := s.cache.lines.filter (fun l => setOf l.block = q)

/-- A way of a set can be replaced: INVALID, or CLEAN and not pinned (Table 12.10). -/
def replaceable (ls : List Line) (w : Nat) : Bool :=
  match ls.find? (fun l => l.way.val = w) with
  | none => true
  | some l => l.state = .clean && !l.pinned

/-- The PLRU word of a set (R376). -/
def plruOf (s : State) (q : Nat) : Nat := ((assocGet q s.cache.plru).map BitVec.toNat).getD 0

/-- A bit of a PLRU word set to 0 or 1. -/
def setBit (v i b : Nat) : Nat := if v.testBit i then (if b = 0 then v - 2 ^ i else v) else v + b * 2 ^ i

/-- touch(w) of R376, from a level on. -/
def touchWord (w : Nat) : Nat → Nat → Nat → Nat
  | 0, _, v => v
  | level + 1, node, v =>
    let side := w / 2 ^ level % 2
    touchWord w level (2 * node + 1 + side) (setBit v node (1 - side))

/-- victim() of R376: the way that the tree `v` names among those `ok` allows, from a level on. -/
def victimFrom (ok : Nat → Bool) (v : Nat) : Nat → Nat → Nat → Nat
  | 0, _, w => w
  | level + 1, node, w =>
    let side := b2n (v.testBit node)
    let under (c : Nat) : Bool := (List.range (2 ^ level)).any (fun i => ok (w + c * 2 ^ level + i))
    let side := if under side then side else 1 - side
    victimFrom ok v level (2 * node + 1 + side) (w + side * 2 ^ level)

/-- The victim way of a set; none if no way is replaceable. -/
def victim (s : State) (q : Nat) : Option (Fin 16) :=
  let ls := setLines s q
  if (List.range 16).any (replaceable ls) then some (Fin.ofNat 16 (victimFrom (replaceable ls) (plruOf s q) 4 0 0))
  else none

/-- A way touched (R376): by a read hit, an installation and a commit. -/
def touch (q w : Nat) (s : State) : State :=
  let v := touchWord w 4 0 (plruOf s q)
  { s with cache.plru := if v = 0 then assocDel q s.cache.plru else assocSet q (BitVec.ofNat 16 v) s.cache.plru }

/-! ## Lines -/

/-- Visible to reads (Table 12.10). -/
def LineState.visible : LineState → Bool
  | .clean | .dirty | .shadow => true
  | _ => false

/-- The visible line of a block. -/
def visibleLine (s : State) (b : BlockKey) : Option Line :=
  s.cache.lines.find? (fun l => l.block = b && l.state.visible)

/-- The line in a way of a set. -/
def sameLine (a b : Line) : Bool := setOf a.block = setOf b.block && a.way = b.way

/-- A line that becomes INVALID: gone, or, while pinned, kept in its way for the transfer that reads it (R374). -/
def invalidated (l : Line) : Option Line := if l.pinned then some { l with state := .invalid } else none

/-- Lines that meet a predicate become INVALID. -/
def dropLines (p : Line → Bool) (s : State) : State :=
  { s with cache.lines := s.cache.lines.filterMap (fun l => if p l then invalidated l else some l) }

/-- Lines replaced by their images. -/
def mapLines (f : Line → Line) (s : State) : State := { s with cache.lines := s.cache.lines.map f }

/-- Lines in a state. -/
def countLines (s : State) (t : LineState) : Nat := s.cache.lines.countP (fun l => l.state = t)

/-- DIRTY and HELD lines together (R377). -/
def dirtyCount (s : State) : Nat := s.cache.lines.countP (fun l => l.state = .dirty || l.state = .held)

/-- DIRTY lines. -/
def hasDirty (s : State) : Bool := s.cache.lines.any (fun l => l.state = .dirty)

/-- A new line of a block, in the victim way of its set, whose CLEAN line is replaced; none if the set has no replaceable
way. -/
def allocLine (mk : Fin 16 → Line) (b : BlockKey) (s : State) : Option State :=
  (victim s (setOf b)).map (fun w =>
    let s := dropLines (fun l => setOf l.block = setOf b && l.way = w) s
    { s with cache.lines := s.cache.lines ++ [mk w] })

/-- A line that carries data read from media. -/
def mediaLine (b : BlockKey) (w : Fin 16) (st : LineState) (gen : Word16) (mr : Option Nat) (side : Bool) (d : Block) : Line :=
  ⟨b, w, st, 0, 0xFF, 0, gen, mr, side, false, false, false, 0, d⟩

/-- The 12-way limit (R377): another line that cannot leave fits the set. -/
def fits12 (s : State) (q : Nat) : Bool :=
  (setLines s q).countP (fun l => l.state = .dirty || l.state = .shadow || l.state = .held) < 12

/-- The dirty limit (R377): another DIRTY or HELD line fits; DIRTY_LIMIT is in MiB of 256 lines. -/
def fitsDirty (s : State) : Bool := dirtyCount s < cfg s 0x2300 3 * 256

/-- A HELD line can be allocated for a block (R377). -/
def canHold (s : State) (b : BlockKey) : Bool := fits12 s (setOf b) && fitsDirty s && (victim s (setOf b)).isSome

/-! ## Side buffer -/

/-- READY side-buffer slot of a block. -/
def readySlot (s : State) (b : BlockKey) : Option SideSlot := s.cache.side.find? (fun x => x.block = b && x.ready)

/-- Slots that meet a predicate become FREE. -/
def freeSlots (p : SideSlot → Bool) (s : State) : State := { s with cache.side := s.cache.side.filter (fun x => !p x) }

/-- A slot taken, FILLING, READY slots replaced oldest first beyond 8,192 (R385); none if every slot is FILLING. -/
def takeSlot (b : BlockKey) (transient : Bool) (s : State) : Option State :=
  let x : SideSlot := ⟨b, false, transient, 0⟩
  if s.cache.side.length < 8192 then some { s with cache.side := s.cache.side ++ [x] }
  else match s.cache.side.findIdx? (·.ready) with
    | none => none
    | some i => some { s with cache.side := s.cache.side.eraseIdx i ++ [x] }

/-! ## Host table -/

/-- The host-table index of the Host Identifier in force on a port (R395): 0 and 1 stand for the ports; `none` asks for a
new entry. -/
def hostIndex? (s : State) (p : PortId) : Option Nat :=
  let id := (s.port p).feat.hostId
  if id = 0 then some p.val else (s.sub.hosts.find? (fun e => e.2.1 = id)).map (·.1)

/-- An entry is referred to by a line, an open write, a vaulted line or a pending flag (R395). -/
def hostUsed (s : State) (i : Nat) : Bool :=
  s.cmds.ctxs.any (fun c => c.hostx = i) || s.cache.lines.any (fun l => l.hostx = i) || s.sub.deferred.any (fun d => d.1 = i)
    || s.mule.regions.toList.any (fun r => r.image.any (fun v => v.lines.any (fun l => l.hostx = i)))

/-- HOSTX of a write admitted now on a port, with its entry made if needed; the port's own entry if 2 to 254 are all
referenced (R395). -/
def hostIndex (p : PortId) (s : State) : Nat × State :=
  match hostIndex? s p with
  | some i => (i, s)
  | none =>
    match firstFrom (fun i => !hostUsed s i) 253 2 with
    | none => (p.val, s)
    | some i => (i, { s with sub.hosts := assocSet i ((s.port p).feat.hostId, p) s.sub.hosts })

/-- The host index that a command of a port now has, for the reports of R345. -/
def hostNow (s : State) (p : PortId) : Nat := (hostIndex? s p).getD p.val

/-! ## Lost-write marks -/

/-- The vendor asynchronous event of R301 on each controller of a host that has it enabled (R344); none after a vault trigger (spec 02, R71). -/
def deferredAen (hostx : Nat) (s : State) : State :=
  if cfg s 0x2010 1 = 0 || s.power.vault ≠ .none then s
  else allPorts.foldl (fun s p =>
    if hostx = p.val || hostNow s p = hostx then s.modPort p (postAen ⟨7, 0xC0, 0xC0⟩) else s) s

/-- An entry of the Deferred Write Error log (R346) with its flag, event and pending flag (R344). -/
def logDeferred (nsid lba count cause hostx : Nat) (port : PortId) (s : State) : State :=
  let total := s.sub.deferredTotal + 1
  let e : DeferredEntry := ⟨total, lba, count, nsid, cause, port, powerOn s⟩
  let s := { s with
    sub.deferredTotal := total
    sub.deferredLog := capped 256 (e :: s.sub.deferredLog)
    sub.deferred := if s.sub.deferred.contains (hostx, nsid) then s.sub.deferred else s.sub.deferred ++ [(hostx, nsid)] }
  deferredAen hostx
    (raise (event 0x2003 3 srcController (nsid + cause % 256 * 256) (lba % 2 ^ 48 + satNat 65535 count * 2 ^ 48))
      (setFlag .deferredError s))

/-- Runs of contiguous offsets with the same writing host and port. -/
def lostRuns : List (Nat × Nat × PortId) → List (Nat × Nat × Nat × PortId)
  | [] => []
  | (o, h, p) :: r =>
    match lostRuns r with
    | (o', c, h', p') :: t => if o' = o + 1 ∧ h' = h ∧ p' = p then (o, c + 1, h, p) :: t else (o, 1, h, p) :: (o', c, h', p') :: t
    | [] => [(o, 1, h, p)]

/-- Blocks of a band marked lost-write (R343, R344), each with its writing host and port: the marks, one log entry for each
contiguous run, and a zone becomes Read Only. -/
def markLost (k : BandKey) (cause : Nat) (l : List (Nat × Nat × PortId)) (s : State) : State :=
  if l = [] then s
  else
    let r := bandRec s k
    let offs := l.map (·.1)
    let s := setBand { r with lost := r.lost ++ offs.filter (fun o => !r.lost.contains o) } s
    let s := if r.shingled && r.state ≠ .offline then setZoneState k .readOnly s else s
    let s := { s with
      sub.mediaErrors := s.sub.mediaErrors + l.length
      mule.journalBuf := (lostRuns l).map (fun x => .lostRun k x.1 x.2.1) ++ s.mule.journalBuf }
    let s := (lostRuns l).foldl (fun s x =>
      match blockAt s k x.1 with
      | none => s
      | some b => logDeferred b.nsid b.lba x.2.1 cause x.2.2.1 x.2.2.2 s) s
    noteWarning s

/-- Whether a block is marked lost-write. -/
def isLost (s : State) (b : BlockKey) : Bool :=
  match locateBlock s b with | none => false | some (k, o) => (bandRec s k).lost.contains o

/-- The band of a line. -/
def bandOf (s : State) (l : Line) : Option BandKey := (locateBlock s l.block).map (·.1)

/-- Lines of a band that meet a predicate. -/
def bandLines (s : State) (k : BandKey) (p : Line → Bool) : List Line :=
  s.cache.lines.filter (fun l => p l && bandOf s l = some k)

/-! ## Cache modes -/

/-- A pre-erased vault region is available (spec 02, R78). -/
def vaultReady (s : State) : Bool := !s.mule.broken && s.mule.regions.toList.any (fun r => r.state = .erased)

/-- The two conditions of R78. -/
def writeBackAllowed (s : State) : Bool := s.power.holdupPassed && vaultReady s

/-- HELD lines of writes admitted under WRITE_BACK and not yet committed, replayed ones not yet judged (spec 14, R428) among them. -/
def heldWriteBack (s : State) : Bool :=
  s.cache.lines.any (fun l => l.replayed && l.state = .held) || s.cmds.ctxs.any (fun c => c.writeBack && !c.committed && s.cache.lines.any (fun l => l.state = .held && l.version = c.id))

/-- The end of DRAINING and the entry to OFF (R387, R389): CLEAN lines and READY slots go, SHADOW lines stay. -/
def enterOff (s : State) : State :=
  let fresh := s.cache.regs.countP (fun m => !m.stale)
  let s := { s with cache.regs := s.cache.regs.map (fun m => { m with stale := true }), cache.staleFills := s.cache.staleFills + BitVec.ofNat 32 fresh }
  let s := freeSlots (·.ready) (dropLines (fun l => l.state = .clean) s)
  { s with cache.mode := .off }

/-- DRAINING ends when no DIRTY line and no HELD line of a write admitted under WRITE_BACK remains (R389). -/
def endDraining (s : State) : State :=
  if s.cache.mode = .draining && !hasDirty s && !heldWriteBack s then enterOff s else s

/-- Blocks of DIRTY lines, oldest first. -/
def dirtyBlocks (s : State) : List BlockKey := (s.cache.lines.filter (fun l => l.state = .dirty)).map (·.block)

/-- Blocks put in front of the destage order. -/
def destageFirst (l : List BlockKey) (s : State) : State :=
  { s with cache.urgent := s.cache.urgent ++ l.filter (fun b => !s.cache.urgent.contains b) }

/-- A requested mode (R387): WRITE_THROUGH and OFF act at once; WRITE_BACK waits for the next tick boundary, until then
WRITE_THROUGH unless it is already in force. With the Mule broken the cache is OFF (spec 03, R98). -/
def requestMode (m : CacheMode) (s : State) : State :=
  let s := { s with cache.requested := m }
  match m with
  | .writeBack => if s.cache.mode = .writeBack then s else { s with cache.mode := if s.mule.broken then .off else .writeThrough }
  | .writeThrough => { s with cache.mode := if s.mule.broken then .off else .writeThrough }
  | _ =>
    if hasDirty s || heldWriteBack s then destageFirst (dirtyBlocks s) { s with cache.mode := .draining }
    else if s.cache.mode = .off then s
    else enterOff s

/-- At a tick boundary: a requested WRITE_BACK comes into force once R78 allows, and is left when it no longer does (R89). -/
def modeAtBoundary (s : State) : State :=
  if s.mule.broken then s
  else if s.cache.requested = .writeBack then
    { s with cache.mode := if writeBackAllowed s then .writeBack else .writeThrough }
  else s

/-- The code of a mode (spec 10, Table 10.10). -/
def CacheMode.code : CacheMode → Nat
  | .writeBack => 0 | .writeThrough => 1 | .off => 2 | .draining => 3

/-! ## Maintenance (R391, R392) -/

/-- A range of blocks at its ordering point: its lines become INVALID, its slots FREE, and every miss register that overlaps
it STALE. HELD lines of writes still open, which wait for the operation, stay (log 30). -/
def maintain (nsid lba count : Nat) (s : State) : State :=
  let hit := fun (b : BlockKey) => b.nsid = nsid && lba ≤ b.lba && b.lba < lba + count
  let meets := fun (m : MissReg) => m.nsid = nsid && m.lba < lba + count && lba < m.lba + m.count
  let fresh := s.cache.regs.countP (fun m => meets m && !m.stale)
  let stillOpen := fun (l : Line) => l.state = .held && s.cmds.ctxs.any (fun c => c.id = l.version && !c.committed)
  let s := freeSlots (fun x => hit x.block) (dropLines (fun l => hit l.block && !stillOpen l) s)
  { s with cache.regs := s.cache.regs.map (fun m => if meets m then { m with stale := true } else m),
           cache.staleFills := s.cache.staleFills + BitVec.ofNat 32 fresh,
           cache.urgent := s.cache.urgent.filter (fun b => !hit b) }

/-- The same for the zone or conventional band `k`. -/
def maintainBand (k : BandKey) (s : State) : State :=
  match blockAt s k 0 with
  | none => s
  | some b => maintain b.nsid b.lba 65536 s

/-- A whole namespace: every block of its bands. -/
def maintainNs (n : Namespace) (s : State) : State := maintain n.nsid 0 (n.bands.length * 65536) s

/-- A zone goes Offline: a maintenance operation on its blocks (R391). -/
def offlineZone (k : BandKey) (s : State) : State := setZoneState k .offline (maintainBand k s)

/-- The bands of shingled zones whose SHADOW lines are released to CLEAN up to a band track (spec 08, R238). -/
def releaseShadows (k : BandKey) (below : Nat) (s : State) : State :=
  mapLines (fun l => if l.state = .shadow && bandOf s l = some k && l.track < below then { l with state := .clean } else l) s

end Sys2Proof.Machine
end

