-- ==== Sys2Proof/Machine/Preamp.lean ====
section
/-! DEFINITION. The preamplifier links (spec 08, R241 to R243): the profile of a channel and the serial frames of Table 8.3. -/

namespace Sys2Proof.Machine

/-! ## Preamplifier profile and frames -/

/-- The PA_PROFILE record of a channel (R253). -/
def paProfile (s : State) (n : ChanId) : List Byte := valueOf s 0x5101 n.val
/-- ASSIST_TYPE. -/
def assistType (s : State) (n : ChanId) : Nat := fieldU (paProfile s n) 0 1
/-- A register address of the profile: A_HEAD 2, A_MODE 3, A_WCUR 4, A_WOS 5, A_WOSD 6, A_ASSIST 7, A_MON 8, A_FAULT 9. -/
def paReg (s : State) (n : ChanId) (i : Nat) : Nat := fieldU (paProfile s n) i 1 % 128
/-- A mode value of the profile: MODE_READ 10, MODE_WRITE 12, MODE_IDLE 14, MODE_SLEEP 16. -/
def paMode (s : State) (n : ChanId) (i : Nat) : Nat := fieldU (paProfile s n) i 2
/-- The duration of a serial frame in ns (R241). -/
def frameNs (s : State) (n : ChanId) : Nat := if bitOf (fieldU (paProfile s n) 1 1) 1 then 960 else 480

/-- A serial frame (R241): bit 23 read, bits 22 to 16 the address, bits 15 to 0 the data. The link of a channel that is not
fitted stays idle (spec 02, Table 2.3). -/
def serialFrame (n : ChanId) (read : Bool) (addr data : Nat) (s : State) : State :=
  if !chanFitted s n then s
  else s.modWr n (fun w => { w with serial := w.serial ++ [BitVec.ofNat 24 (b2n read * 2 ^ 23 + addr % 128 * 65536 + data % 65536)] })

/-- A level frame (R242); the first one of a head starts the warm-up (R247). -/
def levelFrame (n : ChanId) (level : Nat) (s : State) : State :=
  (serialFrame n false (paReg s n 7) level s).modWr n (fun w =>
    { w with level := level, levelPending := none, warmFrom := some (w.warmFrom.getD (s.clock.ns + frameNs s n)) })

/-- The level frame that waits is sent. A frame that waits leaves at the first later event of the channel that it must precede; until
then TRIM_LATE may drop it (R243; DESIGN CHOICE, log 41). One sent before the strobe of its servo gap is that gap's level frame. -/
def flushLevel (n : ChanId) (s : State) : State :=
  match (s.wr n).levelPending with
  | none => s
  | some (l, late) => (levelFrame n l s).modWr n (fun w => { w with levelSent := w.levelSent || !late })

/-- A frame of the lowest priority (R243): a level frame that waits goes first. -/
def otherFrame (n : ChanId) (read : Bool) (addr data : Nat) (s : State) : State := serialFrame n read addr data (flushLevel n s)

/-- A mode frame (R242). -/
def modeFrame (n : ChanId) (i : Nat) (s : State) : State := otherFrame n false (paReg s n 3) (paMode s n i) s

/-- A head select frame (R242), after which the writer set and the warm-up are needed again (R247). -/
def selectFrame (n : ChanId) (h : HeadId) (s : State) : State :=
  (otherFrame n false (paReg s n 2) (localIndex h) s).modWr n (fun w =>
    { w with writerSent := false, warmFrom := none, assistReady := assistType s n = 0 && !w.paHold, withdrawAtEnd := false, levelPending := none })

/-- The writer set of a head (R242, Table 8.7). -/
def writerFrames (n : ChanId) (h : HeadId) (s : State) : State :=
  let r := servoVal s 0x5102 h.val
  let s := otherFrame n false (paReg s n 4) (fieldU r 0 2) s
  let s := otherFrame n false (paReg s n 5) (fieldU r 2 2) s
  let s := otherFrame n false (paReg s n 6) (fieldU r 4 2) s
  s.modWr n (fun w => { w with writerSent := true })

end Sys2Proof.Machine
end

