-- ==== Sys2Proof/Machine/Commands.lean ====
section
/-! DEFINITION. Command contexts and completions (spec 11, R322 to R342): contexts, status codes, the completion commit
point, the end of a command without acknowledgement, zone rollback, reservations' access rules. -/

namespace Sys2Proof.Machine

/-! ## Status codes -/

/-- SCT and SC of a status: R97 and R312 for the codes the manual prints, NVMe Base 2.0 for the rest (PRESUMED, log 18). -/
def Status.code : Status → Nat × Nat
  | .success => (0, 0x00) | .invalidOpcode => (0, 0x01) | .invalidField => (0, 0x02) | .internalError => (0, 0x06)
  | .abortRequested => (0, 0x07) | .sqDeletion => (0, 0x08) | .invalidNs => (0, 0x0B) | .cmdSequence => (0, 0x0C)
  | .sanitizeFailed => (0, 0x1C) | .sanitizeInProgress => (0, 0x1D) | .lbaRange => (0, 0x80)
  | .capacityExceeded => (0, 0x81) | .nsNotReady => (0, 0x82) | .reservationConflict => (0, 0x83)
  | .invalidQid => (1, 0x01) | .invalidQueueSize => (1, 0x02) | .abortLimit => (1, 0x03) | .aerLimit => (1, 0x05)
  | .invalidFwSlot => (1, 0x06) | .invalidFwImage => (1, 0x07) | .invalidVector => (1, 0x08)
  | .invalidLogPage => (1, 0x09) | .invalidFormat => (1, 0x0A) | .fwNeedsReset => (1, 0x11)
  | .invalidQueueDeletion => (1, 0x0C) | .notSaveable => (1, 0x0D) | .fwProhibited => (1, 0x13)
  | .nsInsufficient => (1, 0x15) | .nsIdUnavailable => (1, 0x16) | .nsAttached => (1, 0x18) | .nsNotAttached => (1, 0x1A)
  | .ctrlListInvalid => (1, 0x1C) | .zoneBoundary => (1, 0xB8) | .zoneFull => (1, 0xB9) | .zoneReadOnly => (1, 0xBA)
  | .zoneOffline => (1, 0xBB) | .zoneInvalidWrite => (1, 0xBC) | .tooManyActive => (1, 0xBD) | .tooManyOpen => (1, 0xBE)
  | .zoneTransition => (1, 0xBF) | .writeFault => (2, 0x80) | .unrecoveredRead => (2, 0x81)
  | .cqInvalid => (1, 0x00)
  | .deferredWrite => (0, 0xC0) | .writeInhibited => (0, 0xC1) | .dictAbort => (0, 0xC4) | .stagingOther => (0, 0xC8)

/-- SCT times 256 plus SC. -/
def Status.word (st : Status) : Nat := st.code.1 * 256 + st.code.2

/-- The opcode of an I/O operation (spec 10, R295). -/
def ioOpcode : IoOp → Nat
  | .flush => 0x00 | .write => 0x01 | .read => 0x02 | .writeZeroes => 0x08 | .resRegister => 0x0D | .resReport => 0x0E
  | .resAcquire => 0x11 | .resRelease => 0x15
  | .zoneClose | .zoneFinish | .zoneOpen | .zoneReset | .zoneOffline | .setZoneDescExt => 0x79
  | .reportZones | .extReportZones => 0x7A | .zoneAppend => 0x7D
  | .unsupported o => o.toNat

/-- The CMD_REFUSED event (spec 17, Table 17.4) of a command of port `p`. -/
def cmdRefused (p : PortId) (opcode io nsid cdw10 : Nat) (st : Status) (s : State) : State :=
  raise (event 0x1001 1 p.val (opcode + io * 256 + st.word * 65536) (nsid % 2 ^ 32 + cdw10 % 2 ^ 32 * 2 ^ 32)) s

/-! ## Contexts -/

/-- The context of an admission number. -/
def ctxOf (s : State) (id : Nat) : Option Ctx := s.cmds.ctxs.find? (fun c => c.id = id)

/-- A context replaced by its image. -/
def modCtx (id : Nat) (f : Ctx → Ctx) (s : State) : State :=
  { s with cmds.ctxs := s.cmds.ctxs.map (fun c => if c.id = id then f c else c) }

/-- Contexts released. -/
def dropCtx (id : Nat) (s : State) : State := { s with cmds.ctxs := s.cmds.ctxs.filter (fun c => c.id ≠ id) }

/-- Write, Write Zeroes and Zone Append. -/
def ioWrites : IoOp → Bool
  | .write | .writeZeroes | .zoneAppend => true
  | _ => false

/-- Zone Management Send actions. -/
def ioZoneSend : IoOp → Bool
  | .zoneClose | .zoneFinish | .zoneOpen | .zoneReset | .zoneOffline => true
  | _ => false

/-- The namespace of a context. -/
def Ctx.ns (c : Ctx) : Nat := c.entry.nsid.toNat
/-- The block range of a context: its first block (the assigned one of a Zone Append) and its length. -/
def Ctx.range (c : Ctx) : Nat × Nat := (c.start, c.entry.nlb)
/-- The block at an index of a context. -/
def Ctx.block (c : Ctx) (i : Nat) : BlockKey := ⟨c.ns, c.start + i⟩

/-- Two contexts touch a block in common. -/
def Ctx.overlaps (a b : Ctx) : Bool :=
  a.ns = b.ns && a.start < b.start + b.entry.nlb && b.start < a.start + a.entry.nlb

/-- A context writes blocks and has not committed. -/
def Ctx.openWrite (c : Ctx) : Bool := ioWrites c.entry.op && !c.committed
/-- A context reads blocks and has not committed. -/
def Ctx.openRead (c : Ctx) : Bool := c.entry.op = IoOp.read && !c.committed

/-- An earlier-admitted write that overlaps and has not ended (R327: a read waits for it, a write commits after it). -/
def earlierWrite (s : State) (c : Ctx) : Bool := s.cmds.ctxs.any (fun x => x.id < c.id && x.openWrite && x.overlaps c)

/-- A read still has to take a block that another context touches: `waiting` lists the indices of its blocks to come. -/
def Ctx.stillReads (x c : Ctx) : Bool :=
  x.openRead && x.overlaps c &&
    (!x.started || x.waiting.any (fun i => c.start ≤ x.start + i && x.start + i < c.start + c.entry.nlb))

/-- An earlier-admitted read that overlaps and has not taken the overlapping sectors' data (R327). -/
def earlierRead (s : State) (c : Ctx) : Bool := s.cmds.ctxs.any (fun x => x.id < c.id && x.ns = c.ns && x.stillReads c)

/-- The band of a context's first block. -/
def ctxBand (s : State) (c : Ctx) : Option BandKey := (locateBlock s (c.block 0)).map (·.1)

/-- The writes of a shingled zone in admission order, committed or not. -/
def zoneWrites (s : State) (k : BandKey) : List Ctx :=
  s.cmds.ctxs.filter (fun c => ioWrites c.entry.op && ctxBand s c = some k)

/-- A context touches zone `k`: reads, writes and actions on it. -/
def ctxTouches (s : State) (c : Ctx) (k : BandKey) : Bool :=
  match blockAt s k 0 with
  | none => false
  | some b =>
    c.ns = b.nsid &&
      (if ioZoneSend c.entry.op then c.entry.selectAll || c.start / 65536 = b.lba / 65536
       else (ioWrites c.entry.op || c.entry.op = IoOp.read) && c.start < b.lba + 65536 && b.lba < c.start + c.entry.nlb)

/-- Every command admitted before `id` that touches zone `k` has committed or ended (R332). -/
def zoneQuiet (s : State) (id : Nat) (k : BandKey) : Bool :=
  s.cmds.ctxs.all (fun c => c.id ≥ id || c.committed || !ctxTouches s c k)

/-- An action on a zone admitted before the command and still open: later commands wait for it (R332). -/
def zoneActionBefore (s : State) (c : Ctx) : Bool :=
  s.cmds.ctxs.any (fun x => x.id < c.id && ioZoneSend x.entry.op && !x.committed && x.ns = c.ns &&
    (x.entry.selectAll || (c.start / 65536 ≤ x.start / 65536 && x.start / 65536 ≤ (c.start + c.entry.nlb - 1) / 65536)))

/-! ## Completion -/

/-- The Aborts that wait for the commit of an admin command (R338). -/
def adminAborts (c : Completion) (q : Port) : List (Word16 × Word16) := if c.sqid = 0 then q.abortAdmin.filter (fun x => x.1 = c.cid) else []

/-- A completion appended to those committed and not yet posted, and an Error Information entry for an error; an Unrecovered Read Error
reported counts among the media errors (R298). The Aborts that waited for an admin command follow it
(R338). None once a vault has been triggered (spec 02, R71, R73). -/
def commitCompletion (p : PortId) (c : Completion) (s : State) : State :=
  if s.power.vault ≠ .none then s
  else
    let s := if c.status = .unrecoveredRead then { s with sub.mediaErrors := s.sub.mediaErrors + 1 } else s
    s.modPort p (fun q => noteError c.sqid c.cid c.status { q with
      committed := q.committed ++ [c] ++ (adminAborts c q).map (fun x => { plainCompletion x.2 .success with dw0 := 1 })
      abortAdmin := q.abortAdmin.filter (fun x => !(adminAborts c q).contains x) })

/-- The completion of a command of a submission queue. -/
def completionOf (c : Ctx) (st : Status) (dnr : Bool) (crd : Nat) (dw0 dw1 : Nat) : Completion :=
  ⟨c.sqid, c.cqid, c.entry.cid, st, dnr, crd, BitVec.ofNat 32 dw0, BitVec.ofNat 32 dw1, c.result⟩

/-- What SMART counts of a command that completes with success (R298): host reads and writes and their blocks. -/
def countHost (c : Ctx) (st : Status) (s : State) : State :=
  if st ≠ .success then s
  else if c.entry.op = IoOp.read then
    { s with sub.hostReads := s.sub.hostReads + 1, sub.blocksRead := s.sub.blocksRead + c.entry.nlb }
  else if ioWrites c.entry.op then
    { s with sub.hostWrites := s.sub.hostWrites + 1, sub.blocksWritten := s.sub.blocksWritten + c.entry.nlb }
  else s

/-- The Aborts of a port that wait for the commit of context `id` complete, reporting it not aborted (R338). -/
def releaseAborts (p : PortId) (id : Nat) (s : State) : State :=
  if s.power.vault ≠ .none then s
  else s.modPort p (fun q => { q with
    committed := q.committed ++ (q.abortWait.filter (fun x => x.1 = id)).map (fun x => { plainCompletion x.2 .success with dw0 := 1 })
    abortWait := q.abortWait.filter (fun x => x.1 ≠ id) })

/-- The completion commit point of a context (R337): its status and completion dwords. A write that finishes after a reset of
its port gets no completion (Table 11.4); after a vault trigger none is committed (spec 02, R71, R73). -/
def commitCtx (id : Nat) (st : Status) (dw0 dw1 : Nat) (s : State) : State :=
  match ctxOf s id with
  | none => s
  | some c =>
    if c.committed || s.power.vault ≠ .none then s
    else if c.silent then dropCtx id s
    else
      releaseAborts c.port id (countHost c st (commitCompletion c.port (completionOf c st false 0 dw0 dw1)
        (modCtx id (fun c => { c with committed := true, status := st }) s)))

/-- An admin command's completion: dword 0 and data. -/
def adminDone (a : AdminHdr) (st : Status) (dw0 : Nat) (d : CplData) (s : State) : State :=
  commitCompletion a.port { plainCompletion a.cid st with dw0 := BitVec.ofNat 32 dw0, data := d } s

/-- An admin command refused: its status, and the CMD_REFUSED event. -/
def adminRefused (a : AdminHdr) (opcode nsid cdw10 : Nat) (st : Status) (s : State) : State :=
  adminDone a st 0 .none (cmdRefused a.port opcode 0 nsid cdw10 st s)

/-- Admin commands of a port that hold one of its 32 contexts (R323): those whose completion waits, or is
committed and not yet posted. -/
def adminHeld (s : State) (p : PortId) : Nat :=
  let q := s.port p
  q.aers.length + q.deleting.length + q.abortWait.length + q.abortDone.length + q.abortAdmin.length + q.committed.countP (·.sqid = 0) + b2n (s.fw.asker.any (fun a => a.port = p))
    + b2n (match s.dict.waiter with | some (.command a) => a.port = p | _ => false)

/-- An admin command reaches a controller that is enabled, ready and has a context free; otherwise nothing is fetched (log 3). -/
def adminOpen (s : State) (a : AdminHdr) : Bool :=
  s.live && (s.port a.port).rdy && (s.port a.port).shst = 0 && !s.cmds.fetchStopped && adminHeld s a.port < 32

/-- The effect of an admin command that the resident firmware executes; in RECOVERY every command but the subset of spec 03,
R83 is refused with Invalid Command Opcode. -/
def adminExec (a : AdminHdr) (inRecovery : Bool) (f : State → State) (s : State) : State :=
  if !adminOpen s a then s
  else if s.power.phase = .recovery && !inRecovery then adminDone a .invalidOpcode 0 .none s
  else f s

/-! ## Ends without acknowledgement (R331, R338, R341) -/

/-- The line that a sector in a write FIFO was read from (spec 12, R375). -/
def FifoSector.readFrom (s : State) (k : BandKey) (f : FifoSector) (l : Line) : Bool :=
  !f.zeroFill && l.version = f.version && blockAt s k f.offset = some l.block && l.state ≠ .filling

/-- A write run has a sector of a line in its FIFO: its transfer pins the line. -/
def pinnedNow (s : State) (l : Line) : Bool :=
  allChans.any (fun n => match (s.wr n).run with
    | none => false
    | some r => (s.wr n).fifo.any (fun f => f.readFrom s r.op.band l))

/-- The pins brought up to date after a change of a write FIFO: an INVALID line is reclaimed at its unpin (spec 12, R374, R375). -/
def settlePins (s : State) : State :=
  { s with cache.lines := s.cache.lines.filterMap (fun l =>
      if pinnedNow s l then some { l with pinned := true }
      else if l.state = .invalid then none else some { l with pinned := false }) }

/-- The write run of channel `n` ends, if it is one of those withdrawn and has no sector in progress: the preamplifier goes to its idle mode
(spec 08, Table 8.3). A sector in progress ends, and its run with it. -/
def withdrawRun (p : MediaOp → Bool) (n : ChanId) (s : State) : State :=
  if (s.wr n).run.any (fun r => p r.op) && !(s.wr n).request then
    modeFrame n 14 (settlePins (s.modWr n (fun w => { w with run := none, fixed := none, fifo := [], armed := false })))
  else s

/-- Media operations withdrawn from the bins and from their actuators (R338). -/
def withdrawOps (p : MediaOp → Bool) (s : State) : State :=
  allChans.foldl (fun s n => withdrawRun p n s)
    { s with sched.queue := s.sched.queue.filter (fun o => !p o),
             sched.placed := s.sched.placed.map (fun o => if o.any p then none else o) }

/-- The operations of a host write. -/
def opOfCtx (id : Nat) (o : MediaOp) : Bool := o.kind = .hostWrite id

/-- A write has a sector on media, or one that is being written: to stop that one would leave neither the old sector nor the new (DESIGN
CHOICE, log 45: the rules speak of a sector on media only). -/
def Ctx.reachesMedia (s : State) (c : Ctx) : Bool :=
  c.onMedia || allChans.any (fun n => (s.wr n).request && (s.wr n).run.any (fun r => opOfCtx c.id r.op))

/-- A context's HELD lines return to INVALID and its operations and pauses are withdrawn (spec 12, R374). -/
def releaseWrite (id : Nat) (s : State) : State :=
  let s := withdrawOps (opOfCtx id) (dropLines (fun l => l.state = .held && l.version = id) s)
  { s with cache.pauses := s.cache.pauses.filter (fun p => p.ctx ≠ id) }

/-- The zone-state part of R331 after the write `id` of zone `k` has ended without acknowledgement: every later write of the
zone that has not committed and has no sector on media completes with Zone Invalid Write; the admitted write pointer returns
to the end of the latest write that still stands, or to WP; WP covers what the ended write put on media, and becomes the first block of a
later write with a sector on media. -/
def rollback (id : Nat) (k : BandKey) (onMediaEnd : Nat) (port : PortId) (s : State) : State :=
  let later := (zoneWrites s k).filter (fun c => id < c.id && !c.committed && !c.reachesMedia s)
  let s := later.foldl (fun s c => commitCtx c.id .zoneInvalidWrite 0 0 (releaseWrite c.id s)) s
  let r := bandRec s k
  let kept := (zoneWrites s k).find? (fun c => id < c.id && !c.committed && c.reachesMedia s)
  let wp := max (max r.wp onMediaEnd) (kept.elim 0 (fun c => c.start % 65536))
  let stands := (zoneWrites s k).filter (fun c => c.id ≠ id && (c.status = .success))
  let awp := match stands.getLast? with
    | none => wp
    | some c => max wp (c.start % 65536 + c.entry.nlb)
  let s := setBand { r with wp := wp, awp := awp } s
  match blockAt s k 0 with
  | none => s
  | some b => raise (event 0x2002 2 port.val b.nsid (b.lba / 65536 + awp * 2 ^ 32)) s

/-- The blocks that a write put on media are the latest version of theirs (spec 13, R407): a line that shows an older one goes. -/
def dropOlder (c : Ctx) (s : State) : State :=
  if c.onMediaBlocks = [] then s
  else dropLines (fun l => l.state.visible && l.block.nsid = c.ns && c.start ≤ l.block.lba && c.onMediaBlocks.contains (l.block.lba - c.start)) s

/-- The end of a write without acknowledgement: its held data is released unseen, what it put on media stands (spec 13, R407), and its zone
follows R331. -/
def endWrite (c : Ctx) (s : State) : State :=
  let s := dropOlder c (releaseWrite c.id s)
  match ctxBand s c with
  | none => s
  | some k =>
    if (bandRec s k).shingled then
      let top := c.onMediaBlocks.foldl (fun m i => max m (c.start % 65536 + i + 1)) 0
      rollback c.id k top c.port s
    else s

/-- A read stopped: it is no longer served by the registers and ladders it waited for. -/
def endRead (c : Ctx) (s : State) : State :=
  { s with cache.regs := s.cache.regs.map (fun m => { m with merged := m.merged.filter (· ≠ c.id) }) }

/-- A command ended without acknowledgement, with its completion status. After a vault trigger nothing ends: the data received stands for
the vault (spec 02, R73). -/
def endUnacked (c : Ctx) (st : Status) (s : State) : State :=
  if s.power.vault ≠ .none then s
  else
  let s := modCtx c.id (fun c => { c with status := st }) s
  commitCtx c.id st 0 0 (if ioWrites c.entry.op then endWrite c s else endRead c s)

/-- A command discarded without a completion (R341). -/
def discardCtx (c : Ctx) (s : State) : State :=
  let s := modCtx c.id (fun c => { c with status := .abortRequested }) s
  dropCtx c.id (if ioWrites c.entry.op then endWrite c s else endRead c s)

/-- A write with a sector on media runs to its end (R338, R341). -/
def Ctx.unabortable (s : State) (c : Ctx) : Bool := ioWrites c.entry.op && c.reachesMedia s

/-! ## Reservations (R308) -/

/-- Two controllers whose Host Identifier is equal belong to one host (R308). -/
def sameHost (a : BitVec 128 × PortId) (b : BitVec 128 × PortId) : Bool := a.1 = b.1

/-- The host of a port. -/
def hostOf (s : State) (p : PortId) : BitVec 128 × PortId := ((s.port p).feat.hostId, p)

/-- A host is a registrant. -/
def registered (r : Reservation) (h : BitVec 128 × PortId) : Bool := r.registrants.any (fun x => sameHost (x.1, x.2.1) h)

/-- A host holds the reservation: the holder, or every registrant of types 5 and 6. -/
def holds (r : Reservation) (h : BitVec 128 × PortId) : Bool :=
  match r.holder with
  | none => false
  | some (id, t) => if 5 ≤ t then registered r h else registered r h && (id = h.1)

/-- A reservation denies a command (R308; the groups of types are those of NVMe Base 2.0, PRESUMED, log 18): types 1, 3
and 5 deny writes, types 2, 4 and 6 reads too; 1 and 2 admit the holder only, the others every registrant. -/
def reservationDenies (r : Reservation) (h : BitVec 128 × PortId) (writes reads : Bool) : Bool :=
  match r.holder with
  | none => false
  | some (_, t) =>
    let ok := if t ≤ 2 then holds r h else registered r h
    !ok && (writes || (reads && t % 2 = 0))

end Sys2Proof.Machine
end

