-- ==== Sys2Proof/Machine/Transfers.lean ====
section
/-! DEFINITION. Host data in the buffer: filing of media operations (spec 11, R326, R333), receipt of write data into HELD
lines and the pauses of spec 12, R377, the conditions of a write's commit point and its installation (spec 11, R327 to
R330; spec 12, R374, R390). -/

namespace Sys2Proof.Machine

/-! ## Filing -/

/-- The written-extent bit of an offset (spec 04, R125). -/
def extentSet (r : BandRec) (o : Nat) : Bool := r.extents.getLsbD (o / 16)

/-- A range of a conventional band widened to whole extents where an end extent's bit is clear (R125). -/
def widen (r : BandRec) (off cnt : Nat) : Nat × Nat :=
  if r.shingled || cnt = 0 then (off, cnt)
  else
    let last := off + cnt - 1
    let a := if extentSet r off then off else off / 16 * 16
    let e := if extentSet r last then last + 1 else (last / 16 + 1) * 16
    (a, e - a)

/-- A media operation filed. A media write of an extent whose bit is clear covers the whole extent (R125). -/
def fileOp (kind : OpKind) (k : BandKey) (off cnt created : Nat) (s : State) : State :=
  let (a, c) := match kind with
    | .destage | .hostWrite _ => widen (bandRec s k) off cnt
    | _ => (off, cnt)
  if c = 0 then s
  else { s with sched.queue := s.sched.queue ++ [⟨s.sched.nextOp, kind, k, a, c, created⟩], sched.nextOp := s.sched.nextOp + 1 }

/-- One media operation for each band that a range of blocks touches (R326). -/
def fileSpans (kind : OpKind) (nsid lba count created : Nat) (s : State) : State :=
  match findNs s nsid with
  | none => s
  | some n => (spanBands n lba count).foldl (fun s x => fileOp kind x.1 x.2.1 x.2.2 created s) s

/-- An operation of the controller itself, which takes one of the 2,048 internal contexts (R323, R335). -/
def MediaOp.internal (o : MediaOp) : Bool :=
  match o.kind with | .destage | .calibration _ | .verify | .repair => true | .demandRead _ | .hostWrite _ => false

/-- The internal operations that are placed. -/
def placedInternal (s : State) : Nat := s.sched.placed.toList.countP (fun o => o.any MediaOp.internal)

/-- The internal contexts in use (R323). -/
def internalHeld (s : State) : Nat := min 2048 (s.sched.queue.countP MediaOp.internal + placedInternal s)

/-- An operation is filed: a host's, or an internal one that has a context. While all 2,048 are in use the later ones wait for one, in the
order in which they were made. -/
def isFiled (s : State) (o : MediaOp) : Bool :=
  !o.internal || s.sched.queue.countP (fun x => x.internal && x.id < o.id) + placedInternal s < 2048

/-- The operations filed on a channel and not placed (QUEUED). -/
def queuedOn (s : State) (n : ChanId) : List MediaOp := s.sched.queue.filter (fun o => chanOf o.band.head = n && isFiled s o)

/-- The rest of an operation from its sector `i` on. -/
def MediaOp.rest (o : MediaOp) (i : Nat) : MediaOp := { o with offset := o.offset + i, count := o.count - i }

/-- An operation put back in its bin with its age unchanged (R334); an operation with nothing left is gone. -/
def refile (o : MediaOp) (s : State) : State :=
  if o.count = 0 then s else { s with sched.queue := o :: s.sched.queue }

/-- Channel `n` has no operation. -/
def unplace (n : ChanId) (s : State) : State := { s with sched.placed := s.sched.placed.set n none }

/-- The age of an operation has reached AGE_LIMIT (R333). -/
def isAged (s : State) (o : MediaOp) : Bool := passed s o.created (cfg s 0x2100 1 * 1000000)

/-! ## Receipt of write data (spec 12, R374, R377) -/

/-- A replayed DIRTY line is visible for a block: its supersede record must be programmed first (spec 14, R429). -/
def replayedDirty (s : State) (b : BlockKey) : Bool := (visibleLine s b).any (fun l => l.state = .dirty && l.replayed)

/-- A supersede record of a block enters the page buffer of the journal (R429). -/
def wantSupersede (b : BlockKey) (id : Nat) (s : State) : State :=
  if replayedDirty s b && !s.mule.superseded.contains b && !s.mule.superWait.any (fun x => x.1 = b) then
    { s with mule.superWait := s.mule.superWait ++ [(b, id)], mule.journalBuf := .supersede b :: s.mule.journalBuf }
  else s

/-- The oldest DIRTY line of a set, or of the cache when the dirty limit is the cause, is destaged with priority (R377). -/
def pauseDestage (q : Nat) (s : State) : State :=
  match s.cache.lines.find? (fun l => l.state = .dirty && (!fitsDirty s || setOf l.block = q)) with
  | none => s
  | some l => destageFirst [l.block] s

/-- A write pauses before the block of set `q` (R377). -/
def pauseWrite (id q : Nat) (rest : List Block) (s : State) : State :=
  let twelve := !fits12 s q
  let s := { modCtx id (fun c => { c with data := rest }) s with
    cache.pauses := s.cache.pauses ++ [⟨q, id, twelve, false⟩], cache.allocWaits := s.cache.allocWaits + 1 }
  pauseDestage q s

/-- The new HELD line of a context's block. -/
def heldLine (s : State) (c : Ctx) (b : BlockKey) (d : Block) (w : Fin 16) : Line :=
  { mediaLine b w .held ((locateBlock s b).elim 0 (fun x => (bandRec s x.1).gen)) none false d with
    version := c.id, hostx := c.hostx, port := c.port }

/-- The blocks of a write received into HELD lines, as far as the limits allow. -/
def receiveFrom (id : Nat) : List Block → State → State
  | [], s => modCtx id (fun c => { c with data := [], dataDone := true }) s
  | d :: r, s =>
    match ctxOf s id with
    | none => s
    | some c =>
      let b := c.block (c.entry.nlb - (r.length + 1))
      if canHold s b then
        match allocLine (heldLine s c b d) b s with
        | some s' => receiveFrom id r (wantSupersede b id s')
        | none => pauseWrite id (setOf b) (d :: r) s
      else pauseWrite id (setOf b) (d :: r) s

/-- A write whose data is complete and that is not to be acknowledged from the cache goes to media (spec 11, R328). -/
def toMedia (id : Nat) (s : State) : State :=
  match ctxOf s id with
  | none => s
  | some c =>
    if c.dataDone && !c.writeBack && !c.media then
      fileSpans (.hostWrite id) c.ns c.start c.entry.nlb c.admittedNs (modCtx id (fun c => { c with media := true }) s)
    else s

/-- Write data received, and the media operations of a write that needs them. -/
def receiveData (id : Nat) (data : List Block) (s : State) : State := toMedia id (receiveFrom id data s)

/-- The next block a paused write needs. -/
def nextBlock (c : Ctx) : BlockKey := c.block (c.entry.nlb - c.data.length)

/-- A paused write goes on if its next block can be held now; else its pause stands, and the oldest DIRTY line that it waits for is
destaged (R377). -/
def servePause (id : Nat) (s : State) : State :=
  match ctxOf s id with
  | none => { s with cache.pauses := s.cache.pauses.filter (fun p => p.ctx ≠ id) }
  | some c =>
    if canHold s (nextBlock c) then
      receiveData id c.data { s with cache.pauses := s.cache.pauses.filter (fun p => p.ctx ≠ id) }
    else pauseDestage (setOf (nextBlock c)) s

/-- The set's oldest SHADOW line is released early for a pause that has waited ALLOC_WAIT, once the set holds no DIRTY line (R377). -/
def releaseEarly (p : Pause) (s : State) : State :=
  if !p.expired || (setLines s p.set).any (fun l => l.state = .dirty) then s
  else match (setLines s p.set).find? (fun l => l.state = .shadow) with
    | none => s
    | some x =>
      { mapLines (fun l => if sameLine l x then { l with state := .clean } else l) s with
        cache.shadowEarly := s.cache.shadowEarly + 1
        cache.pauses := s.cache.pauses.map (fun y => if y = p then { y with expired := false } else y) }

/-- Every pause served that can be, in admission order (R377). -/
def servePauses (s : State) : State :=
  let s := s.cache.pauses.foldl (fun s p => releaseEarly p s) s
  ((s.cache.pauses.map (·.ctx)).mergeSort (· ≤ ·)).foldl (fun s id => servePause id s) s

/-! ## The commit point of a write -/

/-- The earlier writes of the same zone have committed (R330). -/
def zoneOrder (s : State) (c : Ctx) : Bool :=
  match ctxBand s c with
  | none => true
  | some k => !(bandRec s k).shingled || (zoneWrites s k).all (fun x => c.id ≤ x.id || x.committed)

/-- A band of the context is held for a metadata rebuild (spec 13, R401). -/
def bandHeld (s : State) (c : Ctx) : Bool :=
  match findNs s c.ns with
  | none => false
  | some n => (spanBands n c.start c.entry.nlb).any (fun x => (bandRec s x.1).held)

/-- R327, R330, R332 and R429 let a write commit. -/
def mayInstall (s : State) (c : Ctx) : Bool :=
  !earlierWrite s c && !earlierRead s c && !zoneActionBefore s c && zoneOrder s c && !bandHeld s c &&
    (List.range c.entry.nlb).all (fun i => !replayedDirty s (c.block i) || s.mule.superseded.contains (c.block i))

/-- Every sector of a write is on media. -/
def allOnMedia (c : Ctx) : Bool := (List.range c.entry.nlb).all (fun i => c.onMediaBlocks.contains i)

/-- A write has reached its completion commit point (R337). -/
def writeReady (s : State) (c : Ctx) : Bool :=
  c.dataDone && (c.writeBack || allOnMedia c) && mayInstall s c

/-- The state in which a HELD line of a write becomes visible, and the band track it lies on (R328, R238). -/
def installState (s : State) (c : Ctx) (b : BlockKey) : LineState × Nat :=
  if c.writeBack then (.dirty, 0)
  else match locateBlock s b with
    | none => (.clean, 0)
    | some (k, o) =>
      let r := bandRec s k
      let t := trackIn s k o
      if r.shingled && r.frontier ≤ t + 1 then (.shadow, t) else (.clean, 0)

/-- The HELD lines of a write become visible in one step, and the lines they replace INVALID (R374). In OFF a line that
would be CLEAN does not stay: every earlier overlapping read has taken its data by then (R328, R390). -/
def installLines (c : Ctx) (s : State) : State :=
  let mine := fun (l : Line) => l.state = .held && l.version = c.id
  let blocks := (s.cache.lines.filter mine).map (·.block)
  let covered := fun (b : BlockKey) => b.nsid = c.ns && c.start ≤ b.lba && b.lba < c.start + c.entry.nlb
  let s := dropLines (fun l => l.state.visible && covered l.block) s
  let held := s
  let s := mapLines (fun l =>
    if mine l then { l with state := (installState held c l.block).1, track := (installState held c l.block).2 } else l) s
  let s := if s.cache.mode = .off then dropLines (fun l => l.version = c.id && l.state = .clean && covered l.block) s else s
  blocks.foldl (fun s b => match visibleLine s b with | none => s | some l => touch (setOf b) l.way.val s) s

/-- The write pointer of a zone after a commit of the write of context `c` on band `k` (R330); a zone whose pointer reaches
ZCAP is Full (spec 10, R304). -/
def advanceWp (c : Ctx) (k : BandKey) (s : State) : State :=
  let r := bandRec s k
  if !r.shingled then s
  else
    let wp := max r.wp (c.start % 65536 + c.entry.nlb)
    let s := setBand { r with wp := wp, awp := max r.awp wp } s
    if r.zcap ≤ wp && r.state.active then setZoneState k .full s else s

/-- The lost-write marks of a conventional band that a write clears at its commit (R343). -/
def clearMarks (c : Ctx) (s : State) : State :=
  match findNs s c.ns with
  | none => s
  | some n => (spanBands n c.start c.entry.nlb).foldl (fun s x =>
      let r := bandRec s x.1
      if r.shingled || r.lost = [] then s
      else setBand { r with lost := r.lost.filter (fun o => !(x.2.1 ≤ o && o < x.2.1 + x.2.2)) } s) s

/-- A write takes effect at its commit point: lines, write pointer, marks, and the destage of its DIRTY lines, with priority while
DRAINING (spec 12, R389). -/
def installWrite (c : Ctx) (s : State) : State :=
  let s := clearMarks c (installLines c s)
  let s := match ctxBand s c with | none => s | some k => advanceWp c k s
  if !c.writeBack then s
  else
    let s := fileSpans .destage c.ns c.start c.entry.nlb s.clock.ns s
    if s.cache.mode = .draining then destageFirst ((List.range c.entry.nlb).map c.block) s else s

end Sys2Proof.Machine
end

