-- ==== Sys2Proof/Machine/Writing.lean ====
section
/-! DEFINITION. The write path (spec 08): preamplifier frames, the energy assist, write runs and their sectors, aborts,
slips and remaps (spec 04, R118), the shingle frontier, excursions and repairs. -/

namespace Sys2Proof.Machine

/-! ## Energy assist -/

/-- A HEAD_ASSIST record in use (R255). -/
def assistRec (s : State) (h : HeadId) : List Byte := servoVal s 0x5103 h.val
/-- S. -/
def setpoint (s : State) (h : HeadId) : Nat := fieldU (assistRec s h) 0 2
/-- CAP_LEVEL (R245). -/
def capLevel (s : State) (h : HeadId) : Nat := fieldU (assistRec s h) 2 2 * s.env.assistCap / 100
/-- TM (R245). -/
def trimRange (s : State) (h : HeadId) : Nat := setpoint s h * fieldU (assistRec s h) 10 1 / 100

/-- term(): (RAW times x plus half) shifted right by SHIFT, arithmetic (spec 06, R156). -/
def term (raw : Int) (shift : Nat) (x : Int) : Int :=
  if shift = 0 then raw * x else (raw * x + 2 ^ (shift - 1)) / 2 ^ shift

/-- TRIM_ENABLE in use. -/
def trimEnabled (s : State) : Bool := servoCfg s 0x5100 5 ≠ 0

/-- A level and trim under the cap (R246): the level, the trim and whether the cap clamped it. With TRIM_ENABLE 0 the trim stays 0. -/
def capped246 (s : State) (h : HeadId) (trim : Int) : Int × Int × Bool :=
  let trim := if trimEnabled s then trim else 0
  if (capLevel s h : Int) < setpoint s h + trim then
    (capLevel s h, if trimEnabled s then (capLevel s h : Int) - setpoint s h else 0, true)
  else (setpoint s h + trim, trim, false)

/-- The level that a trim gives under the cap (R246): the trim stored, a clamp counted; answers the level. -/
def takeTrim (n : ChanId) (h : HeadId) (trim : Int) (s : State) : Nat × State :=
  let (level, trim, clamped) := capped246 s h trim
  (level.toNat, (s.modHead h (fun x => { x with trim := trim })).modWr n (fun w => { w with capClamps := w.capClamps + BitVec.ofNat 32 (b2n clamped) }))

/-- A level frame with the level of a trim under the cap; none for ASSIST_TYPE 0. -/
def sendLevel (n : ChanId) (h : HeadId) (trim : Int) (s : State) : State :=
  if assistType s n = 0 then s
  else
    let r := takeTrim n h trim s
    levelFrame n r.1 r.2

/-- The trim computed from a monitor reading (R246). -/
def trimFrom (s : State) (n : ChanId) (h : HeadId) (m : Nat) : Int :=
  let r := assistRec s h
  let e : Int := fieldU r 4 2 - (m : Int)
  let e := if bitOf (fieldU (paProfile s n) 1 1) 0 then -e else e
  clampInt (-(trimRange s h : Int)) (trimRange s h) (s.heads[h].trim + term (fieldS r 12 4) (fieldU r 11 1) e)

/-- Assist-ready is withdrawn now, or at the end of the sector being written (R26, R247). -/
def withdrawAssist (n : ChanId) (s : State) : State :=
  s.modWr n (fun w => if w.request then { w with withdrawAtEnd := true } else { w with assistReady := false })

/-- The cap or a committed record no longer lets the active head write (R26, R247): CAP_LEVEL below S less TM, `fresh` and S above
CAP_LEVEL, or S zero (uncalibrated). A calibration run writes at a level of its own (spec 09, R280), which the cap must allow. -/
def capCheck (fresh : Bool) (n : ChanId) (s : State) : State :=
  let h := (s.sdm n).head
  if (s.wr n).fixed.isSome then (if (s.wr n).fixed.any (fun l => capLevel s h < l) then withdrawAssist n s else s)
  else if assistType s n ≠ 0 && ((capLevel s h : Int) < setpoint s h - (trimRange s h : Int) || (fresh && capLevel s h < setpoint s h)
      || setpoint s h = 0) then
    withdrawAssist n s
  else s

/-- Assist-ready at a strobe (R247): asserted once the warm-up has passed with the setpoint within the cap; for
ASSIST_TYPE 0 always, but for a preamplifier fault (R244). -/
def assistAtStrobe (n : ChanId) (s : State) : State :=
  let h := (s.sdm n).head
  let w := s.wr n
  let warm := match w.warmFrom with
    | none => false
    | some t => passed s t (fieldU (paProfile s n) 18 2 * 1000)
  let ok := !w.paHold && !headReadOnly s h && !headRetired s h
  if assistType s n = 0 then s.modWr n (fun w => { w with assistReady := ok })
  else if ok && warm && (w.fixed.isSome || (0 < setpoint s h && setpoint s h ≤ capLevel s h)) && !w.withdrawAtEnd then
    s.modWr n (fun w => { w with assistReady := true })
  else s

/-! ## Write runs -/

/-- The offset of the sector that a run has come to. -/
def WriteRun.offset (r : WriteRun) : Nat := r.op.offset + r.next

/-- An open write has put a block on media: its version is newer than every acknowledged one (spec 11, R329). -/
def newerOnMedia (s : State) (b : BlockKey) : Bool :=
  s.cmds.ctxs.any (fun c => c.openWrite && c.ns = b.nsid && c.start ≤ b.lba && c.onMediaBlocks.contains (b.lba - c.start))

/-- The acknowledged version of a block that is still to be written: its DIRTY line, unless a newer version is on media (R329). -/
def dirtyData (s : State) (b : BlockKey) : Option (Nat × Bool × Block) :=
  match visibleLine s b with
  | some l => if l.state = .dirty && !newerOnMedia s b then some (l.version, l.poison, l.data) else none
  | none => none

/-- The data that a write holds for a block (spec 11, R328; spec 12, R374). -/
def heldData (s : State) (id : Nat) (b : BlockKey) : Option (Nat × Bool × Block) :=
  (s.cache.lines.find? (fun l => l.block = b && l.state = .held && l.version = id)).map (fun l => (id, l.poison, l.data))

/-- A block lies in the range of a context. -/
def Ctx.covers (c : Ctx) (b : BlockKey) : Bool := c.start ≤ b.lba && b.lba < c.start + c.entry.nlb

/-- The line that a repair rewrites a sector from (R239). -/
def repairData (s : State) (k : BandKey) (o : Nat) (b : BlockKey) : Option (Nat × Bool × Block) :=
  if (s.wr (chanOf k.head)).pendingExc.any (fun e => e.band = k && e.todo.contains o) then
    (visibleLine s b).map (fun l => (l.version, l.poison, l.data))
  else none

/-- The data of a block that an operation writes (R329), with its VERSION (spec 12, R375) and its poison mark: of a host write's own block
not yet on media the data held, of another block the DIRTY line, of a repair the line that it rewrites from. -/
def dueData (s : State) (op : MediaOp) (o : Nat) (b : BlockKey) : Option (Nat × Bool × Block) :=
  match op.kind with
  | .hostWrite id =>
    match ctxOf s id with
    | none => none
    | some c =>
      if c.committed then none
      else if !c.covers b then dirtyData s b
      else if c.onMediaBlocks.contains (b.lba - c.start) then none
      else heldData s id b
  | .destage => dirtyData s b
  | .repair => repairData s op.band o b
  | _ => none

/-- An operation that fills the extents that it writes to first (spec 04, R125): a destage, or a host write not yet committed or ended. -/
def fillsExtents (s : State) (op : MediaOp) : Bool :=
  match op.kind with
  | .destage => true
  | .hostWrite id => (ctxOf s id).any (fun c => !c.committed)
  | _ => false

/-- A sector of a media write is still to be written: it has data due, or it is a fill of an extent whose bit is clear, of a block that no
write has put on media (R125, R329). -/
def dueSector (s : State) (op : MediaOp) (o : Nat) : Bool :=
  let r := bandRec s op.band
  match blockAt s op.band o with
  | none => op.kind = .calibration true
  | some b => (dueData s op o b).isSome || (!r.shingled && !extentSet r o && !r.onMedia.contains o && fillsExtents s op)

/-- The first sector due at or after sector `i` of an operation, counted from its start. -/
def nextDue (s : State) (op : MediaOp) (i : Nat) : Option Nat :=
  (firstFrom (fun j => dueSector s op (op.offset + j)) (op.count - i) i)

/-- The sector of an offset as it enters the write FIFO (R249): a poisoned one, and a zero fill, with zero user bytes (R251; spec 04,
R125). -/
def fifoSector (s : State) (op : MediaOp) (o : Nat) (poison : Bool) : FifoSector :=
  match (blockAt s op.band o).bind (dueData s op o) with
  | none => if isCalBand op.band then ⟨o, 0, false, false, 0, metaHead op.band o 0 false false⟩ else ⟨o, 0, true, false, 0, metaOf s op.band o true⟩
  | some (v, p, d) => ⟨o, v, false, p || poison, if p || poison then 0 else d, metaOf s op.band o false⟩

/-- Sectors newly complete in the write FIFO, their lines pinned (spec 12, R375), each with the poison mark that its data was read with: they are the run's next sectors
after those already there; the FIFO holds two (R249). -/
def fillFifo (n : ChanId) : List Bool → State → State
  | [], s => settlePins s
  | p :: l, s =>
    let w := s.wr n
    match w.run with
    | none => s
    | some r =>
      let from_ := (w.fifo.getLast?).elim r.next (fun f => f.offset + 1 - r.op.offset)
      match (if 2 ≤ w.fifo.length then none else nextDue s r.op from_) with
      | none => settlePins s
      | some i => fillFifo n l (s.modWr n (fun w => { w with fifo := w.fifo ++ [fifoSector s r.op (r.op.offset + i) p] }))

/-- The write FIFO brought to an offset: sectors before it, no longer due, leave it. -/
def alignFifo (n : ChanId) (o : Nat) (s : State) : State :=
  settlePins (s.modWr n (fun w => { w with fifo := w.fifo.dropWhile (fun f => f.offset ≠ o) }))

/-- The level frame before a write run on the active head: the level of a calibration run, or that of the head's trim (R242, R246). -/
def runLevel (n : ChanId) (s : State) : State :=
  match (s.wr n).fixed with
  | some l => if assistType s n = 0 then s else levelFrame n l s
  | none => sendLevel n (s.sdm n).head (s.heads[(s.sdm n).head].trim) s

/-- The writer set of the active head, unless it has been sent since the head's select or a commit (R242). -/
def runWriter (n : ChanId) (s : State) : State := if (s.wr n).writerSent then s else writerFrames n (s.sdm n).head s

/-- A write run given to MSQ (R232, R242, R243): level, mode and writer set frames before it; on a head still to be selected, the level
and the writer set follow its select. -/
def startRun (n : ChanId) (op : MediaOp) (s : State) : State :=
  let s := if (s.sdm n).head = op.band.head then runWriter n (modeFrame n 12 (runLevel n s)) else modeFrame n 12 s
  s.modWr n (fun w => { w with run := some ⟨op, 0, none, false⟩, request := false, armed := false, fifo := [] })

/-- At a strobe after the head of a waiting run has been selected, or its warm-up has to begin again, the frames that precede it are sent
(R242, R247). -/
def prepareRun (n : ChanId) (s : State) : State :=
  let w := s.wr n
  if w.run.any (fun r => r.op.band.head = (s.sdm n).head) && !w.request then
    let s := if w.warmFrom.isNone && !w.paHold then runLevel n s else s
    runWriter n s
  else s

/-- No sector is being written any more: the request falls, and assist-ready withdrawn "at the end of the sector" is withdrawn (R26,
R247). -/
def sectorOver (n : ChanId) (s : State) : State :=
  s.modWr n (fun w => { w with
    request := false, armed := false, wg := false, wd := none
    assistReady := w.assistReady && !w.withdrawAtEnd, withdrawAtEnd := false })

/-- The write run of a channel ends, what is left of it going back to its bin. A repair that has rewritten its sectors is read back (R239). -/
def endRun (n : ChanId) (keepRest : Bool) (s : State) : State :=
  match (s.wr n).run with
  | none => s
  | some r =>
    let s := settlePins ((sectorOver n s).modWr n (fun w => { w with run := none, fixed := none, fifo := [] }))
    let s := unplace n (modeFrame n 14 s)
    let s := if r.op.kind = .repair && !keepRest then fileOp .verify r.op.band r.op.offset r.op.count s.clock.ns s else s
    if keepRest then refile (r.op.rest r.next) s else s

/-- A block acknowledged from the cache is lost (R120, R251); a fill that cannot be placed leaves its block marked lost-write, so that no
stale data answers for it (DESIGN CHOICE, log 45: the rules state nothing for a fill). -/
def loseLine (k : BandKey) (o : Nat) (cause : Nat) (b : BlockKey) (s : State) : State :=
  match visibleLine s b with
  | some l =>
    if l.state = .dirty then markLost k cause [(o, l.hostx, l.port)] (dropLines (fun x => x.block = b && x.state = .dirty) s) else s
  | none => modBand k (fun r => if r.shingled || r.lost.contains o then r else { r with lost := r.lost ++ [o] }) s

/-- A block that cannot be placed (R120, R251): acknowledged from the cache, it is lost; a host write of its own ends with a status. -/
def unplaceable (op : MediaOp) (o : Nat) (cause : Nat) (st : Status) (s : State) : State :=
  match blockAt s op.band o with
  | none => s
  | some b =>
    match op.kind with
    | .hostWrite id =>
      match ctxOf s id with
      | none => s
      | some c => if c.committed then s else if c.covers b then endUnacked c st s else loseLine op.band o cause b s
    | _ => loseLine op.band o cause b s

/-- Relocation entries in use (spec 12, R371). -/
def relocUsed (s : State) : Nat := (s.sub.bands.map (fun b => b.reloc.length)).sum

/-- Sectors of a shingled band that a slip moves off their place: they are no longer on media, and are written again from their lines, or
from the data held for a write not yet committed (R118, R237). -/
def movedOff (k : BandKey) (offs : List Nat) (s : State) : State :=
  offs.foldl (fun s o =>
    match blockAt s k o with
    | none => s
    | some b =>
      match s.cmds.ctxs.find? (fun c => c.openWrite && c.ns = b.nsid && c.start ≤ b.lba && c.onMediaBlocks.contains (b.lba - c.start)) with
      | some c =>
        fileOp (.hostWrite c.id) k o 1 c.admittedNs
          (modCtx c.id (fun c => { c with onMediaBlocks := c.onMediaBlocks.filter (· ≠ b.lba - c.start) }) s)
      | none =>
        fileOp .destage k o 1 s.clock.ns
          (mapLines (fun l => if l.block = b && (l.state = .shadow || l.state = .clean) then { l with state := .dirty } else l) s)) s

/-- A faulting sector slipped or remapped (spec 04, R118); false if no spare is left or the relocation area is full. A slip moves every
later block of the band one sector on. The position of a conventional block that is remapped stays pending in 0x3111 (DESIGN CHOICE, log
42: the rule does not say that its entry goes). -/
def relocate (n : ChanId) (k : BandKey) (o : Nat) (s : State) : Bool × State :=
  let r := bandRec s k
  if r.sparesFree = 0 || 524288 ≤ relocUsed s then (false, s)
  else
    let e := if r.shingled then (physical s r o, false) else (o, true)
    let s := setBand { r with reloc := r.reloc ++ [e], sparesFree := r.sparesFree - 1 } s
    let s := { s with mule.journalBuf := .reloc k e.1 :: s.mule.journalBuf }
    let s := (if r.shingled then
        movedOff k (r.onMedia.filter (fun x => o < x)) (modBand k (fun r => { r with onMedia := r.onMedia.filter (fun x => x < o) }) s)
      else s)
    (true, settlePins (s.modWr n (fun w => { w with slips := w.slips + 1, fifo := [] })))

/-- The offsets of an extent. -/
def extentOffsets (o : Nat) : List Nat := (List.range 16).map (o / 16 * 16 + ·)

/-- The written-extent bit of an offset is set once every block of the extent is on media (spec 04, R125). -/
def closeExtent (o : Nat) (r : BandRec) : BandRec :=
  if (extentOffsets o).all r.onMedia.contains then
    { r with extents := r.extents ||| (1 <<< (o / 16)), onMedia := r.onMedia.filter (fun x => x / 16 ≠ o / 16) }
  else r

/-- The block at an offset counts as written: of a shingled band for its frontier (R237), of a conventional one in an extent whose bit is
clear (spec 04, R125). -/
def markWritten (o : Nat) (r : BandRec) : BandRec :=
  if r.onMedia.contains o then r
  else if r.shingled then { r with onMedia := r.onMedia ++ [o] }
  else if extentSet r o then r
  else closeExtent o { r with onMedia := r.onMedia ++ [o] }

/-- The block at an offset holds up the frontier, or the fill of its extent, no more, being lost or refused (DESIGN CHOICE, log 19). -/
def passOffset (k : BandKey) (o : Nat) (s : State) : State := modBand k (markWritten o) s

/-- A sector that has to move is slipped or remapped, or its block is unplaceable (R118, R120). -/
def placeElsewhere (n : ChanId) (op : MediaOp) (o : Nat) (s : State) : State :=
  let (ok, s) := relocate n op.band o s
  if ok then s else passOffset op.band o (unplaceable op o 0x0001 .writeFault s)

/-- The consecutive write faults of a position (R235). -/
def faultsAt (s : State) (n : ChanId) (k : BandKey) (p : Nat) : Nat :=
  (((s.wr n).posFaults.find? (fun x => x.1 = k && x.2.1 = p)).map (·.2.2)).getD 0

/-- The write faults of a position set. -/
def setFaultsAt (n : ChanId) (k : BandKey) (p c : Nat) (s : State) : State :=
  s.modWr n (fun w =>
    let rest := w.posFaults.filter (fun x => !(x.1 = k && x.2.1 = p))
    { w with posFaults := if c = 0 then rest else (k, p, c) :: rest })

/-- A sector aborted (R234, R235): the run stays at that sector; a write fault is counted and, after WRITE_RETRY of them at its
position, the sector is placed elsewhere. -/
def abortSector (fault : Bool) (n : ChanId) (s : State) : State :=
  let s := sectorOver n s
  match (s.wr n).run with
  | none => s
  | some r =>
    let k := r.op.band
    let p := physical s (bandRec s k) r.offset
    let s := s.modWr n (fun w => { w with
      run := some { r with firstAbort := some (r.firstAbort.getD s.clock.ns) }
      aborts := w.aborts + BitVec.ofNat 32 (b2n fault) })
    if !fault then s
    else
      let c := faultsAt s n k p + 1
      let s := transientFault .writeFault (some (.head k.head)) 0 s
      if cfg s 0x5100 1 ≤ c then placeElsewhere n r.op r.offset (setFaultsAt n k p 0 s) else setFaultsAt n k p c s

/-- After anything that can withdraw write permission: a sector being written without it is aborted (R21, R228), and one that has not
begun does not begin. -/
def gateCheck (fault : Bool) (n : ChanId) (s : State) : State :=
  if writePermission s n then s
  else if (s.wr n).request then abortSector fault n s
  else s.modWr n (fun w => { w with armed := false })

/-- The same for every channel. -/
def gateCheckAll (fault : Bool) (s : State) : State := allChans.foldl (fun s n => gateCheck fault n s) s

/-! ## The frontier (R237, R238) -/

/-- The offsets that lie on a band track: the first, and the one after the last. -/
def trackOffsets (s : State) (r : BandRec) (f : Nat) : Nat × Nat :=
  match bandPlace s r.key with
  | none => (0, 0)
  | some (z, _, _) =>
    let bad := (badPositions s r).eraseDups
    let at_ (p : Nat) := min r.zcap (p - bad.countP (fun b => b < p))
    (at_ (f * z.n), at_ ((f + 1) * z.n))

/-- A verification or a repair of the band is outstanding (R239). -/
def excursionOn (s : State) (k : BandKey) : Bool := (s.wr (chanOf k.head)).pendingExc.any (fun e => e.band = k)

/-- The frontier track is complete (R237). -/
def trackComplete (s : State) (r : BandRec) : Bool :=
  let (a, b) := trackOffsets s r r.frontier
  (List.range (b - a)).all (fun i => r.onMedia.contains (a + i)) && !excursionOn s r.key

/-- The band tracks of a band. -/
def bandTracksOf (s : State) (k : BandKey) : Nat := (bandPlace s k).elim 0 (·.1.bandTracks)

/-- FRONTIER moves past a complete track and releases the SHADOW lines it passes (R237, R238). With the band's last track
complete no later track can be written, and every SHADOW line of the band is released (DESIGN CHOICE, log 19). -/
def stepFrontier (k : BandKey) (s : State) : State :=
  let r := bandRec s k
  let last := bandTracksOf s k
  if r.shingled && r.frontier < last && trackComplete s r then
    let b := (trackOffsets s r r.frontier).2
    let s := setBand { r with frontier := r.frontier + 1, onMedia := r.onMedia.filter (fun o => b ≤ o) } s
    releaseShadows k (if r.frontier + 1 = last then last else r.frontier) s
  else s

/-- FRONTIER moves as far as complete tracks let it: at most `fuel` tracks. -/
def advanceBy : Nat → BandKey → State → State
  | 0, _, s => s
  | fuel + 1, k, s =>
    let s' := stepFrontier k s
    if (bandRec s' k).frontier = (bandRec s k).frontier then s else advanceBy fuel k s'

/-- The frontier of a band brought up to date (R237). -/
def advanceFrontier (k : BandKey) (s : State) : State := advanceBy (bandTracksOf s k) k s

/-! ## Windows and sectors -/

/-- A run may go on at an offset: on the frontier track of a shingled band with no verification or repair outstanding on it, unless it is
the repair (R237, R239). -/
def trackPermitted (s : State) (op : MediaOp) (o : Nat) : Bool :=
  let r := bandRec s op.band
  !r.shingled || op.kind = .repair || (trackIn s op.band o = r.frontier && !excursionOn s op.band)

/-- The position of an offset is entered as a pending defect of a conventional band (R119). -/
def pendingAt (s : State) (k : BandKey) (o : Nat) : Bool :=
  let r := bandRec s k
  !r.shingled && r.pending.contains (physical s r o)

/-- The actuator follows the track of a sector, at any offset (R219, R334). -/
def onSector (s : State) (n : ChanId) (k : BandKey) (off : Nat) : Bool :=
  (s.ce n).mode = .follow && (s.sdm n).head = k.head && (s.ce n).target = targetOf s k off

/-- A sector may begin: the controller runs (no vault has been triggered, spec 02, R71), no immediate activation is under way (spec
16, R476), and the set speed is not to change (spec 01, R40). -/
def mayBegin (s : State) : Bool := s.live && s.fw.activation = .none && s.power.speedChange = .none

/-- The window that the head of channel `n` is in: the one after the servo field of its last wedge (R230). -/
def windowNow (s : State) (n : ChanId) : Nat := (s.sdm n).wedge

/-- A sector that directly follows another on its track: `after` is the physical position of that other. -/
def followsOn (s : State) (k : BandKey) (o : Nat) (after : Option Nat) : Bool :=
  match after with
  | none => false
  | some p =>
    let q := physical s (bandRec s k) o
    q = p + 1 && (sectorPlace s k o).any (fun x => x.2.2.1 ≠ 0)

/-- A sector that begins with the first bit that its window has for it: nothing of the track precedes it in the window. -/
def opensWindow (s : State) (k : BandKey) (o : Nat) : Bool :=
  match sectorPlace s k o with
  | none => false
  | some (_, _, sec, z) =>
    let place := (trackWindow z (wedges s) (sec * sectorBits)).2
    place = 0 || place = 32

/-- The pieces of the sector at an offset of a band, window by window (spec 04, R110). -/
def piecesOf (s : State) (k : BandKey) (o : Nat) : List (Nat × Nat × Nat) :=
  match sectorPlace s k o with | none => [] | some (_, _, sec, z) => sectorPieces z (wedges s) sec

/-- A sector begins (R20, R249): the request is raised, PAn_WG follows the permission, and PAn_WD presents the sector (R232). The readers'
front-ends are in standby while the channel writes (spec 07, R189). -/
def beginSector (n : ChanId) (f : FifoSector) (s : State) : State :=
  match (s.wr n).run with
  | none => s
  | some r =>
    let h := servoVal s 0x5102 r.op.band.head.val
    let word := encodeInfo (infoBits (scramble (sectorInfo f.user f.metadata) (scrambleSeed f.offset)))
    let s := (s.modWr n (fun w => { w with
      request := true, armed := false, run := some { r with tried := true }
      wd := some ⟨sectorStream word, writtenWindows (sectorStream word) (piecesOf s r.op.band f.offset), fieldU h 8 1, fieldS h 6 2⟩ })).modRwc n
        (fun x => { x with powerA := false, powerB := false })
    s.modWr n (fun w => { w with
      wg := gateAllowed s n, wroteIn := if gateAllowed s n then some (r.op.band, trackIn s r.op.band f.offset) else w.wroteIn })

/-- The armed sector has begun: by the end of its window, or by its pad, if the permission has lasted and no vault has been triggered (spec
02, R71). Where in the window it began is below the model's resolution (DESIGN CHOICE, log 41). -/
def startArmed (n : ChanId) (s : State) : State :=
  if (s.wr n).armed && !(s.wr n).request then
    match (s.wr n).fifo with
    | f :: _ => if writePermission s n && s.live then beginSector n f s else s.modWr n (fun w => { w with armed := false })
    | [] => s.modWr n (fun w => { w with armed := false })
  else s

/-- What stands in the way of the sector that a run has come to. -/
inductive Gate where
  | none | done | frontier | elsewhere | wait | short | poisoned | defect
deriving DecidableEq, Repr

/-- What stands in the way of sector `i` of a run, `after` being the position just written (R232, R237, R249 to R251; spec 04, R119;
spec 11, R334): it lies past the frontier track; its window is another one; the actuator, an excursion or the permission does not let
it begin; the FIFO does not hold it; its data is poisoned in a conventional band; its position is a pending defect. -/
def sectorGate (s : State) (n : ChanId) (r : WriteRun) (i : Nat) : Gate :=
  let k := r.op.band
  let o := r.op.offset + i
  if !trackPermitted s r.op o then .frontier
  else if binOf s k o ≠ windowNow s n then .wait
  else if !onSector s n k o then (if r.tried then .wait else .elsewhere)
  else if !mayBegin s || !writePermission s n then .wait
  else match (s.wr n).fifo with
    | [] => .short
    | f :: _ =>
      if f.offset ≠ o then .short
      else if f.poison && !(bandRec s k).shingled then .poisoned
      else if pendingAt s k o then .defect
      else .none

/-- The run comes to its next due sector and begins it, arms it, waits or ends (R232, R234, R249 to R251). `after` is the position of the
sector just written; a sector passed over (unplaceable, or moved) is followed by the next one, at most `fuel` of them. -/
def runOn (n : ChanId) : Nat → Option Nat → State → State
  | 0, _, s => s
  | fuel + 1, after, s =>
    match (s.wr n).run with
    | none => s
    | some r =>
      match nextDue s r.op r.next with
      | none => endRun n false s
      | some i =>
        let o := r.op.offset + i
        let s := alignFifo n o (s.modWr n (fun w => { w with run := some { r with next := i } }))
        match sectorGate s n r i with
        | .done => s
        | .frontier => endRun n true s
        | .elsewhere => endRun n true { s with sched.binMisses := upd s.sched.binMisses n (· + 1) }
        | .wait => s
        | .short =>
          if 0 < i then
            transientFault .underrun none 0 (s.modWr n (fun w => { w with underruns := w.underruns + 1, run := some { r with next := i, tried := true } }))
          else s
        | .poisoned => runOn n fuel none (unplaceable r.op o 0x0004 .internalError s)
        | .defect => runOn n fuel none (placeElsewhere n r.op o s)
        | .none =>
          let s := s.modWr n (fun w => { w with armed := true })
          if followsOn s r.op.band o after || (after.isNone && opensWindow s r.op.band o) then startArmed n s else s

/-- The poison marks of `arrived` sectors that come into the write FIFO, `poisoned` among them by number (R249, R251). -/
def fifoMarks (arrived : Nat) (poisoned : List Nat) : List Bool := (List.range arrived).map (fun k => poisoned.contains k)

/-- A window opens for a run (R230, R232): the sector in progress goes on, or the next one begins in it. -/
def openWindow (n : ChanId) (fill : List Bool) (s : State) : State :=
  let s := fillFifo n fill s
  if (s.wr n).request then
    s.modWr n (fun w => { w with
      wg := gateAllowed s n, wroteIn := if gateAllowed s n then w.run.map (fun r => (r.op.band, trackIn s r.op.band r.offset)) else w.wroteIn })
  else match (s.wr n).run with
    | none => s
    | some r => runOn n (r.op.count + 1) none s

/-- The window of channel `n` has ended (R232): the gate falls after the splice field; this is no abort. -/
def closeWindow (n : ChanId) (s : State) : State := (startArmed n s).modWr n (fun w => { w with wg := false })

/-- A version of a block is on media: the Flushes that cover it or an older one no longer wait for it (spec 11, R340). -/
def noteFlush (b : BlockKey) (version : Nat) (s : State) : State :=
  { s with cmds.ctxs := s.cmds.ctxs.map (fun c => { c with
      covered := c.covered.map (fun x => if x.1 = b && x.2.any (· ≤ version) then (x.1, none) else x) }) }

/-- A line that has reached the media (spec 12, R375): CLEAN or SHADOW if it still is the version written, lost if poisoned (R251). -/
def landLine (r : WriteRun) (f : FifoSector) (b : BlockKey) (s : State) : State :=
  let k := r.op.band
  let hit := fun (l : Line) => l.block = b && l.state = .dirty && l.version = f.version
  let s := if f.poison || f.zeroFill then s else noteFlush b f.version s
  match s.cache.lines.find? hit with
  | none => s
  | some l =>
    if f.poison || l.poison then markLost k 0x0004 [(r.offset, l.hostx, l.port)] (dropLines hit s)
    else
      let t := trackIn s k r.offset
      let st := if (bandRec s k).shingled then LineState.shadow else LineState.clean
      mapLines (fun l => if hit l then { l with state := st, track := t, replayed := false } else l) s

/-- A sector of the band's repair has been rewritten: its line stays DIRTY until it has been read back (R239). -/
def landRepair (k : BandKey) (o : Nat) (s : State) : State :=
  s.modWr (chanOf k.head) (fun w => { w with
    pendingExc := w.pendingExc.map (fun e => if e.band = k then { e with todo := e.todo.filter (· ≠ o) } else e) })

/-- The block of a sector that has reached the media (R236): a host write counts its own, or fails if its data was poisoned (R251); a line
that was destaged follows spec 12, R375. -/
def landBlock (r : WriteRun) (f : FifoSector) (s : State) : State :=
  match blockAt s r.op.band r.offset with
  | none => s
  | some b =>
    match r.op.kind with
    | .hostWrite id =>
      if f.zeroFill then s
      else match ctxOf s id with
        | none => landLine r f b s
        | some c =>
          if !c.covers b then landLine r f b s
          else if c.committed then s
          else if f.poison then endUnacked c .internalError s
          else modCtx id (fun c => { c with onMedia := true, onMediaBlocks := c.onMediaBlocks ++ [b.lba - c.start] }) s
    | .repair => landRepair r.op.band r.offset s
    | _ => landLine r f b s

/-- The band of a sector that has reached the media: the frontier's offsets, or the blocks of an extent whose bit is clear (R125, R237). -/
def landBand (k : BandKey) (o : Nat) (s : State) : State := modBand k (markWritten o) s

/-- A sector's pad is written without an abort (R236): its block, its band, the counters, and the run goes on: the next sector of the
track begins with its preamble right behind the pad (R232), if nothing stands in its way. -/
def sectorLands (n : ChanId) (fill : List Bool) (s : State) : State :=
  match (s.wr n).run, (s.wr n).fifo with
  | some r, f :: rest =>
    let k := r.op.band
    let p := physical s (bandRec s k) r.offset
    let s := landBand k r.offset (landBlock r f s)
    let s := setFaultsAt n k p 0 (advanceFrontier k s)
    let s := endStalls k.head s
    let s := (sectorOver n s).modWr n (fun w => { w with
      sectorsWritten := w.sectorsWritten + 1, fifo := rest, run := w.run.map (fun r => { r with next := r.next + 1 }) })
    runOn n (r.op.count + 1) (some p) (fillFifo n fill s)
  | _, _ => s

/-! ## Excursions (R239) -/

/-- The windows of a physical sector of data track `d` (spec 04, R110): those that its pieces lie in. -/
def sectorWindows (z : ZoneRec) (w d sec : Nat) : List Nat := (sectorPieces z w sec).map (fun p => (d * z.skew + p.1) % max 1 w)

/-- The offsets of a band track with a bit in one of the windows `ws`. -/
def offsetsIn (s : State) (k : BandKey) (t : Nat) (ws : List Nat) : List Nat :=
  let r := bandRec s k
  let (a, b) := trackOffsets s r t
  ((List.range (b - a)).map (a + ·)).filter (fun o =>
    match sectorPlace s k o with
    | none => false
    | some (_, d, sec, z) => (sectorWindows z (wedges s) d sec).any ws.contains)

/-- Lines of the offsets made DIRTY again (R239). -/
def dirtyAgain (k : BandKey) (offs : List Nat) (s : State) : State :=
  let blocks := offs.filterMap (fun o => blockAt s k o)
  mapLines (fun l => if blocks.contains l.block && (l.state = .shadow || l.state = .clean) then { l with state := .dirty } else l) s

/-- The first excursion of a list that meets a condition replaced by its image; none removes it. -/
def modExc (p : Excursion → Bool) (f : Excursion → Option Excursion) : List Excursion → List Excursion
  | [] => []
  | e :: r => if p e then (match f e with | none => r | some e => e :: r) else e :: modExc p f r

/-- The operations that handle the excursion of a band (R239; spec 11, R335): a verification or a repair. -/
def excursionOp (k : BandKey) (o : MediaOp) : Bool := o.band = k && (o.kind = .verify || o.kind = .repair)

/-- The sectors `offs` of a band filed like a host command's, to be read or rewritten (R239; spec 11, R335), in place of what was filed of
the band's excursion: one operation from the first to the last. -/
def fileExcursion (kind : OpKind) (k : BandKey) (offs : List Nat) (s : State) : State :=
  let s := { s with sched.queue := s.sched.queue.filter (fun o => !excursionOp k o) }
  match offs with
  | [] => s
  | o :: r =>
    let a := r.foldl min o
    fileOp kind k a (r.foldl max o + 1 - a) s.clock.ns s

/-- An excursion seen at the strobe of wedge `wedge` after a window written on track `t` of band `k` (R239): the verify set of the track
before, joined to one already outstanding, is filed to be read. -/
def noteExcursion (n : ChanId) (k : BandKey) (t wedge : Nat) (s : State) : State :=
  let r := bandRec s k
  if !r.shingled || t = 0 then s
  else
    let w := wedges s
    let c := min w ((s.wr n).sinceInside + 2)
    let ws := (List.range c).map (fun i => (wedge + w - i) % w)
    let v := offsetsIn s k (t - 1) ws
    let join := fun (l : List Excursion) =>
      if v = [] then l
      else if excursionOn s k then modExc (fun e => e.band = k) (fun e => some { e with verify := (e.verify ++ v).eraseDups }) l
      else l ++ [⟨k, t, v, [], 0, []⟩]
    let s := s.modWr n (fun x => { x with pendingExc := join x.pendingExc })
    let all := (((s.wr n).pendingExc.find? (fun e => e.band = k)).map (·.verify)).getD []
    let s := fileExcursion .verify k all s
    raise (event 0x5001 1 srcController (k.band % 2 ^ 24) t 2 k.head.val) (dirtyAgain k v s)

/-- Sectors verified good: their lines become SHADOW again (R239), on a head retired read-only CLEAN (spec 13, Table 13.2). -/
def verifiedGood (k : BandKey) (offs : List Nat) (s : State) : State :=
  let tracks := offs.filterMap (fun o => (blockAt s k o).map (fun b => (b, trackIn s k o)))
  mapLines (fun l =>
    if l.state = .dirty then
      match assocGet l.block tracks with | none => l | some t => { l with state := if headReadOnly s k.head then .clean else .shadow, track := t }
    else l) s

/-- Sectors given up (R239): their blocks are marked lost-write, the writing host that of the line, or of the port 0 entry
where no line is left. -/
def givenUp (k : BandKey) (offs : List Nat) (cause : Nat) (s : State) : State :=
  let l := offs.filterMap (fun o => (blockAt s k o).map (fun b =>
    match visibleLine s b with | some l => (o, l.hostx, l.port) | none => (o, 0, 0)))
  let blocks := offs.filterMap (fun o => blockAt s k o)
  markLost k cause l (dropLines (fun x => x.state.visible && blocks.contains x.block) s)

/-- The sectors of the track being written, already on media, whose windows lie within one window of those of the sectors `fix` (R239,
step 3). -/
def repairNeighbours (s : State) (e : Excursion) (fix : List Nat) : List Nat :=
  let w := wedges s
  let ws := (fix.map (fun o => match sectorPlace s e.band o with
    | none => []
    | some (_, d, sec, z) => sectorWindows z w d sec)).flatten
  let near := (ws ++ ws.map (fun x => (x + 1) % w) ++ ws.map (fun x => (x + w - 1) % w)).eraseDups
  (offsetsIn s e.band e.track near).filter (bandRec s e.band).onMedia.contains

/-- An excursion goes on with the sectors `fix` to repair, which are filed to be rewritten, or is over and the frontier may move (R237). -/
def settleExcursion (n : ChanId) (e : Excursion) (fix : List Nat) (tries : Nat) (s : State) : State :=
  let mine := fun (x : Excursion) => decide (x.band = e.band)
  if fix = [] && e.repair = [] then advanceFrontier e.band (s.modWr n (fun w => { w with pendingExc := modExc mine (fun _ => none) w.pendingExc }))
  else
    let own := repairNeighbours s e (fix.filter (fun o => trackIn s e.band o < e.track))
    let all := (e.repair ++ fix ++ own).eraseDups
    fileExcursion .repair e.band all (dirtyAgain e.band (own ++ fix) (s.modWr n (fun w => { w with
      pendingExc := modExc mine (fun e => some { e with verify := [], repair := all, tries := tries, todo := all }) w.pendingExc })))

/-- No operation of a band's excursion is filed or placed: what it had to read or rewrite is done. -/
def excursionIdle (s : State) (n : ChanId) (k : BandKey) : Bool := !s.sched.queue.any (excursionOp k) && !s.sched.placed[n].any (excursionOp k)

/-- The oldest excursion whose verify set has been read. -/
def verifyDue (s : State) (n : ChanId) : Option Excursion := (s.wr n).pendingExc.find? (fun e => e.verify ≠ [] && excursionIdle s n e.band)

/-- The oldest excursion whose repair has been rewritten and read back. -/
def repairDue (s : State) (n : ChanId) : Option Excursion :=
  (s.wr n).pendingExc.find? (fun e => e.verify = [] && e.repair ≠ [] && excursionIdle s n e.band)

/-- The sectors of `l` that pass the test of R239: decoded on the fly within VERIFY_ITER iterations with the checks of R204 passed.
`reads` gives the iterations of those that converged and passed the checks. -/
def passes239 (s : State) (reads : List (Nat × Nat)) (o : Nat) : Bool := reads.any (fun x => x.1 = o && x.2 ≤ cfg s 0x5100 3)

/-- The verify set has been read (R239): the sectors that failed are repaired, with those of the track being written that lie
within one window of theirs; without a line, or on a head retired read-only (spec 13, Table 13.2), they are lost. -/
def verifyRead (n : ChanId) (reads : List (Nat × Nat)) (s : State) : State :=
  match verifyDue s n with
  | none => s
  | some e =>
    let good := e.verify.filter (passes239 s reads)
    let bad := e.verify.filter (fun o => !passes239 s reads o)
    let s := verifiedGood e.band good (s.modWr n (fun w => { w with excursions := w.excursions + 1 }))
    let hasLine := fun o => ((blockAt s e.band o).bind (visibleLine s)).isSome
    let lost := if headReadOnly s e.band.head then bad else bad.filter (fun o => !hasLine o)
    let fix := bad.filter (fun o => !lost.contains o)
    settleExcursion n e fix e.tries (if lost = [] then s else givenUp e.band lost 0x00FF s)

/-- A repair has been rewritten and read back (R239): what failed is repaired again with its neighbours, at most REPAIR_LIMIT times. -/
def repairRead (n : ChanId) (reads : List (Nat × Nat)) (s : State) : State :=
  match repairDue s n with
  | none => s
  | some e =>
    let good := e.repair.filter (passes239 s reads)
    let bad := e.repair.filter (fun o => !passes239 s reads o)
    let s := verifiedGood e.band good (s.modWr n (fun w => { w with repairs := w.repairs + 1 }))
    if bad ≠ [] && cfg s 0x5100 4 ≤ e.tries + 1 then
      settleExcursion n { e with repair := [] } [] e.tries (givenUp e.band bad 0x0003 s)
    else settleExcursion n { e with repair := [] } bad (e.tries + 1) s

end Sys2Proof.Machine
end

