-- ==== Sys2Proof/Machine/Captures.lean ====
section
/-! DEFINITION. The capture store and the ladders that hold its entries (spec 07, R206, R207, R210, R219, R221). -/

namespace Sys2Proof.Machine

/-! ## Capture entries (R206, R207) -/

/-- An entry replaced by its image. -/
def modEntry (n : ChanId) (i : Fin 10) (f : CaptureEntry → CaptureEntry) (s : State) : State :=
  s.modRwc n (fun r => { r with entries := upd r.entries i f })

/-- The numbers of the capture entries. -/
def entryNumbers : List (Fin 10) := List.ofFn (fun (i : Fin 10) => i)

/-- The entries in a state. -/
def entriesIn (s : State) (n : ChanId) (t : EntryState) : List (Fin 10) :=
  entryNumbers.filter (fun i => (s.rwc n).entries[i].state = t)

/-- An entry released. -/
def freeEntry (n : ChanId) (i : Fin 10) (s : State) : State := modEntry n i (fun _ => CaptureEntry.reset) s

/-- The oldest kept entry. -/
def oldestKept (s : State) (n : ChanId) : Option (Fin 10) :=
  (entriesIn s n .kept).foldl (fun best i =>
    match best with
    | none => some i
    | some b => if (s.rwc n).entries[i].order < (s.rwc n).entries[b].order then some i else some b) none

/-- An entry of a failed sector becomes held. -/
def holdEntry (n : ChanId) (i : Fin 10) (s : State) : State :=
  modEntry n i (fun e => { e with state := .held, order := (s.rwc n).order }) (s.modRwc n (fun r => { r with order := r.order + 1 }))

/-- A failed sector's entry retained, if it can be (R207): at most 8 are, the oldest kept one giving way unless CAPTURE_HOLD is
1; else it is released and counted. -/
def retain (n : ChanId) (i : Fin 10) (s : State) : Bool × State :=
  if (entriesIn s n .held).length + (entriesIn s n .kept).length < 8 then (true, holdEntry n i s)
  else match oldestKept s n with
    | some j =>
      if cfg s 0x5040 3 = 1 then (false, (freeEntry n i s).modRwc n (fun r => { r with skipped := r.skipped + 1 }))
      else (true, holdEntry n i (freeEntry n j s))
    | none => (false, (freeEntry n i s).modRwc n (fun r => { r with skipped := r.skipped + 1 }))

/-- The entries of a ladder are kept when the ladder ends. -/
def keepEntries (n : ChanId) (l : List (Fin 10)) (recovered : Bool) (s : State) : State :=
  l.foldl (fun s i => modEntry n i (fun x => { x with state := .kept, recovered := recovered }) s) s

/-! ## Ladders -/

/-- Two ladders are of one sector. -/
def sameSector (o : MediaOp) (off : Nat) (l : Ladder) : Bool := l.op.id = o.id && l.offset = off

/-- A ladder replaced by its image. -/
def modLadder (n : ChanId) (o : MediaOp) (off : Nat) (f : Ladder → Ladder) (s : State) : State :=
  s.modRwc n (fun r => { r with ladders := r.ladders.map (fun l => if sameSector o off l then f l else l) })

/-- The actuator is held while a ladder has come to its re-read step (R219). -/
def holdActuator (n : ChanId) (s : State) : State :=
  s.modRwc n (fun r => { r with heldByLadder := r.ladders.any (fun l => l.step ≠ .secondLook) })

/-- A ladder ends: its entries are kept, the actuator is released with the last. -/
def endLadder (n : ChanId) (l : Ladder) (recovered : Bool) (s : State) : State :=
  holdActuator n ((keepEntries n l.entries recovered s).modRwc n (fun r =>
    { r with ladders := r.ladders.filter (fun x => !sameSector l.op l.offset x) }))

/-! ### Stopping (R221) -/

/-- The second-look engine runs an attempt of a ladder. -/
def attemptOf (s : State) (n : ChanId) (l : Ladder) : Bool :=
  (s.rwc n).attempt.any (fun a => a.opId = l.op.id && a.offset = l.offset)

/-- A ladder waits for its re-read: no attempt of the engine, no codeword of its sector is under way. -/
def awaitsReread (s : State) (n : ChanId) (l : Ladder) : Bool :=
  l.step ≠ .secondLook && l.plan = [] && l.stop.isNone && !attemptOf s n l
    && !(s.rwc n).decoding.any (fun c => c.reread && sameSector c.op c.offset l)

/-- The ladder whose sector the head comes to: on the track of the one that failed first, the one that has come least far, then the
oldest (R219; log 25). -/
def nextReread (s : State) (n : ChanId) : Option Ladder :=
  let l := (s.rwc n).ladders.filter (awaitsReread s n)
  match l with
  | [] => none
  | x :: _ =>
    let t := trackIn s x.op.band x.offset
    (l.filter (fun y => y.op.band = x.op.band && trackIn s y.op.band y.offset = t)).foldl (fun best y =>
      match best with
      | none => some y
      | some b => if b.rest.length < y.rest.length then some y else some b) none

/-- A sector has a bit in the window that the head is in. -/
def passesNow (s : State) (n : ChanId) (k : BandKey) (off : Nat) : Bool :=
  match sectorPlace s k off with
  | none => false
  | some (_, d, sec, z) => (sectorWindows z (wedges s) d sec).contains (windowNow s n)

/-- The sector that the channel reads next: of its media read, or of the ladder whose re-read the head comes to. -/
def sectorAhead (s : State) (n : ChanId) : Option (BandKey × Nat) :=
  match (s.rwc n).op with
  | some o => if (s.rwc n).nextSector < o.count then some (o.band, o.offset + (s.rwc n).nextSector) else none
  | none => (nextReread s n).map (fun l => (l.op.band, l.offset))

/-- That sector is under the head of channel `n`, which follows its track. -/
def readingSector (s : State) (n : ChanId) : Bool :=
  tickReads s && (sectorAhead s n).any (fun x => onSector s n x.1 x.2 && passesNow s n x.1 x.2)

/-- The sector of the media read goes on over the servo field just passed: it has bits in the window before the field and in the one
behind it. -/
def crossesField (s : State) (n : ChanId) : Bool :=
  match (s.rwc n).op with
  | none => false
  | some o =>
    let off := o.offset + (s.rwc n).nextSector
    match sectorPlace s o.band off with
    | none => false
    | some (_, d, sec, z) =>
      let l := sectorWindows z (wedges s) d sec
      let w := max 1 (wedges s)
      onSector s n o.band off && l.contains (windowNow s n) && l.contains ((windowNow s n + w - 1) % w)

/-- A ladder is within an attempt or a re-read revolution. -/
def inProgress (s : State) (n : ChanId) (l : Ladder) : Bool := attemptOf s n l || l.step ≠ .secondLook

/-- A stopped ladder is over: it reports nothing, and after HOLDOVER its sector is read again. -/
def stopNow (n : ChanId) (again : Bool) (l : Ladder) (s : State) : State :=
  let s := endLadder n l false s
  if again then refile { l.op with offset := l.offset, count := 1 } s else s

/-- The ladders that meet a predicate stop at the end of their attempt or revolution: those within neither at once. -/
def stopLadders (p : Ladder → Bool) (again : Bool) (n : ChanId) (s : State) : State :=
  ((s.rwc n).ladders.filter (fun l => p l && l.stop.isNone)).foldl (fun s l =>
    if inProgress s n l then modLadder n l.op l.offset (fun x => { x with stop := some again }) s else stopNow n again l s) s

/-- The ladders whose stop falls due: a revolution has ended, or an attempt (`rev` false). -/
def stopsFall (n : ChanId) (rev : Bool) (s : State) : State :=
  ((s.rwc n).ladders.filter (fun l => l.stop.isSome && !attemptOf s n l && (rev || l.step = .secondLook))).foldl (fun s l =>
    stopNow n (l.stop = some true) l s) s

/-- A vault trigger stops every ladder at once, with the attempt under way (spec 02, Table 2.11). -/
def abandonLadders (n : ChanId) (s : State) : State :=
  (s.rwc n).ladders.foldl (fun s l => stopNow n false l s) (s.modRwc n (fun r => { r with attempt := none }))

end Sys2Proof.Machine
end

