-- ==== Sys2Proof/Machine/Pages.lean ====
section
/-! DEFINITION. The pages of the Mule (spec 14, R412, R413, R425, R426, R430): page headers and spare areas, the journal's records,
and the pages of a vault's steps. -/

namespace Sys2Proof.Machine

/-! ## The grown defects (spec 04) -/

/-- A defect entry of a band (spec 04, R116): its recording zone, the data track and physical sector of a position, and flags. -/
def defectEntry (s : State) (k : BandKey) (flags pos : Nat) : List Byte :=
  match bandPlace s k with
  | none => []
  | some (z, zi, bi) =>
    leBytes 1 zi ++ leBytes 3 (bi * (z.bandTracks + z.guard) + pos / max 1 z.n) ++ leBytes 2 (pos % max 1 z.n) ++ leBytes 2 flags

/-- The key that sorts a defect entry (R116). -/
def defectKey (e : List Byte) : Nat := fieldU e 0 1 * 2 ^ 40 + fieldU e 1 3 * 2 ^ 16 + fieldU e 4 2

/-- GROWN_DEFECTS of a head: its pending entries (flag 1) and the promoted ones (flag 2), ascending (R116, R119). -/
def grownDefects (s : State) (h : HeadId) : List Byte :=
  let l := (s.sub.bands.filter (fun b => b.key.head = h)).flatMap (fun b =>
    b.pending.map (defectEntry s b.key 2) ++ b.slipped.map (defectEntry s b.key 4))
  (l.mergeSort (fun a b => defectKey a ≤ defectKey b)).flatten

/-! ## Headers and spare areas (R413) -/

/-- The page header (Table 14.2). -/
def pageHeader (p : NandPage) : List Byte :=
  let body := leBytes 1 p.part ++ leBytes 1 p.kind ++ leBytes 2 0 ++ leBytes 8 p.seq ++ leBytes 4 p.lpage ++ (p.owner ++ List.replicate 12 0).take 12
  body ++ leBytes 4 (crc32 body).toNat

/-- One of the 16 segments of 1,024 bytes. -/
def pageSegment (p : NandPage) (i : Nat) : List Byte := (p.data.drop (1024 * i)).take 1024

/-- The parity bytes of a page, 70 for each segment. -/
def pageParity (p : NandPage) : List Byte :=
  (List.range 16).flatMap (fun i => leBytes 70 (Config.bchParity (pageSegment p i)).toNat)

/-- The 2,048 bytes of a page's spare area: header, parity, and 0xFF. -/
def spareArea (p : NandPage) : List Byte := pageHeader p ++ pageParity p ++ List.replicate 896 0xFF

/-- A page's 16,384 data bytes, filled up with zeros (DESIGN CHOICE, log 20). -/
def pageFill (b : List Byte) : List Byte := (b ++ List.replicate 16384 0).take 16384

/-- Bytes XORed one by one. -/
def xorBytes (a b : List Byte) : List Byte := List.zipWith (· ^^^ ·) a b

/-- The eight pages of a step with parity (R425): page 7 is the XOR of pages 0 to 6. -/
def parityStep (b : List Byte) : List (List Byte) :=
  let l := (List.range 7).map (fun i => pageFill (b.drop (16384 * i)))
  l ++ [l.foldl xorBytes (List.replicate 16384 0)]

/-! ## The journal's records (Table 14.7) -/

/-- The band of a zone-table record: records in order of head and band (log 32). -/
def bandOfRecord (s : State) (i : Nat) : Option BandKey :=
  (allHeads.foldl (fun (acc : Option BandKey × Nat) h =>
    if acc.1.isSome then acc
    else
      let n := if headFitted s h then bandsOn s h else 0
      if acc.2 < n then (some ⟨h, acc.2⟩, 0) else (none, acc.2 - n)) (none, i)).1

/-- The start of a band's relocation list, in 8-byte units (R121): the entries of the bands before it (DESIGN CHOICE, log 32). -/
def relocStart (s : State) (k : BandKey) : Nat := ((s.sub.bands.takeWhile (fun b => b.key ≠ k)).map (fun b => b.reloc.length)).sum

/-- The index of a band's record in the zone table: records in order of head and band (log 32). -/
def recordIndex (s : State) (k : BandKey) : Nat :=
  ((allHeads.filter (fun h => h < k.head && headFitted s h)).map (bandsOn s)).sum + k.band

/-- The words of 256 extents of a band's part of the written-extent bitmap. -/
def allWords : List (Fin 16) := [0, 1, 2, 3, 4, 5, 6, 7, 8, 9, 10, 11, 12, 13, 14, 15]

/-- The index of the first word of a conventional band in the written-extent bitmap: 16 words of 256 bits for each such band, in order of head
and band (spec 12, Table 12.8; log 32). -/
def bitmapIndex (s : State) (k : BandKey) : Nat :=
  16 * ((allHeads.filter (fun h => h < k.head && headFitted s h)).map (fun h => (((formatOf s h).filter (fun z => !z.shingled)).map (·.bands)).sum)).sum
    + 16 * k.band

/-- TYPE, INDEX and PAYLOAD of a record. The index of a relocation or defect entry is that of its band, the entry its position; that of
a checkpoint record is zero, its payload the checkpoint's SEQ (DESIGN CHOICE, log 20). -/
def journalFields (s : State) : JournalRec → Nat × Nat × List Byte
  | .band r => (0x01, recordIndex s r.key, bandBytes r (relocStart s r.key))
  | .reloc k p => (0x02, recordIndex s k, leBytes 8 p)
  | .defect k p => (0x03, recordIndex s k, leBytes 8 p)
  | .bitmap k w x => (0x04, bitmapIndex s k + w.val, leBytes 32 x.toNat)
  | .supersede b =>
    match locateBlock s b with
    | none => (0x05, 0, leBytes 6 b.lba ++ leBytes 4 1)
    | some (k, o) => (0x05, recordIndex s k, leBytes 6 o ++ leBytes 4 1)
  | .checkpoint ends q => (if ends then 0x07 else 0x06, 0, leBytes 8 q)
  | .lostRun k a n => (0x08, recordIndex s k, leBytes 6 a ++ leBytes 4 n)

/-- The 64 bytes of a record. -/
def journalBytes (s : State) (seq : Nat) (r : JournalRec) : List Byte :=
  let f := journalFields s r
  let body := leBytes 1 f.1 ++ leBytes 3 0 ++ leBytes 4 f.2.1 ++ leBytes 8 seq ++ (f.2.2 ++ List.replicate 32 0).take 32 ++ List.replicate 12 0
  body ++ leBytes 4 (crc32 body).toNat

/-- Records in order, numbered on from a sequence number. -/
def journalRun (s : State) (seq : Nat) (l : List JournalRec) : List Byte :=
  (l.zipIdx.map (fun x => journalBytes s (seq + x.2) x.1)).flatten

/-! ## The vault's steps (Tables 14.5 and 14.6) -/

/-- The code of a line's state (spec 12, Table 12.10). -/
def LineState.code : LineState → Nat
  | .clean => 1 | .dirty => 2 | .shadow => 3 | .held => 4 | .filling => 5 | .invalid => 0

/-- A cache tag (spec 12, Table 12.9). -/
def tagBytes (l : Line) : List Byte :=
  leBytes 6 l.block.lba ++ leBytes 1 l.block.nsid
    ++ leBytes 1 (l.state.code + 16 * b2n l.poison + 32 * b2n l.pinned + 64 * b2n l.fromSide) ++ leBytes 8 l.version
    ++ leBytes 1 l.hostx ++ leBytes 1 l.port.val ++ leBytes 2 l.gen.toNat ++ leBytes 2 (l.mr.getD 0xFFFF) ++ List.replicate 42 0

/-- The tag section: every line's tag in data order. -/
def tagSection (v : VaultImage) : List Byte := (v.lines.map tagBytes).flatten

/-- The OEM part of the erased-page map (R422): 264,192 bits, die by die, plane by plane, block by block (DESIGN CHOICE, log 20). -/
def oemMapBytes (l : List PageAddr) : List Byte :=
  let bits := l.map (fun a => ((a.die.val * 4 + a.plane.val) * 86 + (a.block - 89)) * 384 + a.page)
  (List.range 33024).map (fun i => BitVec.ofNat 8 (maskOf 8 (fun j => bits.contains (8 * i + j))))

/-- An entry of the host table (spec 12, R395): 32 bytes; entries 0 and 1 are the ports' own, and byte 16 the port, of another entry that
of the write that made it. -/
def hostEntryBytes (l : List (Nat × BitVec 128 × PortId)) (i : Nat) : List Byte :=
  let e := (assocGet i l).getD (0, if i = 1 then 1 else 0)
  leBytes 16 e.1.toNat ++ leBytes 1 e.2.val ++ List.replicate 15 0

/-- The host table: 256 entries. -/
def hostTableBytes (l : List (Nat × BitVec 128 × PortId)) : List Byte := (List.range 256).flatMap (hostEntryBytes l)

/-- The metadata section, in the order of Table 14.5. -/
def metaSection (s : State) (v : VaultImage) : List Byte :=
  journalRun s s.mule.journalSeq (v.unwritten.reverse ++ v.records.map .band) ++ (v.events.map (·.2)).flatten
    ++ oemMapBytes v.oemMap ++ hostTableBytes v.hosts

/-- The bytes of the metadata section. -/
def metaSize (v : VaultImage) : Nat :=
  64 * (v.unwritten.length + v.records.length) + (v.events.map (fun e => e.2.length)).sum + 33024 + 8192

/-- Steps of data, tags and metadata (Table 14.5). -/
def dataSteps (v : VaultImage) : Nat := ceilDiv v.lines.length 32
/-- See `dataSteps`. -/
def tagSteps (v : VaultImage) : Nat := ceilDiv v.lines.length 2048
/-- See `dataSteps`. -/
def metaSteps (v : VaultImage) : Nat := ceilDiv (metaSize v) (7 * 16384)

/-- The band list: the zone-table record index of every listed band, 3 bytes each. -/
def bandList (s : State) (v : VaultImage) : List Byte := (v.bands.map (fun k => leBytes 3 (recordIndex s k))).flatten

/-- The header or commit record (Table 14.6) and the band list. -/
def vaultRecord (s : State) (i : Fin 2) (v : VaultImage) (commit : Bool) : List Byte :=
  let body := leBytes 2 1 ++ leBytes 1 i.val ++ leBytes 1 (b2n v.byPwrdis) ++ leBytes 8 v.seq ++ leBytes 4 v.cycle ++ leBytes 4 v.powerOn
    ++ leBytes 4 v.lines.length ++ leBytes 4 v.bands.length ++ leBytes 1 v.cacheReq.code ++ leBytes 3 0
    ++ (if commit then leBytes 4 (dataSteps v) ++ leBytes 4 (tagSteps v) ++ leBytes 4 (metaSteps v)
          ++ leBytes 4 (crc32 (tagSection v)).toNat ++ leBytes 4 (crc32 (metaSection s v)).toNat
        else List.replicate 20 0)
    ++ List.replicate 72 0
  body ++ leBytes 4 (crc32 (body ++ bandList s v)).toNat ++ bandList s v

/-- KIND and the data of the eight pages of the `k`-th step of a vault (R425). -/
def vaultStepData (s : State) (i : Fin 2) (v : VaultImage) (k : Nat) : Nat × List (List Byte) :=
  let d := dataSteps v
  let t := tagSteps v
  if k = 0 then (0x01, parityStep (vaultRecord s i v false))
  else if k ≤ d then
    (0x02, (List.range 8).map (fun p =>
      pageFill ((((v.lines.drop (32 * (k - 1) + 4 * p)).take 4).map (fun l => blockBytes l.data)).flatten)))
  else if k ≤ d + t then
    (0x03, (List.range 8).map (fun p =>
      pageFill ((((v.lines.drop (2048 * (k - d - 1) + 256 * p)).take 256).map tagBytes).flatten)))
  else if k ≤ d + t + metaSteps v then (0x04, parityStep ((metaSection s v).drop (7 * 16384 * (k - d - t - 1))))
  else (0x05, parityStep (vaultRecord s i v true))

end Sys2Proof.Machine
end

