-- ==== Sys2Proof/Machine/Store.lean ====
section
/-! DEFINITION. The Mule (spec 14): page addresses, the erased-page map, bad blocks and remapping, the work of a die, the
journal and its checkpoints, vault regions, the vault image and its replay. -/

namespace Sys2Proof.Machine

/-! ## Partitions and addresses -/

/-- The code of a partition (Table 14.3). -/
def partCode : Partition → Nat
  | .system => 0x01 | .vault0 => 0x10 | .vault1 => 0x11 | .slotA => 0x20 | .slotB => 0x21 | .journal => 0x30
  | .eventLog => 0x40 | .calStore => 0x50 | .oem => 0x60 | .pool => 0x00

/-- The first block of a partition in every plane, in the order of Table 14.3 (DESIGN CHOICE, log 20), and its stripes. -/
def partBase : Partition → Nat × Nat
  | .system => (0, 2) | .vault0 => (2, 6) | .vault1 => (8, 6) | .slotA => (14, 2) | .slotB => (16, 2)
  | .journal => (18, 43) | .eventLog => (61, 22) | .calStore => (83, 6) | .oem => (89, 86) | .pool => (175, 689)

/-- The partition of a vault region. -/
def regionPart (i : Fin 2) : Partition := if i = 0 then .vault0 else .vault1
/-- The partition of a firmware slot. -/
def slotPart (i : Fin 2) : Partition := if i = 0 then .slotA else .slotB

/-- The block that holds a logical block of a plane (R418). -/
def mappedBlock (d : Die) (plane : Fin 4) (logical : Nat) : Nat :=
  (((d.remap.filter (fun r => r.1 = plane && r.2.1 = logical)).getLast?).map (·.2.2)).getD logical

/-- The logical block that a block of a plane now holds. -/
def logicalOf (d : Die) (plane : Fin 4) (b : Nat) : Nat :=
  ((d.remap.filter (fun r => r.1 = plane)).find? (fun r => r.2.2 = b && mappedBlock d plane r.2.1 = b)).elim b (·.2.1)

/-- The page at logical page index `i` of a partition: 8 pages a step, pages 0 to 3 of a step on die 0 (R412, R425). -/
def pageOf (s : State) (who : Partition) (i : Nat) : PageAddr :=
  let pos := i % 8
  let die : Fin 2 := if pos < 4 then 0 else 1
  let plane : Fin 4 := Fin.ofNat 4 pos
  ⟨die, plane, mappedBlock s.mule.dies[die] plane ((partBase who).1 + i / 3072), i % 3072 / 8⟩

/-- The page of an OEM block (R433): raw block `b` is block `b mod 8` of stripe `b div 8` (DESIGN CHOICE, log 20). -/
def oemPageAddr (s : State) (b p : Nat) : PageAddr := pageOf s .oem (b / 8 * 3072 + p * 8 + b % 8)

/-- A die replaced by its image. -/
def modDie (d : Fin 2) (f : Die → Die) (s : State) : State := { s with mule.dies := upd s.mule.dies d f }

/-- A page's bit of the erased-page map (R421). -/
def isErased (s : State) (a : PageAddr) : Bool := s.mule.dies[a.die].erased.contains (a.plane, a.block, a.page)

/-- The bits of a block set by a successful erase (R421), and its stored pages gone. -/
def eraseBlock (die : Fin 2) (plane : Fin 4) (b : Nat) (s : State) : State :=
  modDie die (fun d => { d with
    erased := d.erased.filter (fun e => !(e.1 = plane && e.2.1 = b)) ++ (List.range 384).map (fun p => (plane, b, p))
    pages := d.pages.filter (fun e => !(e.1.1 = plane && e.1.2.1 = b)) }) s

/-- A page's bit cleared before its first pulse (R421). -/
def clearErased (a : PageAddr) (s : State) : State :=
  modDie a.die (fun d => { d with erased := d.erased.filter (· ≠ (a.plane, a.block, a.page)) }) s

/-- A page stored. -/
def storePage (a : PageAddr) (p : NandPage) (s : State) : State :=
  modDie a.die (fun d => { d with pages := assocSet (a.plane, a.block, a.page) p d.pages }) s

/-- Pages stored at the addresses of their logical pages. -/
def storePages (who : Partition) (l : List NandPage) (s : State) : State :=
  l.foldl (fun s p => storePage (pageOf s who p.lpage) p s) s

/-- The bits of a block cleared: it is being erased, or its erase has not ended (R432). -/
def clearBlock (die : Fin 2) (plane : Fin 4) (b : Nat) (s : State) : State :=
  modDie die (fun d => { d with erased := d.erased.filter (fun e => !(e.1 = plane && e.2.1 = b)) }) s

/-- The four blocks of a stripe that a die erases at once. -/
def eraseStripe (die : Fin 2) (a : PageAddr) (s : State) : State :=
  let l := logicalOf s.mule.dies[die] a.plane a.block
  ([0, 1, 2, 3] : List (Fin 4)).foldl (fun s p => eraseBlock die p (mappedBlock s.mule.dies[die] p l) s) s

/-- The pages of a partition. -/
def partPages (who : Partition) : Nat := 3072 * (partBase who).2

/-- The pages of a partition programmed so far, one behind the other. -/
def pagesWritten (s : State) (who : Partition) : Nat := (assocGet who s.mule.written).getD 0

/-- The next page begins a stripe that has been written before. -/
def comesRound (s : State) (who : Partition) : Bool := partPages who ≤ pagesWritten s who && pagesWritten s who % 3072 = 0

/-- The next page of a partition that is written in ascending order, its last SEQ being the number of pages so far (R413, R422): of
CAL_STORE, EVENT_LOG and a firmware slot (in one step with what is written: DESIGN CHOICE, log 20). A stripe that comes round again is
erased first (spec 17, R487; of CAL_STORE DESIGN CHOICE, log 20). -/
def programNext (who : Partition) (kind : Nat) (owner data : List Byte) (s : State) : State :=
  let n := pagesWritten s who
  let a := pageOf s who (n % partPages who)
  let s := if comesRound s who then eraseStripe 1 { a with die := 1 } (eraseStripe 0 { a with die := 0 } s) else s
  storePage a ⟨partCode who, kind, n + 1, n % partPages who, owner, data⟩
    (clearErased a { s with mule.written := assocSet who (n + 1) s.mule.written })

/-- The data of a page, if programmed. -/
def pageData (s : State) (a : PageAddr) : Option (List Byte) :=
  (assocGet (a.plane, a.block, a.page) s.mule.dies[a.die].pages).map (·.data)

/-- The records that a page of EVENT_LOG holds. -/
def recordsIn (data : List Byte) : Nat := (records data 32).countP (fun r => fieldU r 31 1 = 0xA5)

/-- The records in the stripe that the next page of EVENT_LOG begins. -/
def oldestStripe (s : State) : Nat :=
  ((List.range 3072).map (fun i =>
    ((pageData s (pageOf s .eventLog (pagesWritten s .eventLog % partPages .eventLog + i))).map recordsIn).getD 0)).sum

/-- A full EVENT_LOG loses its oldest stripe (spec 17, R487): the records in it can be read no more. -/
def makeRoom (s : State) : State :=
  if comesRound s .eventLog then { s with evr.log := s.evr.log.take (s.evr.log.length - oldestStripe s) } else s

/-- The pages of EVENT_LOG that records are programmed in (spec 17, R487): 512 records of 32 bytes to a page (spec 14, R413). -/
def logPages (l : List EventRec) (s : State) : State :=
  (List.range (ceilDiv l.length 512)).foldl (fun s i =>
    programNext .eventLog 0 [] (pageFill (((l.drop (512 * i)).take 512).flatMap recordBytes)) (makeRoom s)) s

/-- A changed value of a persistent object: programmed into CAL_STORE (R416) and recorded with its source (spec 15, R441). -/
def persistValue (index sub : Nat) (v : List Byte) (src : Nat) (s : State) : State :=
  objectChanged index sub v.length src (programNext .calStore 0 [] (Config.calPage index sub v) s)

/-- The three objects of the owner lock changed (spec 15, R441, R461). -/
def lockChanged (src : Nat) (s : State) : State :=
  let l := s.mgmt.lock
  persistValue 0x1011 3 (leBytes 16 (l.elim 0 (·.2.toNat))) src
    (persistValue 0x1011 2 [BitVec.ofNat 8 (l.elim 255 (fun x => pathCode x.1))] src (persistValue 0x1011 1 [BitVec.ofNat 8 (b2n l.isSome)] src s))

/-! ## SYSTEM (R415) -/

/-- The tables and the slot record as they stand, with the next SEQ. -/
def systemNow (s : State) : SystemCopy :=
  ⟨(s.mule.system.head?.elim 0 (·.seq)) + 1, s.mule.dies.map (·.bad), s.mule.dies.map (·.remap), s.mule.dies.map (·.poolNext), s.fw.active,
    s.fw.next, s.fw.source, s.fw.slots⟩

/-- The numbers of a slot entry. -/
def fwSlotNumbers (x : Slot) : List Nat :=
  [x.state, x.leaseMark, x.imageId, x.version, x.length, b2n x.resetOnly, leNat x.fr, x.vaultFormat, x.dictVersion]

/-- The numbers of a copy of SYSTEM, from which its page is made. -/
def systemNumbers (c : SystemCopy) : List Nat :=
  [c.active.val, c.next.elim 255 (·.val), c.source.elim 65535 pathCode] ++ c.slots.toList.flatMap fwSlotNumbers ++ c.bad.toList.flatten.flatMap (fun b => [b.1.val, b.2.1, b2n b.2.2]) ++ c.remap.toList.flatten.flatMap (fun r => [r.1.val, r.2.1, r.2.2])

/-- The page of SYSTEM on a die that takes the copy of a SEQ: the pages of its eight system blocks in turn, a block that comes round again
being erased first (DESIGN CHOICE, log 20). -/
def systemPage (die : Fin 2) (seq : Nat) : PageAddr := ⟨die, Fin.ofNat 4 (seq / 768), seq / 384 % 2, seq % 384⟩

/-- The partition table, a bad-block table or the slot record is updated: a new copy is programmed on each die (R415), in one step with the
update (DESIGN CHOICE, log 20). -/
def updateSystem (s : State) : State :=
  let c := systemNow s
  let page : NandPage := ⟨partCode .system, 0, c.seq, c.seq % 3072, [], Config.systemPage (systemNumbers c)⟩
  ([0, 1] : List (Fin 2)).foldl (fun s d =>
    let a := systemPage d c.seq
    let s := if 3072 ≤ c.seq && a.page = 0 then eraseBlock d a.plane a.block s else s
    storePage a page (clearErased a s)) { s with mule.system := capped 2688 (c :: s.mule.system) }

/-- The tables and the slot record of a copy of SYSTEM come into force (R415); the image that runs is the one that was booted. -/
def takeSystem (c : SystemCopy) (s : State) : State :=
  let s := { s with fw.slots := c.slots, fw.next := c.next, fw.source := c.source,
                    fw.header := c.source.bind (fun _ => s.fw.header), fw.sealing := s.fw.sealing && c.source.isSome }
  ([0, 1] : List (Fin 2)).foldl (fun s d => modDie d (fun x => { x with bad := c.bad[d], remap := c.remap[d], poolNext := c.poolNext[d] }) s) s

/-- The slot record (spec 16, Table 16.3). -/
def slotRecord (f : Fw) : Fin 2 × Option (Fin 2) × Option Path × Vector Slot 2 := (f.active, f.next, f.source, f.slots)

/-- A change of the slot record is an update of SYSTEM (R415; spec 16, R473). -/
def recordSlots (before : Fw) (s : State) : State := if slotRecord before = slotRecord s.fw then s else updateSystem s

/-! ## The erased-page map at MOUNT (R422) -/

/-- One more than the last page of a block that carries a page header; 0 if none does. -/
def lastPage (d : Die) (plane : Fin 4) (b : Nat) : Nat :=
  ((d.pages.filter (fun e => e.1.1 = plane && e.1.2.1 = b)).map (fun e => e.1.2.2 + 1)).foldl max 0

/-- The bits of every partition but OEM, from the last page with a header: of each block, so that a partition that has come round is read
alike (DEDUCED, log 20). A block of the pool has bits once it replaces another. -/
def derivedBits (d : Die) : List (Fin 4 × Nat × Nat) :=
  ([0, 1, 2, 3] : List (Fin 4)).flatMap (fun p => (List.range 89).flatMap (fun l =>
    let b := mappedBlock d p l
    ((List.range 384).drop (lastPage d p b)).map (fun i => (p, b, i))))

/-- The OEM part of a die's map, by the logical blocks that the partition table assigns to OEM. -/
def oemBits (die : Fin 2) (d : Die) : List PageAddr :=
  (d.erased.map (fun e => (⟨die, e.1, logicalOf d e.1 e.2.1, e.2.2⟩ : PageAddr))).filter (fun a => 89 ≤ a.block && a.block < 175)

/-- The OEM part of the map. -/
def oemMap (s : State) : List PageAddr := oemBits 0 s.mule.dies[0] ++ oemBits 1 s.mule.dies[1]

/-- A die's map from its derived part and a saved OEM part. -/
def loadBits (die : Fin 2) (saved : List PageAddr) (d : Die) : Die :=
  { d with erased := derivedBits d ++ (saved.filter (fun a => a.die = die)).map (fun a => (a.plane, mappedBlock d a.plane a.block, a.page)) }

/-! ## Bad blocks (R418) -/

/-- Good blocks of a die (GOOD_BLOCKS). -/
def goodBlocks (s : State) (d : Fin 2) : Nat := 3456 - (s.mule.dies[d].bad.map (fun b => (b.1, b.2.1))).eraseDups.length

/-- The next good pool block of a plane, from `b` on. -/
def nextPool (d : Die) (plane : Fin 4) (b : Nat) : Nat :=
  (firstFrom (fun x => !d.bad.any (fun e => e.1 = plane && e.2.1 = x)) 864 b).getD b

/-- A block grown bad (R418): its valid pages copied, its logical block remapped to a pool block, the events recorded.
Answers the replacement. -/
def growBad (die : Fin 2) (plane : Fin 4) (b : Nat) (s : State) : Nat × State :=
  let d := s.mule.dies[die]
  let new := nextPool d plane d.poolNext
  let s := modDie die (fun d => { d with
    bad := d.bad ++ [(plane, b, true)]
    remap := d.remap ++ [(plane, logicalOf d plane b, new)]
    poolNext := new + 1
    pages := d.pages.map (fun e => if e.1.1 = plane && e.1.2.1 = b then ((plane, new, e.1.2.2), e.2) else e)
    erased := d.erased.map (fun e => if e.1 = plane && e.2.1 = b then (plane, new, e.2.2) else e) }) s
  let s := raise (event 0xB002 2 srcController (die.val + plane.val * 256) b) (updateSystem s)
  (new, if goodBlocks s die < 3300 then raise (event 0xB003 3 srcController die.val (goodBlocks s die)) s else s)

/-! ## The journal (R430) -/

/-- The newest image of a band among journal records, newest first, or in the checkpoint. -/
def imageIn (s : State) (l : List JournalRec) (k : BandKey) : Option BandRec :=
  match l.filterMap (fun r => match r with | .band b => if b.key = k then some b else none | _ => none) with
  | b :: _ => some b
  | [] => s.mule.checkpoint.find? (fun b => b.key = k)

/-- The band record that the journal, its buffers included, and the checkpoint hold. -/
def journaled (s : State) (k : BandKey) : Option BandRec :=
  imageIn s (s.mule.journalBuf ++ s.mule.journalFlight ++ s.mule.journal) k

/-- The words of a conventional band's part of the written-extent bitmap that differ from those journaled. -/
def changedWords (old : Option BandRec) (b : BandRec) : List JournalRec :=
  if b.shingled then []
  else (allWords.filter (fun w => b.extents.extractLsb' (256 * w.val) 256 ≠ (old.elim 0 (·.extents)).extractLsb' (256 * w.val) 256)).map
    (fun w => .bitmap b.key w (b.extents.extractLsb' (256 * w.val) 256))

/-- Images of the bands whose record differs from the journaled one, and their changed bitmap words, enter the page buffer (DESIGN CHOICE,
log 20: when a page is programmed). -/
def gatherImages (s : State) : State :=
  let changed := s.sub.bands.filter (fun b => journaled s b.key ≠ some b)
  { s with mule.journalBuf := changed.flatMap (fun b => changedWords (journaled s b.key) b) ++ changed.map .band ++ s.mule.journalBuf }

/-- The pages of JOURNAL, which is circular: 43 stripes of 3,072. -/
def journalLength : Nat := 132096

/-- The journal page that takes the flight: its records, the oldest first (R413, R430). -/
def journalPage (s : State) : NandPage :=
  ⟨partCode .journal, 0, s.mule.journalPages + 1, s.mule.journalSeq / 256 % journalLength, [],
    pageFill (journalRun s s.mule.journalSeq s.mule.journalFlight.reverse)⟩

/-- The page buffer starts to be programmed, if its die is idle and the page erased: the oldest 256 records at most (R421, R430). -/
def startJournal (s : State) : State :=
  let a := pageOf s .journal (s.mule.journalSeq / 256 % journalLength)
  let g := gatherImages s
  let buf := g.mule.journalBuf
  if (s.mule.dies[a.die].op).isSome || s.mule.journalFlight ≠ [] || buf = [] || !isErased s a then s
  else
    let s := { clearErased a g with mule.journalFlight := buf.drop (buf.length - 256), mule.journalBuf := buf.take (buf.length - 256) }
    modDie a.die (fun d => { d with op := some (.program .journal a [journalPage s]) }) s

/-- The blocks that supersede records name. -/
def superseding (l : List JournalRec) : List BlockKey :=
  l.filterMap (fun r => match r with | .supersede b => some b | _ => none)

/-- The journal page is programmed: its records stand, and the blocks of its supersede records may be superseded (R429). -/
def journalLands (s : State) : State :=
  let l := s.mule.journalFlight
  let blocks := superseding l
  { s with
    mule.journal := l ++ s.mule.journal, mule.journalFlight := []
    mule.journalSeq := s.mule.journalSeq + 256 * ceilDiv l.length 256
    mule.journalPages := s.mule.journalPages + 1
    mule.sinceCkpt := s.mule.sinceCkpt + l.length
    mule.superseded := s.mule.superseded ++ blocks.filter (fun b => !s.mule.superseded.contains b)
    mule.superWait := s.mule.superWait.filter (fun x => !blocks.contains x.1) }

/-- A checkpoint: an image of the band records, bracketed by its records; older journal records are no longer needed, and their stripes
are erased once they are older than the older of the two newest checkpoints (R430). -/
def takeCheckpoint (s : State) : State :=
  { s with mule.checkpoint := s.sub.bands, mule.journal := [], mule.sinceCkpt := 0, mule.ckptNs := s.clock.ns,
           mule.ckptSeq := s.mule.ckptSeq + 1
           mule.journalBuf := .checkpoint true (s.mule.ckptSeq + 1) :: .checkpoint false (s.mule.ckptSeq + 1) :: s.mule.journalBuf
           mule.ckptMarks := (s.mule.ckptMarks.2, s.mule.journalSeq / 256) }

/-! ## Vault regions (R424) -/

/-- A region replaced by its image. -/
def modRegion (i : Fin 2) (f : Region → Region) (s : State) : State := { s with mule.regions := upd s.mule.regions i f }

/-- The erase of a region begins: 6 stripes on each die. -/
def eraseRegion (i : Fin 2) (s : State) : State :=
  modRegion i (fun r => { r with state := .erasing, image := none, marker := false, erased := .replicate 2 0, steps := 0 }) s

/-- Every block of a region erased, with the bits of its pages (spec 14, R421, R424). -/
def eraseWhole (i : Fin 2) (s : State) : State :=
  (List.range 6).foldl (fun s k =>
    ([0, 1] : List (Fin 2)).foldl (fun s d => eraseStripe d (pageOf s (regionPart i) (k * 3072 + d.val * 4)) s) s) s

/-- A region that has been replayed is erased once no line replayed from it is DIRTY (R429). -/
def releaseRegions (s : State) : State :=
  if s.cache.lines.any (fun l => l.replayed && (l.state = .dirty || l.state = .held)) then s
  else [0, 1].foldl (fun s (i : Fin 2) =>
    if s.mule.regions[i].state = .replayed && s.power.phase ≠ .replay then eraseRegion i { s with mule.superseded := [] } else s) s

/-- An idle die takes the erase of a region's next stripe, of the firmware slot's (R424, R434), or of the journal's (R430). -/
def startErase (die : Fin 2) (s : State) : State :=
  let busy := (s.mule.dies[die].op).isSome
  let want := ([0, 1] : List (Fin 2)).find? (fun i => s.mule.regions[i].state = .erasing && s.mule.regions[i].erased[die] < 6)
  if busy then s
  else match want with
  | some i =>
    let a := pageOf s (regionPart i) (s.mule.regions[i].erased[die] * 3072 + die.val * 4)
    modDie die (fun d => { d with op := some (.erase (regionPart i) a) }) s
  | none =>
    if 0 < s.fw.eraseLeft[die] then
      let lamb : Fin 2 := 1 - s.fw.active
      let a := pageOf s (slotPart lamb) ((2 - s.fw.eraseLeft[die]) * 3072 + die.val * 4)
      modDie die (fun d => { d with op := some (.erase (slotPart lamb) a) }) s
    else if s.mule.journalErased[die] < s.mule.ckptMarks.1 / 3072 then
      let a := pageOf s .journal (s.mule.journalErased[die] % 43 * 3072 + die.val * 4)
      modDie die (fun d => { d with op := some (.erase .journal a) }) s
    else s

/-- Idle dies take the work that waits: supersede records at once and a full page buffer, then erases. -/
def kickDies (s : State) : State :=
  if s.power.vault ≠ .none || !s.power.running then s
  else
    let s := if s.mule.superWait ≠ [] || 256 ≤ s.mule.journalBuf.length then startJournal s else s
    startErase 1 (startErase 0 s)

/-! ## The vault (R425, R426) -/

/-- The lines that a vault takes. -/
def vaultLines (s : State) : List Line := s.cache.lines.filter (fun l => l.state = .dirty || l.state = .held)

/-- The vault of a region, without its commit record. -/
def vaultImage (s : State) : VaultImage :=
  let l := vaultLines s
  let changed := s.sub.bands.filter (fun b => imageIn s s.mule.journal b.key ≠ some b)
  ⟨s.mule.vaultSeq + 1, s.power.vaultByPwrdis, s.clock.cycles, powerOn s, l, (l.filterMap (bandOf s)).eraseDups,
    s.cache.requested, changed, changed.flatMap (fun b => changedWords (imageIn s s.mule.journal b.key) b) ++ s.mule.journalBuf ++ s.mule.journalFlight,
    (unmirrored s.evr).reverse.map (fun r => (r.seq, recordBytes r)),
    oemMap s, s.sub.hosts, s.power.vaultUnsafe, false, false⟩

/-- The steps of a vault (Table 14.5). -/
def vaultStepsOf (v : VaultImage) : Nat := 2 + dataSteps v + tagSteps v + metaSteps v

/-- The bits of the eight pages of a step cleared before its first pulse (R421). -/
def clearStep (who : Partition) (step : Nat) (s : State) : State :=
  (List.range 8).foldl (fun s i => clearErased (pageOf s who (8 * step + i)) s) s

/-- The pages of a vault step at the present position, whose SEQ is the vault's (R413, R425; DEDUCED, log 20). -/
def vaultPages (s : State) (i : Fin 2) : List NandPage :=
  match s.mule.regions[i].image with
  | none => []
  | some v =>
    let x := vaultStepData s i v s.mule.vaultDone
    x.2.zipIdx.map (fun e => ⟨partCode (regionPart i), x.1, v.seq, 8 * s.mule.vaultStep + e.2, [], e.1⟩)

/-- A vault step starts on both dies. -/
def startVaultStep (i : Fin 2) (s : State) : State :=
  let s := clearStep (regionPart i) s.mule.vaultStep { s with mule.vaultFail := false }
  let a := pageOf s (regionPart i) (8 * s.mule.vaultStep)
  let b := pageOf s (regionPart i) (8 * s.mule.vaultStep + 4)
  let l := vaultPages s i
  modDie 1 (fun d => { d with op := some (.program (regionPart i) b (l.drop 4)) })
    (modDie 0 (fun d => { d with op := some (.program (regionPart i) a (l.take 4)) }) s)

/-- The region that a vault goes to. -/
def vaultRegion (s : State) : Option (Fin 2) :=
  if s.mule.broken then none else ([0, 1] : List (Fin 2)).find? (fun i => s.mule.regions[i].state = .erased)

/-- An erase in progress when a vault begins is not resumed (R432): the bits of its blocks stay clear. -/
def loseErase (die : Fin 2) (s : State) : State :=
  match s.mule.dies[die].op with
  | some (.erase .oem a) => clearBlock die a.plane a.block s
  | some (.erase _ a) =>
    let l := logicalOf s.mule.dies[die] a.plane a.block
    ([0, 1, 2, 3] : List (Fin 4)).foldl (fun s p => clearBlock die p (mappedBlock s.mule.dies[die] p l) s) s
  | _ => s

/-- Vault programming begins (R425); a running erase is suspended and not resumed, and its region UNKNOWN (R432). With no
region to go to, no vault is written. -/
def startVault (s : State) : State :=
  let s := loseErase 1 (loseErase 0 s)
  let stop := fun (s : State) (i : Fin 2) =>
    if s.mule.regions[i].state = .erasing then modRegion i (fun r => { r with state := .unknown, image := none, marker := false }) s else s
  let s := stop (stop s 0) 1
  match vaultRegion s with
  | none => { s with power.vault := .noVault }
  | some i =>
    let v := vaultImage s
    let s := modRegion i (fun r => { r with state := .written, image := some v, marker := false, steps := 0 }) s
    startVaultStep i { s with
      power.vault := .programming, mule.vaultSeq := v.seq, mule.lastLines := v.lines.length
      mule.vaultStep := 0, mule.vaultDone := 0, mule.vaultSteps := vaultStepsOf v }

/-- The region of the vault being written. -/
def writingRegion (s : State) : Option (Fin 2) :=
  ([0, 1] : List (Fin 2)).find? (fun i => s.mule.regions[i].state = .written && s.mule.regions[i].image.any (fun v => v.seq = s.mule.vaultSeq))

/-- The programs of a step have ended on both dies (R425, R426): it stands, or is written again at the next position if a page
failed (R419). The header stands with the first; the next step follows, or the commit record stands and the controller is vaulted. -/
def vaultStepDone (s : State) : State :=
  if (s.mule.dies[0].op).isSome || (s.mule.dies[1].op).isSome then s
  else match writingRegion s with
  | none => s
  | some i =>
    let k := s.mule.vaultStep + 1
    let done := s.mule.vaultDone + b2n (!s.mule.vaultFail)
    let last := s.mule.vaultSteps ≤ done
    let s := modRegion i (fun r => { r with
      image := r.image.map (fun v => { v with headerOk := 0 < done, committed := last }), steps := k })
      { s with mule.vaultStep := k, mule.vaultDone := done }
    if last then { s with power.vault := .vaulted, mule.lastVaultUs := (s.clock.ns - s.power.vaultAt) / 1000 }
    else startVaultStep i s

end Sys2Proof.Machine
end

