-- ==== Sys2Proof/Machine/Drive.lean ====
section
/-! DEFINITION. The drive as a whole: unloading and loading of actuators (spec 03, R90), the phases from SPIN_WAIT to READY
(spec 03, R87 to R93), the hold-up check (spec 02, R77; spec 03, R89), drive restart (spec 13, R399), STANDBY (spec 10,
R310; spec 03, R101), shutdown (spec 10, R311) and the change of set speed (spec 01, R40). -/

namespace Sys2Proof.Machine

/-! ## Actuators -/

/-- The media read of a channel stops; what is left of it goes back to its bin. -/
def stopRead (n : ChanId) (s : State) : State :=
  match (s.rwc n).op with
  | none => s
  | some o => refile (o.rest (s.rwc n).nextSector) (unplace n (s.modRwc n (fun r => { r with op := none, nextSector := 0, stopRead := false, powerA := false, powerB := false })))

/-- The media read of a channel ends at its sector boundary: at the end of the sector that is under the head, or at once. -/
def finishRead (n : ChanId) (inSector : Bool) (s : State) : State :=
  if (s.rwc n).op.isNone then s
  else if inSector then s.modRwc n (fun r => { r with stopRead := true })
  else stopRead n (modeFrame n 14 s)

/-! ## Ends of calibration runs (spec 09, R275) -/

/-- The code of a calibration kind (spec 09, Table 9.6). -/
def calCode : CalKind → Nat
  | .fe => 1 | .align => 2 | .eq => 3 | .sync => 4 | .servo => 5 | .assist => 6

/-- HEAD_CAL of a head replaced by its image. -/
def modHeadCal (h : HeadId) (f : HeadCal → HeadCal) (s : State) : State := { s with cal.heads := upd s.cal.heads h f }

/-- The result of a run recorded (R275, R287): in HEAD_CAL, in CAL_RUNS and CAL_ABANDONS, and by the event recorder. -/
def recordResult (h : HeadId) (k : CalKind) (track code : Nat) (s : State) : State :=
  let n := chanOf h
  let s := modHeadCal h (fun c => { c with results := c.results.set (Fin.ofNat 6 (calCode k - 1)) code }) s
  raise (event 0xD005 (b2n (code = 2)) srcController (calCode k + code * 256) track 2 h.val) { s with
    cal.runs := upd s.cal.runs n (· + 1)
    cal.abandons := if code = 2 then upd s.cal.abandons n (· + 1) else s.cal.abandons }

/-- A media operation of a calibration run. -/
def isCalOp (o : MediaOp) : Bool := match o.kind with | .calibration _ => true | _ => false

/-- The media work of the run on channel `n` is withdrawn. -/
def dropCalOps (n : ChanId) (s : State) : State :=
  let s := if (s.wr n).run.any (fun r => isCalOp r.op) then endRun n false s else s
  let s := if (s.rwc n).op.any isCalOp then unplace n (s.modRwc n (fun r => { r with op := none, nextSector := 0, stopRead := false, powerA := false, powerB := false })) else s
  let s := { s with sched.queue := s.sched.queue.filter (fun o => !(isCalOp o && chanOf o.band.head = n)) }
  if s.sched.placed[n].any isCalOp then unplace n s else s

/-- The run on channel `n` ends without a result of its own: deferred (4), its request standing, or stopped (5), its request gone
(R275). A verification read is made again. -/
def breakRun (code : Nat) (n : ChanId) (s : State) : State :=
  match s.cal.running[n] with
  | none => s
  | some r =>
    let s := dropCalOps n { s with cal.running := s.cal.running.set n none }
    match r.kind with
    | none => s
    | some k =>
      let s := recordResult r.head k r.track.val code s
      if code = 5 then { s with cal.requests := s.cal.requests.filter (fun q => !(q.kind = k && q.head = r.head)) } else s

/-- A vault trigger, a retirement, or the tick leaving LOCKED and SUBSTITUTE stops the run of a channel. -/
def stopRun (n : ChanId) (s : State) : State := breakRun 5 n s

/-- An EQ run in progress ends as stopped (R275), its request gone. -/
def stopEq (e : EqRun) (s : State) : State :=
  recordResult e.head .eq 0 5 { s with
    cal.eqRuns := s.cal.eqRuns.filter (fun x => !(x.head = e.head && x.zone = e.zone))
    cal.requests := s.cal.requests.filter (fun q => !(q.kind = .eq && q.head = e.head && q.zone = e.zone)) }

/-- The EQ runs of some heads end as stopped. -/
def stopEqs (p : HeadId → Bool) (s : State) : State := (s.cal.eqRuns.filter (fun e => p e.head)).foldl (fun s e => stopEq e s) s

/-- The SYNC run asked for ends as stopped (R275): under the head that asked for it. -/
def stopSync (s : State) : State :=
  match s.cal.requests.find? (fun q => q.kind = .sync) with
  | none => s
  | some q => recordResult q.head .sync 0 5 { s with cal.requests := s.cal.requests.filter (fun q => q.kind ≠ .sync) }

/-- Every calibration run in progress ends as stopped (R275): on the tracks of all actuators, on the equalisers, of the sync marks. -/
def stopRuns (s : State) : State := stopSync (stopEqs (fun _ => true) (allChans.foldl (fun s n => stopRun n s) s))

/-- Channel `n` leaves the media: its work stops, its preamplifier sleeps (spec 08, Table 8.3), it is unloaded. -/
def parkChannel (n : ChanId) (s : State) : State :=
  let s := breakRun 4 n s
  let s := if (s.wr n).request then abortSector false n s else s
  let s := modeFrame n 16 (stopRead n (endRun n true s))
  let s := match s.sched.placed[n] with | none => s | some o => refile o (unplace n s)
  s.modChan n (fun c => { c with
    load := .unloaded
    sdm := { c.sdm with onTrack := false, reacq := false, reacqField := none, goodRun := 0, validRun := 0, intervals := [], sinceSam := none, kappa := none, lastTick := none }
    ce := { c.ce with busy := none, flockOut := none, moving := false, moveNew := false, settleCount := 0 }
    rwc := { c.rwc with powerA := false, powerB := false }
    wr := { c.wr with request := false, armed := false, wg := false, wd := none, fifo := [], wroteIn := none, levelPending := none, assistReady := c.wr.assistReady && assistType s n = 0, warmFrom := none, withdrawAtEnd := false, sinceInside := 0 } })

/-- RETRACT for the channels `ns`, one frame on each link concerned, and the channels parked. -/
def unloadChans (ns : List ChanId) (s : State) : State :=
  let s := ([0, 1] : List LinkId).foldl (fun s k =>
    let on := ns.filter (fun n => linkOf n = k)
    if on = [] then s else sendRetract k on s) s
  ns.foldl (fun s n => parkChannel n s) s

/-- Every fitted actuator that is not unloaded is retracted. -/
def unloadAll (s : State) : State :=
  unloadChans (allChans.filter (fun n => chanFitted s n && !unloaded s n)) { s with loadQueue := [] }

/-- The load order of R90. -/
def loadOrder : List ChanId := [0, 4, 1, 5, 2, 6, 3, 7]

/-- The actuators in service wait for their load, in the order of R90. -/
def queueLoads (s : State) : State :=
  { s with loadQueue := loadOrder.filter (fun n => chanServes s n && unloaded s n) }

/-- One actuator waits for its load, unless it does already. -/
def queueLoad (n : ChanId) (s : State) : State :=
  if s.loadQueue.contains n || !unloaded s n || !chanServes s n then s else { s with loadQueue := s.loadQueue ++ [n] }

/-! ## Spindle -/

/-- SET_RPM becomes the set speed in force, every head being unloaded (spec 01, R40): the generator has not been LOCKED at it (R34),
and while STOPPED it ticks at its nominal period (Table 1.6). -/
def takeSpeed (s : State) : State :=
  let s := { s with tick.rpm := setRpm s, tick.wasLocked := false, tick.speedFault := false, tick.goodRevs := 0 }
  if s.tick.state = .stopped then { s with tick.revNs := nominalRev s } else s

/-- A ramp begins (spec 01, R34): no revolution of it is a speed fault until LOCKED at the set speed. -/
def startRamp (s : State) : State := { takeSpeed s with tick.ramp := true }

/-- A spin-up attempt: SPIN with command 1 (R87). -/
def spinUp (s : State) : State := startRamp (sendSpin 1 s)

/-- A spin-up attempt, or the ramp of a speed change, fails (R88; spec 01, R34): brake, and a second failure ends start-up with code
0x0501 or 0x0502. -/
def failSpinUp (combo : Bool) (s : State) : State :=
  let s := sendSpin 2 { s with power.attempts := s.power.attempts + 1, tick.ramp := false }
  if 2 ≤ s.power.attempts then failStart (if combo then 0x0502 else 0x0501) { s with power.braking := false }
  else { s with power.braking := true }

/-- Start-up repeats from SPIN_WAIT (R101, spec 13, R399): the stagger delay counts from now and the hold-up check runs
again, the cache write-through until it passes. -/
def restartFromSpinWait (s : State) : State :=
  let s := { s with
    power.staggerFrom := s.clock.ns, power.attempts := 0, power.braking := false, power.restarting := false, power.speedChange := .none
    power.holdupPassed := false, power.standbyPending := false, power.thermalStop := false }
  enterPhase .spinWait (modeAtBoundary s)

/-- A drive restart (spec 13, R399), counted in DRIVE_RESTARTS, unless one is under way. Before SPIN_WAIT start-up, which has still to come
to it, goes on (DEDUCED, log 45). -/
def driveRestart (s : State) : State :=
  if s.power.restarting || s.power.phase = .failed || s.power.phase = .recovery then s
  else
    let early := match s.power.phase with | .boot | .mount | .replay => true | _ => false
    let s := unloadAll { s with faults.driveRestarts := s.faults.driveRestarts + 1, power.speedChange := .none }
    sendSpin 2 (if early then s else { s with power.restarting := true, power.braking := true })

/-! ## Hold-up check -/

/-- HOLDTEST on ADL 0 (spec 02, R77). -/
def startHoldtest (s : State) : State :=
  sendFrame 0 (.holdtest (cfg s 0x7010 5)) { s with power.holdTesting := true }

/-- Energy that the store can deliver, in mJ (R77): `e` mJ took the store from `vs` to `ve` mV; the energy left from `vs` to
VAULT_VMIN times VAULT_EFF. -/
def holdupEnergyOf (s : State) (vs ve e : Nat) : Nat :=
  let vmin := cfg s 0x7010 1
  if vs * vs ≤ ve * ve || vs ≤ vmin then 0
  else e * (vs * vs - vmin * vmin) * cfg s 0x7010 2 / ((vs * vs - ve * ve) * 100)

/-- The estimated C of R77 in µF: 2 E / (Vs² - Ve²). -/
def holdupCapOf (vs ve e : Nat) : Nat := if vs * vs ≤ ve * ve then 0 else 2 * e * 1000000000 / (vs * vs - ve * ve)

/-- A hold-up check passes: write-back is allowed from the next tick boundary, the warning goes (R89). -/
def holdupPass (s : State) : State :=
  { s with power.holdupPassed := true, power.holdupEver := true, power.holdupWarn := false, power.holdTesting := false }

/-- A hold-up check fails (R89): code 0x0601, Critical Warning bit 4; a failed repeat after a pass also sets HOLDUP_RESULT and
has the DIRTY lines destaged with priority. -/
def holdupFail (s : State) : State :=
  let had := s.power.holdupPassed
  let s := driveFault .holdupFail 0 { s with power.holdupPassed := false, power.holdupWarn := true, power.holdTesting := false }
  let s := startFault 0x0601 s
  noteWarning (if had then destageFirst (dirtyBlocks s) (setFlag .holdupResult s) else s)

/-- The pass test of R77, exact: ½ C (Vs² - Vmin²) times the efficiency against the configured power times the configured time. -/
def holdupSuffices (s : State) (vs ve e : Nat) : Bool :=
  let vmin := cfg s 0x7010 1
  ve < vs && vmin ≤ vs
    && cfg s 0x7010 3 * cfg s 0x7010 4 * (vs * vs - ve * ve) ≤ e * (vs * vs - vmin * vmin) * cfg s 0x7010 2

/-- The result of a check (R77). -/
def holdupJudge (vs ve e : Nat) (s : State) : State :=
  let s := { s with power.holdupCap := holdupCapOf vs ve e, power.holdupEnergy := holdupEnergyOf s vs ve e }
  if holdupSuffices s vs ve e then
    (if s.power.holdupPassed then holdupPass s else setFlag .holdupResult (holdupPass s))
  else holdupFail s

/-! ## Phases from HEAD_LOAD to READY -/

/-- A controller is ready. -/
def anyReady (s : State) : Bool := allPorts.any (fun p => (s.port p).rdy)

/-- Every ready controller is in PS2 (spec 10, R310). -/
def allPs2 (s : State) : Bool := anyReady s && allPorts.all (fun p => !(s.port p).rdy || (s.port p).feat.ps = 2)

/-- READY (R97): replayed DIRTY lines are destaged with priority from here on (R86). With every ready controller in PS2 already, STANDBY
is entered from here (spec 10, R310). -/
def enterReady (s : State) : State :=
  let s := enterPhase .ready { s with power.standbyPending := allPs2 s, power.fromPower := false }
  destageFirst ((s.cache.lines.filter (fun l => l.replayed && l.state = .dirty)).map (·.block)) s

/-- The end of CALIBRATE: ZONE_LOAD if the zone metadata load is still running, else READY (R93). -/
def endCalibrate (s : State) : State :=
  if s.power.zoneLoadDone then enterReady s else enterPhase .zoneLoad s

/-! ### Calibration requests (spec 09, R270, R273) -/

/-- The sensor that gives the head temperature of an actuator channel: that of ACT_SENSOR, or the HDA reference if it is disabled
(spec 09, R270). -/
def headSensor (s : State) (n : ChanId) : Nat :=
  let j := bitsOf (envCfg s 0x6000 3) (4 * n.val) 4
  if sensorEnabled s j then j else hdaRef s

/-- The head temperature, 1/16 °C; none while the sensor is broken (R270). -/
def headTemp (s : State) (h : HeadId) : Option Int :=
  let j := headSensor s (chanOf h)
  if (if hj : j < 11 then s.env.sensors[j].broken else false) then none else some (sensorTemp s j)

/-- The head temperature differs from CAL_TEMP by more than CAL_DELTA (R273, R91). -/
def tempAway (s : State) (h : HeadId) : Bool :=
  match headTemp s h with
  | none => false
  | some t => cfg s 0x6100 1 < (t - s.cal.heads[h].temp).natAbs

/-- The kind is enabled in CAL_ENABLE. -/
def calEnabled (s : State) (k : CalKind) : Bool := bitOf (cfg s 0x6100 14) (calCode k - 1)

/-- The rank of a priority (spec 09, R274). -/
def CalPriority.rank : CalPriority → Nat
  | .startUp => 3 | .urgent => 2 | .normal => 1 | .background => 0

/-- Two requests ask for the same run. -/
def sameRun (a b : CalReq) : Bool :=
  a.kind = b.kind && (a.kind = .sync || (a.head = b.head && (a.kind ≠ .eq || a.zone = b.zone)))

/-- A kind that a head can take: not ASSIST where nothing assists (ASSIST_TYPE 0, log 27) or on a head that is read-only, nor ALIGN with
a reader retired (spec 13, Table 13.2). -/
def kindOpen (s : State) (h : HeadId) (k : CalKind) : Bool :=
  !(k = .assist && (assistType s (chanOf h) = 0 || headReadOnly s h))
    && !(k = .align && (readerRetired s h false || readerRetired s h true))

/-- A run requested (R273): a disabled kind is never triggered, nor one that the head cannot take; a run asked for already takes the
higher priority. A SYNC run begins with its request: what other sources have changed before it does not count (R285). -/
def requestCal (r : CalReq) (s : State) : State :=
  if !calEnabled s r.kind || !headServes s r.head || !kindOpen s r.head r.kind then s
  else if s.cal.requests.any (sameRun r) then
    { s with cal.requests := s.cal.requests.map (fun x => if sameRun r x && x.priority.rank < r.priority.rank then { x with priority := r.priority } else x) }
  else { s with cal.requests := s.cal.requests ++ [r], cal.syncTouched := s.cal.syncTouched && r.kind ≠ .sync }

/-- The full calibrations of R91, in their order. -/
def fullKinds : List CalKind := [.fe, .align, .servo, .assist]

/-- The full calibrations of a head requested for start-up. -/
def requestFull (h : HeadId) (s : State) : State := fullKinds.foldl (fun s k => requestCal ⟨h, k, 0, .startUp⟩ s) s

/-- A head's CALIBRATE work still to do: its start-up runs, those that write waiting for the write window (R91). -/
def startRuns (s : State) (h : HeadId) : Bool :=
  s.cal.requests.any (fun r => r.head = h && r.priority = .startUp && (r.kind ≠ .assist || s.env.winOpen))

/-- CALIBRATE ends when every head has finished (R91). -/
def calibrateDone (s : State) : State :=
  if s.power.phase = .calibrate && s.cal.startLeft = [] then endCalibrate s else s

/-- A head whose verification read and start-up runs have all ended has finished. -/
def headFinished (h : HeadId) (s : State) : State :=
  if startRuns s h || s.cal.verify.contains h || s.cal.running[chanOf h].any (fun r => r.head = h) then s else calibrateDone { s with cal.startLeft := s.cal.startLeft.filter (· ≠ h) }

/-- CALIBRATE begins (R91): a head whose temperature is away from that of its last run takes the full calibrations, every other
the verification read; with no head in service CALIBRATE ends at once. -/
def beginCalibrate (s : State) : State :=
  let heads := allHeads.filter (headServes s)
  let s := enterPhase .calibrate { s with cal.startLeft := heads, cal.verify := heads.filter (fun h => !tempAway s h) }
  calibrateDone (heads.foldl (fun s h => if tempAway s h then requestFull h s else s) s)

/-- HEAD_LOAD ends when every channel in service is loaded; with every channel retired start-up fails (R90). The same
loading ends a change of set speed (spec 01, R40). -/
def loadsDone (s : State) : State :=
  let serving := allChans.filter (chanServes s)
  if s.loadQueue = [] ∧ serving.all (fun n => (s.chan n).load = .loaded) then
    let s := if s.power.speedChange = .loading then { s with power.speedChange := .none } else s
    if s.power.phase = .headLoad && s.power.speedChange = .none then
      if serving = [] then failStart 0x0702 (sendSpin 0 (unloadAll s)) else beginCalibrate s
    else s
  else s

/-- HEAD_LOAD begins. -/
def beginHeadLoad (s : State) : State := loadsDone (queueLoads (enterPhase .headLoad s))

/-- LOCKED has been entered (R34, R88): the ramp ends; in SPIN_UP the hold-up check follows; in a speed change the heads
reload (spec 01, R40). -/
def onLocked (s : State) : State :=
  let s := { s with
    tick.ramp := false, tick.wasLocked := true, tick.speedFault := false, tick.readsHeld := false, power.attempts := if s.tick.ramp then 0 else s.power.attempts }
  if s.power.phase = .spinUp then startHoldtest (enterPhase .holdupCheck s)
  else if s.power.speedChange = .ramping then
    (if s.power.phase = .holdupCheck then { s with power.speedChange := .none } else loadsDone (queueLoads { s with power.speedChange := .loading }))
  else s

/-! ## Change of set speed (spec 01, R40) -/

/-- The sectors in progress, read or written, have ended. -/
def sectorsQuiet (s : State) : Bool := allChans.all (fun n => !(s.wr n).request && !readingSector s n)

/-- The phases in which the spindle runs or ramps. -/
def Phase.spins : Phase → Bool
  | .spinUp | .holdupCheck | .headLoad | .calibrate | .zoneLoad | .ready => true
  | _ => false

/-- The spindle takes SET_RPM with every head unloaded (R40, step 4): SPIN at the new speed and a ramp where it runs; where it does
not, its next spin-up takes the speed. While it brakes, the attempt that follows takes it. A generator that is LOCKED goes to ACQUIRE
(step 5); in every other state its next lock is at the new speed already (R34). -/
def changeSpeed (s : State) : State :=
  if s.power.braking then s
  else if s.power.phase.spins then
    let s := spinUp { s with power.speedChange := if s.power.phase = .spinUp then .none else .ramping }
    if s.tick.state = .locked && s.tick.next.isNone then { s with tick.next := some .acquire } else s
  else takeSpeed { s with power.speedChange := .none }

/-- A commit changed SET_RPM (R40): with heads loaded or loading the change proceeds step by step, the sectors in progress completed and
placement stopped; else the spindle takes it now. -/
def speedChanged (s : State) : State :=
  if s.power.phase = .failed then s
  else if allChans.any (fun n => !unloaded s n) then
    allChans.foldl (fun s n => finishRead n (readingSector s n) s) { s with power.speedChange := .unloading }
  else changeSpeed s

/-- A change of set speed goes on (R40): once the sectors in progress have ended, the actuators unload and the spindle ramps. -/
def speedProgress (s : State) : State :=
  if s.power.speedChange = .unloading && sectorsQuiet s then changeSpeed (unloadAll s) else s

/-! ## STANDBY and shutdown -/

/-- STANDBY entry goes on (R310): commands complete, DIRTY lines are destaged, heads unload, the spindle stops. -/
def standbyProgress (s : State) : State :=
  if s.power.standbyPending && s.power.phase = .ready then
    if s.cmds.ctxs.any (fun c => !c.committed) then s
    else if hasDirty s then destageFirst (dirtyBlocks s) s
    else enterPhase .standby (sendSpin 0 (unloadAll { s with power.standbyPending := false }))
  else s

/-- The power states changed (R310): STANDBY is entered, or left by a spin-up. -/
def powerStates (s : State) : State :=
  if allPs2 s then
    if s.power.phase = .ready then standbyProgress { s with power.standbyPending := true } else s
  else if s.power.phase = .standby && !s.power.thermalStop then restartFromSpinWait s
  else { s with power.standbyPending := false }

/-- A command that needs media takes its controller out of PS2, to its last operational state (R310). -/
def wakeFor (p : PortId) (s : State) : State :=
  if (s.port p).feat.ps = 2 then
    powerStates (s.modPort p (fun q => { q with feat := { q.feat with ps := q.feat.lastOp } }))
  else s

/-- An admin command that a controller has fetched is still open (R311). A held Asynchronous Event Request waits for an event and is not
waited for (DESIGN CHOICE, log 30). -/
def adminOpenOn (s : State) (p : PortId) : Bool := (s.port p).aers.length < adminHeld s p

/-- Shutdown goes on (R311): SHST becomes 10b once the controller's commands have completed, and, without a passed hold-up
check, no DIRTY line remains; with every enabled controller shut down and no DIRTY line left the heads unload. The OEM part
of the erased-page map is saved (spec 14, R422). -/
def shutdownProgress (s : State) : State :=
  let s := allPorts.foldl (fun s p =>
    if (s.port p).shst = 1 && !s.cmds.ctxs.any (fun c => c.port = p) && (s.port p).committed = [] && !adminOpenOn s p
        && (s.power.holdupEver || !hasDirty s) then
      s.modPort p (fun q => { q with shst := 2 })
    else s) s
  if allPorts.any (fun p => (s.port p).en) && allPorts.all (fun p => !(s.port p).en || (s.port p).shst = 2) && !hasDirty s
      && allChans.any (fun n => !unloaded s n) then
    unloadAll { s with mule.oemSaved := some (s.clock.cycles, oemMap s) }
  else s

/-- Thermal shutdown goes on (spec 09, R264): once the commands in progress have completed, every head is unloaded, the spindle
stopped and STANDBY entered, dirty data staying in the buffer. -/
def thermalProgress (s : State) : State :=
  let p := s.power.phase
  let on := p = .ready || p = .spinUp || p = .holdupCheck || p = .headLoad || p = .calibrate || p = .zoneLoad
  if s.cmds.mediaStopped && !s.power.thermalStop && on && s.cmds.ctxs.all (·.committed) then
    enterPhase .standby (sendSpin 0 (unloadAll { s with power.thermalStop := true, power.standbyPending := false, power.fromPower := false }))
  else s

/-- An unloaded actuator with media work reloads (spec 10, R309, R311). -/
def loadForWork (s : State) : State :=
  if s.power.phase = .ready && !s.cmds.mediaStopped && !s.power.standbyPending && !s.power.restarting && s.power.speedChange = .none then
    allChans.foldl (fun s n => if unloaded s n && queuedOn s n ≠ [] then queueLoad n s else s) s
  else s

/-- What waits for commands to end or lines to be destaged goes on. -/
def progress (s : State) : State :=
  kickDies (loadForWork <| speedProgress (shutdownProgress (thermalProgress (standbyProgress (endDraining (servePauses (releaseRegions s)))))))

end Sys2Proof.Machine
end

