-- ==== Sys2Proof/Machine/Restart.lean ====
section
/-! DEFINITION. Power-on reset of the whole device (spec 02, R60, R63; spec 03, R82): what survives it in the Mule, and what
power good starts. -/

namespace Sys2Proof.Machine

/-! ## What survives -/

/-- The values with a commit whose swap has taken place carried through (spec 15, R448). -/
def committedValues (s : State) : List (ObjKey × List Byte) :=
  if s.dict.servoSwapped then s.dict.staged.foldl (fun l e => assocSet e.1 e.2 l) s.dict.values else s.dict.values

/-- The values of P objects that differ from their defaults (spec 15, R441, R443). -/
def persistentValues (s : State) : List (ObjKey × List Byte) :=
  (committedValues s).filter (fun e => 0xF000 ≤ e.1.index || (objAt e.1.index e.1.sub).any (·.persistent))

/-- The identity and power-state objects that a power-on reset puts in force (spec 10, R319). -/
def identityValues (s : State) : List (ObjKey × List Byte) :=
  (persistentValues s).filter (fun e => (e.1.index = 0x2000 && e.1.sub ≤ 4) || e.1.index = 0x2002)

/-- The shutdown kind of the power cycle that ends (spec 17, POWER_ON): 0 orderly, 1 vaulted, 2 unsafe. -/
def shutdownKind (s : State) : Nat :=
  if allPorts.any (fun p => (s.port p).en) && allPorts.all (fun p => !(s.port p).en || (s.port p).shst = 2) && !hasDirty s then 0
  else if s.power.vault = .vaulted then 1 else 2

/-- A fault record with its retirement cleared (spec 13, R406). -/
def inService (r : FaultRec) : FaultRec := { r with state := 0, retiredAt := 0 }

/-- UNRETIRE (R406): every retirement is cleared at the power-on reset. -/
def unretire (f : Faults) : Faults :=
  { f with readers := f.readers.map inService, heads := f.heads.map inService, channels := f.channels.map inService,
           retiredReaders := 0, retiredHeads := 0, readOnlyHeads := 0, retiredChannels := 0, decided := [] }

/-- Fault management across a power-on reset: its records, retirements and totals persist. -/
def faultsAtReset (f : Faults) : Faults :=
  let g := if f.unretire then unretire f else f
  { g with seekRun := .replicate 8 0, unretire := false, dataDown := false, mgmtDown := false }

/-- A die across a power-on reset: array, bad blocks and remapping persist; an operation in progress is lost. The erased-page
map is kept but for OEM, whose part MOUNT loads if it was saved (spec 14, R422). -/
def dieAtReset (d : Die) : Die := { d with op := none, suspended := false, barred := false, misses := [] }

/-- The Mule across a power-on reset. -/
def muleAtReset (m : Mule) : Mule :=
  let z := Mule.reset
  { z with
    dies := m.dies.map dieAtReset
    regions := m.regions.map (fun r => { r with state := .unknown, erased := .replicate 2 0 })
    scanned := m.scanned, vaultSeq := m.vaultSeq, lastLines := m.lastLines, lastVaultUs := m.lastVaultUs
    journal := m.journal, ckptSeq := m.ckptSeq, journalSeq := m.journalSeq, checkpoint := m.checkpoint
    ckptMarks := m.ckptMarks, journalErased := m.journalErased, system := m.system, written := m.written, oemSeq := m.oemSeq, journalPages := m.journalPages
    superseded := m.superseded, refresh := m.refresh
    programFails := m.programFails, eraseFails := m.eraseFails, refreshes := m.refreshes, oemSaved := m.oemSaved }

/-- Firmware staging across a power-on reset: the slot record and the programmed pages persist; source images and the assembly
buffer do not (spec 16, R467, R469, R470). -/
def fwAtReset (f : Fw) : Fw :=
  let z := Fw.reset
  { z with slots := f.slots, active := f.active, next := f.next, source := f.source, header := f.header, sealing := f.sealing,
           programmed := f.programmed, erasing := f.erasing, eraseLeft := f.eraseLeft, activations := f.activations,
           fallbacks := f.fallbacks }

/-- A namespace across a power-on reset: its reservation is kept only with PTPL (spec 10, R308). -/
def nsAtReset (n : Namespace) : Namespace :=
  if n.res.ptpl then n else { n with res := ⟨n.res.generation, [], none, false⟩ }

/-- The NVM subsystem across a power-on reset: the band records are rebuilt by the zone metadata load (spec 03, R93). -/
def subAtReset (x : Subsys) : Subsys :=
  let z := Subsys.reset
  { z with namespaces := x.namespaces.map nsAtReset, deferred := x.deferred, deferredLog := x.deferredLog,
           deferredTotal := x.deferredTotal, sanitize := x.sanitize, mediaErrors := x.mediaErrors, hostReads := x.hostReads,
           blocksRead := x.blocksRead, hostWrites := x.hostWrites, blocksWritten := x.blocksWritten }

/-- Calibration across a power-on reset: HEAD_CAL persists (spec 09, R286). -/
def calAtReset (c : Cal) : Cal :=
  let z := Cal.reset
  { z with heads := c.heads, syncTime := c.syncTime }

/-- The event recorder across a power-on reset: EVENT_LOG and SEQ persist; the ring is reloaded by MOUNT (spec 17, R488). -/
def evrAtReset (e : Evr) : Evr :=
  let z := Evr.reset
  { z with log := e.log, nextSeq := (e.log.head?.map (fun r => (r.seq + 1) % 2 ^ 32)).getD 0 }

/-- The state in reset: volatile state at its reset values, what the Mule holds, the levels of the pins and the straps sampled last (spec 02, R66) kept. -/
def porReset (s : State) : State :=
  let z := State.reset
  let t := { z with
    power.crx4 := s.power.crx4, power.railsLow := s.power.railsLow, power.porst := s.power.porst
    power.pwrdis := s.power.pwrdis, power.holdLow := s.power.holdLow, power.straps := s.power.straps
    clock := ⟨0, 0, powerOn s, s.clock.cycles, if s.power.running then shutdownKind s else s.clock.lastShutdown, s.clock.unsafeShutdowns⟩
    heads := z.heads, cal := calAtReset s.cal, ports := s.ports.map (fun p => { Port.reset with perst := p.perst })
    sub := { subAtReset s.sub with identity := identityValues s }, faults := faultsAtReset s.faults, mule := muleAtReset s.mule
    dict := { Dict.reset with values := persistentValues s, unvalidated := s.dict.unvalidated }
    mgmt := { Mgmt.reset with lock := s.mgmt.lock }
    fw := fwAtReset s.fw, evr := evrAtReset s.evr, freeCount := s.freeCount, pending := s.pending }
  if s.faults.unretire then raise (event 0xF102 2 srcController) t else t

/-! ## Power good -/

/-- The rate and width at which a link of `lanes` lanes trains (spec 10, Table 10.1): any of the five rates, at the full width or down to
×1; which one is settled with the link partner, and stays a free value (log 18). -/
def trained (lanes free : Nat) : Nat × Nat := (1 + free % 5, if free / 5 % 2 = 0 then lanes else 1)

/-- The link of a port trains once its reset is released (spec 03, R94), in the clocking architecture of its CLOCKING object (spec 10,
R289): two lanes, or four in the x4 mode, where port 1 does not exist. -/
def trainPort (p : PortId) (s : State) : State :=
  if (s.port p).perst || (s.power.straps.portMode && p = 1) then s
  else
    let x := nextFree s
    x.2.modPort p (fun q => { q with
      link := some (trained (if s.power.straps.portMode then 4 else 2) x.1), trainAt := s.clock.ns, clocking := cfg s 0x2001 (2 + p.val) })

/-- The requested cache mode that the persistent CACHE_MODE gives (spec 12, R387). -/
def bootCacheMode (s : State) : CacheMode :=
  match cfg s 0x2300 1 with | 0 => .writeBack | 1 => .writeThrough | _ => .off

/-- Persistent values pass from the layout `old` to that of the image that runs (spec 16, R477): the objects that its layout does not hold are
discarded and recorded; the layouts of images are not the model's to know (log 12). OEM objects stand in every layout (spec 15, R443). -/
def relayout (old : Nat) (s : State) : State :=
  let new := s.fw.slots[s.fw.active].dictVersion
  if old = new then s
  else
    let gone := s.dict.values.filter (fun e => e.1.index < 0xF000 && (objAt e.1.index e.1.sub).any (·.persistent)
      && !Config.layoutHolds new e.1.index e.1.sub)
    gone.foldl (fun s e => raise (event 0xC015 1 srcController (e.1.index + e.1.sub * 65536))
      { s with dict.values := assocDel e.1 s.dict.values }) s

/-- The activation pending at the reset (spec 16, R474): ACTIVE becomes NEXT, NEXT 0xFF. -/
def activatePending (s : State) : State :=
  match s.fw.next with
  | none => s
  | some x =>
    raise (event 0xC013 2 srcController (x.val + 256) s.fw.slots[x].version)
      (relayout s.fw.slots[s.fw.active].dictVersion
        (updateSystem { s with fw.active := x, fw.next := none, fw.activations := s.fw.activations + 1 }))

/-- The image of the slot that is run, or RECOVERY (R82, R98). -/
def loadImage (boot : BootCheck) (s : State) : State :=
  let ok := fun (i : Fin 2) => if i = 0 then boot.slotAOk else boot.slotBOk
  let other : Fin 2 := 1 - s.fw.active
  if ok s.fw.active then enterPhase .boot s
  else if ok other then
    enterPhase .boot (relayout s.fw.slots[s.fw.active].dictVersion
      (updateSystem (raise (event 0x0012 2 srcController s.fw.active.val) { s with fw.active := other })))
  else enterPhase .recovery (startFault 0x0201 { s with power.bootEnded := true })

/-- Power good (spec 02, R62, R66, R67; spec 03, R82): the straps are sampled and BOOT starts. A failed PLL or memory test stops
everything, its code sent on UART_TX only (spec 03, Table 3.7). -/
def bootUp (straps : Straps) (boot : BootCheck) (pwrdis : Bool) (s : State) : State :=
  let s := { s with
    power.running := true, power.straps := straps, power.pwrdis := pwrdis, power.pwrdisSeenLow := !pwrdis
    power.dead := !boot.memoriesOk, clock.cycles := s.clock.cycles + 1
    power.uart := if boot.memoriesOk then s.power.uart else s.power.uart ++ [0x0101] }
  if s.power.dead || straps.testMode then s
  else takeSpeed (trainPort 1 (trainPort 0 (loadImage boot (activatePending s))))

end Sys2Proof.Machine
end

