-- ==== Sys2Proof/Machine/Recovery.lean ====
section
/-! DEFINITION. The retirement instant (spec 13, R403 to R405, Table 13.2), the judging of replayed lines (spec 14, R428), and
the restarts of the planes (spec 13, R400). -/

namespace Sys2Proof.Machine

/-! ## Replayed lines (spec 14, R428) -/

/-- A line's namespace and generation agree with its band record, and no supersede record names its block. -/
def lineAgrees (s : State) (l : Line) : Bool :=
  match locateBlock s l.block with
  | none => false
  | some (k, _) => (bandRec s k).gen = l.gen && (bandRec s k).nsid = l.block.nsid && !s.mule.superseded.contains l.block

/-- The HELD lines of a shingled zone, in VERSION and then block order, become DIRTY while they continue the write pointer
without a gap. -/
def judgeHeld : List Line → BandKey → State → State
  | [], _, s => s
  | l :: r, k, s =>
    match locateBlock s l.block with
    | none => judgeHeld r k s
    | some (_, o) =>
      let b := bandRec s k
      if o = b.wp then
        judgeHeld r k (setBand { b with wp := o + 1, awp := max b.awp (o + 1) }
          (mapLines (fun x => if sameLine x l then { x with state := .dirty } else x) s))
      else s

/-- The replayed lines of one band judged. -/
def judgeBand (k : BandKey) (s : State) : State :=
  let s := dropLines (fun l => l.replayed && bandOf s l = some k && !lineAgrees s l) s
  let held := bandLines s k (fun l => l.replayed && l.state = .held)
  if (bandRec s k).shingled then
    let order := held.mergeSort (fun a b => a.version < b.version || (a.version = b.version && a.block.lba ≤ b.block.lba))
    let s := judgeHeld order k s
    dropLines (fun l => l.replayed && l.state = .held && bandOf s l = some k) s
  else mapLines (fun l => if held.any (sameLine l) then { l with state := .dirty } else l) s

/-- Every replayed line judged, and the destage of those kept filed. -/
def judgeReplayed (s : State) : State :=
  let ks := ((s.cache.lines.filter (·.replayed)).filterMap (bandOf s)).eraseDups
  let s := dropLines (fun l => l.replayed && (bandOf s l).isNone) s
  let s := ks.foldl (fun s k => judgeBand k s) s
  (s.cache.lines.filter (fun l => l.replayed && l.state = .dirty)).foldl (fun s l =>
    match locateBlock s l.block with | none => s | some (k, o) => fileOp .destage k o 1 s.clock.ns s) s

/-! ## The retirement instant -/

/-- The bands of a head that have a record of their own, allocated or not. -/
def bandsOfHead (s : State) (h : HeadId) : List BandKey := (s.sub.bands.filter (fun b => b.key.head = h)).map (·.key)

/-- The zone or band state that a retirement gives a band (Table 13.2). -/
def retireBand (full : Bool) (k : BandKey) (s : State) : State :=
  let r := bandRec s k
  if r.shingled then
    if r.state = .offline || r.nsid = 0 then s
    else setZoneState k (if full then .offline else .readOnly) s
  else if full then setBand { r with excluded := true } s
  else s

/-- The sectors of a band whose verification is outstanding: they are on media, and only those that fail it are lost (Table 13.2; DEDUCED,
log 45). -/
def verifying (s : State) (k : BandKey) : List Nat :=
  ((s.wr (chanOf k.head)).pendingExc.filter (fun e => e.band = k)).flatMap (·.verify)

/-- DIRTY lines of a band, and those that R428 would make DIRTY, are marked lost-write, cause 0x0002, and invalidated; SHADOW
lines become CLEAN or are invalidated (Table 13.2). -/
def retireLines (full : Bool) (k : BandKey) (s : State) : State :=
  let s := judgeBand k s
  let onMedia := verifying s k
  let dirty := bandLines s k (fun l => l.state = .dirty && (full || !(locateBlock s l.block).any (fun x => onMedia.contains x.2)))
  let lost := dirty.filterMap (fun l => (locateBlock s l.block).map (fun x => (x.2, l.hostx, l.port)))
  let s := markLost k 0x0002 (lost.mergeSort (fun a b => a.1 ≤ b.1)) (dropLines (fun l => dirty.any (sameLine l)) s)
  if full then maintainBand k s
  else mapLines (fun l => if l.state = .shadow && bandOf s l = some k then { l with state := .clean } else l) s

/-- The status that a command of an affected band ends with (R405). -/
def retireStatus (r : BandRec) (full writes : Bool) : Status :=
  if r.shingled then (if full then .zoneOffline else .zoneReadOnly)
  else if writes then .writeFault else .unrecoveredRead

/-- The commands that touch a band end as R405 states, the latest first, so that each ends with its own status and none by R331: writes without acknowledgement, those with a sector on media with Write
Fault; reads only if the head is retired in full. -/
def retireCommands (full : Bool) (k : BandKey) (s : State) : State :=
  let touching := s.cmds.ctxs.filter (fun c => !c.committed && ctxTouches s c k && (ioWrites c.entry.op || (full && c.entry.op = IoOp.read)))
  touching.reverse.foldl (fun s c =>
    let st := if c.unabortable s then Status.writeFault else retireStatus (bandRec s k) full (ioWrites c.entry.op)
    match ctxOf s c.id with | none => s | some c => if c.committed then s else endUnacked c st s) s

/-- The verifications and repairs outstanding on a head that is retired in full: their blocks are marked lost-write (Table 13.2). -/
def retireExcursion (h : HeadId) (s : State) : State :=
  let mine := (s.wr (chanOf h)).pendingExc.filter (fun e => e.band.head = h)
  let s := s.modWr (chanOf h) (fun w => { w with pendingExc := w.pendingExc.filter (fun e => e.band.head ≠ h) })
  mine.foldl (fun s e => givenUp e.band (e.verify ++ e.repair) 0x0002 s) s

/-- The repairs outstanding on a head that is retired read-only cannot be written: their sectors, which failed, are marked lost-write; the
verifications go on (Table 13.2). -/
def retireRepairs (h : HeadId) (s : State) : State :=
  let mine := (s.wr (chanOf h)).pendingExc.filter (fun e => e.band.head = h && e.repair ≠ [])
  let s := s.modWr (chanOf h) (fun w => { w with pendingExc := (w.pendingExc.map (fun e => if e.band.head = h then { e with repair := [], todo := [] } else e)).filter (fun e => e.verify ≠ []) })
  mine.foldl (fun s e => givenUp e.band e.repair 0x0002 s) (withdrawOps (fun o => o.band.head = h && o.kind = .repair) s)

/-- A head's bands, lines, commands and calibrations at its retirement. -/
def retireHeadEffects (full : Bool) (h : HeadId) (s : State) : State :=
  let n := chanOf h
  let s := if (s.sdm n).head = h then gateCheck false n (s.modWr n (fun w => { w with assistReady := false })) else s
  let s := if s.cal.running[n].any (fun r => r.head = h) then stopRun n s else s
  let s := if (s.wr n).run.any (fun r => r.op.band.head = h) then endRun n false s else s
  let s := if full then
      let s := if (s.rwc n).op.any (fun o => o.band.head = h) then stopRead n s else s
      let s := stopLadders (fun l => l.op.band.head = h) false n s
      withdrawOps (fun o => o.band.head = h) (retireExcursion h s)
    else retireRepairs h (withdrawOps (fun o => o.band.head = h && (match o.kind with | .destage | .hostWrite _ => true | _ => false)) s)
  let ks := bandsOfHead s h
  let s := ks.foldl (fun s k => retireLines full k (retireCommands full k (retireBand full k s))) s
  let s := stopEqs (· = h) s
  { s with
    cal.requests := s.cal.requests.filter (fun c => c.head ≠ h || c.kind = .sync || (!full && c.kind ≠ .assist))
    cal.startLeft := s.cal.startLeft.filter (fun x => !full || x ≠ h), cal.verify := s.cal.verify.filter (fun x => !full || x ≠ h) }

/-- The record of a retired unit (Table 13.6) and its RETIRED event (spec 17). -/
def retiredRecord (u : UnitId) (full : Bool) (s : State) : State :=
  let s := modFaultRec u (fun r => { r with state := if full then 2 else 1, retiredAt := powerOn s }) s
  raise (event 0xF100 3 srcController (b2n full) (powerOn s) u.code.1 u.code.2) s

/-- SERVO_READER of a head set to B by the controller (spec 05, R139; Table 13.2). -/
def servoReaderB (h : HeadId) (s : State) : State :=
  let v := valueOf s 0x4001 h.val
  if v.length ≤ 12 then s
  else persistValue 0x4001 h.val (v.set 12 1) srcController (setValue s 0x4001 h.val (v.set 12 1))

/-- A unit that the retirement of a larger one covers (R403): its record shows it retired, with no retirement of its own. -/
def coveredRecord (u : UnitId) (s : State) : State :=
  modFaultRec u (fun r => if r.state = 1 || r.state = 2 then { r with state := 2 } else { r with state := 2, retiredAt := powerOn s }) s

/-- The readers of a head that is retired in full. -/
def coverReaders (h : HeadId) (s : State) : State := coveredRecord (.reader h true) (coveredRecord (.reader h false) s)

/-- One retirement takes effect (R403, R404). -/
def retireNow (u : UnitId) (full : Bool) (s : State) : State :=
  if unitRetired s u then coveredRecord u s
  else
    let s := retiredRecord u full s
    match u with
    | .reader h b =>
      let s := { s with
        faults.retiredReaders := s.faults.retiredReaders ||| (1 <<< (2 * h.val + b2n b))
        cal.requests := s.cal.requests.filter (fun c => !(c.head = h && c.kind = .align)) }
      let s := if s.cal.running[chanOf h].any (fun r => r.head = h && r.kind = some .align) then stopRun (chanOf h) s else s
      let s := if (s.sdm (chanOf h)).head = h then
          s.modRwc (chanOf h) (fun r => if b then { r with powerB := false } else { r with powerA := false }) else s
      if b then s else servoReaderB h s
    | .head h =>
      let bit : BitVec 32 := 1 <<< h.val
      let f := s.faults
      let s := if full then { s with faults := { f with retiredHeads := f.retiredHeads ||| bit, readOnlyHeads := f.readOnlyHeads &&& ~~~bit } }
        else { s with faults := { f with readOnlyHeads := f.readOnlyHeads ||| bit } }
      let s := retireHeadEffects full h (if full then coverReaders h s else s)
      decideChannelOf (chanOf h) s
    | .channel n =>
      let s := { s with faults.retiredChannels := s.faults.retiredChannels ||| (1 <<< n.val) }
      let s := (headsOf s n).foldl (fun s h => retireHeadEffects true h (coverReaders h (coveredRecord (.head h) s))) s
      { unloadChans [n] s with loadQueue := s.loadQueue.filter (· ≠ n) }

/-- The order of retirements that fall on one boundary (R403): channels, heads, readers. -/
def UnitId.rank : UnitId → Nat
  | .channel _ => 0 | .head _ => 1 | .reader _ _ => 2

/-- The retirement instant (R403): every decided retirement takes effect, with the flag of Table 10.12 and the Critical
Warning. -/
def retirementInstant (s : State) : State :=
  if s.faults.decided = [] then s
  else
    let l := s.faults.decided.mergeSort (fun a b => a.1.rank ≤ b.1.rank)
    let s := l.foldl (fun s d => retireNow d.1 d.2 s) { s with faults.decided := [] }
    noteWarning (loadsDone (setFlag .retirement s))

/-! ## Plane restarts (R400) -/

/-- A second restart of the same plane within PERM_WINDOW ends the drive in FAILED. -/
def restartTooSoon (s : State) (last : Option Nat) : Bool := match last with | none => false | some t => inWindow s t

/-- A memory-error exception on a data-plane core: HPC stops fetching, commands in S2 and S3 complete with Internal Error. -/
def dataPlaneRestart (s : State) : State :=
  let again := restartTooSoon s s.faults.dataRestart
  let s := driveFault .memException 0 { s with
    faults.planeRestarts := s.faults.planeRestarts + 1, faults.dataRestart := some (powerOn s), faults.dataDown := true
    cmds.fetchStopped := true }
  let s := (s.cmds.ctxs.filter (fun c => !c.committed && !c.unabortable s)).reverse.foldl (fun s c =>
    match ctxOf s c.id with | none => s | some c => if c.committed then s else endUnacked c .internalError s) s
  if again then enterFailed s else s

/-- The staging copy discarded with its cause (spec 15, R449; spec 17, STAGING_DISCARDED). -/
def discardStaging (cause src : Nat) (s : State) : State :=
  if s.dict.staged = [] && s.dict.owner = none then s
  else
    raise (event 0xC003 1 src cause s.dict.staged.length) { s with dict.staged := [], dict.owner := none, dict.discardAfter := none }

/-- A cause of discard (R449): while a commit runs it waits for its end. -/
def wantDiscard (cause src : Nat) (s : State) : State :=
  if s.dict.stage = .idle then discardStaging cause src s
  else { s with dict.discardAfter := some (s.dict.discardAfter.getD cause) }

/-- A memory-error exception on a management-plane core: staged values are discarded, calibrations end as stopped, caps are
held and the write window closes until the first ENV decision. A commit in SWAPPING goes on (R449). -/
def mgmtPlaneRestart (s : State) : State :=
  let again := restartTooSoon s s.faults.mgmtRestart
  let s := driveFault .memException 1 { s with
    faults.planeRestarts := s.faults.planeRestarts + 1, faults.mgmtRestart := some (powerOn s), faults.mgmtDown := true
    env.held := true }
  let s := stopRuns s
  let s := answerBusy s
  let s := match s.dict.stage with
    | .swapping => s
    | _ => discardStaging 4 srcController { s with dict.stage := .idle }
  let s := gateCheckAll false s
  if again then enterFailed s else s

end Sys2Proof.Machine
end

