-- ==== Sys2Proof/Machine/Fills.lean ====
section
/-! DEFINITION. Filling the cache (spec 12, R379 to R392): what a read takes each block from, miss registers and merging,
the arrival of blocks, streams and read-ahead, and poisoned lines. -/

namespace Sys2Proof.Machine

/-! ## Results of a read -/

/-- The blocks of a read so far. -/
def resultBlocks (c : Ctx) : List Block := match c.result with | .blocks l => l | _ => []

/-- Block `i` of a read taken. -/
def takeBlock (id i : Nat) (d : Block) (s : State) : State :=
  modCtx id (fun c => { c with result := .blocks ((resultBlocks c).set i d), waiting := c.waiting.filter (· ≠ i) }) s

/-- Block `i` of a read cannot be had: the read will complete with Unrecovered Read Error, the rest read normally (spec 11,
R343). -/
def failBlock (id i : Nat) (s : State) : State :=
  modCtx id (fun c => { c with status := .unrecoveredRead, waiting := c.waiting.filter (· ≠ i) }) s

/-- A block that needs no media: beyond the write pointer of a zone, or in an extent of a conventional band that was never
written (spec 04, R125, R126). -/
def unwritten (s : State) (k : BandKey) (o : Nat) : Bool :=
  let r := bandRec s k
  if r.shingled then r.wp ≤ o else !extentSet r o

/-! ## Miss registers (R380, R381) -/

/-- A register replaced by its image. -/
def modReg (id : Nat) (f : MissReg → MissReg) (s : State) : State :=
  { s with cache.regs := s.cache.regs.map (fun m => if m.id = id then f m else m) }

/-- A register's extent covers a block. -/
def MissReg.covers (m : MissReg) (b : BlockKey) : Bool := m.nsid = b.nsid && m.lba ≤ b.lba && b.lba < m.lba + m.count

/-- An ACTIVE register that a read of a block may join (R381): no write of the block has been admitted since the register was allocated
(log 26), and the block is still to arrive, or has arrived with its data. -/
def MissReg.serves (m : MissReg) (b : BlockKey) : Bool :=
  m.covers b && !m.stale && !m.written.contains b.lba && (!m.arrived.contains b.lba || (assocGet b.lba m.kept).isSome)

/-- A read needs media of an actuator (spec 11, R347). -/
def readFrom (n : ChanId) (c : Ctx) : Ctx := { c with readOn := if c.readOn.contains n then c.readOn else c.readOn ++ [n] }

/-- A read `id` merges into a register; a register holds at most 16 (R381). -/
def mergeInto (id : Nat) (m : MissReg) (s : State) : State :=
  if m.merged.contains id || 16 ≤ m.merged.length then s
  else
    let s := match locateBlock s ⟨m.nsid, m.lba⟩ with
      | none => s
      | some (k, _) => modCtx id (readFrom (chanOf k.head)) s
    { modReg m.id (fun m => { m with merged := m.merged ++ [id] }) s with cache.merges := s.cache.merges + 1 }

/-- A FILLING line for a block of a register; without a replaceable way a transient side-buffer slot (R380, R383). -/
def fillingLine (mr : Nat) (b : BlockKey) (s : State) : State :=
  let gen := (locateBlock s b).elim 0 (fun x => (bandRec s x.1).gen)
  match allocLine (fun w => mediaLine b w .filling gen (some mr) false 0) b s with
  | some s' => s'
  | none =>
    let s := { modReg mr (fun m => { m with transient := b.lba :: m.transient }) s with cache.bypass := s.cache.bypass + 1 }
    (takeSlot b true s).getD s

/-- An INTERNAL register for a run of blocks that the controller reads for itself (R380). -/
def internalReg (nsid lba count : Nat) (s : State) : State :=
  let mr := s.cache.nextReg
  if 1024 ≤ s.cache.regs.length then s
  else (List.range count).foldl (fun s i => fillingLine mr ⟨nsid, lba + i⟩ s) { s with
    cache.regs := s.cache.regs ++ [⟨mr, .internal, nsid, lba, count, [], false, [], [], [], [], s.clock.ns⟩]
    cache.nextReg := mr + 1 }

/-- Registers that may be given to reads of hosts: 64 of the 1,024 are kept for INTERNAL reads (R380). -/
def regFree (s : State) : Bool := s.cache.regs.length < 960

/-- A DEMAND register for a run of blocks of one band: its FILLING lines and its media read. -/
def demandReg (id nsid lba count : Nat) (k : BandKey) (off created : Nat) (s : State) : State :=
  let mr := s.cache.nextReg
  let s := { s with
    cache.regs := s.cache.regs ++ [⟨mr, .demand, nsid, lba, count, [id], false, [], [], [], [], s.clock.ns⟩]
    cache.nextReg := mr + 1, cache.misses := s.cache.misses + 1 }
  let s := (List.range count).foldl (fun s i => fillingLine mr ⟨nsid, lba + i⟩ s) s
  fileOp (.demandRead mr) k off count created (modCtx id (readFrom (chanOf k.head)) s)

/-! ## Lookup (R379) -/

/-- A block served from a READY slot is copied into a line as CLEAN with FROM_SIDE, and its slot freed; with no replaceable
way the slot stays READY (R385). -/
def slotToLine (x : SideSlot) (s : State) : State :=
  let gen := (locateBlock s x.block).elim 0 (fun y => (bandRec s y.1).gen)
  match allocLine (fun w => mediaLine x.block w .clean gen none true x.data) x.block s with
  | none => s
  | some s' =>
    let s' := freeSlots (fun y => y.block = x.block && y.ready) s'
    match visibleLine s' x.block with | none => s' | some l => touch (setOf l.block) l.way.val s'

/-- A merged read is given at once a block that has already arrived (R381). -/
def fromReg (id i : Nat) (b : BlockKey) (m : MissReg) (s : State) : State :=
  match assocGet b.lba m.kept with | none => s | some d => takeBlock id i d s

/-- One block of a read looked up: taken, joined to a register, or still missing. -/
def lookupBlock (c : Ctx) (i : Nat) (s : State) : State :=
  let b := c.block i
  match locateBlock s b with
  | none => takeBlock c.id i 0 s
  | some (k, o) =>
    if (bandRec s k).lost.contains o then failBlock c.id i s
    else match visibleLine s b with
    | some l =>
      if l.poison then failBlock c.id i s
      else touch (setOf b) l.way.val (takeBlock c.id i l.data { s with cache.readHits := s.cache.readHits + 1 })
    | none =>
      if unwritten s k o then takeBlock c.id i 0 s
      else match readySlot s b with
      | some x => slotToLine x (takeBlock c.id i x.data { s with cache.sideHits := s.cache.sideHits + 1 })
      | none =>
        match s.cache.regs.find? (fun m => m.serves b) with
        | some m => if m.merged.contains c.id || m.merged.length < 16 then fromReg c.id i b m (mergeInto c.id m s) else s
        | none => s

/-- A block that a read still needs is on its way to it. -/
def onItsWay (s : State) (id : Nat) (b : BlockKey) : Bool :=
  s.cache.regs.any (fun m => m.covers b && m.merged.contains id && !m.arrived.contains b.lba)

/-- A register that a read could join covers the block, but is full: the read waits for it to end (R381). -/
def mustWait (s : State) (b : BlockKey) : Bool := s.cache.regs.any (fun m => m.serves b)

/-- The run of missing blocks of a read from index `i` on: contiguous, within one band, at most 64 (R380). -/
def missingRun (s : State) (c : Ctx) (k : BandKey) (i : Nat) : Nat :=
  ((List.range 64).takeWhile (fun j =>
    c.waiting.contains (i + j) && !onItsWay s c.id (c.block (i + j)) && !mustWait s (c.block (i + j)) &&
      (locateBlock s (c.block (i + j))).any (fun x => x.1 = k))).length

/-- DEMAND registers for the missing blocks of a read; a read that finds no free register waits for one (R380). -/
def allocRuns (id : Nat) : List Nat → State → State
  | [], s => s
  | i :: rest, s =>
    match ctxOf s id with
    | none => s
    | some c =>
      match locateBlock s (c.block i) with
      | none => allocRuns id rest s
      | some (k, o) =>
        let n := missingRun s c k i
        if n = 0 || !regFree s then allocRuns id rest s
        else allocRuns id rest (demandReg id c.ns (c.start + i) n k o c.admittedNs s)

/-- Every block a read still needs and that is not on its way is looked up (R379). -/
def lookupRead (id : Nat) (s : State) : State :=
  match ctxOf s id with
  | none => s
  | some c =>
    let todo := c.waiting.filter (fun i => !onItsWay s id (c.block i))
    let s := todo.foldl (fun s i => lookupBlock c i s) s
    allocRuns id todo s

/-- Reads that wait for a register to end look up again (R380, R381). -/
def lookupWaiting (s : State) : State :=
  ((s.cmds.ctxs.filter (fun c => c.openRead && c.started && c.waiting ≠ [])).map (·.id)).foldl (fun s id => lookupRead id s) s

/-! ## Arrival (R382, R383) -/

/-- A register with every block arrived ends: its lines and slots that did not fill are gone, its stream may prefetch again. -/
def endReg (mr : Nat) (s : State) : State :=
  match s.cache.regs.find? (fun m => m.id = mr) with
  | none => s
  | some m =>
    let s := dropLines (fun l => l.state = .filling && l.mr = some mr) s
    let s := if m.kind = .prefetch then freeSlots (fun x => !x.ready && !x.transient && m.covers x.block) s
      else freeSlots (fun x => x.transient && m.transient.contains x.block.lba && m.covers x.block) s
    let s := { s with
      cache.regs := s.cache.regs.filter (fun m => m.id ≠ mr)
      cache.streams := s.cache.streams.map (fun x => if x.inFlight = some mr then { x with inFlight := none } else x) }
    lookupWaiting s

/-- The reads merged into a register that wait for a block. -/
def mergedReads (s : State) (m : MissReg) (lba : Nat) : List (Nat × Nat) :=
  m.merged.filterMap (fun id => (ctxOf s id).bind (fun c =>
    if c.openRead && c.start ≤ lba && c.waiting.contains (lba - c.start) then some (id, lba - c.start) else none))

/-- A block is marked as arrived, and the register ends with its last block. -/
def markArrived (mr lba : Nat) (s : State) : State :=
  let s := modReg mr (fun m => { m with arrived := if m.arrived.contains lba then m.arrived else m.arrived ++ [lba] }) s
  match s.cache.regs.find? (fun m => m.id = mr) with
  | none => s
  | some m => if m.count ≤ m.arrived.length then endReg mr s else s

/-- A block arrives for a register (R382): delivered to every merged read, then installed or dropped. A block of a PREFETCH
register that a read took is copied into a line (R385). -/
def arrive (mr lba : Nat) (d : Block) (s : State) : State :=
  match s.cache.regs.find? (fun m => m.id = mr) with
  | none => s
  | some m =>
    let b : BlockKey := ⟨m.nsid, lba⟩
    let dest := mergedReads s m lba
    let s := dest.foldl (fun s x => takeBlock x.1 x.2 d s) s
    let keep := !m.stale && !m.written.contains lba && s.cache.mode ≠ .off && (visibleLine s b).isNone
    let mine := fun (l : Line) => l.state = .filling && l.mr = some mr && l.block = b
    let s := if m.kind = .prefetch then
        if !keep then freeSlots (fun x => x.block = b && !x.ready && !x.transient) s
        else
          let s := { s with cache.side := s.cache.side.map (fun x => if x.block = b && !x.transient then { x with ready := true, data := d } else x) }
          match dest, readySlot s b with | _ :: _, some x => slotToLine x s | _, _ => s
      else if m.transient.contains lba then freeSlots (fun x => x.block = b && x.transient) s
      else if !keep then dropLines mine s
      else
        let way := (s.cache.lines.find? mine).map (·.way.val)
        let s := mapLines (fun l => if mine l then { l with state := .clean, mr := none, data := d } else l) s
        match way with | none => s | some w => touch (setOf b) w s
    markArrived mr lba (modReg mr (fun m => { m with kept := assocSet lba d m.kept }) s)

/-- The reads that one controller fetched fail for a block that is still being recovered: their own time limit has passed (spec 10,
R300). -/
def arriveBadFor (p : PortId) (mr lba : Nat) (s : State) : State :=
  match s.cache.regs.find? (fun m => m.id = mr) with
  | none => s
  | some m =>
    ((mergedReads s m lba).filter (fun x => (ctxOf s x.1).any (·.port = p))).foldl (fun s x => failBlock x.1 x.2 s) s

/-- A block of a register that cannot be read: its reads fail for it, nothing is installed (spec 07, R220). -/
def arriveBad (mr lba : Nat) (s : State) : State :=
  match s.cache.regs.find? (fun m => m.id = mr) with
  | none => s
  | some m =>
    let b : BlockKey := ⟨m.nsid, lba⟩
    let s := (mergedReads s m lba).foldl (fun s x => failBlock x.1 x.2 s) s
    let s := dropLines (fun l => l.state = .filling && l.mr = some mr && l.block = b) s
    let s := freeSlots (fun x => x.block = b && !x.ready && (x.transient = (m.kind ≠ .prefetch))) s
    markArrived mr lba s

/-- A register still wants its media read: a merged read waits for it, or it is no DEMAND register and not STALE (R338, R392). -/
def regWanted (s : State) (mr : Nat) : Bool :=
  s.cache.regs.any (fun m => m.id = mr && (m.merged.any (fun id => (ctxOf s id).any (·.openRead)) || (m.kind ≠ .demand && !m.stale)))

/-- The register of a media read of a block: its own, of a verification the INTERNAL one that covers the block. -/
def opReg (s : State) (o : MediaOp) (b : BlockKey) : Option Nat :=
  match o.kind with
  | .demandRead mr => some mr
  | .verify => (s.cache.regs.find? (fun m => m.kind = .internal && m.covers b)).map (·.id)
  | _ => none

/-- The registers of a media read. -/
def opRegs (s : State) (o : MediaOp) : List Nat :=
  match o.kind with
  | .demandRead mr => [mr]
  | .verify =>
    (s.cache.regs.filter (fun m => m.kind = .internal && (locateBlock s ⟨m.nsid, m.lba⟩).any (fun x => x.1 = o.band))).map (·.id)
  | _ => []

/-- A media read has a use (R338, R392). -/
def opWanted (s : State) (o : MediaOp) : Bool :=
  match o.kind with
  | .demandRead mr => regWanted s mr
  | .verify => (opRegs s o).all (fun mr => regWanted s mr)
  | _ => true

/-- The runs of at most 64 blocks of `n` blocks from `a` on. -/
def runsOf64 (a n : Nat) : List (Nat × Nat) := (List.range (ceilDiv n 64)).map (fun i => (a + 64 * i, min 64 (n - 64 * i)))

/-- The INTERNAL registers of a verification read that begins on a channel (R380), in place of those that an earlier one has left. -/
def internalRegs (o : MediaOp) (s : State) : State :=
  if o.kind ≠ .verify then s
  else
    let s := (opRegs s o).foldl (fun s mr => endReg mr s) s
    match blockAt s o.band o.offset with
    | none => s
    | some b => (runsOf64 b.lba o.count).foldl (fun s x => internalReg b.nsid x.1 x.2 s) s

/-- A register has a read of its own still to come: an operation, or a sector being decoded or recovered. -/
def regBusy (s : State) (mr : Nat) : Bool :=
  let mine := fun (o : MediaOp) => (opRegs s o).contains mr
  s.sched.queue.any mine || allChans.any (fun n => (s.rwc n).op.any mine || s.sched.placed[n].any mine
    || (s.rwc n).ladders.any (fun l => mine l.op) || (s.rwc n).decoding.any (fun c => mine c.op))

/-- The registers that nothing wants and whose media read is over end (R392). -/
def endUnwanted (s : State) : State :=
  ((s.cache.regs.filter (fun m => !regWanted s m.id && !regBusy s m.id)).map (·.id)).foldl (fun s mr => endReg mr s) s

/-! ## Streams and read-ahead (R384) -/

/-- A block can be read ahead: on media, and neither cached, in flight nor under a write that is still open (log 26). -/
def aheadBlock (s : State) (b : BlockKey) : Bool :=
  (match locateBlock s b with
    | none => false
    | some (k, o) => !unwritten s k o && !(bandRec s k).lost.contains o)
  && (visibleLine s b).isNone && (readySlot s b).isNone && !s.cache.regs.any (fun m => m.covers b)
  && !s.cmds.ctxs.any (fun c => c.openWrite && c.ns = b.nsid && c.start ≤ b.lba && b.lba < c.start + c.entry.nlb)

/-- A block lies in the cache or is in flight. -/
def cachedOrComing (s : State) (b : BlockKey) : Bool :=
  (visibleLine s b).isSome || (readySlot s b).isSome || s.cache.regs.any (fun m => m.covers b)

/-- The read-ahead of a stream: its first block and its length, within the band and below the write pointer. -/
def aheadRun (s : State) (nsid next : Nat) : Nat × Nat :=
  let z := next / 65536
  let fuel := (z + 1) * 65536 - next
  match firstFrom (fun a => !cachedOrComing s ⟨nsid, a⟩) fuel next with
  | none => (next, 0)
  | some a => (a, ((List.range (min (cfg s 0x2300 5) ((z + 1) * 65536 - a))).takeWhile (fun i => aheadBlock s ⟨nsid, a + i⟩)).length)

/-- A PREFETCH register is allocated for a stream while at least 128 registers are free (R380, R384). -/
def prefetch (x : Stream) (s : State) : Stream × State :=
  let (a, n) := aheadRun s x.nsid x.next
  match findNs s x.nsid with
  | none => (x, s)
  | some ns =>
    match locate ns a with
    | none => (x, s)
    | some (k, o) =>
      if n = 0 || 896 < s.cache.regs.length then (x, s)
      else
        let mr := s.cache.nextReg
        let s := { s with
          cache.regs := s.cache.regs ++ [⟨mr, .prefetch, x.nsid, a, n, [], false, [], [], [], [], s.clock.ns⟩]
          cache.nextReg := mr + 1, cache.prefetches := s.cache.prefetches + 1 }
        let s := (List.range n).foldl (fun s i => (takeSlot ⟨x.nsid, a + i⟩ false s).getD s) s
        ({ x with prefetched := a, inFlight := some mr }, fileOp (.demandRead mr) k o n s.clock.ns s)

/-- A stream extended by a read that ends before block `stop` (R384): read-ahead after the second consecutive extension, and
whenever its reads reach its prefetched blocks. -/
def extendStream (x : Stream) (stop : Nat) (s : State) : State :=
  let x := { x with next := stop, extensions := x.extensions + 1 }
  let due := x.extensions = 2 || (2 < x.extensions && x.prefetched < stop)
  let (x, s) := if due && x.inFlight.isNone && cfg s 0x2300 5 ≠ 0 then prefetch x s else (x, s)
  { s with cache.streams := s.cache.streams ++ [x] }

/-- A read follows or starts a stream (R384). -/
def noteStream (nsid start count : Nat) (s : State) : State :=
  match s.cache.streams.findIdx? (fun x => x.nsid = nsid && x.next = start) with
  | some i =>
    match s.cache.streams[i]? with
    | none => s
    | some x => extendStream x (start + count) { s with cache.streams := s.cache.streams.eraseIdx i }
  | none =>
    let l := if 32 ≤ s.cache.streams.length then s.cache.streams.drop 1 else s.cache.streams
    { s with cache.streams := l ++ [⟨nsid, start + count, 0, 0, none⟩] }

/-! ## Starting a read -/

/-- A read may take its data: no earlier overlapping write is open, no earlier action on its zones, no band of it held (spec
11, R327, R332; spec 13, R401). -/
def mayRead (s : State) (c : Ctx) : Bool := !earlierWrite s c && !zoneActionBefore s c && !bandHeld s c

/-- A read starts (R379). -/
def startRead (c : Ctx) (s : State) : State :=
  let s := modCtx c.id (fun c => { c with
    started := true, result := .blocks (List.replicate c.entry.nlb 0), waiting := List.range c.entry.nlb }) s
  noteStream c.ns c.start c.entry.nlb (lookupRead c.id s)

/-! ## Writes against fills (R382, R385) -/

/-- A write admitted over a range: its READY slots become FREE, and its blocks are noted in every register that covers them. -/
def writeOverFills (nsid lba count : Nat) (s : State) : State :=
  let hit := fun (b : BlockKey) => b.nsid = nsid && lba ≤ b.lba && b.lba < lba + count
  let s := freeSlots (fun x => hit x.block && x.ready) s
  { s with cache.regs := s.cache.regs.map (fun m =>
      if m.nsid = nsid && m.lba < lba + count && lba < m.lba + m.count then
        { m with written := m.written ++ ((List.range m.count).map (m.lba + ·)).filter (fun x => lba ≤ x && x < lba + count && !m.written.contains x) }
      else m) }

/-! ## Poisoned lines (R386) -/

/-- A read that was to take a block from a lost line looks it up again. -/
def relook (b : BlockKey) (s : State) : State :=
  { s with cache.regs := s.cache.regs.map (fun m => if m.covers b then { m with transient := b.lba :: m.transient.filter (· ≠ b.lba) } else m) }

/-- A line of which a word is uncorrectable or poisoned, handled by its state and counted once (R386). A FILLING line is given up: its block is
delivered to its reads when it arrives and not installed. -/
def poisonLine (l : Line) (s : State) : State :=
  let s := if l.poison || l.state = .invalid then s else { s with cache.poisoned := s.cache.poisoned + 1 }
  match l.state with
  | .invalid => s
  | .clean => dropLines (sameLine l) s
  | .filling => relook l.block (dropLines (sameLine l) s)
  | .shadow => dropLines (sameLine l) { s with cache.shadowEarly := s.cache.shadowEarly + 1 }
  | .dirty => mapLines (fun x => if sameLine l x then { x with poison := true } else x) s
  | .held =>
    match ctxOf s l.version with
    | none => dropLines (sameLine l) s
    | some c => if c.committed then s else endUnacked c .internalError s

end Sys2Proof.Machine
end

