-- ==== Sys2Proof/Machine/Lamgor.lean ====
section
/-! DEFINITION. The Lamgor code (spec 12, R352 to R355): the field GF(2^8), the encoder, the checker and the poison signature, and the
words of one channel in their one form. -/

namespace Sys2Proof.Machine

/-! ## The field -/

/-- Multiplication by α = 0x02 modulo x^8 + x^4 + x^3 + x^2 + 1 (R352). -/
def timesAlpha (b : Byte) : Byte := if b.msb then (b <<< 1) ^^^ 0x1D else b <<< 1

/-- Multiplication by α^j. -/
def timesAlphaPow : Nat → Byte → Byte
  | 0, b => b
  | j + 1, b => timesAlphaPow j (timesAlpha b)

/-- Multiplication in the field, by the bits of the second factor from bit `k` down. -/
def gfMulBits : Nat → Byte → Byte → Byte
  | 0, _, _ => 0
  | k + 1, a, b => timesAlpha (gfMulBits k a (b >>> 1)) ^^^ (if b.getLsbD 0 then a else 0)

/-- Multiplication in the field. -/
def gfMul (a b : Byte) : Byte := gfMulBits 8 a b

/-! ## Words -/

/-- Symbol `j` of a word (R353): c(35 - j). -/
def symbol (w : BufWord) (j : Nat) : Byte := w.extractLsb' (8 * j) 8

/-- The data bytes of a word: symbols 0 to 31. -/
def wordData (w : BufWord) : BitVec 256 := w.extractLsb' 0 256

/-- A word from its data and its check symbols c3 to c0 (symbols 32 to 35). -/
def wordOf (d : BitVec 256) (c3 c2 c1 c0 : Byte) : BufWord := (c0 ++ c1 ++ c2 ++ c3 ++ d : BitVec 288)

/-- One step of the division by g(x) = (x + 1)(x + α)(x + α²)(x + α³) = x⁴ + 0x0F x³ + 0x36 x² + 0x78 x + 0x40 (R352). -/
def divStep (r : Byte × Byte × Byte × Byte) (d : Byte) : Byte × Byte × Byte × Byte :=
  let f := d ^^^ r.1
  (r.2.1 ^^^ gfMul f 0x0F, r.2.2.1 ^^^ gfMul f 0x36, r.2.2.2 ^^^ gfMul f 0x78, gfMul f 0x40)

/-- The codeword of 32 data bytes (R352). -/
def encodeWord (d : BitVec 256) : BufWord :=
  let r := (List.range 32).foldl (fun r k => divStep r (d.extractLsb' (8 * k) 8)) (0, 0, 0, 0)
  wordOf d r.1 r.2.1 r.2.2.1 r.2.2.2

/-- Syndrome `j`: c(α^j) (R354). -/
def syndrome (w : BufWord) (j : Nat) : Byte := (List.range 36).foldl (fun a k => timesAlphaPow j a ^^^ symbol w k) 0

/-- The classification of a word read (R354). -/
def checkWord (w : BufWord) : WordCheck :=
  let s0 := syndrome w 0
  let s1 := syndrome w 1
  let s2 := syndrome w 2
  let s3 := syndrome w 3
  if s0 = 0 && s1 = 0 && s2 = 0 && s3 = 0 then .clean
  else if s0 ≠ 0 then
    match (List.range 36).find? (fun i => s1 = timesAlphaPow i s0 && s2 = timesAlphaPow i s1 && s3 = timesAlphaPow i s2) with
    | some i => .corrected (35 - i) s0
    | none => .uncorrectable
  else if s1 = gfMul 0xFF (0x02 ^^^ 1) && s2 = gfMul 0xFF (0x04 ^^^ 1) && s3 = gfMul 0xFF (0x08 ^^^ 1) then .poisoned
  else .uncorrectable

/-- A word with a value added to one symbol. -/
def addSymbol (w : BufWord) (j : Nat) (v : Byte) : BufWord := w ^^^ ((v.zeroExtend 288) <<< (8 * j))

/-- The poisoned word of given data (R355): the codeword with 0xFF added to symbols 34 and 35. -/
def poisonWord (d : BitVec 256) : BufWord := addSymbol (addSymbol (encodeWord d) 34 0xFF) 35 0xFF

/-- Written bytes merged into a word's data: byte `k` where bit `k` of the mask is set (R362). -/
def mergeBytes (old new : BitVec 256) (mask : BitVec 32) : BitVec 256 :=
  (List.range 32).foldr (fun k a => (a <<< 8) ||| ((if mask.getLsbD k then new else old).extractLsb' (8 * k) 8).zeroExtend 256) 0

/-! ## The self-test (R356) -/

/-- The cases of each step of Table 12.3. -/
def selfTestCases (step : Fin 6) : Nat := [1, 256, 324, 630, 34, 1].getD step.val 0

/-- The values injected in step 3. -/
def selfTestValues : List Byte := [0x01, 0x02, 0x04, 0x08, 0x10, 0x20, 0x40, 0x80, 0xFF]

/-- The outcome that a case of a step requires (Table 12.3); the cases of step 3 run through the values of each symbol in turn. -/
def selfTestRequired (step : Fin 6) (i : Nat) : WordCheck :=
  match step.val with
  | 0 | 1 => .clean
  | 2 => .corrected (i / 9) (selfTestValues.getD (i % 9) 0)
  | 3 | 4 => .uncorrectable
  | _ => .poisoned

/-- The 630 pairs of positions of step 4. -/
def selfTestPairs : List (Nat × Nat) := (List.range 36).flatMap (fun a => (List.range (35 - a)).map (fun d => (a, a + d + 1)))

/-- The data of a case: zero, one bit, all ones in case 256 of step 2, or the word of the ROM. -/
def selfTestData (rom : BitVec 256) (step : Fin 6) (i : Nat) : BitVec 256 :=
  match step.val with
  | 0 => 0
  | 1 => if i < 256 then 1 <<< i else BitVec.allOnes 256
  | _ => rom

/-- The check symbols of a word, c3 lowest. -/
def checkSymbols (w : BufWord) : Word32 := w.extractLsb' 256 32

/-- The check symbols that the encoder gives in a case. -/
def selfTestChecks (r : SelftestReading) (step : Fin 6) (i : Nat) : Word32 :=
  ((r.oddChecks.find? (fun x => x.1 = step && x.2.1 = i)).map (·.2.2)).getD (checkSymbols (encodeWord (selfTestData r.romWord step i)))

/-- The word that the checker gets in a case, with the errors of Table 12.3: of a pair of step 4, 0x01 at the lower position and 0x80 at
the upper (DEDUCED, log 32). -/
def selfTestWord (r : SelftestReading) (step : Fin 6) (i : Nat) : BufWord :=
  let w : BufWord := selfTestChecks r step i ++ selfTestData r.romWord step i
  match step.val with
  | 2 => addSymbol w (i / 9) (selfTestValues.getD (i % 9) 0)
  | 3 => addSymbol (addSymbol w (selfTestPairs.getD i (0, 1)).1 0x01) (selfTestPairs.getD i (0, 1)).2 0x80
  | 4 => addSymbol (addSymbol (addSymbol w i 0x5A) (i + 1) 0x5A) (i + 2) 0x5A
  | 5 => addSymbol (addSymbol w 34 0xFF) 35 0xFF
  | _ => w

/-- The outcome of a case. -/
def selfTestOutcome (r : SelftestReading) (step : Fin 6) (i : Nat) : WordCheck :=
  ((r.odd.find? (fun x => x.1 = step && x.2.1 = i)).map (·.2.2)).getD (checkWord (selfTestWord r step i))

/-- The signature of step 2: the CRC-32 of R114 over the check symbols of its 256 words in order, each word's c3 first (DEDUCED, log 32). -/
def selfTestFolded (r : SelftestReading) : Word32 :=
  crc32 ((List.range 256).flatMap (fun i => (List.range 4).map (fun k => (selfTestChecks r 1 i).extractLsb' (8 * k) 8)))

/-- The check symbols of the all-ones word are the sum of those of the 256 words. -/
def selfTestSumOk (r : SelftestReading) : Bool :=
  (List.range 256).foldl (fun a i => a ^^^ selfTestChecks r 1 i) 0 = selfTestChecks r 1 256

/-- A step fails if a case gives another outcome than the one required: step 1 also on check symbols that are not zero, step 2 on its
signature or its sum. -/
def selfTestFails (r : SelftestReading) (step : Fin 6) : Bool :=
  (List.range (selfTestCases step)).any (fun i => selfTestOutcome r step i ≠ selfTestRequired step i)
    || (step = 0 && selfTestChecks r 0 0 ≠ 0) || (step = 1 && !(selfTestFolded r = r.signature && selfTestSumOk r))

/-! ## The words of a channel -/

/-- The word at a row; a row that is not listed holds zero (R357). -/
def readRow (ws : List (Nat × BufWord)) (row : Nat) : BufWord := ((ws.find? (fun e => e.1 = row)).map (·.2)).getD 0

/-- The listed words with one row written: rows strictly rising, no word zero. -/
def writeRow (row : Nat) (w : BufWord) : List (Nat × BufWord) → List (Nat × BufWord)
  | [] => if w = 0 then [] else [(row, w)]
  | e :: r =>
    if e.1 < row then e :: writeRow row w r
    else
      let rest := if e.1 = row then r else e :: r
      if w = 0 then rest else (row, w) :: rest

/-- The form of the listed words: rows strictly rising, no word zero. -/
def wordsWf : List (Nat × BufWord) → Bool
  | [] => true
  | [e] => e.2 ≠ 0
  | e :: f :: r => e.2 ≠ 0 && decide (e.1 < f.1) && wordsWf (f :: r)

end Sys2Proof.Machine
end

