-- ==== Sys2Proof/Machine/Signal.lean ====
section
/-! DEFINITION. The signal path of the read channel (spec 07): the two reader front-ends (R188 to R191), sampling and timing recovery
(R192 to R194), the joint equaliser (R201), thermal asperities (R214, R215) and back-framing (R199). What the manual leaves out (the
analogue transfer functions, the interpolator's coefficients, the error detectors, the preliminary detector) is opaque in Config (log 35). -/

namespace Sys2Proof.Machine

/-! ## What a read works with (R213, R224 to R226) -/

/-- SAMPLE_PCT. -/
def ReadParams.pct (p : ReadParams) : Nat := byteAt p.set 0
/-- AMP_TARGET. -/
def ReadParams.amp (p : ReadParams) : Nat := byteAt p.set 10

/-- An equaliser set: a joint set, or the single-reader set of one reader. -/
inductive EqSel where
  | joint (k : Nat) | single (readerB : Bool)
deriving DecidableEq, Repr

/-- The set in force for a choice (R222): with one reader of the head retired, the surviving reader's single-reader set. -/
def ReadParams.choose (p : ReadParams) (e : EqSel) : EqSel :=
  if p.readerA && p.readerB then e else if p.readerA then .single false else if p.readerB then .single true else e

/-- Sixteen taps of the HEAD_EQ record from byte `i`, in 1/4,096. -/
def tapsAt (r : List Byte) (i : Nat) : List Int := (List.range 16).map (fun k => fieldS r (i + 2 * k) 2)

/-- The taps of reader A and of reader B in a set (R201, R226): with a single-reader set the other reader's are zero. -/
def ReadParams.taps (p : ReadParams) (e : EqSel) : List Int × List Int :=
  let none_ := List.replicate 16 (0 : Int)
  match p.choose e with
  | .joint k => (tapsAt p.eq (64 * k), tapsAt p.eq (64 * k + 32))
  | .single false => (tapsAt p.eq 256, none_)
  | .single true => (none_, tapsAt p.eq 288)

/-- A FIR: tap `k` times the sample `k` places before the newest (R201, R277 of spec 09). -/
def firOut (taps xs : List Int) : Int := (List.zipWith (· * ·) taps xs).sum

/-- The joint signal from the newest bit-rate samples of both readers (R201): of the bit seven before the newest, the centre tap being
tap 7. -/
def jointOut (t : List Int × List Int) (a b : List Int) : Int := (firOut t.1 a + firOut t.2 b) / 4096

/-! ## The bits of a capture (R194, R206) -/

/-- What passes the head in a capture span: 32 bits before the sector, its bits, the splice and re-acquisition fields about a servo field,
and 32 bits after it. -/
inductive BitKind where
  | lead | sector (i : Nat) | splice | reacq (i : Nat) | trail
deriving DecidableEq, Repr

/-- The bits of the pieces of a sector, with the fields between them. -/
def pieceBits : List (Nat × Nat × Nat) → Nat → List BitKind
  | [], _ => []
  | (_, _, len) :: r, at_ =>
    (List.range len).map (fun i => .sector (at_ + i))
      ++ (if r = [] then [] else List.replicate 16 .splice ++ (List.range 32).map .reacq ++ pieceBits r (at_ + len))

/-- The bits of the capture span of a sector with pieces `l`. -/
def spanBits (l : List (Nat × Nat × Nat)) : List BitKind := List.replicate 32 .lead ++ pieceBits l 0 ++ List.replicate 32 .trail

/-- The ADC samples of a number of bits (R191). -/
def samplesOf (p : ReadParams) (bits : Nat) : Nat := ceilDiv (bits * p.pct) 100

/-! ## A front-end (R188, R190, R214) -/

/-- The state of one reader's front-end: the inputs still to be sampled, those sampled and the ADC codes, newest first, the VGA gain in
2^-14 of 0.125 dB, whether it reached an end of its range, the outputs of the VGA and the bit-rate samples, newest first, and the
asperities: the runs of bits above the threshold and within it, each with the sector bit that it began at, the first bit of the asperity
under way, and the spans that have ended. -/
structure Reader where
  todo : List Int
  past : List Int
  amplified : List Int
  codes : List Int
  gain : Int
  limit : Bool
  bits : List Int
  above : Nat × Nat
  within : Nat × Nat
  hot : Option Nat
  spans : List (Nat × Nat)
deriving DecidableEq, Repr

/-- Codes -128 to +127 of 1.0 V full scale (Table 7.1), with the offset trim. Rounded to nearest (DESIGN CHOICE, log 35). -/
def adcCode (uv trim : Int) : Int := clampInt (-128) 127 ((uv * 256 + 500000) / 1000000 + trim)

/-- VGA gain in 0.125 dB, within 0 to 240 (Table 7.1). -/
def Reader.step (r : Reader) : Nat := (clampInt 0 240 (r.gain / 16384)).toNat

/-- The gain moved (R190): at either end of its range it is held there, and to have reached it is noted. -/
def Reader.moveGain (d : Int) (r : Reader) : Reader :=
  let g := r.gain + d
  { r with gain := clampInt 0 (240 * 16384) g, limit := r.limit || g ≤ 0 || 240 * 16384 ≤ g }

/-- The largest number of 24 bits whose 160th power, times `den`, is no more than `num`. -/
def root160 (num den : Nat) : Nat :=
  (List.range 24).reverse.foldl (fun y k => if (y + 2 ^ k) ^ 160 * den ≤ num then y + 2 ^ k else y) 0

/-- The VGA (Table 7.1): a step of 0 is -6 dB and each one more 0.125 dB, so that it multiplies by the 160th root of 10 to the power of its
step less 48. Rounded toward zero to whole microvolts (DESIGN CHOICE, log 44). -/
def vga (step : Nat) (x : Int) : Int :=
  let y := root160 (x.natAbs ^ 160 * 10 ^ step) (10 ^ 48)
  if x < 0 then -(y : Int) else y

/-- The next ADC sample: of the live input through the stages of Table 7.1 in their order, the high-pass corner raised to TA_HP_MHZ in an
asperity (R215), or a stored code as it is. -/
def Reader.sample (p : ReadParams) (live : Bool) (trim : Int) (r : Reader) : Reader :=
  match r.todo with
  | [] => r
  | x :: rest =>
    let past := x :: r.past
    let hpf := if r.hot.isSome then 2 * p.taHpMhz else byteAt p.set 3
    let amplified := vga r.step (Config.highPass hpf (p.rate * p.pct) past) :: r.amplified
    let code := if live then adcCode (Config.lowPass (byteAt p.set 1) (byteAt p.set 2) p.rate amplified) trim else x
    { r with todo := rest, past := past, amplified := amplified, codes := code :: r.codes }

/-- ADC samples taken until there are `k`. -/
def Reader.sampleTo (p : ReadParams) (live : Bool) (trim : Int) (k : Nat) (r : Reader) : Reader :=
  (List.range (k - r.codes.length)).foldl (fun r _ => Reader.sample p live trim r) r

/-- The baseline, the mean of the 16 ADC samples up to number `k`, lies above TA_THRESHOLD (R214). -/
def Reader.aboveThreshold (p : ReadParams) (k : Nat) (r : Reader) : Bool :=
  16 * p.taThreshold < (((r.codes.drop (r.codes.length - k)).take 16).sum).natAbs

/-- A run one bit longer, at sector bit `i`. -/
def longer (i : Nat) (x : Nat × Nat) : Nat × Nat := (x.1 + 1, if x.1 = 0 then i else x.2)

/-- The asperity of a reader after a bit (R214), `k` being the ADC samples up to it and `i` the sector bit that it is or that comes next: it
begins with a run of TA_MIN_LEN bits above the threshold and ends with a run of 64 within it; the span runs from the first bit of the one
to the last bit before the other. -/
def Reader.asperity (p : ReadParams) (k i : Nat) (r : Reader) : Reader :=
  if r.aboveThreshold p k then
    let x := longer i r.above
    { r with above := x, within := (0, 0), hot := if r.hot.isNone && p.taMinLen ≤ x.1 then some x.2 else r.hot }
  else
    let x := longer i r.within
    let r := { r with above := (0, 0), within := x }
    match r.hot with
    | none => r
    | some f => if x.1 < 64 then r else { r with hot := none, spans := r.spans ++ [(f, x.2 - f)] }

/-- The asperity that the capture's end finds open ends with it (DESIGN CHOICE, log 35). -/
def Reader.close (i : Nat) (r : Reader) : Reader :=
  match r.hot with
  | none => r
  | some f => { r with hot := none, spans := r.spans ++ [(f, i - f)] }

/-! ## The loop (R192, R193) -/

/-- The state of a read: both readers; the instant of the next bit and the loop's frequency in 2^-20 bit, past the nominal; the joint
samples and the preliminary decisions, newest first; the instants and frequencies of the bits gone by, newest first; the sector bit that
comes next. -/
structure Track where
  a : Reader
  b : Reader
  phase : Int
  freq : Int
  joint : List Int
  decided : List Bool
  marks : List (Int × Int)
  bit : Nat
deriving DecidableEq, Repr

/-- The clamp of the loop's frequency: ±0.5 % of the channel rate (R192). -/
def clampFreq (f : Int) : Int := clampInt (-5242) 5242 f

/-- The interpolated sample of a stream of codes, the oldest first, at an instant in 1/64 bit (R192). -/
def sampleAt (p : ReadParams) (codes : List Int) (q : Int) : Int :=
  let x := q * p.pct
  let i := x / 6400
  Config.interpolate (x % 6400).toNat ((List.range 8).map (fun k => if i + k < 3 then 0 else codes.getD (i + k - 3).toNat 0))

/-- The delay of reader B in 1/64 bit: RDB_DELAY and RDB_PHASE (R192). -/
def readerDelay (p : ReadParams) : Int := (64 * byteAt p.fe 4 + byteAt p.fe 5 : Nat)

/-- The preamble's bit at a place: 0b1100 repeated. -/
def patternBit (i : Nat) : Bool := i % 4 < 2

/-- The correlation of 32 samples, oldest first, with 0b1100 and with its quadrature (R193). -/
def correlate (l : List Int) : Int × Int :=
  ((l.zipIdx.map (fun x => if x.2 % 4 < 2 then x.1 else -x.1)).sum, (l.zipIdx.map (fun x => if (x.2 + 1) % 4 < 2 then x.1 else -x.1)).sum)

/-- The bits of 40 ns, by which a preliminary decision follows its joint sample. -/
def detectorLag (rate : Nat) : Nat := 40 * rate / 1000

/-- The gains of the readers in service moved (R190, R222). -/
def Track.moveGains (p : ReadParams) (g : Reader → Int) (t : Track) : Track :=
  { t with a := if p.readerA then t.a.moveGain (g t.a) else t.a, b := if p.readerB then t.b.moveGain (g t.b) else t.b }

/-- In an asperity of either reader gain, phase and frequency are held (R215). -/
def Track.inAsperity (t : Track) : Bool := t.a.hot.isSome || t.b.hot.isSome

/-- Gain and timing updates shifted by their loop gains (R193), from joint samples and the bits that they were sent as, newest first. -/
def Track.update (p : ReadParams) (kg kp ki : Nat) (joint : List Int) (sent : List Bool) (t : Track) : Track :=
  if t.inAsperity then t
  else
    let g := Config.gainError p.amp joint sent / (2 ^ kg : Nat)
    let e := Config.timingError joint sent
    { t.moveGains p (fun _ => g) with
      phase := t.phase + e / (2 ^ kp : Nat), freq := clampFreq (t.freq + e / (2 ^ ki : Nat)) }

/-- The zero-phase start (R193): the VGA of each reader set once from the correlation of its samples of sector bits 0 to 31. -/
def Track.setGains (p : ReadParams) (t : Track) : Track :=
  if t.inAsperity then t
  else t.moveGains p (fun r =>
    let c := correlate ((r.bits.take 32).reverse)
    16384 * Config.acquireGain p.amp c.1 c.2)

/-- The phase set once from the correlation of the last 32 joint samples (R193, R194). -/
def Track.setPhase (t : Track) : Track :=
  if t.inAsperity then t
  else
    let c := correlate ((t.joint.take 32).reverse)
    { t with phase := t.phase + Config.acquirePhase c.1 c.2 }

/-- What the loops do at a bit (Table 7.2, R194, R215), `k` being the bit just sampled and `kj` the one that the newest joint sample is of:
acquisition on the preamble, tracking on the decisions with the joint samples that they are of after it; the phase re-estimated at the end of a re-acquisition field, everything held in the
splice field and outside the sector. -/
def Track.control (p : ReadParams) (k kj : BitKind) (t : Track) : Track :=
  let t := if k = .sector 31 then t.setGains p else t
  match kj with
  | .sector i =>
    if i < 31 then t
    else if i = 31 then t.setPhase
    else if i < 64 then
      t.update p (byteAt p.set 8) (byteAt p.set 4) (byteAt p.set 5) t.joint ((List.range (i + 1)).reverse.map patternBit)
    else t.update p (byteAt p.set 9) (byteAt p.set 6) (byteAt p.set 7) (t.joint.drop (detectorLag p.rate)) t.decided
  | .reacq 31 => t.setPhase
  | _ => t

/-- One bit of a read (R192): the ADC samples it needs, the interpolated samples of both readers, the joint sample, the loops, and the
asperities. `n` counts the bits of the span from its first. -/
def Track.bitStep (p : ReadParams) (live : Bool) (sel : EqSel) (t : Track) (n : Nat) (k kj : BitKind) : Track :=
  let at_ : Int := (1048576 * n : Nat) + t.phase
  let q := at_ / 16384
  let need := ((q + 64 + readerDelay p) * p.pct / 6400 + 6).toNat
  let a := if p.readerA then t.a.sampleTo p live (fieldS p.fe 2 1) need else t.a
  let b := if p.readerB then t.b.sampleTo p live (fieldS p.fe 3 1) need else t.b
  let a := { a with bits := sampleAt p a.codes.reverse q :: a.bits }
  let b := { b with bits := sampleAt p b.codes.reverse (q + readerDelay p) :: b.bits }
  let joint := jointOut (p.taps sel) a.bits b.bits :: t.joint
  let bit := match k with | .sector i => i | _ => t.bit
  let upTo := fun (x : Int) => (x * p.pct / 6400 + 1).toNat
  let t := { t with
    a := a.asperity p (upTo q) bit, b := b.asperity p (upTo (q + readerDelay p)) bit, joint := joint
    decided := Config.preliminary p.rate joint :: t.decided
    marks := (t.phase, t.freq) :: t.marks, phase := t.phase + t.freq, bit := match k with | .sector i => i + 1 | _ => t.bit }
  t.control p k kj

/-- A reader at the start of a read, with its inputs and its start gain, which may be an end of the range (R190). -/
def Reader.start (inputs : List Int) (gain : Nat) : Reader :=
  { todo := inputs, past := [], amplified := [], codes := [], gain := 16384 * min 240 gain, limit := gain = 0 || 240 ≤ gain, bits := []
    above := (0, 0), within := (0, 0), hot := none, spans := [] }

/-- The bits of a span with the bit that the joint equaliser then puts out: it comes seven bits later, the centre tap being tap 7. -/
def withJoint (kinds : List BitKind) : List ((BitKind × BitKind) × Nat) := (kinds.zip (List.replicate 7 .lead ++ kinds)).zipIdx

/-- The ADC goes on to the end of the capture span (R206). -/
def Track.sampleAll (p : ReadParams) (live : Bool) (k : Nat) (t : Track) : Track :=
  { t with
    a := if p.readerA then t.a.sampleTo p live (fieldS p.fe 2 1) k else t.a
    b := if p.readerB then t.b.sampleTo p live (fieldS p.fe 3 1) k else t.b }

/-- A whole read of the capture span (R192 to R194): from the live inputs, or again from stored codes; the loop starts at the frequency
`freq`. -/
def runTrack (p : ReadParams) (live : Bool) (sel : EqSel) (kinds : List BitKind) (inA inB : List Int) (freq : Int) : Track :=
  let t := (withJoint kinds).foldl (fun t x => t.bitStep p live sel x.2 x.1.1 x.1.2)
    (⟨.start inA (byteAt p.fe 0), .start inB (byteAt p.fe 1), 0, freq, [], [], [], 0⟩ : Track)
  let t := t.sampleAll p live (min 49152 (samplesOf p kinds.length))
  { t with a := t.a.close t.bit, b := t.b.close t.bit }

/-- The bit-rate samples of a read, oldest first. -/
def Track.pairs (t : Track) : List (Int × Int) := t.a.bits.reverse.zip t.b.bits.reverse

/-- Bits from one bit's sample to its preliminary decision: seven of the equaliser and 40 ns of the detector. -/
def decisionLag (rate : Nat) : Nat := 7 + detectorLag rate

/-- The preliminary decisions of the span without its splice and re-acquisition fields, oldest first: 32 bits before the sector, the
sector, 32 bits after it. -/
def Track.decisions (t : Track) (rate : Nat) (kinds : List BitKind) : List Bool :=
  let l := t.decided.reverse.drop (decisionLag rate)
  ((kinds.zip (l ++ List.replicate (decisionLag rate) false)).filter (fun x => match x.1 with | .splice | .reacq _ => false | _ => true)).map (·.2)

/-! ## Back-framing (R199) -/

/-- The joint sample of a backward run (R199, R201): the samples come the latest in time first, so that the taps meet them from their last
one; of the bit eight after the one just sampled. -/
def backJoint (taps : List Int × List Int) (a b : List Int) : Int :=
  let turn := fun (l : List Int) => (l.take 16 ++ List.replicate (16 - min 16 l.length) 0).reverse
  jointOut taps (turn a) (turn b)

/-- The loop is held at a bit of a backward run: in the fields about a servo field (R194) and in an asperity of either reader (R215). -/
def backHeld (spans : List (Nat × Nat)) : BitKind → Bool
  | .sector i => spans.any (fun x => x.1 ≤ i && i < x.1 + x.2)
  | _ => true

/-- One bit of the backward run over stored codes, the oldest first (R199): its samples, then the loop moved back by its frequency and, where
it is not held, by an update at the tracking gains. `x` gives the bit's number in the span, and the bit that the joint sample is of. -/
def backStep (p : ReadParams) (sel : EqSel) (spans : List (Nat × Nat)) (codesA codesB : List Int) (t : Track) (x : Nat × BitKind) : Track :=
  let q := ((1048576 * x.1 : Nat) + t.phase) / 16384
  let a := { t.a with bits := sampleAt p codesA q :: t.a.bits }
  let b := { t.b with bits := sampleAt p codesB (q + readerDelay p) :: t.b.bits }
  let joint := backJoint (p.taps sel) a.bits b.bits :: t.joint
  let decided := Config.preliminary p.rate joint :: t.decided
  let e := if backHeld spans x.2 then 0 else Config.timingError (joint.drop (detectorLag p.rate)) decided
  { t with
    a := a, b := b, joint := joint, decided := decided
    phase := t.phase - t.freq - e / (2 ^ byteAt p.set 6 : Nat), freq := clampFreq (t.freq - e / (2 ^ byteAt p.set 7 : Nat)) }

/-- The span's bits up to and with sector bit `i`. -/
def bitsTo (kinds : List BitKind) (i : Nat) : Nat := (kinds.takeWhile (fun k => k ≠ .sector i)).length + 1

/-- The bit-rate samples of the span's bits up to sector bit `last`, the last bit of SM2, from the backward run (R199): it starts from the
phase and frequency that the forward loop held there. Oldest first. -/
def backTrack (p : ReadParams) (sel : EqSel) (kinds : List BitKind) (fwd : Track) (last : Nat) : List (Int × Int) :=
  let n := bitsTo kinds last
  let m := (fwd.marks.reverse.getD (n - 1) (0, 0))
  let t0 : Track := { fwd with
    a := { fwd.a with bits := [] }, b := { fwd.b with bits := [] }, phase := m.1, freq := m.2, joint := [], decided := [] }
  let bits := ((List.range n).map (fun i => (i, kinds.getD (i + 8) .trail))).reverse
  let t := bits.foldl (backStep p sel (fwd.a.spans ++ fwd.b.spans) fwd.a.codes.reverse fwd.b.codes.reverse) t0
  t.a.bits.zip t.b.bits

end Sys2Proof.Machine
end

