-- ==== Sys2Proof/Machine/Detector.lean ====
section
/-! DEFINITION. Detection and decoding (spec 07): the 16-state max-log-MAP detector (R202), erasures (R215) and the layered min-sum
decoder (R203, R204). -/

namespace Sys2Proof.Machine

/-! ## The detector (R202) -/

/-- The target taps in 1/1,024: 1 and G1 to G4. -/
def targetTaps (set : List Byte) : List Int := 1024 :: (List.range 4).map (fun i => fieldS set (12 + 2 * i) 2)

/-- A written bit as the target sees it. -/
def antipodal (b : Bool) : Int := if b then 1 else -1

/-- The output of the target for a bit and the four before it, in 1/1,024: bit `i` of a state is the bit `i + 1` places back. -/
def targetOut (taps : List Int) (bit : Bool) (state : Nat) : Int :=
  (taps.zipIdx.map (fun x => x.1 * antipodal (if x.2 = 0 then bit else state.testBit (x.2 - 1)))).sum

/-- A survivor of the forward recursion: its metric, and the last two noise samples on its path, in 1/1,024. -/
structure Survivor where
  metric : Int
  n1 : Int
  n2 : Int
deriving DecidableEq, Repr

/-- The whitened noise of a branch (R202): the sample less the target's output, less the prediction (NP1, NP2) / 1,024 from the survivor's
last two. The prediction of each state is that of its survivor (DESIGN CHOICE, log 35). Answers the noise and the whitened noise. -/
def branchNoise (set : List Byte) (y : Int) (v : Survivor) (bit : Bool) (state : Nat) : Int × Int :=
  let n := 1024 * y / max 1 (Config.unitSignal : Int) - targetOut (targetTaps set) bit state
  (n, n - (fieldS set 20 2 * v.n1 + fieldS set 22 2 * v.n2) / 1024)

/-- The sixteen states. -/
def trellis : List Nat := List.range 16

/-- One forward step: the metrics of the 32 branches (state and bit), and the survivors of the next states. -/
def forwardStep (set : List Byte) (y : Int) (l : List Survivor) : List (Nat × Bool × Int) × List Survivor :=
  let branches := (trellis.map (fun st => [false, true].map (fun b =>
    let v := l.getD st ⟨0, 0, 0⟩
    let e := branchNoise set y v b st
    (st, b, -(e.2 * e.2), (⟨v.metric - e.2 * e.2, e.1, v.n1⟩ : Survivor))))).flatten
  (branches.map (fun x => (x.1, x.2.1, x.2.2.1)),
   trellis.map (fun ns =>
     let into := branches.filter (fun x => (2 * x.1 + b2n x.2.1) % 16 = ns)
     (into.foldl (fun best x => match best with
       | none => some x.2.2.2
       | some b => if b.metric < x.2.2.2.metric then some x.2.2.2 else some b) none).getD ⟨0, 0, 0⟩))

/-- The forward recursion over a run of joint samples: for each, the survivors before it and its branches. -/
def forward (set : List Byte) : List Int → List Survivor → List (List Survivor × List (Nat × Bool × Int))
  | [], _ => []
  | y :: r, l => let (br, l') := forwardStep set y l; (l, br) :: forward set r l'

/-- The largest of a list. -/
def largest (l : List Int) : Int := l.foldl max (l.headD 0)

/-- The backward recursion: the log-likelihood ratio of each bit, a positive one for 1, and the metrics before it. -/
def backward : List (List Survivor × List (Nat × Bool × Int)) → List Int × List Int
  | [] => ([], List.replicate 16 0)
  | (l, br) :: r =>
    let (out, beta) := backward r
    let total := fun (x : Nat × Bool × Int) => (l.getD x.1 ⟨0, 0, 0⟩).metric + x.2.2 + beta.getD ((2 * x.1 + b2n x.2.1) % 16) 0
    let llr := largest ((br.filter (·.2.1)).map total) - largest ((br.filter (fun x => !x.2.1)).map total)
    let before := trellis.map (fun st => largest ((br.filter (fun x => x.1 = st)).map (fun x =>
      x.2.2 + beta.getD ((2 * x.1 + b2n x.2.1) % 16) 0)))
    (llr :: out, before)

/-- The ratios of a run of joint samples, scaled by LLR_SCALE / 16 and saturated to ±31. Every state may begin the run (DESIGN CHOICE,
log 35). -/
def detect (set : List Byte) (ys : List Int) : List Int :=
  ((backward (forward set ys (List.replicate 16 ⟨0, 0, 0⟩))).1).map (fun x =>
    clampInt (-31) 31 (x * byteAt set 24 / (16 * max 1 Config.unitMetric : Nat)))

/-! ## Joint samples for detection (R201, R215) -/

/-- A span widened on both sides. -/
def widened (m : Nat) (x : Nat × Nat) : Nat × Nat := (x.1 - m, x.2 + min m x.1 + m)

/-- A sector bit lies in one of the spans. -/
def inSpans (l : List (Nat × Nat)) (i : Nat) : Bool := l.any (fun x => x.1 ≤ i && i < x.1 + x.2)

/-- How an attempt treats the spans: as R215 has it, every span erased with a margin of its own, or not at all. -/
inductive SpanRule where
  | giveWay | erase | ignore
deriving DecidableEq, Repr

/-- The joint samples of a list of bit-rate samples under one set, sample `i` being bit `i`'s (the equaliser's delay taken out). -/
def jointSignal (p : ReadParams) (e : EqSel) (pairs : List (Int × Int)) : List Int :=
  (List.range pairs.length).map (fun i =>
    let window := (List.range 16).map (fun k => if k ≤ i + 7 then pairs.getD (i + 7 - k) (0, 0) else (0, 0))
    jointOut (p.taps e) (window.map (·.1)) (window.map (·.2)))

/-- What detection makes of sector bit `i` (R215): the choice of set, and whether its ratio is erased. -/
def treat (p : ReadParams) (rule : SpanRule) (sel : EqSel) (spansA spansB : List (Nat × Nat)) (i : Nat) : EqSel × Bool :=
  let m := if rule = .erase then p.taSlMargin else p.taMargin
  let hitA := inSpans (spansA.map (widened m)) i
  let hitB := inSpans (spansB.map (widened m)) i
  match rule with
  | .ignore => (sel, false)
  | .erase => (sel, hitA || hitB)
  | .giveWay =>
    match p.choose sel with
    | .joint _ =>
      if hitA && !hitB then (.single true, false) else if hitB && !hitA then (.single false, false) else (sel, hitA && hitB)
    | .single false => (sel, hitA)
    | .single true => (sel, hitB)

/-- The runs of a span between servo fields: a run ends behind each splice field. -/
def splitRuns {α : Type} : List (BitKind × α) → List (BitKind × α) → List (List (BitKind × α))
  | acc, [] => [acc.reverse]
  | acc, (.reacq 0, x) :: r => acc.reverse :: splitRuns [(.reacq 0, x)] r
  | acc, x :: r => splitRuns (x :: acc) r

/-- The ratios of the sector's bits, from the bit-rate samples of the span (R201, R202, R215). -/
def sectorRatios (p : ReadParams) (rule : SpanRule) (sel : EqSel) (spansA spansB : List (Nat × Nat))
    (kinds : List BitKind) (pairs : List (Int × Int)) : List Int :=
  let j := jointSignal p sel pairs
  let a := jointSignal p (.single false) pairs
  let b := jointSignal p (.single true) pairs
  let pick := fun (k : BitKind) (x : Int × Int × Int) =>
    match k with
    | .sector i =>
      (match (treat p rule sel spansA spansB i).1 with
       | .single false => x.2.1
       | .single true => x.2.2
       | .joint _ => x.1)
    | _ => x.1
  let ys := (kinds.zip (j.zip (a.zip b))).map (fun x => (x.1, pick x.1 x.2))
  let runs := (splitRuns [] ys).map (fun r => (r.map (·.1)).zip (detect p.set (r.map (·.2))))
  runs.flatten.filterMap (fun x =>
    match x.1 with
    | .sector i => some (if (treat p rule sel spansA spansB i).2 then 0 else x.2)
    | _ => none)

/-- The ratios of the codeword bits of a sector framed `o` bits late (spec 04, Table 4.4): bits 0 to 2,027 from sector bit 148 on, the
others from 2,196 on. Bits beyond the capture are unknown. -/
def codewordRatios (ratios : List Int) (o : Int) : List Int :=
  (List.range 37120).map (fun j =>
    let i : Int := (if j < 2028 then (148 + j : Nat) else (168 + j : Nat)) + o
    if i < 0 then 0 else ratios.getD i.toNat 0)

/-! ## The decoder (R203, R204) -/

/-- The codeword bits of row `k` of block row `r` of H. -/
def rowBits (r k : Nat) : List Nat :=
  ((List.range 129).filter (fun c => r % 4 = c % 4)).map (fun c => 256 * c + (k + ldpcShift r c) % 256)
    ++ [256 * (129 + r) + k] ++ (if r = 0 then [] else [256 * (128 + r) + k])

/-- The hard decisions of ratios: bit `i` is codeword bit `i`. -/
def hardWord (l : List Int) : BitVec 37120 := BitVec.ofNat 37120 (l.foldr (fun x a => 2 * a + b2n (decide (0 < x))) 0)

/-- The messages of one check row from the ratios it sees (R204): the product of the signs of the others, their least magnitude times
DEC_NORM / 16, rounded down (DESIGN CHOICE, log 35). A row's check is met when its ones are even. -/
def rowMessages (norm : Nat) (q : List Int) : List Int :=
  (List.range q.length).map (fun i =>
    let others := (q.take i) ++ (q.drop (i + 1))
    let mag := (others.map Int.natAbs).foldl min ((others.headD 0).natAbs)
    let odd := (others.countP (fun x => decide (0 < x))) % 2 = 1
    let m : Int := (mag * norm / 16 : Nat)
    if odd then m else -m)

/-- The decoder's memory: the ratios of the bits, and the messages of the rows seen so far, by row. -/
structure Beliefs where
  ratio : List Int
  msgs : List (List Int)
deriving DecidableEq, Repr

/-- One check row worked through. -/
def rowPass (norm : Nat) (b : Beliefs) (row : Nat) : Beliefs :=
  let bits := rowBits (row / 256) (row % 256)
  let old := b.msgs.getD row []
  let q := bits.zipIdx.map (fun x => b.ratio.getD x.1 0 - old.getD x.2 0)
  let m := rowMessages norm q
  { ratio := (bits.zip (List.zipWith (· + ·) q m)).foldl (fun l x => l.set x.1 x.2) b.ratio, msgs := b.msgs.set row m }

/-- One iteration: a pass over the 16 block rows (R204). -/
def iteratePass (norm : Nat) (b : Beliefs) : Beliefs := (List.range 4096).foldl (rowPass norm) b

/-- Iterations until the syndrome is zero or the limit is reached: those run, and the word if it converged. The syndrome is looked at
after each iteration (DESIGN CHOICE, log 35). -/
def iterate (norm : Nat) : Nat → Nat → Beliefs → Nat × Option (BitVec 37120)
  | 0, done, _ => (done, none)
  | k + 1, done, b =>
    let b := iteratePass norm b
    let w := hardWord b.ratio
    if isCodeword w then (done + 1, some w) else iterate norm k (done + 1) b

/-- What the decoder reports (R204): iterations, the syndrome weight of the detector's hard decisions, and the word if it converged. -/
structure Decoded where
  iterations : Nat
  syndrome : Nat
  word : Option (BitVec 37120)
deriving DecidableEq, Repr

/-- The weight of the syndrome of a word. -/
def syndromeWeight (w : BitVec 37120) : Nat :=
  ((List.range 16).map (fun r => (List.range 256).countP (fun k => (syndromeRow w r).getLsbD k))).sum

/-- A codeword decoded within a limit of iterations (R204). -/
def decodeWord (norm limit : Nat) (llr : List Int) : Decoded :=
  let r := iterate norm limit 0 ⟨llr, List.replicate 4096 []⟩
  ⟨r.1, syndromeWeight (hardWord llr), r.2⟩

end Sys2Proof.Machine
end

