-- ==== Sys2Proof/Machine/Bellwether.lean ====
section
/-! DEFINITION. The Bellwether tick (spec 01, R29 to R36, R43 to R47): revolutions, index and substitute edges, snaps, and the
changes of state that wait for the next boundary. -/

namespace Sys2Proof.Machine

/-! ## Revolutions -/

/-- A period lies within `num` per thousand parts `den` of the nominal revolution (R34). -/
def nearNominal (s : State) (period num den : Nat) : Bool :=
  let d := if period < nominalRev s then nominalRev s - period else period - nominalRev s
  d * den ≤ nominalRev s * num

/-- A change of state of the generator waits for the next boundary (R33). -/
def tickTo (t : TickState) (s : State) : State := { s with tick.next := if s.tick.state = t then none else some t }

/-- The instant of boundary 0 nearest now, by the present spacing. -/
def boundary0 (s : State) : Int :=
  let w := wedges s
  if s.tick.number * 2 < w then (s.clock.ns : Int) - (s.tick.number * tickNs s : Nat)
  else (s.clock.ns : Int) + ((w - s.tick.number) * tickNs s : Nat)

/-- The spacing of the coming revolution in LOCKED and SUBSTITUTE (R30, R35): the measured period, with the phase error of
boundary 0 spread over it (DESIGN CHOICE, log 22). -/
def respace (edge : Int) (period : Nat) (s : State) : State :=
  let e := edge - boundary0 s
  let corr := clampInt (-(period / 8 : Nat)) (period / 8 : Nat) e
  { s with tick.revNs := ((period : Int) + corr).toNat }

/-- The reconstructed edge of a raw one: the receive latency of the link taken off (R56). -/
def trueEdge (raw : Nat) : Int := (raw : Int) - Config.adlRxLatency

/-- Half of *T*, the nominal tick period (R29, R36). -/
def halfTick (s : State) : Nat := nominalRev s / max 1 (wedges s) / 2

/-- Tick number 0 snapped to an edge known `atNs` after the last boundary (R36): issued then, or at `T`/2 if that is later. -/
def snapTo (raw atNs : Nat) (s : State) : State :=
  { s with tick.snapDelay := some (max atNs (halfTick s)), tick.snapEdge := some (trueEdge raw) }

/-- A revolution outside 1.0 % holds media reads and is a spindle-speed fault if the generator has been LOCKED at this set speed
and no ramp runs (R34). -/
def judgeSpeed (period : Nat) (s : State) : State :=
  if nearNominal s period 10 1000 then { s with tick.readsHeld := false, tick.speedFault := false }
  else
    let s := { s with tick.readsHeld := true }
    if s.tick.wasLocked && !s.tick.ramp && !s.tick.speedFault then
      driveFault .speedFault 0 { s with tick.speedFault := true, faults.speedFaults := s.faults.speedFaults + 1 }
    else s

/-- A revolution measured: the period, the run toward lock, and the effect in the present state (R30, R34, R36). DESIGN CHOICE, log 22: the
edge that takes LOCKED to ACQUIRE snaps tick 0 itself, though the change of state waits for the next boundary (R33); the rules do not say
whether the first snap of ACQUIRE is at that edge or at the next. -/
def measured (raw period atNs : Nat) (s : State) : State :=
  let good := if nearNominal s period 1 1000 then s.tick.goodRevs + 1 else 0
  let s := { s with tick.lastRev := some period, tick.goodRevs := good }
  match s.tick.state with
  | .locked =>
    if nearNominal s period 2 1000 then respace (trueEdge raw) period s
    else snapTo raw atNs (tickTo .acquire (judgeSpeed period { s with tick.revNs := period, tick.goodRevs := 0 }))
  | .acquire =>
    let s := judgeSpeed period { s with tick.revNs := period }
    let s := snapTo raw atNs s
    if 8 ≤ good then tickTo .locked s else s
  | _ => s

/-- An edge less than half a period after the previous one (R43). -/
def isGlitch (s : State) (raw : Nat) : Bool :=
  match s.tick.lastEdge with
  | none => false
  | some p => (raw - p) * 2 < s.tick.lastRev.getD (nominalRev s)

/-- The index returns to a generator that had lost it (R47): to LOCKED within 1.0 µs of a substitute edge, else to ACQUIRE, whose ticks are
spaced by the measured period (R36). -/
def indexReturns (raw atNs : Nat) (s : State) : State :=
  let rev := s.tick.lastRev.getD (nominalRev s)
  let close := match s.tick.substEdge with
    | none => false
    | some e => let d := (raw + rev - e % rev) % rev; d ≤ 1000 || rev ≤ d + 1000
  let s := { s with tick.indexLost := false, tick.lost10s := false, tick.goodRevs := 0 }
  match s.tick.state with
  | .substitute => if close then tickTo .locked s else snapTo raw atNs (tickTo .acquire { s with tick.revNs := rev })
  | .holdover | .stopped => snapTo raw atNs (tickTo .acquire s)
  | _ => s

/-- An index edge (R36, R43, R47): `raw` is the frame's time less its offset, `atNs` the time since the last boundary. -/
def indexEdge (raw atNs : Nat) (s : State) : State :=
  if isGlitch s raw then { s with tick.glitches := s.tick.glitches + 1 }
  else
    let last := s.tick.lastEdge
    let away := s.tick.indexLost || s.tick.state = .stopped || s.tick.state = .holdover || s.tick.state = .substitute
    let s := { s with tick.lastEdge := some raw }
    if away then indexReturns raw atNs s
    else match last with
      | none => snapTo raw atNs s
      | some p => measured raw (raw - p) atNs s

/-! ## Substitute -/

/-- A channel can be the reference actuator (R44): a valid wedge number at each of its last 16 wedges, and its offset known. -/
def qualifies (s : State) (n : ChanId) : Bool := 16 ≤ (s.sdm n).validRun && (s.sdm n).wedge0 ≠ []

/-- The lowest-numbered channel that qualifies. -/
def referenceActuator (s : State) : Option ChanId := allChans.find? (qualifies s)

/-- The mean of a list of times, rounded down. -/
def meanOf (l : List Int) : Int := if l = [] then 0 else l.sum / (l.length : Int)

/-- The index is lost (R43, R45, R46): SUBSTITUTE from LOCKED with a reference actuator, else HOLDOVER. -/
def loseIndex (s : State) : State :=
  let s := { s with tick.indexLost := true, tick.lostAt := s.clock.ns, tick.lost10s := false }
  match s.tick.state, referenceActuator s with
  | .locked, some n => tickTo .substitute { s with tick.refAct := n, tick.substEdge := s.tick.lastEdge }
  | .locked, none => tickTo .holdover s
  | .acquire, _ => tickTo .holdover s
  | _, _ => s

/-- A wedge-0 strobe of channel `n` at `t` in SUBSTITUTE (R45): of the reference actuator, or of the next one that qualifies when
the reference no longer does. A substitute revolution outside 0.2 % takes the generator to HOLDOVER. DESIGN CHOICE, log 22: of the
channels that qualify, the "next" is the one whose wedge 0 comes first, not the lowest-numbered one. -/
def substituteStrobe (n : ChanId) (t : Nat) (s : State) : State :=
  let mine := n = s.tick.refAct || !qualifies s s.tick.refAct
  if s.tick.state ≠ .substitute || !mine || !qualifies s n then s
  else
    let edge := ((t : Int) - meanOf (s.sdm n).wedge0).toNat
    let rev := s.tick.lastRev.getD (nominalRev s)
    let before := s.tick.substEdge.getD (edge - rev)
    let turns := max 1 ((edge - before + rev / 2) / rev)
    let period := (edge - before) / turns
    let s := { s with tick.refAct := n, tick.substEdge := some edge, tick.lastRev := some period }
    if nearNominal s period 2 1000 then respace (trueEdge edge) period s else tickTo .holdover s

end Sys2Proof.Machine
end

