-- ==== Sys2Proof/Machine/Sensing.lean ====
section
/-! DEFINITION. Position sensing (spec 05): the address-mark window, Gray and wedge numbers, the null bursts, classes, prediction,
REACQUIRE, the wedge phase, and the servo status stream. -/

namespace Sys2Proof.Machine

/-! ## Rounding -/

/-! ## The head's servo record (spec 05, Table 5.9) -/

/-- HEAD_SERVO of a head, in use by the control plane. -/
def headServo (s : State) (h : HeadId) : List Byte := servoVal s 0x4001 h.val
/-- TRACK_OFFSET, in servo tracks. -/
def trackOffset (s : State) (h : HeadId) : Int := fieldS (headServo s h) 8 4
/-- The strobe delay Ds of R145: 268 cells and 60 ns; the cells are rounded down to whole ns (DESIGN CHOICE, log 44). -/
def strobeDelay (s : State) : Nat := 268000 / servoCfg s 0x4000 1 + 60
/-- SAM_OFFSET of a head, once 8 measurements exist (R146); the mean is rounded down to whole ns (DESIGN CHOICE, log 44). -/
def samOffset (s : State) (h : HeadId) : Option Nat :=
  let l := s.heads[h].samMeas
  if l.length < 8 then none else some (l.sum / l.length)

/-! ## The address mark -/

/-- The predicted interval to the next SAM (R131). DESIGN CHOICE, log 23: the nominal wedge interval before the first is known, the mean of
those there are while fewer than 8 are known, and the mean rounded down to whole ns (log 44). -/
def wedgeInterval (s : State) (n : ChanId) : Int :=
  if (s.sdm n).intervals = [] then (tickNs s : Int) else meanOf (s.sdm n).intervals

/-- The predicted end of SAM, from the last predicted end, and the half-width of the window (R131, R148). DESIGN CHOICE, log 23: after a head
switch latched in REACQUIRE the window is that of R148, where the rules do not say which of the two goes first. -/
def samWindow (s : State) (n : ChanId) : Int × Int :=
  let x := s.sdm n
  let gap := wedgeInterval s n
  if x.switched then
    match x.switchPred with
    | some d => (d, servoCfg s 0x4000 11)
    | none => (gap, gap / 2)
  else if x.reacq then (gap, gap / 2)
  else
    let w := servoCfg s 0x4000 3
    (gap, (min (w * (1 + x.missRun)) (4 * w) : Nat))

/-- A correlation peak: its time after the previous wedge's predicted end of SAM, and its correlation in 1/256 of full. -/
structure SamPeak where
  atNs  : Int
  score : Int
deriving DecidableEq, Repr

/-- The correlation of the last 16 cells, the newest first, with SAM_PATTERN, bit 15 written first (R132): a cell counts positive
where the pattern has a 1. -/
def correlation (pattern : Nat) (newest : List Int) : Int :=
  (((newest.take 16).zipIdx).map (fun x => if bitOf pattern x.2 then x.1 else -x.1)).sum

/-- The correlation in 1/256 of full, which is 16 cells of the preamble's amplitude (DESIGN CHOICE, log 23). -/
def scoreOf (amplitude : Nat) (c : Int) : Int := if amplitude = 0 then 0 else 256 * c / (16 * amplitude : Nat)

/-- The correlation at the end of every cell, in time order: `past` are the cells before, newest first. -/
def correlations (pattern : Nat) : List Int → List Int → List Int
  | _, [] => []
  | past, c :: r => (if 15 ≤ past.length then correlation pattern (c :: past) else 0) :: correlations pattern ((c :: past).take 16) r

/-- A correlation above that of each of the two cells before and not below that of the two after (R132; a plateau counts at its first
cell: DESIGN CHOICE, log 23). -/
def localMax (l : List Int) (i : Nat) : Bool :=
  let c := l.getD i 0
  [1, 2].all (fun k => (i < k || l.getD (i - k) 0 < c) && l.getD (i + k) c ≤ c)

/-- The qualified peaks of a field (R132): in the window, at SAM_THRESHOLD or above, local maxima. -/
def qualifiedPeaks (s : State) (n : ChanId) (f : ServoField) : List SamPeak :=
  let (p, half) := samWindow s n
  let l := correlations (servoCfg s 0x4000 2) [] f.cells
  ((List.range l.length).map (fun i => (i, (⟨f.cellFrom + (i * 1000 / max 1 (servoCfg s 0x4000 1) : Nat), scoreOf f.amplitude (l.getD i 0)⟩ : SamPeak)))).filterMap
    (fun x => if (servoCfg s 0x4000 4 : Int) ≤ x.2.score && localMax l x.1 && p - half ≤ x.2.atNs && x.2.atNs ≤ p + half then some x.2 else none)

/-- The peak nearest the prediction, the earlier of two equally near (R133). -/
def nearestPeak (p : Int) (l : List SamPeak) : Option SamPeak :=
  l.foldl (fun b x =>
    match b with
    | none => some x
    | some y =>
      let dx := (x.atNs - p).natAbs
      let dy := (y.atNs - p).natAbs
      if dx < dy ∨ (dx = dy ∧ x.atNs < y.atNs) then some x else b) none

/-! ## Numbers -/

/-- The difference *d* of a bit (R129): the samples of its first two cells integrated, less those of its last two. -/
def bitDifference (b : BitCells) : Int := b.early.sum - b.late.sum

/-- The decision on one bit (R129): its value, or none for an erasure. -/
def decideBit (s : State) (amplitude : Nat) (d : Int) : Option Bool :=
  let m : Int := servoCfg s 0x4000 7 * amplitude
  if m ≤ d * 256 then some true else if d * 256 ≤ -m then some false else none

/-- The Gray value of decided bits, bit 21 first, in binary (R134). -/
def grayValue (bits : List Bool) : Nat := (bits.foldl (fun (a : Bool × Nat) g => (a.1 != g, 2 * a.2 + b2n (a.1 != g))) (false, 0)).2

/-- Erasures among decisions. -/
def erasuresOf (l : List (Option Bool)) : Nat := l.countP (·.isNone)

/-- The candidates of a track-number field (R135): one, two with one erasure, none with more. -/
def trackCandidates (l : List (Option Bool)) : List Nat :=
  match erasuresOf l with
  | 0 => [grayValue (l.map (·.getD false))]
  | 1 => [grayValue (l.map (·.getD false)), grayValue (l.map (·.getD true))]
  | _ => []

/-- The wedge number of its field, apart from the succession test (R136): no erasure, even parity, below WEDGES. -/
def wedgeRead (s : State) (l : List (Option Bool)) : Option Nat :=
  let bits := l.map (·.getD false)
  let v := (bits.take 10).foldl (fun a b => 2 * a + b2n b) 0
  if erasuresOf l = 0 && (bits.countP id) % 2 = 0 && v < wedges s then some v else none

/-- The tolerance on a track number (R135). -/
def trackTol (s : State) (n : ChanId) : Nat :=
  let base := servoCfg s 0x4000 5
  if (s.ce n).mode = .seek then base + (s.sdm n).vel.natAbs * servoCfg s 0x4000 6 / (256 * 512) else base

/-- The candidate accepted (R135): within the tolerance of the prediction, the nearest, the higher of two equally near. -/
def acceptTrack (tol : Nat) (pt : Int) (l : List Nat) : Option Nat :=
  (l.filter (fun (c : Nat) => decide (((c : Int) - pt).natAbs ≤ tol))).foldl (fun (b : Option Nat) (c : Nat) =>
    match b with
    | none => some c
    | some d =>
      let dc := ((c : Int) - pt).natAbs
      let dd := ((d : Int) - pt).natAbs
      if dc < dd ∨ (dc = dd ∧ d < c) then some c else b) none

/-! ## Position (R137 to R139) -/

/-- The bursts after the offsets and the polarity of track `t` (R137). -/
def bursts (r : List Byte) (f : ServoField) (t : Int) : Int × Int :=
  let n := f.nRaw - fieldS r 0 2
  let q := f.qRaw - fieldS r 2 2
  if t % 2 = 0 then (n, q) else (-n, -q)

/-- The burst sum. -/
def burstSum (r : List Byte) (f : ServoField) : Nat :=
  let b := bursts r f 0
  b.1.natAbs + b.2.natAbs

/-- BURST_LOW (R137). -/
def burstLow (s : State) (r : List Byte) (f : ServoField) : Bool :=
  burstSum r f * 256 < servoCfg s 0x4000 8 * fieldU r 4 2 || burstSum r f = 0

/-- The fraction of R138 and whether it shows GRAY_CONFLICT. -/
def fraction (r : List Byte) (f : ServoField) (t : Int) : Int × Bool :=
  let (n, q) := bursts r f t
  let sum : Int := burstSum r f
  if n.natAbs ≤ q.natAbs then (roundAway (256 * n) sum, q ≤ 0)
  else (if n < 0 then -(roundAway (256 * (sum - q)) sum) else roundAway (256 * (sum - q)) sum, false)

/-- The linearity correction of a fraction (R139). -/
def linearity (r : List Byte) (f : Int) : Int :=
  let j := ((f + 256) / 32).toNat
  let a := fieldS r (14 + min j 16) 1
  let b := fieldS r (14 + min (j + 1) 16) 1
  let k := (f + 256) % 32
  roundAway (a * (32 - k) + b * k) 32

/-- The position from a track number and a fraction (R138, R139). -/
def positionOf (r : List Byte) (t f : Int) : Int :=
  let (t, f) := if 255 < f then (t + 1, f - 512) else if f < -256 then (t - 1, f + 512) else (t, f)
  let p := 512 * t + (f + linearity r f)
  if fieldU r 12 1 = 1 then p - fieldS r 6 2 else p

/-- The position of a PARTIAL wedge (Table 5.3): of the tracks about the prediction, each with its own polarity, the position nearest
it, the higher of two equally near. -/
def partialPosition (r : List Byte) (f : ServoField) (phat : Int) : Int :=
  let pt := phat / 512
  let l := [pt - 1, pt, pt + 1].map (fun t => positionOf r t (fraction r f t).1)
  (l.foldl (fun b p =>
    match b with
    | none => some p
    | some y =>
      let dp := (p - phat).natAbs
      let dy := (y - phat).natAbs
      if dp < dy ∨ (dp = dy ∧ y < p) then some p else b) (none : Option Int)).getD phat

/-! ## Samples -/

/-- What SDM n makes of one servo field, before the miss run and REACQUIRE are applied. -/
structure Sample where
  peak : Option SamPeak
  predicted : Int
  double : Bool
  wedgeNo : Option Nat
  wedgeOk : Bool
  wedge : Nat
  single : Option Nat
  track : Option Nat
  erasures : Nat
  low : Bool
  conflict : Bool
  sum : Nat
  cls : WedgeClass
  phat : Int
  pos : Int

/-- A value in signed 32-bit arithmetic (R142). -/
def wrap32 (x : Int) : Int := (x + 2147483648) % 4294967296 - 2147483648

/-- A field read (R131 to R140). At the first strobe after a switch to a head without SAM_OFFSET nothing predicts the wedge number, and
any one that passes the other tests is valid (DESIGN CHOICE, log 23). -/
def sense (s : State) (n : ChanId) (f : ServoField) : Sample :=
  let x := s.sdm n
  let r := headServo s x.head
  let w := wedges s
  let (pred, _) := samWindow s n
  let peaks := qualifiedPeaks s n f
  let peak := nearestPeak pred peaks
  let gray := f.gray.map (fun b => decideBit s f.amplitude (bitDifference b))
  let no := if peak.isSome then wedgeRead s (f.wedge.map (fun b => decideBit s f.amplitude (bitDifference b))) else none
  let expected := (x.wedge + 1) % w
  let ok := match no with
    | none => false
    | some v => !x.reacq && (v = expected || (x.switched && x.switchPred.isNone))
  let phat := wrap32 (x.pos + x.vel)
  let cands := if peak.isSome then trackCandidates gray else []
  let track := acceptTrack (trackTol s n) (phat / 512) cands
  let low := peak.isSome && burstLow s r f
  let conflict := match track with | none => false | some t => (fraction r f t).2
  let good := peak.isSome && ok && track.isSome && !low && !conflict
  let cls := if good then .good else if peak.isSome && ok && !low then .partialSample else .coasted
  let pos := match cls with
    | .good => (match track with | none => phat | some t => positionOf r t (fraction r f t).1)
    | .partialSample => partialPosition r f phat
    | .coasted => phat
  ⟨peak, pred, 2 ≤ peaks.length, no, ok, if ok then no.getD expected else expected,
    (match cands with | [t] => some t | _ => none), track, if peak.isSome then erasuresOf gray else 0, low, conflict,
    if peak.isSome then burstSum r f else 0, cls, phat, pos⟩

/-- A field counts toward leaving REACQUIRE (R143): its wedge number and its single track number. -/
def reacqField (m : Sample) : Option (Nat × Nat) :=
  match m.peak, m.wedgeNo, m.single with
  | some _, some w, some t => some (w, t)
  | _, _, _ => none

/-- The field ends REACQUIRE (R143): it and the one before agree, and Table 5.3 lets it be GOOD (DEDUCED, log 23). -/
def endsReacq (s : State) (n : ChanId) (f : ServoField) (m : Sample) : Bool :=
  match (s.sdm n).reacqField, reacqField m with
  | some (w0, t0), some (w1, t1) =>
    w1 = (w0 + 1) % wedges s && ((t1 : Int) - t0).natAbs ≤ servoCfg s 0x4000 5
      && !m.low && !(fraction (headServo s (s.sdm n).head) f t1).2
  | _, _ => false

/-- The sample that SDM n delivers in REACQUIRE (R143): COASTED, or the GOOD one that ends it. -/
def inReacq (s : State) (n : ChanId) (f : ServoField) (m : Sample) : Sample :=
  if endsReacq s n f m then
    match reacqField m with
    | none => { m with cls := .coasted, pos := m.phat }
    | some (w, t) =>
      let r := headServo s (s.sdm n).head
      { m with cls := .good, wedge := w, track := some t, pos := positionOf r t (fraction r f t).1 }
  else { m with cls := .coasted, pos := m.phat }

/-! ## What a strobe leaves in SDM n -/

/-- A fault event of a channel that is counted against no unit. -/
def chanFault (k : FaultKind) (n : ChanId) (s : State) : State := faultEvent k .transient (some (.channel n)) 0 0 s

/-- The per-wedge travel after a sample (R142), in signed 32-bit arithmetic. -/
def travel (s : State) (x : Sdm) (m : Sample) : Int :=
  if m.cls = .coasted then x.vel
  else wrap32 (x.vel + wrap32 (wrap32 (m.pos - x.pos) - x.vel) / (2 ^ servoCfg s 0x4000 10 : Nat))

/-- The SAM bookkeeping of R131: the interval between GOOD address marks of neighbouring wedges, and the time to the last
predicted end. An interval across a head switch or a missed wedge is no wedge interval and is left out (DESIGN CHOICE, log 23). -/
def samTimes (x : Sdm) (m : Sample) : List Int × Option Int :=
  match m.cls, m.peak with
  | .good, some p =>
    let l := match x.sinceSam with
      | some d => if x.missRun = 0 && !x.switched then (x.intervals ++ [d + p.atNs]).drop ((x.intervals.length + 1) - 8) else x.intervals
      | none => x.intervals
    (l, some (m.predicted - p.atNs))
  | _, _ => (x.intervals, x.sinceSam.map (· + m.predicted))

/-- The measurements taken at a wedge 0 while LOCKED (R44, R146). -/
def wedgeZero (n : ChanId) (m : Sample) (t : Nat) (s : State) : State :=
  if m.wedge ≠ 0 || s.tick.state ≠ .locked then s
  else match s.tick.lastEdge with
  | none => s
  | some e =>
    let d := (t - e) % max 1 s.tick.revNs
    let sam := (((t : Int) - trueEdge e - strobeDelay s) % (max 1 s.tick.revNs : Nat)).toNat
    let s := if m.wedgeOk then s.modSdm n (fun x => { x with wedge0 := (x.wedge0 ++ [(d : Int)]).drop ((x.wedge0.length + 1) - 8) }) else s
    if m.cls = .good then s.modHead (s.sdm n).head (fun h => { h with samMeas := capped 8 (sam :: h.samMeas) }) else s

/-- The strobe applied to SDM n: position, miss run, REACQUIRE and its exit, counts, wedge phase and tick offset (R141 to R148). -/
def sdmStrobe (n : ChanId) (f : ServoField) (m : Sample) (s : State) : State :=
  let x := s.sdm n
  let miss := if m.cls = .good then 0 else x.missRun + 1
  let (intervals, since) := samTimes x m
  let leaves := x.reacq && m.cls = .good
  let kappa := if m.wedgeOk || leaves then some ((s.tick.number + wedges s - m.wedge) % wedges s) else none
  let wrap := match x.lastTick with | none => false | some t => s.tick.number ≠ (t + 1) % wedges s
  let s := s.modSdm n (fun x => { x with
    pos := m.pos, vel := travel s x m, missRun := miss, reacq := x.reacq && !leaves
    reacqField := if x.reacq && !leaves then reacqField m else none
    wedge := m.wedge
    validRun := if m.wedgeOk && !x.reacq then x.validRun + 1 else 0
    goodRun := if m.cls = .good then x.goodRun + 1 else 0
    intervals := intervals, sinceSam := since, kappa := kappa, phase := f.phaseNs
    lastTick := some s.tick.number, wraps := x.wraps + BitVec.ofNat 32 (b2n wrap)
    missed := x.missed + BitVec.ofNat 32 (b2n (m.cls ≠ .good)) })
  let s := if m.cls = .good then s else chanFault .missedWedge n s
  let t := s.clock.ns + f.phaseNs
  substituteOrMeasure n m t s
where
  /-- Wedge 0: an offset measured, or a substitute edge (R44, R45). -/
  substituteOrMeasure (n : ChanId) (m : Sample) (t : Nat) (s : State) : State :=
    let s := wedgeZero n m t s
    if m.wedge = 0 && m.wedgeOk then substituteStrobe n t s else s

/-- A fourth miss (R143): a transient servo fault, REACQUIRE, and the sample COASTED; reading ends at the current sector boundary (R141):
at the end of the sector that goes on over the servo field, or here. -/
def fourthMiss (n : ChanId) (s : State) : State :=
  let s := finishRead n (crossesField s n) s
  let s := s.modSdm n (fun x => { x with reacq := true, reacqField := none, faults := x.faults + 1 })
  transientFault .servoFault (some (.channel n)) 0 s

/-! ## On-track (R149) -/

/-- The recording zone of a target position on a head: that of its track, or zone 0 (a calibration track). -/
def zoneOfTarget (s : State) (h : HeadId) (target : Int) : Option ZoneRec :=
  let l := formatOf s h
  match l.find? (fun z => (z.start : Int) * 512 ≤ target && target < ((z.start : Int) * 512 + (2 * z.tracks * z.pitch : Nat))) with
  | some z => some z
  | none => l.head?

/-- The write-unsafe limit for the head's target, in 1/512 servo track. -/
def unsafeLimit (s : State) (h : HeadId) (target : Int) : Nat :=
  match zoneOfTarget s h target with
  | none => 0
  | some z => servoCfg s 0x4000 9 * z.pitch * 2 / 100

/-! ## The status stream (R150, R151) -/

/-- The flag bits 16 to 5 of a record are zero. -/
def ServoRec.plain (r : ServoRec) : Bool :=
  !(r.unsafeFlag || r.phaseWrap || r.overrun || r.commit || r.cap || r.headSwitch || r.doublePeak || r.grayConflict
    || r.wedgeBad || r.trackBad || r.burstLow || r.tickUnlocked)

/-- The class code of Table 5.7. -/
def WedgeClass.code : WedgeClass → Nat
  | .good => 0 | .partialSample => 1 | .coasted => 2
/-- The mode code of Table 5.7. -/
def CeMode.code : CeMode → Nat
  | .follow => 0 | .settle => 1 | .seek => 2 | .reacquire => 3

/-- A value held within 16 signed bits, saturated at ±32,767. -/
def sat16 (z : Int) : Int := clampInt (-32767) 32767 z

/-- The 32 bytes of a record (Table 5.7). DESIGN CHOICE, log 44: SAM_DEV is rounded down to its unit of 2 ns, SAM_SCORE rounded down and held
at 255, and BURST_SUM held at 65,535. -/
def servoBytes (r : ServoRec) : List Byte :=
  let flags := r.cls.code * 2 ^ 22 + satNat 3 r.missRun * 2 ^ 20 + r.mode.code * 2 ^ 18 + b2n r.onTrack * 2 ^ 17
    + b2n r.unsafeFlag * 2 ^ 16 + b2n r.phaseWrap * 2 ^ 15 + b2n r.overrun * 2 ^ 14 + b2n r.commit * 2 ^ 13
    + b2n r.cap * 2 ^ 12 + b2n r.headSwitch * 2 ^ 11 + b2n r.doublePeak * 2 ^ 10 + b2n r.grayConflict * 2 ^ 9
    + b2n r.wedgeBad * 2 ^ 8 + b2n r.trackBad * 2 ^ 7 + b2n r.burstLow * 2 ^ 6 + b2n r.tickUnlocked * 2 ^ 5
  leBytes 4 r.tick.toNat ++ [BitVec.ofNat 8 (r.head.val * 8 + r.act.val)] ++ leBytes 3 flags ++ leBytes 2 r.wedge
    ++ leInt 4 r.position ++ leInt 2 (sat16 r.pes) ++ leBytes 2 (satNat 65535 r.phase) ++ leBytes 2 r.outDelay
    ++ leInt 2 r.vcm ++ leInt 2 r.ma ++ leBytes 2 (satNat 65535 r.burstSum)
    ++ [BitVec.ofNat 8 (satNat 255 r.samScore), BitVec.ofInt 8 (clampInt (-128) 127 (r.samDev / 2)),
        BitVec.ofNat 8 (r.flockValid.toNat * 16 + r.flockAge.toNat), BitVec.ofNat 8 (satNat 15 r.erasures), r.seq, 0]

/-- The open record of a channel closes (R150). -/
def closeRecord (n : ChanId) (s : State) : State :=
  s.modSdm n (fun x => match x.openRec with | none => x | some r => { x with openRec := none, closed := x.closed ++ [r] })

/-- Records held by the capture ring (R151). -/
def captureSize : Nat := 32768

/-- A published record enters the capture ring (R151). -/
def captureRecord (n : ChanId) (r : ServoRec) (s : State) : State :=
  if s.mgmt.capCtrl = 0 || !bitOf (cfg s 0x4010 2) n.val then s
  else
    let k := (s.sdm n).decim + 1
    let plain := r.plain && r.cls = .good
    let keep := !plain || s.mgmt.capDecim ≤ k
    let s := if plain then s.modSdm n (fun x => { x with decim := if s.mgmt.capDecim ≤ k then 0 else k }) else s
    if !keep then s
    else if s.mgmt.capture.length < captureSize then { s with mgmt.capture := s.mgmt.capture ++ [r] }
    else
      let s := { s with mgmt.capLost := s.mgmt.capLost + 1 }
      if s.mgmt.capCtrl = 1 then { s with mgmt.capture := s.mgmt.capture.drop 1 ++ [r] } else s

/-- The closed records of a channel published at a tick boundary (R151). -/
def publishRecords (n : ChanId) (s : State) : State :=
  let l := (s.sdm n).closed
  let s := s.modSdm n (fun x => { x with closed := [], lastRec := (l.getLast?).or x.lastRec })
  l.foldl (fun s r => captureRecord n r s) s

/-! ## Head switch (R142, R148) -/

/-- The wedge number of the new head's first strobe after a switch, and the end of its SAM after the last predicted end (R146, R148): the
strobe of wedge `w` of a head falls SAM_OFFSET + Ds + w T after the index edge, in tick (w + κ) mod W. The first wedge after the last
one read is taken whose strobe is still to come (DEDUCED from Table 5.6, log 23). `dev` is how far the last SAM ended after its
prediction. -/
def firstAfterSwitch (s : State) (x : Sdm) (offset : Nat) (dev : Int) : Nat × Int :=
  let w := max 1 (wedges s)
  let rev : Int := s.tick.revNs
  let now : Int := (s.tick.number * s.tick.revNs / w : Nat) + x.phase
  let next := ((x.wedge + 1) * s.tick.revNs / w : Nat)
  let raw := ((offset : Int) + strobeDelay s + next - now) % max 1 rev
  let d := if rev < 2 * raw then raw - rev else raw
  let gap : Int := tickNs s
  let j : Int := if 0 < d || gap ≤ 0 then 0 else -d / gap + 1
  (((x.wedge : Int) + 1 + j).toNat % w, d + j * gap + dev)

/-- The head of channel `n` changes (R148): the position is carried over, and the first SAM and wedge number of the new head are
predicted from its SAM_OFFSET. -/
def switchHead (n : ChanId) (h : HeadId) (dev : Int) (s : State) : State :=
  let x := s.sdm n
  if x.head = h then s
  else
    let w := max 1 (wedges s)
    let first := (samOffset s h).map (fun b => firstAfterSwitch s x b dev)
    selectFrame n h (s.modSdm n (fun x => { x with
      head := h, pos := wrap32 (x.pos + 512 * (trackOffset s h - trackOffset s x.head)), switched := true
      switchPred := first.map (·.2), wedge := first.elim x.wedge (fun y => (y.1 + w - 1) % w) }))

end Sys2Proof.Machine
end

