-- ==== Sys2Proof/Machine/Thermal.lean ====
section
/-! DEFINITION. ENV (spec 09, R256 to R268): conversion of the sensors, levels and rates, throttle steps, the write window,
thermal shutdown, and the meaning of ENV_DECISION. -/

namespace Sys2Proof.Machine

/-! ## Conversion (R257, R258) -/

/-- The scale of the fixed-point numbers of a conversion. -/
def fixOne : Int := 2 ^ 48

/-- Twice the sum of z^(2k+1)/(2k+1) for the `n` terms from `k` on, `p` being z^(2k+1). -/
def atanhTail (z2 : Int) : Nat → Nat → Int → Int
  | 0, _, _ => 0
  | n + 1, k, p => 2 * p / (2 * k + 1) + atanhTail z2 n (k + 1) (p * z2 / fixOne)

/-- ln(a / b) in fixed point for positive a and b: a power of two apart, then the series of artanh (log 27). -/
def lnRatio (a b : Nat) : Int :=
  let k : Int := (Nat.log2 a : Int) - Nat.log2 b
  let num : Int := if 0 ≤ k then a else a * 2 ^ (-k).toNat
  let den : Int := if 0 ≤ k then b * 2 ^ k.toNat else b
  let z := (num - den) * fixOne / (num + den)
  atanhTail (z * z / fixOne) 24 0 z + k * 195103586505167

/-- The record of a sensor's limits (Table 9.5). -/
def sensorLimits (s : State) (j : Nat) : List Byte := envVal s 0x6003 j
/-- WARN, THROTTLE, CRITICAL (fields 0, 2, 4). -/
def sensorLevel (s : State) (j i : Nat) : Int := fieldS (sensorLimits s j) i 2
/-- RATE_LIMIT. -/
def rateLimit (s : State) (j : Nat) : Nat := fieldU (sensorLimits s j) 6 2

/-- A diode's temperature in 1/16 °C from ΔV in nV (R257), rounded to the nearest. -/
def diodeTemp (s : State) (j deltaNv : Nat) : Int :=
  let r := sensorLimits s j
  let d : Int := 19842 * fieldU r 10 2
  roundAway (16000 * (deltaNv : Int) - 43704 * d) (10 * d) + fieldS r 8 2

/-- A thermistor's temperature in 1/16 °C from its voltage in µV (R258), rounded to the nearest. -/
def thermTemp (s : State) (j uv : Nat) : Int :=
  let r := sensorLimits s j
  let d := fixOne * 100 / 29815 + lnRatio (10000 * uv) (fieldU r 12 2 * (1000000 - uv)) / fieldU r 14 2
  roundAway (160 * fixOne - 43704 * d) (10 * d) + fieldS r 8 2

/-- The voltage of a sensor lies outside its range (R259). -/
def voltsBad (j : Nat) (x : SensorInput) : Bool :=
  if j < 8 then 1000000 < x.diodeUv || x.diodeUv < 200000
  else if j < 10 then 980000 < x.thermUv || x.thermUv < 20000
  else false

/-- The conversion of sensor `j`; none if the sensor is broken (R259). The OFFSET of the die sensor is not applied: its reading is
factory-trimmed (log 27). -/
def convert (s : State) (j : Nat) (x : SensorInput) : Option Int :=
  if voltsBad j x then none
  else
    let t := if j < 8 then diodeTemp s j x.deltaNv else if j < 10 then thermTemp s j x.thermUv else x.die
    if t < -800 || 2400 < t then none else some t

/-! ## One sensor at an ENV decision (R259, R260) -/

/-- The status bits of a sensor (SENSOR_STATUS). -/
def statusBits (s : State) (j : Nat) (broken : Bool) (t rate : Int) : BitVec 8 :=
  let fast := (rateLimit s j : Int) < rate
  BitVec.ofNat 8 (b2n broken + 2 * b2n (sensorLevel s j 0 ≤ t) + 4 * b2n (sensorLevel s j 2 ≤ t || fast)
    + 8 * b2n (sensorLevel s j 4 ≤ t) + 16 * b2n fast)

/-- A sensor after a cycle: broken or not, its reading, its rate over ten seconds and its status. -/
def senseOne (s : State) (j : Nat) (x : SensorInput) (o : Sensor) : Sensor :=
  let c := convert s j x
  let run := if c.isNone then 0 else o.validRun + 1
  let broken := c.isNone || (o.broken && run < 100)
  let t := if broken then 2400 else c.getD 2400
  let rate := match broken, o.history[99]? with
    | false, some (some old) => (t - old) * 6
    | _, _ => 0
  { temp := t, rate := rate, status := statusBits s j broken t rate, broken := broken, validRun := run,
    history := capped 100 ((if broken then none else some t) :: o.history)
    critRun := if sensorLevel s j 4 ≤ t then o.critRun + 1 else 0 }

/-- The events of a sensor's change of status (R259, R260; spec 17, SENSOR_STATUS). -/
def statusEvents (j : Nat) (old new : Sensor) (s : State) : State :=
  let s := if new.broken && !old.broken then setFlag .sensorBroken (transientFault .sensorBroken none j s) else s
  if old.status = new.status then s
  else
    let sev := if new.status.getLsbD 0 || new.status.getLsbD 3 then 3 else 2
    raise (event 0xD001 sev srcController j (leNat (leInt 2 new.temp) + old.status.toNat * 2 ^ 16 + new.status.toNat * 2 ^ 24)) s

/-- Sensor `j` takes part in a cycle; a sensor that is not enabled is not converted and forgets its history. -/
def cycleSensor (r : Vector SensorInput 11) (s : State) (j : Fin 11) : State :=
  let old := s.env.sensors[j]
  if !sensorEnabled s j then
    { s with env.sensors := s.env.sensors.set j { old with rate := 0, status := 0, broken := false, validRun := 0, history := [], critRun := 0 } }
  else
    let new := senseOne s j r[j] old
    statusEvents j old new { s with env.sensors := s.env.sensors.set j new }

/-- The enabled sensors. -/
def enabledSensors (s : State) : List (Fin 11) := (List.ofFn (fun (j : Fin 11) => j)).filter (fun j => sensorEnabled s j)

/-! ## Throttle steps (R260, R261) -/

/-- Sensors that demand a step up. -/
def stepDemand (s : State) : List (Fin 11) := (enabledSensors s).filter (fun j => s.env.sensors[j].status.getLsbD 2)

/-- Every enabled sensor lies below THROTTLE less THROTTLE_HYST. -/
def allCool (s : State) : Bool :=
  (enabledSensors s).all (fun j => s.env.sensors[j].temp < sensorLevel s j 2 - (envCfg s 0x6010 4 : Int))

/-- The step is allowed down. -/
def stepDownAllowed (s : State) : Bool :=
  allCool s && (enabledSensors s).all (fun j => 2 * s.env.sensors[j].rate ≤ (rateLimit s j : Int))

/-- At least `ms` milliseconds have passed since the last change of step. -/
def stepAged (s : State) (ms : Nat) : Bool := match s.env.stepAt with | none => true | some t => passed s t (ms * 1000000)

/-- The throttle step decided (R261); it is published at the next tick boundary. -/
def decideStep (s : State) : State :=
  let n := s.env.step
  match stepDemand s with
  | j :: _ =>
    if n < 8 && stepAged s (envCfg s 0x6010 2) then { s with env.step := n + 1, env.stepCause := j.val, env.stepAt := some s.clock.ns }
    else s
  | [] =>
    if stepDownAllowed s && 0 < n && stepAged s (envCfg s 0x6010 3) then
      { s with env.step := n - 1, env.stepCause := 255, env.stepAt := some s.clock.ns }
    else s

/-- The admission rate of a step, in commands per second; none is unlimited (R262). -/
def admitRate (s : State) (step : Nat) : Option Nat :=
  if step = 0 then none else some (max (envCfg s 0x6010 7) (envCfg s 0x6010 5 - step * envCfg s 0x6010 6))

/-- A pending step published with its three caps (spec 01, R25; R262), unless they are held for a restart of the management plane (spec 13,
R400), recorded with its cause (R261). The active heads' assist is
checked against the new cap (spec 01, R26). -/
def publishCaps (s : State) : State :=
  if s.env.step = s.env.stepNow || s.env.held then s
  else
    let old := s.env.stepNow
    let n := s.env.step
    let s := { s with
      env.stepNow := n, env.stepChanges := s.env.stepChanges + 1, tick.capPct := 100 - 10 * n, env.assistCap := 100 - 5 * n }
    let s := setFlag .stepChange (raise (event 0xD002 1 srcController (old + n * 256) s.env.stepCause) s)
    allChans.foldl (fun s k => capCheck false k s) s

/-! ## The write window (R265, R266) -/

/-- Host writes whose data transfer has not started complete with Write Inhibited at the close (R266). -/
def inhibitWrites (s : State) : State :=
  (s.cmds.ctxs.filter (fun c => c.openWrite && !c.started)).foldl (fun s c =>
    match ctxOf s c.id with
    | none => s
    | some c =>
      if c.committed then s
      else endUnacked c .writeInhibited (cmdRefused c.port (ioOpcode c.entry.op) 1 c.ns (c.entry.slba % 2 ^ 32) .writeInhibited s)) s

/-- The HDA reference sensor: its reading, or none while it is broken. -/
def hdaReading (s : State) : Option Int :=
  if h : hdaRef s < 11 then (if s.env.sensors[hdaRef s].broken then none else some s.env.sensors[hdaRef s].temp) else none

/-- The window judged at an ENV decision (R265). -/
def judgeWindow (s : State) : State :=
  let lo := signed 2 (envCfg s 0x6020 1)
  let hi := signed 2 (envCfg s 0x6020 2)
  let hyst : Int := envCfg s 0x6020 3
  let t := hdaReading s
  let raw := leNat (leInt 2 (t.getD 2400))
  if s.env.winOpen then
    if t.any (fun t => lo ≤ t && t ≤ hi) then s
    else
      let s := { s with env.winOpen := false, env.winClosures := s.env.winClosures + 1 }
      let s := setFlag .winChange (raise (event 0xD003 2 srcController 0 raw) s)
      inhibitWrites (gateCheckAll false s)
  else if t.any (fun t => lo + hyst ≤ t && t ≤ hi - hyst) then
    setFlag .winChange (raise (event 0xD003 2 srcController 1 raw) { s with env.winOpen := true })
  else s

/-! ## Critical Warning bit 1, shutdown, triggers -/

/-- Bit 1 of the Critical Warning field (R260). -/
def judgeWarn (s : State) : State :=
  let any := (enabledSensors s).any (fun j => s.env.sensors[j].status.getLsbD 1)
  noteWarning { s with env.tempWarn := any || (s.env.tempWarn && !s.env.winOpen) }

/-- Thermal shutdown (R264): the step is 8 and a sensor has stayed at or above CRITICAL for CRIT_HOLD. -/
def judgeShutdown (s : State) : State :=
  match (enabledSensors s).filter (fun j => envCfg s 0x6010 8 * 10 ≤ s.env.sensors[j].critRun) with
  | [] => s
  | j :: _ =>
    if s.env.step = 8 && !s.cmds.mediaStopped && s.power.phase ≠ .standby then
      thermalProgress (raise (event 0xD004 3 srcController j.val (leNat (leInt 2 s.env.sensors[j].temp))) { s with cmds.mediaStopped := true })
    else s

/-- The end of a thermal shutdown (R264): after 600 decisions, 60 s, with every enabled sensor cool, a spin-up starts. -/
def judgeRestart (s : State) : State :=
  let s := { s with env.coolRun := if s.power.thermalStop && allCool s then s.env.coolRun + 1 else 0 }
  if 600 ≤ s.env.coolRun then restartFromSpinWait { s with env.coolRun := 0, cmds.mediaStopped := false } else s

/-- The temperature triggers of R273, for heads in service once the drive is READY. -/
def tempTriggers (s : State) : State :=
  if s.power.phase ≠ .ready then s
  else (allHeads.filter (fun h => headServes s h && tempAway s h)).foldl (fun s h =>
    ([.fe, .align, .assist] : List CalKind).foldl (fun s k => requestCal ⟨h, k, 0, .urgent⟩ s) s) s

/-- The thermal objects (Table 9.4). -/
def thermalObjects : List (Nat × Nat) :=
  ((List.range 3).map (fun i => (0x6000, i + 1))) ++ ((List.range 11).map (fun i => (0x6003, i)))
    ++ ((List.range 7).map (fun i => (0x6010, i + 2))) ++ ((List.range 3).map (fun i => (0x6020, i + 1)))

/-- Changes of the thermal objects take effect (R267). -/
def latchThermal (s : State) : State :=
  { s with env.latched := thermalObjects.map (fun k => (k, valueOf s k.1 k.2)) }

/-- An ENV decision (R256): the sensors of the cycle, then every threshold. The first one after a management restart ends the
holding of the caps (spec 13, R400). -/
def envDecision (r : Vector SensorInput 11) (s : State) : State :=
  let s := (List.ofFn (fun (j : Fin 11) => j)).foldl (cycleSensor r) (latchThermal s)
  let s := judgeWarn (judgeWindow (decideStep { s with env.held := false }))
  let s := tempTriggers (judgeRestart (judgeShutdown s))
  s.cal.startLeft.foldl (fun s h => if (s.cal.requests.any (fun q => q.head = h && q.priority = .startUp)) then headFinished h s else s) s

/-- ENV_DECISION (R256): ENV runs with the resident firmware, its management cores not restarting. -/
def execEnvDecision (r : Vector SensorInput 11) (s : State) : Host.Outcome State Fault Refusal :=
  .next (if s.resident && !s.faults.mgmtDown then envDecision r s else s)

end Sys2Proof.Machine
end

