-- ==== Sys2Proof/Machine/Trends.lean ====
section
/-! DEFINITION. What ordinary reads give calibration (spec 09): the trend of the iteration counts (R273), the EQ runs (R277, R281, R283)
and the distances of a SYNC run (R278). -/

namespace Sys2Proof.Machine

/-! ## The trend (R273) -/

/-- The trend of a head and recording zone after a sector of `it` iterations: the mean with weight 1/1,024, and the baseline, the
mean of the first 4,096 sectors (R273; the mean starts at the first sector, log 27). -/
def stepTrend (x : ZoneTrend) (it : Nat) : ZoneTrend :=
  let v := it * 2 ^ 20
  let mean : Nat := if x.count = 0 && x.mean = 0 then v else ((x.mean : Int) + ((v : Int) - (x.mean : Int)) / 1024).toNat
  let count := x.count + 1
  let sum := x.sum + it
  { x with
    mean := mean, count := min 4096 count, sum := if x.count < 4096 then sum else x.sum
    base := if x.base.isNone && count = 4096 then some (sum * 2 ^ 20 / 4096) else x.base }

/-- The trend of a head and zone. -/
def trendOf (s : State) (h : HeadId) (zone : Nat) : ZoneTrend :=
  (s.cal.trends.find? (fun x => x.head = h && x.zone = zone)).getD ⟨h, zone, 0, none, 0, 0⟩

/-- A trend stored. -/
def setTrend (x : ZoneTrend) (s : State) : State :=
  { s with cal.trends := s.cal.trends.filter (fun y => !(y.head = x.head && y.zone = x.zone)) ++ [x] }

/-- A sector read good on the fly, and not again by its ladder, moves the trend of its zone; past the baseline by more than TREND_PCT it requests an EQ run
(R273). -/
def noteIterations (h : HeadId) (zone it : Nat) (s : State) : State :=
  let x := stepTrend (trendOf s h zone) it
  let s := setTrend x s
  match x.base with
  | none => s
  | some b => if b * (100 + cfg s 0x6100 2) < x.mean * 100 then requestCal ⟨h, .eq, zone, .normal⟩ s else s

/-! ## The error of the equaliser (R277) -/

/-- The bit-rate samples of a read, each with the target of R202 (in 1/4,096 of the joint signal) for the bit that the equaliser then
puts out: the bit seven before, if it is a codeword bit of the sector framed `o` bits late, whose codeword is `w`. -/
def withTargets (p : ReadParams) (kinds : List BitKind) (pairs : List (Int × Int)) (w : BitVec 37120) (o : Int) :
    List ((Int × Int) × Option Int) :=
  let bits := sectorStream w
  let bit := fun (i : Int) => if i < 0 then false else bits.getLsbD i.toNat
  let target := fun (k : BitKind) =>
    match k with
    | .sector i =>
      let j := (i : Int) - o
      if 148 ≤ j && j < 37288 && !(2176 ≤ j && j < 2196) then
        let state := (List.range 4).foldl (fun (a k : Nat) => a + b2n (bit (j - 1 - (k : Int))) * 2 ^ k) 0
        some (targetOut (targetTaps p.set) (bit j) state * Config.unitSignal * 4)
      else none
    | _ => none
  pairs.zip (List.replicate 7 none ++ kinds.map target)

/-- One tap update (R277): `e` is the error in 1/4,096. -/
def lmsTaps (shift : Nat) (e : Int) (taps xs : List Int) : List Int :=
  (List.range taps.length).map (fun k => sat16 (taps.getD k 0 + roundAway (e * xs.getD k 0) (4096 * 2 ^ shift)))

/-- The adapter at one bit with a target (R277): joint taps on the joint error, each single-reader set on its own. -/
def lmsStep (shift : Nat) (target : Int) (t : List Int) (a b : List Int) : List Int :=
  let ja := t.take 16
  let jb := (t.drop 16).take 16
  let sa := (t.drop 32).take 16
  let sb := (t.drop 48).take 16
  let e := target - firOut ja a - firOut jb b
  lmsTaps shift e ja a ++ lmsTaps shift e jb b ++ lmsTaps shift (target - firOut sa a) sa a ++ lmsTaps shift (target - firOut sb b) sb b

/-- The adapter over a sector, the last sixteen samples of each reader in hand. -/
def lmsSector (shift : Nat) : List ((Int × Int) × Option Int) → List Int → List Int → List Int → List Int
  | [], _, _, t => t
  | x :: r, a, b, t =>
    let a := (x.1.1 :: a).take 16
    let b := (x.1.2 :: b).take 16
    lmsSector shift r a b (match x.2 with | none => t | some target => lmsStep shift target t a b)

/-- The sums of squares of the target output and of e over a sector, under the joint taps `ja` and `jb` (R281). -/
def errorSums (ja jb : List Int) : List ((Int × Int) × Option Int) → List Int → List Int → Nat × Nat → Nat × Nat
  | [], _, _, acc => acc
  | x :: r, a, b, acc =>
    let a := (x.1.1 :: a).take 16
    let b := (x.1.2 :: b).take 16
    errorSums ja jb r a b (match x.2 with
      | none => acc
      | some target => (acc.1 + target.natAbs ^ 2, acc.2 + (target - firOut ja a - firOut jb b).natAbs ^ 2))

/-! ## EQ runs (R277) -/

/-- The taps of an equaliser record that an EQ run adapts: joint set 0 and both single-reader sets (R226 of spec 07). -/
def eqTapsOf (rec : List Byte) : List Int :=
  (List.range 32).map (fun k => fieldS rec (2 * k) 2) ++ (List.range 32).map (fun k => fieldS rec (256 + 2 * k) 2)

/-- An equaliser record with those taps replaced. -/
def eqRecord (rec : List Byte) (taps : List Int) : List Byte :=
  let l := taps.map (leInt 2)
  (l.take 32).flatten ++ (rec.drop 64).take 192 ++ (l.drop 32).flatten

/-- The EQ run of a head and zone that a sector read there moves on; one that was asked for begins with the active taps. On one
actuator one run at a time proceeds (R273): while a run holds the calibration track the EQ run of its actuator waits, and none begins
beside another (log 27). -/
def eqRunOf (s : State) (h : HeadId) (zone : Nat) : Option EqRun :=
  let n := chanOf h
  if s.cal.running[n].isSome then none
  else match s.cal.eqRuns.find? (fun e => chanOf e.head = n) with
    | some e => if e.head = h && e.zone = zone then some e else none
    | none =>
      if s.cal.requests.any (fun r => r.kind = .eq && r.head = h && r.zone = zone) then
        some ⟨h, zone, eqTapsOf (recordAt (chanVal s n 0x5020 h.val) 320 zone), 0, 0, 0, 0, 0, 0, true, false⟩
      else none

/-- An EQ run stored. -/
def setEqRun (e : EqRun) (s : State) : State :=
  { s with cal.eqRuns := s.cal.eqRuns.filter (fun x => !(x.head = e.head && x.zone = e.zone)) ++ [e] }

/-- The sectors of the gate of an EQ run (R283). -/
def eqGate : Nat := 256

/-- A sector of the zone that converged on the fly with joint set 0 passes the adapter of an EQ run (R277), or counts toward its gate
(R283): it is decoded with the shadow taps too, and has to give the same codeword. -/
def eqAdapt (h : HeadId) (zone : Nat) (c : Codeword) (kinds : List BitKind) (spansA spansB : List (Nat × Nat)) (o : Int)
    (w : BitVec 37120) (s : State) : State :=
  match eqRunOf s h zone with
  | none => s
  | some e =>
    let l := withTargets c.params kinds c.pairs w o
    let (ja, jb) := c.params.taps (.joint 0)
    let active := errorSums ja jb l [] [] (0, 0)
    if e.sectors < cfg s 0x6100 10 then
      setEqRun { e with
        shadow := lmsSector (cfg s 0x6100 9) l [] [] e.shadow, sectors := e.sectors + 1
        targetSq := e.targetSq + active.1, errSq := e.errSq + active.2 } s
    else if e.gate < eqGate then
      let p := { c.params with eq := eqRecord c.params.eq e.shadow }
      let shadow := errorSums (e.shadow.take 16) ((e.shadow.drop 16).take 16) l [] [] (0, 0)
      let d := decodeWord (byteAt p.set 25) p.iterations (codewordRatios (sectorRatios p .giveWay (.joint 0) spansA spansB kinds c.pairs) o)
      setEqRun { e with
        gate := e.gate + 1, gateActive := e.gateActive + active.2, gateShadow := e.gateShadow + shadow.2
        converged := e.converged && d.word = some w } s
    else s

/-- A sector of the zone failed on the fly during the gate of an EQ run (R283): not every one has converged. -/
def eqFailed (h : HeadId) (zone : Nat) (s : State) : State :=
  match eqRunOf s h zone with
  | none => s
  | some e => if e.sectors < cfg s 0x6100 10 || eqGate ≤ e.gate then s else setEqRun { e with gate := e.gate + 1, converged := false } s

/-! ## SYNC (R278) -/

/-- A sector read counts toward the SYNC run; one whose SM2 was found records the true distance of SM1 and the best impostor. -/
def noteSync (d : Option (Nat × Nat)) (s : State) : State :=
  { s with
    cal.syncCount := s.cal.syncCount + 1
    cal.syncTrue1 := d.elim s.cal.syncTrue1 (fun x => updNat s.cal.syncTrue1 x.1 (· + 1))
    cal.syncImp1 := d.elim s.cal.syncImp1 (fun x => if x.2 ≤ x.1 then updNat s.cal.syncImp1 x.2 (· + 1) else s.cal.syncImp1) }

/-- A sector that converged records the distances of SM2. -/
def noteSync2 (x : Nat × Nat) (s : State) : State :=
  { s with
    cal.syncTrue2 := updNat s.cal.syncTrue2 x.1 (· + 1)
    cal.syncImp2 := if x.2 ≤ x.1 then updNat s.cal.syncImp2 x.2 (· + 1) else s.cal.syncImp2 }

end Sys2Proof.Machine
end

