-- ==== Sys2Proof/Machine/Sectors.lean ====
section
/-! DEFINITION. One sector of the read channel (spec 07, R196 to R204; spec 04, R112 to R115): the settings that a read or an attempt
latches, sync marks and framing, the second-look attempts, and the checks on the decoded bytes. -/

namespace Sys2Proof.Machine

/-! ## What a read works with (R213) -/

/-- The index of the recording zone of a band. -/
def zoneIndex (s : State) (k : BandKey) : Nat := (zoneOfBand s k).elim 0 (·.2)

/-- The recording zone of a sector. -/
def zoneAt (s : State) (k : BandKey) : Option ZoneRec := (zoneOfBand s k).map (·.1)

/-- The channel set, HEAD_FE and HEAD_EQ records and settings in force on channel `n`. -/
def readParams (s : State) (n : ChanId) (k : BandKey) (set rate limit : Nat) : ReadParams :=
  let h := k.head
  { set := chanVal s n 0x5010 set, fe := chanVal s n 0x5021 h.val, eq := recordAt (chanVal s n 0x5020 h.val) 320 (zoneIndex s k)
    rate := rate, taThreshold := chanCfg s n 0x5000 14, taMinLen := chanCfg s n 0x5000 15, taMargin := chanCfg s n 0x5000 16
    taSlMargin := chanCfg s n 0x5000 17, taHpMhz := chanCfg s n 0x5000 18, readerA := !readerRetired s h false
    readerB := !readerRetired s h true, iterations := limit }

/-- The bits of the capture span of a sector. -/
def spanOf (s : State) (k : BandKey) (off : Nat) : List BitKind :=
  match sectorPlace s k off with
  | none => []
  | some (_, _, sec, z) => spanBits (sectorPieces z (wedges s) sec)

/-! ## Sync marks (R196 to R198) -/

/-- The Hamming distance of two 20-bit words. -/
def hamming (a b : BitVec 20) : Nat := (List.range 20).countP (fun i => (a ^^^ b).getLsbD i)

/-- The expected end of SM1, a sector bit. -/
def sm1End : Int := 147

/-- The 20 preliminary decisions that end at a sector bit, the first in time as the msb; the list begins 32 bits before the sector. -/
def windowAt (d : List Bool) (endBit : Int) : Option (BitVec 20) :=
  let i := endBit + 13
  if i < 0 then none
  else
    let l := (d.drop i.toNat).take 20
    if l.length < 20 then none else some (BitVec.ofNat 20 (l.foldl (fun a b => 2 * a + b2n b) 0))

/-- The distance of a mark at an end position; more than any mark's where the capture has no such position. -/
def distanceAt (d : List Bool) (word : BitVec 20) (endBit : Int) : Nat := ((windowAt d endBit).map (hamming word)).getD 21

/-- The offsets of a window about an expected end. -/
def offsetsAbout (w : Nat) : List Int := (List.range (2 * w + 1)).map (fun i => (i : Int) - w)

/-- A candidate is better (R196): least distance, then nearest the expected end, then earlier. -/
def betterMark (a b : Nat × Int) : Bool :=
  a.1 < b.1 || (a.1 = b.1 && (a.2.natAbs < b.2.natAbs || (a.2.natAbs = b.2.natAbs && a.2 < b.2)))

/-- The choice rule of R196: among the candidates within ±`w` bits of the expected end and at most `maxDist` away. Answers distance and
offset. -/
def chooseMark (d : List Bool) (word : BitVec 20) (expected : Int) (w maxDist : Nat) : Option (Nat × Int) :=
  ((offsetsAbout w).map (fun o => (distanceAt d word (expected + o), o))).filter (fun x => x.1 ≤ maxDist) |>.foldl
    (fun best x => match best with | none => some x | some b => if betterMark x b then some x else some b) none

/-- The least distance of a mark in a window but for one offset. -/
def bestElsewhere (d : List Bool) (word : BitVec 20) (expected : Int) (w : Nat) (but : Int) : Nat :=
  (((offsetsAbout w).filter (· ≠ but)).map (fun o => distanceAt d word (expected + o))).foldl min 21

/-- The sync-mark outcome of a sector (R196 to R198): SM1's distance and offset, SM2's offset, the framing basis of a second look,
and whether shift attempts are enabled. -/
structure SyncOutcome where
  sm1 : Option (Nat × Int)
  sm2 : Option Int
  basis : Framing
  shift : Bool
deriving DecidableEq, Repr

/-- The outcome on channel `n` (Table 7.3) from the preliminary decisions. -/
def syncOutcome (s : State) (n : ChanId) (d : List Bool) : SyncOutcome :=
  let w1 := chanCfg s n 0x5000 1
  let w2 := chanCfg s n 0x5000 3
  match chooseMark d sm1Word sm1End w1 (chanCfg s n 0x5000 2) with
  | some (dist, o) =>
    (match chooseMark d sm2Word (sm1End + o + 2048) w2 (chanCfg s n 0x5000 4) with
     | some (_, x) => if x = 0 then ⟨some (dist, o), some 0, .sm1, false⟩ else ⟨some (dist, o), some x, .sm2 x, false⟩
     | none => ⟨some (dist, o), none, .sm1, true⟩)
  | none =>
    (match chooseMark d sm2Word (sm1End + 2048) (max w1 w2) (chanCfg s n 0x5000 4) with
     | some (_, x) => ⟨none, some x, .back, false⟩
     | none => ⟨none, none, .nominal, true⟩)

/-- The distances that SYNC records for a sector whose SM2 was found (spec 09, R278): of SM1 2,048 bits before the found SM2, and the
least elsewhere in the SM1 window. -/
def syncDistances (s : State) (n : ChanId) (d : List Bool) (out : SyncOutcome) : Option (Nat × Nat) :=
  out.sm2.map (fun x =>
    let o := (out.sm1.map (·.2)).getD 0 + x
    (distanceAt d sm1Word (sm1End + o), bestElsewhere d sm1Word sm1End (chanCfg s n 0x5000 1) o))

/-- The distances of SM2 where SM1 frames it, and the least elsewhere in its window (spec 09, R278). -/
def sm2Distances (s : State) (n : ChanId) (d : List Bool) (o : Int) : Nat × Nat :=
  (distanceAt d sm2Word (sm1End + o + 2048), bestElsewhere d sm2Word (sm1End + o + 2048) (chanCfg s n 0x5000 3) 0)

/-- By how many bits a second look moves the framing of a sector's fields (Table 7.3). -/
def frameOffset (e : CaptureEntry) : Int :=
  match e.basis with
  | .sm1 => (e.sm1.map (·.2)).getD 0
  | .sm2 d => (e.sm1.map (·.2)).getD 0 + d
  | .back => e.sm2.getD 0
  | .nominal => 0

/-! ## Thermal asperities (R214 to R216) -/

/-- The asperity spans of a read, each with its reader (false for A), in order of their first bits. -/
def spansOf (t : Track) : List ((Nat × Nat) × Bool) :=
  let l := t.a.spans.map (fun x => (x, false)) ++ t.b.spans.map (fun x => (x, true))
  l.foldl (fun acc x => acc.takeWhile (fun y => y.1.1 ≤ x.1.1) ++ x :: acc.dropWhile (fun y => y.1.1 ≤ x.1.1)) []

/-- Two spans overlap within 64 bits (R216). -/
def spansMeet (a b : Nat × Nat) : Bool := a.1 < b.1 + b.2 + 64 && b.1 < a.1 + a.2 + 64

/-- The spans of one reader. -/
def readerSpans (e : CaptureEntry) (readerB : Bool) : List (Nat × Nat) :=
  ((e.spans.zip e.spanReaders).filter (fun x => x.2 == readerB)).map (·.1)

/-! ## Second-look attempts (R211, Table 7.6) -/

/-- The equaliser set of an attempt code (R211). -/
def attemptSet (code : Nat) : EqSel :=
  if code = 0x11 then .joint 1 else if code = 0x12 then .joint 2 else if code = 0x13 then .joint 3
  else if code = 0x21 then .single false else if code = 0x22 then .single true else .joint 0

/-- How an attempt code treats the asperity spans. -/
def attemptRule (code : Nat) : SpanRule := if code = 0x02 then .erase else if code = 0x03 then .ignore else .giveWay

/-- What an attempt decodes (R199, R211): the stored samples of its entry under the settings latched, framed on its basis. -/
def attemptDecode (s : State) (e : CaptureEntry) (a : Attempt) : Decoded :=
  let p := a.params
  let kinds := spanOf s ⟨e.head, e.band⟩ e.offset
  let sel := attemptSet a.code
  let t := runTrack p false sel kinds e.codesA e.codesB e.freq
  let o := frameOffset e + a.shift
  let pairs := match e.basis with
    | .back =>
      let back := backTrack p sel kinds t (2195 + e.sm2.getD 0).toNat
      back ++ t.pairs.drop back.length
    | _ => t.pairs
  let r := sectorRatios p (attemptRule a.code) sel (readerSpans e false) (readerSpans e true) kinds pairs
  decodeWord (byteAt p.set 25) p.iterations (codewordRatios r o)

/-! ## Checks (spec 04, R114, R115) -/

/-- The CRC over the user bytes and metadata bytes 0 to 27 agrees. -/
def crcAgrees (b : List Byte) : Bool := (crc32 (b.take 4124)).toNat = fieldU b 4124 4

/-- HEAD, BAND, OFFSET and GEN are those expected; GEN is zero in conventional bands. -/
def placeAgrees (s : State) (k : BandKey) (offset : Nat) (b : List Byte) : Bool :=
  let r := bandRec s k
  fieldU b 4096 4 / 2 ^ 27 = k.head.val && fieldU b 4096 4 % 2 ^ 24 = k.band && fieldU b 4100 4 = offset
    && fieldU b 4104 2 = (if r.shingled then r.gen.toNat else 0)

/-- What a decode gives (R200, R204). -/
inductive Verdict where
  | good (d : Block) | noConverge | badCrc | misdirected
deriving DecidableEq, Repr

/-- The verdict on a decoder's output. -/
def judgeDecode (s : State) (k : BandKey) (offset : Nat) (d : Decoded) : Verdict :=
  match d.word with
  | none => .noConverge
  | some w =>
    let b := infoBytes w offset
    if !crcAgrees b then .badCrc
    else if !placeAgrees s k offset b then .misdirected
    else .good (blockOf (b.take 4096))

end Sys2Proof.Machine
end

