-- ==== Sys2Proof/Machine/Ladders.lean ====
section
/-! DEFINITION. Recovery of failed sectors (spec 07, R206 to R222): the capture store, the second look, the retry ladder and
its end. -/

namespace Sys2Proof.Machine

/-! ## The steps -/

/-- The number of a step in RECOVERED_AT: steps 2 to 6 of Table 7.8. -/
def LadderStep.index : LadderStep → Fin 6
  | .secondLook => 0 | .reread _ => 1 | .offsets _ => 2 | .altSets _ => 3 | .single _ => 4

/-- A recovery counted under its step. -/
def countRecovery (n : ChanId) (i : Fin 6) (s : State) : State :=
  s.modRwc n (fun r => { r with recoveredAt := upd r.recoveredAt i (· + 1) })

/-- A sector entered as a pending grown defect (spec 04, R119). -/
def pendingDefect (k : BandKey) (off : Nat) (s : State) : State :=
  let r := bandRec s k
  let p := physical s r off
  if r.pending.contains p then s
  else
    let s := setBand { r with pending := r.pending ++ [p] } s
    { s with mule.journalBuf := .defect k p :: s.mule.journalBuf }

/-- The data of a sector delivered to its register. -/
def deliver (o : MediaOp) (off : Nat) (d : Block) (s : State) : State :=
  match blockAt s o.band off with
  | none => s
  | some b => match opReg s o b with | none => s | some mr => arrive mr b.lba d s

/-- A sector that cannot be read (R220): its reads fail for it. -/
def deliverBad (o : MediaOp) (off : Nat) (s : State) : State :=
  match blockAt s o.band off with
  | none => s
  | some b => match opReg s o b with | none => s | some mr => arriveBad mr b.lba s

/-- Step 7 (R220): a pending grown defect, reported as unrecovered. -/
def unrecovered (n : ChanId) (l : Ladder) (s : State) : State :=
  let s := transientFault .unrecovered (some (.head l.op.band.head)) 0 (countRecovery n 5 (pendingDefect l.op.band l.offset s))
  deliverBad l.op l.offset (endLadder n l false s)

/-- The reads of one controller fail for a sector whose ladder goes on (spec 10, R300). -/
def earlyEnds (n : ChanId) (l : Ladder) (s : State) : State :=
  match l.early, (opRegs s l.op).head?, blockAt s l.op.band l.offset with
  | some (p, _), some mr, some b => arriveBadFor p mr b.lba (modLadder n l.op l.offset (fun x => { x with early := none }) s)
  | _, _, _ => modLadder n l.op l.offset (fun x => { x with early := none }) s

/-- The earlier of a ladder's two limits has passed. -/
def earlyDue (s : State) (l : Ladder) : Bool := l.early.any (fun x => passed s l.failedAt x.2)

/-- A sector recovered by its ladder (R220): from step 4 on a pending grown defect. -/
def recovered (n : ChanId) (l : Ladder) (d : Block) (s : State) : State :=
  let s := countRecovery n l.step.index s
  let s := if 2 ≤ l.step.index.val then pendingDefect l.op.band l.offset s else s
  deliver l.op l.offset d (endLadder n l true s)

/-! ### The start of a ladder (R217, R218) -/

/-- A channel set keeps R191 for a recording zone: the sampling rate lies between 500 and 7,200 MHz. -/
def setFits (rate pct : Nat) : Bool := 50000 ≤ rate * pct && rate * pct ≤ 720000

/-- The alternate channel sets of ALT_SETS up to a byte of 0xFF, without those that break R191 for the zone. -/
def altSetsOf (s : State) (z : ZoneRec) : List Nat :=
  (((valueOf s 0x5000 12).map BitVec.toNat).takeWhile (· ≠ 0xFF)).filter (fun k =>
    setFits z.rate (fieldU (valueOf s 0x5010 k) 0 1))

/-- Both readers of a head are in service. -/
def bothReaders (s : State) (h : HeadId) : Bool := !readerRetired s h false && !readerRetired s h true

/-- The steps from the re-read on (Table 7.8); with Limited Retry they end after the re-reads. -/
def ladderSteps (s : State) (k : BandKey) (limited : Bool) : List LadderStep :=
  let re := (List.range (cfg s 0x5000 10)).map LadderStep.reread
  if limited then re
  else
    let alt := match zoneAt s k with | none => [] | some z => altSetsOf s z
    re ++ ((List.range 4).filter (bitOf (cfg s 0x5000 11))).map LadderStep.offsets ++ alt.map LadderStep.altSets
      ++ (if bothReaders s k.head then [.single 0, .single 1] else [])

/-- An attempt code of Table 7.6 applies to a capture. -/
def applies (s : State) (h : HeadId) (e : CaptureEntry) (c : Nat) : Bool :=
  if c = 0x01 then true
  else if c = 0x02 || c = 0x03 then e.spans ≠ []
  else if c = 0x11 || c = 0x12 || c = 0x13 || c = 0x21 || c = 0x22 then bothReaders s h
  else c = 0x31 && e.shift

/-- The attempts of SL_ORDER up to its 0x00, each with its shift in bits: a SHIFT stands for its six (Table 7.6). -/
def lookPlan (s : State) : List (Nat × Int) :=
  (((valueOf s 0x5001 1).map BitVec.toNat).takeWhile (· ≠ 0)).flatMap (fun c =>
    if c = 0x31 then [(c, 1), (c, -1), (c, 2), (c, -2), (c, 3), (c, -3)] else [(c, 0)])

/-- The reads merged into a media read that wait for a block. -/
def readsFor (s : State) (o : MediaOp) (off : Nat) : List Ctx :=
  match (opRegs s o).head?, blockAt s o.band off with
  | some mr, some b =>
    (match s.cache.regs.find? (fun m => m.id = mr) with
     | none => []
     | some m => if m.kind = .demand then (mergedReads s m b.lba).filterMap (fun x => ctxOf s x.1) else [])
  | _, _ => []

/-- Limited Retry: every read that needs the sector has it set (log 25). -/
def limitedRetry (l : List Ctx) : Bool := l ≠ [] && l.all (·.entry.limited)

/-- The Error Recovery limit of the reads' namespace, in ns: the smallest nonzero one (R300). -/
def tlerLimit (s : State) (l : List Ctx) : Option Nat :=
  l.foldl (fun best c =>
    match assocGet c.ns (s.port c.port).feat.tler with
    | none => best
    | some 0 => best
    | some t => some (min (t * 100000000) (best.getD (t * 100000000)))) none

/-- The recovery time limit of some reads, ns (R218, R300). -/
def recoveryLimit (s : State) (l : List Ctx) : Nat :=
  let own := cfg s 0x5000 13 * 1000000
  match tlerLimit s l with | none => own | some t => min own t

/-- The limits of a sector whose reads are `l` (R300): each controller's setting holds for the commands that it fetched. Answers the later
limit, at which the ladder ends, and the controller whose reads end before it, with theirs. -/
def ladderLimits (s : State) (l : List Ctx) : Nat × Option (PortId × Nat) :=
  let a := recoveryLimit s (l.filter (·.port = 0))
  let b := recoveryLimit s (l.filter (·.port = 1))
  if !l.any (·.port = 0) then (b, none)
  else if !l.any (·.port = 1) then (a, none)
  else if a < b then (b, some (0, a))
  else if b < a then (a, some (1, b))
  else (a, none)

/-- A ladder of a sector that failed on the fly (R217): the second look on its held entry, or, with no entry or for a misdirected
sector, the re-read step. `spans` are the asperity spans of the read that failed. -/
def startLadder (n : ChanId) (o : MediaOp) (off : Nat) (e : Option (Fin 10)) (spans : List (Nat × Nat)) (misdirected : Bool)
    (s : State) : State :=
  let reads := readsFor s o off
  let plan := if e.isNone || misdirected then [] else lookPlan s
  let steps := ladderSteps s o.band (limitedRetry reads)
  let limits := ladderLimits s reads
  let mk := fun st rest p =>
    (⟨o, off, st, rest, e.toList, p, cfg s 0x5000 7, none, cfg s 0x5000 8, cfg s 0x5000 9, s.clock.ns, limits.1, spans.take 4, none, limits.2⟩ : Ladder)
  match plan, steps with
  | [], st :: rest => holdActuator n (s.modRwc n (fun r => { r with ladders := r.ladders ++ [mk st rest []] }))
  | [], [] => unrecovered n (mk .secondLook [] []) s
  | p, steps => s.modRwc n (fun r => { r with ladders := r.ladders ++ [mk .secondLook steps p] })

/-- The ladder's next step, or step 7 after the last. -/
def nextStep (n : ChanId) (l : Ladder) (s : State) : State :=
  match l.rest with
  | [] => unrecovered n l s
  | st :: rest => holdActuator n (modLadder n l.op l.offset (fun l => { l with step := st, rest := rest, plan := [], lookAt := none }) s)

/-! ### The second-look engine (R210 to R213) -/

/-- An entry of a ladder under work failed before another ladder's (R210). -/
def lookOrder (s : State) (n : ChanId) (l : Ladder) : Nat := match l.entries with | [] => 0 | i :: _ => (s.rwc n).entries[i].order

/-- The ladder that the engine works on: the one it has begun, or the one whose entry failed first. -/
def engineLadder (s : State) (n : ChanId) : Option Ladder :=
  let l := (s.rwc n).ladders.filter (fun l => l.plan ≠ [] && l.stop.isNone)
  match l.find? (fun l => l.lookAt.isSome) with
  | some x => some x
  | none => l.foldl (fun best l =>
      match best with
      | none => some l
      | some b => if lookOrder s n l < lookOrder s n b then some l else some b) none

/-- What an attempt takes of the attempts that count: in the second look each of them, after a re-read each code of the list, a SHIFT
being one. -/
def attemptCost (l : Ladder) (x : Nat × Int) : Nat :=
  if l.step ≠ .secondLook && x.1 = 0x31 && x.2 ≠ 1 then 0 else 1

/-- The engine, idle, comes to a ladder (R210 to R213): its next attempt that applies starts with the settings then in force, unless the
count or the time limit is spent; with none left the ladder goes on to its next step. -/
def startLookOnce (n : ChanId) (s : State) : State :=
  if (s.rwc n).attempt.isSome then s
  else match engineLadder s n with
    | none => s
    | some l =>
      match l.entries with
      | [] => nextStep n l s
      | i :: _ =>
        let e := (s.rwc n).entries[i]
        let late := match l.lookAt with | none => false | some t => passed s t (l.lookLimit * 1000)
        match l.plan.dropWhile (fun x => !applies s e.head e x.1) with
        | [] => nextStep n l s
        | x :: rest =>
          if late || l.left < attemptCost l x || passed s l.failedAt l.limit then
            (if passed s l.failedAt l.limit then unrecovered n l s else nextStep n l s)
          else
            let k : BandKey := ⟨e.head, e.band⟩
            let p := readParams s n k e.channelSet e.rate (chanCfg s n 0x5000 6)
            let s := modLadder n l.op l.offset (fun y => { y with
              plan := x :: rest, left := y.left - attemptCost l x, lookAt := some (y.lookAt.getD s.clock.ns) }) s
            s.modRwc n (fun r => { r with attempt := some ⟨l.op.id, l.offset, i, x.1, x.2, p⟩ })

/-- The engine starts its next attempt, passing over the ladders that have none left. -/
def startLook (n : ChanId) (s : State) : State :=
  (List.range ((s.rwc n).ladders.length + 1)).foldl (fun s _ => startLookOnce n s) s

/-! ### Failures -/

/-- The ladder of a sector. -/
def ladderOf (s : State) (n : ChanId) (o : MediaOp) (off : Nat) : Option Ladder := (s.rwc n).ladders.find? (sameSector o off)

/-- A re-read failed on the fly: its capture is held too if it can be, and the first SL_REREAD_ATTEMPTS applicable codes run on it;
without an entry, or misdirected, the ladder goes on to its next step. -/
def rereadFailed (n : ChanId) (l : Ladder) (i : Fin 10) (misdirected : Bool) (s : State) : State :=
  let x := retain n i s
  if x.1 then
    let s := modLadder n l.op l.offset (fun y => { y with
      entries := i :: y.entries, plan := if misdirected then [] else lookPlan s, left := y.rereadCodes, lookAt := none }) x.2
    if misdirected then (match ladderOf s n l.op l.offset with | none => s | some l => nextStep n l s) else s
  else nextStep n l x.2

/-- A sector fails on the fly (R200): counted, its entry retained, its ladder begun or taken on. A sector of a calibration track is
only left out of the statistics (spec 09, R271); one of a verify set has no ladder (spec 08, R239). -/
def sectorFails (n : ChanId) (c : Codeword) (misdirected : Bool) (s : State) : State :=
  let spans := (s.rwc n).entries[c.entry].spans
  let s := modEntry n c.entry (fun e => { e with gainLimit := c.gainLimit }) s
  let s := s.modRwc n (fun r => { r with
    otfFails := r.otfFails + 1, misdirected := r.misdirected + BitVec.ofNat 32 (b2n misdirected) })
  let s := transientFault .otfFail none 0 s
  if c.op.kind = .verify || isCalBand c.op.band then
    let x := retain n c.entry (deliverBad c.op c.offset s)
    if x.1 then keepEntries n [c.entry] false x.2 else x.2
  else if c.reread then
    match ladderOf s n c.op c.offset with
    | none => freeEntry n c.entry s
    | some l => if l.stop.isSome then freeEntry n c.entry s else rereadFailed n l c.entry misdirected s
  else
    let x := retain n c.entry s
    startLadder n c.op c.offset (if x.1 then some c.entry else none) spans misdirected x.2

/-! ### Stopping (R221) -/

/-- The ladders whose reads have ended stop at the end of their attempt or revolution. -/
def dropUnwanted (n : ChanId) (s : State) : State := stopLadders (fun l => !opWanted s l.op) false n s

end Sys2Proof.Machine
end

