-- ==== Sys2Proof/Machine/Startup.lean ====
section
/-! DEFINITION. The meanings of the rows of power, reset and start-up (spec 02, R62 to R70; spec 03), and of the vault (spec 02,
R70, R71; spec 14, R425 to R427). -/

namespace Sys2Proof.Machine

/-! ## Power and reset pins -/

/-- POWER_GOOD (spec 02, R62, R66, R67; spec 03, R82): PORST_N rises; with every monitored rail good, the straps are sampled and
BOOT starts. -/
def execPowerGood (straps : Straps) (boot : BootCheck) (pwrdis : Bool) (s : State) : Host.Outcome State Fault Refusal :=
  .next (if s.power.running then s
    else if s.power.railsLow ≠ [] then { s with power.porst := true, power.straps := straps }
    else bootUp straps boot pwrdis { s with power.porst := true })

/-- PORST_ASSERT (R60, R52): the whole device is held in reset. -/
def execPorstAssert (s : State) : Host.Outcome State Fault Refusal :=
  .next (let t := porReset { s with power.porst := false }
    { t with power.porst := false })

/-- The rails the controller monitors (R63). -/
def monitored : Rail → Bool
  | .vddCore | .vddSram | .vddAna | .vddIo => true
  | _ => false

/-- RAIL_UNDERVOLTAGE (R63): a monitored rail below 90 % for more than 1 µs resets the controller entirely, a vault in progress
included. -/
def execRailUndervoltage (rail : Rail) (s : State) : Host.Outcome State Fault Refusal :=
  .next (if !monitored rail || s.power.railsLow.contains rail then s
    else porReset { s with power.railsLow := s.power.railsLow ++ [rail] })

/-- RAIL_RESTORED (R63): with every monitored rail above 90 % again and PORST_N high, start-up begins. The straps are those of
the last rising edge of PORST_N (R66). -/
def execRailRestored (rail : Rail) (boot : BootCheck) (s : State) : Host.Outcome State Fault Refusal :=
  .next (if !s.power.railsLow.contains rail then s
    else
      let s := { s with power.railsLow := s.power.railsLow.filter (· ≠ rail) }
      if s.power.railsLow = [] ∧ s.power.porst ∧ !s.power.running then bootUp s.power.straps boot s.power.pwrdis s else s)

/-! ## BOOT -/

/-- BUFFER_SELFTEST (spec 12, R356 to R358; R84): training follows, or start-up stops in FAILED with code 0x0301. -/
def execBufferSelftest (r : SelftestReading) (s : State) : Host.Outcome State Fault Refusal :=
  .next (if !s.live || s.bms.stage ≠ .selfTest then s
    else match ([0, 1, 2, 3, 4, 5] : List (Fin 6)).find? (selfTestFails r) with
      | none => { s with bms.stage := .training }
      | some k => failStart 0x0301 { s with bms.stage := .failed, bms.fault := BitVec.ofNat 8 (0x10 + k.val + 1) })

/-- BUFFER_TRAINING_DONE (R357): the fill starts. -/
def execBufferTrainingDone (s : State) : Host.Outcome State Fault Refusal :=
  .next (if !s.live || s.bms.stage ≠ .training then s else { s with bms.stage := .fill })

/-- BUFFER_TRAINING_TIMEOUT (R358): a channel did not train within 4.0 ms. -/
def execBufferTrainingTimeout (c : Fin 4) (s : State) : Host.Outcome State Fault Refusal :=
  .next (if !s.live || s.bms.stage ≠ .training then s
    else failStart 0x0301 { s with bms.stage := .failed, bms.fault := BitVec.ofNat 8 (0x20 + c.val) })

/-- BUFFER_FILL_DONE (R357): every word reads as zero. The firmware runs by then, BOOT ends and MOUNT begins (DESIGN CHOICE,
log 21). -/
def execBufferFillDone (s : State) : Host.Outcome State Fault Refusal :=
  .next (if !s.live || s.bms.stage ≠ .fill then s
    else
      let s := { s with bms.stage := .ready, bms.initTime := satNat 65535 (s.clock.ns / 1000), bms.lapStart := s.clock.ns }
      if s.power.phase = .boot then enterPhase .mount { s with power.bootEnded := true } else s)

/-! ## MOUNT -/

/-- The factory-bad blocks inside a partition: each logical block is held by a pool block of its plane (spec 14, R414). -/
def replaceBad (s : State) (b : Fin 2 × Fin 4 × Nat) : State :=
  if b.2.2 < 2 || 175 ≤ b.2.2 then s
  else modDie b.1 (fun d =>
    let new := nextPool d b.2.1 d.poolNext
    { d with remap := d.remap ++ [(b.2.1, b.2.2, new)], poolNext := new + 1 }) s

/-- The factory scan of the first mount (spec 14, R417), stored in SYSTEM (R415). -/
def factoryScan (r : MountReading) (s : State) : State :=
  if s.mule.scanned then s
  else
    let s := r.factoryBad.foldl (fun s b => modDie b.1 (fun d => { d with bad := d.bad ++ [(b.2.1, b.2.2, false)] }) s) s
    updateSystem { r.factoryBad.foldl replaceBad s with mule.scanned := true }

/-- The copy of SYSTEM that MOUNT uses (spec 14, R415): the one of highest SEQ that decodes on either die. -/
def systemCopy (r : MountReading) (s : State) : Option SystemCopy := (s.mule.system.drop r.systemLost).head?

/-- The tables of SYSTEM as MOUNT finds them: those of the newest copy that decodes, with the scan of the first mount. -/
def mountTables (r : MountReading) (s : State) : State :=
  match systemCopy r s with | none => s | some c => factoryScan r (takeSystem c s)

/-- The vault of a region has a readable header or commit record (R86, R427): one was programmed, and it still reads. -/
def vaultReadable (reads : Bool) (r : Region) : Bool := reads && r.image.any (fun v => v.headerOk || v.committed)

/-- A region as MOUNT judges it (R424): a vault waits for replay, or has been replayed; a region without a readable header or commit
record holds none and is erased in MOUNT. -/
def judgeRegion (reads : Bool) (r : Region) : Region :=
  if vaultReadable reads r then { r with state := if r.marker then .replayed else .written }
  else { r with state := .erased, image := none, marker := false, steps := 0 }

/-- Both regions read. -/
def readRegions (r : MountReading) (s : State) : State := modRegion 1 (judgeRegion r.vault1Ok) (modRegion 0 (judgeRegion r.vault0Ok) s)

/-- The regions that hold no vault are erased in MOUNT. -/
def eraseRegions (s : State) : State :=
  ([0, 1] : List (Fin 2)).foldl (fun s i => if s.mule.regions[i].state = .erased then eraseWhole i s else s) s

/-- The vault that REPLAY will take (R86, R427): of those that MOUNT found readable, the one of highest SEQ. -/
def replayChoice (s : State) : Option (Fin 2) :=
  let q := fun (i : Fin 2) => (s.mule.regions[i].image.map (·.seq)).getD 0
  if (s.mule.regions[(0 : Fin 2)].image).isSome || (s.mule.regions[(1 : Fin 2)].image).isSome then
    some (if q 1 > q 0 || (s.mule.regions[(0 : Fin 2)].image).isNone then 1 else 0)
  else none

/-- The vault of a region, if it is to be replayed. -/
def imageOf (s : State) (i : Option (Fin 2)) : Option VaultImage := i.bind (fun i => s.mule.regions[i].image)

/-- The erased-page map restored (R422): the OEM part from the vault or the shutdown of the previous power cycle, else lost, and every other
partition's from its pages. -/
def restoreMap (s : State) : State :=
  let fromVault := (imageOf s (replayChoice s)).filter (fun v => v.cycle + 1 = s.clock.cycles && v.committed)
  let saved := s.mule.oemSaved.filter (fun x => x.1 + 1 = s.clock.cycles)
  let map := match fromVault, saved with
    | some v, _ => some v.oemMap
    | none, some x => some x.2
    | none, none => none
  modDie 1 (loadBits 1 (map.getD [])) (modDie 0 (loadBits 0 (map.getD [])) { s with mule.oemMapLost := map.isNone })

/-- A record read back from its bytes (spec 17, R480). -/
def recordFrom (b : List Byte) : EventRec :=
  ⟨⟨BitVec.ofNat 16 (fieldU b 0 2), BitVec.ofNat 2 (fieldU b 2 1 / 64), BitVec.ofNat 3 (fieldU b 2 1 / 8),
    BitVec.ofNat 2 (fieldU b 3 1 / 64), BitVec.ofNat 6 (fieldU b 3 1), BitVec.ofNat 32 (fieldU b 18 4),
    BitVec.ofNat 64 (fieldU b 22 8), fieldU b 8 4⟩, fieldU b 4 4, fieldU b 12 4, fieldU b 16 2⟩

/-- The vaulted records beyond the last of EVENT_LOG (spec 17, R487). -/
def newerEvents (s : State) : List EventRec :=
  let v := match imageOf s (replayChoice s) with
    | none => []
    | some v => v.events.map (fun e => recordFrom e.2)
  match s.evr.log with
  | [] => v
  | m :: _ => v.filter (fun r => (r.seq + 2 ^ 32 - m.seq) % 2 ^ 32 < 2 ^ 31 && r.seq ≠ m.seq)

/-- EVENT_LOG takes the vaulted records beyond its last, the ring is reloaded, and POWER_ON and the boot list follow (spec 17,
R484, R487, R488). -/
def restoreEvents (s : State) : State :=
  let r := appendLog (newerEvents s) s.evr
  let seq := match r.log with | [] => r.nextSeq | m :: _ => (m.seq + 1) % 2 ^ 32
  let on := { event 0x0001 0 srcController (s.clock.lastShutdown + s.fw.active.val * 256)
      (s.fw.slots[s.fw.active].version % 2 ^ 32 + r.bootLost % 65536 * 2 ^ 32) with powerOn := powerOn s }
  { s with evr := { r with ring := r.log.take 4096, nextSeq := seq, isOpen := false, fill := cfg s 0x7200 1 = 1, queue := on :: r.boot, boot := [], bootLost := 0 } }

/-- The band records that the checkpoint and the journal hold (spec 14, R430): the newest image of each band, and for a band
with later bitmap words and lost-write runs those too. A conventional band whose retirement an UNRETIRE has ended is back in service
(spec 13, R406). -/
def rebuildBands (s : State) : State :=
  let s := { s with sub.bands := s.mule.checkpoint }
  let s := s.mule.journal.reverse.foldl (fun s r =>
    match r with
    | .band b => setBand b s
    | .bitmap k w x => modBand k (fun b => { b with
        extents := (b.extents &&& ~~~((BitVec.allOnes 256).zeroExtend 4096 <<< (256 * w.val))) ||| (x.zeroExtend 4096 <<< (256 * w.val)) }) s
    | .lostRun k a n => modBand k (fun b => { b with lost := b.lost ++ ((List.range n).map (a + ·)).filter (fun o => !b.lost.contains o) }) s
    | _ => s) s
  { s with sub.bands := s.sub.bands.map (excludedNow s) }

/-- LOCK_CLR sampled high clears the owner lock in MOUNT (R85; spec 15, R461). -/
def clearOwnerLock (s : State) : State :=
  if !s.power.straps.lockClr then s
  else
    let id := match s.mgmt.lock with | none => 0 | some l => l.2.toNat % 2 ^ 64
    let cleared := { s with mgmt.lock := none }
    let s := if s.mgmt.lock.isNone then cleared else lockChanged srcController cleared
    setFlag .ownerLock (raise (event 0xC004 2 srcController 2 id) s)

/-- RDY in response to CC.EN = 1 once MOUNT has ended (R95); RECOVERY presents a ready controller too (R83). -/
def raiseReady (s : State) : State :=
  s.modPorts (fun p => if p.en && !p.cfs then { p with rdy := true } else p)

/-- REPLAY has nothing left to do: the retirement that waited takes effect (spec 13, R403) and SPIN_WAIT begins. -/
def endReplay (s : State) : State := enterPhase .spinWait (retirementInstant s)

/-- MOUNT_END (R85; spec 14, R415, R417, R424; spec 17, R484): the Mule is mounted, REPLAY and the zone metadata load begin; without
a readable SYSTEM copy or with fewer than 3,300 good blocks on a die start-up stops with code 0x0401. -/
def execMountEnd (r : MountReading) (s : State) : Host.Outcome State Fault Refusal :=
  .next (if !s.live || s.power.phase ≠ .mount then s
    else
      let s := mountTables r s
      if (systemCopy r s).isNone || goodBlocks s 0 < 3300 || goodBlocks s 1 < 3300 then
        failStart 0x0401 { s with mule.broken := true, cache.mode := .off }
      else
        let s := eraseRegions (restoreMap (readRegions r s))
        let s := restoreEvents (logPages (newerEvents s) s)
        let s := rebuildBands { s with mule.mounted := true, power.mountEndAt := s.clock.ns }
        let s := raiseReady (clearOwnerLock (requestMode (bootCacheMode s) s))
        let s := enterPhase .replay { s with mule.replaying := replayChoice s }
        if s.mule.replaying.isNone then endReplay s else s)

/-! ## REPLAY -/

/-- Lines reinstalled from a vault, with their tags, those of an unreadable data page left out. -/
def reinstall (v : VaultImage) (lostAt : List Nat) (s : State) : State :=
  let l := (v.lines.zipIdx.filter (fun x => !lostAt.contains x.2)).map (fun x => { x.1 with replayed := true, pinned := false })
  { s with cache.lines := s.cache.lines ++ l }

/-- The lines of unreadable data pages marked lost-write, the writing host from the tag (spec 13, R402). -/
def loseLines (v : VaultImage) (lostAt : List Nat) (s : State) : State :=
  (v.lines.zipIdx.filter (fun x => lostAt.contains x.2)).foldl (fun s x =>
    match locateBlock s x.1.block with
    | none => s
    | some (k, o) => markLost k 0x00FF [(o, x.1.hostx, x.1.port)] s) s

/-- A listed band whose lines cannot be identified (R402): from the recovered write pointer up to ZCAP in a shingled band, every
block in a conventional one; the pending flag is set for both ports. -/
def loseBand (wps : List (HeadId × Nat × Nat)) (k : BandKey) (s : State) : State :=
  let r := bandRec s k
  let wp := if r.shingled then ((wps.find? (fun x => x.1 = k.head && x.2.1 = k.band)).map (·.2.2)).getD r.wp else 0
  let s := setBand { r with wp := if r.shingled then wp else r.wp, awp := max r.awp wp } s
  let s := markLost k 0x00FF ((List.range (r.zcap - wp)).map (fun i => (wp + i, 0, 0))) s
  let s := if r.shingled && r.state ≠ .offline then setZoneState k .readOnly s else s
  match blockAt s k 0 with
  | none => s
  | some b => { s with sub.deferred := s.sub.deferred ++ ([(0, b.nsid), (1, b.nsid)] : List (Nat × Nat)).filter (fun d => !s.sub.deferred.contains d) }

/-- The bands listed when no copy of the band list reads (spec 14, R427): those of the metadata steps, or every band neither
Empty nor Offline. -/
def listedBands (s : State) (v : VaultImage) (r : ReplayReading) : List BandKey :=
  if r.bandListOk then v.bands
  else if r.metaOk then v.records.map (·.key)
  else (s.sub.bands.filter (fun b => b.nsid ≠ 0 && b.state ≠ .empty && b.state ≠ .offline)).map (·.key)

/-- A vault loss is counted and recorded (R402); its vault counts as an unsafe shutdown, once (spec 10, R298). -/
def countLoss (unsafeEnd : Bool) (s : State) : State :=
  driveFault .vaultLoss 0 { s with faults.vaultLosses := s.faults.vaultLosses + 1, clock.unsafeShutdowns := s.clock.unsafeShutdowns + b2n unsafeEnd }

/-- The REPLAYED marker page, KIND 0x06 with the vault's SEQ, at the next free step position, and the region REPLAYED (spec 14, R427). -/
def programMarker (i : Fin 2) (v : VaultImage) (s : State) : State :=
  let l := 8 * s.mule.regions[i].steps
  let s := storePages (regionPart i) [⟨partCode (regionPart i), 0x06, v.seq, l, [], pageFill []⟩] (clearErased (pageOf s (regionPart i) l) s)
  modRegion i (fun x => { x with state := .replayed, marker := true, steps := x.steps + 1 }) s

/-- What the metadata steps of a vault restore, if they are readable: band records, host identifiers, and the supersede records that were
not yet in the journal (spec 14, R425, R429). -/
def replayMeta (r : ReplayReading) (v : VaultImage) (s : State) : State :=
  if r.metaOk then
    v.records.foldl (fun s b => setBand b s)
      { s with sub.hosts := v.hosts, mule.superseded := s.mule.superseded ++ superseding v.unwritten }
  else s

/-- The listed bands with lines that cannot be identified (R402): all of them without tags, else those of the lines whose tag page is
unreadable. -/
def unidentified (s : State) (v : VaultImage) (r : ReplayReading) : List BandKey :=
  if !r.tagsOk then listedBands s v r
  else
    let l := (v.lines.zipIdx.filter (fun x => r.lostTags.contains x.2)).filterMap (fun x => bandOf s x.1)
    (listedBands s v r).filter l.contains

/-- The lines with readable tag and data pages are reinstalled, the others lost, with all of the bands whose lines cannot be identified
(spec 14, R427; spec 13, R402). A loss is counted once. -/
def replayLines (r : ReplayReading) (v : VaultImage) (s : State) : State :=
  let named := r.lostLines.filter (fun i => i < v.lines.length && !r.lostTags.contains i)
  let tags := r.lostTags.filter (· < v.lines.length)
  let s := if r.tagsOk then loseLines v named (reinstall v (named ++ tags) s) else s
  let s := (unidentified s v r).foldl (fun s k => loseBand r.recoveredWp k s) s
  if !(v.committed && r.commitOk) || !r.tagsOk || named ≠ [] || tags ≠ [] then countLoss (!v.counted) s else s

/-- The end of a replay (spec 14, R427): numbering goes on above the largest VERSION, the marker is programmed, the other region erased. -/
def closeReplay (i : Fin 2) (v : VaultImage) (s : State) : State :=
  let top := (s.cache.lines.map (·.version)).foldl max 0
  let s := programMarker i v s
  let s := eraseWhole (1 - i) (modRegion (1 - i) (fun x => { x with state := .erased, image := none, marker := false, steps := 0 }) s)
  { s with
    cmds.nextId := max s.cmds.nextId (top + 1), mule.replaying := none
    mule.lastReplayUs := (s.clock.ns - s.power.phaseStart) / 1000 }

/-- REPLAY_END (R86; spec 14, R427; spec 13, R402): lines reinstalled, losses handled, the REPLAYED marker programmed, the other
region erased, and SPIN_WAIT. -/
def execReplayEnd (r : ReplayReading) (s : State) : Host.Outcome State Fault Refusal :=
  .next (if !s.live || s.power.phase ≠ .replay then s
    else match s.mule.replaying with
      | none => endReplay s
      | some i =>
        match s.mule.regions[i].image with
        | none => endReplay s
        | some v =>
          let s := closeReplay i v (replayLines r v (replayMeta r v s))
          endReplay (requestMode s.cache.requested s))

/-- ZONE_METADATA_LOAD_END (R93; spec 14, R428): replayed lines are judged; zones whose record is lost go Offline; without a
readable checkpoint start-up fails with code 0x0901, the heads retracted and the spindle kept running. -/
def execZoneMetadataLoadEnd (r : ZoneLoadReading) (s : State) : Host.Outcome State Fault Refusal :=
  .next (if !s.live || s.power.zoneLoadDone || !s.mule.mounted || s.power.phase = .replay || s.power.phase = .failed then s
    else if !r.checkpointOk then failStart 0x0901 (unloadAll s)
    else
      let s := r.lostBands.foldl (fun s b =>
        let k : BandKey := ⟨b.1, b.2⟩
        if (bandRec s k).nsid = 0 then s
        else if (bandRec s k).shingled then offlineZone k s else modBand k (fun x => { x with excluded := true }) s) s
      let s := judgeReplayed { s with power.zoneLoadDone := true }
      let s := noteWarning (endDraining (releaseRegions s))
      if s.power.phase = .zoneLoad then enterReady s else s)

/-! ## Spin-up and loading -/

/-- The spin-up instant has come (R87). -/
def spinUpReady (s : State) : Bool :=
  let groups := cfg s 0x3010 2
  passed s s.power.staggerFrom (cfg s 0x1001 1 % groups * cfg s 0x3010 1 * 1000000) && !s.power.pwrdis && s.power.pwrdisSeenLow
    && !s.dict.unvalidated && !s.power.restarting

/-- SPIN_UP_INSTANT (R87, R88; spec 02, R57): SPIN with command 1; an attempt on a spindle link that is not up fails at once. -/
def execSpinUpInstant (s : State) : Host.Outcome State Fault Refusal :=
  .next (if !s.live || s.power.phase ≠ .spinWait || !spinUpReady s then s
    else
      let s := spinUp (enterPhase .spinUp { s with power.speedChange := .none })
      if (s.link (spindleLink s)).up then s else failSpinUp true s)

/-- SPINUP_TIMEOUT (R88, R34): set speed not reached within SPINUP_TIMEOUT; a ramp of a speed change ends the same way. -/
def execSpinupTimeout (s : State) : Host.Outcome State Fault Refusal :=
  .next (if s.live && s.tick.ramp && !s.power.braking then failSpinUp false s else s)

/-- HOLDUP_CHECK_REPEAT (R89): the check again, every 10 minutes after a failure and every 24 power-on hours after a pass, while
LOCKED and, after a pass, with no region being erased. A repeat whose TESTRES does not come is waited for without limit, and no further
repeat is sent meanwhile (DESIGN CHOICE, log 39: the rule limits the check of start-up only). -/
def execHoldupCheckRepeat (s : State) : Host.Outcome State Fault Refusal :=
  .next (if s.live && s.tick.state = .locked && !s.power.holdTesting && s.power.phase ≠ .holdupCheck
      && (!s.power.holdupPassed || s.mule.regions.toList.all (fun r => r.state ≠ .erasing)) then startHoldtest s else s)

/-- ACTUATOR_LOAD_START (R90; spec 06, R169; spec 02, R57): the next actuator in order begins its load; on a link that is not up
the load fails at its limit. No head is loaded while the configuration is unvalidated (spec 04, R104). -/
def execActuatorLoadStart (s : State) : Host.Outcome State Fault Refusal :=
  .next (match s.loadQueue with
    | [] => s
    | n :: rest =>
      if !s.live || s.dict.unvalidated || s.power.restarting || s.power.speedChange = .ramping then s
      else
        { s with loadQueue := rest }.modChan n (fun c => { c with
          load := .beforeSam, loadDoomed := !(s.link (linkOf n)).up
          ce := { c.ce with mode := .reacquire, uHold := fieldS (servoVal s (0x4110 + n.val) 1) 30 2, busy := none, moving := false, moveNew := false }
          sdm := { c.sdm with goodRun := 0, validRun := 0, missRun := 0, reacq := true, intervals := [], sinceSam := none } }))

/-- LOAD_TIMEOUT (R90; spec 13, LOAD_FAIL, REACQ_RELOAD): the actuator is retracted and its load tried twice more; the third
failure retires the channel, with code 0x0701 in a start-up. -/
def execLoadTimeout (n : ChanId) (s : State) : Host.Outcome State Fault Refusal :=
  .next (if !s.live || (s.chan n).load = .unloaded || (s.chan n).load = .loaded then s
    else
      let fails := (s.chan n).loadFails + 1
      let s := unloadChans [n] (s.modChan n (fun c => { c with loadFails := fails }))
      if fails < 3 then { s with loadQueue := s.loadQueue ++ [n] }
      else
        let k := if (s.chan n).reloadOf.isSome then FaultKind.reacqReload else FaultKind.loadFail
        let s := s.modChan n (fun c => { c with loadFails := 0, reloadOf := none })
        let s := immediateFault k (.channel n) 0 s
        let s := if s.power.phase = .headLoad then
            startFault 0x0701 { s with power.retiredAtStart := s.power.retiredAtStart ||| (1 <<< n.val) }
          else s
        let left := allChans.filter (fun m => chanServes s m && !s.faults.decided.contains (.channel m, true))
        if left = [] ∧ s.power.phase = .headLoad then failStart 0x0702 (sendSpin 0 (unloadAll s)) else s)

/-- The limit of a phase in ns after its start; BOOT and MOUNT count from power good (Table 3.2). -/
def phaseLimit : Phase → Option Nat
  | .boot => some 250000000 | .mount => some 2000000000 | .replay => some 400000000 | .holdupCheck => some 200000000
  | .headLoad => some 2000000000 | .calibrate => some 10000000000 | _ => none

/-- The zone metadata load has passed its limit, 5 s after the end of MOUNT. -/
def zoneLoadLate (s : State) : Bool :=
  s.mule.mounted && !s.power.zoneLoadDone && passed s s.power.mountEndAt 5000000000 && s.power.phase ≠ .failed

/-- The present phase has passed its limit. -/
def phaseLate (s : State) : Bool :=
  match phaseLimit s.power.phase with
  | none => false
  | some t => passed s (if s.power.phase = .mount || s.power.phase = .boot then 0 else s.power.phaseStart) t

/-- The failure of a phase that passed its limit (R80, R98). BOOT and MOUNT stop start-up; REPLAY continues, its code recorded
(DESIGN CHOICE, log 21); the hold-up check fails; the channels not loaded are retired; a head unfinished in CALIBRATE
keeps its stored coefficients (R91). -/
def phaseFails (s : State) : State :=
  match s.power.phase with
  | .boot => failStart 0x0B01 s
  | .mount => failStart 0x0B01 { s with mule.broken := true, cache.mode := .off }
  | .replay => startFault 0x0B01 s
  | .holdupCheck => beginHeadLoad (holdupFail s)
  | .headLoad =>
    let slow := allChans.filter (fun n => chanServes s n && (s.chan n).load ≠ .loaded)
    let s := startFault 0x0B01 { s with loadQueue := [], power.retiredAtStart := slow.foldl (fun v n => v ||| (1 <<< n.val)) s.power.retiredAtStart }
    slow.foldl (fun s n => immediateFault .loadFail (.channel n) 0 (unloadChans [n] s)) s
  | .calibrate => endCalibrate (startFault 0x0B01 { s with cal.startLeft := [] })
  | _ => s

/-- PHASE_LIMIT_EXPIRED (R80, R93, R98): a phase, or the zone metadata load (code 0x0902), has passed its limit. -/
def execPhaseLimitExpired (s : State) : Host.Outcome State Fault Refusal :=
  .next (if !s.live then s
    else if zoneLoadLate s then failStart 0x0902 (unloadAll s)
    else if phaseLate s then phaseFails s else s)

/-! ## Power loss and the vault -/

/-- HOLD_SENSE_FALL (R68): below 0.850 V the trip timer runs; the level is followed in reset too. -/
def execHoldSenseFall (s : State) : Host.Outcome State Fault Refusal :=
  .next { s with power.holdLow := true }

/-- HOLD_SENSE_RISE (R68): above 0.900 V; a dip shorter than 20 µs is ignored and counted. -/
def execHoldSenseRise (s : State) : Host.Outcome State Fault Refusal :=
  .next { s with power.holdLow := false, power.dips := s.power.dips + b2n (s.power.running && s.power.holdLow && s.power.vault = .none) }

/-- PWRDIS_RISE (R69, R100): a rise is timed once PWRDIS has been seen low. -/
def execPwrdisRise (s : State) : Host.Outcome State Fault Refusal :=
  .next { s with power.pwrdis := true, power.pwrdisTimer := s.power.running && s.power.pwrdisSeenLow }

/-- PWRDIS_FALL (R100). -/
def execPwrdisFall (s : State) : Host.Outcome State Fault Refusal :=
  .next { s with power.pwrdis := false, power.pwrdisTimer := false, power.pwrdisSeenLow := true }

/-- What is recorded at t0 (R71; spec 13, R404): VAULT with the number of lines, retirements decided and not applied; ladders and
calibration runs stop, and the recorder unfreezes (spec 17, R486). -/
def vaultRecords (byPwrdis : Bool) (s : State) : State :=
  let s := raise (event 0x0013 2 srcController (b2n byPwrdis) (vaultLines s).length) s
  let s := if s.faults.decided ≠ [] then raise (event 0xF101 2 srcController) s else s
  unfreeze (stopRuns (allChans.foldl (fun s n => abandonLadders n s) s))

/-- A vault trigger (R70, R71, R99): HPC fetches nothing, Sheepdog places nothing; before SPIN_WAIT no vault is written. The
recorder unfreezes and its open record closes (spec 17, R485, R486). -/
def triggerVault (byPwrdis : Bool) (s : State) : State :=
  let early : Bool := s.power.phase = .boot || s.power.phase = .mount || s.power.phase = .replay || s.power.phase = .recovery
  let found := hasDirty s || anyLoaded s
  let s := vaultRecords byPwrdis s
  { s with
    power.vault := if early then .noVault else .triggered, power.vaultByPwrdis := byPwrdis, power.vaultAt := s.clock.ns
    power.pwrdisTimer := false, cmds.fetchStopped := true, evr.isOpen := false
    clock.unsafeShutdowns := s.clock.unsafeShutdowns + b2n found, power.vaultUnsafe := found
    fw.assembly := [], dict.values := committedValues s, dict.staged := [], dict.owner := none, dict.stage := .idle,
    dict.servoSwapped := false, dict.chanSwapped := 0, dict.discardAfter := none, dict.waiter := none }

/-- The timer of the source has run out: 20 µs of HOLD_SENSE or 100 µs of PWRDIS (R68, R69). -/
def vaultDue (s : State) (byPwrdis : Bool) : Bool := if byPwrdis then s.power.pwrdis && s.power.pwrdisTimer else s.power.holdLow

/-- VAULT_TRIGGER (R68 to R71): irreversible; a second one is ignored. -/
def execVaultTrigger (pwrdis : Bool) (s : State) : Host.Outcome State Fault Refusal :=
  .next (if s.live && vaultDue s pwrdis then triggerVault pwrdis s else s)

/-- VAULT_RETRACT (Table 2.11): at t0 + 20 µs a sector not complete is aborted and stays dirty, every write gate is low, RETRACT
with mask 0xF goes down both links, and the vault is programmed. The pending events are written first. -/
def execVaultRetract (s : State) : Host.Outcome State Fault Refusal :=
  .next (if s.power.vault ≠ .triggered then s
    else
      let s := allChans.foldl (fun s n => if (s.wr n).request then abortSector false n s else s.modWr n (fun w => { w with wg := false })) s
      let s := ([0, 1] : List LinkId).foldl (fun s k => sendRetract k (chansOf k) s) s
      let s := allChans.foldl (fun s n => parkChannel n s) s
      let s := s.evr.queue.foldl (fun s _ => writeNext s) s
      startVault s)

/-- VAULT_RESTART (R70): after the commit record, with HOLD_SENSE high and PWRDIS low for 100 ms, an internal power-on reset. -/
def execVaultRestart (boot : BootCheck) (s : State) : Host.Outcome State Fault Refusal :=
  .next (if (s.power.vault = .vaulted || s.power.vault = .noVault) && !s.power.holdLow && !s.power.pwrdis then
      bootUp s.power.straps boot false (porReset s)
    else s)

end Sys2Proof.Machine
end

