-- ==== Sys2Proof/Machine/Port.lean ====
section
/-! DEFINITION. The host ports (spec 10, R288 to R311; spec 11, Table 11.4): link, resets, controller enable and shutdown. -/

namespace Sys2Proof.Machine

/-- A port exists: port 1 does not in ×4 mode (R288). -/
def portExists (s : State) (p : PortId) : Bool := !(s.power.straps.portMode && p = 1)

/-- The class code of each port's function (Table 10.1): an NVM Express controller. -/
def classCode : Nat := 0x010802

/-- How a port answers a configuration request (spec 03, Tables 3.5 and 3.6). -/
inductive ConfigAnswer where
  | none | requestRetry | normal
deriving DecidableEq, Repr

/-- The answer to a configuration request on port `p` (R94, R95): Request Retry Status from link up until BOOT ends, and never later
than 1.0 s after the later of power good and the deassertion of PERSTn_N. -/
def configAnswer (s : State) (p : PortId) : ConfigAnswer :=
  if (s.port p).link.isNone then .none
  else if s.power.bootEnded || passed s (s.port p).trainAt 1000000000 then .normal
  else .requestRetry

/-- CAP.TO (R95): 2.0 s in units of 500 ms. -/
def capTimeout : Byte := 0x04

/-- CAP (R293, Table 10.3): MQES 4,095, CQR, TO, DSTRD 0, NSSRS, CSS bits 0 and 6, MPSMIN 0, MPSMAX 4, CRWMS and CRIMS. The places of the
fields are those of NVMe Base 2.0 (PRESUMED, log 18). -/
def capRegister : Word64 :=
  BitVec.ofNat 64 (4095 + 2 ^ 16 + capTimeout.toNat * 2 ^ 24 + 2 ^ 36 + 0x41 * 2 ^ 37 + 4 * 2 ^ 52 + 3 * 2 ^ 59)

/-- VS (R293): 2.0. -/
def vsRegister : Word32 := 0x00020000

/-- CSTS of a port: RDY, CFS, SHST and PP. -/
def cstsRegister (q : Port) : Word32 :=
  BitVec.ofNat 32 (b2n q.rdy + 2 * b2n q.cfs + 4 * q.shst.toNat + 32 * b2n q.pp)

/-- A PORT_RESET event of a kind (spec 17, Table 17.4). -/
def portEvent (p : PortId) (kind : Nat) (s : State) : State := raise (event 0x0011 1 p.val kind) s

/-! ## Controller reset -/

/-- The contexts of a port that a reset ends without a completion: neither committed nor with a sector on media. -/
def resetEnds (s : State) (p : PortId) (c : Ctx) : Bool := c.port = p && !c.committed && !c.unabortable s

/-- The effect of a controller reset on the port's commands (Table 11.4): S2 and S3 are discarded, S3m finish without a completion,
S4 keep their data and lose their entry. -/
def resetCommands (p : PortId) (s : State) : State :=
  let s := (s.cmds.ctxs.filter (resetEnds s p)).reverse.foldl (fun s c =>
    match ctxOf s c.id with | none => s | some c => if c.committed then dropCtx c.id s else discardCtx c s) s
  { s with
    cmds.ctxs := (s.cmds.ctxs.filter (fun c => c.port ≠ p || !c.committed)).map (fun c => if c.port = p then { c with silent := true } else c) }

/-- The features after a controller reset: the power state and the Host Identifier stand (log 18). -/
def featuresAtReset (now : Nat) (f : Features) : Features :=
  { Features.reset with ps := f.ps, lastOp := f.lastOp, hostId := f.hostId, exhid := f.exhid, timestampAt := now }

/-- The registers, queues, features and asynchronous events of a controller at its reset (R307). -/
def controllerFields (p : PortId) (s : State) : State :=
  s.modPort p (fun q => { q with
    en := false, rdy := false, cfs := false, shst := 0, pp := false, sqs := [], cqs := [], rrQid := 0, rrTaken := 0
    feat := featuresAtReset s.clock.ns q.feat, aers := [], events := [], masked := [], committed := [], deleting := [], abortWait := [], abortDone := [], abortAdmin := [] })

/-- A controller reset of port `p` (R307, R341; Table 11.4): its commands, queues, features and asynchronous events. -/
def controllerReset (p : PortId) (s : State) : State :=
  let s := controllerFields p (resetCommands p s)
  match s.dict.waiter with
  | some (.command a) => if a.port = p then { s with dict.waiter := none } else s
  | _ => s

/-- The controllers changed: a STANDBY that now has every ready controller in PS2 is entered (R310). -/
def settle (s : State) : State := progress (if allPs2 s then powerStates s else s)

/-- The vendor block of a port reset (R314, R315): its registers at their reset values, a pending response discarded. -/
def vendorReset (p : PortId) (s : State) : State :=
  s.modPort p (fun q => { q with
    status := 0, intEnable := 0, masked64 := .allOnes 65, pending64 := 0, masked65 := true, pending65 := false, tickHi := 0, evtBase := 0, mbGo := false, mbLen := 0
    mbReq := [], mbResp := none, mbWait := none })

/-- A path's state replaced by its image. -/
def modPath (p : Path) (f : PathState → PathState) (s : State) : State := { s with mgmt.paths := upd s.mgmt.paths (pathIx p) f }

/-- The state of a path. -/
def pathState (s : State) (p : Path) : PathState := s.mgmt.paths[pathIx p]

/-- A port path leaves the privileged view at a reset of its port (spec 15, R460); a staging copy it owns is discarded (R449). -/
def resetPrivilege (p : PortId) (s : State) : State :=
  let owned := s.dict.owner = some (pathOf p) && (pathState s (pathOf p)).priv
  let s := modPath (pathOf p) (fun x => { x with priv := false }) s
  if owned then wantDiscard 3 srcController s else s

/-- A reset of a port's PCIe function, of a kind: controller, vendor block and privilege. -/
def functionReset (p : PortId) (kind : Nat) (s : State) : State :=
  settle (resetPrivilege p (vendorReset p (controllerReset p (portEvent p kind s))))

/-- The device is powered and its ports act: it runs, or a vault has been triggered. -/
def State.portsAct (s : State) : Bool := s.power.running && !s.power.dead && !s.power.straps.testMode

/-- A reset of a port after a vault trigger: its PCIe and NVMe state only; the vault, and the data that it takes, are not affected (R59;
spec 02, R74). -/
def resetInVault (p : PortId) (s : State) : State := vendorReset p (controllerFields p s)

/-! ## Rows -/

/-- PERST_ASSERT (R59): the PCIe and NVMe state of that port only; a vault in progress is not affected (spec 02, R74). -/
def execPerstAssert (p : PortId) (s : State) : Host.Outcome State Fault Refusal :=
  let s' := s.modPort p (fun q => { q with perst := true, link := none })
  .next (if s.live && !(s.port p).perst && portExists s p then functionReset p 0 s'
    else if s.portsAct && !s.live then resetInVault p s' else s')

/-- PERST_DEASSERT (spec 03, R94; R289): the link trains, and CLOCKING takes effect with it. -/
def execPerstDeassert (p : PortId) (s : State) : Host.Outcome State Fault Refusal :=
  let s' := s.modPort p (fun q => { q with perst := false })
  .next (if s.live && (s.port p).perst then trainPort p s' else s')

/-- The link of a port goes down (R59, spec 02, R74): recorded as PORT_RESET kind 5; after a vault trigger nothing more is recorded. -/
def dropLink (p : PortId) (s : State) : State :=
  if (s.port p).link.isNone then s
  else
    let s' := s.modPort p (fun q => { q with link := none })
    if s.live then portEvent p 5 s' else s'

/-- REFCLK_LOSS (R59): the link of that port only, in a vault too. -/
def execRefclkLoss (p : PortId) (s : State) : Host.Outcome State Fault Refusal := .next (when s.portsAct (dropLink p) s)

/-- PCIE_LINK_DOWN (spec 02, R74): the link of that port only, in a vault too. -/
def execPcieLinkDown (p : PortId) (s : State) : Host.Outcome State Fault Refusal := .next (when s.portsAct (fun s => dropLink p s) s)

/-- LINK_DISABLE (R288): the link goes down, and as one of the resets of Table 10.1 it resets the controller (DEDUCED, log 29). -/
def execLinkDisable (p : PortId) (s : State) : Host.Outcome State Fault Refusal :=
  .next (if !s.portsAct || (s.port p).link.isNone then s
    else if s.live then settle (resetPrivilege p (vendorReset p (controllerReset p (dropLink p s))))
    else resetInVault p (dropLink p s))

/-- HOT_RESET (R288; spec 15, R460). -/
def execHotReset (p : PortId) (s : State) : Host.Outcome State Fault Refusal :=
  .next (if !s.portsAct || (s.port p).link.isNone then s else if s.live then functionReset p 1 s else resetInVault p s)

/-- FUNCTION_LEVEL_RESET (R288, R341; spec 15, R460). -/
def execFunctionLevelReset (p : PortId) (s : State) : Host.Outcome State Fault Refusal :=
  .next (if !s.portsAct || (s.port p).link.isNone then s else if s.live then functionReset p 2 s else resetInVault p s)

/-- CC_ENABLE (spec 03, R95, Table 3.6): the admin queues are set up; RDY no earlier than the end of MOUNT, CFS in FAILED without
it. -/
def execCcEnable (p : PortId) (s : State) : Host.Outcome State Fault Refusal :=
  .next (if s.live && (s.port p).link.isSome && !(s.port p).en then
      settle (s.modPort p (fun q => { q with
        en := true, shst := 0
        rdy := (s.mule.mounted || s.power.phase = .recovery) && s.fw.activation = .none, cfs := s.power.phase = .failed && !s.mule.mounted
        sqs := [⟨0, 4096, 0, 0, 0⟩], cqs := [⟨0, 4096, 0, 0, 0, true⟩] }))
    else s)

/-- CC_DISABLE (R341): a controller reset of its port; its privilege stands (spec 15, R460). -/
def execCcDisable (p : PortId) (s : State) : Host.Outcome State Fault Refusal :=
  .next (if !s.portsAct || !(s.port p).en then s
    else if s.live then settle (controllerReset p (portEvent p 3 s)) else controllerFields p s)

/-- CC_SHUTDOWN (R311): 01b and 10b begin a shutdown. -/
def execCcShutdown (p : PortId) (shn : BitVec 2) (s : State) : Host.Outcome State Fault Refusal :=
  .next (if s.live && (s.port p).shst = 0 && (shn = 1 || shn = 2) then
      progress (s.modPort p (fun q => { q with shst := 1 }))
    else s)

/-- FAILED is left by a subsystem reset and by a firmware activation (spec 03, R98): start-up is tried again, from SPIN_WAIT once the
Mule is mounted, else from BOOT (DESIGN CHOICE, log 29). -/
def leaveFailed (s : State) : State :=
  if s.power.phase ≠ .failed then s
  else if s.mule.mounted then restartFromSpinWait s
  else enterPhase .boot { s with bms.stage := .selfTest, bms.fault := 0 }

/-- NVM_SUBSYSTEM_RESET (R307, R341): the value 0x4E564D65 ("NVMe") in NSSR resets both controllers. -/
def execNvmSubsystemReset (p : PortId) (v : Word32) (s : State) : Host.Outcome State Fault Refusal :=
  .next (if !s.portsAct || (s.port p).link.isNone || v ≠ 0x4E564D65 then s
    else if s.live then leaveFailed ((allPorts.filter (portExists s)).foldl (fun s q => functionReset q 4 s) s)
    else (allPorts.filter (portExists s)).foldl (fun s q => resetInVault q s) s)

end Sys2Proof.Machine
end

