-- ==== Sys2Proof/Machine/Firmware.lean ====
section
/-! DEFINITION. Firmware staging and activation (spec 16): headers, pieces and sources, the seal, the lease and abort, commit
actions, and immediate activation. -/

namespace Sys2Proof.Machine

/-! ## The staging state -/

/-- The Lamb slot: the inactive one. -/
def lamb (s : State) : Fin 2 := 1 - s.fw.active

/-- A slot replaced by its image. -/
def modSlot (i : Fin 2) (f : Slot → Slot) (s : State) : State := { s with fw.slots := upd s.fw.slots i f }

/-- Staging is BOUND or SEALING. -/
def fwBound (s : State) : Bool := s.fw.source.isSome

/-- A pending activation (R474). -/
def fwPending (s : State) : Bool := s.fw.next.isSome

/-- FW_STATE (0x7100:01; spec 16, Table 16.8). -/
def fwState (s : State) : Nat :=
  if s.fw.activation ≠ .none then 4 else if s.fw.sealing then 2 else if fwBound s then 1
  else if s.fw.slots[lamb s].state = 2 then 3 else 0

/-- The units of the image in the Lamb slot. -/
def fwUnits (s : State) : Nat := s.fw.slots[lamb s].length / 4096

/-- The units in the assembly buffer. -/
def fwWaiting (s : State) : Nat := (s.fw.assembly.map (fun e => e.2.length)).sum

/-- FW_LEASE_LEFT in 1/1024 hour; 0 unbound (R472). -/
def fwLeaseLeft (s : State) : Nat :=
  if fwBound s then s.fw.slots[lamb s].leaseMark * 256 + cfg s 0x7100 6 * 1024 - powerOn s else 0

/-- FW_PIECE_MAP: one bit for each unit of the image, set when it is programmed. -/
def fwPieceMap (s : State) : List Byte :=
  if s.fw.programmed = [] && !fwBound s then []
  else (List.range (ceilDiv (fwUnits s) 8)).map (fun i => BitVec.ofNat 8 (maskOf 8 (fun j => s.fw.programmed.contains (8 * i + j))))

/-- A slot entry (Table 16.3). -/
def slotEntry (x : Slot) : List Byte :=
  leBytes 1 x.state ++ leBytes 3 x.leaseMark ++ leBytes 8 x.imageId ++ leBytes 4 x.version ++ leBytes 4 x.length
    ++ leBytes 4 (b2n x.resetOnly) ++ (x.fr ++ List.replicate 8 0).take 8

/-! ## Headers -/

/-- Every byte of a run is zero. -/
def zeroRun (b : List Byte) (i k : Nat) : Bool := ((b.drop i).take k).all (· = 0)

/-- A header is acceptable (R465). -/
def acceptable (s : State) (h : FwHeader) : Bool :=
  let b := h.bytes
  let len := fieldU b 20 4
  let hot := fieldU b 24 4
  fieldU b 0 4 = 0x57465A45 && fieldU b 4 2 = 1 && fieldU b 6 1 ≤ 3 && !h.keyRevoked
    && len % 4096 = 0 && 8192 ≤ len && len ≤ 62914560
    && hot % 4096 = 0 && 0 < hot && hot ≤ 4194304 && hot ≤ len - 4096
    && fieldU b 7 1 ≤ 1 && zeroRun b 40 8 && zeroRun b 240 3856
    && cfg s 0x7100 9 ≤ fieldU b 16 4 && h.signatureOk

/-- The slot entry that a bound header gives (R473). -/
def slotOfHeader (s : State) (b : List Byte) : Slot :=
  ⟨1, powerOn s / 256, fieldU b 8 8, fieldU b 16 4, fieldU b 20 4, bitOf (fieldU b 7 1) 0, (b.drop 32).take 8, fieldU b 30 2,
    fieldU b 28 2⟩

/-- The background erase of the Lamb slot begins: two stripes on each die (R467, R472). -/
def eraseLamb (s : State) : State :=
  kickDies { s with fw.erasing := true, fw.eraseLeft := .replicate 2 2, mule.written := assocDel (slotPart (lamb s)) s.mule.written }

/-- Staging binds to an image and a source (Table 16.2): the Lamb slot is erased. -/
def bindImage (src : Path) (b : List Byte) (s : State) : State :=
  let s := modSlot (lamb s) (fun _ => slotOfHeader s b) s
  eraseLamb { s with fw.source := some src, fw.header := some (b.take 4096), fw.sealing := false, fw.programmed := [],
                     fw.assembly := [], fw.sinceMap := 0 }

/-- The source image of a path (R467). -/
def setSourceImage (p : Path) (b : List Byte) (s : State) : State :=
  modPath p (fun x => { x with sourceImage := some (fieldU b 8 8) }) s

/-! ## Units -/

/-- A unit is held: programmed or in the assembly buffer. -/
def unitHeld (f : Fw) (u : Nat) : Bool := f.programmed.contains u || f.assembly.any (fun e => e.2.contains u)

/-- A unit enters the assembly buffer (R469): into its page, which then is the most recently added to, or into a new one, for which
the page least recently added to gives way at 256. -/
def assemble (u : Nat) (f : Fw) : Fw :=
  let page := u / 4
  match assocGet page f.assembly with
  | some l => { f with assembly := assocDel page f.assembly ++ [(page, l ++ [u])] }
  | none =>
    match f.assembly with
    | old :: rest =>
      if 256 ≤ f.assembly.length then { f with assembly := rest ++ [(page, [u])], dropped := f.dropped + BitVec.ofNat 32 old.2.length }
      else { f with assembly := f.assembly ++ [(page, [u])] }
    | [] => { f with assembly := [(page, [u])] }

/-- An image page has all its units (R469). -/
def pageFull (units : Nat) (e : Nat × List Nat) : Bool := e.2.length = min 4 (units - 4 * e.1)

/-- Image pages with all their units are programmed into the erased Lamb slot in arrival order, a map page after every 64 (R469,
R470; log 33); an image with every unit programmed enters SEALING (R471). -/
def programPages (s : State) : State :=
  if s.fw.eraseLeft[0] ≠ 0 || s.fw.eraseLeft[1] ≠ 0 || !fwBound s then s
  else
    let n := fwUnits s
    let full := s.fw.assembly.filter (pageFull n)
    let done := s.fw.programmed ++ (full.map (·.2)).flatten
    { s with
      fw.programmed := done, fw.assembly := s.fw.assembly.filter (fun e => !pageFull n e)
      fw.sinceMap := (s.fw.sinceMap + full.length) % 64, fw.sealing := decide (n ≤ done.length) }

/-- One unit of an accepted piece that is not held (R469): assembled, and its page programmed once it is full and the slot is
erased. -/
def addUnit (units : Nat) (f : Fw) (u : Nat) : Fw :=
  let f := assemble u f
  let full := f.assembly.filter (fun e => e.1 = u / 4 && pageFull units e)
  if f.eraseLeft[0] = 0 && f.eraseLeft[1] = 0 && full ≠ [] then
    { f with programmed := f.programmed ++ (full.map (·.2)).flatten, assembly := assocDel (u / 4) f.assembly,
             sinceMap := (f.sinceMap + 1) % 64 }
  else f

/-- The image pages that have been programmed since staging stood as `before`, in arrival order, and a map page after every 64 (R470): KIND
0x02 with the byte offset and IMAGE_ID, KIND 0x03. -/
def storeImage (before : Fw) (s : State) : State :=
  let who := slotPart (lamb s)
  let id := s.fw.slots[lamb s].imageId
  let pages := ((s.fw.programmed.drop before.programmed.length).map (· / 4)).eraseDups
  pages.zipIdx.foldl (fun s x =>
    let s := programNext who 0x02 (leBytes 4 (16384 * x.1) ++ leBytes 8 id) (Config.imagePage id x.1) s
    if (before.sinceMap + x.2 + 1) % 64 = 0 then programNext who 0x03 [] (Config.mapPage s.fw.programmed) s else s) s

/-- The units of an accepted piece (R469); a piece that adds one moves the lease mark (R472). -/
def takeUnits (first count : Nat) (s : State) : State :=
  let fresh := ((List.range count).map (first + ·)).filter (fun u => !unitHeld s.fw u)
  let s := storeImage s.fw (programPages { s with fw := fresh.foldl (addUnit (fwUnits s)) s.fw })
  if fresh = [] then s else modSlot (lamb s) (fun x => { x with leaseMark := powerOn s / 256 }) s

/-! ## Pieces -/

/-- What becomes of a piece (Table 16.2, R466, R468). -/
inductive PieceAnswer where
  | accepted | outOfRange | pending | other | unbound
deriving DecidableEq, Repr

/-- The NVMe status of an answer. -/
def PieceAnswer.status : PieceAnswer → Status
  | .accepted => .success | .outOfRange => .invalidField | .pending => .cmdSequence | .other => .stagingOther
  | .unbound => .invalidField

/-- The abort code of an answer. -/
def PieceAnswer.abort : PieceAnswer → Nat
  | .accepted => 0 | .outOfRange => 0xD0000021 | .pending => 0xD0000030 | .other => 0xD0000040 | .unbound => 0xD0000030

/-- Offset and length are those of a piece (R466), which ends within an image of length `len`. -/
def pieceFits (p : FwPiece) (len : Nat) : Bool :=
  p.offset % 4096 = 0 && p.length % 4096 = 0 && 4096 ≤ p.length && p.length ≤ 1048576 && p.offset + p.length ≤ len

/-- The answer to a piece (Table 16.2; R466, R468). A header that comes while staging is SEALING is judged as while it is BOUND
(log 33). -/
def judgePiece (src : Path) (p : FwPiece) (s : State) : PieceAnswer :=
  if p.offset = 0 then
    if !acceptable s p.header || !pieceFits p (fieldU p.header.bytes 20 4) then .outOfRange
    else if fwBound s then (if s.fw.header = some (p.header.bytes.take 4096) then .accepted else .other)
    else if s.fw.slots[lamb s].state = 2 && fwPending s then .pending
    else .accepted
  else if !pieceFits p (if fwBound s then fwUnits s * 4096 else 62914560) then .outOfRange
  else if !fwBound s then .unbound
  else if (pathState s src).sourceImage = some s.fw.slots[lamb s].imageId then .accepted
  else .other

/-- A piece or an action refused: counted, and recorded with its status or abort code (R468, R474). -/
def fwRefuse (src : Path) (code imageId : Nat) (s : State) : State :=
  raise (event 0xC010 1 (pathCode src) code imageId) { s with fw.refusals := s.fw.refusals + 1 }

/-- IMAGE_ID offered: that of the header, for a piece at offset 0. -/
def offered (p : FwPiece) : Nat := if p.offset = 0 then fieldU p.header.bytes 8 8 else 0

/-- An accepted piece takes effect. -/
def takePiece (src : Path) (p : FwPiece) (s : State) : State :=
  let before := s.fw
  let s := if p.offset ≠ 0 then s
    else setSourceImage src p.header.bytes (if fwBound s then s else bindImage src p.header.bytes s)
  recordSlots before (takeUnits (p.offset / 4096) (p.length / 4096) { s with fw.pieces := s.fw.pieces + 1 })

/-! ## Seal, lease and abort -/

/-- The binding released with its cause, the slot EMPTY and erased in the background (R471, R472). -/
def releaseBinding (cause : Nat) (src : Nat) (s : State) : State :=
  let id := s.fw.slots[lamb s].imageId
  let before := s.fw
  let s := modSlot (lamb s) (fun _ => Slot.reset) s
  let s := raise (event 0xC012 2 src cause id) { s with
    fw.source := none, fw.header := none, fw.sealing := false, fw.programmed := [], fw.assembly := [], fw.sinceMap := 0 }
  recordSlots before (eraseLamb s)

/-- The image proves sound: the Lamb slot is SEALED (R471). -/
def sealSlot (s : State) : State :=
  let before := s.fw
  let s := modSlot (lamb s) (fun x => { x with state := 2 }) s
  let s := raise (event 0xC011 0 srcController (lamb s).val s.fw.slots[lamb s].imageId)
    { s with fw.source := none, fw.header := none, fw.sealing := false }
  setFlag .fwStaged (recordSlots before s)

/-! ## Commit actions -/

/-- The spindle or an actuator moves (Table 16.5): UNSAFE in FOLLOW within 2 s, the last revolution outside ±0.1 % of the set-speed
period, or the spindle stopped. -/
def fwMoving (s : State) : Bool :=
  allChans.any (fun n => match (s.sdm n).unsafeAt with | none => false | some t => !passed s t 2000000000)
    || s.tick.state = .stopped
    || (match s.tick.lastRev with
        | none => true
        | some r => nominalRev s < 1000 * (if r < nominalRev s then nominalRev s - r else r - nominalRev s))

/-- A vault awaits replay in a FORMAT (0x0001) above the image's VAULT_FORMAT (R478). -/
def vaultTooNew (s : State) (x : Slot) : Bool :=
  x.vaultFormat < 1 && s.mule.regions.toList.any (fun r => r.state = .written && r.image.isSome)

/-- The status with which a commit action is refused, if it is (R474, R475, R96). CA 010 that names the active slot cancels and
activates nothing (log 33). -/
def fwActionRefusal (ca : Nat) (slot : Fin 2) (s : State) : Option Status :=
  let activating := ca = 1 || ca = 3 || (ca = 2 && slot ≠ s.fw.active)
  if slot = s.fw.active && ca ≠ 2 then some .invalidFwSlot
  else if slot ≠ s.fw.active && s.fw.slots[slot].state ≠ 2 then some .invalidFwImage
  else if activating && (s.mgmt.lock.isSome || (beforeReady s && s.power.phase ≠ .recovery)) then some .fwProhibited
  else if ca = 3 && s.power.phase ≠ .recovery &&
      (!s.power.holdupPassed || vaultTooNew s s.fw.slots[slot] || fwMoving s || s.fw.activation ≠ .none) then some .fwProhibited
  else none

/-- The slot that FS names (R474). -/
def namedSlot (s : State) (fs : Nat) : Option (Fin 2) :=
  if fs = 0 then some (lamb s) else if fs = 1 then some 0 else if fs = 2 then some 1 else none

/-- Firmware Activation Starting (R301): a Notice, information 0x01, log page 0x03, if enabled (bit 9 of the Asynchronous Event
Configuration; PRESUMED, log 18). -/
def activationStarting (s : State) : State :=
  s.modPorts (fun q => if q.feat.asyncConfig.getLsbD 9 then postAen ⟨2, 0x01, 0x03⟩ q else q)

/-- An immediate activation begins (Table 16.6, t0), which unfreezes the recorder (spec 17, R486). -/
def startActivation (slot : Fin 2) (asker : Option AdminHdr) (s : State) : State :=
  let s := activationStarting (unfreeze s)
  let s := s.modPorts (fun q => if q.en then { q with pp := true } else q)
  { s with cmds.fetchStopped := true, fw.activation := .draining, fw.target := some slot, fw.before := s.fw.active,
           fw.asker := asker, fw.badImage := false }

/-- What a commit action does once it is not refused; `none` is an immediate activation, whose answer comes later. -/
def fwActionEffect (ca : Nat) (slot : Fin 2) (asker : Option AdminHdr) (s : State) : Option Status × State :=
  if ca = 0 then (some .success, s)
  else if ca = 1 then (some .success, { s with fw.next := some slot })
  else if ca = 2 then (some .success, { s with fw.next := if slot = s.fw.active then none else some slot })
  else if s.fw.slots[slot].resetOnly || s.power.phase = .recovery then (some .fwNeedsReset, { s with fw.next := some slot })
  else (none, startActivation slot asker s)

/-- A commit action (Table 16.4): its status, none while an immediate activation runs. -/
def fwAction (ca fs : Nat) (src : Path) (asker : Option AdminHdr) (dictionary : Bool) (s : State) : Option Status × State :=
  let code (st : Status) : Nat :=
    if !dictionary then st.word else if st = .invalidFwSlot || st = .invalidField then 0xD0000021 else 0xD0000030
  match namedSlot s fs with
  | none => (some .invalidFwSlot, fwRefuse src (code .invalidFwSlot) 0 s)
  | some slot =>
    match fwActionRefusal ca slot s with
    | some st => (some st, fwRefuse src (code st) s.fw.slots[slot].imageId s)
    | none =>
      let r := fwActionEffect ca slot asker s
      (r.1, recordSlots s.fw r.2)

/-- FW_ACTION_RESULT of a status (R474): 0xD0000021 for Invalid Firmware Slot or Invalid Field, 0xD0000030 for every other
refusal. An image that waits for a reset is no refusal (log 33). -/
def actionCode : Status → Nat
  | .success => 0 | .fwNeedsReset => 0 | .invalidFwSlot => 0xD0000021 | .invalidField => 0xD0000021 | _ => 0xD0000030

/-- The end of an immediate activation: who asked for it is answered, unless its port has been reset since; fetching resumes, CSTS.PP
returns to 0, and a controller enabled meanwhile becomes ready (Table 16.6, R478). -/
def endActivation (st : Status) (s : State) : State :=
  let s' := { s with fw.activation := .none, fw.target := none, fw.asker := none, fw.badImage := false,
                     cmds.fetchStopped := s.faults.dataDown }
  let s' := match s.fw.asker with
    | some a => if (s.port a.port).rdy then adminDone a st 0 .none s' else s'
    | none => { s' with fw.actionResult := BitVec.ofNat 32 (actionCode st) }
  s'.modPorts (fun q => { q with pp := false, rdy := q.rdy || (q.en && s.mule.mounted) })

/-- Every admitted I/O command has completed (Table 16.6). -/
def drained (s : State) : Bool := s.cmds.ctxs.all (·.committed)

/-- State discarded by an activation (R476): assembly buffer, dictionary staging copy, calibration runs, which end as stopped. -/
def activationDiscards (s : State) : State :=
  wantDiscard 5 srcController (stopRuns { s with fw.assembly := [] })

/-! ## Meanings -/

/-- FW_SEAL_DONE (R471): the DIGEST check of an image whose units are all programmed. -/
def execFwSealDone (digestOk : Bool) (s : State) : Host.Outcome State Fault Refusal :=
  .next (ifLive s (fun s => if !s.fw.sealing then s else if digestOk then sealSlot s else releaseBinding 0 srcController s))

/-- FW_LEASE_EXPIRED (R472): FW_LEASE power-on hours without progress release the binding. -/
def execFwLeaseExpired (s : State) : Host.Outcome State Fault Refusal :=
  .next (ifResident s (fun s => if fwBound s && !s.fw.sealing then releaseBinding 1 srcController s else s))

/-- FIRMWARE_IMAGE_DOWNLOAD (R466 to R469), also in RECOVERY (spec 03, R83). -/
def execFirmwareImageDownload (a : AdminHdr) (piece : FwPiece) (s : State) : Host.Outcome State Fault Refusal :=
  .next (adminExec a true (fun s =>
    let ans := judgePiece (pathOf a.port) piece s
    if ans = .accepted then adminDone a .success 0 .none (takePiece (pathOf a.port) piece s)
    else adminDone a ans.status 0 .none (fwRefuse (pathOf a.port) ans.status.word (offered piece) s)) s)

/-- A Firmware Commit of an action (Table 16.4); an immediate activation completes later. -/
def fwCommit (a : AdminHdr) (ca : Nat) (fs : BitVec 3) (inRecovery : Bool) (s : State) : State :=
  adminExec a inRecovery (fun s =>
    let r := fwAction ca fs.toNat (pathOf a.port) (some a) false s
    match r.1 with | none => r.2 | some st => adminDone a st 0 .none r.2) s

/-- FW_COMMIT_KEEP (CA 000). -/
def execFwCommitKeep (a : AdminHdr) (fs : BitVec 3) (s : State) : Host.Outcome State Fault Refusal := .next (fwCommit a 0 fs true s)
/-- FW_COMMIT_NEXT_RESET (CA 001). -/
def execFwCommitNextReset (a : AdminHdr) (fs : BitVec 3) (s : State) : Host.Outcome State Fault Refusal := .next (fwCommit a 1 fs true s)
/-- FW_COMMIT_EXISTING (CA 010), which replaces no slot and is refused in RECOVERY (spec 03, R83). -/
def execFwCommitExisting (a : AdminHdr) (fs : BitVec 3) (s : State) : Host.Outcome State Fault Refusal := .next (fwCommit a 2 fs false s)
/-- FW_COMMIT_IMMEDIATE (CA 011). -/
def execFwCommitImmediate (a : AdminHdr) (fs : BitVec 3) (s : State) : Host.Outcome State Fault Refusal := .next (fwCommit a 3 fs true s)
/-- FW_COMMIT_BOOT_PARTITION (CA 100 to 111): Invalid Field in Command. -/
def execFwCommitBootPartition (a : AdminHdr) (_ca : BitVec 3) (s : State) : Host.Outcome State Fault Refusal :=
  .next (adminExec a false (fun s =>
    adminDone a .invalidField 0 .none (fwRefuse (pathOf a.port) Status.invalidField.word 0 s)) s)

/-- ACTIVATION_DRAIN_DONE (R476): with every admitted I/O command completed the hot part is loaded; if SIGNATURE and HOT_DIGEST
verify, the slot record switches; otherwise the old image goes on. -/
def execActivationDrainDone (imageOk : Bool) (s : State) : Host.Outcome State Fault Refusal :=
  .next (ifLive s (fun s =>
    match s.fw.target with
    | none => s
    | some slot =>
      if s.fw.activation ≠ .draining || !drained s then s
      else
        let s := activationDiscards s
        if imageOk then updateSystem { s with fw.activation := .switched, fw.active := slot, fw.next := none }
        else { s with fw.activation := .loading, fw.badImage := true }))

/-- ACTIVATION_DRAIN_LIMIT (Table 16.6): after 800 ms fetching resumes and the command completes with Firmware Activation
Prohibited and no other effect. -/
def execActivationDrainLimit (s : State) : Host.Outcome State Fault Refusal :=
  .next (ifLive s (fun s => if s.fw.activation = .draining then endActivation .fwProhibited s else s))

/-- ACTIVATION_RESUME (R476, R477): the persistent values pass to the new image's layout and fetching resumes; the commit completes with
success, or with Invalid Firmware Image if the image failed before the switch point. -/
def execActivationResume (s : State) : Host.Outcome State Fault Refusal :=
  .next (ifLive s (fun s =>
    match s.fw.activation with
    | .switched =>
      let s := relayout s.fw.slots[s.fw.before].dictVersion { s with fw.activations := s.fw.activations + 1, fw.programmed := [] }
      let s := raise (event 0xC013 2 srcController s.fw.active.val s.fw.slots[s.fw.active].version) s
      leaveFailed (endActivation .success s)
    | .loading => endActivation .invalidFwImage s
    | _ => s))

/-- ACTIVATION_FALLBACK (R476): no resume by t0 + 1.5 s restores the previous image, with the buffer kept. -/
def execActivationFallback (s : State) : Host.Outcome State Fault Refusal :=
  .next (ifLive s (fun s =>
    if s.fw.activation ≠ .switched then s
    else
      let refused := s.fw.slots[s.fw.active].version
      let s := updateSystem { s with fw.active := s.fw.before, fw.fallbacks := s.fw.fallbacks + 1 }
      endActivation .invalidFwImage (raise (event 0xC014 3 srcController s.fw.active.val refused) s)))

end Sys2Proof.Machine
end

