-- ==== Sys2Proof/Machine/Nand.lean ====
section
/-! DEFINITION. The Mule's dies at work (spec 14): programs, erases and reads that end, the code cache and its misses, the OEM
partition, the erase of a firmware slot, and the journal's timers. -/

namespace Sys2Proof.Machine

/-! ## OEM operations (R433) -/

/-- OEM_STATUS is BUSY. -/
def oemBusy (s : State) : Bool := s.mule.oemStatus.toNat % 16 = 1

/-- The page that OEM_BLOCK and OEM_PAGE select, programmed with OEM_WBUF (R413, R433; its KIND is zero, DESIGN CHOICE, log 20). -/
def oemPage (s : State) : NandPage :=
  let b := s.mule.oemBlock
  ⟨partCode .oem, 0, s.mule.oemSeq + 1, b / 8 * 3072 + s.mule.oemPage * 8 + b % 8, [], s.mule.oemWbuf⟩

/-- The page that OEM_BLOCK and OEM_PAGE select. -/
def oemPageNow (s : State) : PageAddr := oemPageAddr s s.mule.oemBlock s.mule.oemPage

/-- An operation of the OEM partition. -/
def NandOp.isOem : NandOp → Bool
  | .program w .. | .erase w .. | .read w .. => w = .oem

/-- The NAND operation of OEM_CMD. -/
def oemOp (s : State) : NandOp :=
  match s.mule.oemCmd.toNat with
  | 2 => .program .oem (oemPageNow s) [oemPage s]
  | 3 => .erase .oem (oemPageAddr s s.mule.oemBlock 0)
  | _ => .read .oem (oemPageNow s)

/-- A waiting OEM operation starts on its die if that is idle; a program clears its page's bit first (R421). -/
def startOem (s : State) : State :=
  let a := oemPageNow s
  if !oemBusy s || s.power.vault ≠ .none || (s.mule.dies[a.die].op).isSome
      || s.mule.dies.toList.any (fun d => d.op.any NandOp.isOem) then s
  else
    let op := oemOp s
    modDie a.die (fun d => { d with op := some op }) (if s.mule.oemCmd = 2 then clearErased a s else s)

/-- OEM_STATUS with a new outcome; the retry level of the last read stays in bits 7 to 4 (Table 14.9). -/
def oemOutcome (st : Nat) (s : State) : State := { s with mule.oemStatus := (s.mule.oemStatus &&& 0xF0) ||| BitVec.ofNat 8 st }

/-- An OEM operation ends with its status. -/
def oemEnds (st : Nat) (s : State) : State :=
  { oemOutcome (if s.mule.oemRemapped then 3 else st) s with mule.oemRemapped := false }

/-- The abort code of an OEM command (R433, R421): busy, or a program to a page that is not erased, which is counted and
recorded. The controller's own partitions are erased before they are written again, so that no other program is refused (DEDUCED, log 20). -/
def oemRefusal (v : Nat) (s : State) : Nat :=
  if oemBusy s || !s.mule.mounted then 0xD0000050
  else if v = 2 && !isErased s (oemPageNow s) then 0xD0000030 else 0

/-- A refused program (R421). -/
def refuseProgram (src : Nat) (s : State) : State :=
  let a := oemPageNow s
  raise (event 0xB001 2 src (a.die.val + a.plane.val * 256) (a.block * 384 + a.page)) { s with mule.refused := s.mule.refused + 1 }

/-- OEM_CMD accepted (R433). -/
def oemStart (v : Nat) (s : State) : State :=
  startOem { oemOutcome 1 s with mule.oemCmd := BitVec.ofNat 8 v, mule.oemRemapped := false }

/-! ## The code cache (R431, R432) -/

/-- A slot page is in the code cache. -/
def codeCached (s : State) (page : Nat) : Bool := ((assocGet (page % 16) s.mule.codeCache).getD []).contains page

/-- A line is filled: 8 ways, the least recently used gives way (R431). -/
def fillCode (page : Nat) (s : State) : State :=
  let l := (assocGet (page % 16) s.mule.codeCache).getD []
  { s with mule.codeCache := assocSet (page % 16) (capped 8 (page :: l.filter (· ≠ page))) s.mule.codeCache }

/-- The page of the active slot that a miss reads, on the die it waits for. -/
def codePage (s : State) (die : Fin 2) (page : Nat) : PageAddr := { pageOf s (slotPart s.fw.active) page with die := die }

/-- An operation that a code miss suspends: an OEM program or an erase (R432). -/
def NandOp.suspendable : NandOp → Bool
  | .program w .. => w = .oem
  | .erase .. => true
  | .read .. => false

/-- The first waiting miss of a die is served if it can be (R432): at once on an idle die, under a suspend of an OEM program or an
erase outside the 400 µs after a resume; otherwise it waits. While a vault runs it waits too. -/
def serveMiss (die : Fin 2) (s : State) : State :=
  let d := s.mule.dies[die]
  if s.power.vault ≠ .none || d.suspended then s
  else match d.misses with
  | [] => s
  | (page, _) :: _ =>
    match d.op with
    | none => modDie die (fun d => { d with op := some (.read (slotPart s.fw.active) (codePage s die page)) }) s
    | some op =>
      if op.suspendable && !d.barred then
        { modDie die (fun d => { d with suspended := true }) s with mule.suspends := s.mule.suspends + 1 }
      else s

/-- A block queued for refresh on an idle die is copied to a pool block, which replaces it (R423; DESIGN CHOICE, log 20: in one
step). -/
def refreshBlock (die : Fin 2) (s : State) : State :=
  match s.mule.refresh.find? (fun x => x.1 = die) with
  | none => s
  | some (_, plane, b) =>
    if (s.mule.dies[die].op).isSome || s.power.vault ≠ .none then s
    else
      let d := s.mule.dies[die]
      let new := nextPool d plane d.poolNext
      let s := modDie die (fun d => { d with
        remap := d.remap ++ [(plane, logicalOf d plane b, new)], poolNext := new + 1
        pages := d.pages.map (fun e => if e.1.1 = plane && e.1.2.1 = b then ((plane, new, e.1.2.2), e.2) else e)
        erased := d.erased.map (fun e => if e.1 = plane && e.2.1 = b then (plane, new, e.2.2) else e) }) s
      updateSystem { s with mule.refresh := s.mule.refresh.filter (fun x => !(x.1 = die && x.2 = (plane, b))), mule.refreshes := s.mule.refreshes + 1 }

/-- A die has ended its operation: a code miss goes first, then an OEM operation, a refresh, and what else waits. -/
def dieFree (die : Fin 2) (s : State) : State :=
  let s := modDie die (fun d => { d with op := none, suspended := false, barred := false }) s
  refreshBlock die (kickDies (startOem (serveMiss die s)))

/-! ## Programs -/

/-- A page program has succeeded (R419). -/
def programGood (die : Fin 2) (who : Partition) (pages : List NandPage) (s : State) : State :=
  let s := storePages who pages s
  match who with
  | .oem => dieFree die (oemEnds 2 { s with mule.oemSeq := s.mule.oemSeq + 1 })
  | .journal => dieFree die (journalLands s)
  | .vault0 | .vault1 => vaultStepDone (modDie die (fun d => { d with op := none }) s)
  | _ => dieFree die s

/-- A page program has failed (R419): the block is grown bad; the vault goes on at its next step position, every other partition at
the same page of the replacement block. -/
def programBad (die : Fin 2) (who : Partition) (a : PageAddr) (pages : List NandPage) (s : State) : State :=
  let g := growBad die a.plane a.block { s with mule.programFails := s.mule.programFails + 1 }
  let s := g.2
  match who with
  | .vault0 | .vault1 => vaultStepDone (modDie die (fun d => { d with op := none }) { s with mule.vaultFail := true })
  | _ =>
    let b : PageAddr := { a with block := g.1 }
    let s := if who = .oem then { s with mule.oemRemapped := true } else s
    modDie die (fun d => { d with op := some (.program who b pages) }) (clearErased b s)

/-- NAND_PROGRAM_DONE (R419): the page needed `pulses` pulses; more than 12 is a failure. -/
def execNandProgramDone (die : Fin 2) (pulses : Nat) (s : State) : Host.Outcome State Fault Refusal :=
  .next (match s.mule.dies[die].op with
    | some (.program who a pages) =>
      if !s.power.running || s.mule.dies[die].suspended then s
      else if pulses ≤ 12 then programGood die who pages s else programBad die who a pages s
    | _ => s)

/-! ## Erases -/

/-- A stripe of a vault region is erased: the region is ERASED with its last one (R424). -/
def regionErased (die : Fin 2) (i : Fin 2) (s : State) : State :=
  modRegion i (fun r =>
    if r.state ≠ .erasing then r
    else
      let e := upd r.erased die (· + 1)
      { r with erased := e, state := if 6 ≤ e[0] && 6 ≤ e[1] then .erased else .erasing }) s

/-- A stripe of the Lamb slot is erased (R467, R472): with the last one image pages that wait are programmed. -/
def slotErased (die : Fin 2) (s : State) : State :=
  let s := { s with fw.eraseLeft := upd s.fw.eraseLeft die (· - 1) }
  storeImage s.fw <| programPages { s with fw.erasing := s.fw.eraseLeft[0] ≠ 0 || s.fw.eraseLeft[1] ≠ 0 }

/-- An erase has verified (R420, R421). -/
def eraseGood (die : Fin 2) (who : Partition) (a : PageAddr) (s : State) : State :=
  dieFree die (match who with
    | .oem => oemEnds 2 (eraseBlock die a.plane a.block s)
    | .vault0 => regionErased die 0 (eraseStripe die a s)
    | .vault1 => regionErased die 1 (eraseStripe die a s)
    | .slotA | .slotB => slotErased die (eraseStripe die a s)
    | .journal => let s := eraseStripe die a s; { s with mule.journalErased := upd s.mule.journalErased die (· + 1) }
    | _ => eraseStripe die a s)

/-- An erase has failed (R420): the block is grown bad and its replacement is erased in its place. -/
def eraseBad (die : Fin 2) (who : Partition) (a : PageAddr) (s : State) : State :=
  let g := growBad die a.plane a.block { s with mule.eraseFails := s.mule.eraseFails + 1 }
  let s := if who = .oem then { g.2 with mule.oemRemapped := true } else g.2
  modDie die (fun d => { d with op := some (.erase who { a with block := g.1 }) }) s

/-- NAND_ERASE_DONE (R420): the block needed `pulses` pulses; more than 5 is a failure. -/
def execNandEraseDone (die : Fin 2) (pulses : Nat) (s : State) : Host.Outcome State Fault Refusal :=
  .next (match s.mule.dies[die].op with
    | some (.erase who a) =>
      if !s.power.running || s.power.vault ≠ .none || s.mule.dies[die].suspended then s
      else if pulses ≤ 5 then eraseGood die who a s else eraseBad die who a s
    | _ => s)

/-! ## Reads -/

/-- RETRY_HIST: reads recovered at a level, or uncorrectable (R423, R435). -/
def noteRead (level : Option (Fin 9)) (s : State) : State :=
  { s with mule.retryHist := updNat s.mule.retryHist (level.elim 9 (·.val)) (· + 1) }

/-- The longest miss service in µs. -/
def noteWait (since : Nat) (s : State) : State :=
  let us := satNat 65535 ((s.clock.ns - since) / 1000)
  { s with mule.missWaitMax := BitVec.ofNat 16 (max s.mule.missWaitMax.toNat us) }

/-- A code page has been read (R423, R431, R432): its line is filled, and a block recovered at REFRESH_LEVEL or above is queued for
refresh; an uncorrectable page is a memory-error exception of the management plane. A suspended operation resumes, and no suspend is
issued within 400 µs; an idle die takes the next work. -/
def codeRead (die : Fin 2) (level : Option (Fin 9)) (s : State) : State :=
  let d := s.mule.dies[die]
  match d.misses with
  | [] => s
  | (page, since) :: rest =>
    let a := codePage s die page
    let s := noteRead level (modDie die (fun d => { d with misses := rest }) s)
    let s := match level with
      | none => mgmtPlaneRestart s
      | some l =>
        let s := noteWait since (fillCode page s)
        if cfg s 0x7020 2 ≤ l.val && !s.mule.refresh.contains (die, a.plane, a.block) then
          { s with mule.refresh := s.mule.refresh ++ [(die, a.plane, a.block)] }
        else s
    if d.suspended then modDie die (fun d => { d with suspended := false, barred := true }) s else dieFree die s

/-- An OEM page has been read (R423, R433): OEM_RBUF, OEM_STATUS with the retry level. A page programmed here reads as it was
programmed; of any other page the array gives the data. -/
def oemRead (die : Fin 2) (a : PageAddr) (level : Option (Fin 9)) (data : List Byte) (s : State) : State :=
  let s := noteRead level s
  dieFree die (match level with
    | none => { s with mule.oemStatus := 0x84 }
    | some l => { s with mule.oemStatus := BitVec.ofNat 8 (2 + 16 * l.val), mule.oemRbuf := ((pageData s a).getD data).take 16384 })

/-- A segment decodes at a level (R413): the BCH code corrects up to 40 bit errors. -/
def segmentDecodes (errors : SegmentErrors) (i k : Nat) : Bool := ((errors[k]?).bind (·[i]?)).any (· ≤ 40)

/-- The first level at which every segment has decoded, each retry decoding only those still failed (R423): 0 is the first read; none, and
the page is uncorrectable. -/
def decodeLevel (errors : SegmentErrors) : Option (Fin 9) :=
  ([0, 1, 2, 3, 4, 5, 6, 7, 8] : List (Fin 9)).find? (fun k =>
    (List.range 16).all (fun i => (List.range (k.val + 1)).any (segmentDecodes errors i)))

/-- NAND_READ_DONE (R413, R423): a page has been read, at as many levels as its segments need. -/
def execNandReadDone (die : Fin 2) (errors : SegmentErrors) (data : List Byte) (s : State) : Host.Outcome State Fault Refusal :=
  let level := decodeLevel errors
  .next (if !s.live then s
    else if s.mule.dies[die].suspended then codeRead die level s
    else match s.mule.dies[die].op with
      | some (.read .oem a) => oemRead die a level data s
      | some (.read _ _) => codeRead die level s
      | _ => s)

/-- CODE_MISS (R432): counted, and served or waiting. -/
def execCodeMiss (slotPage : Nat) (die : Fin 2) (s : State) : Host.Outcome State Fault Refusal :=
  .next (ifResident s (fun s =>
    if codeCached s slotPage then s
    else
      serveMiss die (modDie die (fun d => { d with misses := d.misses ++ [(slotPage, s.clock.ns)] })
        { s with mule.codeMisses := s.mule.codeMisses + 1 })))

/-- SUSPEND_INTERVAL_END (R432): 400 µs after a resume a waiting miss may suspend again. -/
def execSuspendIntervalEnd (die : Fin 2) (s : State) : Host.Outcome State Fault Refusal :=
  .next (ifLive s (fun s => serveMiss die (modDie die (fun d => { d with barred := false }) s)))

/-! ## The journal's timers -/

/-- JOURNAL_FLUSH_TIMER (R430): the page buffer is programmed. -/
def execJournalFlushTimer (s : State) : Host.Outcome State Fault Refusal :=
  .next (ifLive s (fun s => if s.mule.mounted then startJournal s else s))

/-- CHECKPOINT_TRIGGER (R430): a checkpoint is taken. -/
def execCheckpointTrigger (s : State) : Host.Outcome State Fault Refusal :=
  .next (ifLive s (fun s => if s.mule.mounted then takeCheckpoint s else s))

/-! ## SLOT_ERASE (R434) -/

/-- The abort code of SLOT_ERASE. -/
def slotEraseRefusal (v : Nat) (s : State) : Nat :=
  if v = s.fw.active.val then 0xD0000030 else if v ≤ 1 && fwBound s then 0xD0000040 else 0

/-- A refused erase of the active slot is recorded (R434; spec 17, 0xB004). -/
def slotEraseRefused (v src code : Nat) (s : State) : State :=
  raise (event 0xB004 1 src (v + code % 65536 * 65536)) s

/-- The inactive slot becomes EMPTY and is erased; a pending activation of it falls (log 33). -/
def eraseSlot (v : Nat) (s : State) : State :=
  let before := s.fw
  let s := modSlot (lamb s) (fun _ => Slot.reset) s
  recordSlots before <| eraseLamb { s with mule.slotErase := BitVec.ofNat 8 v, fw.next := none, fw.programmed := [], fw.assembly := [] }

end Sys2Proof.Machine
end

