-- ==== Sys2Proof/Machine/Buffer.lean ====
section
/-! DEFINITION. The buffer memory in service (spec 12, R359 to R371): arbitration, grants, errors and what they do by region, the
scrubber, and the rebuild of band metadata (spec 13, R401). -/

namespace Sys2Proof.Machine

/-! ## The SRAM map (Table 12.8) -/

/-- The byte address of a row of a channel (R350). -/
def byteAddr (c : Fin 4) (row : Nat) : Nat := row * 128 + c.val * 32

/-- The index of a word, A[28:5]. -/
def wordIndex (c : Fin 4) (row : Nat) : Nat := row * 4 + c.val

/-- The `i`-th conventional band, in order of head and band (log 32). -/
def conventionalBand (s : State) (i : Nat) : Option BandKey :=
  (allHeads.foldl (fun (acc : Option BandKey × Nat) h =>
    if acc.1.isSome then acc
    else
      let conv := if headFitted s h then (((formatOf s h).filter (fun z => !z.shingled)).map (·.bands)).sum else 0
      if acc.2 < conv then (some ⟨h, acc.2⟩, 0) else (none, acc.2 - conv)) (none, i)).1

/-- The band of a factory defect entry (spec 04, R116): byte 0 the recording zone, bytes 1 to 3 the data track. -/
def bandOfDefect (s : State) (h : HeadId) (e : List Byte) : BandKey :=
  let zs := formatOf s h
  let zi := fieldU e 0 1
  let before := ((zs.take zi).map (·.bands)).sum
  match zs[zi]? with
  | none => ⟨h, before⟩
  | some z => ⟨h, before + fieldU e 1 3 / max 1 (z.bandTracks + z.guard)⟩

/-- The entries of the defect lists, with their bands, in their order (R370): the factory list of each head, then its grown entries
(DESIGN CHOICE, log 32: the rules do not say where a head's lists lie in the region). -/
def defectEntries (s : State) : List (BandKey × List Byte) :=
  allHeads.flatMap (fun h => (records (valueOf s 0x3110 h.val) 8 ++ records (grownDefects s h) 8).map (fun e => (bandOfDefect s h e, e)))

/-- The entries of the relocation lists, with their bands, in their order (R371). -/
def relocEntries (s : State) : List (BandKey × List Byte) :=
  s.sub.bands.flatMap (fun b => b.reloc.map (fun e => (b.key, leBytes 8 (Config.relocImage e.1 e.2).toNat)))

/-- The bands whose metadata the word at a byte address holds (Table 12.8). -/
def wordBands (s : State) (a : Nat) : List BandKey :=
  if a < 0x400000 then []
  else if a < 0x2400000 then (bandOfRecord s ((a - 0x400000) / 32)).toList
  else if a < 0x2600000 then (conventionalBand s ((a - 0x2400000) / 512)).toList
  else if a < 0x2800000 then (((defectEntries s).drop ((a - 0x2600000) / 8)).take 4).map (·.1)
  else if a < 0x2C00000 then (((relocEntries s).drop ((a - 0x2800000) / 8)).take 4).map (·.1)
  else []

/-- Every command of a band is held for a rebuild (spec 13, R401); `lost` are the words of its record or bitmap in error. -/
def holdBand (lost : List Nat) (k : BandKey) (s : State) : State :=
  modBand k (fun b => { b with held := true, lostWords := b.lostWords ++ lost.filter (fun w => !b.lostWords.contains w) }) s

/-- The lost words that an error at a byte address of the metadata means (see `BandRec.lostWords`). -/
def lostAt (a : Nat) : List Nat :=
  if a < 0x2400000 then [16] else if a < 0x2600000 then [(a - 0x2400000) / 32 % 16] else []

/-- The line at a place of the cache (R372). -/
def lineAt (s : State) (i : Nat) : Option Line := s.cache.lines.find? (fun l => setOf l.block * 16 + l.way.val = i)

/-- A line with a word in error (R386). -/
def poisonAt (i : Nat) (s : State) : State := match lineAt s i with | none => s | some l => poisonLine l s

/-- An error in a word of a region (Table 12.6, R386), at a byte address, delivered to a requester. A context's place is its position in
order of admission, a side slot's and a miss register's its position in use (log 32). -/
def regionError (a requester : Nat) (s : State) : State :=
  if a < 0x400000 then
    match s.cmds.ctxs[a / 64]? with
    | none => s
    | some c => if c.committed then s else endUnacked c .internalError s
  else if a < 0x2C00000 then (wordBands s a).eraseDups.foldl (fun s k => holdBand (lostAt a) k s) s
  else if a < 0x4800000 then
    if 10 ≤ requester && requester ≤ 13 then (if s.faults.dataDown then s else dataPlaneRestart s)
    else if requester = 14 || requester = 15 then (if s.faults.mgmtDown then s else mgmtPlaneRestart s)
    else s
  else if a < 0x6800000 then
    { s with cache.side := s.cache.side.eraseIdx ((a - 0x4800000) / 4096) }
  else if a < 0x1F800000 then poisonAt ((a - 0x6800000) / 4096) s
  else if a < 0x1FE40000 then poisonAt ((a - 0x1F800000) / 64) s
  else if 0x1FE50000 ≤ a && a < 0x1FE60000 then
    match s.cache.regs[(a - 0x1FE50000) / 64]? with
    | none => s
    | some m => (s.cache.lines.filter (fun l => l.mr = some m.id)).foldl (fun s l => poisonLine l s) s
  else if 0x1FE60000 ≤ a && a < 0x1FEA0000 then
    { s with cache.side := s.cache.side.eraseIdx ((a - 0x1FE60000) / 32) }
  else s

/-! ## Channels -/

/-- A channel replaced by its image. -/
def modBms (c : Fin 4) (f : BmsChan → BmsChan) (s : State) : State := { s with bms.chans := upd s.bms.chans c f }

/-- One port's arbiter replaced by its image. -/
def modArbiter (write : Bool) (f : Arbiter → Arbiter) (b : BmsChan) : BmsChan :=
  if write then { b with writePort := f b.writePort } else { b with readPort := f b.readPort }

/-- One port's arbiter. -/
def BmsChan.arbiter (b : BmsChan) (write : Bool) : Arbiter := if write then b.writePort else b.readPort

/-- Requests that arrive at a port: one at a time for each requester (R366); those of the scrubber and the initialiser arise within
the buffer memory itself. -/
def queueReqs (write : Bool) (l : List BufReq) (b : BmsChan) : BmsChan :=
  l.foldl (fun b r =>
    if 20 < r.requester.val || (b.arbiter write).waiting.any (fun w => w.req.requester = r.requester) then b
    else { modArbiter write (fun a => { a with waiting := a.waiting ++ [⟨r, a.slot, b.issued⟩] }) b with issued := b.issued + 1 }) b

/-- A request waits for an earlier one of its requester for the same word: one pending on the other port, or a write granted in the same
slot, whose data a read of that slot would not see (R351). -/
def outOfTurn (b : BmsChan) (write : Bool) (w : Waiting) : Bool :=
  (b.arbiter (!write)).waiting.any (fun x => x.req.requester = w.req.requester && x.req.row = w.req.row && x.seq < w.seq)
    || (!write && b.justWritten.any (fun x => x.1 = b.readPort.slot && x.2.1 = w.req.row && x.2.2.2 = w.req.requester.val))

/-! ## Corrections and uncorrectable words -/

/-- A correction in the correctable-error table (R360). -/
def tableCorrection (word sym : Nat) (value : Byte) (scrub : Bool) (s : State) : State :=
  if s.bms.ceTable.any (fun e => e.word = word && e.symbol = sym) then
    { s with bms.ceTable := s.bms.ceTable.map (fun e =>
        if e.word = word && e.symbol = sym then
          { e with count := satNat 65535 (e.count + 1), hard := e.hard || e.repaired, repaired := false }
        else e) }
  else if 32 ≤ s.bms.ceTable.length then { s with bms.ceLost := s.bms.ceLost + 1 }
  else { s with bms.ceTable := s.bms.ceTable ++ [⟨word, sym, value, scrub, false, 1, powerOn s, false⟩] }

/-- A corrected word (R359): counted, entered in the table, recorded. -/
def noteCorrection (c : Fin 4) (row sym : Nat) (value : Byte) (scrub : Bool) (s : State) : State :=
  let s := modBms c (fun b => { b with ceCount := b.ceCount + 1 }) s
  transientFault .bufferCe none (wordIndex c row) (tableCorrection (wordIndex c row) sym value scrub s)

/-- A repair write queued (R359). -/
def queueRepair (c : Fin 4) (row : BitVec 22) (w : BufWord) (s : State) : State :=
  modBms c (fun b => { b with repairs := b.repairs ++ [(row, w, b.writePort.slot)] }) s

/-- An uncorrectable word (R361): counted, recorded, and its poison write queued. -/
def noteUncorrectable (c : Fin 4) (row : BitVec 22) (data : BitVec 256) (s : State) : State :=
  let s := modBms c (fun b => { b with ueCount := b.ueCount + 1, toPoison := b.toPoison ++ [(row, data, b.writePort.slot)] }) s
  transientFault .bufferUe none (wordIndex c row.toNat) s

/-- 32 bytes of a list of entries at a byte offset. -/
def entryWord (l : List (BandKey × List Byte)) (off : Nat) : List Byte := (((l.drop (off / 8)).take 4).map (·.2)).flatten

/-- The numbers of a context, of a miss register and of a slot. -/
def ctxNumbers (c : Ctx) : List Nat := [c.id, c.port.val, c.sqid, c.entry.cid.toNat, c.ns, c.start, c.entry.nlb, c.hostx, b2n c.committed]
/-- See `ctxNumbers`. -/
def regNumbers (m : MissReg) : List Nat := [m.id, m.nsid, m.lba, m.count, b2n m.stale] ++ m.merged
/-- See `ctxNumbers`. -/
def slotNumbers (x : SideSlot) : List Nat := [x.block.nsid, x.block.lba, b2n x.ready, b2n x.transient]

/-- The 32 bytes that the structures of the controller give the word at a byte address (R370 to R372, Tables 12.8 and 12.9); none where
they lay down none. A context, a miss register and a slot stand at their position in use (log 32). -/
def structWord (s : State) (a : Nat) : Option (BitVec 256) :=
  let bytes := fun (l : List Byte) => BitVec.ofNat 256 (leNat l)
  let half := fun (x : BitVec 512) => x.extractLsb' (8 * (a % 64)) 256
  if a < 0x400000 then (s.cmds.ctxs[a / 64]?).map (fun c => half (Config.contextImage (ctxNumbers c)))
  else if a < 0x2C00000 && !s.power.zoneLoadDone then none
  else if a < 0x2400000 then
    (bandOfRecord s ((a - 0x400000) / 32)).map (fun k => bytes (bandBytes (bandRec s k) (relocStart s k)))
  else if a < 0x2600000 then
    (conventionalBand s ((a - 0x2400000) / 512)).map (fun k => (bandRec s k).extents.extractLsb' (8 * (a % 512)) 256)
  else if a < 0x2800000 then some (bytes (entryWord (defectEntries s) (a - 0x2600000)))
  else if a < 0x2C00000 then some (bytes (entryWord (relocEntries s) (a - 0x2800000)))
  else if a < 0x4800000 then none
  else if a < 0x6800000 then (s.cache.side[(a - 0x4800000) / 4096]?).map (fun x => x.data.extractLsb' (8 * (a % 4096)) 256)
  else if a < 0x1F800000 then (lineAt s ((a - 0x6800000) / 4096)).map (fun l => l.data.extractLsb' (8 * (a % 4096)) 256)
  else if a < 0x1FE40000 then
    (lineAt s ((a - 0x1F800000) / 64)).map (fun l => bytes ((tagBytes l).drop (a % 64) |>.take 32))
  else if a < 0x1FE43200 then some (bytes ((List.range 16).flatMap (fun i => leBytes 2 (plruOf s ((a - 0x1FE40000) / 2 + i)))))
  else if 0x1FE50000 ≤ a && a < 0x1FE60000 then
    (s.cache.regs[(a - 0x1FE50000) / 64]?).map (fun m => half (Config.missImage (regNumbers m)))
  else if 0x1FE60000 ≤ a && a < 0x1FEA0000 then (s.cache.side[(a - 0x1FE60000) / 32]?).map (fun x => Config.slotImage (slotNumbers x))
  else if 0x1FEA0000 ≤ a && a < 0x1FEA2000 then some (bytes (hostEntryBytes s.sub.hosts ((a - 0x1FEA0000) / 32)))
  else none

/-- A word in error still counts as such: its band waits for the rebuild, or its line is marked POISON (log 32); anything else has been
replaced since. -/
def stillLost (s : State) (a : Nat) : Bool :=
  if a < 0x2C00000 then (wordBands s a).any (fun k => (bandRec s k).held)
  else if 0x6800000 ≤ a && a < 0x1F800000 then (lineAt s ((a - 0x6800000) / 4096)).any (·.poison)
  else if 0x1F800000 ≤ a && a < 0x1FE40000 then (lineAt s ((a - 0x1F800000) / 64)).any (·.poison)
  else false

/-- The word at a row: that of the structure which stands there, unless a poison write has marked it; else the word stored. -/
def wordAt (s : State) (c : Fin 4) (row : Nat) : BufWord :=
  let a := byteAddr c row
  let stored := readRow s.bms.chans[c].words row
  match structWord s a with
  | none => stored
  | some d => if checkWord stored = .poisoned && stillLost s a then stored else encodeWord d

/-- The word that a read granted in the read port's present slot returns: with a write of the same word in the same slot the one held
before (R351). -/
def wordRead (s : State) (c : Fin 4) (row : BitVec 22) : BufWord :=
  let b := s.bms.chans[c]
  match b.justWritten with
  | some (slot, r, old, _) => if slot = b.readPort.slot && r = row then old else wordAt s c row.toNat
  | none => wordAt s c row.toNat

/-- What a read of a word gives its requester: the data, or none for an error response. -/
def readWord (c : Fin 4) (row : BitVec 22) (word : BufWord) (requester : Nat) (repair : Bool) (noise : BufWord) (s : State) :
    Option (BitVec 256) × State :=
  let b := s.bms.chans[c]
  let w := word ^^^ noise
  if b.toPoison.any (fun e => e.1 = row) then (none, regionError (byteAddr c row.toNat) requester s)
  else match checkWord w with
  | .clean => (some (wordData w), s)
  | .corrected j v =>
    let good := addSymbol w j v
    let s := noteCorrection c row.toNat j v (requester = 21) s
    (some (wordData good), if repair then queueRepair c row good s else s)
  | .poisoned =>
    (none, regionError (byteAddr c row.toNat) requester (modBms c (fun b => { b with poisonReads := b.poisonReads + 1 }) s))
  | .uncorrectable => (none, regionError (byteAddr c row.toNat) requester (noteUncorrectable c row (wordData w) s))

/-- Poison writes left: the first becomes the pending request at a slot if it was not before (R361). -/
def poisonQueue (slot : Nat) (old l : List (BitVec 22 × BitVec 256 × Nat)) : List (BitVec 22 × BitVec 256 × Nat) :=
  match l with
  | [] => []
  | (row, d, at_) :: r => if (old.head?).any (fun e => e.1 = row) then (row, d, at_) :: r else (row, d, slot) :: r

/-- A word written: repair writes of it still queued are dropped (R359); a write of the whole word drops its poison write (R361), and the
next becomes pending. -/
def storeWord (c : Fin 4) (row : BitVec 22) (w : BufWord) (requester : Nat) (s : State) : State :=
  modBms c (fun b => { b with
    words := writeRow row.toNat w b.words
    repairs := b.repairs.filter (fun e => e.1 ≠ row)
    toPoison := poisonQueue b.writePort.slot b.toPoison (b.toPoison.filter (fun e => e.1 ≠ row))
    justWritten := some (b.writePort.slot, row, wordAt s c row.toNat, requester) }) s

/-- A write granted: of the whole word, or a read-modify-write, which an uncorrectable or poisoned word discards (R362). -/
def writeWord (c : Fin 4) (r : BufReq) (noise : BufWord) (s : State) : State :=
  if r.mask = BitVec.allOnes 32 then storeWord c r.row (encodeWord r.data) r.requester.val s
  else
    let x := readWord c r.row (wordAt s c r.row.toNat) r.requester.val false noise s
    match x.1 with
    | none => modBms c (fun b => { b with lastRead := some (r.requester.val, none) }) x.2
    | some old => storeWord c r.row (encodeWord (mergeBytes old r.data r.mask)) r.requester.val x.2

/-! ## Arbitration (R367) -/

/-- What a slot is granted to. -/
inductive Grant where
  | request (w : Waiting) | poison (row : BitVec 22) (data : BitVec 256) | repair (row : BitVec 22) (w : BufWord) | scrub | idle
deriving DecidableEq, Repr

/-- Media and ordinary requesters (Table 12.7). -/
def isMedia (w : Waiting) : Bool := w.req.requester.val < 8
/-- See `isMedia`. -/
def isOrdinary (w : Waiting) : Bool := 8 ≤ w.req.requester.val && w.req.requester.val ≤ 20

/-- Of two requests the one that arrived first, the lower requester on a tie. -/
def firstOf (a b : Waiting) : Waiting :=
  if b.arrived < a.arrived || (b.arrived = a.arrived && b.req.requester < a.req.requester) then b else a

/-- The first request of a list by arrival. -/
def earliest : List Waiting → Option Waiting
  | [] => none
  | w :: r => some (r.foldl firstOf w)

/-- The places of the ordinary requesters in the round robin, after the one last served. -/
def robinRank (last : Nat) (w : Waiting) : Nat := (w.req.requester.val + 23 - last - 1) % 23

/-- The normal lane: the next ordinary request in round robin. -/
def nextRobin (last : Nat) : List Waiting → Option Waiting
  | [] => none
  | w :: r => some (r.foldl (fun a b => if robinRank last b < robinRank last a then b else a) w)

/-- A scrub read is due: the scrubber runs, and SCRUB_SLOTS slots have passed since its last read on the channel (R364). -/
def scrubDue (s : State) (b : BmsChan) : Bool :=
  cfg s 0x2201 1 = 1 && (match b.scrubSlot with | none => true | some t => t + cfg s 0x2201 2 ≤ b.readPort.slot)

/-- The first repair write that has not waited 4,096 slots (R359). -/
def nextRepair (b : BmsChan) : Option (BitVec 22 × BufWord × Nat) := b.repairs.find? (fun e => b.writePort.slot < e.2.2 + 4096)

/-- The grant of the present slot of a port among the requests that are in turn (R351, R367). -/
def grantOf (s : State) (b : BmsChan) (write : Bool) : Grant :=
  let p := (b.arbiter write).slot
  let a := { b.arbiter write with waiting := (b.arbiter write).waiting.filter (fun w => !outOfTurn b write w) }
  let reserved := if p % 16 = 0 then a.waiting.find? (fun w => w.req.requester.val = p / 16 % 8) else none
  let aged := earliest (a.waiting.filter (fun w => isOrdinary w && w.arrived + 64 ≤ p))
  let poison := if write then b.toPoison.head? else none
  match reserved with
  | some w => .request w
  | none =>
    match aged, poison with
    | some w, some e => if e.2.2 < w.arrived then .poison e.1 e.2.1 else .request w
    | some w, none => .request w
    | none, some e => .poison e.1 e.2.1
    | none, none =>
      match nextRobin a.lastServed (a.waiting.filter isOrdinary) with
      | some w => .request w
      | none =>
        match earliest (a.waiting.filter isMedia) with
        | some w => .request w
        | none =>
          if write then (match nextRepair b with | some (row, w, _) => .repair row w | none => .idle)
          else if scrubDue s b then .scrub else .idle

/-- The requests in service: the normal lane's place moves on, and the longest ordinary wait is kept (R368). -/
def served (write : Bool) (w : Waiting) (b : BmsChan) : BmsChan :=
  let p := (b.arbiter write).slot
  let b := modArbiter write (fun a => { a with
    waiting := a.waiting.filter (· ≠ w)
    lastServed := if isOrdinary w && p < w.arrived + 64 then w.req.requester.val else a.lastServed }) b
  if isOrdinary w then { b with waitMax := BitVec.ofNat 16 (max b.waitMax.toNat (satNat 65535 (p - w.arrived))) } else b

/-- The end of a lap (R364): each channel has read every row. -/
def scrubNext (c : Fin 4) (s : State) : State :=
  let b := s.bms.chans[c]
  let s := modBms c (fun b => { b with scrubRow := b.scrubRow + 1, scrubSlot := some b.readPort.slot }) s
  if b.scrubRow ≠ BitVec.allOnes 22 then s
  else
    let done := if s.bms.lapDone.contains c then s.bms.lapDone else s.bms.lapDone ++ [c]
    if done.length < 4 then { s with bms.lapDone := done }
    else { s with bms := { s.bms with
        lapDone := [], laps := s.bms.laps + 1, lapMs := (s.clock.ns - s.bms.lapStart) / 1000000, lapStart := s.clock.ns
        chans := s.bms.chans.map (fun b => { b with lapWarned := false }) } }

/-- A repair write performed (R359, R360). -/
def repairWord (c : Fin 4) (row : BitVec 22) (w : BufWord) (s : State) : State :=
  let s := storeWord c row w 21 s
  { s with bms.ceTable := s.bms.ceTable.map (fun e => if e.word = wordIndex c row.toNat then { e with repaired := true } else e) }

/-- What a grant does. -/
def performGrant (c : Fin 4) (write : Bool) (noise : BufWord) (g : Grant) (s : State) : State :=
  match g with
  | .idle => s
  | .request w =>
    let s := modBms c (served write w) s
    if write then writeWord c w.req noise s
    else
      let x := readWord c w.req.row (wordRead s c w.req.row) w.req.requester.val true noise s
      modBms c (fun b => { b with lastRead := some (w.req.requester.val, x.1) }) x.2
  | .poison row d => storeWord c row (poisonWord d) 21 s
  | .repair row w => repairWord c row w s
  | .scrub =>
    let row := s.bms.chans[c].scrubRow
    scrubNext c (readWord c row (wordRead s c row) 21 true noise s).2

/-! ## Meanings -/

/-- BUFFER_SLOT_GRANT (R357, R366, R367): the requests that arrive at a port of a channel in this slot, and the grant of the slot;
`noise` is the error in the word read. Until the buffer is ready every request is held unanswered. -/
def execBufferSlotGrant (c : Fin 4) (writePort : Bool) (arrivals : List BufReq) (noise : BufWord) (s : State) :
    Host.Outcome State Fault Refusal :=
  .next (if !s.power.running || s.power.dead then s
    else
      let s := modBms c (queueReqs writePort arrivals) s
      let s := if s.bms.stage = .ready then performGrant c writePort noise (grantOf s s.bms.chans[c] writePort) s else s
      modBms c (modArbiter writePort (fun a => { a with slot := a.slot + 1 })) s)

/-- REPAIR_WRITE_DROP (R359): the oldest repair write, not granted within 4,096 slots, is dropped and counted. -/
def execRepairWriteDrop (c : Fin 4) (s : State) : Host.Outcome State Fault Refusal :=
  .next (if s.power.running && s.bms.chans[c].repairs.head?.any (fun e => e.2.2 + 4096 ≤ s.bms.chans[c].writePort.slot) then
      modBms c (fun b => { b with repairs := b.repairs.drop 1, drops := b.drops + 1 }) s
    else s)

/-- SCRUB_LAP_WARN (R365): once for the lap in progress. -/
def execScrubLapWarn (c : Fin 4) (s : State) : Host.Outcome State Fault Refusal :=
  .next (ifLive s (fun s =>
    if s.bms.stage ≠ .ready || s.bms.chans.toList.any (·.lapWarned) then s
    else
      raise (event 0x3001 2 srcController c.val ((s.clock.ns - s.bms.lapStart) / 1000000000))
        (modBms c (fun b => { b with lapWarned := true }) s)))

/-! ## The rebuild of a band's records (spec 13, R401) -/

/-- WP after a rebuild: the end of the run on media, continued by blocks that DIRTY or SHADOW lines hold. -/
def rebuiltWp (s : State) (k : BandKey) (cap : Nat) (mediaRun : Nat) : Nat :=
  let inLine := fun o => match blockAt s k o with
    | none => false
    | some b => s.cache.lines.any (fun l => l.block = b && (l.state = .dirty || l.state = .shadow))
  (firstFrom (fun o => cap ≤ o || !inLine o) (cap + 1) (min cap mediaRun)).getD cap

/-- The extents of lost bitmap words whose bit is clear in the journal are marked lost-write, cause 0x00FF. -/
def loseExtents (k : BandKey) (journal : BandRec) (words : List Nat) (s : State) : State :=
  let ext := (words.filter (· < 16)).flatMap (fun w => ((List.range 256).map (256 * w + ·)).filter (fun e => !journal.extents.getLsbD e))
  markLost k 0x00FF (ext.flatMap (fun e => (List.range 16).map (fun i => (16 * e + i, 0xFF, 0)))) s

/-- The words of a band's metadata are written anew: nothing of them waits for a repair or a poison write (R359, R361). -/
def rewriteMeta (k : BandKey) (s : State) : State :=
  ([0, 1, 2, 3] : List (Fin 4)).foldl (fun t c =>
    let mine := fun (row : BitVec 22) => (wordBands s (byteAddr c row.toNat)).contains k
    modBms c (fun b => { b with
      words := b.words.filter (fun e => !(wordBands s (byteAddr c e.1)).contains k)
      repairs := b.repairs.filter (fun e => !mine e.1)
      toPoison := poisonQueue b.writePort.slot b.toPoison (b.toPoison.filter (fun e => !mine e.1)) }) t) s

/-- The journal's record of a band; of one that no journal page and no checkpoint images, the record of a band never written (DESIGN
CHOICE, log 45). -/
def journalRecord (s : State) (k : BandKey) : BandRec :=
  (journaled s k).getD { freeBand s k with nsid := (bandRec s k).nsid, gen := (bandRec s k).gen }

/-- The record of a band that has lost words, rebuilt: a lost record is the journal's, with the relocation entries, spares and FRONTIER
that the media shows; a lost bitmap word keeps the bits that the journal has set (R401). -/
def rebuiltRecord (s : State) (k : BandKey) : BandRec :=
  let r := bandRec s k
  let j := journalRecord s k
  let r := if r.lostWords.contains 16 then
      { r with wp := j.wp, zcap := j.zcap, state := j.state, excluded := j.excluded, activeSlot := j.activeSlot, gen := j.gen, nsid := j.nsid }
    else r
  { r with
    held := false, lostWords := []
    extents := (List.range 4096).foldl (fun (x : BitVec 4096) e =>
      if r.lostWords.contains (e / 256) && !j.extents.getLsbD e then x &&& ~~~((1 : BitVec 4096) <<< e) else x) r.extents }

/-- The state of a rebuilt zone follows its write pointer: Full at ZCAP, and a journaled Empty zone that holds blocks is Closed. -/
def settleZone (k : BandKey) (s : State) : State :=
  let r := bandRec s k
  if r.zcap ≤ r.wp && (r.state.active || r.state = .empty) then setZoneState k .full s
  else if r.state = .empty && 0 < r.wp then setZoneState k .closed s
  else s

/-- The records of a band rebuilt. A record that the journal cannot give makes the zone Offline (R93). -/
def rebuildBand (k : BandKey) (journalOk : Bool) (mediaRun : Nat) (s : State) : State :=
  let r := bandRec s k
  let s := rewriteMeta k { s with faults.rebuilds := s.faults.rebuilds + 1 }
  if !journalOk then
    let s := setBand { r with held := false, lostWords := [] } s
    noteWarning (if r.shingled then offlineZone k s else modBand k (fun x => { x with excluded := true }) s)
  else
    let j := journalRecord s k
    let n := rebuiltRecord s k
    let s := if r.shingled then
        let wp := rebuiltWp s k n.zcap mediaRun
        settleZone k (setBand { n with wp := wp, awp := max r.awp wp } s)
      else setBand n s
    loseExtents k j r.lostWords s

/-- REBUILD_DONE (spec 13, R401): MSQ has read the band from its journaled write pointer to `mediaRun`; held commands resume. -/
def execRebuildDone (h : HeadId) (band : Nat) (journalOk : Bool) (mediaRun : Nat) (s : State) : Host.Outcome State Fault Refusal :=
  .next (ifLive s (fun s =>
    if (bandRec s ⟨h, band⟩).held then progress (rebuildBand ⟨h, band⟩ journalOk mediaRun s) else s))

end Sys2Proof.Machine
end

