-- ==== Sys2Proof/Machine/Exceptions.lean ====
section
/-! DEFINITION. The meanings of the fault-recovery rows (spec 13): memory-error exceptions and the end of a plane's restart, and
retirement by the integrator (R406, R409). -/

namespace Sys2Proof.Machine

/-! ## Plane restarts (R400) -/

/-- MEM_EXCEPTION_DATA_PLANE (R400). A further exception while the plane restarts changes nothing (log 3). -/
def execMemExceptionDataPlane (s : State) : Host.Outcome State Fault Refusal :=
  .next (ifLive s (fun s => if s.faults.dataDown then s else dataPlaneRestart s))

/-- MEM_EXCEPTION_MGMT_PLANE (R400). -/
def execMemExceptionMgmtPlane (s : State) : Host.Outcome State Fault Refusal :=
  .next (ifLive s (fun s => if s.faults.mgmtDown then s else mgmtPlaneRestart s))

/-- A media operation covers an offset of a band for destage. -/
def destages (k : BandKey) (o : Nat) (x : MediaOp) : Bool := x.kind = .destage && x.band = k && x.offset ≤ o && o < x.offset + x.count

/-- Internal operations rebuilt from the DIRTY lines (R400): each has a destage filed. -/
def rebuildDestage (s : State) : State :=
  (s.cache.lines.filter (fun l => l.state = .dirty)).foldl (fun s l =>
    match locateBlock s l.block with
    | none => s
    | some (k, o) =>
      if s.sched.queue.any (destages k o) || s.sched.placed.toList.any (fun x => x.any (destages k o)) then s
      else fileOp .destage k o 1 s.clock.ns s) s

/-- PLANE_RESTART_DONE (R400): the plane runs again; HPC fetches unless an activation holds it. -/
def execPlaneRestartDone (plane : PlaneId) (s : State) : Host.Outcome State Fault Refusal :=
  .next (ifLive s (fun s =>
    match plane with
    | .dataPlane =>
      if !s.faults.dataDown then s
      else rebuildDestage { s with faults.dataDown := false, cmds.fetchStopped := decide (s.fw.activation ≠ .none) }
    | .mgmtPlane => { s with faults.mgmtDown := false }))

/-! ## RETIRE_REQ (R406, R409) -/

/-- The unit that a value of RETIRE_REQ names, if its bits name one. -/
def requestedUnit (v : Nat) : Option UnitId :=
  let u := v % 64
  let kind := v / 16384
  if kind = 1 then some (.reader (Fin.ofNat 32 (u / 2)) (u % 2 = 1))
  else if kind = 2 then (if h : u < 32 then some (.head ⟨u, h⟩) else none)
  else if kind = 3 then (if h : u < 8 then some (.channel ⟨u, h⟩) else none)
  else none

/-- A value of RETIRE_REQ names an absent, retired or fused-off unit: refused with 0xD0000030 (R409). -/
def retireAbsent (s : State) (v : Nat) : Bool :=
  let kind := v / 16384
  if kind = 0 then false
  else match requestedUnit v with
    | none => true
    | some u =>
      unitRetired s u || (match u with
        | .reader h _ => !headFitted s h
        | .head h => !headFitted s h || headReadOnly s h
        | .channel n => !chanFitted s n)

/-- A value of RETIRE_REQ with a reserved code or bit set: kind 0, [12:6], or [13] for a unit that is no head (Table 13.4). -/
def retireReserved (v : Nat) : Bool := v / 16384 = 0 || bitsOf v 6 7 ≠ 0 || (bitOf v 13 && v / 16384 ≠ 2)

/-- RETIRE_REQ accepted: the unit's retirement is decided, read-only for a write-side request (R404, R406). -/
def retireByRequest (v : Nat) (s : State) : State :=
  match requestedUnit v with
  | none => s
  | some u => retireUnit u (!bitOf v 13) s

end Sys2Proof.Machine
end

