-- ==== Sys2Proof/Machine/Identify.lean ====
section
/-! DEFINITION. What the controllers report (spec 10, R293, R296 to R299, R303): Identify data, log pages and features. The manual gives
the fields and their values; their offsets are those of NVMe Base 2.0 and of the Zoned Namespace command set (PRESUMED, log 18). -/

namespace Sys2Proof.Machine

/-! ## Layout -/

/-- Fields by ascending offset, with zeros between them and up to `size` bytes, from position `pos` on. -/
def layout (size pos : Nat) : List (Nat × List Byte) → List Byte
  | [] => List.replicate (size - pos) 0
  | (o, b) :: r => List.replicate (o - pos) 0 ++ b ++ layout size (o + b.length) r

/-- A data structure of `size` bytes. -/
def page (size : Nat) (fields : List (Nat × List Byte)) : List Byte := layout size 0 fields

/-- ASCII text padded with spaces. -/
def asciiPad (n : Nat) (v : List Byte) : List Byte := (v ++ List.replicate n 0x20).take n

/-! ## Identity -/

/-- An identity or power-state object as in force since the last power-on reset (R319). -/
def inForce (s : State) (index sub : Nat) : List Byte := valueOf { s with dict.values := s.sub.identity } index sub

/-- The controller identifier of a port (R292). -/
def cntlid (p : PortId) : Nat := p.val + 1

/-- "nqn.2019-04.com.eznedy:crx8:" (R292). -/
def nqnPrefix : List Byte :=
  [0x6E, 0x71, 0x6E, 0x2E, 0x32, 0x30, 0x31, 0x39, 0x2D, 0x30, 0x34, 0x2E, 0x63, 0x6F, 0x6D, 0x2E, 0x65, 0x7A, 0x6E, 0x65, 0x64, 0x79,
   0x3A, 0x63, 0x72, 0x78, 0x38, 0x3A]

/-- The firmware revision of the running image (R293). -/
def runningFr (s : State) : List Byte := asciiPad 8 s.fw.slots[s.fw.active].fr

/-- The namespaces the controllers present: none in RECOVERY (spec 03, Table 3.6). -/
def shownNs (s : State) : List Namespace := if s.power.phase = .recovery then [] else s.sub.namespaces

/-- A namespace presented. -/
def shownNsAt (s : State) (nsid : Nat) : Option Namespace := (shownNs s).find? (fun n => n.nsid = nsid)

/-- A namespace presented that is attached to the controller of port `p`. -/
def attachedNs (s : State) (p : PortId) (nsid : Nat) : Option Namespace := (shownNsAt s nsid).filter (fun n => n.attached p)

/-! ## Identify (Tables 10.3, 10.7, 10.8) -/

/-- A power state descriptor (R309, Table 10.8): PS2 is non-operational. -/
def psd (s : State) (k : Nat) : List Byte :=
  let v := inForce s 0x2002 k
  page 32 [(0, leBytes 2 (fieldU v 0 2)), (3, leBytes 1 (if k = 2 then 2 else 0)), (4, leBytes 4 (fieldU v 4 4)),
    (8, leBytes 4 (fieldU v 8 4)), (16, leBytes 2 (fieldU v 12 2)), (18, leBytes 1 (if fieldU v 12 2 = 0 then 0 else 0x80))]

/-- Identify Controller (Table 10.3; FWUG by spec 16, R466). The silicon revision (spec 00, R5) stands in its vendor bytes from 3,072 on
(DESIGN CHOICE, log 42: the manual does not say where). -/
def idController (s : State) (p : PortId) : List Byte :=
  page 4096 [
    (0, leBytes 2 Config.pciVendorId.toNat), (2, leBytes 2 (leNat (inForce s 0x2000 1))), (4, asciiPad 20 (inForce s 0x2000 3)),
    (24, asciiPad 40 (inForce s 0x2000 4)), (64, runningFr s), (76, leBytes 1 3), (77, leBytes 1 8), (78, leBytes 2 (cntlid p)),
    (80, leBytes 4 0x00020000), (84, leBytes 4 25000000), (88, leBytes 4 8000000), (128, leBytes 2 10), (256, leBytes 2 0x000E),
    (258, leBytes 1 7), (259, leBytes 1 3), (260, leBytes 1 0x14), (261, leBytes 1 0x06), (262, leBytes 1 63), (263, leBytes 1 2),
    (266, leBytes 2 (limitKelvin s (hdaRef s) 0)), (268, leBytes 2 (limitKelvin s (hdaRef s) 4)), (270, leBytes 2 15),
    (319, leBytes 1 1), (512, leBytes 1 0x66), (513, leBytes 1 0x44), (516, leBytes 4 16), (520, leBytes 2 0x0028), (525, leBytes 1 1),
    (768, nqnPrefix ++ inForce s 0x2000 3), (2048, psd s 0), (2080, psd s 1), (2112, psd s 2), (3072, revisionText)]

/-- Identify Namespace (R302, R307): NMIC bit 0, the six reservation types with Persist Through Power Loss, LBA format 0. -/
def idNamespace (n : Namespace) : List Byte :=
  let blocks := leBytes 8 n.size
  page 4096 [(0, blocks), (8, blocks), (16, blocks), (30, leBytes 1 1), (31, leBytes 1 0xFF), (130, leBytes 1 12)]

/-- The capabilities common to every namespace. -/
def idCommon : List Byte := page 4096 [(30, leBytes 1 1), (31, leBytes 1 0xFF), (130, leBytes 1 12)]

/-- CSI of a namespace. -/
def csiOf (n : Namespace) : Nat := if n.zoned then 2 else 0

/-- The I/O command set specific Identify Namespace data (Table 10.7); zero for the NVM command set. -/
def idNsSpecific (n : Namespace) (csi : Nat) : List Byte :=
  if csi = 2 && n.zoned then
    page 4096 [(0, leBytes 2 1), (2, leBytes 2 1), (4, leBytes 4 40959), (8, leBytes 4 40959), (2816, leBytes 8 65536)]
  else page 4096 []

/-- The I/O command set specific Identify Controller data (R295): WZSL 16 for the NVM command set; ZASL 0 for the zoned one. -/
def idCtrlSpecific (csi : Nat) : List Byte := if csi = 0 then page 4096 [(1, leBytes 1 16)] else page 4096 []

/-- The I/O command set independent Identify Namespace data: NMIC, reservations, and NRDY once the drive is READY. -/
def idNsIndependent (s : State) : List Byte :=
  page 4096 [(1, leBytes 1 1), (2, leBytes 1 0xFF), (14, leBytes 1 (b2n (s.power.phase = .ready)))]

/-- A list of identifiers of `w` bytes each, at most `k`. -/
def idList (w k : Nat) (l : List Nat) : List Byte := page 4096 [(0, ((l.take k).map (leBytes w)).flatten)]

/-- A controller list: its length, then the identifiers. -/
def ctrlList (l : List Nat) : List Byte := page 4096 [(0, leBytes 2 l.length ++ (l.map (leBytes 2)).flatten)]

/-- The controllers of the subsystem: one in the x4 mode. -/
def controllers (s : State) : List Nat := if s.power.straps.portMode then [1] else [1, 2]

/-- The controllers a namespace is attached to. -/
def attachedTo (n : Namespace) : List Nat := (allPorts.filter (fun p => n.attached p)).map cntlid

/-- Identify (R294): a status or the data. An inactive namespace identifier reads as zeros. -/
def identifyData (s : State) (p : PortId) (cns nsid csi cntid : Nat) : Except Status (List Byte) :=
  let valid := 1 ≤ nsid && nsid ≤ 16
  let shown (n : Option Namespace) (f : Namespace → List Byte) : Except Status (List Byte) :=
    if valid then .ok (n.elim (page 4096 []) f) else .error .invalidNs
  match cns with
  | 0x00 => if nsid = 0xFFFFFFFF then .ok idCommon else shown (attachedNs s p nsid) idNamespace
  | 0x01 => .ok (idController s p)
  | 0x02 =>
    if 0xFFFFFFFE ≤ nsid then .error .invalidNs
    else .ok (idList 4 1024 (((shownNs s).filter (fun n => n.attached p && nsid < n.nsid)).map (·.nsid)))
  | 0x03 => shown (attachedNs s p nsid) (fun n => page 4096 [(0, leBytes 2 0x0104), (4, leBytes 1 (csiOf n))])
  | 0x05 => if csi = 0 || csi = 2 then shown (attachedNs s p nsid) (fun n => idNsSpecific n csi) else .error .invalidField
  | 0x06 => if csi = 0 || csi = 2 then .ok (idCtrlSpecific csi) else .error .invalidField
  | 0x08 => shown (attachedNs s p nsid) (fun _ => idNsIndependent s)
  | 0x10 =>
    if 0xFFFFFFFE ≤ nsid then .error .invalidNs
    else .ok (idList 4 1024 (((shownNs s).filter (fun n => nsid < n.nsid)).map (·.nsid)))
  | 0x11 => shown (shownNsAt s nsid) idNamespace
  | 0x12 => shown (shownNsAt s nsid) (fun n => ctrlList ((attachedTo n).filter (fun c => cntid ≤ c)))
  | 0x13 => .ok (ctrlList ((controllers s).filter (fun c => cntid ≤ c)))
  | 0x1C => .ok (page 4096 [(0, leBytes 8 0x05)])
  | _ => .error .invalidField

/-! ## Log pages (Table 10.6) -/

/-- The hottest enabled remote diode (R299). -/
def hottestDiode (s : State) : Nat := ((List.range 8).map (smartTemp s)).foldl max 0

/-- Percentage Used (R298). -/
def percentUsed (s : State) : Nat := min 255 (powerOn s * 100 / (1024 * max 1 (cfg s 0x2000 5)))

/-- SMART / Health Information (R298, R299). `busy`, `warm` and `hot` are the controller busy time and the composite temperature times,
which the manual does not give: free values (log 2). -/
def smartPage (s : State) (p : PortId) (busy warm hot : Nat) : List Byte :=
  let k (n : Nat) : List Byte := leBytes 16 n
  page 512 [
    (0, leBytes 1 (criticalWarning s p).toNat), (1, leBytes 2 (compositeTemp s)), (3, leBytes 1 (availableSpare s)), (4, leBytes 1 10),
    (5, leBytes 1 (percentUsed s)), (32, k (ceilDiv (8 * s.sub.blocksRead) 1000)), (48, k (ceilDiv (8 * s.sub.blocksWritten) 1000)),
    (64, k s.sub.hostReads), (80, k s.sub.hostWrites), (96, k busy), (112, k s.clock.cycles), (128, k (powerOn s / 1024)),
    (144, k s.clock.unsafeShutdowns), (160, k s.sub.mediaErrors), (176, k (s.port p).errorCount), (192, leBytes 4 warm),
    (196, leBytes 4 hot), (200, leBytes 2 (smartTemp s 10)), (202, leBytes 2 (smartTemp s 8)), (204, leBytes 2 (smartTemp s 9)),
    (206, leBytes 2 (hottestDiode s))]

/-- Error Information: 64 entries of 64 bytes, newest first. -/
def errorPage (q : Port) : List Byte :=
  page 4096 [(0, (q.errors.zipIdx.map (fun e =>
    page 64 [(0, leBytes 8 (q.errorCount - e.2)), (8, leBytes 2 e.1.1), (10, leBytes 2 e.1.2.1.toNat), (12, leBytes 2 (2 * e.1.2.2.word))])).flatten)]

/-- Firmware Slot Information: slot 1 is slot A, slot 2 slot B. -/
def slotPage (s : State) : List Byte :=
  let fr (i : Fin 2) : List Byte := if s.fw.slots[i].state = 0 then List.replicate 8 0 else asciiPad 8 s.fw.slots[i].fr
  page 512 [(0, leBytes 1 (s.fw.active.val + 1 + 16 * s.fw.next.elim 0 (fun i => i.val + 1))), (8, fr 0), (16, fr 1)]

/-- Changed Namespace List. -/
def changedPage (q : Port) : List Byte := page 4096 [(0, (q.changed.map (leBytes 4)).flatten)]

/-- Commands Supported and Effects (Table 10.6): every command of R294 and R295; the vendor commands 0xC0 and 0xC1 report CCC. The other
effect bits are those of NVMe Base 2.0 (PRESUMED, log 18). -/
def effectsPage : List Byte :=
  let e (n : Nat) : List Byte := leBytes 4 n
  page 4096 [
    (0x00, e 1), (0x04, e 1), (0x08, e 1), (0x10, e 1), (0x14, e 1), (0x18, e 1), (0x20, e 1), (0x24, e 1), (0x28, e 1), (0x30, e 1),
    (0x34, e 9), (0x40, e 1), (0x44, e 1), (0x54, e 9), (0x200, e 3), (0x210, e 3), (0x300, e 0x11), (0x304, e 0x11), (0x308, e 1),
    (0x400, e 1), (0x404, e 3), (0x408, e 1), (0x420, e 3), (0x434, e 1), (0x438, e 1), (0x444, e 1), (0x454, e 1), (0x5E4, e 3),
    (0x5E8, e 1), (0x5F4, e 3)]

/-- Reservation Notification: the oldest entry, and how many are held. -/
def resPage (q : Port) : List Byte :=
  match q.resLog with
  | [] => page 64 []
  | (kind, nsid) :: r =>
    page 64 [(0, leBytes 8 (q.resCount - r.length)), (8, leBytes 1 kind), (9, leBytes 1 (min 255 r.length)), (12, leBytes 4 nsid)]

/-- Sanitize Status: progress while it runs is a free value (log 2). -/
def sanitizePage (s : State) (progress : Nat) : List Byte :=
  let z := s.sub.sanitize
  let st := if z.running then 2 else if z.failed then 3 else if z.done = 0 then 0 else 1
  page 512 [(0, leBytes 2 (if z.running then progress else 0xFFFF)), (2, leBytes 2 (st + 8 * z.done)),
    (4, leBytes 4 (if z.passes = 0 then 0 else 3 + 16 * z.passes)), (8, leBytes 4 0xFFFFFFFF), (12, leBytes 4 0xFFFFFFFF), (16, leBytes 4 0xFFFFFFFF)]

/-- An entry of the Deferred Write Error log (spec 11, Table 11.5). -/
def deferredBytes (d : DeferredEntry) : List Byte :=
  leBytes 8 d.seq ++ leBytes 8 d.slba ++ leBytes 4 d.nlb ++ leBytes 4 d.nsid ++ leBytes 2 d.cause ++ leBytes 1 d.port.val ++ [0]
    ++ leBytes 4 d.powerOn

/-- The Deferred Write Error log (spec 11, R346): entry `i` of the ring is the one whose SEQ is `i + 1` modulo 256. -/
def deferredPage (s : State) : List Byte :=
  let l := s.sub.deferredLog
  let total := (l.head?.map (·.seq)).getD 0
  leBytes 8 total ++ leBytes 2 l.length ++ leBytes 2 (if total = 0 then 0xFFFF else (total - 1) % 256) ++ List.replicate 52 0
    ++ ((List.range 256).map (fun i => ((l.find? (fun d => (d.seq - 1) % 256 = i)).elim (List.replicate 32 0) deferredBytes))).flatten

/-- A log page of port `p` (R297), and the state with the free values it took. -/
def logPage (s : State) (p : PortId) (lid : Nat) : Option (List Byte) × State :=
  let q := s.port p
  match lid with
  | 0x01 => (some (errorPage q), s)
  | 0x02 =>
    let a := nextFree s
    let b := nextFree a.2
    let c := nextFree b.2
    (some (smartPage s p a.1 b.1 c.1), c.2)
  | 0x03 => (some (slotPage s), s)
  | 0x04 => (some (changedPage q), s)
  | 0x05 => (some effectsPage, s)
  | 0x80 => (some (resPage q), s)
  | 0x81 =>
    let a := nextFree s
    (some (sanitizePage s a.1), a.2)
  | 0xC0 => (some (deferredPage s), s)
  | 0xC1 => (some (ringImage s), s)
  | _ => (none, s)

/-- What reading a log page with RAE 0 clears (R301, R346): its events are armed again and those that wait go, but for the SMART / Health
events, of which each bit has its own, the Changed Namespace List empties, and the oldest
Reservation Notification is taken. -/
def clearLog (p : PortId) (lid : Nat) (s : State) : State :=
  s.modPort p (fun q => { q with
    masked := q.masked.filter (fun b => b.toNat ≠ lid)
    events := q.events.filter (fun e => e.kind = 1 || e.page.toNat ≠ lid)
    changed := if lid = 0x04 then [] else q.changed
    resLog := if lid = 0x80 then q.resLog.drop 1 else q.resLog })

/-! ## Features (Table 10.5) -/

/-- Number of Queues as granted: 64 and 64, 0-based. -/
def queuesGranted (f : Features) : Nat := (f.queues - 1) * 65537

/-- The Timestamp now: the value set and the time since, with its attributes byte. -/
def timestampBytes (s : State) (f : Features) : List Byte :=
  leBytes 6 (f.timestamp.toNat + (s.clock.ns - f.timestampAt) / 1000000) ++ [f.timestampAttr, 0]

/-- The current value of a feature of port `p` (R296): a status, or completion dword 0 and data. Command dword 11 selects the threshold
or the vector. -/
def featureValue (s : State) (p : PortId) (fid nsid cdw11 : Nat) : Except Status (Nat × CplData) :=
  let f := (s.port p).feat
  let ofNs (g : Namespace → Nat) : Except Status (Nat × CplData) :=
    match attachedNs s p nsid with | none => .error .invalidNs | some n => .ok (g n, .none)
  match fid with
  | 0x01 => .ok (f.arbitration.toNat, .none)
  | 0x02 => .ok (f.ps, .none)
  | 0x04 =>
    let sel := bitsOf cdw11 20 2
    if bitsOf cdw11 16 4 ≠ 0 || 1 < sel then .error .invalidField
    else .ok (if sel = 0 then overThreshold s f else f.underTh.getD 0, .none)
  | 0x05 => ofNs (fun n => (assocGet n.nsid f.tler).getD 0)
  | 0x06 => .ok (b2n (s.cache.mode = .writeBack), .none)
  | 0x07 => .ok (queuesGranted f, .none)
  | 0x08 => .ok (f.coalescing.toNat, .none)
  | 0x09 =>
    let v := bitsOf cdw11 0 16
    if 64 < v then .error .invalidField else .ok (v + b2n ((assocGet v f.vectorConfig).getD false) * 65536, .none)
  | 0x0A => .ok (f.atomicity.toNat, .none)
  | 0x0B => .ok (f.asyncConfig.toNat, .none)
  | 0x0E => .ok (0, .bytes (timestampBytes s f))
  | 0x16 => .ok (0, .bytes (page 512 [(0, leBytes 1 (b2n f.acre))]))
  | 0x80 => .ok (f.marker.toNat, .none)
  | 0x81 => .ok (0, .bytes (leBytes (if f.exhid then 16 else 8) f.hostId.toNat))
  | 0x82 => ofNs (fun n => ((assocGet n.nsid f.resMask).getD 0).toNat)
  | 0x83 => ofNs (fun n => b2n n.res.ptpl)
  | _ => .error .invalidField

end Sys2Proof.Machine
end

