-- ==== Sys2Proof/Machine/Admission.lean ====
section
/-! DEFINITION. Admission of I/O commands (spec 11, R322 to R325, R330, R345; spec 03, R97, R101; spec 09, R266; spec 10, R308): the
queue, the context and the token that a command takes, and the completions at admission. -/

namespace Sys2Proof.Machine

/-! ## Fetching (R322 to R324) -/

/-- Commands a queue gives in one turn: 2^AB. -/
def burst (q : Port) : Nat := 2 ^ bitsOf q.feat.arbitration.toNat 0 3

/-- An I/O submission queue holds an entry. -/
def Sq.ready (x : Sq) : Bool := x.qid ≠ 0 && x.head ≠ x.tail

/-- The queue that the round robin fetches from: the present one while its turn lasts, else the next by number. -/
def pickQueue (q : Port) : Option Sq :=
  let l := (q.sqs.filter Sq.ready).mergeSort (fun a b => a.qid ≤ b.qid)
  match l.find? (fun x => x.qid = q.rrQid && q.rrTaken < burst q) with
  | some x => some x
  | none => (l.find? (fun x => q.rrQid < x.qid)).or l.head?

/-- An entry taken from its queue. -/
def takeEntry (p : PortId) (x : Sq) (s : State) : State :=
  s.modPort p (fun q => { q with
    rrQid := x.qid, rrTaken := if q.rrQid = x.qid then q.rrTaken + 1 else 1
    sqs := q.sqs.map (fun y => if y.qid = x.qid then { y with head := (y.head + 1) % y.size } else y) })

/-- Contexts held by a port. -/
def ctxCount (s : State) (p : PortId) : Nat := s.cmds.ctxs.countP (fun c => c.port = p)

/-- A context is free for a port (R323): its reserve, or the shared rest of 65,536 less 2,048. -/
def ctxFree (s : State) (p : PortId) : Bool :=
  let r := cfg s 0x2100 4
  ctxCount s p < r || (ctxCount s 0 - r) + (ctxCount s 1 - r) < 63488 - 2 * r

/-- HPC can fetch an I/O command of a port (R311, R322 to R324; spec 16, R476). -/
def mayFetch (s : State) (p : PortId) : Bool :=
  s.live && (s.port p).rdy && (s.port p).shst = 0 && !s.cmds.fetchStopped && s.tick.tokens ≠ some 0 && ctxFree s p

/-! ## Ranges and zones of an entry -/

/-- Reads and writes of blocks. -/
def ioBlocks (op : IoOp) : Bool := ioWrites op || op = IoOp.read

/-- Commands of the Zoned Namespace command set only. -/
def ioZoned : IoOp → Bool
  | .zoneClose | .zoneFinish | .zoneOpen | .zoneReset | .zoneOffline | .setZoneDescExt | .reportZones | .extReportZones
  | .zoneAppend => true
  | _ => false

/-- Reservation commands. -/
def ioReservation : IoOp → Bool
  | .resRegister | .resReport | .resAcquire | .resRelease => true
  | _ => false

/-- Zone Management Receive. -/
def ioReceive : IoOp → Bool
  | .reportZones | .extReportZones => true
  | _ => false

/-- The context of an entry, before it is filed. -/
def contextOf (s : State) (p : PortId) (x : Sq) (e : SqEntry) (start hostx : Nat) : Ctx :=
  { id := s.cmds.nextId, port := p, sqid := x.qid, cqid := x.cqid, entry := e, started := false, dataDone := false, onMedia := false
    committed := false, writeBack := ioWrites e.op && s.cache.mode = .writeBack && !e.fua, admittedNs := s.clock.ns, start := start
    hostx := hostx, media := false, waiting := [], onMediaBlocks := [], data := [], status := .success, result := .none, covered := []
    flushAtOnce := s.cache.mode = .writeBack, effect := false, silent := false, readOn := [] }

/-! ## Flush conditions (R339, R340) -/

/-- A block lies in the scope of a Flush. -/
def flushScope (nsid : Nat) (b : BlockKey) : Bool := nsid = 0xFFFFFFFF || b.nsid = nsid

/-- The DIRTY lines in a Flush's scope at its ordering point, with their versions. -/
def flushCovered (s : State) (nsid : Nat) : List (BlockKey × Option Nat) :=
  (s.cache.lines.filter (fun l => l.state = .dirty && flushScope nsid l.block)).map (fun l => (l.block, some l.version))

/-- A Flush may commit: at once under WRITE_BACK, else once for each of its blocks the version of its ordering point, or a newer one, is on
media, or no DIRTY line of it is left, with no verification or repair on their bands. -/
def flushDone (s : State) (c : Ctx) : Bool :=
  c.flushAtOnce || c.covered.all (fun x =>
    (x.2.isNone || !s.cache.lines.any (fun l => l.block = x.1 && l.state = .dirty)) &&
      !(locateBlock s x.1).any (fun y => excursionOn s y.1))

/-! ## Commands that need no media (spec 03, R101) -/

/-- Every block of a read is held by a visible line or a READY slot, or reads as zeros. -/
def servedByBuffer (s : State) (c : Ctx) : Bool :=
  (List.range c.entry.nlb).all (fun i =>
    let b := c.block i
    (visibleLine s b).isSome || (readySlot s b).isSome ||
      (match locateBlock s b with | none => true | some (k, o) => unwritten s k o))

/-- The command needs no media. -/
def needsNoMedia (s : State) (c : Ctx) : Bool :=
  match c.entry.op with
  | .read => servedByBuffer s c
  | .flush => flushDone s { c with covered := flushCovered s c.ns }
  | op => ioReceive op || ioReservation op

/-! ## Completion at admission -/

/-- A command completed at admission with no side effect and an event (R325, R503). -/
def completeRefused (c : Ctx) (st : Status) (dnr : Bool) (crd : Nat) (s : State) : State :=
  commitCompletion c.port (completionOf c st dnr crd 0 0)
    (cmdRefused c.port (ioOpcode c.entry.op) 1 c.ns (c.entry.slba % 2 ^ 32) st s)

/-- The namespace of an entry is attached to the controller; a Flush may name them all (R307, R339). -/
def nsReachable (s : State) (p : PortId) (e : SqEntry) : Bool :=
  (e.op = IoOp.flush && e.nsid = 0xFFFFFFFF) || (findNs s e.nsid.toNat).any (fun n => n.attached p)

/-- The pending deferred-error flags that a command reports (R345). -/
def pendingFlags (s : State) (p : PortId) (nsid : Nat) : List (Nat × Nat) :=
  s.sub.deferred.filter (fun d => (d.1 = hostNow s p || d.1 = p.val) && (nsid = 0xFFFFFFFF || d.2 = nsid))

/-- A reservation denies the command (R308; the groups are those of NVMe Base 2.0, PRESUMED, log 18). -/
def denied (s : State) (p : PortId) (e : SqEntry) : Bool :=
  match findNs s e.nsid.toNat with
  | none => false
  | some n =>
    let writes := ioWrites e.op || ioZoneSend e.op || e.op = IoOp.flush
    let reads := e.op = IoOp.read || ioReceive e.op
    reservationDenies n.res (hostOf s p) writes reads

/-- The fields of a command on its namespace (R295, R303, R305, R503): the status it breaks, if any. -/
def fieldStatus (n : Namespace) (e : SqEntry) : Option Status :=
  let size := n.bands.length * 65536
  if ioZoned e.op && !n.zoned then some .invalidOpcode
  else if ioBlocks e.op && (e.prinfo ≠ 0) then some .invalidField
  else if (e.op = IoOp.read || e.op = IoOp.write || e.op = IoOp.zoneAppend) && 256 < e.nlb then some .invalidField
  else if e.op = IoOp.writeZeroes && 65536 < e.nlb then some .invalidField
  else if e.op = IoOp.zoneAppend && e.slba % 65536 ≠ 0 then some .invalidField
  else if ioZoneSend e.op && !e.selectAll && e.slba % 65536 ≠ 0 then some .invalidField
  else if ioBlocks e.op && e.op ≠ IoOp.zoneAppend && size < e.slba + e.nlb then some .lbaRange
  else if (e.op = IoOp.zoneAppend || ioReceive e.op || (ioZoneSend e.op && !e.selectAll)) && size ≤ e.slba then some .lbaRange
  else none

/-- What R325 and R304 answer to a write of a zone that starts at offset `o`. -/
def zoneWriteStatus (s : State) (k : BandKey) (o count : Nat) : Option Status :=
  let r := bandRec s k
  if r.state = .offline then some .zoneOffline
  else if r.state = .readOnly then some .zoneReadOnly
  else if r.state = .full then some .zoneFull
  else if r.zcap ≤ r.awp then some .zoneFull
  else if o ≠ r.awp then some .zoneInvalidWrite
  else if r.zcap < o + count then some .zoneBoundary
  else if !r.state.active && (freeSlot s).isNone then some .tooManyActive
  else none

/-- What a band that a retirement took out of service answers (spec 13, R405). -/
def bandStatus (s : State) (op : IoOp) (k : BandKey) : Option Status :=
  let r := bandRec s k
  if op = IoOp.read then
    if r.shingled then (if r.state = .offline then some .zoneOffline else none)
    else if headRetired s k.head then some .unrecoveredRead else none
  else if !r.shingled && (headRetired s k.head || s.faults.readOnlyHeads.getLsbD k.head) then some .writeFault
  else none

/-- The status of the zones and bands of a read or write; a Zone Append is judged on the zone that it names, at its admitted write pointer
(R330). -/
def mediaStatus (s : State) (n : Namespace) (e : SqEntry) (start : Nat) : Option Status :=
  let l := if e.op = IoOp.zoneAppend then ((locate n e.slba).map (fun x => (x.1, (bandRec s x.1).awp, e.nlb))).toList
    else spanBands n start e.nlb
  match l.findSome? (fun x => bandStatus s e.op x.1) with
  | some st => some st
  | none =>
    if n.zoned && ioWrites e.op then
      match l with
      | (k, o, _) :: _ => zoneWriteStatus s k o e.nlb
      | [] => none
    else none

/-- The block that a command starts at: a Zone Append is assigned the admitted write pointer (R330). -/
def startOf (s : State) (n : Namespace) (e : SqEntry) : Nat :=
  if e.op = IoOp.zoneAppend then
    match locate n e.slba with | none => e.slba | some (k, _) => e.slba / 65536 * 65536 + (bandRec s k).awp
  else e.slba

/-- What happens to a fetched command: it completes with a status, a DNR and a CRD, or it is filed. -/
inductive Answer where
  | refuse (st : Status) (dnr : Bool) (crd : Nat)
  | deferred
  | file
deriving DecidableEq, Repr

/-- Namespace Not Ready as R97 and Table 3.6 give it. -/
def notReady (s : State) (p : PortId) : Answer := .refuse .nsNotReady (s.power.phase = .failed) (b2n (s.port p).feat.acre)

/-- The answer that the drive's phase gives (R97, R101; Table 3.6), if it gives one: Namespace Not Ready in FAILED and in the phases of a
start-up from power good; after STANDBY and during thermal shutdown commands that need no media are executed. -/
def phaseAnswer (s : State) (c : Ctx) : Option Answer :=
  if s.power.phase = .ready then none
  else if s.power.phase = .failed || (s.power.fromPower && !s.cmds.mediaStopped) then some (notReady s c.port)
  else if needsNoMedia s c then none
  else some (notReady s c.port)

/-- The judgement of a fetched command, in the order of log 30. -/
def judge (s : State) (c : Ctx) : Answer :=
  let e := c.entry
  match e.op with
  | .unsupported _ => .file
  | _ =>
    if s.power.phase = .recovery then .refuse .invalidNs false 0
    else if !nsReachable s c.port e then .refuse .invalidNs false 0
    else match phaseAnswer s c with
    | some a => a
    | none =>
      if s.sub.sanitize.running then .refuse .sanitizeInProgress false 0
      else if s.sub.sanitize.failed then .refuse .sanitizeFailed false 0
      else if pendingFlags s c.port c.ns ≠ [] then .deferred
      else if denied s c.port e then .refuse .reservationConflict false 0
      else match findNs s c.ns with
      | none => .file
      | some n =>
        match fieldStatus n e with
        | some st => .refuse st false 0
        | none =>
          if ioWrites e.op && !windowOpen s then .refuse .writeInhibited false 0
          else match (if ioBlocks e.op then mediaStatus s n e c.start else none) with
          | some st => .refuse st false 0
          | none => .file

/-- A write of a zone is admitted (R330): the admitted write pointer advances, the zone opens implicitly. -/
def openZone (c : Ctx) (s : State) : State :=
  match ctxBand s c with
  | none => s
  | some k =>
    let r := bandRec s k
    if !r.shingled then s
    else
      let s := if r.state.isOpen then s else setZoneState k .implicitOpen s
      modBand k (fun r => { r with awp := r.awp + c.entry.nlb }) s

/-- A command filed in its context. -/
def fileCommand (c : Ctx) (s : State) : State :=
  let x := if ioWrites c.entry.op then hostIndex c.port s else (0xFF, s)
  let c := { c with hostx := x.1, covered := if c.entry.op = IoOp.flush then flushCovered s c.ns else [] }
  let s := { x.2 with cmds.ctxs := x.2.cmds.ctxs ++ [c] }
  if ioWrites c.entry.op then writeOverFills c.ns c.start c.entry.nlb (openZone c s) else s

/-- One command admitted: a queue, a number and a token are used. -/
def admitOne (p : PortId) (x : Sq) (e : SqEntry) (s : State) : State :=
  let start := match findNs s e.nsid.toNat with | none => e.slba | some n => startOf s n e
  let c := contextOf s p x e start 0xFF
  if s.cmds.mediaStopped && s.power.phase = .ready && !needsNoMedia s c then s
  else
    let s := takeEntry p x { s with cmds.nextId := s.cmds.nextId + 1, tick.tokens := s.tick.tokens.map (· - 1) }
    let a := judge s c
    let s := if !needsNoMedia s c && (match a with | .refuse st _ _ => st = .nsNotReady | _ => true) && s.power.readyTime ≠ 0 then wakeFor p s else s
    match a with
    | .refuse st dnr crd => completeRefused c st dnr crd s
    | .deferred =>
      commitCompletion p (completionOf c .deferredWrite false 0 0 0)
        { s with sub.deferred := s.sub.deferred.filter (fun d => !(pendingFlags s p c.ns).contains d) }
    | .file => fileCommand c s

/-- COMMAND_ADMISSION (R322): HPC fetches the entry from the queue that its round robin has come to. -/
def execCommandAdmission (p : PortId) (e : SqEntry) (s : State) : Host.Outcome State Fault Refusal :=
  .next (if !mayFetch s p then s
    else match pickQueue (s.port p) with
      | none => s
      | some x => progress (admitOne p x e s))

/-- SQ_TAIL_DOORBELL (R290, R294): the tail of a queue that exists, within its size. -/
def execSqTailDoorbell (p : PortId) (qid tail : Nat) (s : State) : Host.Outcome State Fault Refusal :=
  .next (if s.live && (s.port p).rdy then
      s.modPort p (fun q => { q with sqs := q.sqs.map (fun x => if x.qid = qid && tail < x.size then { x with tail := tail } else x) })
    else s)

/-- CQ_HEAD_DOORBELL (R290, R337): entries up to the new head are freed. -/
def execCqHeadDoorbell (p : PortId) (qid head : Nat) (s : State) : Host.Outcome State Fault Refusal :=
  .next (if s.live && (s.port p).rdy then
      s.modPort p (fun q => { q with cqs := q.cqs.map (fun x =>
        let n := (head + x.size - x.head) % x.size
        if x.qid = qid && head < x.size && n ≤ x.used then { x with head := head, used := x.used - n } else x) })
    else s)

end Sys2Proof.Machine
end

