-- ==== Sys2Proof/Machine/Zones.lean ====
section
/-! DEFINITION. Zone management (spec 10, R303 to R306; spec 11, R332; spec 12, R391): the actions of Zone Management Send, their
ordering point, and Report Zones. -/

namespace Sys2Proof.Machine

/-! ## Actions -/

/-- The zones that an action of context `c` touches: the one at its block, or with Select All every zone of its namespace. -/
def actionZones (s : State) (c : Ctx) : List BandKey :=
  match findNs s c.ns with
  | none => []
  | some n => if c.entry.selectAll then n.bands else ((n.bands[c.entry.slba / 65536]?).map (fun k => [k])).getD []

/-- The states that Select All applies an action to (PRESUMED, log 18: the Zoned Namespace command set). -/
def selected (op : IoOp) (z : ZoneState) : Bool :=
  match op with
  | .zoneClose => z.isOpen
  | .zoneFinish => z.active
  | .zoneOpen => z = .closed
  | .zoneReset => z.active || z = .full
  | .zoneOffline => z = .readOnly
  | _ => false

/-- The status of an action on a zone in a state (R304, R305; the transitions are those of the Zoned Namespace command set, PRESUMED,
log 18). -/
def actionStatus (s : State) (op : IoOp) (z : ZoneState) : Status :=
  let bad := z = .readOnly || z = .offline || z = .conventional
  match op with
  | .zoneClose => if z.active then .success else .zoneTransition
  | .zoneFinish => if bad then .zoneTransition else .success
  | .zoneOpen =>
    if bad || z = .full then .zoneTransition else if !z.active && (freeSlot s).isNone then .tooManyActive else .success
  | .zoneReset => if bad then .zoneTransition else .success
  | .zoneOffline => if z = .readOnly then .success else .zoneTransition
  | _ => .invalidField

/-- The media operations of a band that its emptying makes needless: destages, and reads ahead. -/
def dropDestage (k : BandKey) (s : State) : State :=
  let mine := fun (o : MediaOp) => o.band = k && o.kind = .destage
  let n := chanOf k.head
  let s := if (s.wr n).run.any (fun r => mine r.op) && !(s.wr n).request then endRun n false s else s
  withdrawOps mine s

/-- A verification or repair of a band that has been emptied is over (spec 08, R238). -/
def dropExcursion (k : BandKey) (s : State) : State :=
  if excursionOn s k then s.modWr (chanOf k.head) (fun w => { w with pendingExc := w.pendingExc.filter (fun e => e.band ≠ k), sinceInside := 0 }) else s

/-- The ordering point of a zone reset or of a zone made Offline (R391): the cache forgets the zone. -/
def zoneOrdering (k : BandKey) (s : State) : State := dropExcursion k (dropDestage k (maintainBand k s))

/-- The effect of an action on a zone (R305). -/
def actOn (op : IoOp) (done : Bool) (k : BandKey) (s : State) : State :=
  let z := (bandRec s k).state
  match op with
  | .zoneClose => if z.isOpen then setZoneState k .closed s else s
  | .zoneFinish => setZoneState k .full s
  | .zoneOpen => setZoneState k .explicitOpen s
  | .zoneReset => if z = .empty then s else emptyBand k (if done then s else zoneOrdering k s)
  | .zoneOffline => setZoneState k .offline (if done then s else zoneOrdering k s)
  | _ => s

/-- The journal takes the record of a band whose state an action changed (spec 14, R430). -/
def noteBand (k : BandKey) (s : State) : State :=
  { s with mule.journalBuf := .band (bandRec s k) :: s.mule.journalBuf }

/-- The writes of a zone admitted after an action, judged again in their order when it has taken effect (R332; DESIGN CHOICE, log
30). -/
def rejudge (id : Nat) (k : BandKey) (s : State) : State :=
  let later := (zoneWrites s k).filter (fun c => id < c.id && !c.committed && !c.onMedia)
  let s := modBand k (fun r => { r with awp := r.wp }) s
  later.foldl (fun s c =>
    match ctxOf s c.id with
    | none => s
    | some c =>
      if c.committed then s
      else match zoneWriteStatus s k (c.start % 65536) c.entry.nlb with
        | some st => commitCtx c.id st 0 0 (releaseWrite c.id (modCtx c.id (fun c => { c with status := st }) s))
        | none => openZone c s) s

/-- A command of a context refused when it is executed: its status, and the event (R503). -/
def refuseCtx (c : Ctx) (st : Status) (s : State) : State :=
  commitCtx c.id st 0 0 (cmdRefused c.port (ioOpcode c.entry.op) 1 c.ns (c.entry.slba % 2 ^ 32) st s)

/-- The context that a row names: open, and of one of the operations of the row. -/
def rowCtx (s : State) (id : Nat) (p : IoOp → Bool) : Option Ctx :=
  (ctxOf s id).bind (fun c => if p c.entry.op && !c.committed then some c else none)

/-- The action of a context may take effect (R332; spec 13, R401). -/
def mayAct (s : State) (c : Ctx) : Bool :=
  (actionZones s c).all (fun k => zoneQuiet s c.id k && !(bandRec s k).held) && !zoneActionBefore s { c with entry := { c.entry with nlb := 1 } }

/-- The zones on which the action of a context takes effect. -/
def actionTargets (s : State) (c : Ctx) : List BandKey :=
  (actionZones s c).filter (fun k => if c.entry.selectAll then selected c.entry.op (bandRec s k).state else true)

/-- A Zone Management Send action (R305, R332): with an illegal transition of the one zone it names it completes without effect. -/
def zoneAction (op : IoOp) (id : Nat) (s : State) : State :=
  match rowCtx s id (fun o => o = op) with
  | none => s
  | some c =>
    if !mayAct s c then s
    else
      let ks := actionTargets s c
      match (if c.entry.selectAll then none else ks.findSome? (fun k =>
        if actionStatus s op (bandRec s k).state = .success then none else some (actionStatus s op (bandRec s k).state))) with
      | some st => progress (refuseCtx c st s)
      | none =>
        let s := ks.foldl (fun s k => if actionStatus s op (bandRec s k).state = .success then noteBand k (actOn op c.effect k s) else s) s
        let s := ks.foldl (fun s k => rejudge id k s) s
        progress (lookupWaiting (commitCtx id .success 0 0 s))

/-- ZONE_CLOSE. -/
def execZoneClose (id : Nat) (s : State) : Host.Outcome State Fault Refusal := .next (ifLive s (zoneAction .zoneClose id))
/-- ZONE_FINISH: writes nothing; the zone becomes Full and keeps WP (R305). -/
def execZoneFinish (id : Nat) (s : State) : Host.Outcome State Fault Refusal := .next (ifLive s (zoneAction .zoneFinish id))
/-- ZONE_OPEN. -/
def execZoneOpen (id : Nat) (s : State) : Host.Outcome State Fault Refusal := .next (ifLive s (zoneAction .zoneOpen id))
/-- ZONE_RESET. -/
def execZoneReset (id : Nat) (s : State) : Host.Outcome State Fault Refusal := .next (ifLive s (zoneAction .zoneReset id))
/-- ZONE_OFFLINE: accepted only for a Read Only zone (R305). -/
def execZoneOffline (id : Nat) (s : State) : Host.Outcome State Fault Refusal := .next (ifLive s (zoneAction .zoneOffline id))

/-- MAINTENANCE_ORDERING_POINT (R391, R392): the instant at which a zone reset or a zone made Offline takes effect on the cache. -/
def execMaintenanceOrderingPoint (id : Nat) (s : State) : Host.Outcome State Fault Refusal :=
  .next (if !s.live then s
    else match rowCtx s id (fun o => o = .zoneReset || o = .zoneOffline) with
      | none => s
      | some c =>
        if !mayAct s c || c.effect then s
        else
          let ks := (actionTargets s c).filter (fun k => actionStatus s c.entry.op (bandRec s k).state = .success)
          modCtx id (fun c => { c with effect := true }) (ks.foldl (fun s k => zoneOrdering k s) s))

/-- SET_ZONE_DESCRIPTOR_EXT (R305): Invalid Field in Command. -/
def execSetZoneDescriptorExt (id : Nat) (s : State) : Host.Outcome State Fault Refusal :=
  .next (if !s.live then s
    else match rowCtx s id (fun o => o = .setZoneDescExt) with | none => s | some c => progress (refuseCtx c .invalidField s))

/-! ## Zone Management Receive -/

/-- The zones that a reporting option asks for: 0 every zone, 1 to 7 one state (PRESUMED, log 18). -/
def reported (opt : Nat) (z : ZoneState) : Bool :=
  match opt with
  | 0 => true
  | 1 => z = .empty
  | 2 => z = .implicitOpen
  | 3 => z = .explicitOpen
  | 4 => z = .closed
  | 5 => z = .full
  | 6 => z = .readOnly
  | 7 => z = .offline
  | _ => false

/-- A zone descriptor (64 bytes; the layout is that of the Zoned Namespace command set, PRESUMED, log 18): type, state, capacity,
start and write pointer; a Full zone's write pointer is its start plus ZCAP (R305). -/
def zoneDescriptor (s : State) (z : Nat) (k : BandKey) : List Byte :=
  let r := bandRec s k
  let start := z * 65536
  let wp := start + (if r.state = .full then r.zcap else r.wp)
  [0x02, BitVec.ofNat 8 (r.state.code * 16), 0, 0, 0, 0, 0, 0] ++ leBytes 8 r.zcap ++ leBytes 8 start ++ leBytes 8 wp
    ++ List.replicate 32 0

/-- The report of a context: the number of zones, then as many descriptors as the buffer holds. -/
def zoneReport (s : State) (c : Ctx) : List Byte :=
  match findNs s c.ns with
  | none => []
  | some n =>
    let l := ((n.bands.zipIdx).filter (fun x => c.entry.slba / 65536 ≤ x.2 && reported c.entry.zraOption.toNat (bandRec s x.1).state))
    let shown := l.take ((c.entry.zraMax - 64) / 64)
    leBytes 8 l.length ++ List.replicate 56 0 ++ (shown.map (fun x => zoneDescriptor s x.2 x.1)).flatten

/-- REPORT_ZONES (R305, R306): every reporting option; an option beyond them is an Invalid Field. -/
def execReportZones (id : Nat) (s : State) : Host.Outcome State Fault Refusal :=
  .next (if !s.live then s
    else match rowCtx s id (fun o => o = .reportZones) with
      | none => s
      | some c =>
        progress (if 7 < c.entry.zraOption.toNat then refuseCtx c .invalidField s
          else commitCtx id .success 0 0 (modCtx id (fun c => { c with result := .bytes (zoneReport s c) }) s)))

/-- EXTENDED_REPORT_ZONES (R305): Invalid Field in Command. -/
def execExtendedReportZones (id : Nat) (s : State) : Host.Outcome State Fault Refusal :=
  .next (if !s.live then s
    else match rowCtx s id (fun o => o = .extReportZones) with | none => s | some c => progress (refuseCtx c .invalidField s))

end Sys2Proof.Machine
end

