-- ==== Sys2Proof/Machine/IoRows.lean ====
section
/-! DEFINITION. The rows of reads, writes and flushes (spec 11, R326 to R340; spec 12, R374 to R390), completion and its posting, and the
idle unload (spec 10, R309). -/

namespace Sys2Proof.Machine

/-! ## Reads -/

/-- READ (R326, R327, R379): the read takes its blocks once no earlier overlapping write is open. -/
def execRead (id : Nat) (s : State) : Host.Outcome State Fault Refusal :=
  .next (if !s.live then s
    else match rowCtx s id (fun o => o = .read) with
      | none => s
      | some c =>
        if !mayRead s c then s
        else if c.started then progress (lookupRead id s)
        else progress (startRead c s))

/-! ## Writes -/

/-- The data of a write is received (R328; spec 12, R374, R377); a data length other than the command's cannot arise (log 3). -/
def startWrite (op : IoOp) (id : Nat) (data : Nat → List Block) (s : State) : State :=
  match rowCtx s id (fun o => o = op) with
  | none => s
  | some c =>
    let d := data c.entry.nlb
    if c.started || d.length ≠ c.entry.nlb then s
    else progress (receiveData id d (modCtx id (fun c => { c with started := true }) s))

/-- WRITE. -/
def execWrite (id : Nat) (data : List Block) (s : State) : Host.Outcome State Fault Refusal :=
  .next (ifLive s (startWrite .write id (fun _ => data)))
/-- WRITE_ZEROES (R295): zero data, and no transfer. -/
def execWriteZeroes (id : Nat) (s : State) : Host.Outcome State Fault Refusal :=
  .next (ifLive s (startWrite .writeZeroes id (fun n => List.replicate n 0)))
/-- ZONE_APPEND (R306, R330). -/
def execZoneAppend (id : Nat) (data : List Block) (s : State) : Host.Outcome State Fault Refusal :=
  .next (ifLive s (startWrite .zoneAppend id (fun _ => data)))

/-! ## Flush -/

/-- FLUSH (R339, R340): under WRITE_BACK at its ordering point it commits at once; else its blocks are destaged first. -/
def execFlush (id : Nat) (s : State) : Host.Outcome State Fault Refusal :=
  .next (if !s.live then s
    else match rowCtx s id (fun o => o = .flush) with
      | none => s
      | some c =>
        if flushDone s c then progress (commitCtx id .success 0 0 s)
        else modCtx id (fun c => { c with started := true }) (destageFirst (c.covered.map (·.1)) s))

/-- FLUSH_COMMIT (R340): a waiting Flush commits when its blocks are on media and verified. -/
def execFlushCommit (id : Nat) (s : State) : Host.Outcome State Fault Refusal :=
  .next (if !s.live then s
    else match rowCtx s id (fun o => o = .flush) with
      | none => s
      | some c => if c.started && flushDone s c then progress (commitCtx id .success 0 0 s) else s)

/-! ## Completion (R336, R337) -/

/-- The bucket of LATENCY_HIST for a time in ns (R347). -/
def latencyBucket (ns : Nat) : Nat :=
  if ns < 1000000 then 0 else ((List.range 15).find? (fun k => 1 ≤ k && ns < 1000000 * 2 ^ k)).getD 15

/-- The latency of a read, on each actuator that it needed media of (R347), its own media read or one that it merged into. -/
def noteLatency (c : Ctx) (s : State) : State :=
  let b := latencyBucket (s.clock.ns - c.admittedNs)
  c.readOn.foldl (fun s n => { s with sched.latency := upd s.sched.latency n (fun v => updNat v b (· + 1)) }) s

/-- A read commits when its last data has been sent: its latency is noted (R347). -/
def commitRead (c : Ctx) (s : State) : State :=
  commitCtx c.id c.status 0 0 (noteLatency c s)

/-- A write commits: it takes effect, and a Zone Append reports its block in dwords 0 and 1 (R306, R337). -/
def commitWrite (c : Ctx) (s : State) : State :=
  let lba := if c.entry.op = IoOp.zoneAppend then c.start else 0
  commitCtx c.id .success (lba % 2 ^ 32) (lba / 2 ^ 32) (installWrite c s)

/-- COMPLETION_COMMIT (R337): a read or write at its completion commit point. -/
def execCompletionCommit (id : Nat) (s : State) : Host.Outcome State Fault Refusal :=
  .next (if !s.live then s
    else match rowCtx s id ioBlocks with
      | none => s
      | some c =>
        if c.entry.op = IoOp.read then
          if c.started && c.waiting = [] then progress (lookupWaiting (commitRead c s)) else s
        else if writeReady s c then progress (lookupWaiting (commitWrite c s))
        else s)

/-- The first completion committed for a queue, and the rest. -/
def takeCompletion (qid : Nat) : List Completion → Option (Completion × List Completion)
  | [] => none
  | c :: r => if c.cqid = qid then some (c, r) else (takeCompletion qid r).map (fun x => (x.1, c :: x.2))

/-- A queue has room for an entry. -/
def cqRoom (q : Port) (qid : Nat) : Bool := q.cqs.any (fun x => x.qid = qid && x.used + 1 < x.size)

/-- Deletions of submission queues whose commands have all been completed and posted complete (Table 11.4); none after a vault trigger
(spec 02, R71). -/
def finishDeletes (p : PortId) (s : State) : State :=
  if s.power.vault ≠ .none then s
  else
  let busy (qid : Nat) : Bool :=
    s.cmds.ctxs.any (fun c => c.port = p && c.sqid = qid) || (s.port p).committed.any (fun c => c.sqid = qid)
  s.modPort p (fun q => { q with
    committed := q.committed ++ (q.deleting.filter (fun x => !busy x.1)).map (fun x => plainCompletion x.2 .success)
    deleting := q.deleting.filter (fun x => busy x.1) })

/-- The INTx line of a port (R291): asserted while a completion queue whose interrupts are enabled holds an entry that the host has not
taken. Which of MSI-X and INTx is enabled stands in the PCIe configuration space, which no command writes (DEDUCED, log 29). -/
def intxLine (q : Port) : Bool := q.cqs.any (fun x => x.irq && decide (x.used ≠ 0))

/-- The message of a completion queue's vector, if the queue's interrupts are enabled (R291); while the vector is masked it is
pending. Coalescing delays none (DESIGN CHOICE, log 29). -/
def signalCq (qid : Nat) (q : Port) : Port :=
  match q.cqs.find? (fun x => x.qid = qid) with
  | none => q
  | some x =>
    if !x.irq then q
    else if q.masked64.getLsbD x.vector then { q with pending64 := q.pending64 ||| ((1 : BitVec 65) <<< x.vector) }
    else { q with msgs64 := q.msgs64 ++ [x.vector] }

/-- The Aborts of targets whose completion has been posted complete (R338); none after a vault trigger (spec 02, R71). -/
def postAborts (p : PortId) (ids : List Nat) (s : State) : State :=
  if s.power.vault ≠ .none then s
  else s.modPort p (fun q => { q with
    committed := q.committed ++ (q.abortDone.filter (fun x => ids.contains x.1)).map (fun x => plainCompletion x.2 .success)
    abortDone := q.abortDone.filter (fun x => !ids.contains x.1) })

/-- An entry is posted, and the command's context released (R337). -/
def postCompletion (p : PortId) (qid : Nat) (s : State) : State :=
  match takeCompletion qid (s.port p).committed with
  | none => s
  | some (c, rest) =>
    let s := s.modPort p (fun q => signalCq qid { q with
      committed := rest, posted := q.posted ++ [c]
      cqs := q.cqs.map (fun x => if x.qid = qid then { x with used := x.used + 1 } else x) })
    let mine := fun (x : Ctx) => x.port = p && x.committed && x.sqid = c.sqid && x.entry.cid = c.cid && c.sqid ≠ 0
    let ids := (s.cmds.ctxs.filter mine).map (·.id)
    finishDeletes p (postAborts p ids { s with cmds.ctxs := s.cmds.ctxs.filter (fun x => !mine x) })

/-- COMPLETION_POST (R337): with its queue full the entry waits. After a vault trigger entries already committed are posted while the
link is up (spec 02, R73; Table 11.4). -/
def execCompletionPost (p : PortId) (qid : Nat) (s : State) : Host.Outcome State Fault Refusal :=
  .next (if !s.power.running || s.power.dead || s.power.straps.testMode || (s.port p).link.isNone || !cqRoom (s.port p) qid then s
    else
      let s := postCompletion p qid s
      if s.live then progress s else s)

/-- UNSUPPORTED_IO_OPCODE (R295): Invalid Command Opcode. -/
def execUnsupportedIoOpcode (id : Nat) (s : State) : Host.Outcome State Fault Refusal :=
  .next (if !s.live then s
    else match rowCtx s id (fun o => match o with | .unsupported _ => true | _ => false) with
      | none => s
      | some c => progress (refuseCtx c .invalidOpcode s))

/-! ## Idle unload and allocation waits -/

/-- The drive applies PS1: no enabled controller is in PS0 (R309). -/
def inPs1 (s : State) : Bool := allPorts.all (fun p => !(s.port p).en || (s.port p).feat.ps ≠ 0)

/-- A channel has no media work. -/
def chanIdle (s : State) (n : ChanId) : Bool :=
  s.sched.placed[n].isNone && queuedOn s n = [] && (s.rwc n).op.isNone && (s.rwc n).ladders = [] && (s.wr n).run.isNone
    && (s.wr n).pendingExc = []

/-- UNLOAD_IDLE_EXPIRED (R309): in PS1 an actuator with no media command for UNLOAD_IDLE unloads. -/
def execUnloadIdleExpired (n : ChanId) (s : State) : Host.Outcome State Fault Refusal :=
  .next (if s.live && s.power.phase = .ready && inPs1 s && (s.chan n).load = .loaded && chanIdle s n then unloadChans [n] s else s)

/-- ALLOC_WAIT_EXPIRED (R377): the oldest pause of the 12-way limit on a set has waited ALLOC_WAIT: from now on, at the first instant at
which the set holds no DIRTY line, its oldest SHADOW line is released to CLEAN. -/
def execAllocWaitExpired (q : Fin 6400) (s : State) : Host.Outcome State Fault Refusal :=
  .next (match s.cache.pauses.find? (fun p => p.set = q.val && p.twelve && !p.expired) with
    | none => s
    | some p =>
      if s.live then progress { s with cache.pauses := s.cache.pauses.map (fun y => if y = p then { y with expired := true } else y) } else s)

end Sys2Proof.Machine
end

