-- ==== Sys2Proof/Machine/Reservations.lean ====
section
/-! DEFINITION. Reservations (spec 10, R308). The rules of registration, acquisition and release that the manual leaves to NVMe Base 2.0
are taken from there (PRESUMED, log 18). -/

namespace Sys2Proof.Machine

/-! ## Registrants -/

/-- The key of a host that is a registrant. -/
def keyOf (r : Reservation) (h : BitVec 128 × PortId) : Option Word64 :=
  (r.registrants.find? (fun x => sameHost (x.1, x.2.1) h)).map (·.2.2)

/-- A host is no longer a registrant. -/
def unregister (h : BitVec 128 × PortId) (r : Reservation) : Reservation :=
  { r with registrants := r.registrants.filter (fun x => !sameHost (x.1, x.2.1) h) }

/-- Reservation types of all registrants (5 and 6) and of registrants only (3 and 4). -/
def allRegistrants (r : Reservation) : Bool := r.holder.any (fun x => 5 ≤ x.2)

/-- The reservation of a namespace replaced. -/
def setReservation (nsid : Nat) (r : Reservation) (s : State) : State := modNs nsid (fun n => { n with res := r }) s

/-- A reservation notification on the ports of a host: kind 1 registration preempted, 2 reservation released, 3 reservation preempted,
unless its mask bit is set (R301, Table 10.6). -/
def notify (nsid kind : Nat) (who : BitVec 128 × PortId → Bool) (s : State) : State :=
  allPorts.foldl (fun s p =>
    let m := ((assocGet nsid (s.port p).feat.resMask).getD 0).toNat
    if who (hostOf s p) && !bitOf m kind then
      s.modPort p (fun q => postAen ⟨6, 0x00, 0x80⟩ { q with resLog := q.resLog ++ [(kind, nsid)], resCount := q.resCount + 1 })
    else s) s

/-! ## Register -/

/-- Reservation Register: a status, and the reservation after it. -/
def registerRes (r : Reservation) (h : BitVec 128 × PortId) (e : SqEntry) : Status × Reservation :=
  let r := if e.cptpl = 2 then { r with ptpl := false } else if e.cptpl = 3 then { r with ptpl := true } else r
  let up := fun (r : Reservation) => { r with generation := r.generation + 1 }
  let add := fun (_ : Unit) =>
    if 32 ≤ r.registrants.length then (Status.capacityExceeded, r)
    else (Status.success, up { r with registrants := r.registrants ++ [(h.1, h.2, e.nrkey)] })
  let replace := { r with registrants := r.registrants.map (fun x => if sameHost (x.1, x.2.1) h then (x.1, x.2.1, e.nrkey) else x) }
  if e.cptpl = 1 then (.invalidField, r)
  else if e.resAction = 0 then
    match keyOf r h with
    | none => add ()
    | some k => if k = e.nrkey then (.success, r) else (.reservationConflict, r)
  else if e.resAction = 1 then
    match keyOf r h with
    | none => (.reservationConflict, r)
    | some k =>
      if k ≠ e.crkey && !e.iekey then (.reservationConflict, r)
      else
        let held := holds r h
        let r := unregister h r
        let gone := if allRegistrants r then r.registrants = [] else held
        (.success, up (if gone then { r with holder := none } else r))
  else if e.resAction = 2 then
    match keyOf r h with
    | none => if e.iekey then add () else (.reservationConflict, r)
    | some k => if k ≠ e.crkey && !e.iekey then (.reservationConflict, r) else (.success, up replace)
  else (.invalidField, r)

/-! ## Acquire -/

/-- The hosts whose key is `key`, other than the acting host; with key 0 every other registrant. -/
def preempted (r : Reservation) (h : BitVec 128 × PortId) (key : Word64) : List (BitVec 128 × PortId) :=
  (r.registrants.filter (fun x => !sameHost (x.1, x.2.1) h && (key = 0 || x.2.2 = key))).map (fun x => (x.1, x.2.1))

/-- Hosts removed from the registrants. -/
def unregisterAll (l : List (BitVec 128 × PortId)) (r : Reservation) : Reservation := l.foldl (fun r h => unregister h r) r

/-- A preemption: its status, the reservation after it and the hosts preempted. -/
def preempt (r : Reservation) (h : BitVec 128 × PortId) (e : SqEntry) : Status × Reservation × List (BitVec 128 × PortId) :=
  let gone := preempted r h e.nrkey
  let up := fun (r : Reservation) => { r with generation := r.generation + 1 }
  let take := up { unregisterAll gone r with holder := some (h.1, e.rtype.toNat) }
  let holderKey := (r.registrants.find? (fun x => r.holder.any (fun y => y.1 = x.1))).map (·.2.2)
  if allRegistrants r && e.nrkey = 0 then (.success, take, gone)
  else if e.nrkey = 0 then (.invalidField, r, [])
  else if !allRegistrants r && r.holder.isSome && holderKey = some e.nrkey then (.success, take, gone)
  else if gone = [] then (.reservationConflict, r, [])
  else (.success, up (unregisterAll gone r), gone)

/-- Reservation Acquire. -/
def acquireRes (r : Reservation) (h : BitVec 128 × PortId) (e : SqEntry) : Status × Reservation × List (BitVec 128 × PortId) :=
  if keyOf r h ≠ some e.crkey then (.reservationConflict, r, [])
  else if e.rtype.toNat < 1 || 6 < e.rtype.toNat then (.invalidField, r, [])
  else if e.resAction = 0 then
    match r.holder with
    | none => (.success, { r with holder := some (h.1, e.rtype.toNat) }, [])
    | some (_, t) => if holds r h && t = e.rtype.toNat then (.success, r, []) else (.reservationConflict, r, [])
  else if e.resAction = 1 || e.resAction = 2 then preempt r h e
  else (.invalidField, r, [])

/-! ## Release -/

/-- Reservation Release: its status, the reservation after it, and the kind of notification it causes. -/
def releaseRes (r : Reservation) (h : BitVec 128 × PortId) (e : SqEntry) : Status × Reservation × Nat :=
  if keyOf r h ≠ some e.crkey then (.reservationConflict, r, 0)
  else if e.resAction = 0 then
    if !holds r h then (.success, r, 0)
    else if r.holder.any (fun x => x.2 ≠ e.rtype.toNat) then (.invalidField, r, 0)
    else (.success, { r with holder := none }, if r.holder.any (fun x => 3 ≤ x.2) then 2 else 0)
  else if e.resAction = 1 then (.success, { r with holder := none, registrants := [], generation := r.generation + 1 }, 3)
  else (.invalidField, r, 0)

/-! ## Rows -/

/-- A reservation command completes. -/
def endReservation (c : Ctx) (st : Status) (s : State) : State :=
  progress (if st = .success then commitCtx c.id .success 0 0 s else refuseCtx c st s)

/-- A reservation row: the context, its namespace, and what the row does with them. -/
def onReservation (op : IoOp) (id : Nat) (f : Ctx → Namespace → State → State) (s : State) : State :=
  if !s.live then s
  else match rowCtx s id (fun o => o = op) with
    | none => s
    | some c => match findNs s c.ns with | none => s | some n => f c n s

/-- RESERVATION_REGISTER: at most 32 registrants (R308). -/
def execReservationRegister (id : Nat) (s : State) : Host.Outcome State Fault Refusal :=
  .next (onReservation .resRegister id (fun c n s =>
    let h := hostOf s c.port
    let x := registerRes n.res h c.entry
    let released := n.res.holder.isSome && x.2.holder.isNone && n.res.holder.any (fun y => 3 ≤ y.2)
    let s := if x.1 = .success then setReservation n.nsid x.2 s else s
    let s := if released then notify n.nsid 2 (fun y => registered x.2 y) s else s
    endReservation c x.1 s) s)

/-- The commands of the preempted hosts on a namespace ended under the abort rules (R308; Table 11.4). -/
def abortHosts (nsid : Nat) (l : List (BitVec 128 × PortId)) (except : Nat) (s : State) : State :=
  (s.cmds.ctxs.filter (fun c => c.id ≠ except && c.ns = nsid && !c.committed && !c.unabortable s && l.any (fun h => sameHost h (hostOf s c.port)))).reverse.foldl
    (fun s c => match ctxOf s c.id with | none => s | some c => if c.committed then s else endUnacked c .abortRequested s) s

/-- RESERVATION_ACQUIRE: Acquire, Preempt, and Preempt and Abort (R308). -/
def execReservationAcquire (id : Nat) (s : State) : Host.Outcome State Fault Refusal :=
  .next (onReservation .resAcquire id (fun c n s =>
    let x := acquireRes n.res (hostOf s c.port) c.entry
    let s := if x.1 = .success then setReservation n.nsid x.2.1 s else s
    let s := notify n.nsid 1 (fun y => x.2.2.any (fun g => sameHost g y)) s
    let s := if c.entry.resAction = 2 then abortHosts n.nsid x.2.2 c.id s else s
    endReservation c x.1 s) s)

/-- RESERVATION_RELEASE: Release and Clear (R308). -/
def execReservationRelease (id : Nat) (s : State) : Host.Outcome State Fault Refusal :=
  .next (onReservation .resRelease id (fun c n s =>
    let h := hostOf s c.port
    let x := releaseRes n.res h c.entry
    let s := if x.1 = .success then setReservation n.nsid x.2.1 s else s
    let s := if x.2.2 = 0 then s else notify n.nsid x.2.2 (fun y => registered n.res y && !sameHost y h) s
    endReservation c x.1 s) s)

/-- The report of a namespace's reservation (the layout is that of NVMe Base 2.0, PRESUMED, log 18): generation, type, registrants and
PTPL, then 24 bytes for each registrant. -/
def reservationReport (r : Reservation) : List Byte :=
  leBytes 4 r.generation ++ leBytes 1 (r.holder.elim 0 (·.2)) ++ leBytes 2 r.registrants.length ++ leBytes 2 0
    ++ leBytes 1 (b2n r.ptpl) ++ List.replicate 14 0
    ++ (r.registrants.map (fun x =>
        leBytes 2 (x.2.1.val + 1) ++ leBytes 1 (b2n (holds r (x.1, x.2.1))) ++ List.replicate 5 0 ++ leBytes 8 x.1.toNat ++ leBytes 8 x.2.2.toNat)).flatten

/-- RESERVATION_REPORT. -/
def execReservationReport (id : Nat) (s : State) : Host.Outcome State Fault Refusal :=
  .next (onReservation .resReport id (fun c n s =>
    endReservation c .success (modCtx id (fun c => { c with result := .bytes (reservationReport n.res) }) s)) s)

end Sys2Proof.Machine
end

