-- ==== Sys2Proof/Machine/Admin.lean ====
section
/-! DEFINITION. Admin commands of the controllers (spec 10, R294 to R301; spec 11, R338): queues, Identify, log pages, features, Abort and
asynchronous events. -/

namespace Sys2Proof.Machine

/-- The end of a command that returns data, or is refused (with an event, R503). -/
def adminAnswer (a : AdminHdr) (opcode nsid cdw10 : Nat) (r : Except Status (Nat × CplData)) (s : State) : State :=
  match r with | .error st => adminRefused a opcode nsid cdw10 st s | .ok x => adminDone a .success x.1 x.2 s

/-! ## Queues (R294; Table 11.4) -/

/-- What Create I/O Completion Queue breaks (R291, R294, R503). -/
def createCqStatus (q : Port) (qid size vector : Nat) (contiguous : Bool) : Option Status :=
  if qid = 0 || 64 < qid || q.cqs.any (fun x => x.qid = qid) then some .invalidQid
  else if size < 2 || 4096 < size then some .invalidQueueSize
  else if !contiguous then some .invalidField
  else if 64 < vector then some .invalidVector
  else none

/-- What Create I/O Submission Queue breaks (R294, R503). -/
def createSqStatus (q : Port) (qid size cqid : Nat) (contiguous : Bool) : Option Status :=
  if cqid = 0 || 64 < cqid then some .invalidQid
  else if !q.cqs.any (fun x => x.qid = cqid) then some .cqInvalid
  else if qid = 0 || 64 < qid || q.sqs.any (fun x => x.qid = qid) || q.deleting.any (fun x => x.1 = qid) then some .invalidQid
  else if size < 2 || 4096 < size then some .invalidQueueSize
  else if !contiguous then some .invalidField
  else none

/-- A command that a status refuses (with an event, R503), or that takes effect. -/
def adminUnless (a : AdminHdr) (opcode nsid cdw10 : Nat) (st : Option Status) (f : State → State) (s : State) : State :=
  match st with
  | some st => adminRefused a opcode nsid cdw10 st s
  | none => adminDone a .success 0 .none (f s)

/-- CREATE_IO_CQ. -/
def execCreateIoCq (a : AdminHdr) (qid size vector : Nat) (contiguous irqEnable : Bool) (s : State) : Host.Outcome State Fault Refusal :=
  .next (adminExec a false (fun s =>
    adminUnless a 0x05 0 (qid + (size - 1) * 65536) (createCqStatus (s.port a.port) qid size vector contiguous)
      (fun s => s.modPort a.port (fun q => { q with cqs := q.cqs ++ [⟨qid, size, 0, 0, vector, irqEnable⟩] })) s) s)

/-- CREATE_IO_SQ. -/
def execCreateIoSq (a : AdminHdr) (qid size cqid : Nat) (contiguous : Bool) (s : State) : Host.Outcome State Fault Refusal :=
  .next (adminExec a false (fun s =>
    adminUnless a 0x01 0 (qid + (size - 1) * 65536) (createSqStatus (s.port a.port) qid size cqid contiguous)
      (fun s => s.modPort a.port (fun q => { q with sqs := q.sqs ++ [⟨qid, size, 0, 0, cqid⟩] })) s) s)

/-- The uncommitted commands of a queue end with a status; a write with a sector on media runs to its end (Table 11.4). -/
def endQueue (p : PortId) (qid : Nat) (s : State) : State :=
  (s.cmds.ctxs.filter (fun c => c.port = p && c.sqid = qid && !c.committed && !c.unabortable s)).reverse.foldl (fun s c =>
    match ctxOf s c.id with | none => s | some c => if c.committed then s else endUnacked c .sqDeletion s) s

/-- A submission queue deleted: the deletion completes once every command of the queue has been completed and posted. -/
def deleteSq (a : AdminHdr) (qid : Nat) (s : State) : State :=
  let s := s.modPort a.port (fun q => { q with sqs := q.sqs.filter (fun x => x.qid ≠ qid), deleting := q.deleting ++ [(qid, a.cid)] })
  progress (finishDeletes a.port (endQueue a.port qid s))

/-- DELETE_IO_SQ (Table 11.4). -/
def execDeleteIoSq (a : AdminHdr) (qid : Nat) (s : State) : Host.Outcome State Fault Refusal :=
  .next (adminExec a false (fun s =>
    if qid = 0 || !(s.port a.port).sqs.any (fun x => x.qid = qid) then adminRefused a 0x00 0 qid .invalidQid s else deleteSq a qid s) s)

/-- DELETE_IO_CQ: refused while a submission queue uses it (R503). -/
def execDeleteIoCq (a : AdminHdr) (qid : Nat) (s : State) : Host.Outcome State Fault Refusal :=
  .next (adminExec a false (fun s =>
    let q := s.port a.port
    adminUnless a 0x04 0 qid
      (if qid = 0 || !q.cqs.any (fun x => x.qid = qid) then some .invalidQid
       else if q.sqs.any (fun x => x.cqid = qid) || q.deleting ≠ [] then some .invalidQueueDeletion else none)
      (fun s => s.modPort a.port (fun q => { q with cqs := q.cqs.filter (fun x => x.qid ≠ qid) })) s) s)

/-! ## Identify and log pages -/

/-- IDENTIFY (R293, R303), also in RECOVERY (spec 03, R83). -/
def execIdentify (a : AdminHdr) (cns : Byte) (nsid : Word32) (csi : Byte) (cntid : Word16) (s : State) : Host.Outcome State Fault Refusal :=
  .next (adminExec a true (fun s =>
    adminAnswer a 0x06 nsid.toNat (cns.toNat + cntid.toNat * 65536) ((identifyData s a.port cns.toNat nsid.toNat csi.toNat cntid.toNat).map (fun v => (0, .bytes v))) s) s)

/-- The events that wait and whose log page is not awaited complete the requests held (R301). -/
def pumpAen (q : Port) : Port :=
  q.events.foldl (fun q e =>
    if q.aers = [] || (e.kind ≠ 1 && q.masked.contains e.page) then q else postAen e { q with events := q.events.erase e }) q

/-- What a Get Log Page breaks: a SMART page of one namespace (R297), an offset or a length outside the page or above MDTS. -/
def logStatus (lid nsid offset length size : Nat) : Option Status :=
  if lid = 0x02 && nsid ≠ 0 && nsid ≠ 0xFFFFFFFF then some .invalidField
  else if offset % 4 ≠ 0 || size < offset || 1048576 < length then some .invalidField
  else none

/-- The answer to a Get Log Page. -/
def getLog (a : AdminHdr) (lid : Nat) (rae : Bool) (nsid offset length : Nat) (s : State) : State :=
  let r := logPage s a.port lid
  let cdw10 := lid + b2n rae * 32768 + (length / 4 - 1) % 65536 * 65536
  match r.1 with
  | none => adminRefused a 0x02 nsid cdw10 .invalidLogPage s
  | some v =>
    match logStatus lid nsid offset length v.length with
    | some st => adminRefused a 0x02 nsid cdw10 st s
    | none =>
      let t := adminDone a .success 0 (.bytes ((v.drop offset).take length)) r.2
      if rae then t else (clearLog a.port lid t).modPort a.port pumpAen

/-- GET_LOG_PAGE (R297, R346), also in RECOVERY (spec 03, R83). Bytes beyond the page are not written. -/
def execGetLogPage (a : AdminHdr) (lid : Byte) (rae : Bool) (nsid : Word32) (offset length : Nat) (s : State) :
    Host.Outcome State Fault Refusal :=
  .next (adminExec a true (getLog a lid.toNat rae nsid.toNat offset length) s)

/-! ## Abort and asynchronous events -/

/-- An Abort counted: aborted or not. -/
def countAbort (done : Bool) (s : State) : State :=
  if done then { s with cmds.abortsDone := s.cmds.abortsDone + 1 } else { s with cmds.abortsRefused := s.cmds.abortsRefused + 1 }

/-- The admin commands of a port that are open and whose effect has begun: a commit that swaps, an activation, a queue deletion, an Abort
whose target is aborted. They are not aborted (DESIGN CHOICE, log 30: the rule names writes on media only). -/
def begunAdmin (s : State) (p : PortId) : List Word16 :=
  (match s.dict.waiter with | some (.command a) => if a.port = p then [a.cid] else [] | _ => [])
    ++ (match s.fw.asker with | some a => if a.port = p then [a.cid] else [] | none => [])
    ++ (s.port p).deleting.map (·.2) ++ (s.port p).abortDone.map (·.2)

/-- The Abort of an admin command (R338): an Asynchronous Event Request that is held, or an Abort that waits for its target, is aborted; one
whose effect has begun runs on, and the Abort completes after it. -/
def abortAer (a : AdminHdr) (target : Word16) (s : State) : State :=
  if (s.port a.port).abortWait.any (fun x => x.2 = target) then
    let s := s.modPort a.port (fun q => { q with abortWait := q.abortWait.filter (fun x => x.2 ≠ target) })
    adminDone a .success 0 .none (adminDone ⟨a.port, target⟩ .abortRequested 0 .none (countAbort true s))
  else if (begunAdmin s a.port).contains target then
    (countAbort false s).modPort a.port (fun q => { q with abortAdmin := q.abortAdmin ++ [(target, a.cid)] })
  else if (s.port a.port).aers.contains target then
    let s := s.modPort a.port (fun q => { q with aers := q.aers.filter (· ≠ target) })
    adminDone a .success 0 .none (adminDone ⟨a.port, target⟩ .abortRequested 0 .none (countAbort true s))
  else adminDone a .success 1 .none (countAbort false s)

/-- The Abort of an I/O command (R338): its completion comes after the target's is posted, or after the target's commit. -/
def abortIo (a : AdminHdr) (sqid : Nat) (target : Word16) (s : State) : State :=
  match s.cmds.ctxs.find? (fun c => c.port = a.port && c.sqid = sqid && c.entry.cid = target && !c.silent) with
  | none => adminDone a .success 1 .none (countAbort false s)
  | some c =>
    if c.committed then adminDone a .success 1 .none (countAbort false s)
    else if c.unabortable s then
      (countAbort false s).modPort a.port (fun q => { q with abortWait := q.abortWait ++ [(c.id, a.cid)] })
    else progress ((endUnacked c .abortRequested (countAbort true s)).modPort a.port
      (fun q => { q with abortDone := q.abortDone ++ [(c.id, a.cid)] }))

/-- ABORT (R338): at most 8 at a time (ACL). -/
def execAbort (a : AdminHdr) (sqid : Nat) (target : Word16) (s : State) : Host.Outcome State Fault Refusal :=
  .next (adminExec a false (fun s =>
    if 8 ≤ (s.port a.port).abortWait.length + (s.port a.port).abortDone.length + (s.port a.port).abortAdmin.length then adminRefused a 0x08 0 (sqid + target.toNat * 65536) .abortLimit s
    else if sqid = 0 then abortAer a target s else abortIo a sqid target s) s)

/-- ASYNC_EVENT_REQUEST (R301, R503): at most four are held. -/
def execAsyncEventRequest (a : AdminHdr) (s : State) : Host.Outcome State Fault Refusal :=
  .next (adminExec a false (fun s =>
    if 4 ≤ (s.port a.port).aers.length then adminRefused a 0x0C 0 0 .aerLimit s
    else s.modPort a.port (fun q => pumpAen { q with aers := q.aers ++ [a.cid] })) s)

/-! ## Features (R296) -/

/-- GET_FEATURES: the current value; Select is not supported and ignored (log 31). -/
def execGetFeatures (a : AdminHdr) (fid : Byte) (x : FeatureDwords) (nsid : Word32) (s : State) : Host.Outcome State Fault Refusal :=
  .next (adminExec a false (fun s => adminAnswer a 0x0A nsid.toNat fid.toNat (featureValue s a.port fid.toNat nsid.toNat x.cdw11.toNat) s) s)

/-- A Set Features of identifier `fid`: the Save bit is refused (R294); a value may break a rule (with an event, R503); else it takes effect,
with completion dword 0. -/
def setFeature (a : AdminHdr) (fid nsid : Nat) (save : Bool) (st : State → Option Status) (dw0 : Nat) (f : State → State) (s : State) :
    State :=
  adminExec a false (fun s =>
    match if save then some .notSaveable else st s with
    | some st => adminRefused a 0x09 nsid (fid + b2n save * 2 ^ 31) st s
    | none => f (adminDone a .success dw0 .none s)) s

/-- The features of a port replaced by their image. -/
def modFeat (p : PortId) (f : Features → Features) (s : State) : State := s.modPort p (fun q => { q with feat := f q.feat })

/-- SET_FEAT_ARBITRATION. -/
def execSetFeatArbitration (a : AdminHdr) (save : Bool) (v : Word32) (s : State) : Host.Outcome State Fault Refusal :=
  .next (setFeature a 0x01 0 save (fun _ => none) 0 (modFeat a.port (fun f => { f with arbitration := v })) s)

/-- A controller in a power state (R309, R310). -/
def enterPs (p : PortId) (k : Nat) (s : State) : State :=
  progress (powerStates (modFeat p (fun f => { f with ps := k, lastOp := if k = 2 then f.lastOp else k }) s))

/-- SET_FEAT_POWER_MANAGEMENT (R309, R310). -/
def execSetFeatPowerManagement (a : AdminHdr) (save : Bool) (v : Word32) (s : State) : Host.Outcome State Fault Refusal :=
  let k := bitsOf v.toNat 0 5
  .next (setFeature a 0x02 0 save (fun _ => if 2 < k then some .invalidField else none) 0 (enterPs a.port k) s)

/-- SET_FEAT_TEMPERATURE_THRESHOLD: the composite temperature only. -/
def execSetFeatTemperatureThreshold (a : AdminHdr) (save : Bool) (v : Word32) (s : State) : Host.Outcome State Fault Refusal :=
  let t := bitsOf v.toNat 0 16
  let sel := bitsOf v.toNat 20 2
  .next (setFeature a 0x04 0 save (fun _ => if bitsOf v.toNat 16 4 ≠ 0 || 1 < sel then some .invalidField else none) 0
    (fun s => noteWarning (modFeat a.port (fun f => if sel = 0 then { f with overTh := some t } else { f with underTh := some t }) s)) s)

/-- The namespaces that a feature of namespace scope names: one that is attached to the controller, or with 0xFFFFFFFF every such one. -/
def featureNs (s : State) (p : PortId) (nsid : Nat) : List Nat :=
  if nsid = 0xFFFFFFFF then ((shownNs s).filter (fun n => n.attached p)).map (·.nsid)
  else ((attachedNs s p nsid).map (fun n => [n.nsid])).getD []

/-- A feature of namespace scope names no namespace (R307). -/
def featureNsStatus (s : State) (p : PortId) (nsid : Nat) : Option Status :=
  if nsid ≠ 0xFFFFFFFF && (attachedNs s p nsid).isNone then some .invalidNs else none

/-- SET_FEAT_ERROR_RECOVERY (R300): TLER; DULBE is not supported. -/
def execSetFeatErrorRecovery (a : AdminHdr) (save : Bool) (nsid v : Word32) (s : State) : Host.Outcome State Fault Refusal :=
  .next (setFeature a 0x05 nsid.toNat save
    (fun s => (featureNsStatus s a.port nsid.toNat).orElse (fun _ => if v.getLsbD 16 then some .invalidField else none)) 0
    (fun s => modFeat a.port (fun f =>
      { f with tler := (featureNs s a.port nsid.toNat).foldl (fun l n => assocSet n (bitsOf v.toNat 0 16) l) f.tler }) s) s)

/-- SET_FEAT_VOLATILE_WRITE_CACHE: WCE requests WRITE_BACK or WRITE_THROUGH for both controllers. -/
def execSetFeatVolatileWriteCache (a : AdminHdr) (save : Bool) (v : Word32) (s : State) : Host.Outcome State Fault Refusal :=
  .next (setFeature a 0x06 0 save (fun _ => none) 0
    (fun s => progress (requestMode (if v.getLsbD 0 then .writeBack else .writeThrough) s)) s)

/-- SET_FEAT_NUMBER_OF_QUEUES: 64 and 64 are granted; once I/O queues exist it is out of sequence, and 65,535 is no count (R503). -/
def execSetFeatNumberOfQueues (a : AdminHdr) (save : Bool) (v : Word32) (s : State) : Host.Outcome State Fault Refusal :=
  .next (setFeature a 0x07 0 save
    (fun s =>
      if (s.port a.port).sqs.any (fun x => x.qid ≠ 0) || (s.port a.port).cqs.any (fun x => x.qid ≠ 0) then some .cmdSequence
      else if bitsOf v.toNat 0 16 = 65535 || bitsOf v.toNat 16 16 = 65535 then some .invalidField else none)
    (queuesGranted (s.port a.port).feat) id s)

/-- SET_FEAT_INTERRUPT_COALESCING. -/
def execSetFeatInterruptCoalescing (a : AdminHdr) (save : Bool) (v : Word32) (s : State) : Host.Outcome State Fault Refusal :=
  .next (setFeature a 0x08 0 save (fun _ => none) 0 (modFeat a.port (fun f => { f with coalescing := v &&& 0xFFFF })) s)

/-- SET_FEAT_INTERRUPT_VECTOR_CONFIG: a vector of the NVMe completion queues (R291), and whether coalescing is disabled on it. -/
def execSetFeatInterruptVectorConfig (a : AdminHdr) (save : Bool) (v : Word32) (s : State) : Host.Outcome State Fault Refusal :=
  let i := bitsOf v.toNat 0 16
  .next (setFeature a 0x09 0 save (fun _ => if 64 < i then some .invalidField else none) 0
    (modFeat a.port (fun f => { f with vectorConfig := assocSet i (v.getLsbD 16) f.vectorConfig })) s)

/-- SET_FEAT_WRITE_ATOMICITY: accepted, without effect on atomicity. -/
def execSetFeatWriteAtomicity (a : AdminHdr) (save : Bool) (v : Word32) (s : State) : Host.Outcome State Fault Refusal :=
  .next (setFeature a 0x0A 0 save (fun _ => none) 0 (modFeat a.port (fun f => { f with atomicity := v })) s)

/-- SET_FEAT_ASYNC_EVENT_CONFIG. -/
def execSetFeatAsyncEventConfig (a : AdminHdr) (save : Bool) (v : Word32) (s : State) : Host.Outcome State Fault Refusal :=
  .next (setFeature a 0x0B 0 save (fun _ => none) 0 (modFeat a.port (fun f => { f with asyncConfig := v })) s)

/-- SET_FEAT_TIMESTAMP (spec 17, R492): set, with an event; its origin is a Set Features (attributes byte 0x02, PRESUMED, log 5). -/
def execSetFeatTimestamp (a : AdminHdr) (save : Bool) (ms : BitVec 48) (s : State) : Host.Outcome State Fault Refusal :=
  .next (setFeature a 0x0E 0 save (fun _ => none) 0 (fun s =>
    raise (event 0x1002 0 a.port.val 0 (ms.toNat + 2 * 2 ^ 48))
      (modFeat a.port (fun f => { f with timestamp := ms, timestampAttr := 2, timestampAt := s.clock.ns }) s)) s)

/-- SET_FEAT_HOST_BEHAVIOR_SUPPORT (spec 03, R97): ACRE; the other fields are ignored. -/
def execSetFeatHostBehaviorSupport (a : AdminHdr) (save : Bool) (acre : Bool) (s : State) : Host.Outcome State Fault Refusal :=
  .next (setFeature a 0x16 0 save (fun _ => none) 0 (modFeat a.port (fun f => { f with acre := acre })) s)

/-- SET_FEAT_SOFTWARE_PROGRESS_MARKER. -/
def execSetFeatSoftwareProgressMarker (a : AdminHdr) (save : Bool) (v : Word32) (s : State) : Host.Outcome State Fault Refusal :=
  .next (setFeature a 0x80 0 save (fun _ => none) 0 (modFeat a.port (fun f => { f with marker := v &&& 0xFF })) s)

/-- SET_FEAT_HOST_IDENTIFIER: 64-bit, zero-extended, or 128-bit (EXHID). -/
def execSetFeatHostIdentifier (a : AdminHdr) (save exhid : Bool) (v : BitVec 128) (s : State) : Host.Outcome State Fault Refusal :=
  .next (setFeature a 0x81 0 save (fun _ => none) 0
    (modFeat a.port (fun f => { f with exhid := exhid, hostId := if exhid then v else (v.truncate 64 : Word64).zeroExtend 128 })) s)

/-- SET_FEAT_RESERVATION_NOTIF_MASK. -/
def execSetFeatReservationNotifMask (a : AdminHdr) (save : Bool) (nsid v : Word32) (s : State) : Host.Outcome State Fault Refusal :=
  .next (setFeature a 0x82 nsid.toNat save (fun s => featureNsStatus s a.port nsid.toNat) 0
    (fun s => modFeat a.port (fun f =>
      { f with resMask := (featureNs s a.port nsid.toNat).foldl (fun l n => assocSet n v l) f.resMask }) s) s)

/-- SET_FEAT_RESERVATION_PERSISTENCE: PTPL of a namespace. -/
def execSetFeatReservationPersistence (a : AdminHdr) (save : Bool) (nsid v : Word32) (s : State) : Host.Outcome State Fault Refusal :=
  .next (setFeature a 0x83 nsid.toNat save (fun s => featureNsStatus s a.port nsid.toNat) 0
    (fun s => (featureNs s a.port nsid.toNat).foldl (fun s n =>
      modNs n (fun x => { x with res := { x.res with ptpl := v.getLsbD 0 } }) s) s) s)

/-- SET_FEAT_UNSUPPORTED (R296): any other identifier completes with Invalid Field in Command. -/
def execSetFeatUnsupported (a : AdminHdr) (fid : Byte) (save : Bool) (_v : Word32) (s : State) : Host.Outcome State Fault Refusal :=
  .next (adminExec a false (adminRefused a 0x09 0 (fid.toNat + b2n save * 2 ^ 31) .invalidField) s)

/-- UNSUPPORTED_ADMIN_OPCODE (R294): Invalid Command Opcode, with no side effect. -/
def execUnsupportedAdminOpcode (a : AdminHdr) (opcode : Byte) (nsid cdw10 : Word32) (s : State) : Host.Outcome State Fault Refusal :=
  .next (adminExec a true (adminRefused a opcode.toNat nsid.toNat cdw10.toNat .invalidOpcode) s)

end Sys2Proof.Machine
end

