-- ==== Sys2Proof/Machine/Bar2.lean ====
section
/-! DEFINITION. The vendor block (spec 10, R314 to R318): its registers as read, and the writes of STATUS, INT_ENABLE and EVT_BASE, the
read of TICK_LO and the interrupt vector. -/

namespace Sys2Proof.Machine

/-! ## The map as read (Table 10.10) -/

/-- The code of a tick state (Table 10.14). -/
def TickState.code : TickState → Nat
  | .stopped => 0 | .acquire => 1 | .locked => 2 | .substitute => 3 | .holdover => 4

/-- VB_ID (Table 10.11). -/
def vbId (s : State) (p : PortId) : Nat :=
  0x42 * 2 ^ 24 + 0 * 2 ^ 16 + b2n s.power.crx4 * 2 ^ 11 + b2n s.power.straps.portMode * 2 ^ 10
    + b2n (pathState s (pathOf p)).priv * 2 ^ 9 + p.val * 2 ^ 8 + 0x01

/-- THERMAL (Table 10.13). -/
def thermalReg (s : State) : Nat :=
  (sensorTemp s (hdaRef s) % 65536).toNat * 65536 + b2n s.env.winOpen * 256 + s.env.stepNow

/-- TICK_STATE (Table 10.14). -/
def tickStateReg (s : State) : Nat := s.tick.state.code * 2 ^ 29 + s.tick.refAct.val * 2 ^ 26 + s.tick.number

/-- TICK_PERIOD: the tick period in force, ps. -/
def tickPeriodReg (s : State) : Nat := s.tick.revNs * 1000 / wedges s

/-- ACT_STATE. -/
def actState (s : State) : Nat :=
  maskOf 8 (fun i => s.faults.retiredChannels.getLsbD i) * 2 ^ 24 + maskOf 8 (fun i => allChans.any (fun n => n.val = i && (s.chan n).load = .loaded)) * 2 ^ 16
    + maskOf 8 (fun i => allChans.any (fun n => n.val = i && writePermission s n)) * 2 ^ 8 + cfg s 0x3000 2 % 256

/-- CACHE_STATE. -/
def cacheStateReg (s : State) : Nat :=
  s.cache.mode.code * 2 ^ 30 + b2n s.power.holdupPassed * 2 ^ 29 + min 65535 (countLines s .dirty)

/-- PRIV_INFO (Table 10.16). -/
def privInfo (s : State) : Nat :=
  (match s.mgmt.lock with | none => 0 | some (q, _) => pathCode q * 512 + 256) + maskOf 3 (fun i => (s.mgmt.paths.toList.map (·.priv)).getD i false)

/-- MB_RESULT. -/
def mbResult (q : Port) : Nat := match q.mbResp with | none => 0 | some b => 2 ^ 31 + b.length

/-- The 4-byte register at an offset of BAR2 below 0x1000 (Table 10.10). -/
def bar2Reg (s : State) (p : PortId) (off : Nat) : Nat :=
  let q := s.port p
  match off with
  | 0x0000 => vbId s p
  | 0x0004 => q.status.toNat
  | 0x0008 => q.intEnable.toNat
  | 0x000C => (intCause q).toNat
  | 0x0010 => s.power.fault.toNat * 65536 + s.power.phase.code
  | 0x0014 => thermalReg s
  | 0x0018 => (s.tick.counter.truncate 32 : Word32).toNat
  | 0x001C => q.tickHi.toNat
  | 0x0020 => tickStateReg s
  | 0x0024 => tickPeriodReg s
  | 0x0028 => actState s
  | 0x002C => cacheStateReg s
  | 0x0040 => b2n q.mbGo * 2 ^ 31 + q.mbLen.toNat
  | 0x0044 => mbResult q
  | 0x0050 => q.evtBase.toNat
  | 0x0054 => evtHead s
  | _ => 0

/-- The record shown at an index of EVT_WINDOW (R314). -/
def evtWindow (s : State) (p : PortId) (i : Nat) : List Byte := ringSlot s (((s.port p).evtBase.toNat + i) % 4096)

/-- The 4 bytes at an offset of 0x8000 to 0xFFFF: zero without the privileged view (R316). -/
def bar2Priv (s : State) (p : PortId) (off : Nat) : List Byte :=
  if !(pathState s (pathOf p)).priv then leBytes 4 0
  else if off = 0x8000 then leBytes 4 (privInfo s)
  else if 0x8010 ≤ off && off < 0x8020 then
    ((leBytes 16 (match s.mgmt.lock with | none => 0 | some (_, id) => id.toNat)).drop (off - 0x8010)).take 4
  else if 0x8020 ≤ off && off < 0x8028 then
    ((allChans.map (fun n => BitVec.ofNat 8 (gateState s n))).drop (off - 0x8020)).take 4
  else if 0x8100 ≤ off && off < 0x8200 then
    ((allChans.map (fun n => (s.sdm n).lastRec.elim (List.replicate 32 0) servoBytes)).flatten.drop (off - 0x8100)).take 4
  else leBytes 4 0

/-- The 4-byte word at an aligned offset of BAR2 (Table 10.10). -/
def bar2Word (s : State) (p : PortId) (off : Nat) : Nat :=
  let from_ := fun (l : List Byte) (base : Nat) => fieldU (l ++ List.replicate 4096 0) (off - base) 4
  if off < 0x1000 then bar2Reg s p off
  else if off < 0x2000 then from_ (s.port p).mbReq 0x1000
  else if off < 0x3000 then from_ ((s.port p).mbResp.getD []) 0x2000
  else if off < 0x4000 then fieldU (evtWindow s p ((off - 0x3000) / 32)) ((off - 0x3000) % 32) 4
  else if off < 0x8000 then 0
  else fieldU (bar2Priv s p off) 0 4

/-- What a read of BAR2 returns (R290, R314): the 8 bytes at one instant, those of the tick counter whole; for a size other than 4 and 8,
or an address that is not aligned to it, the containing 4-byte word. -/
def bar2Read (s : State) (p : PortId) (off size : Nat) : Nat :=
  if size = 8 && off % 8 = 0 then
    (if off = 0x0018 then s.tick.counter.toNat else bar2Word s p off + 2 ^ 32 * bar2Word s p (off + 4))
  else bar2Word s p (off - off % 4)

/-! ## Writes -/

/-- The flag bits of STATUS. -/
def statusMask : Word32 := 0x3FFF

/-- STATUS_WRITE (R317, R318): each flag written 1 is cleared unless the hardware sets it in the same cycle; a message is requested if
INT_CAUSE is nonzero after the write. The flags set then are set for the other port and for MCTP_STATUS too. -/
def execStatusWrite (p : PortId) (v setNow : Word32) (s : State) : Host.Outcome State Fault Refusal :=
  .next (if !s.live then s
    else
      let now := setNow &&& statusMask
      let s := s.modPort p (fun q =>
        let q := { q with status := (q.status &&& ~~~v) ||| now }
        if intCause q ≠ 0 then requestMsg q else q)
      let s := s.modPort (1 - p) (fun q => withStatus (q.status ||| now) q)
      refreshAlert { s with mgmt.status := s.mgmt.status ||| now.truncate 16 })

/-- INT_ENABLE_WRITE (R314, R318). -/
def execIntEnableWrite (p : PortId) (v : Word32) (s : State) : Host.Outcome State Fault Refusal :=
  .next (if !s.live then s
    else s.modPort p (fun q =>
      let q := { q with intEnable := v &&& statusMask }
      if intCause q ≠ 0 then requestMsg q else q))

/-- TICK_LO_READ (R314): a 4-byte read latches the upper half of the tick counter for the port. -/
def execTickLoRead (p : PortId) (s : State) : Host.Outcome State Fault Refusal :=
  .next (ifLive s (fun s => s.modPort p (fun q => { q with tickHi := (s.tick.counter >>> 32).truncate 32 })))

/-- EVT_BASE_WRITE (R314): bits 11 to 0. -/
def execEvtBaseWrite (p : PortId) (v : Word32) (s : State) : Host.Outcome State Fault Refusal :=
  .next (ifLive s (fun s => s.modPort p (fun q => { q with evtBase := v.truncate 12 })))

/-- A vector of the completion queues unmasked: a pending message is sent once (R291). -/
def unmaskVector (v : Nat) (q : Port) : Port :=
  let q := { q with masked64 := q.masked64 &&& ~~~((1 : BitVec 65) <<< v) }
  if q.pending64.getLsbD v then { q with pending64 := q.pending64 &&& ~~~((1 : BitVec 65) <<< v), msgs64 := q.msgs64 ++ [v] } else q

/-- MSIX_UNMASK (R291, R318): a pending request of the vector is sent once. -/
def execMsixUnmask (x : PortVector) (s : State) : Host.Outcome State Fault Refusal :=
  .next (ifLive s (fun s => s.modPort x.port (fun q =>
    if x.vector ≠ 65 then unmaskVector x.vector.val q
    else if q.pending65 then { q with masked65 := false, pending65 := false, msgs65 := q.msgs65 + 1 } else { q with masked65 := false })))

end Sys2Proof.Machine
end

