-- ==== Sys2Proof/Machine/Calibrating.lean ====
section
/-! DEFINITION. Calibration runs (spec 09, R269 to R287): the run in progress on each actuator with its phases and their media operations,
the statistics of the sectors read and of the wedges passed, the results and their gates, staging and swap, and the meanings of the
calibration rows. -/

namespace Sys2Proof.Machine

/-! ## Statistics (R276 to R281) -/

/-- No statistics. -/
def CalTally.zero : CalTally := ⟨0, 0, 0, 0, 0, [], [], 0, 0, 0, 0, [], 0, 0, 0, 0, 0⟩

/-- Two lists of counts or sums added, the shorter one as if it went on with zeros. -/
def addLists {α : Type} [Add α] : List α → List α → List α
  | [], b => b
  | a, [] => a
  | x :: a, y :: b => (x + y) :: addLists a b

/-- Two tallies added. -/
def CalTally.add (x y : CalTally) : CalTally :=
  ⟨x.read + y.read, x.absent + y.absent, x.conv + y.conv, x.iters + y.iters, x.synd + y.synd, addLists x.histA y.histA,
    addLists x.histB y.histB, x.absA + y.absA, x.absB + y.absB, x.absCount + y.absCount, x.pre + y.pre, addLists x.corr y.corr,
    x.autoA + y.autoA, x.targetSq + y.targetSq, x.errSq + y.errSq, x.mon + y.mon, x.monCount + y.monCount⟩

/-- The histogram of ADC codes, -128 first. -/
def codeHistogram (l : List Int) : List Nat :=
  l.foldl (fun h x => h.modify (x + 128).toNat (· + 1)) (List.replicate 256 0)

/-- The lags of the alignment, in 1/64 bit: -63 to +63 bits. -/
def alignLags : List Int := (List.range 8065).map (fun i => (i : Int) - 4032)

/-- The cross-correlation of the two readers' interpolated samples over sector bits 64 to the end, at each lag, and reader A's
autocorrelation (R276). -/
def lagCorrelations (p : ReadParams) (t : Track) (kinds : List BitKind) : List Int × Int :=
  let ca := t.a.codes.reverse
  let cb := t.b.codes.reverse
  let at_ := ((kinds.zip t.marks.reverse).zipIdx).filterMap (fun x =>
    match x.1.1 with
    | .sector i => if 64 ≤ i then some (((1048576 * x.2 : Nat) + x.1.2.1) / 16384) else none
    | _ => none)
  let a := at_.map (fun q => (q, sampleAt p ca q))
  (alignLags.map (fun lag => (a.map (fun x => x.2 * sampleAt p cb (x.1 + lag))).sum), (a.map (fun x => x.2 * x.2)).sum)

/-- What a sector of a calibration track that converged adds (R276 to R281), `d` being what the decoder reported; for ALIGN the
cross-correlation too. -/
def sectorTally (p : ReadParams) (t : Track) (kinds : List BitKind) (o : Int) (w : BitVec 37120) (d : Decoded) (align : Bool) : CalTally :=
  let first := samplesOf p 32
  let pre := fun (l : List Int) => ((l.drop first).take (samplesOf p 32)).map Int.natAbs
  let a := t.a.codes.reverse
  let b := t.b.codes.reverse
  let e := errorSums (p.taps (.joint 0)).1 (p.taps (.joint 0)).2 (withTargets p kinds t.pairs w o) [] [] (0, 0)
  let c := if align then lagCorrelations p t kinds else ([], 0)
  let joint := ((t.joint.reverse.drop 71).take 32)
  { CalTally.zero with
    conv := 1, iters := d.iterations, synd := d.syndrome, histA := codeHistogram a, histB := codeHistogram b
    absA := (pre a).sum, absB := (pre b).sum, absCount := (pre a).length, pre := (correlate joint).1
    corr := c.1, autoA := c.2, targetSq := e.1, errSq := e.2 }

/-! ## Results -/

/-- An object and the value a run gives it. -/
abbrev CalValue := (Nat × Nat) × List Byte

/-- Byte `i` of a record replaced. -/
def putByte (r : List Byte) (i : Nat) (v : Int) : List Byte := r.set i (BitVec.ofInt 8 v)
/-- A 16-bit field of a record replaced. -/
def putWord (r : List Byte) (i : Nat) (v : Int) : List Byte := putByte (putByte r i (v % 256)) (i + 1) (v / 256)

/-- 20 log10(AMP_TARGET / a) in 1/8 dB, `a` being π/2 times the mean of |x| (R276). -/
def gainDelta (amp sum count : Nat) : Int :=
  roundAway (160 * lnRatio (200000000 * amp * count) (314159265 * sum)) 648120085424803

/-- The value of an object that a run starts from: that of a calibration result still waiting for its swap, or the active one (R269: ALIGN
builds on the record that FE has written). -/
def calBase (s : State) (index sub : Nat) : List Byte :=
  match (s.cal.staging.flatMap (·.values)).reverse.find? (fun x => x.1 = (index, sub)) with
  | some x => x.2
  | none => valueOf s index sub

/-- The median of the codes of a histogram (the lower of two, DESIGN CHOICE, log 27). -/
def medianCode (h : List Nat) : Int :=
  ((List.range h.length).find? (fun i => h.sum ≤ 2 * (h.take (i + 1)).sum)).elim 0 (fun i => (i : Int) - 128)

/-- The fraction `num / den` is above `ppm` per million. -/
def aboveShare (num den share : Nat) : Bool := decide (den < num * share)

/-- The codes at the ends of the range. -/
def clippedCodes (h : List Nat) : Nat := h.getD 0 0 + h.getD 255 0

/-- FE (R276): the new HEAD_FE record if the gates of Table 9.9 pass; a retired reader's share no longer runs (spec 13, Table 13.2). -/
def feResult (s : State) (h : HeadId) (t : CalTally) : Option (List CalValue) :=
  let r := calBase s 0x5021 h.val
  let z := formatOf s h
  let amp := fieldU (valueOf s 0x5010 ((z.head?.map (·.set)).getD 0)) 10 1
  let useA := !readerRetired s h false
  let useB := !readerRetired s h true
  if (useA && t.absA = 0) || (useB && t.absB = 0) || t.absCount = 0 || amp = 0 then none
  else
    let g := fun (i sum : Nat) => clampInt 0 240 ((fieldU r i 1 : Int) + gainDelta amp sum t.absCount)
    let o := fun (i : Nat) (m : Int) => clampInt (-127) 127 (fieldS r i 1 - m)
    let near := fun (i : Nat) (v : Int) => fieldU r i 1 = 112 || (v - fieldU r i 1).natAbs ≤ 48
    let share := fun (use : Bool) (i sum : Nat) (hist : List Nat) (v : List Byte) =>
      if use then putByte (putByte v i (g i sum)) (2 + i) (o (2 + i) (medianCode hist)) else v
    let hists := (if useA then [t.histA] else []) ++ (if useB then [t.histB] else [])
    if (!useA || near 0 (g 0 t.absA)) && (!useB || near 1 (g 1 t.absB))
        && !aboveShare (hists.map clippedCodes).sum (hists.map List.sum).sum 10000 then
      some [((0x5021, h.val), share useB 1 t.absB t.histB (share useA 0 t.absA t.histA r))]
    else none

/-- The lag of the largest peak, the least of several, and the peak. -/
def bestLag (l : List Int) : Int × Int :=
  ((alignLags.zip l).foldl (fun b x => match b with | none => some x | some y => if y.2 < x.2 then some x else b) none).getD (0, 0)

/-- ALIGN (R276): a positive lag in 1/64 bit, its peak at least half of reader A's autocorrelation (Table 9.8), RDB_DELAY moved by
at most 8 bits (Table 9.9). -/
def alignResult (s : State) (h : HeadId) (t : CalTally) : Option (List CalValue) :=
  let r := calBase s 0x5021 h.val
  let (lag, peak) := bestLag t.corr
  let d := lag / 64
  if lag < 0 || 2 * peak < t.autoA || 63 < d || 8 < (d - fieldU r 4 1).natAbs then none
  else some [((0x5021, h.val), putByte (putByte r 4 d) 5 (lag % 64))]

/-- `10 log10 (a / b) < db` for whole dB. -/
def belowDb (a b db : Nat) : Bool := decide (a ^ 10 < b ^ 10 * 10 ^ db)

/-- EQ (R277, Table 9.8, Table 9.9): the shadow taps, if the signal-to-noise ratio is not below the floor, every sector of the gate
converged with both sets, and e is no larger with the shadow set. -/
def eqResult (s : State) (h : HeadId) (zone : Nat) : Option (List CalValue) :=
  match s.cal.eqRuns.find? (fun e => e.head = h && e.zone = zone) with
  | none => none
  | some e =>
    if belowDb e.targetSq e.errSq (cfg s 0x6100 4) || !e.converged || e.gateActive < e.gateShadow then none
    else
      let t := calBase s 0x5020 h.val
      some [((0x5020, h.val), t.take (320 * zone) ++ eqRecord (recordAt t 320 zone) e.shadow ++ t.drop (320 * (zone + 1)))]

/-- The smallest distance 0 to 4 above which at most SYNC_MISS_PPM per million of the true distances lie (R278); `true_` counts
sectors by true distance. -/
def syncThreshold (s : State) (true_ : List Nat) : Option Nat :=
  (List.range 5).find? (fun d => (true_.drop (d + 1)).sum * 1000000 ≤ cfg s 0x6100 12 * true_.sum)

/-- One threshold of a SYNC run: found, not too often met by impostors, moved by at most 1. `imp` counts, by its distance, the best
impostors at or below the true distance. -/
def syncOne (s : State) (old : Nat) (true_ imp : List Nat) : Option Nat :=
  match syncThreshold s true_ with
  | none => none
  | some d =>
    if cfg s 0x6100 13 * true_.sum < (imp.take (d + 1)).sum * 1000000 then none
    else some (if old < d then old + 1 else if d < old then old - 1 else old)

/-- SYNC (R278). -/
def syncResult (s : State) : Option (List CalValue) :=
  match syncOne s (cfg s 0x5000 2) s.cal.syncTrue1.toList s.cal.syncImp1.toList,
    syncOne s (cfg s 0x5000 4) s.cal.syncTrue2.toList s.cal.syncImp2.toList with
  | some a, some b => some [((0x5000, 2), leBytes 1 a), ((0x5000, 4), leBytes 1 b)]
  | _, _ => none

/-- The centroid of an amplitude profile over the sixteen offsets of the sweep (R279). -/
def centroid (p : List Nat) : Option Int :=
  if p.sum = 0 then none
  else some (roundAway ((p.zipIdx.map (fun x => (x.1 : Int) * (-240 + 32 * x.2))).sum) p.sum)

/-- LIN0 to LIN16 from the histogram of f over 512 bins (R279): none if the CDF does not strictly rise at the 17 points. -/
def linTable (hist : List Nat) : Option (List Int) :=
  let total := hist.sum
  let below := (List.range 17).map (fun j => (hist.take (32 * j)).sum)
  if total = 0 || !((List.range 16).all (fun j => below.getD j 0 < below.getD (j + 1) 0)) then none
  else
    let l := (List.range 17).map (fun j => roundAway (512 * (below.getD j 0 : Int)) total - 32 * j)
    if l.all (fun x => x.natAbs ≤ 96) then some l else none

/-- SERVO (R279, Table 9.9): N_OFS, Q_OFS, BURST_REF, RDB_OFFSET and LIN0 to LIN16. -/
def servoResult (s : State) (r : CalRunning) : Option (List CalValue) :=
  let n := roundAway r.nSum r.count
  let q := roundAway r.qSum r.count
  let ref := (r.sSum + r.count / 2) / max 1 r.count
  match centroid r.profileA, centroid r.profileB, linTable r.hist with
  | some a, some b, some l =>
    if r.count = 0 || ref < 256 || 65535 < ref || ref < 8 * n.natAbs || ref < 8 * q.natAbs then none
    else
      let v := putWord (putWord (putWord (putWord (calBase s 0x4001 r.head.val) 0 n) 2 q) 4 ref) 6 (b - a)
      some [((0x4001, r.head.val), l.zipIdx.foldl (fun v x => putByte v (14 + x.2) x.1) v)]
  | _, _, _ => none

/-- The levels of the write ladder (R280). -/
def assistLadder (s : State) (h : HeadId) : List Nat :=
  let r := assistRec s h
  let sp := fieldU r 0 2
  let top := fieldU r 2 2
  if assistType s (chanOf h) = 2 then
    let from_ := if sp = 0 then top else min top (sp * 120 / 100)
    let step := if sp = 0 then top * 5 / 100 else sp * 5 / 100
    (List.range 25).map (fun i => from_ - i * step)
  else if sp = 0 then (List.range 15).map (fun i => top * (30 + 5 * i) / 100)
  else (List.range 60).map (fun i => sp * (70 + 5 * i) / 100)

/-- The highest level that a run may write (R280). -/
def levelLimit (s : State) (h : HeadId) : Nat := min (fieldU (assistRec s h) 2 2) (capLevel s h)

/-- The iterations of the sectors read, one that did not converge counting as OTF_ITER + 1 (R280). -/
def iterSum (s : State) (t : CalTally) : Nat := t.iters + (t.read - t.conv) * (cfg s 0x5000 5 + 1)

/-- The mean iterations of the sectors read in 1/16, as ITER_BASE holds them (R287): rounded down (DESIGN CHOICE, log 27). The tests of
R274 and R280 compare the mean unrounded. -/
def meanIter (s : State) (t : CalTally) : Nat := 16 * iterSum s t / max 1 t.read

/-- A level passes (R280). The syndrome weight is the mean of the sectors that converged (DESIGN CHOICE, log 27). -/
def levelPasses (s : State) (t : CalTally) : Bool :=
  0 < t.conv && 16 * iterSum s t ≤ cfg s 0x6100 7 * t.read && t.synd ≤ cfg s 0x6100 8 * t.conv

/-- The test of R274: every sector converged, and the mean iteration count is at most ITER_BASE x (100 + TREND_PCT) ÷ 100. -/
def baseTest (s : State) (h : HeadId) (t : CalTally) : Bool :=
  0 < t.read && t.conv = t.read && 1600 * t.iters ≤ s.cal.heads[h].iterBase * (100 + cfg s 0x6100 2) * t.read

/-- The new SETPOINT from the passing level (R280). -/
def newSetpointOf (s : State) (h : HeadId) (level : Nat) : Nat :=
  min (fieldU (assistRec s h) 2 2) (level * (100 + cfg s 0x6100 6) / 100)

/-- ASSIST (R280, Table 9.9): SETPOINT and MON_TARGET. -/
def assistResult (s : State) (r : CalRunning) : Option (List CalValue) :=
  match r.passed, r.valid with
  | some level, some v =>
    let rec0 := assistRec s r.head
    let old := fieldU rec0 0 2
    let new := newSetpointOf s r.head level
    let mon := v.mon / max 1 v.monCount
    if (old = 0 || (80 * old ≤ 100 * new && 100 * new ≤ 120 * old)) && levelPasses s v && 0 < v.monCount
        && fieldU rec0 6 2 ≤ mon && mon ≤ fieldU rec0 8 2 then
      some [((0x5103, r.head.val), putWord (putWord rec0 0 new) 4 mon)]
    else none
  | _, _ => none

/-! ## Wrong input (R281, Table 9.8) -/

/-- SM1 and SM2 both absent in more than half the sectors read. -/
def erasedTrack (t : CalTally) : Bool := decide (t.read < 2 * t.absent)
/-- Fewer than 90 % of the sectors converged on the fly. -/
def defectiveTrack (t : CalTally) : Bool := decide (10 * t.conv < 9 * t.read)
/-- The signal-to-noise ratio is below CAL_SNR_MIN. -/
def noisyTrack (s : State) (t : CalTally) : Bool := belowDb t.targetSq t.errSq (cfg s 0x6100 4)
/-- The mean preamble correlation is below CAL_CORR_MIN / 256 of AMP_TARGET: of the joint samples of bits 32 to 63 (DESIGN CHOICE, log
27). -/
def weakPreamble (s : State) (h : HeadId) (t : CalTally) : Bool :=
  let amp := fieldU (valueOf s 0x5010 (((formatOf s h).head?.map (·.set)).getD 0)) 10 1
  256 * t.pre < (cfg s 0x6100 5 * amp * 32 * t.conv : Nat)
/-- More than 10 % of the wedges of the run were not GOOD in FOLLOW or not within the settle window. -/
def notSettled (r : CalRunning) : Bool := decide (r.wedges < 10 * r.bad)

/-- A run meets a wrong-input condition of Table 9.8. -/
def wrongInput (s : State) (r : CalRunning) (k : CalKind) : Bool :=
  let t := r.total
  match k with
  | .fe | .align => erasedTrack t || defectiveTrack t || noisyTrack s t || weakPreamble s r.head t || notSettled r
  | .servo => erasedTrack t || notSettled r
  | .assist => erasedTrack t || noisyTrack s t || notSettled r
  | .eq | .sync => false

/-! ## The ends of a run (R275, R282) -/

/-- The result of a run: abandoned, deferred, or values to be accepted. -/
inductive CalResult where
  | abandoned | deferred | values (l : List CalValue)
deriving DecidableEq, Repr

/-- A result that failed a gate is abandoned (R283). -/
def gated : Option (List CalValue) → CalResult
  | none => .abandoned
  | some l => .values l

/-- The result of a run on a calibration track; with every track suspect it is abandoned without media access (R272). -/
def trackResult (s : State) (r : CalRunning) (k : CalKind) : CalResult :=
  if r.deferred then .deferred
  else if r.total.read = 0 || wrongInput s r k then .abandoned
  else match k with
    | .fe => gated (feResult s r.head r.total)
    | .align => gated (alignResult s r.head r.total)
    | .servo => gated (servoResult s r)
    | .assist => gated (assistResult s r)
    | .eq | .sync => .abandoned

/-- Runs on a calibration track. -/
def usesTrack (k : CalKind) : Bool := k = .fe || k = .align || k = .servo || k = .assist

/-- The request of a run is done with. -/
def dropRequest (h : HeadId) (k : CalKind) (zone : Nat) (s : State) : State :=
  { s with
    cal.requests := s.cal.requests.filter (fun q => !sameRun q ⟨h, k, zone, .normal⟩)
    cal.eqRuns := s.cal.eqRuns.filter (fun e => !(k = .eq && e.head = h && e.zone = zone)) }

/-- The suspect tracks after the tests of an ASSIST run (R272): a track that passes is cleared, one that fails twice stays. -/
def trackTests (l : List (Fin 8 × Bool)) (c : HeadCal) : HeadCal :=
  l.foldl (fun c x =>
    if !c.suspect.getLsbD x.1 || c.permanent.getLsbD x.1 then c
    else if x.2 then { c with suspect := c.suspect &&& ~~~((1 : BitVec 8) <<< x.1.val), trackFails := c.trackFails.set x.1 0 }
    else
      let k := c.trackFails[x.1] + 1
      { c with trackFails := c.trackFails.set x.1 k, permanent := if 2 ≤ k then c.permanent ||| (1 <<< x.1.val) else c.permanent }) c

/-- A run abandoned (R282): its track is suspect, FAIL_RUN rises, and its third in a row is charged to the head. The run is repeated
while a track is left: its request stays. In CALIBRATE code 0x0801 is recorded (spec 03, R91). -/
def abandonRun (h : HeadId) (k : CalKind) (zone : Nat) (track : Fin 8) (s : State) : State :=
  let s := modHeadCal h (fun c => { c with
    failRun := satNat 255 (c.failRun + 1), failOther := c.failOther + b2n (k ≠ .assist)
    suspect := if usesTrack k then c.suspect ||| (1 <<< track.val) else c.suspect }) s
  let c := s.cal.heads[h]
  let s := if c.failRun = 3 then charge .calFail (.head h) (c.failOther = 0) 0 s else s
  let s := if s.power.phase = .calibrate then startFault 0x0801 s else s
  if usesTrack k && c.suspect ≠ 0xFF then s else dropRequest h k zone s

/-- A result is staged if no other source has changed its objects since the run began; else it is discarded (R284, R285). -/
def stageResult (x : CalStaged) (touched : Bool) (s : State) : State :=
  if touched then recordResult x.head x.kind x.track.val 3 s
  else { s with cal.staging := s.cal.staging ++ [x] }

/-- A result whose last value has swapped is accepted (R275): HEAD_CAL and the triggers' bases; a temperature already away from that at
the start of the run triggers again at once. -/
def acceptResult (x : CalStaged) (s : State) : State :=
  let now := powerOn s
  let h := x.head
  let s := recordResult h x.kind x.track.val 1 s
  let s := modHeadCal h (fun c => { c with
    failRun := 0, failOther := 0, time := now, lastRun := c.lastRun.set (Fin.ofNat 6 (calCode x.kind - 1)) now
    temp := if x.kind = .fe || x.kind = .align || x.kind = .assist then x.startTemp.getD c.temp else c.temp
    iterBase := x.iterMean.getD c.iterBase }) s
  let s := if x.kind = .sync then { s with cal.syncTime := now } else s
  let s := if x.kind = .eq then let t := trendOf s h x.zone; setTrend { t with base := some t.mean } s else s
  if (x.kind = .fe || x.kind = .align || x.kind = .assist) && s.power.phase = .ready && headServes s h && tempAway s h then
    ([.fe, .align, .assist] : List CalKind).foldl (fun s k => requestCal ⟨h, k, 0, .urgent⟩ s) s
  else s

/-- The end of a run on a calibration track (R275, R282). An FE run is followed by the ALIGN run of its head on the same revolution
(Table 9.6). -/
def endTrackRun (n : ChanId) (r : CalRunning) (k : CalKind) (s : State) : State :=
  let res := trackResult s r k
  let s := if k = .assist && res ≠ .deferred then modHeadCal r.head (trackTests r.tests) s else s
  let next : Option CalRunning :=
    if k = .fe && res ≠ .abandoned && s.cal.requests.any (fun q => q.kind = .align && q.head = r.head) then some { r with kind := some .align }
    else none
  let s := { s with cal.running := s.cal.running.set n next }
  let s := match res with
    | .deferred => recordResult r.head k r.track.val 4 s
    | .abandoned => abandonRun r.head k 0 r.track (recordResult r.head k r.track.val 2 s)
    | .values l =>
      dropRequest r.head k 0 (stageResult ⟨r.head, k, 0, r.track, l, r.startTemp, some (meanIter s (r.valid.getD r.total))⟩ r.touched s)
  if s.cal.startLeft.contains r.head then headFinished r.head s else s

/-- The end of an EQ or a SYNC run, which take no media time. -/
def endOrdinaryRun (h : HeadId) (k : CalKind) (zone : Nat) (s : State) : State :=
  let res := if k = .eq then gated (eqResult s h zone) else gated (syncResult s)
  let touched := if k = .eq then s.cal.eqRuns.any (fun e => e.head = h && e.zone = zone && e.touched) else s.cal.syncTouched
  let s := if k = .sync then
      { s with cal.syncCount := 0, cal.syncTrue1 := .replicate 22 0, cal.syncImp1 := .replicate 22 0
               cal.syncTrue2 := .replicate 22 0, cal.syncImp2 := .replicate 22 0 }
    else s
  match res with
  | .values l => dropRequest h k zone (stageResult ⟨h, k, zone, 0, l, none, none⟩ touched s)
  | _ => abandonRun h k zone 0 (recordResult h k 0 2 s)

/-- The verification read of CALIBRATE (R91, R274): it passes on a mean near ITER_BASE, every sector having converged; a head that fails
takes the full calibrations. -/
def endVerify (n : ChanId) (r : CalRunning) (s : State) : State :=
  let h := r.head
  let t := r.total
  let sound := !defectiveTrack t && !notSettled r && baseTest s h t
  let s := { s with cal.running := s.cal.running.set n none, cal.verify := s.cal.verify.filter (· ≠ h) }
  headFinished h (if sound then s else requestFull h s)

/-! ## Phases of a run -/

/-- The track that a phase works on. -/
def CalRunning.trackNow (r : CalRunning) : Fin 8 :=
  match r.phase with | .testWrite t | .testRead t => t | _ => r.track

/-- The phase writes. -/
def CalPhase.writes : CalPhase → Bool
  | .write | .validateWrite | .testWrite _ => true
  | _ => false

/-- The offset from the track's centre in 1/512 track at which a phase reads (R279): that of the sweep. -/
def CalPhase.offset : CalPhase → Int
  | .sweep i => -240 + 32 * i
  | _ => 0

/-- The first phase of a run. -/
def firstPhase : Option CalKind → CalPhase
  | some .servo => .sweep 0
  | some .assist => .write
  | _ => .read

/-- The level at which a phase writes (R280): fixed, without the trim. -/
def levelOf (s : State) (r : CalRunning) : Nat :=
  match r.phase with
  | .write => (assistLadder s r.head).getD r.rung 0
  | _ => newSetpointOf s r.head (r.passed.getD 0)

/-- The suspect tracks that an ASSIST run still has to test (R272), from the `i`-th on. -/
def nextSuspect (s : State) (h : HeadId) (i : Nat) : Option (Fin 8) :=
  (List.ofFn (fun (t : Fin 8) => t)).find? (fun t => i ≤ t.val && s.cal.heads[h].suspect.getLsbD t && !s.cal.heads[h].permanent.getLsbD t)

/-- The run goes on to test suspect tracks from the `i`-th on, or is done. -/
def toTests (s : State) (r : CalRunning) (i : Nat) : CalRunning :=
  match nextSuspect s r.head i with
  | some t => { r with phase := .testWrite t }
  | none => { r with phase := .done }

/-- The run goes on to its validation at the new setpoint (R280); one above the limit is not written, and the run is deferred: the cap is
too low (R275). -/
def toValidate (s : State) (r : CalRunning) : CalRunning :=
  if levelLimit s r.head < newSetpointOf s r.head (r.passed.getD 0) then { r with phase := .done, deferred := true }
  else { r with phase := .validateWrite }

/-- The run comes to a rung of the ladder (R280): one above the limit is not written, and the run is deferred if none has passed. -/
def toRung (s : State) (r : CalRunning) (i : Nat) : CalRunning :=
  match (assistLadder s r.head)[i]? with
  | none => if r.passed.isSome then toValidate s r else { r with phase := .done }
  | some l => if levelLimit s r.head < l then { r with phase := .done, deferred := r.passed.isNone } else { r with phase := .write, rung := i }

/-- A level has been read back (R280): the walk of the ladder goes on, or ends. -/
def afterRung (s : State) (r : CalRunning) : CalRunning :=
  let level := (assistLadder s r.head).getD r.rung 0
  let ok := levelPasses s r.now
  if assistType s (chanOf r.head) = 2 then
    if ok then toRung s { r with passed := some level } (r.rung + 1)
    else if r.passed.isSome then toValidate s r else { r with phase := .done }
  else if ok then toValidate s { r with passed := some level }
  else toRung s r (r.rung + 1)

/-- The revolution of a phase is complete: what it gave, and the next phase. -/
def phaseOver (s : State) (r : CalRunning) : CalRunning :=
  let r := { r with opId := none, total := r.total.add r.now }
  let clear := fun (r : CalRunning) => { r with now := CalTally.zero }
  match r.phase with
  | .sweep i =>
    let r := { r with profileA := r.profileA ++ [r.now.absA / max 1 r.now.absCount], profileB := r.profileB ++ [r.now.absB / max 1 r.now.absCount] }
    clear { r with phase := if i = 15 then .ramp 4096 else .sweep (i + 1) }
  | .ramp _ | .done => r
  | .read => clear { r with phase := .done }
  | .write => { r with phase := .readBack }
  | .readBack => clear (afterRung s r)
  | .validateWrite => { r with phase := .validateRead }
  | .validateRead =>
    let r := { r with valid := some r.now }
    clear (if (assistResult s r).isSome then toTests s r 0 else { r with phase := .done })
  | .testWrite t => { r with phase := .testRead t }
  | .testRead t => clear (toTests s { r with tests := r.tests ++ [(t, baseTest s r.head r.now)] } (t.val + 1))

/-! ## Placement of the runs (R273, R274) -/

/-- The lowest-numbered calibration track that is not suspect (R272). -/
def freeTrack (s : State) (h : HeadId) : Option (Fin 8) :=
  (List.ofFn (fun (t : Fin 8) => t)).find? (fun t => !s.cal.heads[h].suspect.getLsbD t)

/-- A run begins (R273). -/
def newRun (s : State) (h : HeadId) (k : Option CalKind) (p : CalPriority) : CalRunning :=
  let t := freeTrack s h
  let r : CalRunning := ⟨h, k, t.getD 0, p, headTemp s h, if t.isNone then .done else firstPhase k, none, 0, 0, 0, 0, 0, 0, 0, [], [], [],
    .zero, .zero, none, none, [], false, [], false⟩
  if k = some .assist && t.isSome then toRung s r 0 else r

/-- A requested run may begin: one that writes, while the write window is open on a head in full service. -/
def mayRun (s : State) (q : CalReq) : Bool :=
  usesTrack q.kind && headServes s q.head && kindOpen s q.head q.kind && (q.kind ≠ .assist || (windowOpen s && !headReadOnly s q.head))

/-- The next run of channel `n`: in CALIBRATE the heads in sequence, first the verification read of each (R91), then its full calibrations
in the order FE, ALIGN, SERVO, ASSIST (R269); else the request of the highest priority, the oldest first. -/
def nextRun (s : State) (n : ChanId) : Option CalRunning :=
  let mine := s.cal.requests.filter (fun q => chanOf q.head = n && mayRun s q)
  let first := fun (l : List CalReq) => (l.foldl (fun b q =>
    match b with
    | none => some q
    | some x => if x.priority.rank < q.priority.rank then some q else b) none).map (fun q => newRun s q.head (some q.kind) q.priority)
  if s.power.phase = .calibrate then
    match s.cal.startLeft.find? (fun h => chanOf h = n && (s.cal.verify.contains h || mine.any (fun q => q.head = h && q.priority = .startUp))) with
    | none => none
    | some h =>
      if s.cal.verify.contains h then some (newRun s h none .startUp)
      else fullKinds.findSome? (fun k => first (mine.filter (fun q => q.head = h && q.priority = .startUp && q.kind = k)))
  else first mine

/-- The media operation of the run on channel `n` is filed, placed or under way. -/
def calBusy (s : State) (n : ChanId) (id : Nat) : Bool :=
  s.sched.queue.any (fun o => o.id = id) || s.sched.placed[n].any (fun o => o.id = id) || (s.rwc n).op.any (fun o => o.id = id)
    || (s.rwc n).decoding.any (fun c => c.op.id = id) || (s.wr n).run.any (fun r => r.op.id = id)

/-- The operation of a phase filed: one revolution of its track (R273). -/
def filePhase (n : ChanId) (r : CalRunning) (s : State) : State :=
  let id := s.sched.nextOp
  let count := (formatOf s r.head).head?.elim 0 (·.n)
  let s := { s with cal.running := s.cal.running.set n (some { r with opId := some id }) }
  fileOp (.calibration r.phase.writes) (calBand r.head r.trackNow) 0 count s.clock.ns s

/-- The run on channel `n` goes on at a tick boundary: a run begins, or the operation of its next phase is filed. A level that the cap has
come to forbid is not written: the run is deferred (R275, R280). -/
def calStep (n : ChanId) (s : State) : State :=
  match s.cal.running[n] with
  | none =>
    (match nextRun s n with
     | none => s
     | some r => { s with cal.running := s.cal.running.set n (some r) })
  | some r =>
    if r.phase.writes && levelLimit s r.head < levelOf s r then breakRun 4 n s
    else match r.phase, r.opId with
    | .done, _ => s
    | .ramp _, _ => s
    | _, none => filePhase n r s
    | _, some id => if calBusy s n id then s else { s with cal.running := s.cal.running.set n (some (phaseOver s r)) }


/-- The ramp of a SERVO run holds the actuator. -/
def ramping (s : State) (n : ChanId) : Bool :=
  match s.cal.running[n] with | some r => (match r.phase with | .ramp _ => true | _ => false) | none => false

/-- The priority of the run whose operation this is. -/
def calPriority (s : State) (o : MediaOp) : Option CalPriority :=
  if isCalOp o then (s.cal.running[chanOf o.band.head]).map (·.priority) else none

/-- The time in ns of the last 10 s that background runs took on an actuator (R274): with its seeks and settling, and the ramp of a SERVO
run. -/
def dutyUsed (s : State) (n : ChanId) : Nat :=
  let since := s.clock.ns - 10000000000
  let open_ := (s.cal.dutyFrom[n]).elim [] (fun t => [(t, s.clock.ns)])
  ((open_ ++ s.cal.duty[n]).map (fun x => x.2 - max since x.1)).sum

/-- A background operation that takes `ticks` wedges to come to its track may be placed: with its revolution, and the ramp that follows
the last of a SERVO run's sweep, CAL_DUTY percent of 10 s are not passed (R274). -/
def dutyAllows (s : State) (o : MediaOp) (ticks : Nat) : Bool :=
  let n := chanOf o.band.head
  let ramp := if s.cal.running[n].any (fun r => r.phase = .sweep 15) then 4096 else 0
  100 * (dutyUsed s n + (ticks + ramp) * tickNs s + s.tick.revNs) ≤ cfg s 0x6100 3 * 10000000000

/-- A background run holds the actuator: its operation is placed or under way, or it ramps. -/
def dutyHolds (s : State) (n : ChanId) : Bool :=
  s.cal.running[n].any (·.priority = .background)
    && (ramping s n || s.sched.placed[n].any isCalOp || (s.rwc n).op.any isCalOp || (s.wr n).run.any (fun r => isCalOp r.op))

/-- The time that background runs take, counted at a boundary and when one is placed (R274). -/
def noteDuty (n : ChanId) (s : State) : State :=
  match s.cal.dutyFrom[n], dutyHolds s n with
  | none, true => { s with cal.dutyFrom := s.cal.dutyFrom.set n (some s.clock.ns) }
  | some t, false => { s with
      cal.dutyFrom := s.cal.dutyFrom.set n none
      cal.duty := upd s.cal.duty n (fun l => (t, s.clock.ns) :: l.filter (fun x => !passed s x.2 10000000000)) }
  | _, _ => s

/-- The calibration runs at a tick boundary, in CALIBRATE and in READY. -/
def calSteps (s : State) : State :=
  let s := allChans.foldl (fun s n => noteDuty n s) s
  if s.power.phase = .calibrate || s.power.phase = .ready then allChans.foldl (fun s n => calStep n s) s else s

/-! ## What the media give a run -/

/-- The run whose operation a sector belongs to. -/
def runOf (s : State) (o : MediaOp) : Option CalRunning :=
  if isCalOp o then (s.cal.running[chanOf o.band.head]).bind (fun r => if r.opId = some o.id then some r else none) else none

/-- A sector lies behind a wedge of the run that was not settled: its samples are discarded (R281), and the sector counts in no statistic
(DESIGN CHOICE, log 27). -/
def unsettledAt (s : State) (r : CalRunning) (k : BandKey) (off : Nat) : Bool :=
  match sectorPlace s k off with
  | none => false
  | some (_, d, sec, z) => (sectorWindows z (wedges s) d sec).any (r.unsettled.contains ·)

/-- A sector of a run's track has been read: with both sync marks absent, or not. -/
def calSectorRead (o : MediaOp) (off : Nat) (absent : Bool) (s : State) : State :=
  match runOf s o with
  | none => s
  | some r =>
    if unsettledAt s r o.band off then s
    else { s with cal.running := s.cal.running.set (chanOf r.head) (some { r with now := { r.now with read := r.now.read + 1, absent := r.now.absent + b2n absent } }) }

/-- A sector of a run's track converged on the fly: its statistics, from its stored samples. -/
def calSectorGood (s : State) (c : Codeword) (e : CaptureEntry) (d : Decoded) (w : BitVec 37120) : State :=
  match runOf s c.op with
  | none => s
  | some r =>
    if unsettledAt s r c.op.band c.offset then s else
    let kinds := spanOf s c.op.band c.offset
    let t := runTrack c.params false (.joint 0) kinds e.codesA e.codesB e.freq
    let x := sectorTally c.params t kinds (frameOffset { e with basis := .sm1 }) w d (r.kind = some .fe || r.kind = some .align)
    { s with cal.running := s.cal.running.set (chanOf r.head) (some { r with now := r.now.add x }) }

/-- A monitor reading of a write revolution (R280). -/
def calMonitor (n : ChanId) (m : Nat) (s : State) : State :=
  match s.cal.running[n] with
  | none => s
  | some r => { s with cal.running := s.cal.running.set n (some { r with now := { r.now with mon := r.now.mon + m, monCount := r.now.monCount + 1 } }) }

/-- The bin of the histogram of f (R279). -/
def rampBin (f : Int) : Nat := (clampInt 0 511 (f + 256)).toNat

/-- A strobe of a run (R279, R281): a wedge of a revolution under way, or of the ramp, is counted, with the bursts of the sweep and the
fraction of the ramp; the ramp moves the target by 8/512 track. `inside`: the position is within the settle window of R166 for the
access. -/
def calStrobe (n : ChanId) (f : ServoField) (m : Sample) (inside : Bool) (s : State) : State :=
  match s.cal.running[n] with
  | none => s
  | some r =>
    let going := ramping s n || (s.rwc n).op.any (fun o => isCalOp o && 0 < (s.rwc n).nextSector) || (s.wr n).run.any (fun x => isCalOp x.op && x.tried)
    if !going then s
    else
      let good := m.cls = .good && (s.ce n).mode = .follow && inside
      let at_ := windowNow s n
      let r := { r with
        wedges := r.wedges + 1, bad := r.bad + b2n (!good)
        unsettled := if good then r.unsettled.filter (· ≠ at_) else at_ :: r.unsettled.filter (· ≠ at_) }
      let flip : Int := if (m.track.getD 0) % 2 = 0 then 1 else -1
      let (r, move) : CalRunning × Int := match r.phase with
        | .sweep _ =>
          (if good then { r with nSum := r.nSum + flip * f.nRaw, qSum := r.qSum + flip * f.qRaw, sSum := r.sSum + m.sum, count := r.count + 1 } else r, 0)
        | .ramp left =>
          let fr := (fraction (headServo s r.head) f (m.track.getD 0)).1
          let r := if good then { r with hist := ((if r.hist = [] then List.replicate 512 0 else r.hist).modify (rampBin fr) (· + 1)) } else r
          (if left ≤ 1 then { r with phase := .done } else { r with phase := .ramp (left - 1) }, 8)
        | _ => (r, 0)
      let s := { s with cal.running := s.cal.running.set n (some r) }
      if move = 0 then s else s.modCe n (fun c => { c with target := c.target + move })

/-! ## Swap (R284, R285) -/

/-- One calibrated value takes effect, as a change by the source "calibration" (3); a new SETPOINT resets the trim (spec 08, R248). -/
def calValueSwaps (x : CalValue) (s : State) : State :=
  let s := persistValue x.1.1 x.1.2 x.2 3 (setValue s x.1.1 x.1.2 x.2)
  if x.1.1 = 0x5103 then
    let h : HeadId := Fin.ofNat 32 x.1.2
    let s := s.modHead h (fun y => { y with trim := 0 })
    if (s.sdm (chanOf h)).head = h then capCheck true (chanOf h) s else s
  else s

/-- The staged values that `which` selects take effect; a result with none left is accepted (R275, R284). -/
def calSwap (which : CalValue → Bool) (s : State) : State :=
  let swapped := s.cal.staging.flatMap (fun x => x.values.filter which)
  let staging := s.cal.staging.map (fun x => (x, { x with values := x.values.filter (fun v => !which v) }))
  let done := staging.filter (fun x => x.1.values ≠ [] && x.2.values = [])
  let s := { s with cal.staging := (staging.filter (fun x => x.2.values ≠ [])).map (·.2) }
  done.foldl (fun s x => acceptResult x.2 s) (swapped.foldl (fun s v => calValueSwaps v s) s)

/-- The servo and assist objects swap at a tick boundary. -/
def calSwapTick (s : State) : State := calSwap (fun v => !channelPart v.1.1) s

/-- A threshold of a SYNC run reaches channel `n` (R284): when the last channel in service has it, it is the active value. -/
def takeEarly (n : ChanId) (v : CalValue) (s : State) : State :=
  let mask := (((s.cal.early.find? (fun x => x.1 = v.1 && x.2.1 = v.2)).map (·.2.2)).getD 0) ||| ((1 : BitVec 8) <<< n.val)
  let rest := s.cal.early.filter (fun x => x.1 ≠ v.1)
  if allChans.all (fun c => !chanServes s c || mask.getLsbD c) then calSwap (fun x => x.1 = v.1) { s with cal.early := rest }
  else { s with cal.early := rest ++ [(v.1, v.2, mask)] }

/-- The channel objects of channel `n` swap at its sector boundary, SYNC thresholds for that channel. -/
def calSwapChannel (n : ChanId) (s : State) : State :=
  let sync := s.cal.staging.flatMap (fun x => x.values.filter (fun v => v.1.1 = 0x5000))
  sync.foldl (fun s v => takeEarly n v s) (calSwap (fun v => channelPart v.1.1 && v.1.1 ≠ 0x5000 && v.1.2 / 4 = n.val) s)

/-- The object that a run on a calibration track would write (Table 9.6). -/
def CalRunning.writesObjects (r : CalRunning) : List (Nat × Nat) :=
  match r.kind with
  | some .servo => [(0x4001, r.head.val)]
  | some .assist => [(0x5103, r.head.val)]
  | some _ => [(0x5021, r.head.val)]
  | none => []

/-- A commit from another source changed objects (R285): results that wait for their swap are discarded whole, those of the runs under
way when they end. -/
def calTouched (l : List (Nat × Nat)) (s : State) : State :=
  let hit := fun (x : CalStaged) => x.values.any (fun v => l.contains v.1)
  let lost := s.cal.staging.filter hit
  let s := { s with
    cal.staging := s.cal.staging.filter (fun x => !hit x), cal.early := s.cal.early.filter (fun x => !l.contains x.1)
    cal.running := s.cal.running.map (fun x => x.map (fun r => { r with touched := r.touched || r.writesObjects.any (l.contains ·) }))
    cal.eqRuns := s.cal.eqRuns.map (fun e => { e with touched := e.touched || l.contains (0x5020, e.head.val) })
    cal.syncTouched := s.cal.syncTouched || l.contains (0x5000, 2) || l.contains (0x5000, 4) }
  lost.foldl (fun s x => recordResult x.head x.kind x.track.val 3 s) s

/-! ## Meanings -/

/-- CAL_SCHEDULE (R273): CAL_PERIOD of the kind has passed. -/
def execCalSchedule (h : HeadId) (kind : CalKind) (s : State) : Host.Outcome State Fault Refusal :=
  .next (if s.resident && !s.faults.mgmtDown then
      (if kind = .eq then
        (List.range (formatOf s h).length).foldl (fun s z => requestCal ⟨h, .eq, z, .background⟩ s) s
       else requestCal ⟨h, kind, 0, .background⟩ s)
    else s)

/-- The kinds written to CAL_REQ_KINDS are requested on CAL_REQ_HEAD (R273): EQ on each of its recording zones. -/
def requestKinds (v : Nat) (s : State) : State :=
  let h : HeadId := Fin.ofNat 32 s.cal.reqHead
  ([.fe, .align, .eq, .sync, .servo, .assist] : List CalKind).foldl (fun s k =>
    if !bitOf v (calCode k - 1) then s
    else if k = .eq then (List.range (formatOf s h).length).foldl (fun s z => requestCal ⟨h, .eq, z, .normal⟩ s) s
    else requestCal ⟨h, k, 0, .normal⟩ s) s

/-- The run of an EQ or SYNC row has all its sectors (R277, R278, R283): never in CALIBRATE (R269), and EQ not beside a run on the
calibration track of its actuator (R273). -/
def ordinaryComplete (s : State) (h : HeadId) (k : CalKind) (zone : Nat) : Bool :=
  s.power.phase ≠ .calibrate && (k = .sync || s.cal.running[chanOf h].isNone) && s.cal.requests.any (sameRun ⟨h, k, zone, .normal⟩)
    && (match k with
      | .eq => s.cal.eqRuns.any (fun e => e.head = h && e.zone = zone && eqGate ≤ e.gate)
      | .sync => cfg s 0x6100 11 ≤ s.cal.syncCount
      | _ => false)

/-- CAL_RUN_END (R275): the run in progress on the head's actuator has gone through its phases, or has to wait for the write window; or an
EQ or SYNC run has its sectors. -/
def execCalRunEnd (h : HeadId) (x : RunName) (s : State) : Host.Outcome State Fault Refusal :=
  let n := chanOf h
  .next (if !s.resident || s.faults.mgmtDown || !headServes s h then s
    else match x.kind with
      | some .eq => if ordinaryComplete s h .eq x.zone then progress (endOrdinaryRun h .eq x.zone s) else s
      | some .sync => if ordinaryComplete s h .sync x.zone then progress (endOrdinaryRun h .sync x.zone s) else s
      | _ =>
        match s.cal.running[n] with
        | none => s
        | some r =>
          if r.head ≠ h || r.kind ≠ x.kind then s
          else if r.phase = .done then
            progress (match r.kind with | none => endVerify n r s | some k => endTrackRun n r k s)
          else if r.kind = some .assist && !windowOpen s then progress (breakRun 4 n s)
          else s)

/-- The request whose run is deferred for want of ordinary reads: the EQ run in progress on the head, else the oldest. -/
def deferredReq (s : State) (h : HeadId) (kind : CalKind) : Option CalReq :=
  let l := s.cal.requests.filter (fun q => q.kind = kind && (kind = .sync || q.head = h))
  (l.find? (fun q => s.cal.eqRuns.any (fun e => e.head = h && e.zone = q.zone))).or l.head?

/-- CAL_DEFER_TIMEOUT (R275): too few ordinary reads within 1 hour; the run is deferred and stays requested. -/
def execCalDeferTimeout (h : HeadId) (kind : CalKind) (s : State) : Host.Outcome State Fault Refusal :=
  .next (if !s.resident || s.faults.mgmtDown || !(kind = .eq || kind = .sync) then s
    else match deferredReq s h kind with
      | none => s
      | some q =>
        let s := recordResult h kind 0 4 s
        { s with cal.eqRuns := s.cal.eqRuns.filter (fun e => !(kind = .eq && e.head = h && e.zone = q.zone)) })

end Sys2Proof.Machine
end

