-- ==== Sys2Proof/Machine/Checks.lean ====
section
/-! DEFINITION. The checks of a value written to an object (spec 15, R437 to R440): its length and text, its range and reserved
bits as the owning chapters state them, and the tests on the state of the drive. -/

namespace Sys2Proof.Machine

/-! ## Objects (R436, R443) -/

/-- The object of every index 0xF000 to 0xFFFF (R443). -/
def oemObject : Obj := block 0xF000 0xFFFF 0 255 .blob .rwp true false .none 4096 0 0

/-- An index all of whose objects are absent on the CRX4-A128-FB (spec 00, R2). -/
def indexAbsent (crx4 : Bool) (index : Nat) : Bool :=
  crx4 && objects.any (fun o => o.unit = .chanIndex && o.index0 + 4 ≤ index && index ≤ o.index1)

/-- The object at an index and subindex, or the abort code (R436). -/
def lookupObj (s : State) (index sub : Nat) : Except Nat Obj :=
  if 0xF000 ≤ index then .ok oemObject
  else if !indexExists index || indexAbsent s.power.crx4 index then .error 0xD0000001
  else match objAt index sub with
    | none => .error 0xD0000002
    | some o => if fusedOff s.power.crx4 o index sub then .error 0xD0000001 else .ok o

/-! ## Lengths and text (Table 15.1, R438) -/

/-- The length of a scalar type. -/
def ObjType.size : ObjType → Nat
  | .bool | .u8 => 1 | .u16 | .i16 => 2 | .u32 | .i32 => 4 | .u64 => 8 | .qs => 5 | _ => 0

/-- The type code of DESCRIBE. -/
def ObjType.code : ObjType → Nat
  | .bool => 0x01 | .u8 => 0x02 | .u16 => 0x03 | .u32 => 0x04 | .u64 => 0x05 | .i16 => 0x06 | .i32 => 0x07 | .qs => 0x08
  | .str => 0x09 | .blob => 0x0A | .table => 0x0B

/-- The access code of DESCRIBE (Table 15.2). -/
def Access.code : Access → Nat
  | .ro => 1 | .rw => 2 | .wo => 3 | .const => 4 | .rwp => 5 | .rp => 6

/-- The greatest length of an object's value. -/
def Obj.maxLength (o : Obj) : Nat :=
  match o.ty with
  | .str | .blob => o.recLen
  | .table => o.recLen * o.cntHi
  | t => t.size

/-- Continuation bytes still needed and the range of the next one, along well-formed UTF-8; none once malformed. -/
def utf8Step (st : Option (Nat × Nat × Nat)) (b : Byte) : Option (Nat × Nat × Nat) :=
  let x := b.toNat
  match st with
  | none => none
  | some (0, _, _) =>
    if x < 0x80 then some (0, 0, 0) else if x < 0xC2 then none else if x ≤ 0xDF then some (1, 0x80, 0xBF)
    else if x = 0xE0 then some (2, 0xA0, 0xBF) else if x = 0xED then some (2, 0x80, 0x9F) else if x ≤ 0xEF then some (2, 0x80, 0xBF)
    else if x = 0xF0 then some (3, 0x90, 0xBF) else if x ≤ 0xF3 then some (3, 0x80, 0xBF)
    else if x = 0xF4 then some (3, 0x80, 0x8F) else none
  | some (n + 1, lo, hi) => if lo ≤ x && x ≤ hi then some (n, 0x80, 0xBF) else none

/-- Text is well-formed UTF-8. -/
def utf8Ok (v : List Byte) : Bool := (v.foldl utf8Step (some (0, 0, 0))).any (fun st => st.1 = 0)

/-- The length, the record count and the text of a value are those of its type (R438); OEM_WBUF takes whole pages (spec 14,
Table 14.9). -/
def lengthOk (o : Obj) (v : List Byte) : Bool :=
  match o.ty with
  | .str => v.length ≤ 64 && utf8Ok v
  | .blob => if o.index0 = 0x7050 then v.length = 16384 else v.length ≤ o.recLen
  | .table => v.length % o.recLen = 0 && o.cntLo ≤ v.length / o.recLen && v.length / o.recLen ≤ o.cntHi
  | t => v.length = t.size

/-! ## Ranges and reserved bits -/

/-- A scalar value. -/
def scalarOf (o : Obj) (v : List Byte) : Int :=
  match o.ty with | .i16 => fieldS v 0 2 | .i32 => fieldS v 0 4 | _ => (leNat v : Int)

/-- A field lies in a range. -/
def within (lo hi x : Nat) : Bool := lo ≤ x && x ≤ hi

/-- Strictly ascending. -/
def ascending : List Nat → Bool
  | a :: b :: r => a < b && ascending (b :: r)
  | _ => true

/-- The aperiodic autocorrelation of a 16-cell pattern at a shift (spec 05, R130). -/
def autocorrelation (p k : Nat) : Int :=
  ((List.range (16 - k)).map (fun i => if bitOf p i = bitOf p (i + k) then (1 : Int) else -1)).sum

/-- FACTORY_DEFECTS (spec 04, R116): sorted, and every position inside the format table of its head. DESIGN CHOICE, log 42: a list that holds a
position twice is not sorted. -/
def defectsOk (s : State) (h : HeadId) (v : List Byte) : Bool :=
  let l := records v 8
  let z := formatOf s h
  ascending (l.map (fun e => byteAt e 0 * 2 ^ 40 + fieldU e 1 3 * 2 ^ 16 + fieldU e 4 2)) &&
    l.all (fun e => match z[byteAt e 0]? with
      | none => false
      | some z => fieldU e 1 3 < z.tracks && fieldU e 4 2 < z.n && fieldU e 6 2 < 8)

/-- CE_HEADER (spec 06, R184); R161 checks the rest at commit. -/
def ceHeaderOk (r : List Byte) : Bool :=
  1 ≤ byteAt r 3 && fieldU r 4 2 ≤ 32767 && fieldU r 6 2 ≤ 32767 && 1 ≤ byteAt r 14 && 1 ≤ byteAt r 15 && byteAt r 28 ≤ 48
    && byteAt r 29 = 0 && zeroRun r 32 32

/-- A CHANNEL_SET record (spec 07, Table 7.10). -/
def channelSetOk (r : List Byte) : Bool :=
  within 105 130 (byteAt r 0) && within 51 154 (byteAt r 1) && byteAt r 2 ≤ 24 && within 1 64 (byteAt r 3) && within 1 8 (byteAt r 4)
    && within 4 16 (byteAt r 5) && within 2 12 (byteAt r 6) && within 6 20 (byteAt r 7) && within 1 8 (byteAt r 8)
    && within 4 14 (byteAt r 9) && within 32 100 (byteAt r 10) && byteAt r 11 = 0 && within 4 64 (byteAt r 24)
    && within 8 16 (byteAt r 25) && zeroRun r 26 6

/-- A PA_PROFILE record (spec 08, R253). -/
def paProfileOk (s : State) (r : List Byte) : Bool :=
  byteAt r 0 ≤ 2 && byteAt r 1 < 4 && !(bitOf (byteAt r 1) 1 && cfg s 0x5100 5 = 1)
    && (List.range 8).all (fun i => byteAt r (2 + i) < 128) && within 1 1000 (fieldU r 18 2) && zeroRun r 20 12

/-- A SENSOR_LIMITS record (spec 09, Table 9.5, R267). -/
def sensorLimitsOk (j : Nat) (r : List Byte) : Bool :=
  let warn := fieldS r 0 2
  let throttle := fieldS r 2 2
  let critical := fieldS r 4 2
  warn ≤ throttle && throttle ≤ critical && (j ≠ 10 || critical ≤ 2000) && within 16 1600 (fieldU r 6 2)
    && -320 ≤ fieldS r 8 2 && fieldS r 8 2 ≤ 320 && within 950 1100 (fieldU r 10 2) && 1000 ≤ fieldU r 12 2
    && within 2000 5000 (fieldU r 14 2)

/-- The records of a TABLE lie in their ranges, with reserved bytes zero (R10). -/
def tableOk (s : State) (index sub : Nat) (v : List Byte) : Bool :=
  if index = 0x2002 then fieldU v 2 2 = 0 && fieldU v 14 2 = 0
  else if index = 0x2101 then
    let l := records v 8
    ascending (l.map (fun r => fieldU r 0 4)) && l.all (fun r => fieldU r 6 2 = 0)
  else if index = 0x3100 then
    (records v 32).all (fun r => within 500 6000 (fieldU r 14 2) && within 256 512 (fieldU r 16 2) && within 1 2 (byteAt r 23)
      && zeroRun r 25 7)
  else if index = 0x3110 then defectsOk s (Fin.ofNat 32 sub) v
  else if index = 0x4001 then 256 ≤ fieldU v 4 2 && byteAt v 12 ≤ 1 && byteAt v 13 = 0 && byteAt v 31 = 0
  else if 0x4110 ≤ index && index ≤ 0x4117 then
    if sub = 1 then ceHeaderOk v
    else if sub = 2 then (records v 48).all (fun r => zeroRun r 25 3 && zeroRun r 38 10)
    else true
  else if 0x4120 ≤ index && index ≤ 0x4127 then zeroRun v 2 6 && zeroRun v 108 4
  else if index = 0x5001 then
    v.getLast? = some 0 && v.dropLast.all (fun c => [0x01, 0x02, 0x03, 0x11, 0x12, 0x13, 0x21, 0x22, 0x31].contains c.toNat)
  else if index = 0x5010 then channelSetOk v
  else if index = 0x5021 then byteAt v 0 ≤ 240 && byteAt v 1 ≤ 240 && byteAt v 4 ≤ 63 && byteAt v 5 ≤ 63 && zeroRun v 6 10
  else if index = 0x5101 then paProfileOk s v
  else if index = 0x5102 then -15 ≤ fieldS v 6 2 && fieldS v 6 2 ≤ 1000 && byteAt v 8 ≤ 16 && zeroRun v 9 7
  else if index = 0x5103 then zeroRun v 16 16
  else if index = 0x6003 then sensorLimitsOk sub v
  else true

/-- A scalar lies in its range where that is more than two bounds (by object). -/
def specialOk (s : State) (index sub x : Nat) (z : Int) : Bool :=
  if index = 0x1100 then (if sub = 4 then x = 0 || 8 ≤ x else true)
  else if index = 0x1101 then x < 2 ^ 14
  else if index = 0x3001 then x ≤ 31 || x = 255
  else if index = 0x4000 then (if sub = 2 then (List.range 15).all (fun k => autocorrelation x (k + 1) ≤ 6) else true)
  else if index = 0x5000 then
    (if sub = 12 then (List.range 4).all (fun k => bitsOf x (8 * k) 8 ≤ 0x3F || bitsOf x (8 * k) 8 = 0xFF) else true)
  else if index = 0x5040 then (if sub = 1 then x % 16 ≤ 9 else true)
  else if index = 0x6000 then (if sub = 3 then (List.range 8).all (fun k => bitsOf x (4 * k) 4 ≤ 10) else true)
  else if index = 0x6020 then
    (if sub = 1 then z ≤ cfgI16 s 0x6020 2 - 160 else if sub = 2 then cfgI16 s 0x6020 1 ≤ z - 160 else true)
  else if index = 0x6103 then (if sub = 2 then headFitted s (Fin.ofNat 32 s.cal.reqHead) else true)
  else if index = 0x7101 then (if sub = 1 then x % 4096 = 0 else true)
  else if index = 0x7302 then (if sub = 1 then !retireReserved x else true)
  else true

/-- A value of the right length lies in the object's range, with reserved bits zero (R438). -/
def rangeOk (s : State) (index sub : Nat) (o : Obj) (v : List Byte) : Bool :=
  match o.ty with
  | .blob => true
  | .str => v.length ≤ o.recLen && (index ≠ 0x2000 || v.all (fun b => 0x20 ≤ b.toNat && b.toNat < 0x7F))
  | .table => tableOk s index sub v
  | _ => let x := scalarOf o v
         o.lo ≤ x && x ≤ o.hi && specialOk s index sub (leNat v) x

/-! ## State refusals -/

/-- Some actuator is not unloaded: a head is loaded (log 34). -/
def headsLoaded (s : State) : Bool := allChans.any (fun n => !unloaded s n)

/-- The state refuses a write whatever the value (step 9 of R440): spec 04, R104 and R109; spec 05, R130; spec 06, R183; spec 08,
R252. -/
def stateRefuses (s : State) (index sub : Nat) : Bool :=
  if (index = 0x3000 && sub ≤ 4) || index = 0x3001 then s.sub.namespaces ≠ [] || headsLoaded s
  else if index = 0x3100 then s.sub.namespaces ≠ []
  else if (index = 0x4000 || index = 0x4100) && sub ≤ 2 then headsLoaded s
  else if index = 0x5101 then allChans.any (fun n => n.val = sub && !unloaded s n)
  else false

/-- The abort code of a test on the value and the state together (R440), 0 for none: HDA_REF and SENSOR_ENABLE (spec 09, R267),
RETIRE_REQ (spec 13, R409), OEM_CMD (spec 14, R433), SLOT_ERASE (R434). -/
def valueRefusal (s : State) (index sub x : Nat) : Nat :=
  if index = 0x6000 then
    let ref := cfg s 0x6000 2
    if (sub = 1 && ref < 10 && !bitOf x ref) || (sub = 2 && x < 10 && !bitOf (cfg s 0x6000 1) x) then 0xD0000030 else 0
  else if index = 0x7302 then (if sub = 1 && retireAbsent s x then 0xD0000030 else 0)
  else if index = 0x7050 then (if sub = 3 then oemRefusal x s else 0)
  else if index = 0x7060 then slotEraseRefusal x s
  else 0

/-! ## The owner lock (R461) -/

/-- The identifier a path has for the owner lock: the port's Host Identifier, zero-extended; zero for the MCTP path. -/
def identOf (s : State) : Path → BitVec 128
  | .port0 => (s.port 0).feat.hostId | .port1 => (s.port 1).feat.hostId | .mctp => 0

/-- The owner lock refuses a path. -/
def lockedOut (s : State) (p : Path) : Bool :=
  match s.mgmt.lock with | none => false | some l => !(l.1 = p && l.2 = identOf s p)

/-! ## The order of refusals (R440) -/

/-- Objects that are WO for a privileged path only (spec 16, Table 16.8). -/
def woPrivileged (index sub : Nat) : Bool :=
  (index = 0x7100 && sub = 8) || (index = 0x7101 && sub = 2) || (index = 0x7102 && sub = 1)

/-- A write of the object needs the privileged view. -/
def needsPriv (o : Obj) (index sub : Nat) : Bool := o.acc = .rwp || woPrivileged index sub

/-- Step 4 of R440 for a write. -/
def writeAccess (priv : Bool) (o : Obj) (index sub : Nat) : Nat :=
  match o.acc with
  | .ro | .const | .rp => 0xD0000011
  | _ => if needsPriv o index sub && !priv then 0xD0000010 else 0

/-- Step 4 of R440 for a read. -/
def readAccess (priv : Bool) (o : Obj) : Nat :=
  match o.acc with
  | .wo => 0xD0000012
  | .rp => if priv then 0 else 0xD0000010
  | _ => 0

/-- A write that stages or commits: of a staged object, or of COMMIT but for a discard. -/
def commits (o : Obj) (index sub : Nat) (discard : Bool) : Bool := o.staged || (index = 0x1020 && sub = 1 && !discard)

/-- Steps 3 to 6 of R440 for a write: the object, its access, the owner lock and the staging owner. -/
def admitOwner (s : State) (p : Path) (index sub : Nat) (discard : Bool) : Except Nat Obj :=
  match lookupObj s index sub with
  | .error e => .error e
  | .ok o =>
    let acc := writeAccess (pathState s p).priv o index sub
    if acc ≠ 0 then .error acc
    else if needsPriv o index sub && lockedOut s p then .error 0xD0000031
    else if commits o index sub discard && s.dict.owner.isSome && s.dict.owner ≠ some p then .error 0xD0000040
    else .ok o

/-- The whole dictionary is busy: a restart of the management plane, an activation (spec 16, Table 16.6). -/
def dictBusy (s : State) : Bool := s.faults.mgmtDown || s.fw.activation ≠ .none

/-- Steps 3 to 7 of R440 for a write. Busy are the whole dictionary, before MOUNT ends a persistent object (spec 03, R85), during a commit
the staged objects (R447), and the OEM command during another. -/
def admitWrite (s : State) (p : Path) (index sub : Nat) (discard : Bool) : Except Nat Obj :=
  match admitOwner s p index sub discard with
  | .error e => .error e
  | .ok o =>
    if dictBusy s || (o.persistent && !s.mule.mounted) || (commits o index sub discard && s.dict.stage ≠ .idle)
        || (index = 0x7050 && sub = 3 && (oemBusy s || !s.mule.mounted)) then .error 0xD0000050
    else .ok o

/-- Steps 9 to 11 of R440: the abort code of a whole value, 0 if it is accepted. -/
def valueCode (s : State) (index sub : Nat) (o : Obj) (v : List Byte) : Nat :=
  if stateRefuses s index sub then 0xD0000030
  else if !lengthOk o v then 0xD0000020
  else
    let c := valueRefusal s index sub (leNat (v.take 8))
    if c ≠ 0 then c else if rangeOk s index sub o v then 0 else 0xD0000021

end Sys2Proof.Machine
end

