-- ==== Sys2Proof/Machine/Reading.lean ====
section
/-! DEFINITION. The rows of the read channel (spec 07): a sector passes the head, a decode completes, a second-look attempt ends, the
recovery time limit passes; and the power of the front-ends. -/

namespace Sys2Proof.Machine

/-! ## Where the head has to be -/

/-- An offset of a re-read (R217): floor of pct x DATA_PITCH x 2 / 100, toward the ID for the first of each pair. -/
def stepOffset (z : ZoneRec) : LadderStep → Int
  | .offsets k =>
    let x : Int := ((if k < 2 then 5 else 10) * z.pitch * 2 / 100 : Nat)
    if k % 2 = 0 then x else -x
  | _ => 0

/-- The track offset at which an operation's sectors are read: of the sweep for a calibration run (spec 09, R279). -/
def opOffset (s : State) (o : MediaOp) : Int := (runOf s o).elim 0 (·.phase.offset)

/-- The head follows the track of a sector at a track offset. -/
def atSector (s : State) (n : ChanId) (k : BandKey) (off : Nat) (by_ : Int) : Bool := onSector s n k off && (s.ce n).offset = by_

/-- The track offset of a ladder's re-read. -/
def ladderOffset (s : State) (l : Ladder) : Int := (zoneAt s l.op.band).elim 0 (fun z => stepOffset z l.step)

/-! ## Power of the front-ends (R189) -/

/-- The channel has a sector to capture in the present window: of its media read, or of a ladder. -/
def capturesNow (s : State) (n : ChanId) : Bool :=
  match (s.rwc n).op with
  | some o =>
    let off := o.offset + (s.rwc n).nextSector
    (s.rwc n).nextSector < o.count && atSector s n o.band off (opOffset s o) && passesNow s n o.band off
  | none =>
    match nextReread s n with
    | some l => atSector s n l.op.band l.offset (ladderOffset s l) && passesNow s n l.op.band l.offset
    | none => false

/-- The front-ends of the active head (R189): powered while a read window has sectors to capture, in standby otherwise, while the channel
writes, and for a retired reader. The 250 ns before the first capture lie within the window of that capture (log 35). -/
def powerFrontEnds (n : ChanId) (s : State) : State :=
  let h := (s.sdm n).head
  let on := tickReads s && capturesNow s n && !(s.wr n).request && !(s.wr n).wg
  s.modRwc n (fun r => { r with powerA := on && !readerRetired s h false, powerB := on && !readerRetired s h true })

/-! ## SECTOR_READ -/

/-- The frequency at which the loop starts (R193): that held at the end of the channel's previous sector of the same head and track, if
it was read within the last revolution. -/
def startFreq (s : State) (n : ChanId) (h : HeadId) (target : Int) : Int :=
  match (s.rwc n).lastFreq.find? (fun x => x.1 = h && x.2.1 = target && !passed s x.2.2.1 s.tick.revNs) with
  | some (_, _, _, f) => f
  | none => 0

/-- The frequency that the loop holds at the end of a sector is kept for the next one of its head and track (R193). -/
def keepFreq (s : State) (h : HeadId) (target f : Int) (l : List (HeadId × Int × Nat × Int)) : List (HeadId × Int × Nat × Int) :=
  (h, target, s.clock.ns, f) :: l.filter (fun x => !(x.1 = h && x.2.1 = target) && !passed s x.2.2.1 s.tick.revNs)

/-- The sample indexes at which the fragments of a sector start (Table 7.5): of the first sector bit of each (DESIGN CHOICE, log 35). -/
def fragStarts (p : ReadParams) (pieces : List (Nat × Nat × Nat)) : List Nat :=
  pieces.zipIdx.map (fun x => samplesOf p (32 + x.1.2.1 + 48 * x.2))

/-- The capture entry of a sector (R206, Table 7.5): `t` is the read of it. The capture began as many ticks ago as it has met servo
fields. -/
def captureEntry (s : State) (k : BandKey) (off set : Nat) (p : ReadParams) (t : Track) (freq : Int) (out : SyncOutcome) :
    CaptureEntry :=
  let pieces := match sectorPlace s k off with | none => [] | some (_, _, sec, z) => sectorPieces z (wedges s) sec
  let spans := spansOf t
  let samples := min 49152 (samplesOf p (spanOf s k off).length)
  { state := .filling, head := k.head, band := k.band, offset := off, rate := p.rate, samplePct := p.pct, channelSet := set
    tick := s.tick.counter.truncate 32 - BitVec.ofNat 32 (pieces.length - 1), samples := samples, gainLimit := false, recovered := false
    sm1 := out.sm1, sm2 := out.sm2, synd := 0, frags := (fragStarts p pieces).take 8, spans := spans.map (·.1)
    spanReaders := spans.map (·.2), overflow := 4 < spans.length, basis := out.basis, shift := out.shift, order := 0
    codesA := (t.a.codes.reverse).take samples, codesB := (t.b.codes.reverse).take samples, freq := freq }

/-- The index of SM1_DIST_HIST: the distance, or a miss. -/
def sm1Bucket (o : Option (Nat × Int)) : Nat := match o with | none => 5 | some x => min x.1 4

/-- The asperities of a sector counted and recorded (R214). -/
def noteAsperities (n : ChanId) (count : Nat) (s : State) : State :=
  (List.range count).foldl (fun s _ =>
    transientFault .asperity none 0 (s.modRwc n (fun r => { r with taEvents := r.taEvents + 1 }))) s

/-- A span of this read overlaps one recorded on an earlier read of the ladder (R216); those of this read that are recorded, the first four
(R215), join them. -/
def noteSpans (n : ChanId) (o : MediaOp) (off : Nat) (spans : List (Nat × Nat)) (s : State) : State :=
  match ladderOf s n o off with
  | none => s
  | some l =>
    let s := if spans.any (fun a => l.spans.any (spansMeet a)) then pendingDefect o.band off s else s
    modLadder n o off (fun l => { l with spans := l.spans ++ spans.take 4 }) s

/-- A sector of an EQ run's zone that failed on the fly counts in its gate (spec 09, R283). -/
def noteFailed (c : Codeword) (s : State) : State :=
  match bandPlace s c.op.band with
  | none => s
  | some (_, zi, _) => if c.joint && !c.reread then eqFailed c.op.band.head zi s else s

/-- A sector is sampled, captured, framed and detected (R192 to R202, R206): it goes to the decoder, or fails at once when SM1 was
missed. `sel` is the equaliser set in force. -/
def takeSector (n : ChanId) (o : MediaOp) (off set : Nat) (sel : EqSel) (again : Bool) (i : Fin 10) (sig : SectorSignal) (s : State) :
    State :=
  let k := o.band
  let p := readParams s n k set ((zoneAt s k).elim 0 (·.rate)) (chanCfg s n 0x5000 5)
  let kinds := spanOf s k off
  let target := targetOf s k off
  let freq := startFreq s n k.head target
  let t := runTrack p true sel kinds sig.rxA sig.rxB freq
  let d := t.decisions p.rate kinds
  let out := syncOutcome s n d
  let e := captureEntry s k off set p t freq out
  let limit := t.a.limit || t.b.limit
  let s := noteAsperities n e.spans.length (modEntry n i (fun _ => e) s)
  let s := if again then noteSpans n o off e.spans s else s
  let s := s.modRwc n (fun r => { r with
    sm1Hist := updNat r.sm1Hist (sm1Bucket e.sm1) (· + 1), lastFreq := keepFreq s k.head target t.freq r.lastFreq })
  let s := calSectorRead o off (e.sm1.isNone && e.sm2.isNone) (noteSync (syncDistances s n d out) s)
  let joint := match p.choose sel with | .joint _ => true | .single _ => false
  let frame := (e.sm1.map (·.2)).getD 0
  let llr := codewordRatios (sectorRatios p .giveWay sel (readerSpans e false) (readerSpans e true) kinds t.pairs) frame
  let c : Codeword := ⟨o, off, i, again, joint, llr, t.pairs, sm2Distances s n d frame, limit, p⟩
  if e.sm1.isSome then s.modRwc n (fun r => { r with decoding := r.decoding ++ [c] })
  else sectorFails n c false (transientFault .syncMiss none 0 (noteFailed c s))

/-- The media read of a channel has read its last sector (R219): the preamplifier goes to its idle mode (spec 08, Table 8.3). -/
def readOver (n : ChanId) (s : State) : State :=
  unplace n (modeFrame n 14 (s.modRwc n (fun r => { r with op := none, nextSector := 0, stopRead := false })))

/-- The next sector of the media read: without any use of its data left it stops; past its bin it goes back (R334, R392). The sector that a
read ends with is taken where the actuator has since left its track (R141). -/
def readNext (n : ChanId) (o : MediaOp) (i : Fin 10) (sig : SectorSignal) (s : State) : State :=
  let r := s.rwc n
  let off := o.offset + r.nextSector
  if !opWanted s o then
    (opRegs s o).foldl (fun s mr => endReg mr s) (readOver n s)
  else if !r.stopRead && !atSector s n o.band off (opOffset s o) then
    if r.nextSector = 0 then
      refile o (readOver n { s with sched.binMisses := upd s.sched.binMisses n (· + 1) })
    else s
  else
    let set := (zoneAt s o.band).elim 0 (·.set)
    let s := if r.nextSector = 0 then internalRegs o s else s
    let s := takeSector n o off set (.joint 0) false i sig (s.modRwc n (fun r => { r with nextSector := r.nextSector + 1 }))
    let r := s.rwc n
    if o.count ≤ r.nextSector then readOver n s
    else if r.stopRead then refile (o.rest r.nextSector) (readOver n s)
    else s

/-- The channel set of a re-read. -/
def rereadSet (s : State) (l : Ladder) : Nat :=
  match l.step with | .altSets k => k | _ => (zoneAt s l.op.band).elim 0 (·.set)

/-- The equaliser set of a re-read: a single-reader set at step 6 (Table 7.8). -/
def rereadSel (l : Ladder) : EqSel := match l.step with | .single k => .single (k = 1) | _ => .joint 0

/-- A sector read again by its ladder (R217): not started when it would pass the head after the limit (R218); step 6 is passed over with
a reader of the head retired (R222). -/
def readAgain (n : ChanId) (l : Ladder) (i : Fin 10) (sig : SectorSignal) (s : State) : State :=
  if passed s l.failedAt l.limit then unrecovered n l s
  else if (match l.step with | .single _ => !bothReaders s l.op.band.head | _ => false) then nextStep n l s
  else if !atSector s n l.op.band l.offset (ladderOffset s l) then s
  else takeSector n l.op l.offset (rereadSet s l) (rereadSel l) true i sig s

/-- What follows a row of channel `n`: ladders and registers without a use end, the engine goes on, the front-ends are powered as the next captures
need. -/
def settleChannel (n : ChanId) (s : State) : State := powerFrontEnds n (startLook n (endUnwanted (dropUnwanted n s)))

/-- SECTOR_READ (R196): a sector passes the head of channel `n`. -/
def execSectorRead (n : ChanId) (sig : SectorSignal) (s : State) : Host.Outcome State Fault Refusal :=
  .next (if !s.live || !tickReads s || (s.wr n).run.isSome then s
    else if 2 ≤ (s.rwc n).decoding.length then (if (s.rwc n).stopRead then settleChannel n (finishRead n false s) else s)
    else
      let s := dropUnwanted n s
      match (entriesIn s n .free).head?, (s.rwc n).op with
      | some i, some o => settleChannel n (readNext n o i sig s)
      | some i, none =>
        (match nextReread s n with
         | none => s
         | some l => settleChannel n (readAgain n l i sig s))
      | none, _ => if (s.rwc n).stopRead then settleChannel n (finishRead n false s) else s)

/-! ## DECODE_COMPLETE -/

/-- The bucket of ITER_HIST: 1 to 12 iterations, then not converged. -/
def iterBucket (d : Decoded) (converged : Bool) : Nat := if converged then min 12 (max 1 d.iterations) - 1 else 12

/-- What calibration takes from a sector read good on the fly (spec 09, R273, R276, R277), not again by its ladder: the EQ adapter only
of one read with the joint set. -/
def noteDecode (c : Codeword) (e : CaptureEntry) (d : Decoded) (w : BitVec 37120) (s : State) : State :=
  let h := c.op.band.head
  match bandPlace s c.op.band with
  | none => calSectorGood s c e d w
  | some (_, zi, _) =>
    if c.reread then s
    else
      let s := noteIterations h zi d.iterations s
      if !c.joint then s else
      eqAdapt h zi c (spanOf s c.op.band c.offset) (readerSpans e false) (readerSpans e true) ((e.sm1.map (·.2)).getD 0) w s

/-- The codeword of a sector read good on the fly. -/
def sectorGood (n : ChanId) (c : Codeword) (b : Block) (s : State) : State :=
  let e := (s.rwc n).entries[c.entry]
  let s := s.modRwc n (fun r => { r with sectorsRead := r.sectorsRead + 1 })
  let s := match e.basis with
    | .sm2 _ => s.modRwc n (fun r => { r with sm2Mismatch := r.sm2Mismatch + 1 })
    | _ => s
  let s := freeEntry n c.entry s
  if c.reread then
    match ladderOf s n c.op c.offset with
    | none => s
    | some l =>
      if l.stop.isSome then s
      else
        let s := match l.step with
          | .single k => readerBlame c.op.band.head (k = 0) s
          | _ => s
        recovered n l b s
  else deliver c.op c.offset b s

/-- DECODE_COMPLETE (R200, R204): the decoder has worked on the codeword that it took first. -/
def decodeFirst (n : ChanId) (s : State) : State :=
  match (s.rwc n).decoding with
  | [] => s
  | c :: rest =>
    let d := decodeWord (byteAt c.params.set 25) c.params.iterations c.llr
    let v := judgeDecode s c.op.band c.offset d
    let s := s.modRwc n (fun r => { r with
      decoding := rest, iterHist := updNat r.iterHist (iterBucket d d.word.isSome) (· + 1) })
    let s := modEntry n c.entry (fun e => { e with synd := d.syndrome }) s
    let s := if d.word.isSome then noteSync2 c.marks s else s
    let s := match v, d.word with
      | .good _, some w => noteDecode c (s.rwc n).entries[c.entry] d w s
      | _, _ => noteFailed c s
    settleChannel n (match v with
      | .good b => sectorGood n c b s
      | .misdirected => sectorFails n c true s
      | _ => sectorFails n c false s)

/-- DECODE_COMPLETE: see `decodeFirst`; `entry` is the capture entry whose codeword the decoder took first. -/
def execDecodeComplete (n : ChanId) (entry : Fin 10) (s : State) : Host.Outcome State Fault Refusal :=
  .next (if s.live && (s.rwc n).decoding.head?.map (·.entry) = some entry then decodeFirst n s else s)

/-! ## SECOND_LOOK_ATTEMPT_END -/

/-- An attempt recovered the sector (R211): counted on the SM2 basis, and the other reader blamed for a single-reader set. -/
def lookGood (n : ChanId) (l : Ladder) (a : Attempt) (b : Block) (s : State) : State :=
  let s := match (s.rwc n).entries[a.entry].basis with
    | .sm2 _ | .back => s.modRwc n (fun r => { r with sm2Reframes := r.sm2Reframes + 1 })
    | _ => s
  let s := if a.code = 0x21 || a.code = 0x22 then readerBlame l.op.band.head (a.code = 0x21) s else s
  recovered n l b s

/-- SECOND_LOOK_ATTEMPT_END (R210 to R213, R221): the engine's attempt ends. It recovers the sector, or the ladder has its next attempt;
with none left it goes on to its next step, and at the recovery time limit the sector is unrecovered (R218). A ladder that is to
stop stops now. -/
def lookEnds (n : ChanId) (s : State) : State :=
  match (s.rwc n).attempt with
  | none => s
  | some a =>
    let s := s.modRwc n (fun r => { r with attempt := none })
    let s := match (s.rwc n).ladders.find? (fun l => l.op.id = a.opId && l.offset = a.offset) with
      | none => s
      | some l =>
        if l.stop.isSome then s
        else
          let e := (s.rwc n).entries[a.entry]
          match judgeDecode s l.op.band l.offset (attemptDecode s e a) with
          | .good b => lookGood n l a b s
          | _ =>
            let s := if earlyDue s l then earlyEnds n l s else s
            if passed s l.failedAt l.limit then unrecovered n l s
            else match l.plan.drop 1 with
              | [] => nextStep n l s
              | rest => modLadder n l.op l.offset (fun x => { x with plan := rest }) s
    settleChannel n (stopsFall n false s)

/-- SECOND_LOOK_ATTEMPT_END: see `lookEnds`; `code` is the code of the attempt under way. -/
def execSecondLookAttemptEnd (n : ChanId) (code : Nat) (s : State) : Host.Outcome State Fault Refusal :=
  .next (if s.live && (s.rwc n).attempt.map (·.code) = some code then lookEnds n s else s)

/-! ## RETRY_TIME_LIMIT -/

/-- The first limit of a ladder that is still to pass. -/
def Ladder.nextLimit (l : Ladder) : Nat := (l.early.map (·.2)).getD l.limit

/-- The ladder whose limit passes first. -/
def firstToExpire (s : State) (n : ChanId) : Option Ladder :=
  (s.rwc n).ladders.foldl (fun best l =>
    match best with
    | none => some l
    | some b => if l.failedAt + l.nextLimit < b.failedAt + b.nextLimit then some l else some b) none

/-- RETRY_TIME_LIMIT (R218, R220): the sector goes to step 7, or only the reads of the controller whose limit is the earlier end (spec 10,
R300); an attempt of the engine that runs at the limit completes first. -/
def execRetryTimeLimit (n : ChanId) (s : State) : Host.Outcome State Fault Refusal :=
  .next (if !s.live then s
    else match firstToExpire s n with
      | none => s
      | some l =>
        if l.early.isSome then
          (if attemptOf s n l then
            modLadder n l.op l.offset (fun x => { x with early := x.early.map (fun y => (y.1, s.clock.ns - x.failedAt)) }) s
          else settleChannel n (earlyEnds n l s))
        else if attemptOf s n l then modLadder n l.op l.offset (fun x => { x with limit := s.clock.ns - x.failedAt }) s
        else settleChannel n (unrecovered n l s))

end Sys2Proof.Machine
end

