-- ==== Sys2Proof/Machine/Engine.lean ====
section
/-! DEFINITION. The control engines (spec 06): arithmetic, sections, seek law, initial-value compensation, Flock coupling, the
choice of mode, computations, overruns and re-initialisation. -/

namespace Sys2Proof.Machine

/-! ## Arithmetic (R156 to R158) -/

/-- sat32: a value held within the signal word (R157). -/
def sat32 (x : Int) : Int := clampInt (-2147483648) 2147483647 x

/-- convert(v, lim) before the last clamp (R158, steps 1 and 2). -/
def toCommand (v : Int) : Int := sat16 ((v + 32768) / 65536)

/-- A clamp to ±lim (R158, step 3). -/
def clampSym (lim : Nat) (c : Int) : Int := clampInt (-(lim : Int)) lim c

/-- A section's coefficients c0 to c4 as raw values and shifts. -/
abbrev Coeffs := List (Int × Nat)

/-- The term of coefficient `i` and a signal word (R156). -/
def coeffTerm (c : Coeffs) (i : Nat) (x : Int) : Int :=
  let e := c.getD i (0, 0)
  term e.1 e.2 x

/-- One section (R159 onward, "Sections"): its output and its histories after the sample. -/
def sectionStep (c : Coeffs) (h : Hist) (x : Int) : Int × Hist :=
  let y := sat32 (coeffTerm c 0 x + coeffTerm c 1 h.x1 + coeffTerm c 2 h.x2 - coeffTerm c 3 h.y1 - coeffTerm c 4 h.y2)
  (y, ⟨x, h.x1, y, h.y1⟩)

/-- Histories of zero. -/
def zeroHist : Hist := ⟨0, 0, 0, 0⟩

/-- Every history of an engine at zero. -/
def zeroCeHist : CeHist := ⟨.replicate 14 zeroHist, .replicate 4 (zeroHist, zeroHist)⟩

/-! ## Coefficients of a channel (R184 to R187) -/

/-- CE_HEADER of a channel. -/
def ceHeader (s : State) (n : ChanId) : List Byte := servoVal s (0x4110 + n.val) 1
/-- The coefficients of a section slot (R185). -/
def slotCoeffs (secs : List Byte) (i : Nat) : Coeffs :=
  let r := recordAt secs 48 i
  (List.range 5).map (fun k => (fieldS r (4 * k) 4, fieldU r (20 + k) 1))
/-- CE_SECTIONS of a channel. -/
def ceSections (s : State) (n : ChanId) : List Byte := servoVal s (0x4110 + n.val) 2
/-- MA_SECTIONS, MODEL_SECTIONS and VCM_SECTIONS. -/
def sectionCounts (h : List Byte) : Nat × Nat × Nat := (fieldU h 0 1, fieldU h 1 1, fieldU h 2 1)
/-- L of R159: VCM_LIMIT under the cap in force, at least 1. -/
def vcmLimit (s : State) (n : ChanId) : Nat := max 1 (fieldU (ceHeader s n) 4 2 * s.tick.capPct / 100)
/-- LOAD_CMD. -/
def loadCmd (s : State) (n : ChanId) : Int := fieldS (ceHeader s n) 30 2
/-- SETTLE_ENTRY. -/
def settleEntry (s : State) (n : ChanId) : Nat := fieldU (ceHeader s n) 16 4
/-- FLOCK_INPUT `j` of a channel. -/
def flockInput (s : State) (n : ChanId) (j : Nat) : List Byte := servoVal s (0x4120 + n.val) (j + 1)
/-- The coefficients of section `k` of set `age` of a Flock input (R187). -/
def flockCoeffs (r : List Byte) (age k : Nat) : Coeffs :=
  (List.range 5).map (fun i => (fieldS r (8 + 40 * age + 4 * (5 * k + i)) 4, fieldU r (88 + 10 * age + 5 * k + i) 1))

/-! ## Paths (R160) -/

/-- `count` sections from slot `base` on: the path's output and the histories after it. -/
def runPath (secs : List Byte) (base : Nat) : Nat → Int → Vector Hist 14 → Int × Vector Hist 14
  | 0, x, v => (x, v)
  | k + 1, x, v =>
    if h : base < 14 then
      let (y, g) := sectionStep (slotCoeffs secs base) v[base] x
      runPath secs (base + 1) k y (v.set base g)
    else (x, v)

/-- A path's output: zero with no active section (R160). -/
def pathOut (secs : List Byte) (base count : Nat) (x : Int) (v : Vector Hist 14) : Int × Vector Hist 14 :=
  if count = 0 then (0, v) else runPath secs base count x v

/-- The histories of slots 0 to 5 at zero: the MA path and the MA model. -/
def clearMa (v : Vector Hist 14) : Vector Hist 14 := (List.range 6).foldl (fun v i => updNat v i (fun _ => zeroHist)) v

/-- Initial-value compensation (R165) of the active VCM sections: `k` left, from slot `i` on, the first with the errors of one
and two wedges earlier, each later one with the outputs loaded into the section before it. -/
def compensate (secs : List Byte) (r0 v0 : Int) : Nat → Nat → Int × Int → Vector Hist 14 → Vector Hist 14
  | 0, _, _, v => v
  | k + 1, i, x, v =>
    let r := recordAt secs 48 i
    let y := sat32 (term (fieldS r 28 4) (fieldU r 36 1) r0 + term (fieldS r 32 4) (fieldU r 37 1) v0)
    compensate secs r0 v0 k (i + 1) (y, y) (updNat v i (fun _ => ⟨x.1, x.2, y, y⟩))

/-! ## Seek law (R164) -/

/-- The seek profile's points (R186), unused trailing records left out. -/
def seekPoints (s : State) (n : ChanId) : List (Nat × Nat) :=
  ((records (servoVal s (0x4110 + n.val) 3) 8).map (fun r => (fieldU r 0 4, fieldU r 4 4))).filter (·.1 ≠ 0xFFFFFFFF)

/-- Linear interpolation in ascending points from `p`, rounded toward zero; beyond the last point its value. -/
def interpolate (x : Nat) : Nat × Nat → List (Nat × Nat) → Nat
  | p, [] => p.2
  | p, q :: r => if x ≤ q.1 then p.2 + (q.2 - p.2) * (x - p.1) / max 1 (q.1 - p.1) else interpolate x q r

/-- VREF at a distance. -/
def vrefAt (s : State) (n : ChanId) (d : Nat) : Nat := interpolate d (0, 0) (seekPoints s n)

/-- The seek law's v_cmd for a remaining distance and a velocity (R164). DESIGN CHOICE, log 23: the term is not saturated by itself, R157
naming no saturation for it; the sum that it enters is. -/
def seekLaw (s : State) (n : ChanId) (dist vel : Int) : Int :=
  let v := (vrefAt s n dist.natAbs : Int)
  let ref := if dist < 0 then -v else if dist = 0 then 0 else v
  let h := ceHeader s n
  term (fieldS h 24 4) (fieldU h 28 1) (sat32 ((ref - vel) * 4096))

/-! ## Flock (R170 to R174) -/

/-- What the four Flock inputs add up to at a strobe: the sum, the valid and age masks, the sections run, the histories, and the
invalid inputs. -/
structure FlockSum where
  f : Int
  valid : Nat
  age : Nat
  sections : Nat
  hist : Vector (Hist × Hist) 4
  invalid : Nat

/-- The latched output of a source against tick `k` (R171): the command and its age. -/
def latched (s : State) (src : Nat) (k : Word64) : Option (Int × Nat) :=
  if h : src < 8 then
    match s.chans[src].ce.flockOut with
    | none => none
    | some (c, t) => if t = k then some (c, 0) else if t + 1 = k then some (c, 1) else none
  else none

/-- One Flock input added (R173, R174). -/
def addFlock (s : State) (n : ChanId) (a : FlockSum) (j : Fin 4) : FlockSum :=
  let r := flockInput s n j.val
  let src := fieldU r 0 1
  if src = 0xFF then a
  else match latched s src s.tick.counter with
  | none => { a with hist := a.hist.set j (zeroHist, zeroHist), invalid := a.invalid + 1 }
  | some (c, age) =>
    let b := min 2 (fieldU r 1 1)
    let a := { a with valid := a.valid + 2 ^ j.val, age := a.age + age * 2 ^ j.val, sections := a.sections + b }
    if b = 0 then a
    else
      let (y1, h1) := sectionStep (flockCoeffs r age 0) a.hist[j].1 (sat32 (c * 65536))
      if b = 1 then { a with f := a.f + y1, hist := a.hist.set j (h1, a.hist[j].2) }
      else
        let (y2, h2) := sectionStep (flockCoeffs r age 1) a.hist[j].2 y1
        { a with f := a.f + y2, hist := a.hist.set j (h1, h2) }

/-- The four inputs at a strobe of channel `n`. -/
def flockAt (s : State) (n : ChanId) (h : CeHist) : FlockSum :=
  ([0, 1, 2, 3] : List (Fin 4)).foldl (addFlock s n) ⟨0, 0, 0, 0, h.flock, 0⟩

/-! ## Targets and access requests -/

/-- The target with its offset (R162). -/
def Ce.aim (c : Ce) : Int := c.target + c.offset

/-- The data track of a recording zone nearest a position, the higher of two equally near (DESIGN CHOICE, log 23). -/
def nearestInZone (z : ZoneRec) (p : Int) : Int :=
  let step : Int := 2 * z.pitch
  if step ≤ 0 || z.tracks = 0 then p
  else
    let base : Int := 512 * z.start
    base + step * clampInt 0 (z.tracks - 1 : Nat) ((p - base + step / 2) / step)

/-- The data track nearest a position, over every recording zone of the head, the higher of two equally near (R169; DESIGN CHOICE, log
23). -/
def nearestData (s : State) (h : HeadId) (p : Int) : Int :=
  (((formatOf s h).map (fun z => nearestInZone z p)).foldl (fun b t =>
    match b with
    | none => some t
    | some u => if (t - p).natAbs < (u - p).natAbs ∨ ((t - p).natAbs = (u - p).natAbs ∧ u < t) then some t else b) (none : Option Int)).getD p

/-- The data track nearest a position, in the recording zone of a reference position; in the system area the nearest calibration
track (R168, R271), the higher of two equally near (DESIGN CHOICE, log 23). -/
def nearestTrack (s : State) (h : HeadId) (ref p : Int) : Int :=
  if ref < 256 * 512 then 512 * (64 + 16 * clampInt 0 7 ((p / 512 - 56) / 16))
  else match zoneOfTarget s h ref with
    | none => p
    | some z => nearestInZone z p

/-- The held access request latched at a strobe (R18, R162): target, mark and head. -/
def latchAccess (n : ChanId) (dev : Int) (s : State) : State :=
  match (s.chan n).access with
  | none => s
  | some r =>
    switchHead n r.head dev (s.modChan n (fun c => { c with
      access := none
      ce := { c.ce with target := r.target, offset := r.offset, writeMark := r.write, moving := true, moveNew := true } }))

/-! ## Abandonment and re-initialisation (R177 to R180) -/

/-- The computation in progress is abandoned (R177): counted, its record marked; at the second strobe in a row the engine's Flock output
is no longer valid (R174). -/
def abandon (n : ChanId) (s : State) : State :=
  let s := s.modChan n (fun c => { c with
    ce := { c.ce with
      busy := none, overruns := c.ce.overruns + 1, abandonRun := c.ce.abandonRun + 1, overrunHold := true
      flockOut := if 1 ≤ c.ce.abandonRun then none else c.ce.flockOut }
    sdm := { c.sdm with openRec := c.sdm.openRec.map (fun r =>
      { r with overrun := true, cap := false, outDelay := 0xFFFF, vcm := c.ce.lastVcm, ma := c.ce.lastMa }) } })
  chanFault .overrun n s

/-- A strobe that finds a computation in progress abandons it (R177). -/
def detectOverrun (n : ChanId) (s : State) : State := if (s.ce n).busy.isSome then abandon n s else s

/-- The engine re-initialised (R179): histories cleared, FOLLOW, the target kept, on-track withdrawn for REINIT_HOLD strobes. -/
def reinitialise (n : ChanId) (s : State) : State :=
  s.modCe n (fun c => { c with
    hist := zeroCeHist, busy := c.busy.map (fun b => { b with hist := zeroCeHist }), mode := .follow, flockOut := none
    reinitHold := fieldU (ceHeader s n) 3 1, abandonRun := 0, settleCount := 0 })

/-- After three abandoned computations the next starts re-initialised, and the fault is counted (R179). -/
def reinitIfDue (n : ChanId) (s : State) : State :=
  if (s.ce n).abandonRun < 3 then s
  else transientFault .ceFault (some (.channel n)) 0 ((reinitialise n s).modCe n (fun c => { c with ceFaults := c.ceFaults + 1 }))

/-- u_hold on entry to REACQUIRE (R167): the mean of the commands of the last 16 strobes before the miss run, rounded half
toward plus infinity; of fewer where there are fewer, and the last command sent if there is none (DESIGN CHOICE, log 23). -/
def holdMean (c : Ce) : Int :=
  if c.vcmLog = [] then c.lastVcm else (2 * c.vcmLog.sum + c.vcmLog.length) / (2 * (c.vcmLog.length : Int))

/-- A command issued is entered in the log that u_hold is taken from (R167): those of a miss run join it when a GOOD wedge ends the
run. DESIGN CHOICE, log 23: the last 16 commands issued are held, so that an abandoned strobe, which issued none, lets the log reach one
strobe further back. -/
def logCommand (vcm : Int) (missRun : Nat) (c : Ce) : Ce :=
  if missRun = 0 then { c with vcmLog := capped 16 (vcm :: (c.vcmMiss ++ c.vcmLog)), vcmMiss := [] }
  else { c with vcmMiss := capped 16 (vcm :: c.vcmMiss) }

/-! ## The choice of mode (R163, R166, R169) -/

/-- The position error window and count in force: the write pair if the access is marked as a write, but the read pair in a
load (R166, R169). -/
def settlePair (s : State) (n : ChanId) : Nat × Nat × Bool :=
  let h := ceHeader s n
  if (s.ce n).writeMark && (s.chan n).load = .loaded then (fieldU h 12 2, fieldU h 15 1, true)
  else (fieldU h 10 2, fieldU h 14 1, false)

/-- The mode from Table 6.2, apart from the settle count, and whether the sample is a first SETTLE sample. -/
def tableMode (s : State) (n : ChanId) (m : Sample) (p : Int) : CeMode × Bool :=
  let c := s.ce n
  let near := (c.aim - p).natAbs ≤ settleEntry s n
  if (s.sdm n).reacq || ((s.chan n).load = .acquiring && (s.sdm n).goodRun < 16) then (.reacquire, false)
  else match c.mode with
  | .reacquire => (.settle, true)
  | .seek => if near then (.settle, true) else (.seek, false)
  | .follow =>
    if c.moveNew then (if near then (.settle, true) else (.seek, false))
    else if m.cls = .good && fieldU (ceHeader s n) 20 4 < (p - c.aim).natAbs then (.settle, false) else (.follow, false)
  | .settle => if c.moveNew then (if near then (.settle, true) else (.seek, false)) else (.settle, false)

/-- The settle count after a sample (R166). -/
def settleAfter (s : State) (n : ChanId) (m : Sample) (p : Int) (mode : CeMode) (fresh : Bool) : Nat :=
  let c := s.ce n
  let (win, _, wr) := settlePair s n
  let ok := m.cls = .good && (p - c.aim).natAbs ≤ win
  if mode = .settle && ok then (if fresh || c.settleWrite ≠ wr then 0 else c.settleCount) + 1 else 0

/-- The mode of a sample, whether it is a first SETTLE sample, and the settle count (R163, R166). -/
def chooseMode (s : State) (n : ChanId) (m : Sample) (p : Int) : CeMode × Bool × Nat :=
  let prev := (s.ce n).mode
  let (mode, first) := tableMode s n m p
  let count := settleAfter s n m p mode (first || prev ≠ .settle)
  let (_, need, _) := settlePair s n
  if mode = .settle && !first && prev = .settle && need ≤ count then (.follow, false, 0) else (mode, first, count)

/-! ## The computation (R155) -/

/-- The weighted position error (R162). -/
def weightedPes (s : State) (n : ChanId) (m : Sample) (p phat : Int) : Int :=
  let aim := (s.ce n).aim
  match m.cls with
  | .good => p - aim
  | .partialSample =>
    let w : Int := fieldU (ceHeader s n) 8 2
    (w * (p - aim) + (256 - w) * (phat - aim) + 128) / 256
  | .coasted => phat - aim

/-- The command side of a computation: v_cmd, the microactuator command, the histories of the sections, and the number of
sections that cost time (R155, R164, R165, R167, R175). -/
def commandSide (s : State) (n : ChanId) (mode : CeMode) (first : Bool) (xIn : Int) (p : Int) (h : Vector Hist 14) :
    Int × Int × Vector Hist 14 × Nat :=
  let c := s.ce n
  let vel := (s.sdm n).vel
  match mode with
  | .seek => (seekLaw s n (c.aim - p) vel, 0, if c.mode = .seek then h else clearMa h, 1)
  | .reacquire => (sat32 (c.uHold * 65536), 0, h, 1)
  | _ =>
    let secs := ceSections s n
    let (ma, mo, vc) := sectionCounts (ceHeader s n)
    let h := if first && (c.mode = .seek || c.mode = .reacquire) then clearMa h else h
    let v0 := sat32 (vel * 4096)
    let h := if first then compensate secs xIn v0 vc 6 (sat32 (xIn - v0), sat32 (xIn - 2 * v0)) h else h
    let (mOut, h) := pathOut secs 0 ma xIn h
    let maCmd := clampSym (fieldU (ceHeader s n) 6 2) (toCommand mOut)
    let (yM, h) := pathOut secs 4 mo (sat32 (maCmd * 65536)) h
    let (v, h) := pathOut secs 6 vc (sat32 (xIn - yM)) h
    (v, maCmd, h, ma + mo + vc)

/-- M of R175. -/
def modeDelay (mode : CeMode) (first : Bool) : Nat :=
  match mode with
  | .follow | .reacquire => 0 | .seek => 300 | .settle => if first then 500 else 200

/-- A record as SDM n opens it (Table 5.7), before the engine's fields. -/
def openingRecord (s : State) (n : ChanId) (f : ServoField) (m : Sample) (switched wrap : Bool) : ServoRec :=
  let x := s.sdm n
  let c := s.ce n
  { tick := s.tick.counter.truncate 32, head := x.head, act := n, cls := m.cls, missRun := x.missRun, mode := c.mode
    onTrack := false, unsafeFlag := false, phaseWrap := wrap, overrun := false, commit := false, cap := false
    headSwitch := switched, doublePeak := m.double, grayConflict := m.conflict, wedgeBad := !m.wedgeOk && !(m.cls = .good)
    trackBad := m.track.isNone || m.conflict, burstLow := m.low, tickUnlocked := !tickWrites s, wedge := m.wedge
    position := x.pos, pes := x.pos - c.aim, phase := f.phaseNs, outDelay := 0xFFFF, vcm := c.lastVcm, ma := c.lastMa
    burstSum := m.sum, samScore := ((m.peak.map (fun (p : SamPeak) => p.score)).getD 0).toNat, samDev := (m.peak.map (fun p => p.atNs - m.predicted)).getD 0
    flockValid := 0, flockAge := 0, erasures := m.erasures, seq := x.seq }

/-- u_hold of a computation in REACQUIRE: LOAD_CMD while the actuator loads (R169), else as at the entry (R167). -/
def holdNow (s : State) (n : ChanId) (mode : CeMode) : Int :=
  let c := s.ce n
  if mode = .reacquire && (s.chan n).load = .acquiring then loadCmd s n
  else if mode = .reacquire && c.mode ≠ .reacquire then holdMean c
  else c.uHold

/-- One computation at a strobe (R155): the mode is taken, the result waits in `busy` for its output issue. -/
def compute (n : ChanId) (f : ServoField) (m : Sample) (p phat : Int) (rec0 : ServoRec) (s : State) : State :=
  let (mode, first, count) := chooseMode s n m p
  let c := s.ce n
  let hold := holdNow s n mode
  let s := s.modCe n (fun c => { c with uHold := hold })
  let xIn := sat32 (weightedPes s n m p phat * 4096)
  let (vCmd, ma, h, secs) := commandSide s n mode first xIn p c.hist.sections
  let fl := flockAt s n c.hist
  let pre := toCommand (sat32 (vCmd + sat32 fl.f))
  let vcm := clampSym (vcmLimit s n) pre
  let d := 800 + 100 * secs + 50 * fl.sections + modeDelay mode first + f.jitter.val
  let r := { rec0 with mode := mode, commit := c.newSet, cap := vcm ≠ pre, outDelay := d, vcm := vcm, ma := ma, flockValid := BitVec.ofNat 4 fl.valid, flockAge := BitVec.ofNat 4 fl.age }
  let hist : CeHist := ⟨if mode = .reacquire then c.hist.sections else h, fl.hist⟩
  (s.modCe n (fun c => { c with
    mode := mode, lastMode := mode, moveNew := false, settleCount := count, settleWrite := (settlePair s n).2.2, newSet := false
    flockInvalid := c.flockInvalid + BitVec.ofNat 32 fl.invalid
    busy := some ⟨hist, vcm, ma, d, s.tick.counter, r⟩ })).modSdm n (fun x => { x with openRec := some r })

/-- A parity error of the coefficient copies found during the computation (R178): abandoned as an overrun, the other copy from
the next strobe on; both copies are a permanent-class event of the channel. -/
def parityError (n : ChanId) (copies : Fin 3) (s : State) : State :=
  if copies = 0 then s
  else
    let s := abandon n s
    if copies = 1 then chanFault .paritySwitch n (s.modCe n (fun c => { c with copyB := !c.copyB, paritySwitches := c.paritySwitches + 1 }))
    else charge .parityDouble (.channel n) false 0 s

/-- The output issue (R155, R171, R176): histories and the Flock register become current, the CMD frame is queued, the record
closes. -/
def issueOutput (n : ChanId) (b : Computation) (s : State) : State :=
  let s := s.modCe n (fun c => { logCommand b.vcm b.record.missRun c with
    busy := none, hist := b.hist, flockOut := some (b.vcm, b.tickOf), lastVcm := b.vcm, lastMa := b.ma
    abandonRun := 0, overrunHold := false
    capClamps := c.capClamps + BitVec.ofNat 32 (b2n b.record.cap)
    delayMax := if c.delayMax.toNat < b.delay then BitVec.ofNat 16 b.delay else c.delayMax })
  let s := sendFrame (linkOf n) (.cmd (slotOf n) (BitVec.ofInt 16 b.ma) (BitVec.ofInt 16 b.vcm)) s
  closeRecord n s

end Sys2Proof.Machine
end

