-- ==== Sys2Proof/Machine/Servo.lean ====
section
/-! DEFINITION. The meanings of the servo and control-engine rows (spec 05, spec 06): a strobe from servo field to computation,
the closing of a window without an address mark, REACQ_LIMIT, access requests, output issue and seek faults. -/

namespace Sys2Proof.Machine

/-! ## Loading (spec 06, R169; spec 03, R90) -/

/-- The first qualified SAM of a load. -/
def firstSam (n : ChanId) (seen : Bool) (s : State) : State :=
  if (s.chan n).load = .beforeSam && seen then s.modChan n (fun c => { c with load := .acquiring }) else s

/-- The sixteenth GOOD sample of a load ends REACQUIRE: the target is the access held, or the data track nearest P (R169). A load begun
with the link not up does not get so far (spec 02, R57). -/
def loadSettles (n : ChanId) (p : Int) (s : State) : State :=
  if (s.chan n).load = .acquiring && !(s.chan n).loadDoomed && !(s.sdm n).reacq && 16 ≤ (s.sdm n).goodRun then
    s.modChan n (fun c => { c with
      load := .settling
      ce := if c.ce.moving then c.ce else { c.ce with target := nearestData s c.sdm.head p, offset := 0 } })
  else s

/-- A fault of a load that is settling: it needs its sixteen GOOD samples again. -/
def loadLost (n : ChanId) (s : State) : State :=
  s.modChan n (fun c => if c.load = .settling then { c with load := .acquiring } else c)

/-- A load is complete: FOLLOW is reached. A reload after REACQ_LIMIT charges the head that was active (spec 13, REACQ_RELOAD). -/
def loadComplete (n : ChanId) (s : State) : State :=
  if (s.chan n).load ≠ .settling then s
  else
    let re := (s.chan n).reloadOf
    let s := modeFrame n 14 (s.modChan n (fun c => { c with load := .loaded, loadFails := 0, reloadOf := none }))
    let s := match re with | none => s | some h => charge .reacqReload (.head h) false 0 s
    loadsDone s

/-- FOLLOW reached with a load or a move under way: its completion is posted to MSQ (R163, R169). -/
def moveDone (n : ChanId) (s : State) : State :=
  if (s.ce n).mode = .follow then
    let s := loadComplete n s
    if (s.ce n).moving then
      seekRunEnd n (s.modChan n (fun c => { c with report := some .complete, ce := { c.ce with moving := false } }))
    else s
  else s

/-! ## On-track at a strobe (spec 05, R149; spec 06, R180) -/

/-- The write-unsafe comparison: on-track, UNSAFE, and what follows for the record. -/
def evaluateOnTrack (n : ChanId) (m : Sample) (held : Bool) (s : State) : State :=
  let c := s.ce n
  let x := s.sdm n
  let pes := x.pos - c.aim
  let limit := unsafeLimit s x.head c.target
  let bad := m.cls = .good && limit < pes.natAbs
  let on := m.cls = .good && !bad && c.mode = .follow && tickWrites s && linkClean s n && !held
    && c.reinitHold = 0 && (s.chan n).load = .loaded
  s.modSdm n (fun x => { x with
    onTrack := on
    unsafeAt := if bad && c.mode = .follow then some s.clock.ns else x.unsafeAt
    openRec := x.openRec.map (fun r => { r with onTrack := on && !c.overrunHold, unsafeFlag := bad, pes := pes }) })

/-- The level frame of a servo gap (spec 08, R242, R243): one computed two strobes ago has left; after a written window the level of the
stored trim waits, unless a monitor reading has given one, which waits or has been sent in this gap. -/
def levelAtStrobe (n : ChanId) (s : State) : State :=
  let s := match (s.wr n).levelPending with
    | some (_, true) => flushLevel n s
    | _ => s
  match (s.wr n).levelPending with
  | some (l, _) => s.modWr n (fun w => { w with levelPending := some (l, true) })
  | none =>
    if (s.wr n).wroteIn.isNone || (s.wr n).levelSent || assistType s n = 0 || (s.wr n).fixed.isSome then s
    else
      let h := (s.sdm n).head
      let r := takeTrim n h s.heads[h].trim s
      r.2.modWr n (fun w => { w with levelPending := some (r.1, true) })

/-- The write side at a strobe (spec 08): an excursion is noted (R239), a sector without permission is aborted (R21), the preamplifier
fault and the warm-up advance (R244, R247). -/
def writeAtStrobe (n : ChanId) (m : Sample) (s : State) : State :=
  let wrote := (s.wr n).wroteIn
  let pes := (s.sdm n).pos - (s.ce n).aim
  let limit := unsafeLimit s (s.sdm n).head (s.ce n).target
  let s := s.modWr n (fun w => { w with sinceInside := w.sinceInside + b2n wrote.isSome })
  let s := match wrote with
    | some (k, t) => if !isCalBand k && m.cls = .good && pes < -(limit : Int) then noteExcursion n k t m.wedge s else s
    | none => s
  let s := if m.cls = .good && pes.natAbs ≤ limit then s.modWr n (fun w => { w with sinceInside := 0 }) else s
  let s := gateCheck true n s
  let s := s.modWr n (fun w =>
    if w.paHold && !w.paLow then
      { w with paHighWedges := w.paHighWedges + 1, paHold := !(2 ≤ w.paHighWedges + 1 && w.paClean) }
    else w)
  let s := (levelAtStrobe n s).modWr n (fun w => { w with wroteIn := none, levelSent := false })
  assistAtStrobe n (prepareRun n s)

/-! ## The strobe -/

/-- The engine's share of a strobe: the access latched, REACQUIRE of a load ended, re-initialisation, the computation, and the
reports that follow. -/
def engineStrobe (n : ChanId) (f : ServoField) (m : Sample) (switched wrap : Bool) (s : State) : State :=
  let rec0 := openingRecord s n f m switched wrap
  let s := latchAccess n ((m.peak.map (fun p => p.atNs - m.predicted)).getD 0) s
  let p := (s.sdm n).pos
  let s := loadSettles n p s
  let held := 0 < (s.ce n).reinitHold
  let s := reinitIfDue n (s.modCe n (fun c => { c with reinitHold := c.reinitHold - 1 }))
  let s := compute n f m p (m.phat + (p - m.pos)) rec0 s
  let s := moveDone n (parityError n f.parity s)
  let inside := decide ((p - (s.ce n).aim).natAbs ≤ (settlePair s n).1)
  calStrobe n f m inside (writeAtStrobe n m (evaluateOnTrack n m held s))

/-- A wedge strobe of channel `n` (R37, R131 to R150, R155). The record of a strobe before the first SAM of a load, for which no
computation runs, has OUT_DELAY 0xFFFF (DESIGN CHOICE, log 23). -/
def strobe (n : ChanId) (f : ServoField) (s : State) : State :=
  let x := s.sdm n
  let s := closeRecord n (detectOverrun n (closeWindow n s))
  let m := sense s n f
  let m := if x.reacq then inReacq s n f m else m
  let fourth := !x.reacq && m.cls ≠ .good && 4 ≤ x.missRun + 1
  let m := if fourth then { m with cls := .coasted, pos := m.phat } else m
  let wrap := match x.lastTick with | none => false | some t => decide (s.tick.number ≠ (t + 1) % wedges s)
  let s := sdmStrobe n f m s
  let s := s.modSdm n (fun y => { y with switched := false, switchPred := none })
  let s := if fourth then loadLost n (fourthMiss n s) else s
  let s := firstSam n m.peak.isSome s
  let s := if (s.chan n).load = .beforeSam then
      s.modSdm n (fun y => { y with openRec := some { openingRecord s n f m x.switched wrap with mode := .reacquire } })
    else engineStrobe n f m x.switched wrap s
  powerFrontEnds n (s.modSdm n (fun y => { y with seq := y.seq + 1 }))

/-- WEDGE_STROBE: an unloaded actuator produces none. -/
def execWedgeStrobe (n : ChanId) (f : ServoField) (s : State) : Host.Outcome State Fault Refusal :=
  .next (if s.servoLive && !unloaded s n then strobe n f (atOffset f.phaseNs s) else s)

/-- SAM_WINDOW_CLOSE (R141): without a qualified SAM on-track is withdrawn at the close of the window. -/
def execSamWindowClose (n : ChanId) (f : ServoField) (s : State) : Host.Outcome State Fault Refusal :=
  .next (if s.servoLive && !unloaded s n then
      let s := flushLevel n (closeWindow n s)
      if (qualifiedPeaks s n f).isEmpty then gateCheck true n (s.modSdm n (fun x => { x with onTrack := false })) else s
    else s)

/-- REACQ_LIMIT_EXPIRED (R144): RETRACT for the slot, and the actuator reloads. -/
def execReacqLimitExpired (n : ChanId) (s : State) : Host.Outcome State Fault Refusal :=
  .next (if s.live && (s.sdm n).reacq && (s.chan n).load = .loaded then
      let h := (s.sdm n).head
      queueLoad n ((unloadChans [n] s).modChan n (fun c => { c with reloadOf := some h, loadFails := 0 }))
    else s)

/-- ACCESS_REQUEST (R18): held in the access port until the actuator's next strobe; a later request replaces a held one. -/
def execAccessRequest (n : ChanId) (r : AccessReq) (s : State) : Host.Outcome State Fault Refusal :=
  .next (if s.live && chanServes s n && chanOf r.head = n && headFitted s r.head then
      s.modChan n (fun c => { c with access := some r, report := none })
    else s)

/-- CE_OUTPUT_ISSUE (R155, R176). -/
def execCeOutputIssue (n : ChanId) (s : State) : Host.Outcome State Fault Refusal :=
  .next (if !s.servoLive then s else match (s.ce n).busy with | none => s | some b => flushLevel n (issueOutput n b s))

/-- SEEK_FAULT (R168): the engine re-initialises, the target becomes the nearest data or calibration track, the move is reported
failed and counted. The move is the one latched; a request still held then stays held. If only a held one has timed out, it fails, its
recording zone sought on the active head (DESIGN CHOICE, log 23). -/
def execSeekFault (n : ChanId) (s : State) : Host.Outcome State Fault Refusal :=
  .next (if !s.servoLive || unloaded s n || !((s.ce n).moving || (s.chan n).access.isSome) then s
    else
      let latchedMove := (s.ce n).moving
      let ref := if latchedMove then (s.ce n).target else ((s.chan n).access.map (·.target)).getD (s.ce n).target
      let s := reinitialise n s
      let s := s.modChan n (fun c => { c with
        access := if latchedMove then c.access else none, report := some .failed
        ce := { c.ce with target := nearestTrack s c.sdm.head ref c.sdm.pos, offset := 0, moving := false, moveNew := false, seekFaults := c.ce.seekFaults + 1 }
        sdm := { c.sdm with onTrack := false } })
      gateCheck true n (seekFaultEvent n s))

end Sys2Proof.Machine
end

