-- ==== Sys2Proof/Machine/Values.lean ====
section
/-! DEFINITION. The values of objects as read (spec 15, R445; the object tables of spec 03 to 17): those that the state of a
subsystem gives, and the reads that change it. -/

namespace Sys2Proof.Machine

/-! ## Encodings -/

/-- Element `i` of a vector as a number of `k` bytes. -/
def elemBytes {n w : Nat} (k : Nat) (v : Vector (BitVec w) n) (i : Nat) : List Byte := leBytes k ((v.toList.map BitVec.toNat).getD i 0)

/-- A value per channel. -/
def perChan (s : State) (sub : Nat) (f : Chan → List Byte) : List Byte := (s.chans.toList.map f).getD sub []

/-- A counter per channel, of `k` bytes. -/
def chanCount (s : State) (sub k : Nat) (f : Chan → Nat) : List Byte := perChan s sub (fun c => leBytes k (f c))

/-- BMS_STATE (spec 12, R357). -/
def BmsStage.code : BmsStage → Nat
  | .selfTest => 0 | .training => 1 | .fill => 2 | .ready => 3 | .failed => 0x0F

/-- REGION_STATE (spec 14, R424). -/
def RegionState.code : RegionState → Nat
  | .erased => 0 | .written => 1 | .replayed => 2 | .erasing => 3 | .unknown => 4

/-- A CE_TABLE entry (spec 12, Table 12.5). -/
def ceEntryBytes (e : CeEntry) : List Byte :=
  leBytes 4 e.word ++ leBytes 1 e.symbol ++ [e.mask] ++ leBytes 1 (b2n e.hard + 2 * b2n e.scrub) ++ [0] ++ leBytes 2 e.count ++ [0, 0]
    ++ leBytes 4 e.first

/-- A HEAD_CAL record (spec 09, Table 9.12). -/
def headCalBytes (c : HeadCal) : List Byte :=
  leInt 2 c.temp ++ leBytes 4 c.time ++ leBytes 1 (min 255 c.failRun) ++ [c.suspect] ++ leBytes 2 c.iterBase
    ++ c.results.toList.map (BitVec.ofNat 8) ++ [c.permanent] ++ List.replicate 15 0

/-- The good blocks that hold a partition's stripes (PARTITION_TABLE). -/
def partGood (s : State) (who : Partition) : Nat :=
  let b := (partBase who).1
  let n := (partBase who).2
  let inside (x : Nat) : Bool := b ≤ x && x < b + n
  let bad := (s.mule.dies.toList.map (fun d => ((d.bad.filter (fun e => inside e.2.1)).map (fun e => (e.1, e.2.1))).eraseDups.length
    - (d.remap.filter (fun r => inside r.2.1)).length)).sum
  8 * n - bad

/-- A record of PARTITION_TABLE: code, stripes, first logical stripe, good blocks (spec 14, Table 14.9; field widths DESIGN CHOICE,
log 20). -/
def partRecord (s : State) (who : Partition) : List Byte :=
  leBytes 1 (partCode who) ++ [0] ++ leBytes 2 (partBase who).2 ++ leBytes 2 (partBase who).1 ++ leBytes 2 (partGood s who)

/-- The header of a capture entry (spec 07, Table 7.5). -/
def captureHeaderBytes (e : CaptureEntry) : List Byte :=
  let flags := b2n e.sm1.isSome + 2 * b2n e.sm2.isSome + 4 * b2n (e.sm1.isSome && e.sm2.any (· ≠ 0)) + 8 * b2n e.overflow
    + 16 * b2n (e.state = .held) + 32 * b2n e.recovered + 64 * b2n (e.state = .kept) + 128 * b2n e.gainLimit
  leBytes 4 (e.head.val * 2 ^ 27 + e.band) ++ leBytes 4 e.offset ++ leBytes 2 e.rate ++ leBytes 1 e.samplePct ++ leBytes 1 e.channelSet
    ++ leBytes 4 e.tick.toNat ++ leBytes 2 e.samples ++ leBytes 1 flags ++ leBytes 1 (e.sm1.elim 0xFF (·.1))
    ++ leInt 2 (e.sm1.elim 0 (·.2)) ++ leInt 2 (e.sm2.getD 0) ++ leBytes 2 e.synd ++ leBytes 1 e.frags.length ++ [0]
    ++ ((List.range 8).map (fun i => leBytes 2 (e.frags.getD i 0))).flatten
    ++ ((List.range 4).map (fun i => leBytes 2 (e.spans.getD i (0, 0)).1 ++ leBytes 2 (e.spans.getD i (0, 0)).2)).flatten
    ++ List.replicate 4 0

/-- The samples of one reader (R208): zero beyond SAMPLES. -/
def captureSamples (e : CaptureEntry) (codes : List Int) : List Byte :=
  (List.range 49152).map (fun k => if k < e.samples then BitVec.ofInt 8 (codes.getD k 0) else 0)

/-- CAPTURE_ENTRY: the entry that CAPTURE_SELECT names (R208); of a free one only the header, with SAMPLES = 0 (R209). -/
def captureEntryBytes (s : State) : List Byte :=
  let v := cfg s 0x5040 1
  let e := ((s.chans.toList.map (fun c => c.rwc.entries.toList)).getD (v / 16) []).getD (v % 16) CaptureEntry.reset
  if e.state = .free then captureHeaderBytes { e with samples := 0 }
  else captureHeaderBytes e ++ captureSamples e e.codesA ++ captureSamples e e.codesB

/-- LOOKUP_RESULT (spec 04, Table 4.7): bytes 0 to 3 of the band record of a zone, or of a conventional band, of the namespace
looked up. -/
def lookupResult (s : State) : Nat :=
  match findNs s (cfg s 0x3130 1) with
  | none => 0xFFFFFFFF
  | some n => match n.bands[cfg s 0x3130 2]? with
    | none => 0xFFFFFFFF
    | some k => k.head.val * 2 ^ 27 + k.band

/-- The bands on all fitted surfaces, of one kind or of both (spec 04, R127). -/
def bandTotal (s : State) : Nat := ((allHeads.filter (headFitted s)).map (bandsOn s)).sum
/-- The conventional bands, excluded ones left out (R117). -/
def convBandTotal (s : State) : Nat :=
  ((allHeads.filter (headFitted s)).map (fun h =>
    (((formatOf s h).filter (fun z => !z.shingled)).map ZoneRec.bands).sum - excludedOn s h)).sum

/-! ## Values by index -/

/-- Identity, node, privilege, owner lock, commit, start-up and transport objects (Table 15.12). -/
def value1000 (s : State) (p : Path) (index sub : Nat) : Option (List Byte) :=
  if index = 0x1000 then
    (if sub = 5 then some (leBytes 1 (b2n s.power.crx4)) else if sub = 6 then some (leBytes 2 s.fw.slots[s.fw.active].dictVersion) else none)
  else if index = 0x1002 then some (leBytes 4 (if sub = 1 then powerOn s else s.clock.cycles))
  else if index = 0x1010 then
    if sub = 1 then some (leBytes 4 (b2n (pathState s p).priv))
    else if sub = 2 then (if (pathState s p).priv then none else some (leBytes 4 0))
    else if sub = 3 then some (leBytes 1 (maskOf 3 (fun i => (s.mgmt.paths.toList.map (·.priv)).getD i false)))
    else none
  else if index = 0x1011 then
    if sub = 1 then some (leBytes 1 (b2n s.mgmt.lock.isSome))
    else if sub = 2 then some (leBytes 1 (s.mgmt.lock.elim 0xFF (fun l => pathCode l.1)))
    else some (leBytes 16 (s.mgmt.lock.elim 0 (fun l => l.2.toNat)))
  else if index = 0x1020 then
    match sub with
    | 1 => some (leBytes 1 (match s.dict.stage with | .validating => 2 | .swapping => 3 | .idle => b2n (s.dict.staged ≠ [])))
    | 2 => some (leBytes 4 s.dict.result.toNat)
    | 3 => some (leBytes 4 s.dict.object.toNat)
    | 4 => some (leBytes 1 (s.dict.owner.elim 0xFF pathCode))
    | 5 => some (leBytes 2 s.dict.staged.length)
    | 7 => some (leBytes 4 s.dict.commits.toNat)
    | 8 => some (leBytes 8 s.dict.commitTick.toNat)
    | _ => none
  else if index = 0x1030 then
    match sub with
    | 1 => some (leBytes 1 s.power.phase.code)
    | 2 => some (leBytes 2 s.power.fault.toNat)
    | 3 => some (leBytes 4 s.power.readyTime)
    | _ => some (leBytes 1 s.power.retiredAtStart.toNat)
  else if index = 0x1100 then
    match sub with
    | 1 => some [s.mgmt.eid]
    | 2 => some (leBytes 1 (0x1D + 2 * b2n s.power.straps.addrSel1 + b2n s.power.straps.addrSel0))
    | 6 => some (leBytes 2 s.mgmt.tu)
    | _ => none
  else if index = 0x1101 then
    match sub with
    | 1 => some (leBytes 2 s.mgmt.status.toNat)
    | 2 => some (leBytes 4 s.mgmt.requests.toNat)
    | 3 => some (leBytes 4 s.mgmt.discards.toNat)
    | _ => some (leBytes 4 s.mgmt.drops.toNat)
  else none

/-- Host ports, Sheepdog, buffer memory and cache (spec 10, 11 and 12). -/
def value2000 (s : State) (index sub : Nat) : Option (List Byte) :=
  if index = 0x2001 then
    if sub = 1 then some (leBytes 1 (b2n s.power.straps.portMode))
    else if 4 ≤ sub then some (leBytes 2 ((s.port (if sub = 4 then 0 else 1)).link.elim 0 (fun l => l.2 * 256 + l.1)))
    else none
  else if index = 0x2003 then
    (if sub = 1 then none else some (leBytes 1 (s.port (if sub = 2 then 0 else 1)).feat.ps))
  else if index = 0x2110 then
    some (leBytes 4 (if sub = 1 then s.cmds.ctxs.length + internalHeld s else s.cmds.ctxs.countP (fun c => c.port.val = sub - 2)))
  else if index = 0x2111 then
    some (leBytes 4 (s.sched.queue.countP (fun o => (chanOf o.band.head).val = sub && isFiled s o)))
  else if index = 0x2112 then some (elemBytes 8 s.sched.placedCount sub)
  else if index = 0x2113 then some (elemBytes 4 s.sched.aged sub)
  else if index = 0x2114 then some (leBytes 4 s.sched.passLate.toNat)
  else if index = 0x2115 then some (elemBytes 4 s.sched.binMisses sub)
  else if index = 0x2116 then
    some (((s.sched.latency.toList.map (fun v => (v.toList.map (fun x => leBytes 4 x.toNat)).flatten)).getD sub []))
  else if index = 0x2120 then some (leBytes 8 s.sub.deferredTotal)
  else if index = 0x2121 then some (leBytes 4 (if sub = 1 then s.cmds.abortsDone.toNat else s.cmds.abortsRefused.toNat))
  else if index = 0x2200 then
    some (if sub = 1 then leBytes 1 s.bms.stage.code else if sub = 2 then [s.bms.fault] else leBytes 2 (min 65535 s.bms.initTime))
  else if index = 0x2201 then
    match sub with
    | 3 => some (leBytes 4 s.bms.lapMs)
    | 5 => some (leBytes 4 s.bms.laps.toNat)
    | 6 => some (leBytes 4 s.bms.chans[0].scrubRow.toNat)
    | _ => none
  else if index = 0x2202 then some (leBytes 4 ((s.bms.chans.toList.map (fun c => c.ceCount.toNat)).getD sub 0))
  else if index = 0x2203 then some (leBytes 4 ((s.bms.chans.toList.map (fun c => c.ueCount.toNat)).getD sub 0))
  else if index = 0x2204 then some (leBytes 4 ((s.bms.chans.toList.map (fun c => c.poisonReads.toNat)).getD sub 0))
  else if index = 0x2205 then
    some (if sub = 1 then (s.bms.ceTable.map ceEntryBytes).flatten else leBytes 4 s.bms.ceLost.toNat)
  else if index = 0x2206 then some (leBytes 2 ((s.bms.chans.toList.map (fun c => c.waitMax.toNat)).getD sub 0))
  else if index = 0x2207 then some (leBytes 4 ((s.bms.chans.toList.map (fun c => c.drops.toNat)).getD sub 0))
  else if index = 0x2300 then (match sub with | 1 => some (leBytes 1 s.cache.mode.code) | 2 => some (leBytes 1 s.cache.requested.code) | _ => none)
  else if index = 0x2310 then
    some (leBytes 4 (match sub with
      | 1 => countLines s .clean | 2 => countLines s .dirty | 3 => countLines s .shadow | 4 => countLines s .held
      | _ => countLines s .filling))
  else if index = 0x2311 then
    some (leBytes 8 (match sub with
      | 1 => s.cache.readHits.toNat | 2 => s.cache.sideHits.toNat | 3 => s.cache.merges.toNat | 4 => s.cache.misses.toNat
      | _ => s.cache.prefetches.toNat))
  else if index = 0x2312 then
    some (match sub with
      | 1 => leBytes 2 s.cache.regs.length | 2 => leBytes 4 s.cache.bypass.toNat | 3 => leBytes 4 s.cache.staleFills.toNat
      | 4 => leBytes 4 s.cache.shadowEarly.toNat | 5 => leBytes 4 s.cache.allocWaits.toNat | _ => leBytes 4 s.cache.poisoned.toNat)
  else none

/-- Geometry, servo demodulators and control engines (spec 04, 05 and 06). -/
def value3000 (s : State) (index sub : Nat) : Option (List Byte) :=
  if index = 0x3000 then
    match sub with
    | 7 => some (leBytes 8 (bandTotal s * 268435456))
    | 8 => some (leBytes 4 (bandTotal s))
    | 9 => some (leBytes 4 (convBandTotal s))
    | _ => none
  else if index = 0x3111 then some (grownDefects s (Fin.ofNat 32 sub))
  else if index = 0x3130 then (if sub = 3 then some (leBytes 4 (lookupResult s)) else none)
  else if index = 0x4002 then some (leBytes 4 ((samOffset s (Fin.ofNat 32 sub)).getD 0xFFFFFFFF))
  else if index = 0x4003 then some (chanCount s sub 2 (fun c => c.sdm.kappa.getD 0xFFFF))
  else if index = 0x4004 then some (chanCount s sub 2 (fun c => c.sdm.phase))
  else if index = 0x4005 then some (chanCount s sub 4 (fun c => c.sdm.missed.toNat))
  else if index = 0x4006 then some (chanCount s sub 4 (fun c => c.sdm.faults.toNat))
  else if index = 0x4007 then some (chanCount s sub 4 (fun c => c.sdm.wraps.toNat))
  else if index = 0x4010 then
    match sub with
    | 1 => some (leBytes 1 s.mgmt.capCtrl)
    | 3 => some (leBytes 1 s.mgmt.capDecim)
    | 4 => some (leBytes 4 s.mgmt.capture.length)
    | 5 => some (leBytes 4 s.mgmt.capLost.toNat)
    | _ => none
  else if index = 0x4011 then some (perChan s sub (fun c => c.sdm.lastRec.elim (List.replicate 32 0) servoBytes))
  else if index = 0x4101 then some (leBytes 1 s.tick.capPct)
  else if index = 0x4102 then some (leBytes 2 (vcmLimit s (Fin.ofNat 8 sub)))
  else if index = 0x4103 then some (chanCount s sub 1 (fun c => c.ce.lastMode.code))
  else if index = 0x4130 then some (chanCount s sub 4 (fun c => c.ce.overruns.toNat))
  else if index = 0x4131 then some (chanCount s sub 4 (fun c => c.ce.ceFaults.toNat))
  else if index = 0x4132 then some (chanCount s sub 4 (fun c => c.ce.capClamps.toNat))
  else if index = 0x4133 then some (chanCount s sub 2 (fun c => c.ce.delayMax.toNat))
  else if index = 0x4134 then some (chanCount s sub 4 (fun c => c.ce.flockInvalid.toNat))
  else if index = 0x4135 then some (chanCount s sub 4 (fun c => c.ce.paritySwitches.toNat))
  else if index = 0x4136 then some (chanCount s sub 4 (fun c => c.ce.seekFaults.toNat))
  else none

/-- Read channels and the write path (spec 07 and 08). -/
def value5000 (s : State) (index sub : Nat) : Option (List Byte) :=
  if index = 0x5030 then some (chanCount s sub 8 (fun c => c.rwc.sectorsRead.toNat))
  else if index = 0x5031 then some (chanCount s sub 4 (fun c => c.rwc.otfFails.toNat))
  else if index = 0x5032 then some (perChan s sub (fun c => (c.rwc.sm1Hist.toList.map (fun x => leBytes 4 x.toNat)).flatten))
  else if index = 0x5033 then some (perChan s sub (fun c => (c.rwc.recoveredAt.toList.map (fun x => leBytes 4 x.toNat)).flatten))
  else if index = 0x5034 then some (chanCount s sub 4 (fun c => c.rwc.sm2Reframes.toNat))
  else if index = 0x5035 then some (chanCount s sub 4 (fun c => c.rwc.taEvents.toNat))
  else if index = 0x5036 then some (chanCount s sub 4 (fun c => c.rwc.skipped.toNat))
  else if index = 0x5037 then some (perChan s sub (fun c => (c.rwc.iterHist.toList.map (fun x => leBytes 4 x.toNat)).flatten))
  else if index = 0x5038 then some (chanCount s sub 4 (fun c => c.rwc.misdirected.toNat))
  else if index = 0x5039 then some (chanCount s sub 4 (fun c => c.rwc.sm2Mismatch.toNat))
  else if index = 0x5040 then (if sub = 2 then some (captureEntryBytes s) else none)
  else if index = 0x5104 then some (leInt 2 ((s.heads.toList.map (·.trim)).getD sub 0))
  else if index = 0x5105 then some (leBytes 1 s.env.assistCap)
  else if index = 0x5106 then some (leBytes 1 (gateState s (Fin.ofNat 8 sub)))
  else if index = 0x5110 then some (chanCount s sub 8 (fun c => c.wr.sectorsWritten.toNat))
  else if index = 0x5111 then some (chanCount s sub 4 (fun c => c.wr.aborts.toNat))
  else if index = 0x5112 then some (chanCount s sub 4 (fun c => c.wr.slips.toNat))
  else if index = 0x5113 then some (chanCount s sub 4 (fun c => c.wr.underruns.toNat))
  else if index = 0x5114 then some (chanCount s sub 4 (fun c => c.wr.excursions.toNat))
  else if index = 0x5115 then some (chanCount s sub 4 (fun c => c.wr.repairs.toNat))
  else if index = 0x5116 then some (chanCount s sub 4 (fun c => c.wr.paFaults.toNat))
  else if index = 0x5117 then some (chanCount s sub 2 (fun c => c.wr.lastPaFault.toNat))
  else if index = 0x5118 then some (chanCount s sub 4 (fun c => c.wr.monOut.toNat))
  else if index = 0x5119 then some (chanCount s sub 4 (fun c => c.wr.trimLate.toNat))
  else if index = 0x511A then some (chanCount s sub 4 (fun c => c.wr.capClamps.toNat))
  else none

/-- Thermal control and calibration (spec 09). -/
def value6000 (s : State) (index sub : Nat) : Option (List Byte) :=
  if index = 0x6001 then some (leInt 2 (sensorTemp s sub))
  else if index = 0x6002 then some (leInt 2 ((s.env.sensors.toList.map (·.rate)).getD sub 0))
  else if index = 0x6004 then some (leBytes 1 ((s.env.sensors.toList.map (fun x => x.status.toNat)).getD sub 0))
  else if index = 0x6010 then
    match sub with
    | 1 => some (leBytes 1 s.env.stepNow)
    | 9 => some (leBytes 4 ((admitRate s s.env.stepNow).getD 0))
    | 10 => some (leBytes 4 s.env.stepChanges.toNat)
    | _ => none
  else if index = 0x6020 then
    match sub with
    | 4 => some (leBytes 1 (b2n s.env.winOpen))
    | 5 => some (leBytes 4 s.env.winClosures.toNat)
    | _ => none
  else if index = 0x6102 then some ((s.cal.heads.toList.map headCalBytes).getD sub [])
  else if index = 0x6103 then (if sub = 1 then some (leBytes 1 s.cal.reqHead) else none)
  else if index = 0x6104 then some (elemBytes 4 s.cal.runs sub)
  else if index = 0x6105 then some (elemBytes 4 s.cal.abandons sub)
  else none

/-- The Mule and firmware staging (spec 14 and 16). -/
def value7000 (s : State) (p : Path) (index sub : Nat) : Option (List Byte) :=
  let d : Fin 2 := if sub = 0 then 0 else 1
  if index = 0x7000 then some (leBytes 2 (goodBlocks s d))
  else if index = 0x7001 then some (leBytes 2 (s.mule.dies[d].bad.countP (·.2.2)))
  else if index = 0x7002 then
    some (([.system, .vault0, .vault1, .slotA, .slotB, .journal, .eventLog, .calStore, .oem, .pool].map (partRecord s)).flatten)
  else if index = 0x7010 then
    match sub with
    | 6 => some (leBytes 1 (b2n s.power.holdupPassed))
    | 7 => some (leBytes 4 s.power.holdupCap)
    | 8 => some (leBytes 4 s.power.holdupEnergy)
    | _ => none
  else if index = 0x7011 then some (leBytes 1 s.mule.regions[d].state.code)
  else if index = 0x7012 then
    some (match sub with
      | 1 => leBytes 8 s.mule.vaultSeq | 2 => leBytes 4 s.mule.lastLines | 3 => leBytes 4 s.mule.lastVaultUs
      | _ => leBytes 4 s.mule.lastReplayUs)
  else if index = 0x7021 then some (elemBytes 4 s.mule.retryHist sub)
  else if index = 0x7022 then
    some (leBytes 4 (match sub with
      | 1 => s.mule.programFails.toNat | 2 => s.mule.eraseFails.toNat | 3 => s.mule.refused.toNat | _ => s.mule.refreshes.toNat))
  else if index = 0x7030 then (if sub = 3 then some (leBytes 8 s.mule.ckptSeq) else none)
  else if index = 0x7040 then
    some (match sub with
      | 1 => leBytes 4 s.mule.codeMisses.toNat | 2 => leBytes 4 s.mule.suspends.toNat | _ => leBytes 2 s.mule.missWaitMax.toNat)
  else if index = 0x7050 then
    some (match sub with
      | 1 => leBytes 2 s.mule.oemBlock | 2 => leBytes 2 s.mule.oemPage | 3 => [s.mule.oemCmd] | 4 => s.mule.oemWbuf | 5 => s.mule.oemRbuf
      | 6 => [s.mule.oemStatus] | _ => leBytes 1 (b2n s.mule.oemMapLost))
  else if index = 0x7060 then some [s.mule.slotErase]
  else if index = 0x7100 then
    match sub with
    | 1 => some (leBytes 1 (fwState s))
    | 2 => some (leBytes 8 s.fw.slots[lamb s].imageId)
    | 3 => some (leBytes 1 (s.fw.source.elim 0xFF pathCode))
    | 4 => some (leBytes 4 (s.fw.programmed.length * 4096))
    | 5 => some (leBytes 4 (fwWaiting s))
    | 7 => some (leBytes 4 (fwLeaseLeft s))
    | _ => none
  else if index = 0x7101 then
    (if sub = 1 then some (leBytes 4 (pathState s p).fwOffset) else some (fwPieceMap s))
  else if index = 0x7102 then some (if sub = 2 then leBytes 1 s.fw.actionSlot else leBytes 4 s.fw.actionResult.toNat)
  else if index = 0x7103 then some (slotEntry s.fw.slots[d])
  else if index = 0x7104 then
    some (leBytes 4 (match sub with
      | 1 => s.fw.pieces.toNat | 2 => s.fw.refusals.toNat | 3 => s.fw.dropped.toNat | 4 => s.fw.activations.toNat
      | _ => s.fw.fallbacks.toNat))
  else none

/-- The event recorder and fault management (spec 17 and 13). -/
def value7200 (s : State) (index sub : Nat) : Option (List Byte) :=
  if index = 0x7200 then
    (if sub = 1 then some (leBytes 1 (b2n s.evr.fill)) else if sub = 2 then some (leBytes 1 (b2n s.evr.frozen)) else none)
  else if index = 0x7201 then
    some (match sub with
      | 1 => leBytes 4 s.evr.nextSeq | 2 => ringImage s | 3 => leBytes 4 s.evr.frozenCount | _ => leBytes 4 s.evr.overflows.toNat)
  else if index = 0x7202 then
    some (match sub with
      | 1 => leBytes 4 s.evr.logSelect | 2 => ((logRead s).map recordBytes).flatten | 3 => leBytes 4 (logOldest s)
      | _ => leBytes 2 (min 65535 (gathered s.evr).length))
  else if index = 0x7301 then
    some (match sub with
      | 1 => leBytes 8 s.faults.retiredReaders.toNat | 2 => leBytes 4 s.faults.retiredHeads.toNat
      | 3 => leBytes 4 s.faults.readOnlyHeads.toNat | _ => leBytes 1 s.faults.retiredChannels.toNat)
  else if index = 0x7302 then some (leBytes 1 (b2n s.faults.unretire))
  else if index = 0x7303 then some (faultBytes s (.head (Fin.ofNat 32 sub)))
  else if index = 0x7304 then some (faultBytes s (.channel (Fin.ofNat 8 sub)))
  else if index = 0x7305 then some (faultBytes s (.reader (Fin.ofNat 32 (sub / 2)) (sub % 2 = 1)))
  else if index = 0x7310 then
    some (leBytes 4 (match sub with
      | 1 => s.faults.speedFaults.toNat | 2 => s.faults.indexLosses.toNat | 3 => s.faults.driveRestarts.toNat
      | 4 => s.faults.planeRestarts.toNat | 5 => s.faults.rebuilds.toNat | _ => s.faults.vaultLosses.toNat))
  else none

/-- The value of an object as a path reads it (R445): from the state of its subsystem, or its active value. -/
def readValue (s : State) (p : Path) (index sub : Nat) : List Byte :=
  let live :=
    if index < 0x2000 then value1000 s p index sub
    else if index < 0x3000 then value2000 s index sub
    else if index < 0x5000 then value3000 s index sub
    else if index < 0x6000 then value5000 s index sub
    else if index < 0x7000 then value6000 s index sub
    else if index < 0x7200 then value7000 s p index sub
    else if index < 0xF000 then value7200 s index sub
    else none
  live.getD (valueOf s index sub)

/-! ## Objects of a failed part (spec 03, Table 3.6) -/

/-- An object depends on the part whose failure a fatal start-up code names (log 34): the cache on the buffer (0x03xx), the objects of the
Mule's partitions on the Mule (0x04xx), the band look-up on the zone metadata (0x09xx). -/
def dependsOn (code index : Nat) : Bool :=
  match code / 256 with
  | 3 => index / 256 = 0x23
  | 4 => index / 256 = 0x70
  | 9 => index = 0x3130
  | _ => false

/-- In FAILED the objects that depend on a failed part are refused (spec 03, R95): one of every fatal failure of this start-up. -/
def partFailed (s : State) (index : Nat) : Bool :=
  s.power.phase = .failed && s.power.failCodes.any (fun c => dependsOn c.toNat index)

/-! ## Reads -/

/-- The abort code of a read (R440), 0 if it is answered. -/
def readCode (s : State) (p : Path) (index sub : Nat) : Nat :=
  match lookupObj s index sub with
  | .error e => e
  | .ok o =>
    let acc := readAccess (pathState s p).priv o
    if acc ≠ 0 then acc
    else if dictBusy s || (o.persistent && !s.mule.mounted) then 0xD0000050
    else if partFailed s index then 0xD0000030
    else 0

/-- CAPTURE_DATA (spec 05, R151): a read of at most `limit` bytes delivers whole records, oldest first, and removes them. -/
def takeCapture (limit : Nat) (s : State) : List Byte × State :=
  let k := limit / 32
  (((s.mgmt.capture.take k).map servoBytes).flatten, { s with mgmt.capture := s.mgmt.capture.drop k })

/-- What a read changes: DELAY_MAX (spec 06, R176), WAIT_MAX (spec 12, R368) and MISS_WAIT_MAX (spec 14, R435) return to 0; LOG_READ
advances LOG_SELECT past the records it returns (spec 17, R491). -/
def afterRead (index sub : Nat) (s : State) : State :=
  if index = 0x4133 then s.modCe (Fin.ofNat 8 sub) (fun c => { c with delayMax := 0 })
  else if index = 0x2206 then modBms (Fin.ofNat 4 sub) (fun b => { b with waitMax := 0 }) s
  else if index = 0x7040 && sub = 3 then { s with mule.missWaitMax := 0 }
  else if index = 0x7202 && sub = 2 then
    match (logRead s).getLast? with
    | none => s
    | some r => { s with evr.logSelect := (r.seq + 1) % 2 ^ 32 }
  else s

/-- A read whose value is destroyed by it. -/
def destructive (index sub : Nat) : Bool := index = 0x4012 && sub = 1

/-- A read answered: its bytes, the whole length, and the state after it. The value of a destructive read is cut to whole records of
`limit` bytes. -/
def takeValue (p : Path) (index sub : Nat) (staged : Bool) (limit : Nat) (s : State) : List Byte × Nat × State :=
  if destructive index sub then
    let t := takeCapture limit s
    (t.1, 32 * s.mgmt.capture.length, t.2)
  else
    let v := match (if staged then assocGet (⟨index, sub⟩ : ObjKey) s.dict.staged else none) with
      | some v => v
      | none => readValue s p index sub
    (v, v.length, afterRead index sub s)

end Sys2Proof.Machine
end

