-- ==== Sys2Proof/Machine/Commit.lean ====
section
/-! DEFINITION. The commit (spec 15, R446 to R449; spec 01, R22 to R24): its validation by the rules of the owning chapters, its swap
at a tick boundary and at the channels' sector boundaries, and its end. -/

namespace Sys2Proof.Machine

/-! ## The values a commit checks (R104, R446) -/

/-- A scalar as the commit would leave it. -/
def nextCfg (s : State) (index sub : Nat) : Nat := leNat (stagedOf s index sub)
/-- The format table of a head as the commit would leave it. -/
def nextFormat (s : State) (h : Nat) : List ZoneRec := (records (stagedOf s 0x3100 h) 32).map ZoneRec.of
/-- The heads and channels of the variant (spec 00, R2). -/
def variantHeads (s : State) : List Nat := List.range (if s.power.crx4 then 16 else 32)
/-- See `variantHeads`. -/
def variantChans (s : State) : List Nat := List.range (if s.power.crx4 then 4 else 8)
/-- A head is fitted after the commit. -/
def nextFitted (s : State) (h : Nat) : Bool := bitOf (nextCfg s 0x3000 3) h
/-- The fitted heads after the commit. -/
def nextHeads (s : State) : List Nat := (variantHeads s).filter (nextFitted s)
/-- The bands of the configuration, of the records that `p` selects. -/
def nextBands (s : State) (p : ZoneRec → Bool) : Nat :=
  ((nextHeads s).map (fun h => (((nextFormat s h).filter p).map ZoneRec.bands).sum)).sum

/-! ## The rules -/

/-- R3: at most four actuators on the CRX4-A128-FB. -/
def actuatorsOk (s : State) : Bool := !s.power.crx4 || (List.range 8).countP (bitOf (nextCfg s 0x3000 2)) ≤ 4

/-- R103: every fitted head, whatever bit of HEAD_MASK names it, on a fitted actuator, every fitted actuator with a fitted head. -/
def actuatorHeadsOk (s : State) : Bool :=
  (List.range 32).all (fun h => !nextFitted s h || bitOf (nextCfg s 0x3000 2) (h / 4)) &&
    (List.range 8).all (fun n => !bitOf (nextCfg s 0x3000 2) n || (nextHeads s).any (fun h => h / 4 = n))

/-- R103: no two fitted heads with one surface number. -/
def surfacesOk (s : State) : Bool := ((nextHeads s).map (fun h => nextCfg s 0x3001 h)).Nodup

/-- R170: a Flock input names a fitted channel of the tower that R170 states, or is disabled. -/
def flockSourceOk (s : State) (n j : Nat) : Bool :=
  let src := byteAt (stagedOf s (0x4120 + n) (j + 1)) 0
  src = 0xFF || (src < 8 && bitOf (nextCfg s 0x3000 2) src && !(s.power.crx4 && 4 ≤ src)
    && (if j < 3 then src / 4 = n / 4 && src ≠ n else src / 4 ≠ n / 4))

/-- R187: BIQUADS at most 2 and the shifts of active sections at most 48. -/
def flockRecordOk (s : State) (n j : Nat) : Bool :=
  let r := stagedOf s (0x4120 + n) (j + 1)
  byteAt r 1 ≤ 2 && (List.range (5 * byteAt r 1)).all (fun i => byteAt r (88 + i) ≤ 48 && byteAt r (98 + i) ≤ 48)

/-- R3 and R127: the bands and the media capacity; R124: the conventional bands. -/
def totalsOk (s : State) : Bool :=
  let n := nextBands s (fun _ => true)
  n ≤ 1048576 && n * 268435456 ≤ (if s.power.crx4 then 128 else 256) * 10 ^ 12 && nextBands s (fun z => !z.shingled) ≤ 4096

/-- R223: a fitted head's HEAD_EQ table has a record for each of its recording zones. -/
def eqCountOk (s : State) (h : Nat) : Bool := (stagedOf s 0x5020 h).length / 320 = (nextFormat s h).length

/-- R231: the data window, the servo field, the gaps and WRITE_SHIFT fit in 0.998 tick periods. -/
def windowFits (s : State) (h : Nat) : Bool :=
  let sr := nextCfg s 0x4000 1
  let ws := (max 0 (fieldS (stagedOf s 0x5102 h) 6 2)).toNat
  (nextFormat s h).all (fun z =>
    (z.wdb * 1000 * sr + 380 * 1000 * z.rate + (180 + ws) * z.rate * sr) * (nextCfg s 0x3000 5 * nextCfg s 0x3000 4) * 1000
      ≤ 998 * 60000000000 * (z.rate * sr))

/-- R110: the sectors of a track fit; SKEW is below WEDGES (Table 4.2). -/
def sectorsFit (s : State) (h : Nat) : Bool :=
  let w := nextCfg s 0x3000 4
  (nextFormat s h).all (fun z => z.n * 37304 + 48 * (w - 1) ≤ w * z.wdb && z.skew < w)

/-- Each record begins where the one before ends (R108, condition 1). DESIGN CHOICE, log 42: its integer quotient is asked of the last record
too, which no record follows. -/
def zonesChain : List ZoneRec → Bool
  | a :: b :: r => a.tracks * a.pitch % 256 = 0 && b.start = a.start + a.tracks * a.pitch / 256 && zonesChain (b :: r)
  | [a] => a.tracks * a.pitch % 256 = 0
  | [] => true

/-- R108, conditions 1 to 5, R195 and R223: what a format table must satisfy by itself. A zone ends at the servo track after its last
(DESIGN CHOICE, log 42: the rule does not say whether the end is the last track or the one after it). -/
def formatOk (s : State) (h : Nat) : Bool :=
  let l := nextFormat s h
  zonesChain l && l.head?.all (fun z => 256 ≤ z.start) && l.getLast?.all (fun z => z.start + z.tracks * z.pitch / 256 ≤ 4194304)
    && l.all (fun z => (if z.shingled then z.pitch = 256 && 1 ≤ z.guard else z.guard = 0)
      && z.tracks % (z.bandTracks + z.guard) = 0 && 65536 + z.s ≤ z.p && 6000 ≤ z.wdb && z.set ≤ 0x3F)

/-- R191: the sampling frequency of every channel set in every recording zone that uses it. -/
def samplingOk (s : State) (h : Nat) : Bool :=
  (nextFormat s h).all (fun z =>
    let f := z.rate * byteAt (stagedOf s 0x5010 z.set) 0
    50000 ≤ f && f ≤ 720000)

/-- The shifts of an active section are at most 48 (R161); the cross-coupling gains stand in slots 6 to 13 only (R185). -/
def sectionOk (secs : List Byte) (slot : Nat) : Bool :=
  let r := recordAt secs 48 slot
  (List.range 5).all (fun i => byteAt r (20 + i) ≤ 48) && (slot < 6 || (byteAt r 36 ≤ 48 && byteAt r 37 ≤ 48))

/-- R161: the counts, the shifts and the limits of a coefficient table. -/
def coefficientsOk (s : State) (n : Nat) : Bool :=
  let h := stagedOf s (0x4110 + n) 1
  let secs := stagedOf s (0x4110 + n) 2
  let ma := byteAt h 0
  let model := byteAt h 1
  let vcm := byteAt h 2
  ma ≤ 4 && model ≤ 2 && 1 ≤ vcm && vcm ≤ 8 && (ma ≠ 0 || model = 0) && fieldU h 8 2 ≤ 256 && fieldU h 4 2 ≠ 0 && fieldU h 6 2 ≠ 0
    && (List.range ma ++ (List.range model).map (4 + ·) ++ (List.range vcm).map (6 + ·)).all (sectionOk secs)

/-- DIST strictly ascending but for unused trailing records, VREF never falling (R161, R186). -/
def profileAscends : List (Nat × Nat) → Bool
  | a :: b :: r => (a.1 < b.1 || (a.1 = 0xFFFFFFFF && b.1 = 0xFFFFFFFF)) && a.2 ≤ b.2 && profileAscends (b :: r)
  | _ => true

/-- R161: the seek profile. -/
def profileOk (s : State) (n : Nat) : Bool :=
  profileAscends ((records (stagedOf s (0x4110 + n) 3) 8).map (fun r => (fieldU r 0 4, fieldU r 4 4)))

/-- R253: TRIM_ENABLE with no preamplifier at 25 MHz. -/
def trimOk (s : State) : Bool :=
  nextCfg s 0x5100 5 = 0 || (variantChans s).all (fun n => !bitOf (byteAt (stagedOf s 0x5101 n) 1) 1)

/-- R255: a HEAD_ASSIST record. -/
def assistOk (s : State) (h : Nat) : Bool :=
  let r := stagedOf s 0x5103 h
  fieldU r 0 2 ≤ fieldU r 2 2 && fieldU r 6 2 ≤ fieldU r 4 2 && fieldU r 4 2 ≤ fieldU r 8 2 && byteAt r 10 ≤ 12 && byteAt r 11 ≤ 48

/-- The tests of validation with the lowest object each reads, in ascending order (R446). -/
def commitTests (s : State) : List (ObjKey × Bool) :=
  let key (i j : Nat) : ObjKey := ⟨i, j⟩
  let heads := variantHeads s
  let chans := variantChans s
  [(key 0x2100 4, decide (2 * nextCfg s 0x2100 4 ≤ 63488)),
   (key 0x3000 2, actuatorsOk s && actuatorHeadsOk s && chans.all (fun n => (List.range 4).all (flockSourceOk s n))),
   (key 0x3000 3, surfacesOk s && totalsOk s && (nextHeads s).all (fun h => eqCountOk s h && windowFits s h)),
   (key 0x3000 4, heads.all (sectorsFit s) &&
     heads.all (fun h => (assocGet (key 0x5102 h) s.dict.staged).isNone || windowFits s h))]
  ++ heads.map (fun h => (key 0x3100 h, formatOk s h && samplingOk s h))
  ++ (chans.map (fun n => [(key (0x4110 + n) 1, coefficientsOk s n), (key (0x4110 + n) 3, profileOk s n)])).flatten
  ++ (chans.map (fun n => (List.range 4).map (fun j => (key (0x4120 + n) (j + 1), flockRecordOk s n j)))).flatten
  ++ [(key 0x5100 5, trimOk s)]
  ++ heads.map (fun h => (key 0x5103 h, assistOk s h))

/-- The object that COMMIT_OBJECT names when validation fails: that of the first failing test. -/
def commitFailure (s : State) : Option ObjKey := ((commitTests s).find? (fun t => !t.2)).map (·.1)

/-! ## The end of a commit -/

/-- A commit refused (R446, R447): COMMIT_RESULT, COMMIT_OBJECT and the event; the staged set stays. -/
def refuseCommit (p : Path) (code : Nat) (k : ObjKey) (s : State) : State :=
  let o := k.index * 256 + k.sub
  raise (event 0xC002 1 (pathCode p) code o) { s with dict.result := BitVec.ofNat 32 code, dict.object := BitVec.ofNat 32 o }

/-- The commit is complete (step 5 of R446): the values become active all at once and are recorded, COMMIT_DONE is set, the staging
copy empties, and who asked is answered. Bands follow a new format (spec 04, R117). -/
def finishCommit (s : State) : State :=
  let src := s.dict.owner.elim srcController pathCode
  let changed := s.dict.staged
  let s := { s with
    dict.values := committedValues s, dict.staged := [], dict.owner := none, dict.stage := .idle, dict.servoSwapped := false
    dict.chanSwapped := 0, dict.discardAfter := none, dict.result := 0, dict.commits := s.dict.commits + 1
    dict.commitTick := if s.dict.servoSwapped then s.dict.swapTick else s.dict.commitTick
    dict.unvalidated := s.dict.changedSince, dict.changedSince := false }
  let s := changed.foldl (fun s e => persistValue e.1.index e.1.sub e.2 src s) s
  let s := if changed.any (fun e => e.1.index = 0x3100) then
      recountBands (fun r => changed.any (fun e => e.1.index = 0x3100 && e.1.sub = r.key.head.val)) s else s
  answerWaiter 0 (setFlag .commitDone s)

/-- An object of the channel part that channel `n` uses (spec 01, R24): of its heads, or of every channel. -/
def affects (n : ChanId) (k : ObjKey) : Bool :=
  channelPart k.index && (k.index = 0x5000 || k.index = 0x5010 || k.sub / 4 = n.val)

/-- Every channel that the commit affects has swapped. -/
def channelsDone (s : State) : Bool :=
  allChans.all (fun n => s.dict.chanSwapped.getLsbD n || !s.dict.staged.any (fun e => affects n e.1))

/-- The commit ends once its swap is done everywhere. -/
def endCommit (s : State) : State :=
  if s.dict.stage = .swapping && s.dict.servoSwapped && channelsDone s then finishCommit s else s

/-! ## The swap -/

/-- The section slots in use (spec 06, R160). -/
def activeSections (h : List Byte) (i : Nat) : Bool :=
  (i < 4 && i < byteAt h 0) || (4 ≤ i && i < 6 && i - 4 < byteAt h 1) || (6 ≤ i && i - 6 < byteAt h 2)

/-- The histories of channel `n` across the swap from `old` (spec 06, R181): a section that becomes active and a Flock input whose
SRC changes start from zero. -/
def swapHistories (old s : State) (n : ChanId) (h : CeHist) : CeHist :=
  let was := ceHeader old n
  let now := ceHeader s n
  { sections := (List.range 14).foldl (fun v i => if activeSections now i && !activeSections was i then updNat v i (fun _ => zeroHist) else v) h.sections
    flock := (List.range 4).foldl (fun v j =>
      if byteAt (flockInput old n j) 0 = byteAt (flockInput s n j) 0 then v else updNat v j (fun _ => (zeroHist, zeroHist))) h.flock }

/-- Channel `n` transfers a sector (spec 01, R24): one is being read, by a media read or by a ladder, or written. An operation that only
waits or seeks transfers none. -/
def transferring (s : State) (n : ChanId) : Bool := readingSector s n || (s.wr n).request

/-- Channel `n` takes its part of the commit (R24). -/
def chanTakes (n : ChanId) (s : State) : State :=
  { s.modRwc n (fun r => { r with swapPending := false }) with dict.chanSwapped := s.dict.chanSwapped ||| (1 <<< n.val) }

/-- Channels that move no sector take their part of a commit and of a calibration at the boundary (R24). -/
def idleChannelsTake (s : State) : State :=
  let s := (allChans.filter (fun n => !transferring s n)).foldl (fun s n =>
    calSwapChannel n (if (s.rwc n).swapPending then chanTakes n s else s)) s
  endCommit s

/-- A new HEAD_ASSIST record of a head is checked against the cap (spec 08, R247); a new SETPOINT, and TRIM_ENABLE 0, put its trim at 0
(R246, R248). -/
def newAssist (old : State) (h : HeadId) (s : State) : State :=
  let s := if fieldU (assistRec old h) 0 2 ≠ fieldU (assistRec s h) 0 2 || !trimEnabled s then s.modHead h (fun y => { y with trim := 0 }) else s
  if assistRec old h ≠ assistRec s h && (s.sdm (chanOf h)).head = h then capCheck true (chanOf h) s else s

/-- A new set speed or wedge count (spec 01, R40; spec 05, R146). -/
def newSpeed (old s : State) : State :=
  let rpm := setRpm old ≠ setRpm s
  let s' := if rpm || wedges old ≠ wedges s then { s with heads := s.heads.map (fun y => { y with samMeas := [] }) } else s
  if rpm then speedChanged s' else s'

/-- The swap boundary of a commit (R22, R23; spec 09, R285): the first that comes 1.0 µs or more after the commit was written. The
servo and assist part is used from here on, and the channels take theirs here or at their next sector boundary. -/
def commitSwap (s : State) : State :=
  if s.dict.stage ≠ .swapping || s.dict.servoSwapped || !passed s s.dict.commitAt 1000 then s
  else
    let old := s
    let s := { s with dict.servoSwapped := true, dict.swapTick := s.tick.counter }
    let servo := s.dict.staged.any (fun e => !channelPart e.1.index)
    let s := allChans.foldl (fun s n =>
      (s.modCe n (fun c => { c with
        hist := swapHistories old s n c.hist, newSet := c.newSet || servo
        busy := c.busy.map (fun b => { b with hist := swapHistories old s n b.hist }) })).modRwc n
        (fun r => { r with swapPending := true })) s
    let s := allChans.foldl (fun s n => s.modWr n (fun w => { w with writerSent := false })) s
    let s := allHeads.foldl (fun s h => newAssist old h s) (newSpeed old s)
    calTouched (s.dict.staged.map (fun e => (e.1.index, e.1.sub))) s

/-! ## The request -/

/-- A request to commit (R446, R447): the abort code, none while the commit runs. A format table staged before a namespace was created
cannot change while it exists (spec 04, R109). -/
def requestCommit (p : Path) (w : Waiter) (s : State) : Option Nat × State :=
  let openSegment := (s.dict.owner.bind (fun q => (pathState s q).segment)).filter (fun g => (objAt g.1.index g.1.sub).any (·.staged))
  match openSegment with
  | some g => (some 0xD0000030, refuseCommit p 0xD0000030 g.1 s)
  | none =>
  match (if s.sub.namespaces = [] then none else s.dict.staged.find? (fun e => e.1.index = 0x3100)) with
  | some e => (some 0xD0000030, refuseCommit p 0xD0000030 e.1 s)
  | none =>
    match commitFailure s with
    | some k => (some 0xD0000021, refuseCommit p 0xD0000021 k s)
    | none =>
      if s.dict.staged = [] then (some 0, finishCommit { s with dict.changedSince := false })
      else (none, { s with dict.stage := .swapping, dict.waiter := some w, dict.commitAt := s.clock.ns + s.clock.sub, dict.changedSince := false })

/-- A request to discard (R449): by the owner, or by another privileged path. -/
def requestDiscard (p : Path) (s : State) : State :=
  wantDiscard (if s.dict.owner = some p then 0 else 1) (pathCode p) s

end Sys2Proof.Machine
end

