-- ==== Sys2Proof/Machine/Dict.lean ====
section
/-! DEFINITION. Dictionary operations (spec 15): the effect of an accepted write by object, staging, segmented writes, reads with their
snapshots, and what becomes of their answers. -/

namespace Sys2Proof.Machine

/-! ## Effects by object -/

/-- A value stored; of a persistent object it is programmed into CAL_STORE (spec 14, R416) and recorded (R441). -/
def storeValue (p : Path) (index sub : Nat) (persistent : Bool) (v : List Byte) (s : State) : State :=
  let s := setValue s index sub v
  if persistent then persistValue index sub v (pathCode p) s else s

/-- PRIV_ENTER (R460): the value of PRIV_CODE enters the privileged view, any other leaves it and is refused. -/
def enterPriv (p : Path) (x : Nat) (s : State) : Nat × State :=
  if x = cfg s 0x1010 2 then (0, modPath p (fun q => { q with priv := true }) s)
  else (0xD0000010, modPath p (fun q => { q with priv := false }) s)

/-- OWNER_LOCK (R461): set by the path that writes 1, cleared by its owner. -/
def writeLock (p : Path) (x : Nat) (s : State) : State :=
  match s.mgmt.lock with
  | none =>
    if x = 0 then s
    else
      let id := identOf s p
      setFlag .ownerLock (raise (event 0xC004 2 (pathCode p) 1 (id.toNat % 2 ^ 64))
        (lockChanged (pathCode p) { s with mgmt.lock := some (p, id) }))
  | some l =>
    if x = 1 then s
    else
      setFlag .ownerLock (raise (event 0xC004 2 (pathCode p) 0 (l.2.toNat % 2 ^ 64)) (lockChanged (pathCode p) { s with mgmt.lock := none }))

/-- MCTP_STATUS (R459): each flag written 1 is cleared unless the hardware sets it in the same cycle, which sets it for both ports
too. -/
def clearMctpStatus (v setNow : Word16) (s : State) : State :=
  let now := setNow &&& 0x3FFF
  let s := s.modPorts (fun q => withStatus (q.status ||| now.zeroExtend 32) q)
  refreshAlert { s with mgmt.status := (s.mgmt.status &&& ~~~v) ||| now }

/-- The requested cache mode of a value of CACHE_MODE (spec 12, R387). -/
def cacheModeOf (x : Nat) : CacheMode := match x with | 0 => .writeBack | 1 => .writeThrough | _ => .off

/-- The decimation counts restart (spec 05, R151). -/
def restartDecim (s : State) : State := allChans.foldl (fun s n => s.modSdm n (fun x => { x with decim := 0 })) s

/-- CAPTURE_CTRL (R151): the counts restart and CAPTURE_LOST with them. -/
def writeCaptureCtrl (x : Nat) (s : State) : State := restartDecim { s with mgmt.capCtrl := x, mgmt.capLost := 0 }

/-- DIRTY_LIMIT (spec 12, R377): below the present count, destage starts. -/
def applyDirtyLimit (s : State) : State :=
  if cfg s 0x2300 3 * 256 < dirtyCount s then destageFirst (dirtyBlocks s) s else s

/-- FW_ABORT (spec 16, R472). -/
def abortStaging (p : Path) (x : Nat) (s : State) : State := if x = 1 && fwBound s then releaseBinding 2 (pathCode p) s else s

/-- A piece by FW_PIECE (spec 16, R466, R468): its abort code, and its effect. -/
def deliverPiece (p : Path) (piece : FwPiece) (s : State) : Nat × State :=
  let a := judgePiece p piece s
  if a = .accepted then (0, takePiece p piece s) else (a.abort, fwRefuse p a.abort (offered piece) s)

/-- A piece from the bytes of FW_PIECE at the source's FW_PIECE_OFFSET; whether its SIGNATURE verifies and its key stands are free
values (log 2). -/
def pieceOfBytes (p : Path) (v : List Byte) (s : State) : FwPiece × State :=
  let a := nextFree s
  let b := nextFree a.2
  (⟨(pathState s p).fwOffset, v.length, ⟨v.take 4096, a.1 % 2 = 1, b.1 % 2 = 1⟩⟩, b.2)

/-- FW_ACTION (spec 16, R474): the action on FW_ACTION_SLOT, its outcome in FW_ACTION_RESULT. -/
def writeFwAction (p : Path) (ca : Nat) (s : State) : Nat × State :=
  let r := fwAction ca s.fw.actionSlot p none true s
  let code := r.1.elim 0 actionCode
  (code, { r.2 with fw.actionResult := BitVec.ofNat 32 code })

/-- The bytes that the OEM objects hold without one of them (R443). -/
def oemBytes (s : State) (k : ObjKey) : Nat := ((s.dict.values.filter (fun e => 0xF000 ≤ e.1.index && e.1 ≠ k)).map (fun e => e.2.length)).sum

/-- An OEM object written (R443): length 0 deletes it; 16 MiB in all. -/
def writeOem (p : Path) (index sub : Nat) (v : List Byte) (s : State) : Nat × State :=
  if 16777216 < oemBytes s ⟨index, sub⟩ + v.length then (0xD0000021, s)
  else
    let s := persistValue index sub v (pathCode p) s
    (0, if v = [] then { s with dict.values := assocDel ⟨index, sub⟩ s.dict.values } else setValue s index sub v)

/-- The effect of an accepted write on an object with behaviour of its own, by object; none for every other object. -/
def specialWrite (p : Path) (index sub : Nat) (v : List Byte) (s : State) : Option (Nat × State) :=
  let x := leNat (v.take 8)
  let keep (f : State → State) : Option (Nat × State) := some (0, f (storeValue p index sub true v s))
  let only (t : State) : Option (Nat × State) := some (0, t)
  if 0xF000 ≤ index then some (writeOem p index sub v s)
  else if index = 0x1010 && sub = 1 then some (enterPriv p x s)
  else if index = 0x1011 && sub = 1 then only (writeLock p x s)
  else if index = 0x1100 && sub = 5 then keep refreshAlert
  else if index = 0x1101 && sub = 1 then only (clearMctpStatus (BitVec.ofNat 16 x) 0 s)
  else if index = 0x2205 && sub = 2 then only (if x = 1 then { s with bms.ceTable := [] } else s)
  else if index = 0x2300 && sub = 1 then keep (requestMode (cacheModeOf x))
  else if index = 0x2300 && sub = 3 then keep applyDirtyLimit
  else if (index = 0x3000 && sub ≤ 3) || index = 0x3001 then keep (fun s => { s with dict.unvalidated := true, dict.changedSince := true })
  else if index = 0x3110 then keep (recountBands (fun r => r.key.head.val = sub))
  else if index = 0x4010 && sub = 1 then only (writeCaptureCtrl x s)
  else if index = 0x4010 && sub = 3 then only (restartDecim { s with mgmt.capDecim := x })
  else if index = 0x6000 && sub = 1 then some (0, storeValue p index sub true (leBytes 2 (x ||| 1024)) s)
  else if index = 0x6103 && sub = 1 then only { s with cal.reqHead := x }
  else if index = 0x6103 && sub = 2 then only (requestKinds x s)
  else if index = 0x7050 then
    match sub with
    | 1 => only { s with mule.oemBlock := x }
    | 2 => only { s with mule.oemPage := x }
    | 3 => only (oemStart x s)
    | _ => only { s with mule.oemWbuf := v }
  else if index = 0x7060 then only (eraseSlot x s)
  else if index = 0x7100 && sub = 8 then only (abortStaging p x s)
  else if index = 0x7101 then
    if sub = 1 then only (modPath p (fun q => { q with fwOffset := x }) s)
    else
      let r := pieceOfBytes p v s
      some (deliverPiece p r.1 r.2)
  else if index = 0x7102 then (if sub = 1 then some (writeFwAction p x s) else only { s with fw.actionSlot := x })
  else if index = 0x7200 && sub = 1 then keep (setEvtMode (x = 1))
  else if index = 0x7200 && sub = 2 then only (if x = 1 then freeze s else unfreeze s)
  else if index = 0x7202 then only { s with evr.logSelect := x }
  else if index = 0x7302 then
    (if sub = 1 then only (retireByRequest x s) else only { s with faults.unretire := decide (x = 1) })
  else none

/-! ## Writes -/

/-- A staged value (R444): the first binds the copy to its path. -/
def stageValue (p : Path) (index sub : Nat) (v : List Byte) (s : State) : State :=
  { s with dict.staged := assocSet ⟨index, sub⟩ v s.dict.staged, dict.owner := some (s.dict.owner.getD p) }

/-- The record that a refusal of a value leaves: of a program to a page that is not erased (spec 14, R421), of an erase of the active
slot (R434). -/
def noteRefusal (p : Path) (index sub x : Nat) (s : State) : State :=
  if index = 0x7050 && sub = 3 && valueRefusal s index sub x = 0xD0000030 then refuseProgram (pathCode p) s
  else if index = 0x7060 && valueRefusal s index sub x = 0xD0000030 then slotEraseRefused x (pathCode p) 0xD0000030 s
  else s

/-- A whole value whose write has passed steps 3 to 8 of R440: its abort code, none while a commit runs for it. -/
def writeWhole (p : Path) (w : Waiter) (index sub : Nat) (o : Obj) (v : List Byte) (s : State) : Option Nat × State :=
  if partFailed s index then (some 0xD0000030, s)
  else
    let c := valueCode s index sub o v
    if c ≠ 0 then (some c, if lengthOk o v then noteRefusal p index sub (leNat (v.take 8)) s else s)
    else if index = 0x1020 && sub = 1 then
      (if v = [2] then (some 0, requestDiscard p s) else requestCommit p w s)
    else if o.staged then (some 0, stageValue p index sub v s)
    else match specialWrite p index sub v s with
      | some r => (some r.1, r.2)
      | none => (some 0, storeValue p index sub o.persistent v s)

/-- A write of an object over a path (R438 to R440). -/
def dictWrite (p : Path) (w : Waiter) (index sub : Nat) (v : List Byte) (s : State) : Option Nat × State :=
  match admitWrite s p index sub (v = [2]) with
  | .error e => (some e, s)
  | .ok o => writeWhole p w index sub o v s

/-- The open segmented write of a path dropped. -/
def dropSegment (p : Path) (s : State) : State := modPath p (fun q => { q with segment := none }) s

/-- A segment of a write (R454): the first opens the write and binds staging, each later one begins where the one before ended, and
LAST writes the whole value in one step. -/
def segmentWrite (p : Path) (w : Waiter) (index sub offset : Nat) (last : Bool) (v : List Byte) (s : State) : Option Nat × State :=
  match admitWrite s p index sub false with
  | .error e => (some e, s)
  | .ok o =>
    let key : ObjKey := ⟨index, sub⟩
    let before := if offset = 0 then some [] else
      ((pathState s p).segment.filter (fun g => g.1 = key && g.2.length = offset)).map (·.2)
    match before with
    | none => (some 0xD0000023, dropSegment p s)
    | some d =>
      let s := if o.staged then { s with dict.owner := some (s.dict.owner.getD p) } else s
      if last then writeWhole p w index sub o (d ++ v) (dropSegment p s)
      else (some 0, modPath p (fun q => { q with segment := some (key, d ++ v) }) s)

/-! ## Reads (R445, R455) -/

/-- The snapshot of a path dropped: records of CAPTURE_DATA not read in full count as lost. -/
def dropSnapshot (p : Path) (s : State) : State :=
  let lost := match (pathState s p).snapshot with
    | some (k, v, got) => if destructive k.index k.sub then (v.length - got + 31) / 32 else 0
    | none => 0
  modPath p (fun q => { q with snapshot := none }) { s with mgmt.capLost := s.mgmt.capLost + BitVec.ofNat 32 lost }

/-- Bytes of the snapshot from an offset, at most `limit`; it is dropped after its last byte. -/
def readSnapshot (p : Path) (k : ObjKey) (v : List Byte) (got offset limit : Nat) (s : State) : List Byte × State :=
  let part := (v.drop offset).take limit
  let now := max got (offset + part.length)
  (part, modPath p (fun q => { q with snapshot := if v.length ≤ now then none else some (k, v, now) }) s)

/-- A read over a path (R445, R455): its abort code, the bytes delivered, the whole length, and the state after it. -/
def dictRead (p : Path) (index sub : Nat) (staged segment : Bool) (offset limit : Nat) (s : State) : Nat × List Byte × Nat × State :=
  let code := readCode s p index sub
  let key : ObjKey := ⟨index, sub⟩
  if code ≠ 0 then (code, [], 0, s)
  else if offset ≠ 0 then
    match (pathState s p).snapshot with
    | some (k, v, got) =>
      if segment && k = key then
        let r := readSnapshot p k v got offset limit s
        (0, r.1, v.length, r.2)
      else (0xD0000023, [], 0, s)
    | none => (0xD0000023, [], 0, s)
  else if segment then
    let t := takeValue p index sub staged (2 ^ 32) (dropSnapshot p s)
    let r := readSnapshot p key t.1 0 0 limit t.2.2
    (0, r.1, t.1.length, r.2)
  else
    let t := takeValue p index sub staged limit (dropSnapshot p s)
    (0, t.1.take limit, t.2.1, t.2.2)

/-! ## Direct access -/

/-- The dictionary answers (spec 03, Table 3.6): not in BOOT and not in RECOVERY. -/
def dictServes (s : State) : Bool := s.resident && s.power.phase ≠ .boot

/-- The answer of a direct access shown to who made it. -/
def showAnswer (code : Nat) (v : List Byte) (s : State) : State := { s with mgmt.answer := some (BitVec.ofNat 32 code, v) }

/-- A direct write of an object, with its answer; that of a commit comes at its end. -/
def objectAccess (p : Path) (index sub : Nat) (v : List Byte) (s : State) : State :=
  if !dictServes s then s
  else
    let r := dictWrite p (.write p) index sub v s
    match r.1 with | none => r.2 | some c => showAnswer c [] r.2

/-- A direct read of an object of at most `limit` bytes, with its answer. -/
def objectRead (p : Path) (index sub limit : Nat) (s : State) : State :=
  if !dictServes s then s
  else
    let r := dictRead p index sub false false 0 limit s
    showAnswer r.1 r.2.1 r.2.2.2

end Sys2Proof.Machine
end

