-- ==== Sys2Proof/Machine/DictRows.lean ====
section
/-! DEFINITION. The meanings of the object rows: writes and reads of dictionary objects over a path, the dictionary's timers, the channel
part of a commit, and the event recorder's own steps. -/

namespace Sys2Proof.Machine

/-! ## Common objects (spec 15) -/

/-- OBJECT_WRITE (R438 to R444): a write over a path, answered with its abort code. -/
def execObjectWrite (p : Path) (index : Word16) (sub : Byte) (data : List Byte) (s : State) : Host.Outcome State Fault Refusal :=
  .next (objectAccess p index.toNat sub.toNat data s)

/-- COMMIT_WRITE (R446): 1 to COMMIT, written at its instant in the tick (spec 01, R22). -/
def execCommitWrite (p : Timed Path) (s : State) : Host.Outcome State Fault Refusal :=
  .next (if dictServes s then objectAccess p.what 0x1020 1 [1] (atOffset p.atNs s) else s)

/-- DISCARD_WRITE (R449): 2 to COMMIT. -/
def execDiscardWrite (p : Path) (s : State) : Host.Outcome State Fault Refusal := .next (objectAccess p 0x1020 1 [2] s)

/-- CHANNEL_COMMIT_SWAP (spec 01, R24; spec 09, R284): a sector boundary of channel `n`, at which it takes its part of a commit under way
and of calibration results; the commit ends with the last channel. -/
def execChannelCommitSwap (n : ChanId) (s : State) : Host.Outcome State Fault Refusal :=
  .next (ifLive s (fun s =>
    endCommit (calSwapChannel n (if s.dict.servoSwapped && (s.rwc n).swapPending then chanTakes n s else s))))

/-- PRIV_ENTER_WRITE (R460). -/
def execPrivEnterWrite (p : Path) (v : Word32) (s : State) : Host.Outcome State Fault Refusal :=
  .next (objectAccess p 0x1010 1 (leBytes 4 v.toNat) s)

/-- OWNER_LOCK_WRITE (R461). -/
def execOwnerLockWrite (p : Path) (v : Byte) (s : State) : Host.Outcome State Fault Refusal := .next (objectAccess p 0x1011 1 [v] s)

/-- NODE_NUMBER_WRITE (R453): it applies to requests received after its answer, which is given here. -/
def execNodeNumberWrite (p : Path) (v : Word16) (s : State) : Host.Outcome State Fault Refusal :=
  .next (objectAccess p 0x1001 1 (leBytes 2 v.toNat) s)

/-- MCTP_STATUS_WRITE (R459): written 1 to clear, `setNow` the flags that the hardware sets in the same cycle. -/
def execMctpStatusWrite (p : Path) (v setNow : Word16) (s : State) : Host.Outcome State Fault Refusal :=
  .next (if !dictServes s then s
    else match admitWrite s p 0x1101 1 false with
      | .error e => showAnswer e [] (clearMctpStatus 0 setNow s)
      | .ok o =>
        let c := valueCode s 0x1101 1 o (leBytes 2 v.toNat)
        showAnswer c [] (clearMctpStatus (if c = 0 then v else 0) setNow s))

/-- STAGE_LEASE_EXPIRED (R449): no staged write from the owner for STAGE_LEASE seconds. -/
def execStageLeaseExpired (s : State) : Host.Outcome State Fault Refusal :=
  .next (ifResident s (fun s => if s.dict.owner.isSome then wantDiscard 2 srcController s else s))

/-- PRIV_IDLE_EXPIRED (R460): PRIV_IDLE seconds, if not 0, without a privileged access from the path. -/
def execPrivIdleExpired (p : Path) (s : State) : Host.Outcome State Fault Refusal :=
  .next (ifResident s (fun s => if cfg s 0x1010 4 = 0 then s else modPath p (fun q => { q with priv := false }) s))

/-- SEGMENT_TIMEOUT (R454): no segment for 60 s. -/
def execSegmentTimeout (p : Path) (s : State) : Host.Outcome State Fault Refusal := .next (ifResident s (dropSegment p))

/-- SNAPSHOT_TIMEOUT (R455): 60 s after the snapshot was taken. -/
def execSnapshotTimeout (p : Path) (s : State) : Host.Outcome State Fault Refusal := .next (ifResident s (dropSnapshot p))

/-! ## Servo capture (spec 05, R151) and DELAY_MAX -/

/-- CAPTURE_DATA_READ: whole records of at most `maxBytes`, removed as they are delivered. -/
def execCaptureDataRead (p : Path) (maxBytes : Nat) (s : State) : Host.Outcome State Fault Refusal := .next (objectRead p 0x4012 1 maxBytes s)

/-- CAPTURE_CTRL_WRITE. -/
def execCaptureCtrlWrite (p : Path) (v : Byte) (s : State) : Host.Outcome State Fault Refusal := .next (objectAccess p 0x4010 1 [v] s)

/-- CAPTURE_DECIM_WRITE. -/
def execCaptureDecimWrite (p : Path) (v : Byte) (s : State) : Host.Outcome State Fault Refusal := .next (objectAccess p 0x4010 3 [v] s)

/-- DELAY_MAX_READ (spec 06, R176). -/
def execDelayMaxRead (p : Path) (n : ChanId) (s : State) : Host.Outcome State Fault Refusal := .next (objectRead p 0x4133 n.val 2 s)

/-! ## Calibration and faults -/

/-- CAL_REQ_KINDS_WRITE (spec 09, R273, R286). -/
def execCalReqKindsWrite (p : Path) (v : Byte) (s : State) : Host.Outcome State Fault Refusal := .next (objectAccess p 0x6103 2 [v] s)

/-- RETIRE_REQ_WRITE (spec 13, R406, R409). -/
def execRetireReqWrite (p : Path) (v : Word16) (s : State) : Host.Outcome State Fault Refusal :=
  .next (objectAccess p 0x7302 1 (leBytes 2 v.toNat) s)

/-- UNRETIRE_WRITE (spec 13, R406): it takes effect at the next power-on reset. -/
def execUnretireWrite (p : Path) (v : Byte) (s : State) : Host.Outcome State Fault Refusal := .next (objectAccess p 0x7302 2 [v] s)

/-! ## Buffer memory and cache (spec 12) -/

/-- SCRUB_ENABLE_WRITE (R365). -/
def execScrubEnableWrite (p : Path) (v : Byte) (s : State) : Host.Outcome State Fault Refusal := .next (objectAccess p 0x2201 1 [v] s)

/-- CE_TABLE_CLEAR (R360). -/
def execCeTableClear (p : Path) (v : Byte) (s : State) : Host.Outcome State Fault Refusal := .next (objectAccess p 0x2205 2 [v] s)

/-- WAIT_MAX_READ (R368). -/
def execWaitMaxRead (p : Path) (c : Fin 4) (s : State) : Host.Outcome State Fault Refusal := .next (objectRead p 0x2206 c.val 2 s)

/-- CACHE_MODE_WRITE (R387). -/
def execCacheModeWrite (p : Path) (v : Byte) (s : State) : Host.Outcome State Fault Refusal := .next (objectAccess p 0x2300 1 [v] s)

/-- DIRTY_LIMIT_WRITE (R377). -/
def execDirtyLimitWrite (p : Path) (v : Word16) (s : State) : Host.Outcome State Fault Refusal :=
  .next (objectAccess p 0x2300 3 (leBytes 2 v.toNat) s)

/-! ## The Mule (spec 14) -/

/-- MISS_WAIT_MAX_READ (R435). -/
def execMissWaitMaxRead (p : Path) (s : State) : Host.Outcome State Fault Refusal := .next (objectRead p 0x7040 3 2 s)

/-- OEM_READ (R433): OEM_CMD 1. -/
def execOemRead (p : Path) (s : State) : Host.Outcome State Fault Refusal := .next (objectAccess p 0x7050 3 [1] s)

/-- OEM_PROGRAM (R433): OEM_CMD 2. -/
def execOemProgram (p : Path) (s : State) : Host.Outcome State Fault Refusal := .next (objectAccess p 0x7050 3 [2] s)

/-- OEM_ERASE (R433): OEM_CMD 3. -/
def execOemErase (p : Path) (s : State) : Host.Outcome State Fault Refusal := .next (objectAccess p 0x7050 3 [3] s)

/-- SLOT_ERASE_WRITE (R434). -/
def execSlotEraseWrite (p : Path) (v : Byte) (s : State) : Host.Outcome State Fault Refusal := .next (objectAccess p 0x7060 1 [v] s)

/-! ## Firmware staging (spec 16) -/

/-- FW_PIECE_WRITE (R466): a piece at the source's FW_PIECE_OFFSET. -/
def execFwPieceWrite (p : Path) (piece : FwPiece) (s : State) : Host.Outcome State Fault Refusal :=
  .next (if !dictServes s then s
    else match admitWrite s p 0x7101 2 false with
      | .error e => showAnswer e [] s
      | .ok _ =>
        if 1048576 < piece.length then showAnswer 0xD0000020 [] s
        else
          let r := deliverPiece p { piece with offset := (pathState s p).fwOffset } s
          showAnswer r.1 [] r.2)

/-- FW_ABORT_WRITE (R472). -/
def execFwAbortWrite (p : Path) (v : Byte) (s : State) : Host.Outcome State Fault Refusal := .next (objectAccess p 0x7100 8 [v] s)

/-- FW_ACTION_KEEP (R474): FW_ACTION 0. -/
def execFwActionKeep (p : Path) (s : State) : Host.Outcome State Fault Refusal := .next (objectAccess p 0x7102 1 [0] s)

/-- FW_ACTION_NEXT_RESET (R474): FW_ACTION 1. -/
def execFwActionNextReset (p : Path) (s : State) : Host.Outcome State Fault Refusal := .next (objectAccess p 0x7102 1 [1] s)

/-- FW_ACTION_EXISTING (R474): FW_ACTION 2. -/
def execFwActionExisting (p : Path) (s : State) : Host.Outcome State Fault Refusal := .next (objectAccess p 0x7102 1 [2] s)

/-- FW_ACTION_IMMEDIATE (R476): FW_ACTION 3. -/
def execFwActionImmediate (p : Path) (s : State) : Host.Outcome State Fault Refusal := .next (objectAccess p 0x7102 1 [3] s)

/-! ## The event recorder (spec 17) -/

/-- EVENT_WRITE (R481, R483, R485): the next queued event is written. Before MOUNT ends nothing is queued (R484). -/
def execEventWrite (s : State) : Host.Outcome State Fault Refusal := .next (ifLive s (fun s => if s.mule.mounted then writeNext s else s))

/-- EVT_FREEZE_WRITE (R486). -/
def execEvtFreezeWrite (p : Path) (v : Byte) (s : State) : Host.Outcome State Fault Refusal := .next (objectAccess p 0x7200 2 [v] s)

/-- FREEZE_LEASE_EXPIRED (R486): FREEZE_LIMIT seconds after the last write of 1. -/
def execFreezeLeaseExpired (s : State) : Host.Outcome State Fault Refusal := .next (ifLive s unfreeze)

/-- EVT_MODE_WRITE (R485). -/
def execEvtModeWrite (p : Path) (v : Byte) (s : State) : Host.Outcome State Fault Refusal := .next (objectAccess p 0x7200 1 [v] s)

/-- MIRROR_PAGE_PROGRAM (R487): gathered records are programmed in a page of EVENT_LOG; while frozen the mirror holds still (R486). -/
def execMirrorPageProgram (s : State) : Host.Outcome State Fault Refusal :=
  .next (ifLive s (fun s => if s.mule.mounted && !s.evr.frozen then mirrorPage (logPages ((gathered s.evr).take 512) s) else s))

/-- LOG_SELECT_WRITE (R491). -/
def execLogSelectWrite (p : Path) (v : Word32) (s : State) : Host.Outcome State Fault Refusal :=
  .next (objectAccess p 0x7202 1 (leBytes 4 v.toNat) s)

/-- LOG_READ (R491): up to 512 records of 32 bytes. -/
def execLogRead (p : Path) (s : State) : Host.Outcome State Fault Refusal := .next (objectRead p 0x7202 2 16384 s)

end Sys2Proof.Machine
end

