-- ==== Sys2Proof/Machine/Links.lean ====
section
/-! DEFINITION. The meanings of the rows of the actuator drive links (spec 02, R53 to R57) and of the index and the spindle (spec 01,
R43 to R47; spec 13, R399). -/

namespace Sys2Proof.Machine

/-! ## Upstream frames (R54, R57) -/

/-- The CRC of an upstream frame of a TYPE holds (Table 2.4). -/
def frameCrcOk (type : Nat) (f : UpFrame) : Bool :=
  crc8 (BitVec.ofNat 8 (type * 16 + f.slot.toNat * 4 + f.seq.toNat) :: leBytes 4 f.payload.toNat) = f.crc

/-- A frame is valid: its CRC holds and its SEQ continues (R57). -/
def frameValid (s : State) (k : LinkId) (type : Nat) (f : UpFrame) : Bool :=
  frameCrcOk type f && (match (s.link k).rxSeq with | none => true | some q => f.seq = q)

/-- A frame received (R57): a bad one is discarded and counted, a valid one makes the link up. After a discontinuity the count goes
on from the frame received (DESIGN CHOICE, log 24). -/
def noteFrame (k : LinkId) (type : Nat) (f : UpFrame) (s : State) : State :=
  let ok := frameValid s k type f
  let crc := frameCrcOk type f
  s.modLink k (fun l => { l with
    rxSeq := if crc then some (f.seq + 1) else l.rxSeq, badFrames := l.badFrames + b2n (!ok)
    up := l.up || ok, lost := l.lost && !ok, charged := l.charged && !ok })

/-- A frame of a TYPE received, with its effect if it is valid. -/
def onFrame (k : LinkId) (type : Nat) (f : UpFrame) (g : State → State) (s : State) : State :=
  if !s.power.running then s
  else
    let ok := frameValid s k type f
    let s := noteFrame k type f (atOffset f.atNs s)
    if ok && s.servoLive then g s else s

/-- The upper and the lower half of a payload. -/
def payloadHi (f : UpFrame) : Nat := f.payload.toNat / 65536
/-- See `payloadHi`. -/
def payloadLo (f : UpFrame) : Nat := f.payload.toNat % 65536

/-- ADL_IDLE_FRAME. -/
def execAdlIdleFrame (k : LinkId) (f : UpFrame) (s : State) : Host.Outcome State Fault Refusal := .next (onFrame k 0 f id s)

/-- INDEX_FRAME (R56; spec 01, R36): the edge is the frame's time less its offset and the receive latency; only the link named by
SPINDLE_LINK gives the index, and it is absent while that link is not up (R57), so the time of R43 runs on. -/
def execIndexFrame (k : LinkId) (f : UpFrame) (s : State) : Host.Outcome State Fault Refusal :=
  .next (onFrame k 8 f (fun s =>
    let s := s.modLink k (fun l => { l with revCount := BitVec.ofNat 16 (payloadHi f) })
    if k = spindleLink s && (s.link k).up then indexEdge (s.clock.ns + f.atNs - payloadLo f) f.atNs s else s) s)

/-- The spindle has stopped (spec 01, R34, R47; spec 03, R88; spec 13, R399): the generator goes to STOPPED; after a brake a second
attempt is made, or start-up repeats from SPIN_WAIT. In FAILED nothing follows (spec 03, R98). -/
def spindleStopped (s : State) : State :=
  let s := tickTo .stopped s
  if !s.power.braking then s
  else if s.power.restarting then restartFromSpinWait s
  else if s.power.phase = .spinUp || s.power.speedChange = .ramping then spinUp { s with power.braking := false }
  else { s with power.braking := false }

/-- BEMF_FRAME (Table 2.5). -/
def execBemfFrame (k : LinkId) (f : UpFrame) (s : State) : Host.Outcome State Fault Refusal :=
  .next (onFrame k 9 f (fun s =>
    let s := s.modLink k (fun l => { l with bemfSpeed := BitVec.ofNat 16 (payloadLo f), bemfFlags := BitVec.ofNat 16 (payloadHi f) })
    if s.live && k = spindleLink s && bitOf (payloadHi f) 0 then spindleStopped s else s) s)

/-- On-track is withdrawn by a FAULT frame for every actuator of its slot mask, and a sector being written is aborted (R57; spec 08,
Table 8.1, R235). -/
def faultSlots (k : LinkId) (mask atNs : Nat) (s : State) : State :=
  (chansOf k).foldl (fun s n =>
    if bitOf mask (n.val % 4) then
      gateCheck true n (s.modSdm n (fun x => { x with onTrack := false, faultAt := some (s.clock.ns + atNs) }))
    else s) s

/-- FAULT_FRAME: the mask, the code, and in SPIN_UP on the spindle link the failure of the attempt (spec 03, R88). -/
def execFaultFrame (k : LinkId) (f : UpFrame) (s : State) : Host.Outcome State Fault Refusal :=
  .next (onFrame k 10 f (fun s =>
    let s := s.modLink k (fun l => { l with faultCode := BitVec.ofNat 16 (payloadLo f) })
    let s := faultSlots k (payloadHi f % 16) f.atNs s
    if s.live && k = spindleLink s && s.power.phase = .spinUp && !s.power.braking then failSpinUp true s else s) s)

/-- STORE_FRAME (R77): the store and input voltages, which the combo on ADL 0 reports. Vstart is that of the last STORE frame before
TESTRES (DESIGN CHOICE, log 24: the rule does not say which of several frames gives it). -/
def execStoreFrame (k : LinkId) (f : UpFrame) (s : State) : Host.Outcome State Fault Refusal :=
  .next (onFrame k 11 f (fun s =>
    if k ≠ 0 then s else { s with power.storeMv := payloadLo f, power.inputVolts := payloadHi f }) s)

/-- TESTRES_FRAME (R77; spec 03, R89): the check is judged, and HEAD_LOAD follows the one of start-up. -/
def execTestresFrame (k : LinkId) (f : UpFrame) (s : State) : Host.Outcome State Fault Refusal :=
  .next (onFrame k 12 f (fun s =>
    if !s.live || !s.power.holdTesting || k ≠ 0 then s
    else
      let s := holdupJudge s.power.storeMv (payloadHi f) (payloadLo f) s
      if s.power.phase = .holdupCheck then beginHeadLoad s else s) s)

/-! ## Loss of a link -/

/-- LINK_LOSS (R57; spec 13, LINK_LOSS): 50 µs without a valid frame on a link that is up. The first frame after it is accepted with
any SEQ (DESIGN CHOICE, log 24: the rule does not say from which count the sequence goes on). -/
def execLinkLoss (k : LinkId) (s : State) : Host.Outcome State Fault Refusal :=
  .next (if !s.servoLive || !(s.link k).up then s
    else
      let s := s.modLink k (fun l => { l with up := false, lost := true, charged := false, rxSeq := none })
      let s := ((chansOf k).filter (chanFitted s)).foldl (fun s n =>
        let s := transientFault .linkLoss (some (.channel n)) 0 s
        gateCheck false n (s.modSdm n (fun x => { x with onTrack := false }))) s
      if s.live && k = spindleLink s && s.power.phase = .spinUp && !s.power.braking then failSpinUp true s else s)

/-- LINK_LOSS_LIMIT (spec 13, LINK_LOSS, R399): a permanent-class event of each fitted channel of the link, and on the spindle link a
drive restart. -/
def execLinkLossLimit (k : LinkId) (s : State) : Host.Outcome State Fault Refusal :=
  .next (if !s.live || !(s.link k).lost || (s.link k).charged then s
    else
      let s := s.modLink k (fun l => { l with charged := true })
      let s := ((chansOf k).filter (chanFitted s)).foldl (fun s n => charge .linkLoss (.channel n) false 0 s) s
      if k = spindleLink s then driveRestart s else s)

/-! ## Index and speed -/

/-- INDEX_LOSS (spec 01, R43 to R46): in STOPPED the index is not watched. -/
def execIndexLoss (s : State) : Host.Outcome State Fault Refusal :=
  .next (if s.live && !s.tick.indexLost && s.tick.state ≠ .stopped then loseIndex s else s)

/-- INDEX_LOSS_10S (spec 01, R47; spec 13, R399): INDEX_LOSS is raised and counted; in HOLDOVER the drive restarts. -/
def execIndexLoss10s (s : State) : Host.Outcome State Fault Refusal :=
  .next (if !s.live || !s.tick.indexLost || s.tick.lost10s then s
    else
      let s := driveFault .indexLoss 0 { s with tick.lost10s := true, faults.indexLosses := s.faults.indexLosses + 1 }
      if s.tick.state = .holdover then driveRestart s else s)

/-- SUBSTITUTE_LOSS (spec 01, R45, R46): the substitute is lost for more than one revolution. -/
def execSubstituteLoss (s : State) : Host.Outcome State Fault Refusal :=
  .next (if s.live && s.tick.state = .substitute then tickTo .holdover s else s)

/-- SPEED_FAULT_LIMIT (spec 13, R399): a spindle-speed fault that persists causes a drive restart. -/
def execSpeedFaultLimit (s : State) : Host.Outcome State Fault Refusal :=
  .next (if s.live && s.tick.speedFault then driveRestart s else s)

end Sys2Proof.Machine
end

