-- ==== Sys2Proof/Machine/Namespaces.lean ====
section
/-! DEFINITION. Namespace management, Format NVM and Sanitize (spec 10, R302, R307, R503; spec 11, R345; spec 12, R391). -/

namespace Sys2Proof.Machine

/-! ## Refusals -/

/-- Namespace Not Ready for an admin command: DNR in FAILED, CRD by ACRE (spec 03, R96, R97), with an event. -/
def adminNotReady (a : AdminHdr) (opcode nsid cdw10 : Nat) (s : State) : State :=
  commitCompletion a.port
    { plainCompletion a.cid .nsNotReady with dnr := s.power.phase = .failed, crd := b2n (s.port a.port).feat.acre }
    (cmdRefused a.port opcode 0 nsid cdw10 .nsNotReady s)

/-- Sanitize keeps a command from its effect (R302; NVMe Base 2.0 by R503): in progress, or failed. -/
def sanitizeStatus (s : State) : Option Status :=
  if s.sub.sanitize.running then some .sanitizeInProgress else if s.sub.sanitize.failed then some .sanitizeFailed else none

/-- A command that needs the drive READY (spec 03, R96) and no Sanitize. -/
def nsCommand (a : AdminHdr) (opcode nsid cdw10 : Nat) (f : State → State) (s : State) : State :=
  adminExec a false (fun s =>
    if beforeReady s then adminNotReady a opcode nsid cdw10 s
    else match sanitizeStatus s with
      | some st => adminRefused a opcode nsid cdw10 st s
      | none => f s) s

/-- A reservation on one of the namespaces denies the host of a port a command that writes (R308; the group of admin commands is that of
NVMe Base 2.0, PRESUMED, log 18). -/
def nsDenied (s : State) (p : PortId) (l : List Namespace) : Bool := l.any (fun n => reservationDenies n.res (hostOf s p) true false)

/-! ## Notices -/

/-- A namespace attribute changed, on some controllers (R301, Table 10.6): the Changed Namespace List, and a Notice if enabled (bit 8 of the
Asynchronous Event Configuration; PRESUMED, log 18). -/
def noticeNs (nsid : Nat) (ports : List PortId) (s : State) : State :=
  ports.foldl (fun s p => s.modPort p (fun q =>
    let q := { q with changed := insertSorted (fun x y => decide (x < y)) nsid q.changed }
    if q.feat.asyncConfig.getLsbD 8 then postAen ⟨2, 0x00, 0x04⟩ q else q)) s

/-! ## Create -/

/-- The lowest namespace identifier free, of sixteen. -/
def freeNsid (s : State) : Option Nat := firstFrom (fun i => (findNs s i).isNone) 16 1

/-- A namespace of `count` bands of a kind. -/
def buildNs (nsid : Nat) (zoned : Bool) (bands : List BandKey) (s : State) : State :=
  let s := bands.foldl (fun s k => noteBand k (modBand k (fun r => { r with nsid := nsid }) s)) s
  let n : Namespace := ⟨nsid, zoned, bands.length * 65536, bands, false, false, ⟨0, [], none, false⟩⟩
  { s with sub.namespaces := (n :: s.sub.namespaces).mergeSort (fun x y => x.nsid ≤ y.nsid) }

/-- A commit of a format table is in progress: the table changes only with no namespace (spec 04, R109), so none is created until it ends
(DESIGN CHOICE, log 42: the rule gives no status; that of an unvalidated configuration is taken). -/
def formatChanging (s : State) : Bool := s.dict.stage ≠ .idle && s.dict.staged.any (fun e => e.1.index = 0x3100)

/-- Namespace Management create (R302, R122; spec 04, R104). -/
def createNs (a : AdminHdr) (csi nsze ncap lbaf : Nat) (s : State) : State :=
  if (csi ≠ 0 && csi ≠ 2) || nsze ≠ ncap || nsze = 0 || nsze % 65536 ≠ 0 then adminRefused a 0x0D 0 0 .invalidField s
  else if lbaf ≠ 0 then adminRefused a 0x0D 0 0 .invalidFormat s
  else if s.dict.unvalidated || formatChanging s then adminNotReady a 0x0D 0 0 s
  else match freeNsid s with
    | none => adminRefused a 0x0D 0 0 .nsIdUnavailable s
    | some nsid =>
      let bands := (freeBands s (csi = 2)).take (nsze / 65536)
      if bands.length < nsze / 65536 then adminRefused a 0x0D 0 0 .nsInsufficient s
      else adminDone a .success nsid .none (buildNs nsid (csi = 2) bands s)

/-- NAMESPACE_CREATE. -/
def execNamespaceCreate (a : AdminHdr) (csi : Byte) (nsze ncap : Nat) (lbaf : BitVec 4) (s : State) : Host.Outcome State Fault Refusal :=
  .next (nsCommand a 0x0D 0 0 (createNs a csi.toNat nsze ncap lbaf.toNat) s)

/-! ## Emptying a namespace -/

/-- The open commands of a namespace end aborted (log 31). -/
def endNsCommands (nsid : Nat) (s : State) : State :=
  (s.cmds.ctxs.filter (fun c => c.ns = nsid && !c.committed)).foldl (fun s c =>
    match ctxOf s c.id with | none => s | some c => if c.committed then s else endUnacked c .abortRequested s) s

/-- The write run on a band ends. -/
def dropRun (k : BandKey) (s : State) : State :=
  if (s.wr (chanOf k.head)).run.any (fun r => r.op.band = k) then endRun (chanOf k.head) false s else s

/-- The state that the retirement of its head gives a zone, for as long as it stands (spec 13, Table 13.2): Offline, or Read Only. -/
def retiredState (s : State) (k : BandKey) (st : ZoneState) : ZoneState :=
  if st = .conventional then st
  else if headRetired s k.head then .offline
  else if headReadOnly s k.head && st ≠ .offline then .readOnly
  else st

/-- A band of a namespace emptied (R302), with the ordering point of spec 12, R391: its zone Empty, whatever it was, but for the state
that a retired head gives it (log 31). -/
def wipeBand (k : BandKey) (s : State) : State :=
  let s := emptyBand k (zoneOrdering k (dropRun k s))
  noteBand k (modBand k (fun r => { r with state := retiredState s k r.state }) s)

/-- A namespace emptied: its commands, its bands, its cached data and its pending deferred errors (spec 11, R345). -/
def wipeNs (n : Namespace) (s : State) : State :=
  let s := n.bands.foldl (fun s k => wipeBand k s) (endNsCommands n.nsid s)
  let s := maintainNs n s
  { s with sub.deferred := s.sub.deferred.filter (fun d => d.2 ≠ n.nsid) }

/-! ## Delete, attach and detach -/

/-- The ports a namespace is attached to. -/
def portsOf (n : Namespace) : List PortId := allPorts.filter (fun p => n.attached p)

/-- What the controllers keep of a namespace forgotten. -/
def forgetNs (nsid : Nat) (s : State) : State :=
  s.modPorts (fun q => { q with feat := { q.feat with tler := assocDel nsid q.feat.tler, resMask := assocDel nsid q.feat.resMask } })

/-- A namespace deleted (R302): emptied, its bands free again. -/
def removeNs (s : State) (n : Namespace) : State :=
  let s := wipeNs n s
  let s := n.bands.foldl (fun s k => noteBand k (modBand k (fun r => { r with nsid := 0 }) s)) s
  noticeNs n.nsid (portsOf n) (forgetNs n.nsid { s with sub.namespaces := s.sub.namespaces.filter (fun x => x.nsid ≠ n.nsid) })

/-- NAMESPACE_DELETE: one namespace, or every one with 0xFFFFFFFF. -/
def execNamespaceDelete (a : AdminHdr) (nsid : Word32) (s : State) : Host.Outcome State Fault Refusal :=
  .next (nsCommand a 0x0D nsid.toNat 1 (fun s =>
    let l := s.sub.namespaces.filter (fun n => nsid = 0xFFFFFFFF || n.nsid = nsid.toNat)
    if l = [] then adminRefused a 0x0D nsid.toNat 1 .invalidNs s
    else if nsDenied s a.port l then adminRefused a 0x0D nsid.toNat 1 .reservationConflict s
    else progress (adminDone a .success 0 .none (l.foldl removeNs s))) s)

/-- A controller list names one or more controllers of the subsystem, each once (R503). -/
def ctrlListOk (s : State) (l : List Word16) : Bool := l ≠ [] && l.Nodup && l.all (fun c => (controllers s).contains c.toNat)

/-- A namespace attached to, or detached from, a controller. -/
def setAttached (n : Namespace) (p : PortId) (v : Bool) : Namespace := if p = 0 then { n with attached0 := v } else { n with attached1 := v }

/-- Namespace Attachment (R307, R503): attach or detach on the controllers listed. -/
def attachment (a : AdminHdr) (nsid : Nat) (l : List Word16) (attach : Bool) (s : State) : State :=
  let refuse (st : Status) : State := adminRefused a 0x15 nsid (if attach then 0 else 1) st s
  if !ctrlListOk s l then refuse .ctrlListInvalid
  else match shownNsAt s nsid with
    | none => refuse .invalidNs
    | some n =>
      let ports : List PortId := l.map (fun c => if c = 1 then 0 else 1)
      if nsDenied s a.port [n] then refuse .reservationConflict
      else if ports.any (fun p => n.attached p = attach) then refuse (if attach then .nsAttached else .nsNotAttached)
      else
        adminDone a .success 0 .none
          (noticeNs nsid ports (modNs nsid (fun n => ports.foldl (fun n p => setAttached n p attach) n) s))

/-- NAMESPACE_ATTACH. -/
def execNamespaceAttach (a : AdminHdr) (nsid : Word32) (ctrls : List Word16) (s : State) : Host.Outcome State Fault Refusal :=
  .next (adminExec a false (attachment a nsid.toNat ctrls true) s)

/-- NAMESPACE_DETACH. -/
def execNamespaceDetach (a : AdminHdr) (nsid : Word32) (ctrls : List Word16) (s : State) : Host.Outcome State Fault Refusal :=
  .next (adminExec a false (attachment a nsid.toNat ctrls false) s)

/-! ## Format and Sanitize -/

/-- FORMAT_NVM (R302; R125; R119; spec 08, R237): LBAF 0 and SES 0, on one namespace of this controller. -/
def execFormatNvm (a : AdminHdr) (nsid : Word32) (lbaf : BitVec 4) (ses : BitVec 3) (s : State) : Host.Outcome State Fault Refusal :=
  .next (nsCommand a 0x80 nsid.toNat (lbaf.toNat + 512 * ses.toNat) (fun s =>
    if lbaf ≠ 0 || ses ≠ 0 || nsid = 0xFFFFFFFF then adminRefused a 0x80 nsid.toNat (lbaf.toNat + 512 * ses.toNat) .invalidFormat s
    else match attachedNs s a.port nsid.toNat with
      | none => adminRefused a 0x80 nsid.toNat (lbaf.toNat + 512 * ses.toNat) .invalidNs s
      | some n =>
        if nsDenied s a.port [n] then adminRefused a 0x80 nsid.toNat (lbaf.toNat + 512 * ses.toNat) .reservationConflict s
        else progress (adminDone a .success 0 .none (noticeNs n.nsid (portsOf n) (wipeNs n s)))) s)

/-- A Sanitize before READY, or while one runs, is out of its place (spec 03, R96; NVMe Base 2.0 by R503). -/
def sanitizeCommand (a : AdminHdr) (cdw10 : Nat) (f : State → State) (s : State) : State :=
  adminExec a false (fun s =>
    if beforeReady s then adminRefused a 0x84 0 cdw10 .cmdSequence s
    else if s.sub.sanitize.running then adminRefused a 0x84 0 cdw10 .sanitizeInProgress s
    else f s) s

/-- SANITIZE_OVERWRITE (R302): Overwrite (SANACT 3) with OWPASS 1 to 4 begins; every other action but Exit Failure Mode is an invalid
field. -/
def execSanitizeOverwrite (a : AdminHdr) (owpass : BitVec 4) (pattern : Word32) (sanact : BitVec 3) (s : State) :
    Host.Outcome State Fault Refusal :=
  .next (sanitizeCommand a (sanact.toNat + 16 * owpass.toNat) (fun s =>
    if sanact ≠ 3 || owpass = 0 || 4 < owpass.toNat then adminRefused a 0x84 0 (sanact.toNat + 16 * owpass.toNat) .invalidField s
    else if nsDenied s a.port s.sub.namespaces then adminRefused a 0x84 0 (sanact.toNat + 16 * owpass.toNat) .reservationConflict s
    else
      let s := s.sub.namespaces.foldl (fun s n => endNsCommands n.nsid s) s
      progress (adminDone a .success 0 .none { s with sub.sanitize := ⟨true, false, owpass.toNat, pattern, 0⟩ })) s)

/-- SANITIZE_EXIT_FAILURE_MODE (R302). -/
def execSanitizeExitFailureMode (a : AdminHdr) (s : State) : Host.Outcome State Fault Refusal :=
  .next (sanitizeCommand a 1 (fun s => adminDone a .success 0 .none { s with sub.sanitize.failed := false }) s)

/-- The end of an Overwrite (R302): every zone Empty, no extent written, the cache and both vault regions purged. -/
def sanitized (s : State) : State :=
  let s := s.sub.namespaces.foldl (fun s n => wipeNs n s) s
  let s := { s with cache.lines := [], cache.side := [], cache.urgent := [], sub.deferred := [] }
  eraseRegion 1 (eraseRegion 0 s)

/-- SANITIZE_OVERWRITE_DONE: the last pass has ended, or the operation has failed. -/
def execSanitizeOverwriteDone (failed : Bool) (s : State) : Host.Outcome State Fault Refusal :=
  .next (ifResident s (fun s =>
    if !s.sub.sanitize.running then s
    else if failed then { s with sub.sanitize := { s.sub.sanitize with running := false, failed := true } }
    else progress (sanitized { s with sub.sanitize := { s.sub.sanitize with running := false, done := s.sub.sanitize.passes } })))

end Sys2Proof.Machine
end

