-- ==== Sys2Proof/Machine/Vendor.lean ====
section
/-! DEFINITION. The vendor admin commands (spec 10, R312, R313; spec 15, R457): Commit, Set Object and Get Object. -/

namespace Sys2Proof.Machine

/-- The completion of a vendor command: the abort code in dword 0 and, for Get Object, the whole length in dword 1 and data. -/
def vendorDone (a : AdminHdr) (code length : Nat) (d : CplData) (s : State) : State :=
  let st : Status := if code = 0 then .success else .dictAbort
  commitCompletion a.port
    { plainCompletion a.cid st with dw0 := BitVec.ofNat 32 code, dw1 := BitVec.ofNat 32 length, data := if code = 0 then d else .none } s

/-- A write whose answer may come later completes its command with it. -/
def vendorWrite (a : AdminHdr) (r : Option Nat × State) : State :=
  match r.1 with | none => r.2 | some code => vendorDone a code 0 .none r.2

/-- VENDOR_COMMIT (R457, R446): Commit with action 1 at its instant in the tick (spec 01, R22); it completes when the commit is
complete or refused. -/
def execVendorCommit (a : Timed AdminHdr) (s : State) : Host.Outcome State Fault Refusal :=
  .next (adminExec a.what false (fun s =>
    vendorWrite a.what (dictWrite (pathOf a.what.port) (.command a.what) 0x1020 1 [1] (atOffset a.atNs s))) s)

/-- VENDOR_DISCARD (R457, R449): Commit with action 2. -/
def execVendorDiscard (a : AdminHdr) (s : State) : Host.Outcome State Fault Refusal :=
  .next (adminExec a false (fun s => vendorWrite a (dictWrite (pathOf a.port) (.command a) 0x1020 1 [2] s)) s)

/-- INDEX, SUB and the SEGMENT bit of command dword 10 (Table 15.9). -/
def cdwIndex (v : Word32) : Nat := bitsOf v.toNat 0 16
def cdwSub (v : Word32) : Nat := bitsOf v.toNat 16 8
def cdwSegment (v : Word32) : Bool := v.getLsbD 26

/-- The dwords of Set Object or Get Object break Table 15.9: reserved bits, an OFFSET without SEGMENT, or a length out of its bounds
(DEDUCED, log 31: Invalid Field in Command). `flag` is the one of bits 24 and 25 that is reserved. -/
def cdwBad (v offset : Word32) (flag lo length : Nat) : Bool :=
  v.getLsbD flag || bitsOf v.toNat 27 5 ≠ 0 || (offset ≠ 0 && !cdwSegment v) || length < lo || 1048576 < length

/-- SET_OBJECT (R457). -/
def execSetObject (a : AdminHdr) (cdw10 offset : Word32) (data : List Byte) (s : State) : Host.Outcome State Fault Refusal :=
  .next (adminExec a false (fun s =>
    let p := pathOf a.port
    if cdwBad cdw10 offset 24 0 data.length then adminRefused a 0xC1 0 cdw10.toNat .invalidField s
    else if cdwSegment cdw10 then
      vendorWrite a (segmentWrite p (.command a) (cdwIndex cdw10) (cdwSub cdw10) offset.toNat (cdw10.getLsbD 25) data s)
    else vendorWrite a (dictWrite p (.command a) (cdwIndex cdw10) (cdwSub cdw10) data s)) s)

/-- GET_OBJECT (R457): the buffer beyond the value is written as zero. -/
def execGetObject (a : AdminHdr) (cdw10 offset length : Word32) (s : State) : Host.Outcome State Fault Refusal :=
  .next (adminExec a false (fun s =>
    let n := length.toNat
    if cdwBad cdw10 offset 25 1 n then adminRefused a 0xC2 0 cdw10.toNat .invalidField s
    else
      let r := dictRead (pathOf a.port) (cdwIndex cdw10) (cdwSub cdw10) (cdw10.getLsbD 24) (cdwSegment cdw10) offset.toNat n s
      vendorDone a r.1 r.2.2.1 (.bytes (r.2.1 ++ List.replicate (n - r.2.1.length) 0)) r.2.2.2) s)

end Sys2Proof.Machine
end

