-- ==== Sys2Proof/Machine/Plarik.lean ====
section
/-! DEFINITION. Plarik requests over the MCTP path and the mailboxes (spec 15, R450 to R456; spec 10, R315). -/

namespace Sys2Proof.Machine

/-! ## The request (Table 15.5) -/

/-- The fields of a request. -/
def reqOp (r : List Byte) : Nat := reqByte r 0
def reqStaged (r : List Byte) : Bool := bitOf (reqByte r 1) 3
def reqSegment (r : List Byte) : Bool := bitOf (reqByte r 1) 2
def reqLast (r : List Byte) : Bool := bitOf (reqByte r 1) 1
def reqLocal (r : List Byte) : Bool := bitOf (reqByte r 1) 0
def reqIndex (r : List Byte) : Nat := fieldU r 6 2
def reqSub (r : List Byte) : Nat := reqByte r 8
def reqOffset (r : List Byte) : Nat := fieldU r 12 4
def reqPayload (r : List Byte) : List Byte := r.drop 16

/-- A request is malformed (R452): shorter than its header or above 4,096 bytes (R451), LENGTH in disagreement, reserved bits set, or an
OFFSET without SEGMENT. -/
def malformed (r : List Byte) : Bool :=
  r.length < 16 || 4096 < r.length || fieldU r 10 2 ≠ r.length - 16 || 16 ≤ reqByte r 1 || reqByte r 9 ≠ 0
    || (reqOffset r ≠ 0 && !reqSegment r)

/-- The node test of R453, on bytes 1, 4 and 5, for a request over MCTP. -/
def addressed (s : State) (p : Path) (r : List Byte) : Bool :=
  p ≠ .mctp || reqLocal r || (6 ≤ r.length && fieldU r 4 2 = cfg s 0x1001 1)

/-! ## The objects in their order (NEXT) -/

/-- The rectangle of an object row that exists on the variant: first and last index, first and last subindex. -/
def objSpan (crx4 : Bool) (o : Obj) : Nat × Nat × Nat × Nat :=
  if !crx4 then (o.index0, o.index1, o.sub0, o.sub1)
  else match o.unit with
    | .none => (o.index0, o.index1, o.sub0, o.sub1)
    | .chan => (o.index0, o.index1, o.sub0, min 3 o.sub1)
    | .head => (o.index0, o.index1, o.sub0, min 15 o.sub1)
    | .reader => (o.index0, o.index1, o.sub0, min 31 o.sub1)
    | .chanIndex => (o.index0, o.index0 + 3, o.sub0, o.sub1)

/-- The first object of a row after a name. -/
def nextInSpan (x : Nat × Nat × Nat × Nat) (index sub : Nat) : Option (Nat × Nat) :=
  let (i0, i1, j0, j1) := x
  if j1 < j0 then none
  else if index < i0 then some (i0, j0)
  else if i1 < index then none
  else if sub < j0 then some (index, j0)
  else if sub < j1 then some (index, sub + 1)
  else if index < i1 then some (index + 1, j0)
  else none

/-- The lower of two names. -/
def lowerName (a : Option (Nat × Nat)) (b : Nat × Nat) : Option (Nat × Nat) :=
  match a with
  | none => some b
  | some x => if b.1 < x.1 || (b.1 = x.1 && b.2 < x.2) then some b else some x

/-- The next existing object after a name (Table 15.7): OEM objects exist once written (R443). -/
def nextObject (s : State) (index sub : Nat) : Option (Nat × Nat) :=
  let named := objects.filterMap (fun o => nextInSpan (objSpan s.power.crx4 o) index sub)
  let oem := (s.dict.values.filter (fun e => 0xF000 ≤ e.1.index && (index < e.1.index || (index = e.1.index && sub < e.1.sub)))).map
    (fun e => (e.1.index, e.1.sub))
  (named ++ oem).foldl lowerName none

/-! ## Operations (Table 15.7) -/

/-- The answer to a request: INDEX, SUB, ABORT, TOTAL and the payload. -/
structure PlarikAnswer where
  index   : Nat
  sub     : Nat
  abort   : Nat
  total   : Nat
  payload : List Byte
deriving DecidableEq, Repr

/-- An answer that names the request's object. -/
def plainAnswer (r : List Byte) (abort total : Nat) (payload : List Byte) : PlarikAnswer := ⟨reqIndex r, reqSub r, abort, total, payload⟩

/-- GET: value bytes from OFFSET, at most 4,076 (R445, R455). -/
def plarikRead (p : Path) (r : List Byte) (s : State) : Option PlarikAnswer × State :=
  let x := dictRead p (reqIndex r) (reqSub r) (reqStaged r) (reqSegment r) (reqOffset r) 4076 s
  (some (plainAnswer r x.1 x.2.2.1 x.2.1), x.2.2.2)

/-- An answer that may come later. -/
def laterAnswer (r : List Byte) (x : Option Nat × State) : Option PlarikAnswer × State :=
  (x.1.map (fun code => plainAnswer r code 0 []), x.2)

/-- SET: a whole value, or a segment (R454). -/
def plarikWrite (p : Path) (e : Byte) (r : List Byte) (s : State) : Option PlarikAnswer × State :=
  let w := Waiter.message p r e
  laterAnswer r (if reqSegment r then segmentWrite p w (reqIndex r) (reqSub r) (reqOffset r) (reqLast r) (reqPayload r) s
    else dictWrite p w (reqIndex r) (reqSub r) (reqPayload r) s)

/-- COMMIT: 1 commits and 2 discards; INDEX and SUB are ignored (R446, R449). -/
def plarikCommitOrDiscard (p : Path) (e : Byte) (r : List Byte) (s : State) : Option PlarikAnswer × State :=
  laterAnswer r (dictWrite p (.message p r e) 0x1020 1 (reqPayload r) s)

/-- DESCRIBE: type, access, persistence, flags and the maximum length. -/
def describe (o : Obj) (index sub : Nat) : List Byte :=
  leBytes 1 o.ty.code ++ leBytes 1 o.acc.code ++ leBytes 1 (b2n o.persistent) ++ leBytes 1 (b2n o.staged + 2 * b2n (destructive index sub))
    ++ leBytes 4 o.maxLength

/-- The DESCRIBE operation. -/
def plarikDescribe (r : List Byte) (s : State) : Option PlarikAnswer × State :=
  match lookupObj s (reqIndex r) (reqSub r) with
  | .error code => (some (plainAnswer r code 0 []), s)
  | .ok o => (some (plainAnswer r 0 0 (describe o (reqIndex r) (reqSub r))), s)

/-- The NEXT operation. -/
def plarikNext (r : List Byte) (s : State) : Option PlarikAnswer × State :=
  match nextObject s (reqIndex r) (reqSub r) with
  | none => (some (plainAnswer r 0xD0000001 0 []), s)
  | some x => (some ⟨x.1, x.2, 0, 0, []⟩, s)

/-- A request executed, by its OP; its answer is none while a commit runs for it. -/
def plarikRun (p : Path) (e : Byte) (r : List Byte) (s : State) : Option PlarikAnswer × State :=
  match reqOp r with
  | 1 => plarikRead p r s
  | 2 => plarikWrite p e r s
  | 3 => plarikCommitOrDiscard p e r s
  | 4 => plarikDescribe r s
  | _ => plarikNext r s

/-- What refuses a request before any busy answer (steps 3 to 6 of R440); 0 if nothing. -/
def plarikRefusal (p : Path) (r : List Byte) (s : State) : Nat :=
  let code (x : Except Nat Obj) : Nat := match x with | .error c => c | .ok _ => 0
  match reqOp r with
  | 1 => match lookupObj s (reqIndex r) (reqSub r) with | .error c => c | .ok o => readAccess (pathState s p).priv o
  | 2 => code (admitOwner s p (reqIndex r) (reqSub r) (reqPayload r = [2]))
  | 3 => code (admitOwner s p 0x1020 1 (reqPayload r = [2]))
  | 4 => code (lookupObj s (reqIndex r) (reqSub r))
  | _ => if (nextObject s (reqIndex r) (reqSub r)).isSome then 0 else 0xD0000001

/-- A request is answered busy (R456; spec 16, Table 16.6; spec 13, R400): its endpoint has one outstanding, or the dictionary is. -/
def plarikBusy (s : State) (p : Path) (e : Byte) : Bool := dictBusy s || (p = .mctp && s.mgmt.busy.contains e)

/-- An answer sent on its way; `before` is the state at the request, whose node number it carries. An answer to come keeps the endpoint
busy. -/
def plarikReply (p : Path) (e : Byte) (r : List Byte) (before : State) (x : Option PlarikAnswer × State) : State :=
  match x.1 with
  | some a => deliverTo p e (plarikResponse before r a.index a.sub a.abort a.total a.payload) x.2
  | none => if p = .mctp then { x.2 with mgmt.busy := x.2.mgmt.busy ++ [e] } else x.2

/-- A request answered with an abort code only. -/
def plarikRefuse (p : Path) (e : Byte) (r : List Byte) (code : Nat) (s : State) : State :=
  match p with
  | .mctp => { s with mgmt.sent := s.mgmt.sent ++ [plarikResponse s r (reqIndex r) (reqSub r) code 0 []] }
  | _ => deliverTo p e (plarikResponse s r (reqIndex r) (reqSub r) code 0 []) s

/-- A request received (R440, R450 to R456): not in BOOT or RECOVERY; without bytes 0 to 3, or for another node, it is discarded and
counted; else answered. -/
def plarikReceive (p : Path) (e : Byte) (r : List Byte) (s : State) : State :=
  if !dictServes s then s
  else if r.length < 4 || !addressed s p r then { s with mgmt.discards := s.mgmt.discards + 1 }
  else if malformed r then plarikRefuse p e r 0xD0000061 s
  else if reqOp r < 1 || 5 < reqOp r then plarikRefuse p e r 0xD0000060 s
  else if plarikBusy s p e then
    plarikRefuse p e r (if plarikRefusal p r s ≠ 0 then plarikRefusal p r s else 0xD0000050) s
  else plarikReply p e r s (plarikRun p e r { s with mgmt.requests := s.mgmt.requests + 1 })

/-! ## The mailbox (spec 10, R315) -/

/-- The port of a path. -/
def portOf : Path → PortId
  | .port1 => 1 | _ => 0
/-- A path through a port's mailbox. -/
def mailboxOf : Path → Option PortId
  | .port0 => some 0 | .port1 => some 1 | .mctp => none

/-- A request sent through the mailbox: GO is 1 until its response is presented. -/
def mailboxSend (p : PortId) (r : List Byte) (s : State) : State :=
  plarikReceive (pathOf p) 0 r
    (s.modPort p (fun q => { q with mbGo := true, mbLen := BitVec.ofNat 16 r.length, mbResp := none, mbWait := none }))

/-- A mailbox response is valid (Table 10.12): MAILBOX_DONE of the port and of MCTP_STATUS (log 36). -/
def mailboxDone (p : PortId) (s : State) : State :=
  let s := s.modPort p (setPortFlag .mailboxDone)
  refreshAlert { s with mgmt.status := s.mgmt.status ||| (1 <<< Flag.mailboxDone.bit) }

/-- A write into MB_REQUEST: the bytes beyond it stay; ignored while GO is 1. -/
def requestWrite (p : PortId) (l : List Byte) (s : State) : State :=
  s.modPort p (fun q => if q.mbGo then q else { q with mbReq := (l ++ q.mbReq.drop l.length).take 4096 })

/-- MB_DOORBELL_WRITE: ignored while GO is 1. GO sends LEN bytes of MB_REQUEST; a LEN outside 1 to 4,096 is answered at once with VALID and
length 0. `request` is what the host has written into MB_REQUEST before it, from its first byte on. -/
def execMbDoorbellWrite (p : PortId) (v : Word32) (request : List Byte) (s : State) : Host.Outcome State Fault Refusal :=
  let len := bitsOf v.toNat 0 16
  .next (if !s.live || (s.port p).mbGo then s
    else
    let s := requestWrite p request s
    if !v.getLsbD 31 then s.modPort p (fun q => { q with mbLen := BitVec.ofNat 16 len })
    else if len < 1 || 4096 < len then
      mailboxDone p (s.modPort p (fun q => { q with mbLen := BitVec.ofNat 16 len, mbResp := some [], mbWait := none }))
    else mailboxSend p (((s.port p).mbReq ++ List.replicate 4096 0).take len) s)

/-- MAILBOX_RESPONSE: the response is presented, GO clears. -/
def execMailboxResponse (p : PortId) (s : State) : Host.Outcome State Fault Refusal :=
  .next (ifLive s (fun s =>
    match (s.port p).mbWait with
    | none => s
    | some r => mailboxDone p (s.modPort p (fun q => { q with mbGo := false, mbResp := some r, mbWait := none }))))

/-! ## Rows -/

/-- The MCTP path is open: the dictionary answers, and a medium is enabled in MCTP_MEDIA (R458). -/
def mctpOpen (s : State) : Bool := dictServes s && bitsOf (cfg s 0x1100 3) 0 4 ≠ 0

/-- A request arrives over a path: through a mailbox that is free, or over MCTP. The row is that of its OP (log 3). -/
def plarikArrives (ofRow : List Byte → Bool) (p : Path) (r : PlarikReq) (s : State) : State :=
  if !s.live || !ofRow r.bytes then s
  else match mailboxOf p with
    | none => if mctpOpen s then plarikReceive p r.endpoint r.bytes s else s
    | some q => if (s.port q).mbGo then s else mailboxSend q r.bytes s

/-- PLARIK_GET. -/
def execPlarikGet (p : Path) (r : PlarikReq) (s : State) : Host.Outcome State Fault Refusal :=
  .next (plarikArrives (fun b => reqOp b = 1) p r s)
/-- PLARIK_SET. -/
def execPlarikSet (p : Path) (r : PlarikReq) (s : State) : Host.Outcome State Fault Refusal :=
  .next (plarikArrives (fun b => reqOp b = 2) p r s)
/-- PLARIK_COMMIT: the COMMIT operation but for action 2, at its instant in the tick (spec 01, R22). -/
def execPlarikCommit (p : Path) (r : Timed PlarikReq) (s : State) : Host.Outcome State Fault Refusal :=
  let ofRow (b : List Byte) : Bool := reqOp b = 3 && reqPayload b ≠ [2]
  .next (if s.live && ofRow r.what.bytes then plarikArrives ofRow p r.what (atOffset r.atNs s) else s)
/-- PLARIK_DISCARD: the COMMIT operation with action 2. -/
def execPlarikDiscard (p : Path) (r : PlarikReq) (s : State) : Host.Outcome State Fault Refusal :=
  .next (plarikArrives (fun b => reqOp b = 3 && reqPayload b = [2]) p r s)
/-- PLARIK_DESCRIBE. -/
def execPlarikDescribe (p : Path) (r : PlarikReq) (s : State) : Host.Outcome State Fault Refusal :=
  .next (plarikArrives (fun b => reqOp b = 4) p r s)
/-- PLARIK_NEXT. -/
def execPlarikNext (p : Path) (r : PlarikReq) (s : State) : Host.Outcome State Fault Refusal :=
  .next (plarikArrives (fun b => reqOp b = 5) p r s)
/-- PLARIK_UNKNOWN_OP. -/
def execPlarikUnknownOp (p : Path) (r : PlarikReq) (s : State) : Host.Outcome State Fault Refusal :=
  .next (plarikArrives (fun b => reqOp b < 1 || 5 < reqOp b) p r s)

end Sys2Proof.Machine
end

