-- ==== Sys2Proof/Machine/Mctp.lean ====
section
/-! DEFINITION. MCTP control messages and NVMe-MI (spec 15, R458, R459). The manual names what is supported; the bytes of the answers are
those of the MCTP Base Specification and of NVMe-MI 1.2, without their message headers (PRESUMED, log 37). -/

namespace Sys2Proof.Machine

/-- An answer sent on the MCTP path. -/
def mctpSend (bytes : List Byte) (s : State) : State := { s with mgmt.sent := s.mgmt.sent ++ [bytes] }

/-- An effect of a message on the MCTP path, if the path is open. -/
def onMctp (f : State → State) (s : State) : State := if mctpOpen s then f s else s

/-- A control answer: command code, completion code, data. -/
def controlAnswer (code cc : Nat) (data : List Byte) (s : State) : State := mctpSend (leBytes 1 code ++ leBytes 1 cc ++ data) s

/-! ## MCTP control (Table 15.10) -/

/-- MCTP_MESSAGE_DISCARD (R451, R458): a message of an unsupported type, or one with IC set that must not have it, is counted. NVMe-MI
messages (type 0x04) may have IC set. -/
def execMctpMessageDiscard (msgType : BitVec 7) (ic : Bool) (s : State) : Host.Outcome State Fault Refusal :=
  .next (onMctp (fun s =>
    if (msgType ≠ 0 && msgType ≠ 4 && msgType ≠ 0x7E) || (ic && msgType ≠ 4) then { s with mgmt.drops := s.mgmt.drops + 1 } else s) s)

/-- SET_ENDPOINT_ID: MCTP_EID; 0x00 and 0xFF are no endpoint identifiers. -/
def execSetEndpointId (eid : Byte) (s : State) : Host.Outcome State Fault Refusal :=
  .next (onMctp (fun s =>
    if eid = 0 || eid = 0xFF then controlAnswer 0x01 0x02 [] s
    else controlAnswer 0x01 0x00 [0, eid, 0] { s with mgmt.eid := eid }) s)

/-- GET_ENDPOINT_ID: a simple endpoint with a dynamic identifier. -/
def execGetEndpointId (s : State) : Host.Outcome State Fault Refusal :=
  .next (onMctp (fun s => controlAnswer 0x02 0x00 [s.mgmt.eid, 0, 0] s) s)

/-- GET_ENDPOINT_UUID. -/
def execGetEndpointUuid (s : State) : Host.Outcome State Fault Refusal :=
  .next (onMctp (controlAnswer 0x03 0x00 (leBytes 16 Config.endpointUuid.toNat)) s)

/-- GET_MCTP_VERSION_SUPPORT: base and control 1.3, NVMe-MI 1.2, Plarik; no other type. -/
def execGetMctpVersionSupport (msgType : Byte) (s : State) : Host.Outcome State Fault Refusal :=
  let v : Option (List Byte) :=
    if msgType = 0xFF || msgType = 0x00 then some [0xF1, 0xF3, 0xFF, 0x00]
    else if msgType = 0x04 then some [0xF1, 0xF2, 0xFF, 0x00]
    else if msgType = 0x7E then some (leBytes 4 Config.plarikVersion.toNat)
    else none
  .next (onMctp (match v with | none => controlAnswer 0x04 0x80 [] | some v => controlAnswer 0x04 0x00 (1 :: v)) s)

/-- GET_MESSAGE_TYPE_SUPPORT: NVMe-MI and Plarik, beside control. -/
def execGetMessageTypeSupport (s : State) : Host.Outcome State Fault Refusal :=
  .next (onMctp (controlAnswer 0x05 0x00 [2, 0x04, 0x7E]) s)

/-- GET_VENDOR_DEFINED_MSG_SUPPORT: one set, of Eznedy's PCI vendor identifier (R451). -/
def execGetVendorDefinedMsgSupport (selector : Byte) (s : State) : Host.Outcome State Fault Refusal :=
  .next (onMctp (if selector = 0 then
      controlAnswer 0x06 0x00 ([0xFF, 0] ++ (leBytes 2 Config.pciVendorId.toNat).reverse ++ [0, 0])
    else controlAnswer 0x06 0x02 []) s)

/-! ## NVMe-MI commands (Table 15.10) -/

/-- An NVMe-MI answer: status, three response bytes, data. -/
def miAnswer (status : Nat) (mgmt data : List Byte) (s : State) : State := mctpSend (leBytes 1 status ++ (mgmt ++ [0, 0, 0]).take 3 ++ data) s

/-- The ports of NVMe-MI: the PCIe ports 0 and 1, SMBus 2, I3C 3. -/
def miPcie (s : State) (port : Nat) : Bool := port = 0 || (port = 1 && !s.power.straps.portMode)

/-- SMBus target address (spec 02, R66). -/
def smbusAddr (s : State) : Nat := 0x1D + b2n s.power.straps.addrSel0 + 2 * b2n s.power.straps.addrSel1

/-- Port Information of NVMe-MI, for a port that exists. -/
def miPortInfo (s : State) (port : Nat) : Option (List Byte) :=
  if miPcie s port then
    let l := (s.port (Fin.ofNat 2 port)).link
    some (page 32 [(0, leBytes 1 1), (2, leBytes 2 256), (9, leBytes 1 0x1F), (10, leBytes 1 (l.elim 0 (·.1))),
      (11, leBytes 1 (if s.power.straps.portMode then 4 else 2)), (12, leBytes 1 (l.elim 0 (·.2))), (13, leBytes 1 port)])
  else if port = 2 then some (page 32 [(0, leBytes 1 2), (2, leBytes 2 64), (10, leBytes 1 (smbusAddr s)), (11, leBytes 1 2)])
  else if port = 3 then some (page 32 [(0, leBytes 1 2), (2, leBytes 2 256)])
  else none

/-- READ_NVME_MI_DATA_STRUCTURE: subsystem, port, controller list, controller, optional commands. -/
def execReadNvmeMiDataStructure (dtyp : Byte) (portId : Byte) (ctrlId : Word16) (s : State) : Host.Outcome State Fault Refusal :=
  let n := (controllers s).length
  let data : Option (List Byte) :=
    if dtyp = 0 then some (page 32 [(0, leBytes 1 (n + 1)), (1, leBytes 1 1), (2, leBytes 1 2)])
    else if dtyp = 1 then miPortInfo s portId.toNat
    else if dtyp = 2 then
      let l := (controllers s).filter (fun c => ctrlId.toNat ≤ c)
      some (leBytes 2 l.length ++ (l.map (leBytes 2)).flatten)
    else if dtyp = 3 then
      if (controllers s).contains ctrlId.toNat then
        some (page 32 [(0, leBytes 1 (ctrlId.toNat - 1)), (8, leBytes 2 Config.pciVendorId.toNat), (12, leBytes 2 (leNat (inForce s 0x2000 1))),
          (14, leBytes 2 (leNat (inForce s 0x2000 2)))])
      else none
    else if dtyp = 4 then some (leBytes 2 0)
    else none
  .next (onMctp (match data with | none => miAnswer 0x04 [] [] | some d => miAnswer 0x00 (leBytes 2 d.length) d) s)

/-- The conditions behind the Health Status Change flags: ready, fatal, shutdown, temperature, use, spare, critical warning. -/
def healthNow (s : State) : Word16 :=
  let any (f : PortId → Bool) : Nat := b2n (allPorts.any f)
  BitVec.ofNat 16 (any (fun p => (s.port p).rdy) + 2 * any (fun p => (s.port p).cfs) + 4 * any (fun p => (s.port p).shst ≠ 0)
    + 512 * b2n (limitKelvin s (hdaRef s) 0 ≤ compositeTemp s) + 1024 * b2n (100 ≤ percentUsed s) + 2048 * b2n (availableSpare s < 10)
    + 4096 * any (fun p => criticalWarning s p ≠ 0))

/-- The change flags reported: conditions not cleared since they began. -/
def healthFlags (s : State) : Word16 := healthNow s &&& ~~~s.mgmt.healthChange

/-- Change flags cleared; a condition that has ended is no longer cleared. -/
def clearHealth (mask : Word16) (s : State) : State := { s with mgmt.healthChange := (s.mgmt.healthChange ||| mask) &&& healthNow s }

/-- NVM_SUBSYSTEM_HEALTH_POLL: status, inverted warnings, composite temperature in degrees, Percentage Used, change flags. -/
def execNvmSubsystemHealthPoll (clear : Bool) (s : State) : Host.Outcome State Fault Refusal :=
  .next (onMctp (fun s =>
    let up (p : PortId) : Nat := b2n (s.port p).link.isSome
    let warn := allPorts.foldl (fun w p => w ||| criticalWarning s p) 0
    let d := leBytes 1 (0x30 + 8 * up 0 + 4 * up 1) ++ [~~~warn] ++ leBytes 1 (min 126 (compositeTemp s - 273)) ++ leBytes 1 (percentUsed s)
      ++ leBytes 2 (healthFlags s).toNat ++ [0, 0]
    clearHealth (if clear then 0xFFFF else 0) (miAnswer 0x00 [] d s)) s)

/-- The health of a controller: its identifier, status, temperature, use, spare and warnings. -/
def controllerHealth (s : State) (p : PortId) : List Byte :=
  let q := s.port p
  leBytes 2 (cntlid p) ++ leBytes 2 (b2n q.rdy + 2 * b2n q.cfs + 4 * q.shst.toNat + 32 * b2n q.pp) ++ leBytes 2 (compositeTemp s)
    ++ leBytes 1 (percentUsed s) ++ leBytes 1 (availableSpare s) ++ leBytes 1 (criticalWarning s p).toNat ++ List.replicate 7 0

/-- CONTROLLER_HEALTH_POLL: from a controller identifier on, at most a number of entries. -/
def execControllerHealthPoll (start : Word16) (maxEntries : Byte) (clear : Bool) (s : State) : Host.Outcome State Fault Refusal :=
  .next (onMctp (fun s =>
    let l := (allPorts.filter (fun p => (controllers s).contains (cntlid p) && start.toNat ≤ cntlid p)).take maxEntries.toNat
    clearHealth (if clear then 0xFFFF else 0) (miAnswer 0x00 [0, 0, BitVec.ofNat 8 l.length] (l.map (controllerHealth s)).flatten s)) s)

/-- MI_CONFIGURATION_SET (Table 15.10): SMBus at 100 or 400 kHz; change flags cleared; transmission units of 64 bytes, up to 256 on PCIe and
I3C. -/
def execMiConfigurationSet (c : MiConfig) (port : Byte) (v : Word16) (s : State) : Host.Outcome State Fault Refusal :=
  let n := port.toNat
  .next (onMctp (fun s =>
    match c with
    | .smbusFrequency =>
      if n = 2 && (v = 1 || v = 2) then miAnswer 0x00 [] [] { s with mgmt.smbusFreq := v.toNat } else miAnswer 0x04 [] [] s
    | .healthStatusChange => miAnswer 0x00 [] [] (clearHealth v s)
    | .transmissionUnit =>
      if n = 2 && v = 64 then miAnswer 0x00 [] [] s
      else if (miPcie s n || n = 3) && 64 ≤ v.toNat && v.toNat ≤ 256 then miAnswer 0x00 [] [] { s with mgmt.tu := v.toNat }
      else miAnswer 0x04 [] [] s
    | .other _ => miAnswer 0x04 [] [] s) s)

/-- MI_CONFIGURATION_GET. -/
def execMiConfigurationGet (c : MiConfig) (port : Byte) (s : State) : Host.Outcome State Fault Refusal :=
  let n := port.toNat
  .next (onMctp (fun s =>
    match c with
    | .smbusFrequency => if n = 2 then miAnswer 0x00 (leBytes 1 s.mgmt.smbusFreq) [] s else miAnswer 0x04 [] [] s
    | .healthStatusChange => miAnswer 0x00 [] [] s
    | .transmissionUnit =>
      if n = 2 then miAnswer 0x00 (leBytes 2 64) [] s
      else if miPcie s n || n = 3 then miAnswer 0x00 (leBytes 2 s.mgmt.tu) [] s else miAnswer 0x04 [] [] s
    | .other _ => miAnswer 0x04 [] [] s) s)

/-! ## Tunnelled admin commands (Table 15.10) -/

/-- The answer to a tunnelled command: completion dwords 0 and 1, the status, then the data. -/
def tunnelAnswer (r : Except Status (Nat × CplData)) (s : State) : State :=
  let st : Status := match r with | .error st => st | .ok _ => .success
  let dw0 : Nat := match r with | .error _ => 0 | .ok x => x.1
  let data : List Byte := match r with | .ok (_, .bytes v) => v | _ => []
  miAnswer 0x00 [] (leBytes 4 dw0 ++ leBytes 4 0 ++ leBytes 4 (st.word * 131072) ++ data) s

/-- A tunnelled command executed on the controller of port `p`. A log page is read whole, with RAE 1. -/
def tunnelRun (p : PortId) (t : Tunnel) (s : State) : State :=
  match t with
  | .identify cns nsid => tunnelAnswer ((identifyData s p cns.toNat nsid.toNat 0 0).map (fun v => (0, .bytes v))) s
  | .getLogPage lid nsid =>
    let r := logPage s p lid.toNat
    match r.1 with
    | none => tunnelAnswer (.error .invalidLogPage) s
    | some v =>
      match logStatus lid.toNat nsid.toNat 0 0 v.length with
      | some st => tunnelAnswer (.error st) s
      | none => tunnelAnswer (.ok (0, .bytes v)) r.2
  | .getFeatures fid nsid cdw11 => tunnelAnswer (featureValue s p fid.toNat nsid.toNat cdw11.toNat) s
  | .other _ => tunnelAnswer (.error .invalidOpcode) s

/-- MI_ADMIN_TUNNEL: Identify, Get Log Page and Get Features on the controller that CNTLID names; any other opcode completes with Invalid
Command Opcode. -/
def execMiAdminTunnel (ctl : Word16) (t : Tunnel) (s : State) : Host.Outcome State Fault Refusal :=
  .next (onMctp (fun s =>
    if (controllers s).contains ctl.toNat then tunnelRun (if ctl = 1 then 0 else 1) t s else miAnswer 0x04 [] [] s) s)

/-! ## SMBus and I3C -/

/-- SMBUS_ALERT_RESPONSE (R459): while ALERT_N is low the controller answers with its own target address. -/
def execSmbusAlertResponse (s : State) : Host.Outcome State Fault Refusal :=
  .next (if dictServes s && bitOf (cfg s 0x1100 3) 0 && s.power.alertLow then
      { s with mgmt.alertAnswers := s.mgmt.alertAnswers ++ [BitVec.ofNat 8 (smbusAddr s)] }
    else s)

/-- I3C_ADDRESS_ASSIGNMENT (R458, Table 15.10): ENTDAA, or SETDASA to I3C_STATIC unless it is 0. -/
def execI3cAddressAssignment (a : I3cAssign) (s : State) : Host.Outcome State Fault Refusal :=
  .next (if dictServes s && bitOf (cfg s 0x1100 3) 1 then
      match a with
      | .entdaa x => { s with mgmt.i3cAddr := some x }
      | .setdasa st x => if cfg s 0x1100 4 ≠ 0 && st.toNat = cfg s 0x1100 4 then { s with mgmt.i3cAddr := some x } else s
    else s)

end Sys2Proof.Machine
end

