-- ==== Sys2Proof/Machine/Ticking.lean ====
section
/-! DEFINITION. The tick boundary (spec 01, R22 to R36, R39) with everything that takes effect at it, Sheepdog's pass (spec 11, R333 to
R335), and a pass that came too late. -/

namespace Sys2Proof.Machine

/-! ## The boundary itself (R30 to R36) -/

/-- The spacing of the coming tick and the accumulator after it (R30): the revolution divided by W, its remainder carried in 32
fractional bits. -/
def spacing (s : State) : Nat × Nat :=
  let w := max 1 (wedges s)
  let acc := s.tick.acc + s.tick.revNs % w * 2 ^ 32 / w
  (s.tick.revNs / w + acc / 2 ^ 32, acc % 2 ^ 32)

/-- The clock and the tick number at the next boundary: a snap (R36), a boundary reckoned from the edge in ACQUIRE (R36), or one
spacing on (R30, R35). -/
def advanceTick (s : State) : State :=
  let w := max 1 (wedges s)
  let j := (s.tick.number + 1) % w
  match s.tick.snapDelay, s.tick.snapEdge with
  | some d, _ => { s with clock.ns := s.clock.ns + d, tick.snapDelay := none, tick.number := 0, tick.acc := 0 }
  | none, some e =>
    let e := if j = 0 then e + s.tick.revNs else e
    let at_ := max (e + (j * s.tick.revNs / w : Nat)) ((s.clock.ns + halfTick s : Nat) : Int)
    { s with clock.ns := at_.toNat, tick.number := j, tick.snapEdge := some e }
  | none, none => { s with clock.ns := s.clock.ns + (spacing s).1, tick.acc := (spacing s).2, tick.number := j }

/-- The tick counter counts the boundary (R32); what the tick left free on the drive links was filled with IDLE frames (spec 02,
R53). -/
def issueBoundary (s : State) : State :=
  let t := advanceTick s
  let fill := Link.fillIdle (t.clock.ns - s.clock.ns)
  ({ t with tick.counter := t.tick.counter + 1, clock.sub := 0 }.modLink 0 fill).modLink 1 fill

/-! ## A change of state of the generator (R33, R47) -/

/-- The tick leaves LOCKED and SUBSTITUTE: on-track is withdrawn everywhere, and sectors being written are aborted as a pause
(R19; spec 08, R235), and calibration runs stop (spec 09, R275). -/
def dropWrites (s : State) : State :=
  stopRuns (gateCheckAll false (allChans.foldl (fun s n => s.modSdm n (fun x => { x with onTrack := false })) s))

/-- HOLDOVER (R46; spec 07, R221; spec 13, R399): ticks continue at the last measured period; reads and ladders go back to their bins;
with the index lost for 10 s the drive restarts. -/
def enterHoldover (s : State) : State :=
  let s := allChans.foldl (fun s n => stopLadders (fun _ => true) true n (stopRead n s)) s
  let s := { s with tick.revNs := s.tick.lastRev.getD s.tick.revNs }
  if s.tick.lost10s then driveRestart s else s

/-- STOPPED: ticks at the nominal period of the set speed (Table 1.6), nothing measured. -/
def enterStopped (s : State) : State :=
  let s := allChans.foldl (fun s n => stopLadders (fun _ => true) true n (stopRead n s)) s
  { s with tick.revNs := nominalRev s, tick.goodRevs := 0, tick.lastEdge := none, tick.indexLost := false, tick.readsHeld := false }

/-- What the entry to a state brings with it. -/
def enterTick (t : TickState) (s : State) : State :=
  match t with
  | .locked => onLocked s
  | .holdover => enterHoldover s
  | .stopped => enterStopped s
  | .acquire | .substitute => s

/-- A waiting change of state takes effect at the boundary with its record and its flag (R33, R47). -/
def changeTick (s : State) : State :=
  match s.tick.next with
  | none => s
  | some t =>
    let old := s.tick.state
    let wrote := tickWrites s
    let s := { s with tick.state := t, tick.next := none, tick.snapEdge := if t = .acquire then s.tick.snapEdge else none }
    let s := raise (event 0x0010 1 srcController (old.code + t.code * 256) s.tick.counter.toNat) s
    let s := if (old = .locked) ≠ (t = .locked) then setFlag .tickChange s else s
    let s := if wrote && !tickWrites s then dropWrites s else s
    enterTick t s

/-! ## Caps, tokens and LOAD_CMD -/

/-- The admission tokens of the coming tick (R28; spec 11, R324): the rate times the tick period, the remainder carried on. DESIGN CHOICE,
log 44: the tick period of the conversion is the revolution divided by W rounded down to whole ns. -/
def grantTokens (s : State) : State :=
  match admitRate s s.env.stepNow with
  | none => { s with tick.tokens := none, tick.tokenAcc := 0 }
  | some r =>
    let a := s.tick.tokenAcc + r * tickNs s
    { s with tick.tokens := some (a / 1000000000), tick.tokenAcc := a % 1000000000 }

/-- A loading actuator before its first SAM is sent LOAD_CMD at every boundary (spec 06, R169). -/
def sendLoadCmd (s : State) (n : ChanId) : State :=
  if (s.chan n).load ≠ .beforeSam then s
  else
    let v := clampSym (vcmLimit s n) (loadCmd s n)
    sendFrame (linkOf n) (.cmd (slotOf n) 0 (BitVec.ofInt 16 v)) (s.modCe n (fun c => { c with lastVcm := v, lastMa := 0 }))

/-! ## Sheepdog's pass (spec 11, R333 to R335) -/

/-- An operation writes to media. -/
def OpKind.writes : OpKind → Bool
  | .destage | .hostWrite _ | .repair | .calibration true => true
  | .demandRead _ | .calibration false | .verify => false

/-- A write operation from its first sector still due. -/
def fromDue (s : State) (o : MediaOp) : MediaOp := if o.kind.writes then o.rest ((nextDue s o 0).getD 0) else o

/-- The servo track nearest a position. -/
def servoNear (p : Int) : Int := (p + 256) / 512

/-- The distance from the actuator's place to an operation, in servo tracks, with the TRACK_OFFSETs of the two heads. -/
def seekDistance (s : State) (n : ChanId) (o : MediaOp) : Nat :=
  ((servoTrackOf s o.band o.offset : Int) + trackOffset s o.band.head - servoNear (s.sdm n).pos - trackOffset s (s.sdm n).head).natAbs

/-- Linear interpolation in SEEK_TIME from `p`, rounded up; beyond the last point its value. -/
def seekTime (x : Nat) : Nat × Nat → List (Nat × Nat) → Nat
  | p, [] => p.2
  | p, q :: r =>
    if x ≤ q.1 then p.2 + ((((q.2 : Int) - p.2) * ((x : Int) - p.1) + (max 1 (q.1 - p.1) : Nat) - 1) / (max 1 (q.1 - p.1) : Nat)).toNat
    else seekTime x q r

/-- The reach of an operation, in wedges. -/
def reach (s : State) (n : ChanId) (o : MediaOp) : Nat :=
  let points := (records (valueOf s 0x2101 n.val) 8).map (fun r => (fieldU r 0 4, fieldU r 4 2))
  seekTime (seekDistance s n o) (0, 0) points + cfg s 0x2100 2 + (if o.band.head = (s.sdm n).head then 0 else cfg s 0x2100 3)

/-- The ticks from k_f, the tick `later` ticks on, until the bin of an operation passes; none while the actuator has no κ. -/
def ticksTo (s : State) (n : ChanId) (later : Nat) (o : MediaOp) : Option Nat :=
  (s.sdm n).kappaPub.map (fun k =>
    let w := max 1 (wedges s)
    (binOf s o.band o.offset + k + 2 * w - s.tick.number - later) % w)

/-- A shingled write may be placed (spec 08, R237; spec 12, R378): on the frontier track, and on a band with a SHADOW line or while
the SHADOW lines number fewer than SHADOW_LIMIT; a repair always (R239). -/
def shingleOpen (s : State) (o : MediaOp) : Bool :=
  !(bandRec s o.band).shingled || o.kind = .repair || (trackPermitted s o ((fromDue s o).offset) &&
    (countLines s .shadow < cfg s 0x2300 4 * 256 || s.cache.lines.any (fun l => l.state = .shadow && bandOf s l = some o.band)))

/-- R327, R329 and R332 let a host write go to media. -/
def turnOf (s : State) (o : MediaOp) : Bool :=
  match o.kind with
  | .hostWrite id => match ctxOf s id with
    | none => false
    | some c => !earlierWrite s c && !earlierRead s c && !zoneActionBefore s c
  | _ => true

/-- A background calibration comes within CAL_DUTY (spec 09, R274). -/
def dutyOpen (s : State) (o : MediaOp) : Bool :=
  calPriority s o ≠ some .background || (let n := chanOf o.band.head; dutyAllows s o (reach s n o + (ticksTo s n 0 o).getD 0))

/-- An operation is eligible (R333), its band not held for a rebuild (spec 13, R401), its head in service, and the tick and the write
window in a state that lets it run (Table 1.6; spec 09, R265); a background calibration within CAL_DUTY (spec 09, R274). -/
def eligible (s : State) (o : MediaOp) : Bool :=
  headServes s o.band.head && !(bandRec s o.band).held && turnOf s o && dutyOpen s o &&
    (if o.kind.writes then tickWrites s && windowOpen s && !headReadOnly s o.band.head && shingleOpen s o else tickReads s)

/-- A calibration run that comes before every host command but the aged ones (spec 09, R274). -/
def calFirst (s : State) (o : MediaOp) : Bool := calPriority s o = some .urgent || calPriority s o = some .startUp

/-- A destage of a block that is destaged with priority (R335). -/
def isUrgent (s : State) (o : MediaOp) : Bool :=
  o.kind = .destage && s.cache.urgent.any (fun b => match locateBlock s b with
    | none => false
    | some (k, off) => k = o.band && o.offset ≤ off && off < o.offset + o.count)

/-- One candidate of the loop of R333 comes before another: by `d`, by seek distance, by age. -/
def earlierCand (a b : MediaOp × Nat × Nat) : Bool :=
  a.2.1 < b.2.1 || (a.2.1 = b.2.1 && (a.2.2 < b.2.2 || (a.2.2 = b.2.2 && (a.1.created < b.1.created || (a.1.created = b.1.created && a.1.id < b.1.id)))))

/-- The first of some candidates. -/
def bestCand (l : List (MediaOp × Nat × Nat)) : Option MediaOp :=
  (l.foldl (fun a c => match a with | none => some c | some b => if earlierCand c b then some c else some b) none).map (·.1)

/-- The candidates of an actuator that the loop reaches: eligible, with a reach no longer than their `d`. -/
def candidates (s : State) (n : ChanId) (later : Nat) (l : List MediaOp) : List (MediaOp × Nat × Nat) :=
  l.filterMap (fun o =>
    let q := fromDue s o
    (ticksTo s n later q).bind (fun d => if reach s n q ≤ d then some (o, d, seekDistance s n q) else none))

/-- The oldest operation of a list. -/
def oldestOp (l : List MediaOp) : Option MediaOp :=
  l.foldl (fun a o => match a with
    | none => some o
    | some b => if o.created < b.created || (o.created = b.created && o.id < b.id) then some o else some b) none

/-- The choice of a pass for one actuator that is free `later` ticks on (R333, R335; spec 09, R274), and whether age forced it: the oldest of
those past AGE_LIMIT, else an urgent calibration, else a destage with priority, else the first that comes under the head. One that is not
eligible is not forced by its age (DEDUCED, log 45: it would break R327 or R237). Before READY only calibrations are placed (spec 03,
R91). -/
def choosePlacement (s : State) (n : ChanId) (later : Nat) : Option (MediaOp × Bool) :=
  let l := (queuedOn s n).filter (fun o => eligible s o && (s.power.phase = .ready || isCalOp o))
  match oldestOp (l.filter (isAged s)) with
  | some o => some (o, true)
  | none =>
    let c := candidates s n later l
    (((bestCand (c.filter (fun x => calFirst s x.1))).or (bestCand (c.filter (fun x => isUrgent s x.1)))).or (bestCand c)).map (fun o => (o, false))

/-- An actuator is free (R219, R333). -/
def actuatorFree (s : State) (n : ChanId) : Bool :=
  chanServes s n && (s.chan n).load = .loaded && s.sched.placed[n].isNone && (s.rwc n).op.isNone && (s.wr n).run.isNone
    && !(s.rwc n).heldByLadder && !ramping s n

/-- Writes with nothing left to put on media are no longer queued (R329). -/
def pruneQueue (s : State) : State :=
  { s with sched.queue := s.sched.queue.filter (fun o => !o.kind.writes || (nextDue s o 0).isSome) }

/-- An operation passed to MSQ (R334): a write run, or a media read. -/
def place (n : ChanId) (o : MediaOp) (forced : Bool) (s : State) : State :=
  let op := fromDue s o
  let s := { s with
    sched.queue := s.sched.queue.filter (fun x => x.id ≠ o.id || x.offset ≠ o.offset)
    sched.placed := s.sched.placed.set n (some op)
    sched.placedCount := upd s.sched.placedCount n (· + 1)
    sched.aged := if forced then upd s.sched.aged n (· + 1) else s.sched.aged
    sched.fresh := s.sched.fresh ++ [(n, forced)] }
  let s := noteDuty n s
  if op.kind.writes then startRun n op (s.modWr n (fun w => { w with fixed := (runOf s op).map (levelOf s) }))
  else modeFrame n 10 (s.modRwc n (fun r => { r with op := some op, nextSector := 0, stopRead := false }))

/-- The last piece of a sector lies in the window that the head of channel `n` is in, on its track. -/
def endsNow (s : State) (n : ChanId) (k : BandKey) (off : Nat) : Bool :=
  match sectorPlace s k off with
  | none => false
  | some (_, d, sec, z) => onSector s n k off && (sectorWindows z (wedges s) d sec).getLast? = some (windowNow s n)

/-- The actuator becomes free at the next tick: the last sector of its operation ends in this window, and no ladder holds it. -/
def freesNext (s : State) (n : ChanId) : Bool :=
  chanServes s n && (s.chan n).load = .loaded && !(s.rwc n).heldByLadder && !ramping s n
    && (match (s.rwc n).op, (s.wr n).run with
      | some o, _ => (s.rwc n).nextSector + 1 = o.count && endsNow s n o.band (o.offset + (s.rwc n).nextSector)
      | none, some r => (s.wr n).request && r.next + 1 = r.op.count && endsNow s n r.op.band r.offset
      | none, none => false)

/-- The operation that the last pass chose for an actuator, if it is still queued and eligible. -/
def plannedOp (s : State) (n : ChanId) : Option (MediaOp × Bool) :=
  s.sched.ahead[n].bind (fun x => ((queuedOn s n).find? (fun o => o.id = x.1 && eligible s o)).map (fun o => (o, x.2)))

/-- Sheepdog's decision for one actuator (R333): one that is free takes the operation chosen for it by the pass before, else one chosen now;
for one that becomes free at the next tick the choice is made now. How far ahead a tick can be predicted the rule does not say: one tick
(DESIGN CHOICE, log 45). -/
def passFor (s : State) (n : ChanId) : State :=
  let plan := plannedOp s n
  let s := { s with sched.ahead := s.sched.ahead.set n none }
  if actuatorFree s n then
    match plan.or (choosePlacement s n 0) with
    | none => s
    | some (o, forced) => place n o forced s
  else if freesNext s n then
    { s with sched.ahead := s.sched.ahead.set n ((choosePlacement s n 1).map (fun x => (x.1.id, x.2))) }
  else s

/-- Sheepdog places nothing: while the firmware is activated (spec 16, R476), the data plane restarts (spec 13, R400), the set speed
is to change (spec 01, R40), or before READY but for CALIBRATE (spec 03, R91). -/
def placementStopped (s : State) : Bool :=
  s.fw.activation ≠ .none || s.faults.dataDown || s.power.speedChange ≠ .none || s.power.restarting || (s.power.phase ≠ .ready && s.power.phase ≠ .calibrate)

/-- Blocks no longer DIRTY need no priority. -/
def pruneUrgent (s : State) : State :=
  { s with cache.urgent := s.cache.urgent.filter (fun b => (visibleLine s b).any (fun l => l.state = .dirty)) }

/-- Pass `k` of Sheepdog (R333). -/
def sheepdogPass (s : State) : State :=
  let s := { s with sched.passLateNow := false, sched.fresh := [] }
  if placementStopped s then s else allChans.foldl passFor (pruneQueue (pruneUrgent (calSteps s)))

/-! ## TICK_BOUNDARY -/

/-- The servo part of a boundary: the change of state, the commit's swap, the calibration's, the caps (R23, R25, R27, R33). -/
def boundaryServo (s : State) : State :=
  let s := publishCaps (calSwapTick (commitSwap (changeTick s)))
  idleChannelsTake (allChans.foldl sendLoadCmd s)

/-- The records and κ published (spec 05, R147, R151). -/
def boundaryRecords (s : State) : State :=
  allChans.foldl (fun s n => publishRecords n (s.modSdm n (fun x => { x with kappaPub := x.kappa.or x.kappaPub }))) s

/-- REPLAY has ended: retirements take effect (spec 13, R403; one decided before waits for its end: DEDUCED, log 45). -/
def Phase.replayed : Phase → Bool
  | .boot | .mount | .replay => false
  | _ => true

/-- What waits for a boundary in the other planes: ladders that stop with the revolution (spec 07, R221), retirements, the cache mode, Critical Warning, tokens, work that waits. -/
def boundaryRest (s : State) : State :=
  let s := if s.tick.number = 0 then allChans.foldl (fun s n => stopsFall n true s) s else s
  progress (endUnwanted (grantTokens (noteWarning (modeAtBoundary (if s.power.phase.replayed then retirementInstant s else s)))))

/-- TICK_BOUNDARY (R30 to R33): ticks go on in every state of the drive; what takes effect at a boundary does so while the controller
runs. -/
def execTickBoundary (s : State) : Host.Outcome State Fault Refusal :=
  .next (if !s.power.running || s.power.dead || s.power.straps.testMode then s
    else
      let s := issueBoundary s
      if s.live then sheepdogPass (boundaryRest (boundaryRecords (boundaryServo s)))
      else if s.servoLive then boundaryServo s
      else s)

/-! ## SHEEPDOG_PASS_LATE -/

/-- A decision of a discarded pass is withdrawn: the operation, not yet begun, goes back to its bin (R39, Table 1.7). -/
def withdrawDecision (s : State) (x : ChanId × Bool) : State :=
  let n := x.1
  match s.sched.placed[n] with
  | none => s
  | some o =>
    let begun := 0 < (s.rwc n).nextSector || (s.wr n).request || (s.wr n).run.any (fun r => 0 < r.next || r.firstAbort.isSome)
    if begun then s
    else
      let s := (s.modRwc n (fun r => { r with op := none })).modWr n (fun w => { w with run := none })
      let s := { s with
        sched.placedCount := upd s.sched.placedCount n (· - 1)
        sched.aged := if x.2 then upd s.sched.aged n (· - 1) else s.sched.aged }
      refile o (unplace n s)

/-- SHEEPDOG_PASS_LATE (R39, R334): the pass of this tick is discarded, every actuator keeping the plan it had, counted in PASS_LATE
and recorded. -/
def execSheepdogPassLate (s : State) : Host.Outcome State Fault Refusal :=
  .next (ifLive s (fun s =>
    if s.sched.passLateNow || placementStopped s then s
    else
      let s := s.sched.fresh.foldl withdrawDecision s
      raise (event 0x2001 1 srcController 0 s.tick.counter.toNat)
        { s with sched.fresh := [], sched.ahead := .replicate 8 none, sched.passLateNow := true, sched.passLate := s.sched.passLate + 1 }))

end Sys2Proof.Machine
end

