-- ==== Sys2Proof/Machine/WriteRows.lean ====
section
/-! DEFINITION. The meanings of the write-path rows (spec 08): data windows, sectors on media, excursions and repairs, the write time
limit, preamplifier faults and the assist monitor. -/

namespace Sys2Proof.Machine

/-- TRIM_LATE (R243): the level frame that waits is not sent and the wedge is counted; the level of the previous wedge stays. -/
def execTrimLate (n : ChanId) (s : State) : Host.Outcome State Fault Refusal :=
  .next (if s.servoLive && (s.wr n).levelPending.isSome then
      s.modWr n (fun w => { w with trimLate := w.trimLate + 1, levelPending := none })
    else s)

/-- DATA_WINDOW_OPEN (R230, R232, R249, R250, R251): `arrived` sectors have newly come whole into the write FIFO, `poisoned` among
them by number. -/
def execDataWindowOpen (n : ChanId) (arrived : Nat) (poisoned : List Nat) (s : State) : Host.Outcome State Fault Refusal :=
  .next (if s.servoLive && (s.chan n).load = .loaded then openWindow n (fifoMarks arrived poisoned) s else s)

/-- SECTOR_ON_MEDIA (R236): the sector in progress has its pad on media; in the first 20 µs of a vault too (spec 02, Table 2.11). -/
def execSectorOnMedia (x : SectorLanding) (s : State) : Host.Outcome State Fault Refusal :=
  let n := x.chan
  let fill := fifoMarks x.arrived x.poisoned
  .next (if !s.servoLive then s
    else
      let s' := startArmed n (flushLevel n s)
      if !(s'.wr n).request then s else if s.live then progress (sectorLands n fill s') else sectorLands n fill s')

/-- EXCURSION_VERIFY_DONE (R239, step 2): the oldest verify set whose reading (spec 11, R335) is over has been read; `reads` are the offsets
that converged on the fly and passed the checks of spec 07, R204, with their iterations. -/
def execExcursionVerifyDone (n : ChanId) (reads : List (Nat × Nat)) (s : State) : Host.Outcome State Fault Refusal :=
  .next (if s.live && (verifyDue s n).isSome then progress (verifyRead n reads s) else s)

/-- REPAIR_DONE (R239, steps 3 and 4): the oldest repair whose sectors have been rewritten and read back is judged, with `reads` as above. -/
def execRepairDone (n : ChanId) (reads : List (Nat × Nat)) (s : State) : Host.Outcome State Fault Refusal :=
  .next (if s.live && (repairDue s n).isSome then progress (repairRead n reads s) else s)

/-- WRITE_TIME_LIMIT (R235; spec 13, WRITE_STALL): the actuator is released to Sheepdog, the rest of the run to its bin. -/
def execWriteTimeLimit (n : ChanId) (s : State) : Host.Outcome State Fault Refusal :=
  .next (match (s.wr n).run with
    | none => s
    | some r => if s.live && r.firstAbort.isSome then writeStallEvent r.op.band.head (endRun n true s) else s)

/-- PA_FAULT_FALL (R244): assist-ready is withdrawn, a sector being written is aborted, the fall is counted. -/
def execPaFaultFall (n : ChanId) (s : State) : Host.Outcome State Fault Refusal :=
  .next (if !s.servoLive || !chanFitted s n || (s.wr n).paLow then s
    else
      let s := s.modWr n (fun w => { w with
        paLow := true, paHold := true, paFirst := true, paClean := false, paCharged := false, paHighWedges := 0
        assistReady := false, withdrawAtEnd := false, warmFrom := none, paFaults := w.paFaults + 1 })
      gateCheck true n (transientFault .paFault (some (.head (s.sdm n).head)) 0 s))

/-- PA_FAULT_RISE (R244): the whole wedge that must pass begins. -/
def execPaFaultRise (n : ChanId) (s : State) : Host.Outcome State Fault Refusal :=
  .next (if s.servoLive && (s.wr n).paLow then s.modWr n (fun w => { w with paLow := false, paHighWedges := 0 }) else s)

/-- PA_FAULT_HOLD (spec 13, PA_FAULT): low without a break for the limit, one write-side permanent-class event of the active head. -/
def execPaFaultHold (n : ChanId) (s : State) : Host.Outcome State Fault Refusal :=
  .next (if s.live && (s.wr n).paLow && !(s.wr n).paCharged then
      charge .paFault (.head (s.sdm n).head) true 0 (s.modWr n (fun w => { w with paCharged := true }))
    else s)

/-- A monitor reading outside MON_MIN to MON_MAX (R247; spec 13, ASSIST_MON). -/
def monitorOut (n : ChanId) (h : HeadId) (s : State) : State :=
  let run := s.heads[h].monRun + 1
  let hit := cfg s 0x5100 6 ≤ run
  let s := s.modWr n (fun w => { w with
    monOut := w.monOut + 1, assistReady := false, withdrawAtEnd := false, warmFrom := none })
  let s := gateCheck false n (s.modHead h (fun x => { x with trim := 0, monRun := if hit then 0 else run }))
  if hit then charge .assistMon (.head h) true 0 s else s

/-- MONITOR_READ_DONE (R242, R246, R247): after a written window, the monitor read frame, and the trim of the writing head with the
level frame that carries its level; with TRIM_ENABLE 0 no monitor frame is sent. A
calibration run records the reading and keeps its level (spec 09, R280). -/
def execMonitorReadDone (n : ChanId) (m : Word16) (s : State) : Host.Outcome State Fault Refusal :=
  .next (if !s.servoLive || assistType s n = 0 || !(trimEnabled s || (s.wr n).fixed.isSome) || unloaded s n || !((s.wr n).wroteIn.isSome || (s.wr n).armed) then s
    else
      let h := (s.sdm n).head
      let r := assistRec s h
      let s := serialFrame n true (paReg s n 8) 0 (flushLevel n (closeWindow n s))
      if (s.wr n).fixed.isSome then calMonitor n m.toNat s
      else if m.toNat < fieldU r 6 2 || fieldU r 8 2 < m.toNat then monitorOut n h s
      else
        let l := takeTrim n h (trimFrom s n h m.toNat) (s.modHead h (fun x => { x with monRun := 0 }))
        l.2.modWr n (fun w => { w with levelPending := some (l.1, false) }))

/-- FAULT_READ_DONE (R244): the first value is LAST_PA_FAULT; a value of 0x0000 is one of the conditions of assist-ready. -/
def execFaultReadDone (n : ChanId) (v : Word16) (s : State) : Host.Outcome State Fault Refusal :=
  .next (if !s.servoLive || !(s.wr n).paHold then s
    else
      (otherFrame n true (paReg s n 9) 0 s).modWr n (fun w => { w with
        lastPaFault := if w.paFirst then v else w.lastPaFault, paFirst := false, paClean := w.paClean || v = 0 }))

end Sys2Proof.Machine
end

