-- ==== Sys2Proof/Machine/Dispatch.lean ====
section
/-! DEFINITION. The dispatch: one arm for each row of the table of operations and events. -/

namespace Sys2Proof.Machine

def exec (i : Instr) (s : State) : Host.Outcome State Fault Refusal :=
  match i with
  | .powerGood straps boot pwrdis => Sys2Proof.Machine.execPowerGood straps boot pwrdis s
  | .railUndervoltage rail => Sys2Proof.Machine.execRailUndervoltage rail s
  | .bufferSelftest r => Sys2Proof.Machine.execBufferSelftest r s
  | .bufferTrainingDone => Sys2Proof.Machine.execBufferTrainingDone s
  | .bufferTrainingTimeout c => Sys2Proof.Machine.execBufferTrainingTimeout c s
  | .bufferFillDone => Sys2Proof.Machine.execBufferFillDone s
  | .mountEnd r => Sys2Proof.Machine.execMountEnd r s
  | .replayEnd r => Sys2Proof.Machine.execReplayEnd r s
  | .zoneMetadataLoadEnd r => Sys2Proof.Machine.execZoneMetadataLoadEnd r s
  | .spinUpInstant => Sys2Proof.Machine.execSpinUpInstant s
  | .spinupTimeout => Sys2Proof.Machine.execSpinupTimeout s
  | .testresFrame k f => Sys2Proof.Machine.execTestresFrame k f s
  | .storeFrame k f => Sys2Proof.Machine.execStoreFrame k f s
  | .holdupCheckRepeat => Sys2Proof.Machine.execHoldupCheckRepeat s
  | .actuatorLoadStart => Sys2Proof.Machine.execActuatorLoadStart s
  | .loadTimeout n => Sys2Proof.Machine.execLoadTimeout n s
  | .phaseLimitExpired => Sys2Proof.Machine.execPhaseLimitExpired s
  | .tickBoundary => Sys2Proof.Machine.execTickBoundary s
  | .sheepdogPassLate => Sys2Proof.Machine.execSheepdogPassLate s
  | .indexFrame k f => Sys2Proof.Machine.execIndexFrame k f s
  | .indexLoss => Sys2Proof.Machine.execIndexLoss s
  | .indexLoss10s => Sys2Proof.Machine.execIndexLoss10s s
  | .bemfFrame k f => Sys2Proof.Machine.execBemfFrame k f s
  | .faultFrame k f => Sys2Proof.Machine.execFaultFrame k f s
  | .adlIdleFrame k f => Sys2Proof.Machine.execAdlIdleFrame k f s
  | .linkLoss k => Sys2Proof.Machine.execLinkLoss k s
  | .linkLossLimit k => Sys2Proof.Machine.execLinkLossLimit k s
  | .speedFaultLimit => Sys2Proof.Machine.execSpeedFaultLimit s
  | .wedgeStrobe n f => Sys2Proof.Machine.execWedgeStrobe n f s
  | .samWindowClose n f => Sys2Proof.Machine.execSamWindowClose n f s
  | .reacqLimitExpired n => Sys2Proof.Machine.execReacqLimitExpired n s
  | .accessRequest n r => Sys2Proof.Machine.execAccessRequest n r s
  | .ceOutputIssue n => Sys2Proof.Machine.execCeOutputIssue n s
  | .seekFault n => Sys2Proof.Machine.execSeekFault n s
  | .trimLate n => Sys2Proof.Machine.execTrimLate n s
  | .dataWindowOpen n arrived poisoned => Sys2Proof.Machine.execDataWindowOpen n arrived poisoned s
  | .sectorOnMedia x => Sys2Proof.Machine.execSectorOnMedia x s
  | .excursionVerifyDone n reads => Sys2Proof.Machine.execExcursionVerifyDone n reads s
  | .repairDone n reads => Sys2Proof.Machine.execRepairDone n reads s
  | .writeTimeLimit n => Sys2Proof.Machine.execWriteTimeLimit n s
  | .paFaultFall n => Sys2Proof.Machine.execPaFaultFall n s
  | .paFaultRise n => Sys2Proof.Machine.execPaFaultRise n s
  | .paFaultHold n => Sys2Proof.Machine.execPaFaultHold n s
  | .monitorReadDone n m => Sys2Proof.Machine.execMonitorReadDone n m s
  | .faultReadDone n v => Sys2Proof.Machine.execFaultReadDone n v s
  | .sectorRead n sig => Sys2Proof.Machine.execSectorRead n sig s
  | .decodeComplete n entry => Sys2Proof.Machine.execDecodeComplete n entry s
  | .secondLookAttemptEnd n code => Sys2Proof.Machine.execSecondLookAttemptEnd n code s
  | .retryTimeLimit n => Sys2Proof.Machine.execRetryTimeLimit n s
  | .envDecision r => Sys2Proof.Machine.execEnvDecision r s
  | .calSchedule h kind => Sys2Proof.Machine.execCalSchedule h kind s
  | .calReqKindsWrite path v => Sys2Proof.Machine.execCalReqKindsWrite path v s
  | .calRunEnd h r => Sys2Proof.Machine.execCalRunEnd h r s
  | .calDeferTimeout h kind => Sys2Proof.Machine.execCalDeferTimeout h kind s
  | .perstAssert p => Sys2Proof.Machine.execPerstAssert p s
  | .perstDeassert p => Sys2Proof.Machine.execPerstDeassert p s
  | .refclkLoss p => Sys2Proof.Machine.execRefclkLoss p s
  | .hotReset p => Sys2Proof.Machine.execHotReset p s
  | .functionLevelReset p => Sys2Proof.Machine.execFunctionLevelReset p s
  | .linkDisable p => Sys2Proof.Machine.execLinkDisable p s
  | .ccEnable p => Sys2Proof.Machine.execCcEnable p s
  | .ccDisable p => Sys2Proof.Machine.execCcDisable p s
  | .ccShutdown p shn => Sys2Proof.Machine.execCcShutdown p shn s
  | .nvmSubsystemReset p v => Sys2Proof.Machine.execNvmSubsystemReset p v s
  | .sqTailDoorbell p qid tail => Sys2Proof.Machine.execSqTailDoorbell p qid tail s
  | .cqHeadDoorbell p qid head => Sys2Proof.Machine.execCqHeadDoorbell p qid head s
  | .commandAdmission p e => Sys2Proof.Machine.execCommandAdmission p e s
  | .completionCommit id => Sys2Proof.Machine.execCompletionCommit id s
  | .completionPost p qid => Sys2Proof.Machine.execCompletionPost p qid s
  | .flushCommit id => Sys2Proof.Machine.execFlushCommit id s
  | .createIoSq a qid size cqid contiguous => Sys2Proof.Machine.execCreateIoSq a qid size cqid contiguous s
  | .deleteIoSq a qid => Sys2Proof.Machine.execDeleteIoSq a qid s
  | .createIoCq a qid size vector contiguous irqEnable => Sys2Proof.Machine.execCreateIoCq a qid size vector contiguous irqEnable s
  | .deleteIoCq a qid => Sys2Proof.Machine.execDeleteIoCq a qid s
  | .getLogPage a lid rae nsid offset length => Sys2Proof.Machine.execGetLogPage a lid rae nsid offset length s
  | .identify a cns nsid csi cntid => Sys2Proof.Machine.execIdentify a cns nsid csi cntid s
  | .abort a sqid target => Sys2Proof.Machine.execAbort a sqid target s
  | .getFeatures a fid x nsid => Sys2Proof.Machine.execGetFeatures a fid x nsid s
  | .setFeatArbitration a save v => Sys2Proof.Machine.execSetFeatArbitration a save v s
  | .setFeatPowerManagement a save v => Sys2Proof.Machine.execSetFeatPowerManagement a save v s
  | .setFeatTemperatureThreshold a save v => Sys2Proof.Machine.execSetFeatTemperatureThreshold a save v s
  | .setFeatErrorRecovery a save nsid v => Sys2Proof.Machine.execSetFeatErrorRecovery a save nsid v s
  | .setFeatVolatileWriteCache a save v => Sys2Proof.Machine.execSetFeatVolatileWriteCache a save v s
  | .setFeatNumberOfQueues a save v => Sys2Proof.Machine.execSetFeatNumberOfQueues a save v s
  | .setFeatInterruptCoalescing a save v => Sys2Proof.Machine.execSetFeatInterruptCoalescing a save v s
  | .setFeatInterruptVectorConfig a save v => Sys2Proof.Machine.execSetFeatInterruptVectorConfig a save v s
  | .setFeatWriteAtomicity a save v => Sys2Proof.Machine.execSetFeatWriteAtomicity a save v s
  | .setFeatAsyncEventConfig a save v => Sys2Proof.Machine.execSetFeatAsyncEventConfig a save v s
  | .setFeatTimestamp a save ms => Sys2Proof.Machine.execSetFeatTimestamp a save ms s
  | .setFeatHostBehaviorSupport a save acre => Sys2Proof.Machine.execSetFeatHostBehaviorSupport a save acre s
  | .setFeatSoftwareProgressMarker a save v => Sys2Proof.Machine.execSetFeatSoftwareProgressMarker a save v s
  | .setFeatHostIdentifier a save exhid v => Sys2Proof.Machine.execSetFeatHostIdentifier a save exhid v s
  | .setFeatReservationNotifMask a save nsid v => Sys2Proof.Machine.execSetFeatReservationNotifMask a save nsid v s
  | .setFeatReservationPersistence a save nsid v => Sys2Proof.Machine.execSetFeatReservationPersistence a save nsid v s
  | .asyncEventRequest a => Sys2Proof.Machine.execAsyncEventRequest a s
  | .namespaceCreate a csi nsze ncap lbaf => Sys2Proof.Machine.execNamespaceCreate a csi nsze ncap lbaf s
  | .namespaceDelete a nsid => Sys2Proof.Machine.execNamespaceDelete a nsid s
  | .namespaceAttach a nsid ctrls => Sys2Proof.Machine.execNamespaceAttach a nsid ctrls s
  | .namespaceDetach a nsid ctrls => Sys2Proof.Machine.execNamespaceDetach a nsid ctrls s
  | .formatNvm a nsid lbaf ses => Sys2Proof.Machine.execFormatNvm a nsid lbaf ses s
  | .sanitizeOverwrite a owpass pattern sanact => Sys2Proof.Machine.execSanitizeOverwrite a owpass pattern sanact s
  | .sanitizeExitFailureMode a => Sys2Proof.Machine.execSanitizeExitFailureMode a s
  | .sanitizeOverwriteDone failed => Sys2Proof.Machine.execSanitizeOverwriteDone failed s
  | .firmwareImageDownload a piece => Sys2Proof.Machine.execFirmwareImageDownload a piece s
  | .fwCommitKeep a fs => Sys2Proof.Machine.execFwCommitKeep a fs s
  | .fwCommitNextReset a fs => Sys2Proof.Machine.execFwCommitNextReset a fs s
  | .fwCommitExisting a fs => Sys2Proof.Machine.execFwCommitExisting a fs s
  | .fwCommitImmediate a fs => Sys2Proof.Machine.execFwCommitImmediate a fs s
  | .fwCommitBootPartition a ca => Sys2Proof.Machine.execFwCommitBootPartition a ca s
  | .vendorCommit a => Sys2Proof.Machine.execVendorCommit a s
  | .vendorDiscard a => Sys2Proof.Machine.execVendorDiscard a s
  | .setObject a cdw10 offset data => Sys2Proof.Machine.execSetObject a cdw10 offset data s
  | .getObject a cdw10 offset length => Sys2Proof.Machine.execGetObject a cdw10 offset length s
  | .unsupportedAdminOpcode a opcode nsid cdw10 => Sys2Proof.Machine.execUnsupportedAdminOpcode a opcode nsid cdw10 s
  | .flush id => Sys2Proof.Machine.execFlush id s
  | .write id data => Sys2Proof.Machine.execWrite id data s
  | .read id => Sys2Proof.Machine.execRead id s
  | .writeZeroes id => Sys2Proof.Machine.execWriteZeroes id s
  | .reservationRegister id => Sys2Proof.Machine.execReservationRegister id s
  | .reservationReport id => Sys2Proof.Machine.execReservationReport id s
  | .reservationAcquire id => Sys2Proof.Machine.execReservationAcquire id s
  | .reservationRelease id => Sys2Proof.Machine.execReservationRelease id s
  | .zoneClose id => Sys2Proof.Machine.execZoneClose id s
  | .zoneFinish id => Sys2Proof.Machine.execZoneFinish id s
  | .zoneOpen id => Sys2Proof.Machine.execZoneOpen id s
  | .zoneReset id => Sys2Proof.Machine.execZoneReset id s
  | .zoneOffline id => Sys2Proof.Machine.execZoneOffline id s
  | .setZoneDescriptorExt id => Sys2Proof.Machine.execSetZoneDescriptorExt id s
  | .reportZones id => Sys2Proof.Machine.execReportZones id s
  | .extendedReportZones id => Sys2Proof.Machine.execExtendedReportZones id s
  | .zoneAppend id data => Sys2Proof.Machine.execZoneAppend id data s
  | .unsupportedIoOpcode id => Sys2Proof.Machine.execUnsupportedIoOpcode id s
  | .maintenanceOrderingPoint id => Sys2Proof.Machine.execMaintenanceOrderingPoint id s
  | .unloadIdleExpired n => Sys2Proof.Machine.execUnloadIdleExpired n s
  | .statusWrite p v setNow => Sys2Proof.Machine.execStatusWrite p v setNow s
  | .intEnableWrite p v => Sys2Proof.Machine.execIntEnableWrite p v s
  | .tickLoRead p => Sys2Proof.Machine.execTickLoRead p s
  | .evtBaseWrite p v => Sys2Proof.Machine.execEvtBaseWrite p v s
  | .mbDoorbellWrite p v request => Sys2Proof.Machine.execMbDoorbellWrite p v request s
  | .mailboxResponse p => Sys2Proof.Machine.execMailboxResponse p s
  | .msixUnmask x => Sys2Proof.Machine.execMsixUnmask x s
  | .holdSenseFall => Sys2Proof.Machine.execHoldSenseFall s
  | .holdSenseRise => Sys2Proof.Machine.execHoldSenseRise s
  | .pwrdisRise => Sys2Proof.Machine.execPwrdisRise s
  | .pwrdisFall => Sys2Proof.Machine.execPwrdisFall s
  | .vaultTrigger pwrdis => Sys2Proof.Machine.execVaultTrigger pwrdis s
  | .vaultRetract => Sys2Proof.Machine.execVaultRetract s
  | .vaultRestart boot => Sys2Proof.Machine.execVaultRestart boot s
  | .bufferSlotGrant c writePort arrivals noise => Sys2Proof.Machine.execBufferSlotGrant c writePort arrivals noise s
  | .repairWriteDrop c => Sys2Proof.Machine.execRepairWriteDrop c s
  | .rebuildDone h band journalOk mediaRun => Sys2Proof.Machine.execRebuildDone h band journalOk mediaRun s
  | .scrubLapWarn c => Sys2Proof.Machine.execScrubLapWarn c s
  | .scrubEnableWrite path v => Sys2Proof.Machine.execScrubEnableWrite path v s
  | .ceTableClear path v => Sys2Proof.Machine.execCeTableClear path v s
  | .waitMaxRead path c => Sys2Proof.Machine.execWaitMaxRead path c s
  | .delayMaxRead path n => Sys2Proof.Machine.execDelayMaxRead path n s
  | .missWaitMaxRead path => Sys2Proof.Machine.execMissWaitMaxRead path s
  | .cacheModeWrite path v => Sys2Proof.Machine.execCacheModeWrite path v s
  | .dirtyLimitWrite path v => Sys2Proof.Machine.execDirtyLimitWrite path v s
  | .allocWaitExpired set => Sys2Proof.Machine.execAllocWaitExpired set s
  | .captureDataRead path maxBytes => Sys2Proof.Machine.execCaptureDataRead path maxBytes s
  | .captureCtrlWrite path v => Sys2Proof.Machine.execCaptureCtrlWrite path v s
  | .captureDecimWrite path v => Sys2Proof.Machine.execCaptureDecimWrite path v s
  | .memExceptionDataPlane => Sys2Proof.Machine.execMemExceptionDataPlane s
  | .memExceptionMgmtPlane => Sys2Proof.Machine.execMemExceptionMgmtPlane s
  | .retireReqWrite path v => Sys2Proof.Machine.execRetireReqWrite path v s
  | .unretireWrite path v => Sys2Proof.Machine.execUnretireWrite path v s
  | .nandProgramDone die pulses => Sys2Proof.Machine.execNandProgramDone die pulses s
  | .nandEraseDone die pulses => Sys2Proof.Machine.execNandEraseDone die pulses s
  | .nandReadDone die level data => Sys2Proof.Machine.execNandReadDone die level data s
  | .journalFlushTimer => Sys2Proof.Machine.execJournalFlushTimer s
  | .checkpointTrigger => Sys2Proof.Machine.execCheckpointTrigger s
  | .codeMiss slotPage die => Sys2Proof.Machine.execCodeMiss slotPage die s
  | .suspendIntervalEnd die => Sys2Proof.Machine.execSuspendIntervalEnd die s
  | .oemRead path => Sys2Proof.Machine.execOemRead path s
  | .oemProgram path => Sys2Proof.Machine.execOemProgram path s
  | .oemErase path => Sys2Proof.Machine.execOemErase path s
  | .slotEraseWrite path v => Sys2Proof.Machine.execSlotEraseWrite path v s
  | .mctpMessageDiscard msgType ic => Sys2Proof.Machine.execMctpMessageDiscard msgType ic s
  | .plarikGet path r => Sys2Proof.Machine.execPlarikGet path r s
  | .plarikSet path r => Sys2Proof.Machine.execPlarikSet path r s
  | .plarikCommit path r => Sys2Proof.Machine.execPlarikCommit path r s
  | .plarikDiscard path r => Sys2Proof.Machine.execPlarikDiscard path r s
  | .plarikDescribe path r => Sys2Proof.Machine.execPlarikDescribe path r s
  | .plarikNext path r => Sys2Proof.Machine.execPlarikNext path r s
  | .plarikUnknownOp path r => Sys2Proof.Machine.execPlarikUnknownOp path r s
  | .setEndpointId eid => Sys2Proof.Machine.execSetEndpointId eid s
  | .getEndpointId => Sys2Proof.Machine.execGetEndpointId s
  | .getEndpointUuid => Sys2Proof.Machine.execGetEndpointUuid s
  | .getMctpVersionSupport msgType => Sys2Proof.Machine.execGetMctpVersionSupport msgType s
  | .getMessageTypeSupport => Sys2Proof.Machine.execGetMessageTypeSupport s
  | .getVendorDefinedMsgSupport selector => Sys2Proof.Machine.execGetVendorDefinedMsgSupport selector s
  | .readNvmeMiDataStructure dtyp portId ctrlId => Sys2Proof.Machine.execReadNvmeMiDataStructure dtyp portId ctrlId s
  | .nvmSubsystemHealthPoll clear => Sys2Proof.Machine.execNvmSubsystemHealthPoll clear s
  | .controllerHealthPoll start maxEntries clear => Sys2Proof.Machine.execControllerHealthPoll start maxEntries clear s
  | .miConfigurationSet c port v => Sys2Proof.Machine.execMiConfigurationSet c port v s
  | .miConfigurationGet c port => Sys2Proof.Machine.execMiConfigurationGet c port s
  | .miAdminTunnel cntlid t => Sys2Proof.Machine.execMiAdminTunnel cntlid t s
  | .smbusAlertResponse => Sys2Proof.Machine.execSmbusAlertResponse s
  | .objectWrite path index sub data => Sys2Proof.Machine.execObjectWrite path index sub data s
  | .commitWrite path => Sys2Proof.Machine.execCommitWrite path s
  | .discardWrite path => Sys2Proof.Machine.execDiscardWrite path s
  | .channelCommitSwap n => Sys2Proof.Machine.execChannelCommitSwap n s
  | .privEnterWrite path v => Sys2Proof.Machine.execPrivEnterWrite path v s
  | .ownerLockWrite path v => Sys2Proof.Machine.execOwnerLockWrite path v s
  | .nodeNumberWrite path v => Sys2Proof.Machine.execNodeNumberWrite path v s
  | .mctpStatusWrite path v setNow => Sys2Proof.Machine.execMctpStatusWrite path v setNow s
  | .stageLeaseExpired => Sys2Proof.Machine.execStageLeaseExpired s
  | .privIdleExpired path => Sys2Proof.Machine.execPrivIdleExpired path s
  | .segmentTimeout path => Sys2Proof.Machine.execSegmentTimeout path s
  | .snapshotTimeout path => Sys2Proof.Machine.execSnapshotTimeout path s
  | .fwPieceWrite path piece => Sys2Proof.Machine.execFwPieceWrite path piece s
  | .fwSealDone digestOk => Sys2Proof.Machine.execFwSealDone digestOk s
  | .fwLeaseExpired => Sys2Proof.Machine.execFwLeaseExpired s
  | .fwAbortWrite path v => Sys2Proof.Machine.execFwAbortWrite path v s
  | .fwActionKeep path => Sys2Proof.Machine.execFwActionKeep path s
  | .fwActionNextReset path => Sys2Proof.Machine.execFwActionNextReset path s
  | .fwActionExisting path => Sys2Proof.Machine.execFwActionExisting path s
  | .fwActionImmediate path => Sys2Proof.Machine.execFwActionImmediate path s
  | .activationDrainDone imageOk => Sys2Proof.Machine.execActivationDrainDone imageOk s
  | .activationDrainLimit => Sys2Proof.Machine.execActivationDrainLimit s
  | .activationResume => Sys2Proof.Machine.execActivationResume s
  | .activationFallback => Sys2Proof.Machine.execActivationFallback s
  | .eventWrite => Sys2Proof.Machine.execEventWrite s
  | .evtFreezeWrite path v => Sys2Proof.Machine.execEvtFreezeWrite path v s
  | .freezeLeaseExpired => Sys2Proof.Machine.execFreezeLeaseExpired s
  | .evtModeWrite path v => Sys2Proof.Machine.execEvtModeWrite path v s
  | .mirrorPageProgram => Sys2Proof.Machine.execMirrorPageProgram s
  | .logSelectWrite path v => Sys2Proof.Machine.execLogSelectWrite path v s
  | .logRead path => Sys2Proof.Machine.execLogRead path s
  | .porstAssert => Sys2Proof.Machine.execPorstAssert s
  | .railRestored rail boot => Sys2Proof.Machine.execRailRestored rail boot s
  | .substituteLoss => Sys2Proof.Machine.execSubstituteLoss s
  | .pcieLinkDown p => Sys2Proof.Machine.execPcieLinkDown p s
  | .i3cAddressAssignment a => Sys2Proof.Machine.execI3cAddressAssignment a s
  | .planeRestartDone plane => Sys2Proof.Machine.execPlaneRestartDone plane s
  | .setFeatUnsupported a fid save v => Sys2Proof.Machine.execSetFeatUnsupported a fid save v s

end Sys2Proof.Machine
end

