-- ==== Sys2Proof/Safety.lean ====
section
/-! DEFINITION. The terms in which the statements speak: what a command answers, what is called safe and well kept, and what a reset and a
start-up leave. -/

namespace Sys2Proof

/-- A step from `s` answers a next state. The block has no fault, so every command runs safely from every state. -/
def StepsSafely (s : Machine.State) : Prop := ∃ t, Machine.step s = .next t

namespace Machine

/-- The command answers a next state that meets `P`. -/
def Answers (c : Instr) (s : State) (P : State → Prop) : Prop := ∃ t, exec c s = .next t ∧ P t

/-- Every channel of the buffer memory lists its words in their one form: rows strictly rising, no word zero (spec 12, R350). -/
def BufferWf (s : State) : Prop := ∀ c : Fin 4, wordsWf s.bms.chans[c].words = true

/-- The event recorder within its bounds (spec 17): at most 4,096 records in the ring (R481), at most 64 events in the boot list
(R484), no REPT above 65,535, and an open record whose REPT can still count one more (R485). -/
def RecorderOk (r : Evr) : Prop :=
  r.ring.length ≤ 4096 ∧ r.boot.length ≤ 64 ∧ (∀ x ∈ r.ring, x.rept ≤ 65535) ∧ (∀ x ∈ r.log, x.rept ≤ 65535) ∧
    (r.isOpen = true → ∀ x ∈ r.ring.head?, x.rept < 65535)

/-- Between two states of a port a vector 65 message was asked for exactly if `want` (spec 10, R318): masked, the request is pending;
not masked, one message is sent. -/
def Asked (want : Prop) (q t : Port) : Prop :=
  (want → q.masked65 = true → t.pending65 = true ∧ t.msgs65 = q.msgs65) ∧
  (want → q.masked65 = false → t.pending65 = q.pending65 ∧ t.msgs65 = q.msgs65 + 1) ∧
  (¬want → t.pending65 = q.pending65 ∧ t.msgs65 = q.msgs65) ∧ t.masked65 = q.masked65

/-- A valid frame was heard on a link (spec 02, R57), at its time after the last boundary: the link is up, and the SEQ after the
frame's is expected. -/
def heard (k : LinkId) (f : UpFrame) (s : State) : State :=
  { s with clock.sub := max s.clock.sub f.atNs }.modLink k (fun l => { l with rxSeq := some (f.seq + 1), up := true, lost := false, charged := false })

/-- Exactly one frame was sent on a link from `s` to `t`, with the next SEQ (spec 02, R54, R55). -/
def Sends (s t : State) (k : LinkId) (f : DownFrame) : Prop :=
  (t.link k).sent = (s.link k).sent ++ [frameBytes f (s.link k).txSeq] ∧ (t.link k).txSeq = (s.link k).txSeq + 1

/-- An admin command is fetched by its controller, and the resident firmware executes it (spec 10, R294; spec 03, R83). -/
def adminRuns (s : State) (a : AdminHdr) : Prop := adminOpen s a = true ∧ s.power.phase ≠ .recovery

/-- A command that sets a feature ends with success, the features of its controller changed (spec 10, R296). -/
def withFeature (a : AdminHdr) (f : Features → Features) (s : State) : State :=
  s.modPort a.port (fun q => { q with feat := f q.feat, committed := q.committed ++ [⟨0, 0, a.cid, .success, false, 0, 0, 0, .none⟩] })

/-- An admin command completed with success, with dword 0 and data; nothing else has changed. -/
def completed (a : AdminHdr) (dw0 : Nat) (d : CplData) (s : State) : State :=
  s.modPort a.port (fun q => { q with committed := q.committed ++ [⟨0, 0, a.cid, .success, false, 0, BitVec.ofNat 32 dw0, 0, d⟩] })

/-- From `s` to `t` an admin command completed with success, with dword 0 and data. -/
def CompletedWith (a : AdminHdr) (dw0 : Nat) (d : CplData) (s t : State) : Prop :=
  (t.port a.port).committed = (s.port a.port).committed ++ [⟨0, 0, a.cid, .success, false, 0, BitVec.ofNat 32 dw0, 0, d⟩]

/-- A plain completion of an admin command is among those that wait to be posted. -/
def Completed (a : AdminHdr) (st : Status) (t : State) : Prop := plainCompletion a.cid st ∈ (t.port a.port).committed

/-- A completion of an I/O command of a status is among those that wait to be posted. -/
def CompletedIo (c : Ctx) (st : Status) (t : State) : Prop :=
  ∃ y ∈ (t.port c.port).committed, y.cid = c.entry.cid ∧ y.sqid = c.sqid ∧ y.status = st

/-- The function and the vendor block of a port are as a reset of the port leaves them (spec 10, R307, R315; spec 15, R460). -/
def WasReset (p : PortId) (t : State) : Prop :=
  (t.port p).en = false ∧ (t.port p).rdy = false ∧ (t.port p).sqs = [] ∧ (t.port p).cqs = [] ∧ (t.port p).intEnable = 0 ∧
    (t.port p).mbGo = false ∧ (pathState t (pathOf p)).priv = false

/-- A commit that is asked for may run (spec 15, R446, R447; spec 04, R109): no segmented write of a staged object is open, no format
table is staged while a namespace exists, every test of validation passes, and something is staged. -/
def CommitRuns (s : State) : Prop :=
  (s.dict.owner.bind (fun q => (pathState s q).segment)).filter (fun g => (objAt g.1.index g.1.sub).any (·.staged)) = none ∧
    (s.sub.namespaces = [] ∨ s.dict.staged.find? (fun e => e.1.index = 0x3100) = none) ∧ commitFailure s = none ∧ s.dict.staged ≠ []

/-- A direct write of an object passes every step of R440 (spec 15): the dictionary serves, admits it as the object `o`, and accepts the
value. -/
def AcceptedWrite (s : State) (p : Path) (index sub : Nat) (v : List Byte) (o : Obj) : Prop :=
  dictServes s = true ∧ admitWrite s p index sub (decide (v = [2])) = .ok o ∧ partFailed s index = false ∧ valueCode s index sub o v = 0

/-! ## The parts of the state -/

/-- The parts of the state that the frame speaks of. -/
inductive Part where
  | power | straps | clock | tick | counter | links | chans | heads | env | cal | ports | flags | bands | sub | cmds | sched | bms
  | cache | faults | mule | values | dict | mgmt | recorder | events | fw | loadQueue | freeCount
deriving DecidableEq, Repr

/-- A port without STATUS and vector 65's messages: what its host sees of NVMe, PCIe and the rest of the vendor block. -/
def hostSide (q : Port) : Port := { q with status := 0, pending65 := false, msgs65 := 0 }

/-- STATUS of a port and the messages of vector 65. -/
def portFlags (q : Port) : Word32 × Bool × Nat := (q.status, q.pending65, q.msgs65)

/-- The event recorder without what an event that arrives changes. -/
def recorded (r : Evr) : Evr :=
  { r with queue := [], boot := [], bootLost := 0, frozenCount := 0, frozen3 := 0, frozen2 := 0, frozenLast := 0, overflows := 0, lostSince := 0 }

/-- What an event that arrives changes: the queue, the boot list and the counts. -/
def arrived (r : Evr) : List Event × List Event × Nat × Nat × Nat × Nat × Word16 × Word32 × Nat :=
  (r.queue, r.boot, r.bootLost, r.frozenCount, r.frozen3, r.frozen2, r.frozenLast, r.overflows, r.lostSince)

/-- A part is the same in two states. The flags are STATUS of both ports with vector 65, MCTP_STATUS and ALERT_N. -/
@[reducible] def SamePart (p : Part) (s t : State) : Prop :=
  match p with
  | .power => { t.power with alertLow := false } = { s.power with alertLow := false }
  | .straps => (t.power.straps, t.power.crx4) = (s.power.straps, s.power.crx4)
  | .clock => t.clock = s.clock
  | .tick => { t.tick with counter := 0 } = { s.tick with counter := 0 }
  | .counter => t.tick.counter = s.tick.counter
  | .links => t.links = s.links
  | .chans => t.chans = s.chans
  | .heads => t.heads = s.heads
  | .env => t.env = s.env
  | .cal => t.cal = s.cal
  | .ports => t.ports.map hostSide = s.ports.map hostSide
  | .flags => (t.ports.map portFlags, t.mgmt.status, t.power.alertLow) = (s.ports.map portFlags, s.mgmt.status, s.power.alertLow)
  | .bands => t.sub.bands = s.sub.bands
  | .sub => { t.sub with bands := [] } = { s.sub with bands := [] }
  | .cmds => t.cmds = s.cmds
  | .sched => t.sched = s.sched
  | .bms => t.bms = s.bms
  | .cache => t.cache = s.cache
  | .faults => t.faults = s.faults
  | .mule => t.mule = s.mule
  | .values => t.dict.values = s.dict.values
  | .dict => { t.dict with values := [] } = { s.dict with values := [] }
  | .mgmt => { t.mgmt with status := 0 } = { s.mgmt with status := 0 }
  | .recorder => recorded t.evr = recorded s.evr
  | .events => arrived t.evr = arrived s.evr
  | .fw => t.fw = s.fw
  | .loadQueue => t.loadQueue = s.loadQueue
  | .freeCount => t.freeCount = s.freeCount

/-- Every part but some. -/
def allBut (l : List Part) : List Part :=
  [.power, .straps, .clock, .tick, .counter, .links, .chans, .heads, .env, .cal, .ports, .flags, .bands, .sub, .cmds, .sched, .bms,
    .cache, .faults, .mule, .values, .dict, .mgmt, .recorder, .events, .fw, .loadQueue, .freeCount].filter (fun p => !l.contains p)

/-- The parts that a command may change; it leaves every other part as it is. Work that waits for a command's end (a shutdown, a change
of power state, loads, flags, events) goes on with it and is counted in. -/
def touches : Instr → List Part
  | .bufferTrainingDone | .repairWriteDrop .. =>
    [.bms]
  | .indexLoss | .substituteLoss =>
    [.tick]
  | .accessRequest .. | .trimLate .. | .paFaultRise .. | .faultReadDone .. =>
    [.chans]
  | .calSchedule .. =>
    [.cal]
  | .holdSenseFall | .holdSenseRise | .pwrdisRise | .pwrdisFall =>
    [.power]
  | .journalFlushTimer | .checkpointTrigger | .codeMiss .. | .suspendIntervalEnd .. =>
    [.mule]
  | .mctpMessageDiscard .. | .setEndpointId .. | .getEndpointId | .getEndpointUuid | .getMctpVersionSupport .. |
  .getMessageTypeSupport | .getVendorDefinedMsgSupport .. | .readNvmeMiDataStructure .. | .nvmSubsystemHealthPoll .. |
  .controllerHealthPoll .. | .miConfigurationSet .. | .miConfigurationGet .. | .smbusAlertResponse | .privIdleExpired .. |
  .segmentTimeout .. | .snapshotTimeout .. | .i3cAddressAssignment .. =>
    [.mgmt]
  | .holdupCheckRepeat =>
    [.power, .links]
  | .actuatorLoadStart =>
    [.chans, .loadQueue]
  | .adlIdleFrame .. =>
    [.clock, .links]
  | .ceOutputIssue .. =>
    [.links, .chans]
  | .calDeferTimeout .. =>
    [.cal, .events]
  | .sqTailDoorbell .. | .cqHeadDoorbell .. | .statusWrite .. | .intEnableWrite .. | .tickLoRead .. | .evtBaseWrite .. |
  .mailboxResponse .. | .msixUnmask .. =>
    [.ports, .flags]
  | .scrubLapWarn .. =>
    [.bms, .events]
  | .miAdminTunnel .. =>
    [.mgmt, .freeCount]
  | .stageLeaseExpired =>
    [.dict, .events]
  | .freezeLeaseExpired =>
    [.recorder, .events]
  | .storeFrame .. =>
    [.power, .clock, .links]
  | .sheepdogPassLate =>
    [.chans, .sched, .events]
  | .paFaultHold .. =>
    [.chans, .faults, .events]
  | .perstDeassert .. =>
    [.ports, .flags, .freeCount]
  | .refclkLoss .. | .pcieLinkDown .. =>
    [.ports, .flags, .events]
  | .nandProgramDone .. =>
    [.power, .mule, .events]
  | .nandEraseDone .. | .fwLeaseExpired =>
    [.mule, .events, .fw]
  | .mctpStatusWrite .. =>
    [.ports, .flags, .mgmt]
  | .eventWrite =>
    [.flags, .recorder, .events]
  | .mirrorPageProgram =>
    [.mule, .recorder, .events]
  | .planeRestartDone .. =>
    [.cmds, .sched, .faults]
  | .bufferFillDone =>
    [.power, .flags, .bms, .events]
  | .createIoSq .. | .createIoCq .. | .deleteIoCq .. | .identify .. | .getFeatures .. | .setFeatArbitration .. |
  .setFeatTemperatureThreshold .. | .setFeatErrorRecovery .. | .setFeatNumberOfQueues .. | .setFeatInterruptCoalescing .. |
  .setFeatInterruptVectorConfig .. | .setFeatWriteAtomicity .. | .setFeatAsyncEventConfig .. | .setFeatTimestamp .. |
  .setFeatHostBehaviorSupport .. | .setFeatSoftwareProgressMarker .. | .setFeatHostIdentifier .. |
  .setFeatReservationNotifMask .. | .setFeatReservationPersistence .. | .asyncEventRequest .. | .namespaceAttach .. |
  .namespaceDetach .. | .sanitizeExitFailureMode .. | .unsupportedAdminOpcode .. | .setFeatUnsupported .. =>
    [.ports, .flags, .sub, .events]
  | .maintenanceOrderingPoint .. =>
    [.chans, .cmds, .sched, .cache]
  | .fwPieceWrite .. =>
    [.mule, .mgmt, .events, .fw]
  | .fwSealDone .. =>
    [.flags, .mule, .events, .fw]
  | .bufferSelftest .. | .bufferTrainingTimeout .. =>
    [.power, .ports, .flags, .bms, .events]
  | .indexFrame .. =>
    [.clock, .tick, .links, .faults, .events]
  | .getLogPage .. =>
    [.ports, .flags, .sub, .events, .freeCount]
  | .fwCommitBootPartition .. =>
    [.ports, .flags, .sub, .events, .fw]
  | .waitMaxRead .. | .delayMaxRead .. | .missWaitMaxRead .. | .captureDataRead .. | .logRead .. =>
    [.chans, .bms, .mule, .mgmt, .recorder]
  | .activationDrainLimit =>
    [.ports, .flags, .sub, .cmds, .fw]
  | .spinUpInstant | .spinupTimeout =>
    [.power, .tick, .links, .ports, .flags, .events]
  | .writeTimeLimit .. =>
    [.chans, .heads, .sched, .cache, .faults, .events]
  | .namespaceCreate .. =>
    [.ports, .flags, .bands, .sub, .mule, .events]
  | .bemfFrame .. =>
    [.power, .clock, .tick, .links, .flags, .cache, .events]
  | .firmwareImageDownload .. =>
    [.ports, .flags, .sub, .mule, .mgmt, .events, .fw]
  | .activationFallback =>
    [.ports, .flags, .sub, .cmds, .mule, .events, .fw]
  | .secondLookAttemptEnd .. | .retryTimeLimit .. =>
    [.chans, .bands, .cmds, .sched, .cache, .faults, .mule, .events]
  | .fwCommitKeep .. | .fwCommitNextReset .. | .fwCommitExisting .. | .fwCommitImmediate .. =>
    [.ports, .flags, .sub, .cmds, .mule, .recorder, .events, .fw]
  | .activationDrainDone .. =>
    [.chans, .cal, .sched, .cache, .mule, .dict, .events, .fw]
  | .sectorRead .. | .decodeComplete .. =>
    [.chans, .cal, .bands, .cmds, .sched, .cache, .faults, .mule, .events]
  | .getObject .. =>
    [.chans, .ports, .flags, .sub, .bms, .mule, .mgmt, .recorder, .events]
  | .activationResume =>
    [.power, .ports, .flags, .sub, .cmds, .bms, .cache, .values, .events, .fw]
  | .powerGood .. | .railRestored .. =>
    [.power, .straps, .clock, .tick, .ports, .flags, .mule, .values, .events, .fw, .freeCount]
  | .samWindowClose .. | .seekFault .. | .dataWindowOpen .. | .paFaultFall .. =>
    [.chans, .ports, .flags, .bands, .sub, .cmds, .sched, .cache, .faults, .mule, .events]
  | .memExceptionDataPlane =>
    [.power, .chans, .ports, .flags, .bands, .sub, .cmds, .sched, .cache, .faults, .events]
  | .channelCommitSwap .. =>
    [.chans, .heads, .cal, .ports, .flags, .bands, .mule, .values, .dict, .mgmt, .events]
  | .vaultTrigger .. =>
    [.power, .clock, .chans, .cal, .cmds, .sched, .cache, .values, .dict, .recorder, .events, .fw]
  | .monitorReadDone .. =>
    [.chans, .heads, .cal, .ports, .flags, .bands, .sub, .cmds, .sched, .cache, .faults, .mule, .events]
  | .unloadIdleExpired .. =>
    [.links, .chans, .cal, .ports, .flags, .bands, .sub, .cmds, .sched, .cache, .faults, .mule, .events]
  | .linkLoss .. =>
    [.power, .tick, .links, .chans, .ports, .flags, .bands, .sub, .cmds, .sched, .cache, .faults, .mule, .events]
  | .reacqLimitExpired .. =>
    [.links, .chans, .cal, .ports, .flags, .bands, .sub, .cmds, .sched, .cache, .faults, .mule, .events, .loadQueue]
  | .zoneMetadataLoadEnd .. | .loadTimeout .. | .linkLossLimit .. | .speedFaultLimit =>
    allBut [.straps, .clock, .tick, .counter, .heads, .env, .bms, .values, .dict, .mgmt, .recorder, .fw, .freeCount]
  | .faultFrame .. =>
    allBut [.straps, .counter, .heads, .env, .cal, .bms, .values, .dict, .mgmt, .recorder, .fw, .loadQueue, .freeCount]
  | .vaultRetract =>
    allBut [.straps, .clock, .tick, .counter, .heads, .env, .bms, .values, .dict, .mgmt, .fw, .loadQueue, .freeCount]
  | .phaseLimitExpired =>
    allBut [.straps, .clock, .tick, .counter, .env, .bms, .values, .dict, .mgmt, .recorder, .fw, .freeCount]
  | .indexLoss10s | .excursionVerifyDone .. | .repairDone .. | .calRunEnd .. | .ccEnable .. | .ccShutdown .. |
  .commandAdmission .. | .completionCommit .. | .completionPost .. | .flushCommit .. | .deleteIoSq .. | .abort .. |
  .setFeatPowerManagement .. | .setFeatVolatileWriteCache .. | .namespaceDelete .. | .formatNvm .. | .sanitizeOverwrite .. |
  .sanitizeOverwriteDone .. | .flush .. | .write .. | .read .. | .writeZeroes .. | .reservationRegister .. |
  .reservationReport .. | .reservationAcquire .. | .reservationRelease .. | .zoneClose .. | .zoneFinish .. | .zoneOpen .. |
  .zoneReset .. | .zoneOffline .. | .setZoneDescriptorExt .. | .reportZones .. | .extendedReportZones .. | .zoneAppend .. |
  .unsupportedIoOpcode .. | .allocWaitExpired .. =>
    allBut [.straps, .clock, .counter, .heads, .env, .bms, .values, .dict, .mgmt, .recorder, .fw, .freeCount]
  | .envDecision .. =>
    allBut [.straps, .clock, .tick, .counter, .heads, .bms, .values, .dict, .mgmt, .recorder, .fw, .freeCount]
  | .memExceptionMgmtPlane | .nandReadDone .. =>
    allBut [.straps, .clock, .tick, .counter, .links, .heads, .bms, .values, .recorder, .fw, .loadQueue, .freeCount]
  | .testresFrame .. =>
    allBut [.straps, .tick, .counter, .env, .bms, .values, .dict, .mgmt, .recorder, .fw, .freeCount]
  | .sectorOnMedia .. =>
    allBut [.straps, .clock, .counter, .env, .bms, .values, .dict, .mgmt, .recorder, .fw, .freeCount]
  | .calReqKindsWrite .. | .mbDoorbellWrite .. | .scrubEnableWrite .. | .ceTableClear .. | .cacheModeWrite .. |
  .dirtyLimitWrite .. | .captureCtrlWrite .. | .captureDecimWrite .. | .retireReqWrite .. | .unretireWrite .. | .oemRead .. |
  .oemProgram .. | .oemErase .. | .slotEraseWrite .. | .plarikGet .. | .plarikSet .. | .plarikDiscard .. | .plarikDescribe .. |
  .plarikNext .. | .plarikUnknownOp .. | .objectWrite .. | .discardWrite .. | .privEnterWrite .. | .ownerLockWrite .. |
  .nodeNumberWrite .. | .fwAbortWrite .. | .fwActionKeep .. | .fwActionNextReset .. | .fwActionExisting .. |
  .fwActionImmediate .. | .evtFreezeWrite .. | .evtModeWrite .. | .logSelectWrite .. =>
    allBut [.power, .straps, .clock, .tick, .counter, .links, .heads, .env, .sub, .sched, .loadQueue]
  | .ccDisable .. =>
    allBut [.straps, .clock, .counter, .heads, .env, .bms, .values, .mgmt, .recorder, .fw, .freeCount]
  | .bufferSlotGrant .. =>
    allBut [.straps, .clock, .tick, .counter, .links, .heads, .values, .recorder, .fw, .loadQueue, .freeCount]
  | .rebuildDone .. =>
    allBut [.straps, .clock, .counter, .heads, .env, .values, .dict, .mgmt, .recorder, .fw, .freeCount]
  | .replayEnd .. =>
    allBut [.straps, .tick, .counter, .env, .bms, .dict, .mgmt, .recorder, .fw, .freeCount]
  | .wedgeStrobe .. =>
    allBut [.straps, .counter, .env, .bms, .values, .dict, .mgmt, .recorder, .fw, .freeCount]
  | .perstAssert .. | .hotReset .. | .functionLevelReset .. | .linkDisable .. =>
    allBut [.straps, .clock, .counter, .heads, .env, .bms, .values, .recorder, .fw, .freeCount]
  | .vendorDiscard .. | .setObject .. =>
    allBut [.power, .straps, .clock, .tick, .counter, .links, .heads, .env, .sched, .loadQueue]
  | .plarikCommit .. | .commitWrite .. =>
    allBut [.power, .straps, .tick, .counter, .links, .heads, .env, .sub, .sched, .loadQueue]
  | .nvmSubsystemReset .. =>
    allBut [.straps, .clock, .counter, .heads, .env, .values, .recorder, .fw, .freeCount]
  | .vendorCommit .. =>
    allBut [.power, .straps, .tick, .counter, .links, .heads, .env, .sched, .loadQueue]
  | .mountEnd .. =>
    allBut [.straps, .clock, .tick, .counter, .env, .bms, .dict, .freeCount]
  | .tickBoundary =>
    allBut [.straps, .bms, .recorder, .fw, .freeCount]
  | .railUndervoltage .. | .porstAssert =>
    allBut [.straps, .freeCount]
  | .vaultRestart .. =>
    allBut []

/-! ## Reset and power good -/

/-- The commands that are a power-on reset of the whole device (spec 02, R60, R63, R70). -/
def isPowerOnReset : Instr → Bool
  | .porstAssert | .railUndervoltage _ | .vaultRestart _ => true
  | _ => false

/-- The events that a controller held in reset still sees: its rails, PORST_N, the PERST pins, PWRDIS and HOLD_SENSE (spec 02). -/
def isPin : Instr → Bool
  | .powerGood .. | .railUndervoltage _ | .railRestored .. | .porstAssert | .perstAssert _ | .perstDeassert _ | .pwrdisRise | .pwrdisFall
  | .holdSenseFall | .holdSenseRise => true
  | _ => false

/-- `t` is the whole device held in reset, `s` the state before: what runs is at its reset values, what the Mule holds is kept. -/
def HeldInReset (s t : State) : Prop :=
  t.power.running = false ∧ t.power.vault = .none ∧ t.chans = State.reset.chans ∧ t.links = State.reset.links ∧
    t.cmds = State.reset.cmds ∧ t.cache = State.reset.cache ∧ t.tick = State.reset.tick ∧ t.power.straps = s.power.straps ∧
    t.fw.slots = s.fw.slots ∧ t.fw.active = s.fw.active ∧ t.mgmt.lock = s.mgmt.lock ∧ t.evr.log = s.evr.log

/-- The image of slot `i` passes the boot ROM's check. -/
def slotPasses (b : BootCheck) (i : Fin 2) : Bool := if i = 0 then b.slotAOk else b.slotBOk

/-- `t` is what power good makes of `s` (spec 02, R62, R66; spec 03, R82). -/
def StartsUp (st : Straps) (b : BootCheck) (pwrdis : Bool) (s t : State) : Prop :=
  t.power.running = true ∧ t.power.straps = st ∧ t.power.pwrdis = pwrdis ∧ t.clock.cycles = s.clock.cycles + 1 ∧
    (b.memoriesOk = true → st.testMode = false →
      let a := s.fw.next.getD s.fw.active
      (slotPasses b a = true → t.power.phase = .boot ∧ t.fw.active = a) ∧
      (slotPasses b a = false → slotPasses b (1 - a) = true → t.power.phase = .boot ∧ t.fw.active = 1 - a) ∧
      (slotPasses b a = false → slotPasses b (1 - a) = false → t.power.phase = .recovery ∧ t.power.fault = 0x0201))

end Machine

end Sys2Proof
end

