-- ==== Sys2Proof/Certificates/Slice0/Obligations.lean ====
section
/-! DEFINITION. The statements about the model, for the provers: each says what the manual's rules give a command, a family of commands, or
every command. `Answers c s P` says that the command answers a next state that meets `P`. -/

open Sys2Proof Sys2Proof.Machine

/-- O1. A step runs the command at the front of the queue. With a command at the front of the queue, one step is exec of that
command on the state with the queue's rest; on an empty queue the block idles (the model's choice, log 1). -/
def Obligations.StepRunsTheFrontCommand : Prop :=
  ∀ s : State, (∀ c r, s.pending = c :: r → step s = exec c { s with pending := r }) ∧
    (s.pending = [] → step s = .next s)

/-- O2. Every command answers a next state and leaves the queue to the step. From every state every command of the table answers a
next state, never a fault or a refusal, and the commands that wait are not touched; a step takes exactly the front one. The
queue is the model's (log 1), a command that cannot arise changes nothing (log 3). -/
def Obligations.EveryCommandAnswersAndLeavesTheQueue : Prop :=
  (∀ (c : Instr) (s : State), Answers c s (fun t => t.pending = s.pending)) ∧
    ∀ (s : State) (c : Instr) (r : List Instr), s.pending = c :: r → ∃ t, step s = .next t ∧ t.pending = r

/-- O3. Every step keeps the buffer memory in its one form. If every channel of the buffer memory lists its words at rising rows and
no zero word, every step leaves it so. The one form is the model's (log 32), the words are the spec's. -/
def Obligations.EveryStepKeepsTheBufferWords : Prop :=
  ∀ s t : State, BufferWf s → step s = .next t → BufferWf t

/-- O4. Every step keeps the event recorder within its bounds. At most 4,096 records in the ring, at most 64 events in the boot
list, no REPT above 65,535 in the ring or in EVENT_LOG, and an open record that can still count one repeat: if a state is so,
every step leaves it so. -/
def Obligations.EveryStepKeepsTheRecorderInBounds : Prop :=
  ∀ s t : State, RecorderOk s.evr → step s = .next t → RecorderOk t.evr

/-- O5. The reset state meets both invariants. The reset state lists its buffer words in their one form and holds an event recorder
within its bounds. -/
def Obligations.ResetMeetsTheInvariants : Prop :=
  BufferWf State.reset ∧ RecorderOk State.reset.evr

/-- O6. What reset leaves. Right after reset: nothing runs, the tick generator is STOPPED with its counter at 0, no link is up,
every write gate and every write request is low, no actuator is loaded, STATUS and INT_ENABLE are zero and vector 65 is masked,
the staging copy is empty and has no owner, nothing is in the command queues. -/
def Obligations.ResetLeavesWhatTheSpecSays : Prop :=
  State.reset.power.running = false ∧ State.reset.tick.state = .stopped ∧ State.reset.tick.counter = 0 ∧
    (∀ k : LinkId, (State.reset.link k).up = false) ∧
    (∀ n : ChanId, (State.reset.wr n).wg = false ∧ (State.reset.wr n).request = false ∧ (State.reset.chan n).load = .unloaded) ∧
    (∀ p : PortId, (State.reset.port p).status = 0 ∧ (State.reset.port p).intEnable = 0 ∧ (State.reset.port p).masked65 = true ∧
      (State.reset.port p).rdy = false) ∧
    State.reset.dict.staged = [] ∧ State.reset.dict.owner = none ∧ State.reset.cmds.ctxs = [] ∧ State.reset.pending = []

/-- O7. The tick counter counts every boundary, and only power-on reset clears it. A tick boundary of the running controller adds
exactly one to the 64-bit tick counter, in every state of the generator and of the drive; no other command changes it, port
resets, subsystem resets and firmware activation among them, except the three that are a power-on reset, which clear it; and
both halves read in the unprivileged page of BAR2: TICK_LO, and TICK_HI, which a read of TICK_LO latches. -/
def Obligations.TickCounterCountsEveryBoundary : Prop :=
  (∀ s : State, s.power.running = true → s.power.dead = false → s.power.straps.testMode = false →
      Answers .tickBoundary s (fun t => t.tick.counter = s.tick.counter + 1)) ∧
    (∀ (c : Instr) (s t : State), exec c s = .next t → isPowerOnReset c = false → c ≠ .tickBoundary →
      t.tick.counter = s.tick.counter) ∧
    (∀ s : State, Answers .porstAssert s (fun t => t.tick.counter = 0)) ∧
    (∀ (s : State) (r : Rail), monitored r = true → s.power.railsLow.contains r = false →
      Answers (.railUndervoltage r) s (fun t => t.tick.counter = 0)) ∧
    (∀ (s : State) (b : BootCheck), (s.power.vault = .vaulted ∨ s.power.vault = .noVault) → s.power.holdLow = false →
      s.power.pwrdis = false → Answers (.vaultRestart b) s (fun t => t.tick.counter = 0)) ∧
    (∀ (s : State) (p : PortId), bar2Reg s p 0x0018 = s.tick.counter.toNat % 2 ^ 32) ∧
    (∀ (s : State) (p : PortId), s.live = true →
      Answers (.tickLoRead p) s (fun t => bar2Reg t p 0x001C = s.tick.counter.toNat / 2 ^ 32 ∧
        t = s.modPort p (fun q => { q with tickHi := (s.tick.counter >>> 32).truncate 32 })))

/-- O8. The frame: every command leaves every part of the state outside its table as it is. For every command of the table and every
state, each part of the state that the command's row of `touches` does not name is the same after it: the straps after every
command but those that start the controller up, the tick counter, the dictionary's values, the event recorder's records, the
buffer memory, the slot record and so on. The table counts in the work that goes on with the command (a shutdown, loads, flags,
events), so it is an upper bound, the model's own. -/
def Obligations.EveryCommandLeavesTheOtherPartsAlone : Prop :=
  ∀ (c : Instr) (s t : State) (p : Part), exec c s = .next t → (touches c).contains p = false → SamePart p s t

/-- O9. While the controller is held in reset only its pins act. While the controller does not run and no vault is in progress,
every command but a level of a reset, power or vault pin leaves the whole state as it is (R60, R63; that the rest is no effect
is log 3). -/
def Obligations.HeldInResetNothingAnswers : Prop :=
  ∀ (c : Instr) (s : State), s.power.running = false → s.power.vault = .none → (∀ n, (s.wr n).request = false) → isPin c = false →
      exec c s = .next s

/-- O10. PORST_N low, and a monitored rail below 90 %, reset the whole device. PORST_ASSERT, and RAIL_UNDERVOLTAGE of a monitored
rail, stop the controller, abandon a vault in progress, return the channels, the links, the commands, the cache and the tick
generator to their reset state, and keep what the Mule holds: the slot record, the owner lock and EVENT_LOG; the straps keep
their last sample (R66). A rail that is not monitored, or is low already, changes nothing. -/
def Obligations.PorstAndUndervoltageHoldTheDeviceInReset : Prop :=
  (∀ s : State, Answers .porstAssert s (fun t => HeldInReset s t ∧ t.power.porst = false ∧ t.power.railsLow = s.power.railsLow)) ∧
    (∀ (s : State) (r : Rail), monitored r = true → s.power.railsLow.contains r = false →
      Answers (.railUndervoltage r) s (fun t => HeldInReset s t ∧ t.power.porst = s.power.porst ∧
        t.power.railsLow = s.power.railsLow ++ [r])) ∧
    (∀ (s : State) (r : Rail), monitored r = false ∨ s.power.railsLow.contains r = true → exec (.railUndervoltage r) s = .next s)

/-- O11. Power good starts the controller: the straps, the image, BOOT or RECOVERY. POWER_GOOD with every monitored rail good
samples the straps and PWRDIS and counts a power cycle; the slot that a pending activation names, else the active one, is run if
it passes the check (BOOT), else the other one, and with neither RECOVERY begins with code 0x0201. RAIL_RESTORED of the last low
rail, and VAULT_RESTART after the commit record, start the same way with the straps sampled before; with another rail still low,
RAIL_RESTORED only notes its rail. -/
def Obligations.PowerGoodSamplesTheStrapsAndStartsBoot : Prop :=
  (∀ (s : State) (st : Straps) (b : BootCheck) (pw : Bool), s.power.running = false → s.power.railsLow = [] →
      Answers (.powerGood st b pw) s (fun t => StartsUp st b pw { s with power.porst := true } t)) ∧
    (∀ (s : State) (st : Straps) (b : BootCheck) (pw : Bool), s.power.running = false → s.power.railsLow ≠ [] →
      exec (.powerGood st b pw) s = .next { s with power.porst := true, power.straps := st }) ∧
    (∀ (s : State) (r : Rail) (b : BootCheck), s.power.railsLow = [r] → s.power.porst = true → s.power.running = false →
      Answers (.railRestored r b) s (fun t => StartsUp s.power.straps b s.power.pwrdis { s with power.railsLow := [] } t)) ∧
    (∀ (s : State) (r : Rail) (b : BootCheck), s.power.railsLow.contains r = true → s.power.railsLow.filter (· ≠ r) ≠ [] →
      exec (.railRestored r b) s = .next { s with power.railsLow := s.power.railsLow.filter (· ≠ r) }) ∧
    (∀ (s : State) (b : BootCheck), (s.power.vault = .vaulted ∨ s.power.vault = .noVault) → s.power.holdLow = false →
      s.power.pwrdis = false → Answers (.vaultRestart b) s (fun t => StartsUp s.power.straps b false (porReset s) t))

/-- O12. HOLD_SENSE and PWRDIS: timers, and dips that are counted. A fall of HOLD_SENSE starts the trip timer; a rise before the
trigger ends it and counts the dip, and one in reset is only followed; PWRDIS high starts its timer once it has been seen low
while the controller runs; PWRDIS low stops it. Nothing else changes. -/
def Obligations.HoldSenseAndPwrdisPinsRunTheirTimers : Prop :=
  ∀ s : State,
    exec .holdSenseFall s = .next { s with power.holdLow := true } ∧
    (s.power.running = false → exec .holdSenseRise s = .next { s with power.holdLow := false }) ∧
    (s.power.running = true → s.power.holdLow = true → s.power.vault = .none →
      exec .holdSenseRise s = .next { s with power.holdLow := false, power.dips := s.power.dips + 1 }) ∧
    exec .pwrdisRise s = .next { s with power.pwrdis := true, power.pwrdisTimer := s.power.running && s.power.pwrdisSeenLow } ∧
    exec .pwrdisFall s = .next { s with power.pwrdis := false, power.pwrdisTimer := false, power.pwrdisSeenLow := true }

/-- O13. A vault trigger stops fetching and placing; at t0 + 20 µs every gate is low and every actuator retracts. VAULT_TRIGGER with
the timer of its source run out: the vault is triggered (before SPIN_WAIT none is written), HPC fetches nothing, the staging
copy is discarded and its lock released, the assembly buffer is emptied; a second trigger, and a rise of HOLD_SENSE, do not stop
it. VAULT_RETRACT then leaves every write gate and request low and every actuator unloaded. -/
def Obligations.VaultTriggerStopsThePlanes : Prop :=
  (∀ (s : State) (b : Bool), s.live = true → vaultDue s b = true → Answers (.vaultTrigger b) s (fun t =>
      t.power.vault = (if s.power.phase = .boot ∨ s.power.phase = .mount ∨ s.power.phase = .replay ∨ s.power.phase = .recovery
        then .noVault else .triggered) ∧
      t.power.vaultAt = s.clock.ns ∧ t.power.vaultByPwrdis = b ∧ t.cmds.fetchStopped = true ∧ t.live = false ∧
      t.dict.staged = [] ∧ t.dict.owner = none ∧ t.fw.assembly = [])) ∧
    (∀ (s : State) (b : Bool), s.power.vault ≠ .none → exec (.vaultTrigger b) s = .next s) ∧
    (∀ s : State, s.power.vault ≠ .none → Answers .holdSenseRise s (fun t => t.power.vault = s.power.vault ∧ t.power.dips = s.power.dips)) ∧
    (∀ s : State, s.power.vault = .triggered → Answers .vaultRetract s (fun t =>
      ∀ n : ChanId, (t.wr n).wg = false ∧ (t.wr n).request = false ∧ (t.chan n).load = .unloaded))

/-- O14. The buffer initialiser: self-test, training, fill, and MOUNT. A self-test passed leads to training, training done to the
fill, the fill done to a ready buffer and from BOOT to MOUNT; the first step of the self-test that fails (a case that is not as
Table 12.3 requires, the check symbols, the signature or the sum), or a channel that does not train, ends start-up in FAILED
with code 0x0301 and its fault code 0x11 to 0x16 or 0x20 to 0x23. -/
def Obligations.BufferInitialiserRunsItsSteps : Prop :=
  ∀ s : State, s.live = true →
    (∀ r : SelftestReading, s.bms.stage = .selfTest → (∀ k : Fin 6, selfTestFails r k = false) →
      exec (.bufferSelftest r) s = .next { s with bms.stage := .training }) ∧
    (∀ (r : SelftestReading) (k : Fin 6), s.bms.stage = .selfTest → selfTestFails r k = true →
      (∀ j : Fin 6, j.val < k.val → selfTestFails r j = false) → Answers (.bufferSelftest r) s (fun t =>
      t.power.phase = .failed ∧ t.power.fault = 0x0301 ∧ t.bms.stage = .failed ∧ t.bms.fault = BitVec.ofNat 8 (0x11 + k.val))) ∧
    (s.bms.stage = .training → exec .bufferTrainingDone s = .next { s with bms.stage := .fill }) ∧
    (∀ c : Fin 4, s.bms.stage = .training → Answers (.bufferTrainingTimeout c) s (fun t =>
      t.power.phase = .failed ∧ t.power.fault = 0x0301 ∧ t.bms.stage = .failed ∧ t.bms.fault = BitVec.ofNat 8 (0x20 + c.val))) ∧
    (s.bms.stage = .fill → s.power.phase = .boot → Answers .bufferFillDone s (fun t =>
      t.bms.stage = .ready ∧ t.power.phase = .mount ∧ t.bms.initTime = min 65535 (s.clock.ns / 1000)))

/-- O15. The ends of MOUNT, of REPLAY and of the zone metadata load. MOUNT_END in MOUNT, with a copy of SYSTEM that decodes and by
its tables 3,300 good blocks on each die, completes with the Mule mounted and scanned, its time noted, every enabled controller
without CFS ready, and the phase REPLAY with a vault to replay, else SPIN_WAIT; with no copy that decodes, or with fewer good
blocks on a die, start-up ends in FAILED with code 0x0401 and the cache OFF. REPLAY_END in REPLAY completes with SPIN_WAIT
entered at its time; with a vault that it replayed nothing is left to replay, the region is REPLAYED with its marker, the other
region is ERASED and the time it took is kept. ZONE_METADATA_LOAD_END of a mounted Mule, outside REPLAY and FAILED, completes
with the load done, and READY entered from ZONE_LOAD, if the checkpoint is readable; if it is not, start-up ends in FAILED with
code 0x0901. In another phase MOUNT_END and REPLAY_END change nothing (log 3). -/
def Obligations.MountReplayAndZoneLoadEnd : Prop :=
  (∀ (s : State) (r : MountReading) (c : SystemCopy), s.live = true → s.power.phase = .mount → systemCopy r s = some c →
      (∀ d : Fin 2, 3300 ≤ goodBlocks (factoryScan r (takeSystem c s)) d) →
      Answers (.mountEnd r) s (fun t => t.mule.mounted = true ∧ t.mule.scanned = true ∧ t.power.mountEndAt = s.clock.ns ∧
        t.power.phaseStart = s.clock.ns ∧ t.power.phase = (if t.mule.replaying.isSome then .replay else .spinWait) ∧
        t.power.zoneLoadDone = s.power.zoneLoadDone ∧
        ∀ p, (t.port p).rdy = ((s.port p).rdy || ((s.port p).en && !(s.port p).cfs)))) ∧
    (∀ (s : State) (r : MountReading), s.live = true → s.power.phase = .mount →
      (systemCopy r s = none ∨ ∃ c, systemCopy r s = some c ∧ ∃ d : Fin 2, goodBlocks (factoryScan r (takeSystem c s)) d < 3300) →
      Answers (.mountEnd r) s (fun t => t.power.phase = .failed ∧ t.power.fault = 0x0401 ∧ t.cache.mode = .off ∧ t.mule.mounted = s.mule.mounted)) ∧
    (∀ (s : State) (r : MountReading), s.power.phase ≠ .mount → exec (.mountEnd r) s = .next s) ∧
    (∀ (s : State) (r : ReplayReading), s.live = true → s.power.phase = .replay →
      Answers (.replayEnd r) s (fun t => t.power.phase = .spinWait ∧ t.power.phaseStart = s.clock.ns ∧ t.clock.ns = s.clock.ns)) ∧
    (∀ (s : State) (r : ReplayReading) (i : Fin 2) (v : VaultImage), s.live = true → s.power.phase = .replay →
      s.mule.replaying = some i → s.mule.regions[i].image = some v →
      Answers (.replayEnd r) s (fun t => t.power.phase = .spinWait ∧ t.mule.replaying = none ∧ t.mule.regions[i].state = .replayed ∧
        t.mule.regions[i].marker = true ∧ t.mule.regions[1 - i].state = .erased ∧ t.mule.regions[1 - i].image = none ∧
        t.mule.lastReplayUs = (s.clock.ns - s.power.phaseStart) / 1000)) ∧
    (∀ (s : State) (r : ReplayReading), s.power.phase ≠ .replay → exec (.replayEnd r) s = .next s) ∧
    (∀ (s : State) (r : ZoneLoadReading), s.live = true → s.power.zoneLoadDone = false → s.mule.mounted = true →
      s.power.phase ≠ .replay → s.power.phase ≠ .failed →
      (r.checkpointOk = true → Answers (.zoneMetadataLoadEnd r) s (fun t => t.power.zoneLoadDone = true ∧
        t.power.phase = (if s.power.phase = .zoneLoad then .ready else s.power.phase))) ∧
      (r.checkpointOk = false → Answers (.zoneMetadataLoadEnd r) s (fun t => t.power.phase = .failed ∧ t.power.fault = 0x0901)))

/-- O16. Spin-up attempts: SPIN at the instant, one more attempt after a failure, then FAILED. At the spin-up instant SPIN with
command 1 at the set speed is queued on the spindle link and SPIN_UP begins; on a link that is not up the attempt fails at once.
A first timeout brakes (SPIN with command 2 queued); a second ends start-up in FAILED with code 0x0501. -/
def Obligations.SpinUpAttemptsAndTheirFailures : Prop :=
  (∀ s : State, s.live = true → s.power.phase = .spinWait → spinUpReady s = true → (s.link (spindleLink s)).up = true →
      Answers .spinUpInstant s (fun t => t.power.phase = .spinUp ∧ t.tick.ramp = true ∧
        Sends s t (spindleLink s) (.spin 1 (setRpm s)))) ∧
    (∀ s : State, s.live = true → s.power.phase = .spinWait → spinUpReady s = true → (s.link (spindleLink s)).up = false →
      s.power.attempts = 0 → Answers .spinUpInstant s (fun t => t.power.attempts = 1 ∧ t.power.braking = true)) ∧
    (∀ s : State, s.live = true → s.tick.ramp = true → s.power.braking = false → s.power.attempts = 0 →
      Answers .spinupTimeout s (fun t => t.power.attempts = 1 ∧ t.power.braking = true ∧ t.tick.ramp = false ∧
        Sends s t (spindleLink s) (.spin 2 (setRpm s)))) ∧
    (∀ s : State, s.live = true → s.tick.ramp = true → s.power.braking = false → 1 ≤ s.power.attempts →
      Answers .spinupTimeout s (fun t => t.power.phase = .failed ∧ t.power.fault = 0x0501))

/-- O17. The repeated hold-up check, actuator loads, and the limits of the phases. A repeat of the hold-up check queues HOLDTEST on
ADL 0. A load starts the next actuator of the queue in REACQUIRE; a load not complete in time retracts it and queues it again up
to two times more. BOOT and MOUNT past their limit end in FAILED with code 0x0B01; REPLAY past its limit only records the code;
the zone metadata load past its limit ends start-up with code 0x0902. -/
def Obligations.HoldupCheckLoadsAndPhaseLimits : Prop :=
  (∀ s : State, s.live = true → s.tick.state = .locked → s.power.holdTesting = false → s.power.phase ≠ .holdupCheck →
      s.power.holdupPassed = false → Answers .holdupCheckRepeat s (fun t => t.power.holdTesting = true ∧
        Sends s t 0 (.holdtest (cfg s 0x7010 5)))) ∧
    (∀ (s : State) (n : ChanId) (r : List ChanId), s.live = true → s.loadQueue = n :: r → s.dict.unvalidated = false →
      s.power.restarting = false → s.power.speedChange ≠ .ramping → Answers .actuatorLoadStart s (fun t => t.loadQueue = r ∧ (t.chan n).load = .beforeSam ∧
        (t.ce n).mode = .reacquire ∧ (t.sdm n).reacq = true ∧ (t.sdm n).goodRun = 0 ∧ ∀ m, m ≠ n → t.chan m = s.chan m)) ∧
    (∀ (s : State) (n : ChanId), s.live = true → (s.chan n).load ≠ .unloaded → (s.chan n).load ≠ .loaded →
      (s.chan n).loadFails < 2 → Answers (.loadTimeout n) s (fun t => (t.chan n).load = .unloaded ∧
        (t.chan n).loadFails = (s.chan n).loadFails + 1 ∧ n ∈ t.loadQueue)) ∧
    (∀ s : State, s.live = true → zoneLoadLate s = true →
      Answers .phaseLimitExpired s (fun t => t.power.phase = .failed ∧ t.power.fault = 0x0902)) ∧
    (∀ s : State, s.live = true → zoneLoadLate s = false → phaseLate s = true → (s.power.phase = .boot ∨ s.power.phase = .mount) →
      Answers .phaseLimitExpired s (fun t => t.power.phase = .failed ∧ t.power.fault = 0x0B01)) ∧
    (∀ s : State, s.live = true → zoneLoadLate s = false → phaseLate s = true → s.power.phase = .replay →
      Answers .phaseLimitExpired s (fun t => t.power.phase = .replay ∧ t.power.fault = 0x0B01))

/-- O18. Vector 65: when a message is requested, held pending, and sent. A flag set by the hardware asks for a vector 65 message on
a port exactly when it takes INT_CAUSE from zero to nonzero; a write of STATUS or of INT_ENABLE asks for one exactly when
INT_CAUSE is nonzero after it. A request while the vector is masked sets the pending bit and sends nothing; while it is not
masked it sends one message. MSIX_UNMASK of it sends one message if the bit is pending, and clears the bit, and likewise for
each vector of the completion queues. -/
def Obligations.VendorInterruptMessages : Prop :=
  (∀ (f : Flag) (s : State) (p : PortId), ((setFlag f s).port p).status = (s.port p).status ||| (1 <<< f.bit) ∧
      Asked (intCause (s.port p) = 0 ∧ intCause ((setFlag f s).port p) ≠ 0) (s.port p) ((setFlag f s).port p)) ∧
    (∀ (s : State) (p : PortId) (v now : Word32), s.live = true → Answers (.statusWrite p v now) s (fun t =>
      (t.port p).status = ((s.port p).status &&& ~~~v) ||| (now &&& statusMask) ∧
      Asked (intCause (t.port p) ≠ 0) (s.port p) (t.port p))) ∧
    (∀ (s : State) (p : PortId) (v : Word32), s.live = true → Answers (.intEnableWrite p v) s (fun t =>
      (t.port p).intEnable = v &&& statusMask ∧ Asked (intCause (t.port p) ≠ 0) (s.port p) (t.port p) ∧
      ∀ x, x ≠ p → t.port x = s.port x)) ∧
    (∀ (s : State) (p : PortId) (v : Fin 66), s.live = true → v ≠ 65 → Answers (.msixUnmask ⟨p, v⟩) s (fun t =>
      (t.port p).masked64.getLsbD v.val = false ∧ (t.port p).pending64.getLsbD v.val = false ∧
      (t.port p).msgs64 = (s.port p).msgs64 ++ (if (s.port p).pending64.getLsbD v.val then [v.val] else []) ∧
      (t.port p).msgs65 = (s.port p).msgs65 ∧ ∀ x, x ≠ p → t.port x = s.port x)) ∧
    ∀ (s : State) (p : PortId), s.live = true → Answers (.msixUnmask ⟨p, 65⟩) s (fun t =>
      (t.port p).masked65 = false ∧ (t.port p).pending65 = false ∧
      (t.port p).msgs65 = (s.port p).msgs65 + (if (s.port p).pending65 then 1 else 0) ∧ (t.port p).status = (s.port p).status ∧
      ∀ x, x ≠ p → t.port x = s.port x)

/-- O19. A Gray value without erasures is converted from bit 21 down. Of 22 decided bits, the most significant first, bit i of the
binary value is the exclusive or of the Gray bits 21 down to i, and no higher bit is set; a track-number field without an
erasure has this value as its one candidate. -/
def Obligations.GrayCodeGivesTheTrackNumber : Prop :=
  ∀ g : List Bool, g.length = 22 → trackCandidates (g.map some) = [grayValue g] ∧ grayValue g < 2 ^ 22 ∧
      ∀ i < 22, (grayValue g).testBit i = (g.take (22 - i)).foldl (fun a b => a != b) false

/-- O20. A frame whose CRC fails or whose SEQ does not follow is discarded and counted. An upstream frame of any type that is not
valid changes the count of bad frames of its link by one, and, where its CRC holds, the SEQ that is expected next (log 24); the
time within the tick is the frame's; nothing else changes, and its payload has no effect. -/
def Obligations.LinkFramesThatAreNotValidOnlyCount : Prop :=
  ∀ (k : LinkId) (f : UpFrame) (s : State) (c : Instr) (type : Nat),
    (c, type) ∈ [(Instr.adlIdleFrame k f, 0), (.indexFrame k f, 8), (.bemfFrame k f, 9), (.faultFrame k f, 10), (.storeFrame k f, 11),
      (.testresFrame k f, 12)] → s.power.running = true → frameValid s k type f = false →
    exec c s = .next ({ s with clock.sub := max s.clock.sub f.atNs }.modLink k (fun l => { l with badFrames := l.badFrames + 1, rxSeq := if frameCrcOk type f then some (f.seq + 1) else l.rxSeq }))

/-- O21. A valid frame makes its link up and has the effect of its type. A frame whose CRC holds and whose SEQ follows completes
with its link up and the next SEQ expected. INDEX shows the revolution count, and on the spindle link gives the index edge at
the frame's time less the offset it carries: an edge that is no glitch is the last edge, and in LOCKED the time since the one
before is the revolution measured; a glitch is only counted. BEMF shows speed and flags, and on the spindle link the stop. STORE
of link 0 shows the two voltages. FAULT shows its code and takes the slots of its mask off track. TESTRES of link 0 ends the
hold-up check that was asked for, with its capacitance, its energy and its verdict, and the start-up's check with HEAD_LOAD. -/
def Obligations.LinkFramesThatAreValidAct : Prop :=
  ∀ (k : LinkId) (f : UpFrame) (s : State), s.live = true →
    (frameValid s k 0 f = true → exec (.adlIdleFrame k f) s = .next (heard k f s) ∧ Answers (.adlIdleFrame k f) s (fun t =>
      (t.link k).up = true ∧ (t.link k).lost = false ∧ (t.link k).rxSeq = some (f.seq + 1) ∧ t.power = s.power)) ∧
    (frameValid s k 8 f = true → k ≠ spindleLink s → exec (.indexFrame k f) s =
      .next ((heard k f s).modLink k (fun l => { l with revCount := BitVec.ofNat 16 (f.payload.toNat / 65536) }))) ∧
    (frameValid s k 8 f = true → k = spindleLink s → isGlitch s (s.clock.ns + f.atNs - f.payload.toNat % 65536) = false →
      Answers (.indexFrame k f) s (fun t => (t.link k).up = true ∧ (t.link k).rxSeq = some (f.seq + 1) ∧
        (t.link k).revCount = BitVec.ofNat 16 (f.payload.toNat / 65536) ∧
        t.tick.lastEdge = some (s.clock.ns + f.atNs - f.payload.toNat % 65536) ∧ t.tick.glitches = s.tick.glitches ∧
        ∀ e, s.tick.state = .locked → s.tick.indexLost = false → s.tick.lastEdge = some e →
          t.tick.lastRev = some (s.clock.ns + f.atNs - f.payload.toNat % 65536 - e))) ∧
    (frameValid s k 8 f = true → k = spindleLink s → isGlitch s (s.clock.ns + f.atNs - f.payload.toNat % 65536) = true →
      Answers (.indexFrame k f) s (fun t => (t.link k).up = true ∧ t.tick = { s.tick with glitches := s.tick.glitches + 1 })) ∧
    (frameValid s k 9 f = true → (k ≠ spindleLink s ∨ (f.payload.toNat / 65536) % 2 = 0) → exec (.bemfFrame k f) s =
      .next ((heard k f s).modLink k (fun l => { l with bemfSpeed := BitVec.ofNat 16 (f.payload.toNat % 65536), bemfFlags := BitVec.ofNat 16 (f.payload.toNat / 65536) }))) ∧
    (frameValid s k 9 f = true → k = spindleLink s → (f.payload.toNat / 65536) % 2 = 1 → s.power.braking = false →
      Answers (.bemfFrame k f) s (fun t => t.tick.next = (if s.tick.state = .stopped then none else some .stopped) ∧
        (t.link k).bemfFlags = BitVec.ofNat 16 (f.payload.toNat / 65536))) ∧
    (frameValid s k 11 f = true → k = 0 → exec (.storeFrame k f) s = .next { heard k f s with power.storeMv := f.payload.toNat % 65536, power.inputVolts := f.payload.toNat / 65536 } ∧
      Answers (.storeFrame k f) s (fun t => t.power.storeMv = f.payload.toNat % 65536 ∧ t.power.inputVolts = f.payload.toNat / 65536 ∧
        (t.link k).up = true ∧ (t.link k).rxSeq = some (f.seq + 1))) ∧
    (frameValid s k 11 f = true → k ≠ 0 → exec (.storeFrame k f) s = .next (heard k f s)) ∧
    (frameValid s k 10 f = true → s.power.phase ≠ .spinUp → Answers (.faultFrame k f) s (fun t =>
      (t.link k).up = true ∧ (t.link k).faultCode = BitVec.ofNat 16 (f.payload.toNat % 65536) ∧
      ∀ n ∈ chansOf k, (f.payload.toNat / 65536).testBit (n.val % 4) = true →
        (t.sdm n).onTrack = false ∧ (t.sdm n).faultAt = some (s.clock.ns + f.atNs))) ∧
    (frameValid s k 12 f = true → s.power.holdTesting = true → k = 0 → Answers (.testresFrame k f) s (fun t =>
      (t.link k).up = true ∧ t.power.holdTesting = false ∧ t.power.phase ≠ .holdupCheck ∧
      t.power.holdupCap = holdupCapOf s.power.storeMv (f.payload.toNat / 65536) (f.payload.toNat % 65536) ∧
      t.power.holdupEnergy = holdupEnergyOf s s.power.storeMv (f.payload.toNat / 65536) (f.payload.toNat % 65536) ∧
      t.power.holdupPassed = holdupSuffices s s.power.storeMv (f.payload.toNat / 65536) (f.payload.toNat % 65536))) ∧
    (frameValid s k 12 f = true → (s.power.holdTesting = false ∨ k ≠ 0) → exec (.testresFrame k f) s = .next (heard k f s))

/-- O22. The hold-up check: energy, capacitance, and what its end does. From the store voltages at the begin and the end and the
energy drawn, the check estimates the capacitance and the energy the store can deliver down to VAULT_VMIN; it passes exactly
when that energy, taken exactly, covers HOLDUP_POWER over HOLDUP_TIME. Whether it passes or fails, the test has ended and its
figures are kept; a failed check leaves the hold-up not passed. -/
def Obligations.HoldupCheckIsJudgedByItsEnergy : Prop :=
  ∀ (vs ve e : Nat) (s : State),
    (holdupJudge vs ve e s).power.holdupCap = holdupCapOf vs ve e ∧
    (holdupJudge vs ve e s).power.holdupEnergy = holdupEnergyOf s vs ve e ∧
    (holdupJudge vs ve e s).power.holdTesting = false ∧
    ((holdupJudge vs ve e s).power.holdupPassed = true ↔ (ve < vs ∧ cfg s 0x7010 1 ≤ vs ∧
      cfg s 0x7010 3 * cfg s 0x7010 4 * (vs * vs - ve * ve) ≤ e * (vs * vs - cfg s 0x7010 1 * cfg s 0x7010 1) * cfg s 0x7010 2)) ∧
    (ve < vs → cfg s 0x7010 1 < vs → holdupEnergyOf s vs ve e =
      e * (vs * vs - cfg s 0x7010 1 * cfg s 0x7010 1) * cfg s 0x7010 2 / ((vs * vs - ve * ve) * 100))

/-- O23. The loss of a link, and its limit. LINK_LOSS of a link that is up takes it down; no link frame is expected in sequence any
more, and the other link stays as it is. LINK_LOSS_LIMIT of a link that is lost charges each fitted channel of it, once for this
loss; on the spindle link the drive restarts. Loss of a link that is not up, and a limit charged before, change nothing. -/
def Obligations.LinkLossAndItsLimit : Prop :=
  ∀ (k : LinkId) (s : State), s.live = true →
    ((s.link k).up = true → (k ≠ spindleLink s ∨ s.power.phase ≠ .spinUp) → Answers (.linkLoss k) s (fun t =>
      (t.link k).up = false ∧ (t.link k).lost = true ∧ (t.link k).charged = false ∧ (t.link k).rxSeq = none ∧
      ∀ j, j ≠ k → (t.link j).up = (s.link j).up ∧ (t.link j).lost = (s.link j).lost)) ∧
    ((s.link k).up = false → exec (.linkLoss k) s = .next s) ∧
    ((s.link k).lost = true → (s.link k).charged = false → ∃ u, exec (.linkLossLimit k) s =
        .next (if k = spindleLink u then driveRestart u else u) ∧
      u = ((chansOf k).filter (chanFitted s)).foldl (fun s n => charge .linkLoss (.channel n) false 0 s)
        (s.modLink k (fun l => { l with charged := true }))) ∧
    ((s.link k).lost = true → (s.link k).charged = false → Answers (.linkLossLimit k) s (fun t => (t.link k).charged = true ∧
      (t.link k).lost = true ∧ (k = spindleLink s → s.power.phase = .ready → s.power.restarting = false → t.power.restarting = true ∧
        ∀ n, chanFitted s n = true → (t.chan n).load = .unloaded))) ∧
    ((s.link k).charged = true → exec (.linkLossLimit k) s = .next s)

/-- O24. Loss of the index: SUBSTITUTE, HOLDOVER, and the restart of the drive. INDEX_LOSS from LOCKED goes to SUBSTITUTE with the
lowest-numbered channel that qualifies as the reference, else to HOLDOVER, and from ACQUIRE to HOLDOVER, at the next boundary;
SUBSTITUTE_LOSS goes to HOLDOVER; INDEX_LOSS_10S is counted once, and in HOLDOVER the drive restarts; SPEED_FAULT_LIMIT of a
speed fault restarts it. A restart is counted, brakes the spindle and unloads every fitted actuator. -/
def Obligations.IndexAndSpeedLossesStartTheirFallbacks : Prop :=
  ∀ s : State, s.live = true →
    (s.tick.indexLost = false → s.tick.state ≠ .stopped → Answers .indexLoss s (fun t =>
      t.tick.indexLost = true ∧ t.tick.lostAt = s.clock.ns ∧ t.tick.state = s.tick.state ∧
      (s.tick.state = .locked → ∀ n, referenceActuator s = some n → t.tick.next = some .substitute ∧ t.tick.refAct = n) ∧
      (s.tick.state = .locked → referenceActuator s = none → t.tick.next = some .holdover) ∧
      (s.tick.state = .acquire → t.tick.next = some .holdover))) ∧
    (s.tick.state = .substitute → exec .substituteLoss s = .next { s with tick.next := some .holdover }) ∧
    (s.tick.indexLost = true → s.tick.lost10s = false → Answers .indexLoss10s s (fun t => t.tick.lost10s = true ∧
      t.faults.indexLosses = s.faults.indexLosses + 1 ∧
      (s.tick.state = .holdover → s.power.phase = .ready → s.power.restarting = false → t.power.restarting = true ∧
        t.faults.driveRestarts = s.faults.driveRestarts + 1 ∧ ∀ n, chanFitted s n = true → (t.chan n).load = .unloaded))) ∧
    (s.tick.speedFault = true → s.power.phase = .ready → s.power.restarting = false → Answers .speedFaultLimit s (fun t =>
      t.power.restarting = true ∧ t.power.braking = true ∧ t.faults.driveRestarts = s.faults.driveRestarts + 1 ∧
      ∀ n, chanFitted s n = true → (t.chan n).load = .unloaded)) ∧
    (s.tick.speedFault = false → exec .speedFaultLimit s = .next s)

/-- O25. A late pass of Sheepdog is discarded, counted and recorded. SHEEPDOG_PASS_LATE withdraws the decisions that this tick's
pass made, counts in PASS_LATE and raises event 0x2001 with the tick counter; a second one in the same tick changes nothing. -/
def Obligations.SheepdogPassLateWithdrawsThePass : Prop :=
  ∀ s : State, s.live = true →
    (s.sched.passLateNow = false → placementStopped s = false → Answers .sheepdogPassLate s (fun t =>
      t.sched.fresh = [] ∧ t.sched.passLateNow = true ∧ t.sched.passLate = s.sched.passLate + 1 ∧
      t = raise (event 0x2001 1 srcController 0 s.tick.counter.toNat) { s.sched.fresh.foldl withdrawDecision s with sched.fresh := [], sched.ahead := .replicate 8 none, sched.passLateNow := true, sched.passLate := s.sched.passLate + 1 })) ∧
    (s.sched.passLateNow = true → exec .sheepdogPassLate s = .next s)

/-- O26. A wedge strobe, a window without an address mark, and the end of REACQUIRE's time. A strobe of an actuator that is not
unloaded is sensed and given to its servo demodulator and engine: it completes with the next record number, and, unless a load
is lost by its fourth miss, the wedge taken at this tick. A window that closes ends the write gate, and without a qualified
address mark withdraws on-track; at REACQUIRE's limit the loaded actuator is retracted and waits for its load again. An unloaded
actuator gives no strobe. -/
def Obligations.WedgeStrobesAndTheirWindow : Prop :=
  ∀ (n : ChanId) (f : ServoField) (s : State), s.live = true →
    (unloaded s n = false → exec (.wedgeStrobe n f) s = .next (strobe n f (atOffset f.phaseNs s)) ∧
      Answers (.wedgeStrobe n f) s (fun t => (t.sdm n).seq = (s.sdm n).seq + 1 ∧ t.tick.number = s.tick.number ∧
        ((s.sdm n).missRun < 3 → (t.sdm n).lastTick = some s.tick.number))) ∧
    (unloaded s n = true → exec (.wedgeStrobe n f) s = .next s ∧ exec (.samWindowClose n f) s = .next s) ∧
    (unloaded s n = false → qualifiedPeaks s n f = [] → (s.wr n).levelPending = none → Answers (.samWindowClose n f) s (fun t =>
      (t.sdm n).onTrack = false ∧ (t.wr n).wg = false ∧ (t.wr n).request = false ∧ ∀ j, j ≠ n → t.sdm j = s.sdm j)) ∧
    (unloaded s n = false → qualifiedPeaks s n f ≠ [] → (s.wr n).levelPending = none → (s.wr n).armed = false →
      exec (.samWindowClose n f) s = .next (s.modWr n (fun w => { w with wg := false }))) ∧
    ((s.sdm n).reacq = true → (s.chan n).load = .loaded → chanServes s n = true → Answers (.reacqLimitExpired n) s (fun t =>
      (t.chan n).load = .unloaded ∧ n ∈ t.loadQueue ∧ (t.chan n).reloadOf = some (s.sdm n).head))

/-- O27. What a wedge's sample leaves in the servo demodulator. The position is the sample's; a GOOD sample ends the run of misses,
any other lengthens it by one and is counted and raised; the travel coasts on without a position; REACQUIRE ends exactly at a
GOOD sample; the tick of the wedge is noted. The other actuators' demodulators stay as they are. -/
def Obligations.AStrobeLeavesItsSampleInTheDemodulator : Prop :=
  ∀ (n : ChanId) (f : ServoField) (m : Sample) (s : State),
    let t := sdmStrobe n f m s
    (t.sdm n).pos = m.pos ∧ (t.sdm n).wedge = m.wedge ∧
    (t.sdm n).missRun = (if m.cls = .good then 0 else (s.sdm n).missRun + 1) ∧
    (t.sdm n).missed = (s.sdm n).missed + (if m.cls = .good then 0 else 1) ∧
    (t.sdm n).goodRun = (if m.cls = .good then (s.sdm n).goodRun + 1 else 0) ∧
    (t.sdm n).reacq = ((s.sdm n).reacq && decide (m.cls ≠ .good)) ∧
    (m.cls = .coasted → (t.sdm n).vel = (s.sdm n).vel) ∧
    (t.sdm n).lastTick = some s.tick.number ∧ ∀ j, j ≠ n → t.sdm j = s.sdm j

/-- O28. The access port, the output of a control engine, and a seek fault. An access request of a head of the actuator is held in
the access port, replaces a held one, and takes its report away; the output that an engine has ready goes down the actuator's
link as one CMD frame with both drives, its histories become current, and the record closes; a seek fault of the move that was
latched takes the engine off track in FOLLOW, reports the move failed and counts it, and keeps a request still held; without a
move under way the held request fails. -/
def Obligations.AccessRequestsOutputsAndSeekFaults : Prop :=
  ∀ (n : ChanId) (s : State), s.live = true →
    (∀ r : AccessReq, chanServes s n = true → chanOf r.head = n → headFitted s r.head = true →
      exec (.accessRequest n r) s = .next (s.modChan n (fun c => { c with access := some r, report := none }))) ∧
    (∀ b : Computation, (s.ce n).busy = some b → (s.wr n).levelPending = none → Answers (.ceOutputIssue n) s (fun t =>
      Sends s t (linkOf n) (.cmd (slotOf n) (BitVec.ofInt 16 b.ma) (BitVec.ofInt 16 b.vcm)) ∧
      (t.ce n).busy = none ∧ (t.ce n).lastVcm = b.vcm ∧ (t.ce n).lastMa = b.ma ∧ (t.ce n).hist = b.hist ∧
      (t.ce n).flockOut = some (b.vcm, b.tickOf) ∧ (t.ce n).abandonRun = 0 ∧ (t.ce n).overrunHold = false ∧
      (t.sdm n).openRec = none ∧ ∀ j, j ≠ n → t.chan j = s.chan j)) ∧
    ((s.ce n).busy = none → exec (.ceOutputIssue n) s = .next s) ∧
    (unloaded s n = false → (s.ce n).moving = true → Answers (.seekFault n) s (fun t =>
      (t.chan n).access = (s.chan n).access ∧ (t.chan n).report = some .failed ∧ (t.sdm n).onTrack = false ∧
      (t.ce n).moving = false ∧ (t.ce n).mode = .follow ∧ (t.ce n).offset = 0 ∧
      (t.ce n).seekFaults = (s.ce n).seekFaults + 1 ∧ ∀ j, j ≠ n → t.ce j = s.ce j)) ∧
    (∀ r : AccessReq, unloaded s n = false → (s.ce n).moving = false → (s.chan n).access = some r → Answers (.seekFault n) s (fun t =>
      (t.chan n).access = none ∧ (t.chan n).report = some .failed ∧ (t.ce n).seekFaults = (s.ce n).seekFaults + 1))

/-- O29. The preamplifier's fault pin, its monitor, and a trim that comes too late. A fall of PAn_FLT_N withdraws assist-ready and
counts the fall; a rise begins the wedge that must pass; low for the whole limit it is charged to the active head once; the
value read is LAST_PA_FAULT for the first read after a fall, and a value of zero is what lets assist-ready come back. A trim too
late is counted and its level not sent. After a written window a monitor value out of bounds withdraws assist-ready and clears
the head's trim; one within them gives the trim of the head and a level frame that waits. -/
def Obligations.ASectorsWritePermissionFollowsThePreamplifier : Prop :=
  ∀ (n : ChanId) (s : State), s.live = true → chanFitted s n = true →
    (∀ l, (s.wr n).levelPending = some l →
      exec (.trimLate n) s = .next (s.modWr n (fun w => { w with trimLate := w.trimLate + 1, levelPending := none }))) ∧
    ((s.wr n).paLow = false → Answers (.paFaultFall n) s (fun t =>
      (t.wr n).assistReady = false ∧ (t.wr n).paLow = true ∧ (t.wr n).paHold = true ∧ (t.wr n).paFaults = (s.wr n).paFaults + 1 ∧
      ∀ j, j ≠ n → (t.wr j).paLow = (s.wr j).paLow ∧ (t.wr j).paFaults = (s.wr j).paFaults)) ∧
    ((s.wr n).paLow = true → exec (.paFaultFall n) s = .next s ∧
      exec (.paFaultRise n) s = .next (s.modWr n (fun w => { w with paLow := false, paHighWedges := 0 }))) ∧
    ((s.wr n).paLow = true → (s.wr n).paCharged = false →
      exec (.paFaultHold n) s =
        .next (charge .paFault (.head (s.sdm n).head) true 0 (s.modWr n (fun w => { w with paCharged := true }))) ∧
      Answers (.paFaultHold n) s (fun t => (t.wr n).paCharged = true ∧ (t.wr n).paLow = true)) ∧
    (∀ v : Word16, (s.wr n).paHold = true → (s.wr n).levelPending = none → Answers (.faultReadDone n v) s (fun t =>
      (t.wr n).lastPaFault = (if (s.wr n).paFirst then v else (s.wr n).lastPaFault) ∧ (t.wr n).paFirst = false ∧
      (t.wr n).paClean = ((s.wr n).paClean || decide (v = 0)) ∧
      (t.wr n).serial = (s.wr n).serial ++ [BitVec.ofNat 24 (2 ^ 23 + paReg s n 9 % 128 * 65536)])) ∧
    (∀ m : Word16, assistType s n ≠ 0 → trimEnabled s = true → (s.wr n).fixed = none → unloaded s n = false →
      (s.wr n).wroteIn.isSome = true →
      ((m.toNat < fieldU (assistRec s (s.sdm n).head) 6 2 ∨ fieldU (assistRec s (s.sdm n).head) 8 2 < m.toNat) →
        Answers (.monitorReadDone n m) s (fun t => (t.wr n).assistReady = false ∧ (t.wr n).monOut = (s.wr n).monOut + 1 ∧
          t.heads[(s.sdm n).head].trim = 0 ∧ (t.wr n).wg = false)) ∧
      (fieldU (assistRec s (s.sdm n).head) 6 2 ≤ m.toNat → m.toNat ≤ fieldU (assistRec s (s.sdm n).head) 8 2 →
        Answers (.monitorReadDone n m) s (fun t => (t.wr n).levelPending.isSome = true ∧ t.heads[(s.sdm n).head].monRun = 0 ∧
          (t.wr n).wg = false)))

/-- O30. The data window, a sector on media, verification and repair, and the write's time limit. In a window that opens while a
sector is in progress the gate follows the permission; a sector whose pad is on media is counted and leaves the write FIFO, in
the first 20 µs of a vault too; the end of a verification and of a repair is taken and counted; at the write's time limit the
rest of the run goes back to Sheepdog and the stall is raised. Without a write request and an armed sector nothing lands. -/
def Obligations.SectorsOnMediaAndTheWriteRun : Prop :=
  ∀ (n : ChanId) (s : State),
    (∀ (a : Nat) (l : List Nat), s.live = true → (s.chan n).load = .loaded →
      exec (.dataWindowOpen n a l) s = .next (openWindow n (fifoMarks a l) s)) ∧
    (s.live = true → (s.chan n).load = .loaded → (s.wr n).request = true → Answers (.dataWindowOpen n 0 []) s (fun t =>
      (t.wr n).wg = gateAllowed s n ∧ (t.wr n).request = true ∧ (t.wr n).fifo = (s.wr n).fifo ∧ ∀ j, j ≠ n → t.wr j = s.wr j)) ∧
    (∀ (a : Nat) (l : List Nat) (r : WriteRun) (x : FifoSector) (y : List FifoSector), s.servoLive = true → (s.wr n).request = true →
      (s.wr n).levelPending = none → (s.wr n).run = some r → (s.wr n).fifo = x :: y →
      Answers (.sectorOnMedia ⟨n, a, l⟩) s (fun t => (t.wr n).sectorsWritten = (s.wr n).sectorsWritten + 1) ∧
      exec (.sectorOnMedia ⟨n, a, l⟩) s =
        .next (if s.live then progress (sectorLands n (fifoMarks a l) s) else sectorLands n (fifoMarks a l) s)) ∧
    (∀ (a : Nat) (l : List Nat), (s.wr n).request = false → (s.wr n).armed = false → (s.wr n).levelPending = none →
      exec (.sectorOnMedia ⟨n, a, l⟩) s = .next s) ∧
    (∀ (l : List (Nat × Nat)) (e : Excursion), s.live = true → verifyDue s n = some e →
      Answers (.excursionVerifyDone n l) s (fun t => (t.wr n).excursions = (s.wr n).excursions + 1) ∧
      exec (.excursionVerifyDone n l) s = .next (progress (verifyRead n l s))) ∧
    (∀ (l : List (Nat × Nat)) (e : Excursion), s.live = true → repairDue s n = some e →
      Answers (.repairDone n l) s (fun t => (t.wr n).repairs = (s.wr n).repairs + 1) ∧
      exec (.repairDone n l) s = .next (progress (repairRead n l s))) ∧
    (∀ r, s.live = true → (s.wr n).run = some r → r.firstAbort.isSome = true →
      exec (.writeTimeLimit n) s = .next (writeStallEvent r.op.band.head (endRun n true s)) ∧
      Answers (.writeTimeLimit n) s (fun t => (t.wr n).run = none)) ∧
    ((s.wr n).run = none → exec (.writeTimeLimit n) s = .next s)

/-- O31. A sector read, its decoding, the second look, and the limit of a retry. A sector of a read under way that passes the head,
with a capture entry free, is taken and the next one follows; a re-read that a ladder waits for is taken likewise; the oldest
decoding ends and leaves the decoder, and the end of another entry's, or of an attempt with another code than the one that runs,
changes nothing; an attempt of the second-look engine that recovers its sector ends its ladder, and with no ladder left the
engine rests; at the retry limit the sector is unrecovered and its ladder ends, or, if the limit that passes first is that of
one controller's reads only, those reads fail and the ladder goes on; an attempt that runs completes first. -/
def Obligations.SectorsReadAndTheirDecoding : Prop :=
  ∀ (n : ChanId) (s : State), s.live = true →
    (∀ (g : SectorSignal) (i : Fin 10) (o : MediaOp), tickReads s = true → (s.rwc n).decoding.length < 2 → (s.wr n).run = none →
      (entriesIn (dropUnwanted n s) n .free).head? = some i → ((dropUnwanted n s).rwc n).op = some o →
      exec (.sectorRead n g) s = .next (settleChannel n (readNext n o i g (dropUnwanted n s))) ∧
      (opWanted (dropUnwanted n s) o = true → (s.rwc n).stopRead = false → (s.rwc n).nextSector + 1 < o.count →
        atSector (dropUnwanted n s) n o.band (o.offset + (s.rwc n).nextSector) (opOffset (dropUnwanted n s) o) = true →
        Answers (.sectorRead n g) s (fun t => (t.rwc n).nextSector = (s.rwc n).nextSector + 1))) ∧
    (∀ (g : SectorSignal) (i : Fin 10) (l : Ladder), tickReads s = true → (s.rwc n).decoding.length < 2 → (s.wr n).run = none →
      (entriesIn (dropUnwanted n s) n .free).head? = some i → ((dropUnwanted n s).rwc n).op = none →
      nextReread (dropUnwanted n s) n = some l →
      exec (.sectorRead n g) s = .next (settleChannel n (readAgain n l i g (dropUnwanted n s)))) ∧
    (∀ g : SectorSignal, tickReads s = false → exec (.sectorRead n g) s = .next s) ∧
    (∀ (c : Codeword) (r : List Codeword), (s.rwc n).decoding = c :: r →
      exec (.decodeComplete n c.entry) s = .next (decodeFirst n s) ∧
      Answers (.decodeComplete n c.entry) s (fun t => (t.rwc n).decoding = r) ∧
      ∀ i : Fin 10, i ≠ c.entry → exec (.decodeComplete n i) s = .next s) ∧
    (∀ a : Attempt, (s.rwc n).attempt = some a → exec (.secondLookAttemptEnd n a.code) s = .next (lookEnds n s) ∧
      ((s.rwc n).ladders = [] → Answers (.secondLookAttemptEnd n a.code) s (fun t => (t.rwc n).attempt = none ∧ (t.rwc n).ladders = [])) ∧
      (∀ (l : Ladder) (b : Block), (s.rwc n).ladders = [l] → l.op.id = a.opId → l.offset = a.offset → l.stop = none →
        judgeDecode s l.op.band l.offset (attemptDecode s (s.rwc n).entries[a.entry] a) = .good b →
        Answers (.secondLookAttemptEnd n a.code) s (fun t => (t.rwc n).attempt = none ∧ (t.rwc n).ladders = []))) ∧
    (∀ k : Nat, (s.rwc n).attempt.map (·.code) ≠ some k → exec (.secondLookAttemptEnd n k) s = .next s) ∧
    (∀ l : Ladder, firstToExpire s n = some l →
      (l.early = none → attemptOf s n l = false → exec (.retryTimeLimit n) s = .next (settleChannel n (unrecovered n l s)) ∧
        Answers (.retryTimeLimit n) s (fun t => ∀ x ∈ (t.rwc n).ladders, sameSector l.op l.offset x = false)) ∧
      (l.early.isSome = true → attemptOf s n l = false → exec (.retryTimeLimit n) s = .next (settleChannel n (earlyEnds n l s))) ∧
      (l.early = none → attemptOf s n l = true → exec (.retryTimeLimit n) s =
        .next (modLadder n l.op l.offset (fun x => { x with limit := s.clock.ns - x.failedAt }) s)))

/-- O32. Temperature decisions, calibration requests, their ends and their deferral. While the management cores run: ENV_DECISION
takes the thermal objects and gives each sensor the conversion of its reading (a sensor that is not enabled forgets its
history). CAL_SCHEDULE adds a background request of its kind for the head, EQ one for every recording zone; a request for the
same run stands as it is; a kind that is not enabled, a head that does not serve or a kind that the head cannot take changes
nothing. CAL_RUN_END of a track run that has gone through its phases completes with its result: deferred (code 4), abandoned
(2), discarded (3, its objects were touched) or its values in the calibration staging with the request gone; the actuator has
then no run, except that ALIGN follows FE where it is asked for. The end of a verification read takes the head out of those to
be verified. An EQ or SYNC run that has its sectors ends with its request gone, abandoned (code 2), discarded (3) or staged.
CAL_DEFER_TIMEOUT records code 4, keeps the request and drops the EQ run. CAL_REQ_KINDS_WRITE is a write of its object. -/
def Obligations.CalibrationRunsAreAskedForAndEnd : Prop :=
  ∀ s : State, s.resident = true → s.faults.mgmtDown = false →
    (∀ r : Vector SensorInput 11, exec (.envDecision r) s = .next (envDecision r s) ∧ Answers (.envDecision r) s (fun t => t.env.held = false ∧
      t.env.latched = (latchThermal s).env.latched ∧
      ∀ j : Fin 11, t.env.sensors[j] = (if sensorEnabled (latchThermal s) j then senseOne (latchThermal s) j r[j] s.env.sensors[j]
        else { s.env.sensors[j] with rate := 0, status := 0, broken := false, validRun := 0, history := [], critRun := 0 }))) ∧
    (∀ (h : HeadId) (k : CalKind), k ≠ .eq → calEnabled s k = true → headServes s h = true → kindOpen s h k = true →
      (s.cal.requests.any (sameRun ⟨h, k, 0, .background⟩) = false → Answers (.calSchedule h k) s (fun t =>
        t.cal.requests = s.cal.requests ++ [⟨h, k, 0, .background⟩] ∧ t.cal.running = s.cal.running)) ∧
      (s.cal.requests.any (sameRun ⟨h, k, 0, .background⟩) = true → exec (.calSchedule h k) s = .next s)) ∧
    (∀ h : HeadId, calEnabled s .eq = true → headServes s h = true → s.cal.requests.any (fun q => q.kind = .eq && q.head = h) = false →
      Answers (.calSchedule h .eq) s (fun t => t.cal.running = s.cal.running ∧
        t.cal.requests = s.cal.requests ++ (List.range (formatOf s h).length).map (fun z => ⟨h, .eq, z, .background⟩))) ∧
    (∀ (h : HeadId) (k : CalKind), (calEnabled s k = false ∨ headServes s h = false ∨ kindOpen s h k = false) →
      exec (.calSchedule h k) s = .next s) ∧
    (∀ (h : HeadId) (r : CalRunning) (k : CalKind) (z : Nat), headServes s h = true → s.cal.running[chanOf h] = some r → r.head = h →
      r.kind = some k → k ≠ .eq → k ≠ .sync → r.phase = .done →
      (trackResult s r k = .deferred → Answers (.calRunEnd h ⟨some k, z⟩) s (fun t => t.cal.heads[h].results[Fin.ofNat 6 (calCode k - 1)] = 4)) ∧
      (trackResult s r k = .abandoned → Answers (.calRunEnd h ⟨some k, z⟩) s (fun t => t.cal.heads[h].results[Fin.ofNat 6 (calCode k - 1)] = 2)) ∧
      (∀ l, trackResult s r k = .values l → r.touched = true → Answers (.calRunEnd h ⟨some k, z⟩) s (fun t =>
        t.cal.heads[h].results[Fin.ofNat 6 (calCode k - 1)] = 3)) ∧
      (∀ l, trackResult s r k = .values l → r.touched = false → Answers (.calRunEnd h ⟨some k, z⟩) s (fun t =>
        (∃ x ∈ t.cal.staging, x.head = h ∧ x.kind = k ∧ x.track = r.track ∧ x.values = l) ∧
        ∀ q ∈ t.cal.requests, sameRun q ⟨h, k, 0, .normal⟩ = false)) ∧
      (k ≠ .fe → Answers (.calRunEnd h ⟨some k, z⟩) s (fun t => t.cal.running[chanOf h] = none)) ∧
      ∃ u, exec (.calRunEnd h ⟨some k, z⟩) s = .next (progress u) ∧ (∀ l, k = .fe → trackResult s r k = .values l →
        s.cal.requests.any (fun q => q.kind = .align && q.head = h) = true → u.cal.running[chanOf h] = some { r with kind := some .align })) ∧
    (∀ (h : HeadId) (r : CalRunning) (z : Nat), headServes s h = true → s.cal.running[chanOf h] = some r → r.head = h →
      r.kind = none → r.phase = .done →
      Answers (.calRunEnd h ⟨none, z⟩) s (fun t => h ∉ t.cal.verify ∧ t.cal.running[chanOf h] = none)) ∧
    (∀ (h : HeadId) (k : CalKind) (z : Nat), (k = .eq ∨ k = .sync) → headServes s h = true → ordinaryComplete s h k z = true →
      Answers (.calRunEnd h ⟨some k, z⟩) s (fun t => (∀ q ∈ t.cal.requests, sameRun q ⟨h, k, z, .normal⟩ = false) ∧
        (t.cal.heads[h].results[Fin.ofNat 6 (calCode k - 1)] = 2 ∨ t.cal.heads[h].results[Fin.ofNat 6 (calCode k - 1)] = 3 ∨
          ∃ x ∈ t.cal.staging, x.head = h ∧ x.kind = k ∧ x.zone = z))) ∧
    (∀ (h : HeadId) (k : CalKind) (q : CalReq), (k = .eq ∨ k = .sync) → deferredReq s h k = some q →
      Answers (.calDeferTimeout h k) s (fun t => t.cal.requests = s.cal.requests ∧ t.cal.runs[chanOf h] = s.cal.runs[chanOf h] + 1 ∧
        t.cal.heads[h].results[Fin.ofNat 6 (calCode k - 1)] = 4 ∧
        t.cal.eqRuns = s.cal.eqRuns.filter (fun e => !(k = .eq && e.head = h && e.zone = q.zone)))) ∧
    (∀ (p : Path) (v : Byte), exec (.calReqKindsWrite p v) s = .next (objectAccess p 0x6103 2 [v] s))

/-- O33. PERST, hot reset, function-level reset, link loss and link disable of a port. PERST, hot reset and function-level reset of
a port that runs are a reset of its controller, its vendor block and its privilege, recorded with their kind; PERST also takes
the link down, and its release lets the link train with the port's CLOCKING, at a free rate and width within Table 10.1. Loss of
the reference clock and of the link take the link down and are recorded as kind 5; Link Disable takes it down and is a reset too
(log 29). A subsystem reset resets every port with kind 4, and with another value nothing. PERST that is asserted already only
takes the link down; without a link none of the others acts. The resets of one port leave the other port's controller and link. -/
def Obligations.PortResetsReachTheirPortOnly : Prop :=
  ∀ (p : PortId) (s : State), s.live = true →
    ((s.port p).perst = false → portExists s p = true → exec (.perstAssert p) s =
      .next (functionReset p 0 (s.modPort p (fun q => { q with perst := true, link := none })))) ∧
    ((s.port p).perst = true → exec (.perstAssert p) s = .next (s.modPort p (fun q => { q with perst := true, link := none }))) ∧
    ((s.port p).perst = true → (s.power.straps.portMode && decide (p = 1)) = false → Answers (.perstDeassert p) s (fun t =>
      (t.port p).perst = false ∧ (t.port p).link = some (trained (if s.power.straps.portMode then 4 else 2) (Config.freeValue s.freeCount)) ∧
      (t.port p).clocking = cfg s 0x2001 (2 + p.val) ∧ ∀ x, x ≠ p → t.port x = s.port x)) ∧
    (∀ l, (s.port p).link = some l →
      exec (.hotReset p) s = .next (functionReset p 1 s) ∧ exec (.functionLevelReset p) s = .next (functionReset p 2 s) ∧
      exec (.refclkLoss p) s = .next (portEvent p 5 (s.modPort p (fun q => { q with link := none }))) ∧
      exec (.pcieLinkDown p) s = .next (portEvent p 5 (s.modPort p (fun q => { q with link := none }))) ∧
      exec (.linkDisable p) s =
        .next (settle (resetPrivilege p (vendorReset p (controllerReset p (portEvent p 5 (s.modPort p (fun q => { q with link := none }))))))) ∧
      exec (.nvmSubsystemReset p 0x4E564D65) s =
        .next (leaveFailed ((allPorts.filter (portExists s)).foldl (fun s q => functionReset q 4 s) s)) ∧
      ∀ v : Word32, v ≠ 0x4E564D65 → exec (.nvmSubsystemReset p v) s = .next s) ∧
    ((s.port p).perst = false → portExists s p = true → Answers (.perstAssert p) s (fun t => (t.port p).perst = true ∧ (t.port p).link = none ∧
      WasReset p t ∧ ∀ x, x ≠ p → (t.port x).link = (s.port x).link ∧ (t.port x).en = (s.port x).en)) ∧
    ((s.port p).link.isSome = true →
      (∀ c ∈ [Instr.hotReset p, .functionLevelReset p], Answers c s (fun t => WasReset p t ∧
        ∀ x, (t.port x).link = (s.port x).link ∧ (x ≠ p → (t.port x).en = (s.port x).en))) ∧
      (∀ c ∈ [Instr.refclkLoss p, .pcieLinkDown p], Answers c s (fun t => (t.port p).link = none ∧ (t.port p).en = (s.port p).en ∧
        ∀ x, x ≠ p → t.port x = s.port x)) ∧
      Answers (.linkDisable p) s (fun t => (t.port p).link = none ∧ WasReset p t ∧
        ∀ x, x ≠ p → (t.port x).en = (s.port x).en ∧ (t.port x).link = (s.port x).link) ∧
      Answers (.nvmSubsystemReset p 0x4E564D65) s (fun t => ∀ q, portExists s q = true → WasReset q t)) ∧
    ((s.port p).link = none → ∀ v : Word32, ∀ c ∈ [Instr.hotReset p, .functionLevelReset p, .refclkLoss p, .pcieLinkDown p, .linkDisable p,
      .nvmSubsystemReset p v], exec c s = .next s)

/-- O34. What the reset of a controller and of a vendor block leave. After a controller reset of a port its controller is disabled
and not ready, has no queue, no asynchronous event and no command that waits to be posted; a reset of the vendor block clears
STATUS and INT_ENABLE, masks vector 65 and discards the mailbox. The features that outlive a controller reset, and STATUS, stand
in the first; the other port stands in the second. -/
def Obligations.AFunctionResetClearsItsControllerAndVendorBlock : Prop :=
  ∀ (p : PortId) (s : State),
    (let t := controllerReset p s
     (t.port p).en = false ∧ (t.port p).rdy = false ∧ (t.port p).sqs = [] ∧ (t.port p).cqs = [] ∧ (t.port p).aers = [] ∧
     (t.port p).events = [] ∧ (t.port p).committed = [] ∧ (t.port p).abortWait = [] ∧ (t.port p).deleting = [] ∧
     (t.port p).feat.ps = (s.port p).feat.ps ∧ (t.port p).feat.hostId = (s.port p).feat.hostId ∧
     (t.port p).status = (s.port p).status) ∧
    (let t := vendorReset p s
     (t.port p).status = 0 ∧ (t.port p).intEnable = 0 ∧ (t.port p).masked65 = true ∧ (t.port p).pending65 = false ∧
     (t.port p).mbGo = false ∧ (t.port p).mbResp = none ∧ (t.port p).mbWait = none ∧ (t.port p).evtBase = 0 ∧
     bar2Reg t p 0x0004 = 0 ∧ bar2Reg t p 0x000C = 0 ∧ ∀ x, x ≠ p → t.port x = s.port x)

/-- O35. CC.EN and CC.SHN. Enabling a disabled controller of a port with a link sets up the admin queues; it is ready once the Mule
is mounted or in RECOVERY, with no activation under way, and reports CFS in FAILED without a mount; disabling it is a controller
reset, recorded as kind 3; SHN 01b and 10b begin a shutdown, which shows as SHST 1, or as 2 if it is done at once; other values,
and a shutdown under way or done, change nothing. -/
def Obligations.ControllerEnableDisableAndShutdown : Prop :=
  ∀ (p : PortId) (s : State), s.live = true →
    (∀ l, (s.port p).link = some l → (s.port p).en = false → exec (.ccEnable p) s =
      .next (settle (s.modPort p (fun q => { q with en := true, shst := 0, rdy := (s.mule.mounted || decide (s.power.phase = .recovery)) && decide (s.fw.activation = .none), cfs := decide (s.power.phase = .failed) && !s.mule.mounted, sqs := [⟨0, 4096, 0, 0, 0⟩], cqs := [⟨0, 4096, 0, 0, 0, true⟩] })))) ∧
    ((s.port p).en = true → exec (.ccDisable p) s = .next (settle (controllerReset p (portEvent p 3 s))) ∧ exec (.ccEnable p) s = .next s ∧
      Answers (.ccDisable p) s (fun t => (t.port p).en = false ∧ (t.port p).rdy = false ∧ (t.port p).sqs = [] ∧ (t.port p).cqs = [] ∧
        (t.port p).link = (s.port p).link)) ∧
    ((s.port p).link.isSome = true → (s.port p).en = false → Answers (.ccEnable p) s (fun t => (t.port p).en = true ∧
      (t.port p).rdy = ((s.mule.mounted || decide (s.power.phase = .recovery)) && decide (s.fw.activation = .none)) ∧
      (t.port p).sqs = [⟨0, 4096, 0, 0, 0⟩] ∧ (t.port p).cqs = [⟨0, 4096, 0, 0, 0, true⟩])) ∧
    (∀ n : BitVec 2, (n = 1 ∨ n = 2) → (s.port p).shst = 0 →
      exec (.ccShutdown p n) s = .next (progress (s.modPort p (fun q => { q with shst := 1 }))) ∧
      Answers (.ccShutdown p n) s (fun t => (t.port p).shst = 1 ∨ (t.port p).shst = 2)) ∧
    (∀ n : BitVec 2, (n = 0 ∨ n = 3 ∨ (s.port p).shst ≠ 0) → exec (.ccShutdown p n) s = .next s)

/-- O36. The doorbells of a submission and of a completion queue. A tail within its queue is taken, one outside changes nothing; a
head frees exactly the entries up to it, and never more than are used. No other queue and nothing else changes. -/
def Obligations.DoorbellsMoveTheirQueues : Prop :=
  ∀ (p : PortId) (s : State) (qid v : Nat), s.live = true → (s.port p).rdy = true →
    (∃ q, exec (.sqTailDoorbell p qid v) s = .next (s.modPort p (fun x => { x with sqs := q })) ∧
      q.length = (s.port p).sqs.length ∧ ∀ x ∈ (s.port p).sqs, (x.qid ≠ qid ∨ x.size ≤ v → x ∈ q) ∧
        (x.qid = qid → v < x.size → { x with tail := v } ∈ q)) ∧
    (∃ q, exec (.cqHeadDoorbell p qid v) s = .next (s.modPort p (fun x => { x with cqs := q })) ∧
      q.length = (s.port p).cqs.length ∧ ∀ x ∈ (s.port p).cqs,
        (x.qid ≠ qid ∨ x.size ≤ v ∨ x.used < (v + x.size - x.head) % x.size → x ∈ q) ∧
        (x.qid = qid → v < x.size → (v + x.size - x.head) % x.size ≤ x.used →
          { x with head := v, used := x.used - (v + x.size - x.head) % x.size } ∈ q))

/-- O37. Admission, completion commit, Flush and the posting of an entry. When HPC may fetch for a port, the command at the head of
the queue that the round robin has come to is admitted, with the next admission number, and what waited goes on; else nothing is
fetched. A read that has begun commits with its status when no block of it is awaited, a write when it is ready, a Flush that
waits when its blocks are done; while the link is up an entry is posted when its completion queue has room, and waits while it
is full. -/
def Obligations.AdmissionCompletionAndPosting : Prop :=
  ∀ (p : PortId) (s : State),
    (∀ (e : SqEntry) (x : Sq), mayFetch s p = true → pickQueue (s.port p) = some x →
      exec (.commandAdmission p e) s = .next (progress (admitOne p x e s))) ∧
    (∀ (e : SqEntry) (x : Sq), mayFetch s p = true → pickQueue (s.port p) = some x → s.cmds.mediaStopped = false →
      Answers (.commandAdmission p e) s (fun t => t.cmds.nextId = s.cmds.nextId + 1 ∧
        (t.port p).sqs = (s.port p).sqs.map (fun y => if y.qid = x.qid then { y with head := (y.head + 1) % y.size } else y))) ∧
    (∀ e : SqEntry, mayFetch s p = false → exec (.commandAdmission p e) s = .next s) ∧
    (∀ (id : Nat) (c : Ctx), s.live = true → rowCtx s id ioBlocks = some c → c.entry.op = .read → c.started = true → c.waiting = [] →
      exec (.completionCommit id) s = .next (progress (lookupWaiting (commitRead c s))) ∧
      (c.silent = false → Answers (.completionCommit id) s (CompletedIo c c.status))) ∧
    (∀ (id : Nat) (c : Ctx), s.live = true → rowCtx s id ioBlocks = some c → c.entry.op ≠ .read → writeReady s c = true →
      exec (.completionCommit id) s = .next (progress (lookupWaiting (commitWrite c s))) ∧
      (c.silent = false → Answers (.completionCommit id) s (CompletedIo c .success))) ∧
    (∀ (id : Nat) (c : Ctx), s.live = true → rowCtx s id (fun o => decide (o = .flush)) = some c → c.started = true → flushDone s c = true →
      exec (.flushCommit id) s = .next (progress (commitCtx id .success 0 0 s)) ∧
      (c.silent = false → Answers (.flushCommit id) s (CompletedIo c .success))) ∧
    (∀ (qid : Nat) (l : Nat × Nat), s.live = true → (s.port p).link = some l → cqRoom (s.port p) qid = true →
      exec (.completionPost p qid) s = .next (progress (postCompletion p qid s)) ∧
      (∀ x r, takeCompletion qid (s.port p).committed = some (x, r) → Answers (.completionPost p qid) s (fun t => x ∈ (t.port p).posted))) ∧
    (∀ qid : Nat, cqRoom (s.port p) qid = false → exec (.completionPost p qid) s = .next s)

/-- O38. Create and Delete I/O Queue. A create that breaks none of the rules of queue identifier, size, contiguity, completion queue
and vector adds the queue, empty, and completes with success; one that breaks a rule completes with that rule's status, recorded
as CMD_REFUSED. A submission queue that exists is deleted; one that does not, or queue 0, is refused with Invalid Queue
Identifier. A completion queue that no submission queue uses is deleted and the command completes; one in use is refused with
Invalid Queue Deletion, one that does not exist with Invalid Queue Identifier. -/
def Obligations.QueueCommandsCreateAndDelete : Prop :=
  ∀ (a : AdminHdr) (s : State), adminRuns s a →
    (∀ (qid size cqid : Nat), createSqStatus (s.port a.port) qid size cqid true = none → Answers (.createIoSq a qid size cqid true) s (fun t =>
      (t.port a.port).sqs = (s.port a.port).sqs ++ [⟨qid, size, 0, 0, cqid⟩] ∧ (t.port a.port).cqs = (s.port a.port).cqs ∧
      (t.port a.port).committed = (s.port a.port).committed ++ [plainCompletion a.cid .success])) ∧
    (∀ (qid size cqid : Nat) (b : Bool) (st : Status), createSqStatus (s.port a.port) qid size cqid b = some st →
      exec (.createIoSq a qid size cqid b) s = .next (adminRefused a 0x01 0 (qid + (size - 1) * 65536) st s)) ∧
    (∀ (qid size cqid : Nat) (b : Bool), (qid = 0 ∨ 64 < qid) → 1 ≤ cqid → cqid ≤ 64 → (s.port a.port).cqs.any (fun x => x.qid = cqid) = true →
      exec (.createIoSq a qid size cqid b) s = .next (adminRefused a 0x01 0 (qid + (size - 1) * 65536) .invalidQid s)) ∧
    (∀ (qid size vector : Nat) (irq : Bool), createCqStatus (s.port a.port) qid size vector true = none →
      Answers (.createIoCq a qid size vector true irq) s (fun t =>
        (t.port a.port).cqs = (s.port a.port).cqs ++ [⟨qid, size, 0, 0, vector, irq⟩] ∧ (t.port a.port).sqs = (s.port a.port).sqs ∧
        (t.port a.port).committed = (s.port a.port).committed ++ [plainCompletion a.cid .success])) ∧
    (∀ (qid size vector : Nat) (b irq : Bool) (st : Status), createCqStatus (s.port a.port) qid size vector b = some st →
      exec (.createIoCq a qid size vector b irq) s = .next (adminRefused a 0x05 0 (qid + (size - 1) * 65536) st s)) ∧
    (∀ qid : Nat, qid ≠ 0 → (s.port a.port).sqs.any (fun x => x.qid = qid) = true → exec (.deleteIoSq a qid) s = .next (deleteSq a qid s) ∧
      Answers (.deleteIoSq a qid) s (fun t => (t.port a.port).sqs = (s.port a.port).sqs.filter (fun x => x.qid ≠ qid) ∧
        (t.port a.port).cqs = (s.port a.port).cqs)) ∧
    (∀ qid : Nat, (qid = 0 ∨ (s.port a.port).sqs.any (fun x => x.qid = qid) = false) →
      exec (.deleteIoSq a qid) s = .next (adminRefused a 0x00 0 qid .invalidQid s)) ∧
    (∀ qid : Nat, qid ≠ 0 → (s.port a.port).cqs.any (fun x => x.qid = qid) = true → (s.port a.port).sqs.any (fun x => x.cqid = qid) = false →
      (s.port a.port).deleting = [] → Answers (.deleteIoCq a qid) s (fun t =>
        (t.port a.port).cqs = (s.port a.port).cqs.filter (fun x => x.qid ≠ qid) ∧ (t.port a.port).sqs = (s.port a.port).sqs ∧
        (t.port a.port).committed = (s.port a.port).committed ++ [plainCompletion a.cid .success])) ∧
    (∀ qid : Nat, (qid = 0 ∨ (s.port a.port).cqs.any (fun x => x.qid = qid) = false) →
      exec (.deleteIoCq a qid) s = .next (adminRefused a 0x04 0 qid .invalidQid s)) ∧
    (∀ qid : Nat, qid ≠ 0 → (s.port a.port).cqs.any (fun x => x.qid = qid) = true → (s.port a.port).sqs.any (fun x => x.cqid = qid) = true →
      exec (.deleteIoCq a qid) s = .next (adminRefused a 0x04 0 qid .invalidQueueDeletion s))

/-- O39. Identify, Get Log Page, Get Features, Abort and Asynchronous Event Request. Identify and Get Features complete with their
data, or are refused with their status. Get Log Page completes with the bytes asked for of a page that exists, and with RAE 0
the events of the page are armed again; a page that does not exist is refused with Invalid Log Page, a part that is not allowed
with its status. An Abort of a command that is not there, or is committed, reports it not aborted; of one that can end, it is
counted and completes after it; of a write that reaches media it waits; of a held event request it ends both. A ninth Abort and
a fifth event request are refused; another event request is held. An opcode that is not supported is refused with Invalid
Command Opcode, in RECOVERY too, and changes nothing of the commands. Every refusal is a completion with its status and a
CMD_REFUSED event. -/
def Obligations.IdentifyLogsFeaturesAbortAndEvents : Prop :=
  ∀ (a : AdminHdr) (s : State),
    (∀ (op : Byte) (x y : Word32), adminOpen s a = true →
      exec (.unsupportedAdminOpcode a op x y) s = .next (adminRefused a op.toNat x.toNat y.toNat .invalidOpcode s) ∧
      Answers (.unsupportedAdminOpcode a op x y) s (fun t =>
        (t.port a.port).committed = (s.port a.port).committed ++ [plainCompletion a.cid .invalidOpcode] ∧ t.cmds = s.cmds)) ∧
    (∀ (st : Status) (op ns cdw : Nat), ((adminRefused a op ns cdw st s).port a.port).committed =
      (s.port a.port).committed ++ [plainCompletion a.cid st]) ∧
    (adminRuns s a →
    (∀ (cns csi : Byte) (nsid : Word32) (ctl : Word16) (v : List Byte), identifyData s a.port cns.toNat nsid.toNat csi.toNat ctl.toNat = .ok v →
      exec (.identify a cns nsid csi ctl) s = .next (completed a 0 (.bytes v) s) ∧
      Answers (.identify a cns nsid csi ctl) s (CompletedWith a 0 (.bytes v) s)) ∧
    (∀ (cns csi : Byte) (nsid : Word32) (ctl : Word16) (st : Status), identifyData s a.port cns.toNat nsid.toNat csi.toNat ctl.toNat = .error st →
      exec (.identify a cns nsid csi ctl) s = .next (adminRefused a 0x06 nsid.toNat (cns.toNat + ctl.toNat * 65536) st s)) ∧
    (∀ (fid : Byte) (sel : BitVec 3) (nsid w : Word32) (d : Nat) (x : CplData),
      featureValue s a.port fid.toNat nsid.toNat w.toNat = .ok (d, x) →
      exec (.getFeatures a fid ⟨sel, w⟩ nsid) s = .next (completed a d x s) ∧ Answers (.getFeatures a fid ⟨sel, w⟩ nsid) s (CompletedWith a d x s)) ∧
    (∀ (fid : Byte) (sel : BitVec 3) (nsid w : Word32) (st : Status), featureValue s a.port fid.toNat nsid.toNat w.toNat = .error st →
      exec (.getFeatures a fid ⟨sel, w⟩ nsid) s = .next (adminRefused a 0x0A nsid.toNat fid.toNat st s)) ∧
    (∀ (lid : Byte) (nsid : Word32) (off len : Nat) (v : List Byte) (u : State), logPage s a.port lid.toNat = (some v, u) →
      logStatus lid.toNat nsid.toNat off len v.length = none →
      exec (.getLogPage a lid true nsid off len) s = .next (completed a 0 (.bytes ((v.drop off).take len)) u) ∧
      Answers (.getLogPage a lid true nsid off len) s (CompletedWith a 0 (.bytes ((v.drop off).take len)) s) ∧
      Answers (.getLogPage a lid false nsid off len) s (fun t => lid ∉ (t.port a.port).masked ∧
        ⟨0, 0, a.cid, .success, false, 0, 0, 0, .bytes ((v.drop off).take len)⟩ ∈ (t.port a.port).committed)) ∧
    (∀ (lid : Byte) (rae : Bool) (nsid : Word32) (off len : Nat) (v : List Byte) (u : State) (st : Status), logPage s a.port lid.toNat = (some v, u) →
      logStatus lid.toNat nsid.toNat off len v.length = some st → exec (.getLogPage a lid rae nsid off len) s =
        .next (adminRefused a 0x02 nsid.toNat (lid.toNat + b2n rae * 32768 + (len / 4 - 1) % 65536 * 65536) st s)) ∧
    (∀ (lid : Byte) (rae : Bool) (nsid : Word32) (off len : Nat) (u : State), logPage s a.port lid.toNat = (none, u) →
      exec (.getLogPage a lid rae nsid off len) s =
        .next (adminRefused a 0x02 nsid.toNat (lid.toNat + b2n rae * 32768 + (len / 4 - 1) % 65536 * 65536) .invalidLogPage s)) ∧
    (∀ (sqid : Nat) (cid : Word16), 8 ≤ (s.port a.port).abortWait.length + (s.port a.port).abortDone.length + (s.port a.port).abortAdmin.length →
      exec (.abort a sqid cid) s = .next (adminRefused a 0x08 0 (sqid + cid.toNat * 65536) .abortLimit s)) ∧
    ((s.port a.port).abortWait.length + (s.port a.port).abortDone.length + (s.port a.port).abortAdmin.length < 8 →
      (∀ (sqid : Nat) (cid : Word16), sqid ≠ 0 →
        (∀ c, s.cmds.ctxs.find? (fun c => c.port = a.port && c.sqid = sqid && c.entry.cid = cid && !c.silent) = some c → c.committed = true) →
        exec (.abort a sqid cid) s = .next (completed a 1 .none { s with cmds.abortsRefused := s.cmds.abortsRefused + 1 }) ∧
        Answers (.abort a sqid cid) s (CompletedWith a 1 .none s)) ∧
      (∀ (sqid : Nat) (cid : Word16) (c : Ctx), sqid ≠ 0 →
        s.cmds.ctxs.find? (fun c => c.port = a.port && c.sqid = sqid && c.entry.cid = cid && !c.silent) = some c → c.committed = false →
        (c.unabortable s = false → Answers (.abort a sqid cid) s (fun t => t.cmds.abortsDone = s.cmds.abortsDone + 1 ∧
          (c.id, a.cid) ∈ (t.port a.port).abortDone)) ∧
        (c.unabortable s = true → Answers (.abort a sqid cid) s (fun t => t.cmds.ctxs = s.cmds.ctxs ∧
          (t.port a.port).abortWait = (s.port a.port).abortWait ++ [(c.id, a.cid)]))) ∧
      (∀ cid : Word16, (s.port a.port).abortWait.any (fun x => x.2 = cid) = false → (begunAdmin s a.port).contains cid = false →
        (s.port a.port).aers.contains cid = true → Answers (.abort a 0 cid) s (fun t => t.cmds.abortsDone = s.cmds.abortsDone + 1 ∧
          cid ∉ (t.port a.port).aers ∧ (t.port a.port).committed =
            (s.port a.port).committed ++ [plainCompletion cid .abortRequested, plainCompletion a.cid .success]))) ∧
    ((s.port a.port).aers.length < 4 → (s.port a.port).events = [] → exec (.asyncEventRequest a) s =
      .next (s.modPort a.port (fun q => { q with aers := q.aers ++ [a.cid] })) ∧
      Answers (.asyncEventRequest a) s (fun t => (t.port a.port).aers = (s.port a.port).aers ++ [a.cid])) ∧
    (4 ≤ (s.port a.port).aers.length → exec (.asyncEventRequest a) s = .next (adminRefused a 0x0C 0 0 .aerLimit s)))

/-- O40. Set Features changes the feature it names, of its controller. Without Save, Set Features of arbitration, interrupt
coalescing, write atomicity, event configuration, progress marker, host behaviour, host identifier and vector configuration set
their feature to the value, reserved parts dropped, complete with success and change nothing else; the timestamp is set, with an
event. A temperature threshold is set and then judged, a power state is entered, the cache mode is requested for both
controllers, and the number of queues granted is reported while there is no I/O queue. A threshold of another sensor, a power
state above 2, a vector above 64, and queues that exist already are refused with their status, and so is an identifier that is
not supported, with Invalid Field in Command, the features standing. -/
def Obligations.SetFeaturesChangesItsFeatureOnly : Prop :=
  ∀ (a : AdminHdr) (s : State) (v : Word32), adminRuns s a →
    (∀ (b : Bool) (h : BitVec 128) (c : Instr) (f g : Features), f = (s.port a.port).feat →
      ((c, g) ∈ [(Instr.setFeatArbitration a false v, { f with arbitration := v }),
        (.setFeatInterruptCoalescing a false v, { f with coalescing := v &&& 0xFFFF }),
        (.setFeatWriteAtomicity a false v, { f with atomicity := v }), (.setFeatAsyncEventConfig a false v, { f with asyncConfig := v }),
        (.setFeatSoftwareProgressMarker a false v, { f with marker := v &&& 0xFF }), (.setFeatHostBehaviorSupport a false b, { f with acre := b }),
        (.setFeatHostIdentifier a false true h, { f with exhid := true, hostId := h }),
        (.setFeatHostIdentifier a false false h, { f with exhid := false, hostId := h &&& 0xFFFFFFFFFFFFFFFF })] ∨
        (v.toNat % 65536 ≤ 64 ∧ c = .setFeatInterruptVectorConfig a false v ∧
          g = { f with vectorConfig := assocSet (v.toNat % 65536) (v.getLsbD 16) f.vectorConfig })) →
      Answers c s (fun t => t = withFeature a (fun _ => g) s ∧ (t.port a.port).feat = g ∧ CompletedWith a 0 .none s t)) ∧
    (∀ ms : BitVec 48, exec (.setFeatTimestamp a false ms) s = .next (raise (event 0x1002 0 a.port.val 0 (ms.toNat + 2 * 2 ^ 48))
      (withFeature a (fun f => { f with timestamp := ms, timestampAttr := 2, timestampAt := s.clock.ns }) s)) ∧
      Answers (.setFeatTimestamp a false ms) s (fun t => (t.port a.port).feat.timestamp = ms ∧
      (t.port a.port).feat.timestampAt = s.clock.ns ∧ CompletedWith a 0 .none s t)) ∧
    (v.toNat / 65536 % 16 = 0 → v.toNat / 1048576 % 4 ≤ 1 → Answers (.setFeatTemperatureThreshold a false v) s (fun t =>
      (if v.toNat / 1048576 % 4 = 0 then (t.port a.port).feat.overTh = some (v.toNat % 65536)
        else (t.port a.port).feat.underTh = some (v.toNat % 65536)) ∧ Completed a .success t)) ∧
    (v.toNat < 65536 → exec (.setFeatTemperatureThreshold a false v) s =
      .next (noteWarning (withFeature a (fun f => { f with overTh := some v.toNat }) s))) ∧
    (v.toNat % 32 ≤ 2 → Answers (.setFeatPowerManagement a false v) s (fun t => (t.port a.port).feat.ps = v.toNat % 32 ∧ Completed a .success t)) ∧
    (∀ k ≤ 2, exec (.setFeatPowerManagement a false (BitVec.ofNat 32 k)) s =
      .next (progress (powerStates (withFeature a (fun f => { f with ps := k, lastOp := if k = 2 then f.lastOp else k }) s)))) ∧
    Answers (.setFeatVolatileWriteCache a false v) s (fun t => Completed a .success t ∧
      t.cache.requested = (if v.getLsbD 0 then .writeBack else .writeThrough)) ∧
    exec (.setFeatVolatileWriteCache a false 1) s = .next (progress (requestMode .writeBack (withFeature a id s))) ∧
    exec (.setFeatVolatileWriteCache a false 0) s = .next (progress (requestMode .writeThrough (withFeature a id s))) ∧
    (((s.port a.port).sqs.any (fun x => x.qid ≠ 0) || (s.port a.port).cqs.any (fun x => x.qid ≠ 0)) = false →
      v.toNat % 65536 ≠ 65535 → v.toNat / 65536 ≠ 65535 →
      exec (.setFeatNumberOfQueues a false v) s = .next (completed a (queuesGranted (s.port a.port).feat) .none s) ∧
      Answers (.setFeatNumberOfQueues a false v) s (CompletedWith a (queuesGranted (s.port a.port).feat) .none s)) ∧
    (((s.port a.port).sqs.any (fun x => x.qid ≠ 0) || (s.port a.port).cqs.any (fun x => x.qid ≠ 0)) = true →
      exec (.setFeatNumberOfQueues a false v) s = .next (adminRefused a 0x09 0 0x07 .cmdSequence s)) ∧
    (2 < v.toNat % 32 → exec (.setFeatPowerManagement a false v) s = .next (adminRefused a 0x09 0 0x02 .invalidField s)) ∧
    ((v.toNat / 65536 % 16 ≠ 0 ∨ 1 < v.toNat / 1048576 % 4) →
      exec (.setFeatTemperatureThreshold a false v) s = .next (adminRefused a 0x09 0 0x04 .invalidField s)) ∧
    (64 < v.toNat % 65536 → exec (.setFeatInterruptVectorConfig a false v) s = .next (adminRefused a 0x09 0 0x09 .invalidField s)) ∧
    (∀ fid : Byte, exec (.setFeatUnsupported a fid false v) s = .next (adminRefused a 0x09 0 fid.toNat .invalidField s) ∧
      Answers (.setFeatUnsupported a fid false v) s (fun t => (t.port a.port).feat = (s.port a.port).feat ∧ Completed a .invalidField t))

/-- O41. Features of a namespace, and Save. Error Recovery, Reservation Notification Mask and Reservation Persistence are set for
every namespace that the command names, and complete with success; with a namespace that the controller does not see they are
refused with Invalid Namespace, and DULBE with Invalid Field. A Set Features with Save of a supported feature is refused with
Feature Identifier Not Saveable, recorded, and changes no feature. -/
def Obligations.SetFeaturesOfANamespaceAndSave : Prop :=
  ∀ (a : AdminHdr) (s : State) (nsid v : Word32), adminRuns s a →
    (featureNsStatus s a.port nsid.toNat = none →
      (v.getLsbD 16 = false → Answers (.setFeatErrorRecovery a false nsid v) s (fun t =>
        (t.port a.port).committed = (s.port a.port).committed ++ [plainCompletion a.cid .success] ∧
        ∀ n ∈ featureNs s a.port nsid.toNat, assocGet n (t.port a.port).feat.tler = some (v.toNat % 65536))) ∧
      (v.getLsbD 16 = true → exec (.setFeatErrorRecovery a false nsid v) s = .next (adminRefused a 0x09 nsid.toNat 0x05 .invalidField s)) ∧
      Answers (.setFeatReservationNotifMask a false nsid v) s (fun t =>
        (t.port a.port).committed = (s.port a.port).committed ++ [plainCompletion a.cid .success] ∧
        ∀ n ∈ featureNs s a.port nsid.toNat, assocGet n (t.port a.port).feat.resMask = some v) ∧
      Answers (.setFeatReservationPersistence a false nsid v) s (fun t =>
        (t.port a.port).committed = (s.port a.port).committed ++ [plainCompletion a.cid .success] ∧
        ∀ x ∈ t.sub.namespaces, x.nsid ∈ featureNs s a.port nsid.toNat → x.res.ptpl = v.getLsbD 0)) ∧
    (nsid ≠ 0xFFFFFFFF → attachedNs s a.port nsid.toNat = none →
      ∀ x ∈ [(Instr.setFeatErrorRecovery a false nsid v, 0x05), (.setFeatReservationNotifMask a false nsid v, 0x82),
        (.setFeatReservationPersistence a false nsid v, 0x83)], exec x.1 s = .next (adminRefused a 0x09 nsid.toNat x.2 .invalidNs s)) ∧
    (∀ (ms : BitVec 48) (b : Bool) (h : BitVec 128), ∀ x ∈ [(Instr.setFeatArbitration a true v, 0x01, 0), (.setFeatPowerManagement a true v, 0x02, 0),
        (.setFeatTemperatureThreshold a true v, 0x04, 0), (.setFeatErrorRecovery a true nsid v, 0x05, nsid.toNat),
        (.setFeatVolatileWriteCache a true v, 0x06, 0), (.setFeatNumberOfQueues a true v, 0x07, 0),
        (.setFeatInterruptCoalescing a true v, 0x08, 0), (.setFeatInterruptVectorConfig a true v, 0x09, 0),
        (.setFeatWriteAtomicity a true v, 0x0A, 0), (.setFeatAsyncEventConfig a true v, 0x0B, 0), (.setFeatTimestamp a true ms, 0x0E, 0),
        (.setFeatHostBehaviorSupport a true b, 0x16, 0), (.setFeatSoftwareProgressMarker a true v, 0x80, 0),
        (.setFeatHostIdentifier a true b h, 0x81, 0), (.setFeatReservationNotifMask a true nsid v, 0x82, nsid.toNat),
        (.setFeatReservationPersistence a true nsid v, 0x83, nsid.toNat)],
      exec x.1 s = .next (adminRefused a 0x09 x.2.2 (x.2.1 + 2 ^ 31) .notSaveable s))

/-- O42. Namespace management, attachment, format and sanitize. In READY or STANDBY with no Sanitize running or failed: a create of
a good size with enough free bands of its kind builds the namespace and reports its identifier, other sizes are refused with
Invalid Field; delete removes the namespaces it names and frees their bands; attach and detach change the attachment to the
listed controllers; Format with LBAF 0 and SES 0 empties the bands of one namespace, other values are refused with Invalid
Format; an Overwrite of 1 to 4 passes begins, another action is refused with Invalid Field; Exit Failure Mode ends the failure.
The end of an Overwrite keeps the namespaces, leaves no line cached, no error deferred and the bands empty; one that fails is
marked failed. Emptied: WP 0 in a zone, no extent written in a conventional band, nothing counted as on media. A refusal is
recorded as CMD_REFUSED. -/
def Obligations.NamespacesFormatAndSanitize : Prop :=
  ∀ (a : AdminHdr) (s : State), adminRuns s a → beforeReady s = false → s.sub.sanitize.running = false → s.sub.sanitize.failed = false →
    (∀ (csi : Byte) (n k : Nat), (csi = 0 ∨ csi = 2) → n ≠ 0 → n % 65536 = 0 → s.dict.unvalidated = false → formatChanging s = false →
      freeNsid s = some k → n / 65536 ≤ (freeBands s (csi.toNat = 2)).length → exec (.namespaceCreate a csi n n 0) s =
        .next (completed a k .none (buildNs k (csi.toNat = 2) ((freeBands s (csi.toNat = 2)).take (n / 65536)) s)) ∧
      Answers (.namespaceCreate a csi n n 0) s (fun t => CompletedWith a k .none s t ∧
        ∃ x ∈ t.sub.namespaces, x.nsid = k ∧ x.size = n ∧ x.zoned = decide (csi = 2) ∧
        x.bands = (freeBands s (csi.toNat = 2)).take (n / 65536) ∧ x.attached0 = false ∧ x.attached1 = false)) ∧
    (∀ (csi : Byte) (n m : Nat) (f : BitVec 4), (n ≠ m ∨ n = 0 ∨ n % 65536 ≠ 0) →
      exec (.namespaceCreate a csi n m f) s = .next (adminRefused a 0x0D 0 0 .invalidField s)) ∧
    (∀ nsid : Word32, (s.sub.namespaces.filter (fun n => nsid = 0xFFFFFFFF || n.nsid = nsid.toNat)) ≠ [] →
      nsDenied s a.port (s.sub.namespaces.filter (fun n => nsid = 0xFFFFFFFF || n.nsid = nsid.toNat)) = false →
      exec (.namespaceDelete a nsid) s = .next (progress (adminDone a .success 0 .none
        ((s.sub.namespaces.filter (fun n => nsid = 0xFFFFFFFF || n.nsid = nsid.toNat)).foldl removeNs s))) ∧
      Answers (.namespaceDelete a nsid) s (fun t => Completed a .success t ∧
        t.sub.namespaces = s.sub.namespaces.filter (fun n => nsid ≠ 0xFFFFFFFF && n.nsid ≠ nsid.toNat) ∧
        ∀ n ∈ s.sub.namespaces, (nsid = 0xFFFFFFFF ∨ n.nsid = nsid.toNat) → ∀ k ∈ n.bands, isCalBand k = false → (bandRec t k).nsid = 0)) ∧
    (∀ (nsid : Word32) (l : List Word16) (n : Namespace), ctrlListOk s l = true → shownNsAt s nsid.toNat = some n → nsDenied s a.port [n] = false →
      ((∀ c ∈ l, n.attached (if c = 1 then 0 else 1) = false) → exec (.namespaceAttach a nsid l) s = .next (attachment a nsid.toNat l true s) ∧
        Answers (.namespaceAttach a nsid l) s (fun t => Completed a .success t ∧ ∃ m ∈ t.sub.namespaces, m.nsid = nsid.toNat ∧
          ∀ c ∈ l, m.attached (if c = 1 then 0 else 1) = true)) ∧
      ((∀ c ∈ l, n.attached (if c = 1 then 0 else 1) = true) → exec (.namespaceDetach a nsid l) s = .next (attachment a nsid.toNat l false s) ∧
        Answers (.namespaceDetach a nsid l) s (fun t => Completed a .success t ∧ ∃ m ∈ t.sub.namespaces, m.nsid = nsid.toNat ∧
          ∀ c ∈ l, m.attached (if c = 1 then 0 else 1) = false))) ∧
    (∀ (nsid : Word32) (n : Namespace), nsid ≠ 0xFFFFFFFF → attachedNs s a.port nsid.toNat = some n → nsDenied s a.port [n] = false →
      exec (.formatNvm a nsid 0 0) s = .next (progress (adminDone a .success 0 .none (noticeNs n.nsid (portsOf n) (wipeNs n s)))) ∧
      Answers (.formatNvm a nsid 0 0) s (fun t => Completed a .success t ∧ t.sub.namespaces = s.sub.namespaces ∧
        ∀ k ∈ n.bands, isCalBand k = false → (bandRec t k).onMedia = [] ∧
          ((bandRec s k).shingled = true → (bandRec t k).wp = 0) ∧ ((bandRec s k).shingled = false → (bandRec t k).extents = 0))) ∧
    (∀ (nsid : Word32) (f : BitVec 4) (e : BitVec 3), (f ≠ 0 ∨ e ≠ 0 ∨ nsid = 0xFFFFFFFF) →
      exec (.formatNvm a nsid f e) s = .next (adminRefused a 0x80 nsid.toNat (f.toNat + 512 * e.toNat) .invalidFormat s)) ∧
    (∀ (k : BitVec 4) (x : Word32), 1 ≤ k.toNat → k.toNat ≤ 4 → nsDenied s a.port s.sub.namespaces = false →
      Answers (.sanitizeOverwrite a k x 3) s (fun t => Completed a .success t ∧ t.sub.sanitize = ⟨true, false, k.toNat, x, 0⟩)) ∧
    (∀ (k : BitVec 4) (x : Word32) (z : BitVec 3), z ≠ 3 → exec (.sanitizeOverwrite a k x z) s =
      .next (adminRefused a 0x84 0 (z.toNat + 16 * k.toNat) .invalidField s)) ∧
    (∀ u : State, adminRuns u a → beforeReady u = false → u.sub.sanitize.running = false → exec (.sanitizeExitFailureMode a) u =
      .next (completed a 0 .none { u with sub.sanitize.failed := false }) ∧
      Answers (.sanitizeExitFailureMode a) u (fun t => t.sub.sanitize = { u.sub.sanitize with failed := false } ∧ CompletedWith a 0 .none u t)) ∧
    (∀ u : State, u.resident = true → u.sub.sanitize.running = true →
      exec (.sanitizeOverwriteDone true) u = .next { u with sub.sanitize := { u.sub.sanitize with running := false, failed := true } } ∧
      Answers (.sanitizeOverwriteDone false) u (fun t => t.sub.sanitize =
        { u.sub.sanitize with running := false, done := u.sub.sanitize.passes } ∧ t.sub.namespaces = u.sub.namespaces) ∧
      ∃ v, exec (.sanitizeOverwriteDone false) u = .next (progress v) ∧ v.cache.lines = [] ∧ v.sub.deferred = [] ∧
        ∀ n ∈ u.sub.namespaces, ∀ k ∈ n.bands, isCalBand k = false → (bandRec v k).onMedia = [] ∧
          ((bandRec u k).shingled = true → (bandRec v k).wp = 0) ∧ ((bandRec u k).shingled = false → (bandRec v k).extents = 0))

/-- O43. Firmware Image Download, Firmware Commit and the vendor admin commands. A piece that is judged accepted is taken and
completes with success, any other completes with its status, recorded. A commit action is answered with its outcome's status, or
not yet while an activation runs for it: allowed, 000b changes no slot, 001b and 010b set the slot of the next reset (010b of
the active slot clears it), 011b of a slot that needs no reset begins the activation; actions 100b to 111b complete with Invalid
Field, recorded. Commit, Discard, Set Object and Get Object go through the dictionary, whole or by segments, and its abort code
is completion dword 0; a Commit that may run begins its swap with the command waiting, a Discard empties the staging copy, Set
Object stages or stores its value, Get Object delivers the value, the rest of the buffer zero; dwords that break Table 15.9 are
refused with Invalid Field. -/
def Obligations.FirmwareAndVendorAdminCommands : Prop :=
  ∀ (a : AdminHdr) (s : State), adminRuns s a →
    (∀ x : FwPiece, judgePiece (pathOf a.port) x s = .accepted →
      exec (.firmwareImageDownload a x) s = .next (adminDone a .success 0 .none (takePiece (pathOf a.port) x s)) ∧
      Answers (.firmwareImageDownload a x) s (fun t => t.fw.pieces = s.fw.pieces + 1 ∧
        (t.port a.port).committed = (s.port a.port).committed ++ [plainCompletion a.cid .success])) ∧
    (∀ (x : FwPiece) (r : PieceAnswer), judgePiece (pathOf a.port) x s = r → r ≠ .accepted → exec (.firmwareImageDownload a x) s =
      .next (adminDone a r.status 0 .none (fwRefuse (pathOf a.port) r.status.word (offered x) s))) ∧
    (∀ (f : BitVec 3) (st : Status) (u : State) (c : Instr) (k : Nat), (c, k) ∈ [(Instr.fwCommitKeep a f, 0), (.fwCommitNextReset a f, 1),
        (.fwCommitExisting a f, 2), (.fwCommitImmediate a f, 3)] →
      (fwAction k f.toNat (pathOf a.port) (some a) false s = (some st, u) → exec c s = .next (adminDone a st 0 .none u)) ∧
      (fwAction k f.toNat (pathOf a.port) (some a) false s = (none, u) → exec c s = .next u)) ∧
    (∀ k : BitVec 3, exec (.fwCommitBootPartition a k) s =
      .next (adminDone a .invalidField 0 .none (fwRefuse (pathOf a.port) Status.invalidField.word 0 s)) ∧
      Answers (.fwCommitBootPartition a k) s (fun t => t.fw = { s.fw with refusals := s.fw.refusals + 1 } ∧ Completed a .invalidField t)) ∧
    (∀ (f : BitVec 3) (i : Fin 2), namedSlot s f.toNat = some i →
      (fwActionRefusal 0 i s = none → Answers (.fwCommitKeep a f) s (fun t => t.fw = s.fw ∧ CompletedWith a 0 .none s t)) ∧
      (fwActionRefusal 1 i s = none → Answers (.fwCommitNextReset a f) s (fun t =>
        t.fw = { s.fw with next := some i } ∧ CompletedWith a 0 .none s t)) ∧
      (fwActionRefusal 2 i s = none → Answers (.fwCommitExisting a f) s (fun t =>
        t.fw = { s.fw with next := if i = s.fw.active then none else some i } ∧ CompletedWith a 0 .none s t)) ∧
      (fwActionRefusal 3 i s = none → s.fw.slots[i].resetOnly = false → Answers (.fwCommitImmediate a f) s (fun t =>
        t.fw.activation = .draining ∧ t.fw.target = some i ∧ t.fw.asker = some a ∧ t.cmds.fetchStopped = true))) ∧
    (∀ (ns n : Nat) (u : State),
      (dictWrite (pathOf a.port) (.command a) 0x1020 1 [1] (atOffset ns s) = (some n, u) →
        exec (.vendorCommit ⟨a, ns⟩) s = .next (vendorDone a n 0 .none u)) ∧
      (dictWrite (pathOf a.port) (.command a) 0x1020 1 [1] (atOffset ns s) = (none, u) → exec (.vendorCommit ⟨a, ns⟩) s = .next u) ∧
      (dictWrite (pathOf a.port) (.command a) 0x1020 1 [2] s = (some n, u) → exec (.vendorDiscard a) s = .next (vendorDone a n 0 .none u)) ∧
      (dictWrite (pathOf a.port) (.command a) 0x1020 1 [2] s = (none, u) → exec (.vendorDiscard a) s = .next u)) ∧
    (∀ (ns : Nat) (o : Obj), AcceptedWrite (atOffset ns s) (pathOf a.port) 0x1020 1 [1] o → CommitRuns (atOffset ns s) →
      Answers (.vendorCommit ⟨a, ns⟩) s (fun t => t.dict.stage = .swapping ∧ t.dict.waiter = some (.command a) ∧ t.dict.staged = s.dict.staged ∧
        t.dict.commitAt = s.clock.ns + max s.clock.sub ns)) ∧
    (∀ o : Obj, AcceptedWrite s (pathOf a.port) 0x1020 1 [2] o → s.dict.stage = .idle → Answers (.vendorDiscard a) s (fun t =>
      t.dict.staged = [] ∧ t.dict.owner = none ∧ Completed a .success t)) ∧
    (∀ (x : Word32) (d : List Byte) (o : Obj), cdwBad x 0 24 0 d.length = false → cdwSegment x = false → cdwIndex x ≠ 0x1020 →
      AcceptedWrite s (pathOf a.port) (cdwIndex x) (cdwSub x) d o →
      (o.staged = true → Answers (.setObject a x 0 d) s (fun t => t.dict.staged = assocSet ⟨cdwIndex x, cdwSub x⟩ d s.dict.staged ∧
        t.dict.owner = some (s.dict.owner.getD (pathOf a.port)) ∧ CompletedWith a 0 .none s t)) ∧
      (o.staged = false → specialWrite (pathOf a.port) (cdwIndex x) (cdwSub x) d s = none → exec (.setObject a x 0 d) s =
        .next (completed a 0 .none (storeValue (pathOf a.port) (cdwIndex x) (cdwSub x) o.persistent d s)))) ∧
    (∀ x m : Word32, cdwBad x 0 25 1 m.toNat = false → x.getLsbD 24 = false → cdwSegment x = false →
      readCode s (pathOf a.port) (cdwIndex x) (cdwSub x) = 0 → destructive (cdwIndex x) (cdwSub x) = false →
      Answers (.getObject a x 0 m) s (fun t => ∀ v, v = readValue (dropSnapshot (pathOf a.port) s) (pathOf a.port) (cdwIndex x) (cdwSub x) →
        (t.port a.port).committed = (s.port a.port).committed ++ [⟨0, 0, a.cid, .success, false, 0, 0, BitVec.ofNat 32 v.length,
          .bytes (v.take m.toNat ++ List.replicate (m.toNat - (v.take m.toNat).length) 0)⟩])) ∧
    (∀ (x o : Word32) (d : List Byte) (r : Option Nat × State), cdwBad x o 24 0 d.length = false →
      r = (if cdwSegment x then segmentWrite (pathOf a.port) (.command a) (cdwIndex x) (cdwSub x) o.toNat (x.getLsbD 25) d s
        else dictWrite (pathOf a.port) (.command a) (cdwIndex x) (cdwSub x) d s) →
      (∀ n, r.1 = some n → exec (.setObject a x o d) s = .next (vendorDone a n 0 .none r.2)) ∧
      (r.1 = none → exec (.setObject a x o d) s = .next r.2)) ∧
    (∀ (x o : Word32) (d : List Byte), cdwBad x o 24 0 d.length = true →
      exec (.setObject a x o d) s = .next (adminRefused a 0xC1 0 x.toNat .invalidField s)) ∧
    (∀ (x o m : Word32), cdwBad x o 25 1 m.toNat = true →
      exec (.getObject a x o m) s = .next (adminRefused a 0xC2 0 x.toNat .invalidField s)) ∧
    (∀ (x o m : Word32) (n k : Nat) (v : List Byte) (u : State), cdwBad x o 25 1 m.toNat = false →
      dictRead (pathOf a.port) (cdwIndex x) (cdwSub x) (x.getLsbD 24) (cdwSegment x) o.toNat m.toNat s = (n, v, k, u) →
      exec (.getObject a x o m) s = .next (vendorDone a n k (.bytes (v ++ List.replicate (m.toNat - v.length) 0)) u))

/-- O44. Write, Write Zeroes, Zone Append, Read, Flush, and an opcode that is not supported. The row of an open context that has not
begun starts its write, a Zone Append's and a Write Zeroes' as well: its data are received, or it pauses for a line; a read that
may run begins, or looks up what it still lacks, and one that may not changes nothing; a Flush with nothing left commits,
another begins and has its blocks destaged with priority; an unsupported opcode completes with Invalid Command Opcode, recorded. -/
def Obligations.IoCommandsRunOnTheirContexts : Prop :=
  ∀ (id : Nat) (s : State), s.live = true →
    (∀ d, exec (.write id d) s = .next (startWrite .write id (fun _ => d) s) ∧
      exec (.zoneAppend id d) s = .next (startWrite .zoneAppend id (fun _ => d) s)) ∧
    exec (.writeZeroes id) s = .next (startWrite .writeZeroes id (fun n => List.replicate n 0) s) ∧
    (∀ (c : Ctx) (d : List Block) (x : Instr) (op : IoOp), (x, op) ∈ [(Instr.write id d, IoOp.write), (.zoneAppend id d, .zoneAppend),
        (.writeZeroes id, .writeZeroes)] → rowCtx s id (fun o => decide (o = op)) = some c → c.started = false → d.length = c.entry.nlb →
      Answers x s (fun t => ∀ y ∈ t.cmds.ctxs, y.id = id → y.started = true ∧ (y.dataDone = true ∨ ∃ p ∈ t.cache.pauses, p.ctx = id))) ∧
    (∀ c, rowCtx s id (fun o => decide (o = .read)) = some c → mayRead s c = true → c.started = false →
      Answers (.read id) s (fun t => ∀ y ∈ t.cmds.ctxs, y.id = id → y.started = true)) ∧
    (∀ c, rowCtx s id (fun o => decide (o = .flush)) = some c →
      (flushDone s c = true → c.silent = false → Answers (.flush id) s (CompletedIo c .success)) ∧
      (flushDone s c = false → Answers (.flush id) s (fun t => (∀ y ∈ t.cmds.ctxs, y.id = id → y.started = true) ∧
        ∀ x ∈ c.covered, x.1 ∈ t.cache.urgent))) ∧
    (∀ c, rowCtx s id (fun o => decide (o = .read)) = some c → mayRead s c = true →
      exec (.read id) s = .next (progress (if c.started then lookupRead id s else startRead c s))) ∧
    (∀ c, rowCtx s id (fun o => decide (o = .read)) = some c → mayRead s c = false → exec (.read id) s = .next s) ∧
    (∀ c, rowCtx s id (fun o => decide (o = .flush)) = some c → exec (.flush id) s =
      .next (if flushDone s c then progress (commitCtx id .success 0 0 s)
        else modCtx id (fun c => { c with started := true }) (destageFirst (c.covered.map (·.1)) s))) ∧
    (∀ (c : Ctx) (op : Byte), ctxOf s id = some c → c.committed = false → c.entry.op = .unsupported op →
      exec (.unsupportedIoOpcode id) s = .next (progress (refuseCtx c .invalidOpcode s)) ∧
      (c.silent = false → Answers (.unsupportedIoOpcode id) s (CompletedIo c .invalidOpcode)))

/-- O45. Zone management: the five actions, the reports, and the ordering point. An action whose turn has come completes: of one
zone, on an illegal transition with the status of it, recorded; on a legal one with success, and the zone, with no other write
open on it, is then Closed, Full, Explicitly Opened, Offline, or Empty (Offline where too few sectors are left). Set Zone
Descriptor Extension and Extended Report Zones complete with Invalid Field; Report Zones completes with the report of an option
it knows, else with Invalid Field. The ordering point of a reset or an Offline takes effect on the cache once: its zones are
forgotten by the cache and the context notes it. -/
def Obligations.ZoneManagementActsAtItsOrderingPoint : Prop :=
  ∀ (id : Nat) (s : State), s.live = true →
    (∀ (x : Instr) (op : IoOp), (x, op) ∈ [(Instr.zoneClose id, IoOp.zoneClose), (.zoneFinish id, .zoneFinish), (.zoneOpen id, .zoneOpen),
        (.zoneReset id, .zoneReset), (.zoneOffline id, .zoneOffline)] → exec x s = .next (zoneAction op id s) ∧
      (∀ (c : Ctx) (k : BandKey), rowCtx s id (fun o => decide (o = op)) = some c → mayAct s c = true → c.entry.selectAll = false →
        actionTargets s c = [k] →
        (actionStatus s op (bandRec s k).state ≠ .success →
          exec x s = .next (progress (refuseCtx c (actionStatus s op (bandRec s k).state) s))) ∧
        (actionStatus s op (bandRec s k).state = .success → exec x s =
          .next (progress (lookupWaiting (commitCtx id .success 0 0 (rejudge id k (noteBand k (actOn op c.effect k s)))))) ∧
          (c.silent = false → Answers x s (CompletedIo c .success)) ∧
          (zoneWrites s k = [] → isCalBand k = false → (bandRec s k).shingled = true → Answers x s (fun t =>
            (op = .zoneClose → (bandRec s k).state.isOpen = true → (bandRec t k).state = .closed) ∧
            (op = .zoneFinish → (bandRec t k).state = .full) ∧ (op = .zoneOpen → (bandRec t k).state = .explicitOpen) ∧
            (op = .zoneOffline → (bandRec t k).state = .offline) ∧
            (op = .zoneReset → (bandRec t k).state = .empty ∨ (bandRec t k).state = .offline)))))) ∧
    (∀ (k : BandKey) (b : Bool), isCalBand k = false →
      ((bandRec s k).state.isOpen = true → (bandRec (actOn .zoneClose b k s) k).state = .closed) ∧
      (bandRec (actOn .zoneFinish b k s) k).state = .full ∧ (bandRec (actOn .zoneOpen b k s) k).state = .explicitOpen ∧
      (bandRec (actOn .zoneOffline b k s) k).state = .offline ∧
      ((bandRec s k).state ≠ .empty → (bandRec s k).shingled = true →
        let r := bandRec (actOn .zoneReset b k s) k; (r.state = .empty ∨ r.state = .offline) ∧ r.wp = 0)) ∧
    (∀ c, rowCtx s id (fun o => decide (o = .setZoneDescExt)) = some c →
      exec (.setZoneDescriptorExt id) s = .next (progress (refuseCtx c .invalidField s)) ∧
      (c.silent = false → Answers (.setZoneDescriptorExt id) s (CompletedIo c .invalidField))) ∧
    (∀ c, rowCtx s id (fun o => decide (o = .extReportZones)) = some c →
      exec (.extendedReportZones id) s = .next (progress (refuseCtx c .invalidField s)) ∧
      (c.silent = false → Answers (.extendedReportZones id) s (CompletedIo c .invalidField))) ∧
    (∀ c, rowCtx s id (fun o => decide (o = .reportZones)) = some c →
      (7 < c.entry.zraOption.toNat → exec (.reportZones id) s = .next (progress (refuseCtx c .invalidField s))) ∧
      (c.entry.zraOption.toNat ≤ 7 → exec (.reportZones id) s =
        .next (progress (commitCtx id .success 0 0 (modCtx id (fun c => { c with result := .bytes (zoneReport s c) }) s))) ∧
        (c.silent = false → Answers (.reportZones id) s (fun t => ∃ y ∈ (t.port c.port).committed, y.cid = c.entry.cid ∧ y.sqid = c.sqid ∧
          y.status = .success ∧ y.data = .bytes (zoneReport s c))))) ∧
    (∀ c, rowCtx s id (fun o => decide (o = .zoneReset) || decide (o = .zoneOffline)) = some c →
      (c.effect = true → exec (.maintenanceOrderingPoint id) s = .next s) ∧
      (mayAct s c = true → c.effect = false → Answers (.maintenanceOrderingPoint id) s (fun t =>
        (∀ y ∈ t.cmds.ctxs, y.id = id → y.effect = true) ∧ t = modCtx id (fun c => { c with effect := true })
          (((actionTargets s c).filter (fun k => actionStatus s c.entry.op (bandRec s k).state = .success)).foldl (fun s k => zoneOrdering k s) s))))

/-- O46. Reservation Register, Report, Acquire and Release. A register, acquire or release that the rules of R308 allow takes effect
on the reservation of the namespace, one they do not allow completes with its status and leaves it; a report completes with the
registrants. (The rules of the actions are those of NVMe Base 2.0, log 18.) -/
def Obligations.ReservationsAnswerTheirHost : Prop :=
  ∀ (id : Nat) (s : State) (c : Ctx) (n : Namespace), s.live = true → findNs s c.ns = some n →
    (rowCtx s id (fun o => decide (o = .resRegister)) = some c → (registerRes n.res (hostOf s c.port) c.entry).1 ≠ .success →
      n.res.holder = none → exec (.reservationRegister id) s =
        .next (endReservation c (registerRes n.res (hostOf s c.port) c.entry).1 s)) ∧
    (rowCtx s id (fun o => decide (o = .resRegister)) = some c → (registerRes n.res (hostOf s c.port) c.entry).1 = .success →
      n.res.holder = none → exec (.reservationRegister id) s =
        .next (endReservation c .success (setReservation n.nsid (registerRes n.res (hostOf s c.port) c.entry).2 s))) ∧
    (rowCtx s id (fun o => decide (o = .resReport)) = some c → exec (.reservationReport id) s =
      .next (endReservation c .success (modCtx id (fun c => { c with result := .bytes (reservationReport n.res) }) s)) ∧
      (c.silent = false → Answers (.reservationReport id) s (fun t => ∃ y ∈ (t.port c.port).committed, y.cid = c.entry.cid ∧ y.sqid = c.sqid ∧
        y.status = .success ∧ y.data = .bytes (reservationReport n.res)))) ∧
    (∀ (x : Instr) (op : IoOp) (y : Status × Reservation),
      (x, op, y) ∈ [(Instr.reservationRegister id, IoOp.resRegister, registerRes n.res (hostOf s c.port) c.entry),
        (.reservationAcquire id, .resAcquire, (acquireRes n.res (hostOf s c.port) c.entry).1, (acquireRes n.res (hostOf s c.port) c.entry).2.1),
        (.reservationRelease id, .resRelease, (releaseRes n.res (hostOf s c.port) c.entry).1, (releaseRes n.res (hostOf s c.port) c.entry).2.1)] →
      rowCtx s id (fun o => decide (o = op)) = some c → c.silent = false →
      (y.1 = .success → Answers x s (fun t => CompletedIo c .success t ∧ ∃ m, findNs t c.ns = some m ∧ m.res = y.2)) ∧
      (y.1 ≠ .success → Answers x s (fun t => CompletedIo c y.1 t ∧ findNs t c.ns = some n))) ∧
    (rowCtx s id (fun o => decide (o = .resAcquire)) = some c → (acquireRes n.res (hostOf s c.port) c.entry).1 = .success →
      c.entry.resAction ≠ 2 → exec (.reservationAcquire id) s = .next (endReservation c .success
        (notify n.nsid 1 (fun y => (acquireRes n.res (hostOf s c.port) c.entry).2.2.any (fun g => sameHost g y))
          (setReservation n.nsid (acquireRes n.res (hostOf s c.port) c.entry).2.1 s)))) ∧
    (rowCtx s id (fun o => decide (o = .resRelease)) = some c → (releaseRes n.res (hostOf s c.port) c.entry).1 = .success →
      (releaseRes n.res (hostOf s c.port) c.entry).2.2 = 0 → exec (.reservationRelease id) s =
        .next (endReservation c .success (setReservation n.nsid (releaseRes n.res (hostOf s c.port) c.entry).2.1 s)))

/-- O47. The ports of the buffer memory, a repair that is dropped, a slow lap, and the end of a rebuild. A slot of a port takes in
its arrivals, grants one request once the buffer is ready and none before, and the slot count moves on by one; a read granted
leaves its answer, a write of the whole word stores the encoded word. The oldest repair write that has waited 4,096 slots is
dropped and counted, a younger one is not. A lap beyond its limit is recorded once. A held band whose rebuild is done is held no
more and is counted, and what waited goes on; without a journaled record its zone is Offline, or the conventional band excluded. -/
def Obligations.BufferPortsGrantOneRequestASlot : Prop :=
  ∀ (c : Fin 4) (s : State),
    (∀ (b : Bool) (l : List BufReq) (w : BufWord), s.power.running = true → s.power.dead = false → s.bms.stage ≠ .ready →
      exec (.bufferSlotGrant c b l w) s = .next (modBms c (modArbiter b (fun a => { a with slot := a.slot + 1 }))
        (modBms c (queueReqs b l) s)) ∧
      Answers (.bufferSlotGrant c b l w) s (fun t => t.bms.chans[c].words = s.bms.chans[c].words ∧
        (t.bms.chans[c].arbiter b).slot = (s.bms.chans[c].arbiter b).slot + 1)) ∧
    (∀ (w : BufWord) (x : Waiting), s.power.running = true → s.power.dead = false → s.bms.stage = .ready →
      grantOf s s.bms.chans[c] false = .request x → Answers (.bufferSlotGrant c false [] w) s (fun t =>
        (t.bms.chans[c].arbiter false).slot = (s.bms.chans[c].arbiter false).slot + 1 ∧
        ∃ d, t.bms.chans[c].lastRead = some (x.req.requester.val, d))) ∧
    (∀ (b : Bool) (w : BufWord) (g : Grant), s.power.running = true → s.power.dead = false → s.bms.stage = .ready →
      grantOf s s.bms.chans[c] b = g → exec (.bufferSlotGrant c b [] w) s =
        .next (modBms c (modArbiter b (fun a => { a with slot := a.slot + 1 })) (performGrant c b w g s))) ∧
    (∀ (w : BufWord) (x : Waiting), s.power.running = true → s.power.dead = false → s.bms.stage = .ready →
      grantOf s s.bms.chans[c] true = .request x → x.req.mask = BitVec.allOnes 32 → Answers (.bufferSlotGrant c true [] w) s (fun t =>
        (t.bms.chans[c].arbiter true).slot = (s.bms.chans[c].arbiter true).slot + 1 ∧ x ∉ (t.bms.chans[c].arbiter true).waiting ∧
        t.bms.chans[c].words = writeRow x.req.row.toNat (encodeWord x.req.data) s.bms.chans[c].words)) ∧
    (∀ (e : BitVec 22 × BufWord × Nat) (r : List (BitVec 22 × BufWord × Nat)), s.power.running = true → s.bms.chans[c].repairs = e :: r →
      (e.2.2 + 4096 ≤ s.bms.chans[c].writePort.slot → Answers (.repairWriteDrop c) s (fun t =>
        t = modBms c (fun b => { b with repairs := b.repairs.drop 1, drops := b.drops + 1 }) s ∧
        t.bms.chans[c].repairs = r ∧ t.bms.chans[c].drops = s.bms.chans[c].drops + 1)) ∧
      (s.bms.chans[c].writePort.slot < e.2.2 + 4096 → exec (.repairWriteDrop c) s = .next s)) ∧
    (s.bms.chans[c].repairs = [] → exec (.repairWriteDrop c) s = .next s) ∧
    (s.live = true → s.bms.stage = .ready → s.bms.chans.toList.any (·.lapWarned) = false → exec (.scrubLapWarn c) s =
      .next (raise (event 0x3001 2 srcController c.val ((s.clock.ns - s.bms.lapStart) / 1000000000))
        (modBms c (fun b => { b with lapWarned := true }) s))) ∧
    (s.live = true → s.bms.stage = .ready → s.bms.chans.toList.any (·.lapWarned) = false → Answers (.scrubLapWarn c) s (fun t =>
      t.bms.chans[c].lapWarned = true)) ∧
    (s.bms.chans.toList.any (·.lapWarned) = true → exec (.scrubLapWarn c) s = .next s) ∧
    (∀ (h : HeadId) (k : Nat) (j : Bool) (m : Nat), s.live = true → (bandRec s ⟨h, k⟩).held = true →
      exec (.rebuildDone h k j m) s = .next (progress (rebuildBand ⟨h, k⟩ j m s)) ∧
      (isCalBand ⟨h, k⟩ = false → Answers (.rebuildDone h k j m) s (fun t =>
        (bandRec t ⟨h, k⟩).held = false ∧ t.faults.rebuilds = s.faults.rebuilds + 1 ∧
        (j = false → (bandRec s ⟨h, k⟩).shingled = true → (bandRec t ⟨h, k⟩).state = .offline) ∧
        (j = false → (bandRec s ⟨h, k⟩).shingled = false → (bandRec t ⟨h, k⟩).excluded = true))))

/-- O48. A wait for a cache line, an idle unload, and memory exceptions of the planes. A pause of the 12-way limit whose ALLOC_WAIT
has passed is marked expired, and where its set holds no DIRTY line the oldest SHADOW line of the set is released early,
counted; with no such pause nothing changes. An idle actuator in PS1 is unloaded; outside PS1 nothing changes. An exception
takes its plane down, counted, HPC fetching no more or the caps held; the end of the restart lets the plane run again, HPC
fetching unless an activation holds it; a further exception while it restarts changes nothing (log 3). -/
def Obligations.CacheWaitsIdleUnloadsAndPlaneRestarts : Prop :=
  ∀ s : State, s.live = true →
    (∀ (q : Fin 6400) (p : Pause), s.cache.pauses.find? (fun p => p.set = q.val && p.twelve && !p.expired) = some p →
      exec (.allocWaitExpired q) s = .next (progress { s with cache.pauses := s.cache.pauses.map (fun y => if y = p then { y with expired := true } else y) }) ∧
      (∀ x : Line, s.cache.pauses.count p = 1 → (∀ y ∈ s.cache.pauses, y.expired = false) →
        (setLines s q.val).any (fun l => l.state = .dirty) = false → (setLines s q.val).find? (fun l => l.state = .shadow) = some x →
        Answers (.allocWaitExpired q) s (fun t => t.cache.shadowEarly = s.cache.shadowEarly + 1))) ∧
    (∀ q : Fin 6400, s.cache.pauses.find? (fun p => p.set = q.val && p.twelve && !p.expired) = none →
      exec (.allocWaitExpired q) s = .next s) ∧
    (∀ n : ChanId, s.power.phase = .ready → inPs1 s = true → (s.chan n).load = .loaded → chanIdle s n = true →
      Answers (.unloadIdleExpired n) s (fun t => (t.chan n).load = .unloaded ∧ t = unloadChans [n] s)) ∧
    (∀ n : ChanId, inPs1 s = false → exec (.unloadIdleExpired n) s = .next s) ∧
    (s.faults.dataDown = false → exec .memExceptionDataPlane s = .next (dataPlaneRestart s) ∧ Answers .memExceptionDataPlane s (fun t =>
      t.faults.dataDown = true ∧ t.cmds.fetchStopped = true ∧ t.faults.planeRestarts = s.faults.planeRestarts + 1 ∧
      t.faults.dataRestart = some (powerOn s))) ∧
    (s.faults.dataDown = true → exec .memExceptionDataPlane s = .next s ∧ exec (.planeRestartDone .dataPlane) s =
      .next (rebuildDestage { s with faults.dataDown := false, cmds.fetchStopped := decide (s.fw.activation ≠ .none) }) ∧
      Answers (.planeRestartDone .dataPlane) s (fun t => t.faults.dataDown = false ∧ t.cmds.fetchStopped = decide (s.fw.activation ≠ .none) ∧
        t.cmds.ctxs = s.cmds.ctxs)) ∧
    (s.faults.mgmtDown = false → exec .memExceptionMgmtPlane s = .next (mgmtPlaneRestart s) ∧ Answers .memExceptionMgmtPlane s (fun t =>
      t.faults.mgmtDown = true ∧ t.env.held = true ∧ t.faults.planeRestarts = s.faults.planeRestarts + 1 ∧
      t.faults.mgmtRestart = some (powerOn s))) ∧
    (s.faults.mgmtDown = true → exec .memExceptionMgmtPlane s = .next s) ∧
    exec (.planeRestartDone .mgmtPlane) s = .next { s with faults.mgmtDown := false }

/-- O49. The ends of NAND operations, the journal, the checkpoint and code misses. A program of at most 12 pulses is good and its
page is held; one of more has failed: counted, and outside the vault programmed again in the replacement block. An erase of at
most 5 pulses is good, and counts for the journal and the slots; one of more has failed: counted, and the replacement erased in
its place. An OEM read ends with the status and retry level of the first level at which every segment has decoded, or as
uncorrectable; a code read under a suspend fills the code cache and lets the operation resume. Once the Mule is mounted the
journal's page buffer is programmed, if its die is idle and the page erased, and a checkpoint takes the band records. A code
page that is not cached is a miss, counted and served or waiting; after the bar a waiting miss may suspend again. -/
def Obligations.NandOperationsEndByTheirPulses : Prop :=
  ∀ (d : Fin 2) (s : State),
    (∀ (k : Nat) (w : Partition) (a : PageAddr) (x : List NandPage), s.mule.dies[d].op = some (.program w a x) → s.power.running = true →
      s.mule.dies[d].suspended = false → exec (.nandProgramDone d k) s =
        .next (if k ≤ 12 then programGood d w x s else programBad d w a x s) ∧
      (k ≤ 12 → w ≠ .vault0 → w ≠ .vault1 → ∀ y, x = [y] → Answers (.nandProgramDone d k) s (fun t =>
        ∃ e ∈ t.mule.dies[(pageOf s w y.lpage).die].pages, e.2 = y)) ∧
      (12 < k → w ≠ .vault0 → w ≠ .vault1 → Answers (.nandProgramDone d k) s (fun t => ∃ b,
        t.mule.programFails = s.mule.programFails + 1 ∧ t.mule.dies[d].op = some (.program w { a with block := b } x)))) ∧
    (∀ (k : Nat) (w : Partition) (a : PageAddr), s.mule.dies[d].op = some (.erase w a) → s.power.running = true → s.power.vault = .none →
      s.mule.dies[d].suspended = false → exec (.nandEraseDone d k) s = .next (if k ≤ 5 then eraseGood d w a s else eraseBad d w a s) ∧
      (k ≤ 5 → (w = .journal → Answers (.nandEraseDone d k) s (fun t => t.mule.journalErased[d] = s.mule.journalErased[d] + 1)) ∧
        (w = .slotA ∨ w = .slotB → Answers (.nandEraseDone d k) s (fun t => t.fw.eraseLeft[d] = s.fw.eraseLeft[d] - 1)))) ∧
    (∀ (k : Nat) (w : Partition) (a : PageAddr), s.mule.dies[d].op = some (.erase w a) → s.power.running = true → s.power.vault = .none →
      s.mule.dies[d].suspended = false → 5 < k → Answers (.nandEraseDone d k) s (fun t => ∃ b,
        t.mule.eraseFails = s.mule.eraseFails + 1 ∧ t.mule.dies[d].op = some (.erase w { a with block := b }))) ∧
    (∀ (e : SegmentErrors) (x : List Byte) (a : PageAddr), s.live = true → s.mule.dies[d].suspended = false →
      s.mule.dies[d].op = some (.read .oem a) → exec (.nandReadDone d e x) s = .next (oemRead d a (decodeLevel e) x s) ∧
      (∀ l : Fin 9, decodeLevel e = some l → Answers (.nandReadDone d e x) s (fun t =>
        t.mule.oemStatus = BitVec.ofNat 8 (2 + 16 * l.val) ∧ t.mule.retryHist[l.val]? = (s.mule.retryHist[l.val]?).map (· + 1))) ∧
      (decodeLevel e = none → Answers (.nandReadDone d e x) s (fun t =>
        t.mule.oemStatus = 0x84 ∧ t.mule.retryHist[9]? = (s.mule.retryHist[9]?).map (· + 1)))) ∧
    (∀ (e : SegmentErrors) (x : List Byte), s.live = true → s.mule.dies[d].suspended = true →
      exec (.nandReadDone d e x) s = .next (codeRead d (decodeLevel e) s)) ∧
    (∀ (e : SegmentErrors) (x : List Byte) (l : Fin 9) (g m : Nat) (r : List (Nat × Nat)), s.live = true → s.mule.dies[d].suspended = true →
      s.mule.dies[d].misses = (g, m) :: r → decodeLevel e = some l → Answers (.nandReadDone d e x) s (fun t => t.mule.dies[d].misses = r ∧
        t.mule.dies[d].suspended = false ∧ t.mule.dies[d].barred = true ∧ codeCached t g = true)) ∧
    (∀ e : SegmentErrors, (decodeLevel e = some 0 ↔ ∀ i < 16, segmentDecodes e i 0 = true)) ∧
    (s.live = true → s.mule.mounted = true → exec .journalFlushTimer s = .next (startJournal s) ∧
      (∀ a : PageAddr, a = pageOf s .journal (s.mule.journalSeq / 256 % journalLength) → s.mule.dies[a.die].op = none → isErased s a = true →
        s.mule.journalFlight = [] → s.mule.journalBuf ≠ [] → Answers .journalFlushTimer s (fun t => t.mule.journalFlight ≠ [] ∧
          ∃ x, t.mule.dies[a.die].op = some (.program .journal a [x]))) ∧
      Answers .checkpointTrigger s (fun t => t.mule.checkpoint = s.sub.bands ∧ t.mule.journal = [] ∧
        t.mule.ckptSeq = s.mule.ckptSeq + 1 ∧ t.mule.ckptNs = s.clock.ns ∧ t.mule.sinceCkpt = 0 ∧ t.sub = s.sub)) ∧
    (∀ g : Nat, s.resident = true → codeCached s g = false → ∃ u, exec (.codeMiss g d) s = .next (serveMiss d u) ∧
      u.mule.codeMisses = s.mule.codeMisses + 1 ∧ u.mule.dies[d].misses = s.mule.dies[d].misses ++ [(g, s.clock.ns)]) ∧
    (∀ g : Nat, s.resident = true → codeCached s g = false → Answers (.codeMiss g d) s (fun t =>
      t.mule.codeMisses = s.mule.codeMisses + 1 ∧ t.mule.dies[d].misses = s.mule.dies[d].misses ++ [(g, s.clock.ns)])) ∧
    (∀ g : Nat, codeCached s g = true → exec (.codeMiss g d) s = .next s) ∧
    (s.live = true → exec (.suspendIntervalEnd d) s = .next (serveMiss d (modDie d (fun x => { x with barred := false }) s)) ∧
      Answers (.suspendIntervalEnd d) s (fun t => t.mule.dies[d].barred = false ∧ t.mule.dies[d].misses = s.mule.dies[d].misses))

/-- O50. The mailbox of a port, and EVT_BASE. While GO is 1 a doorbell write, and what is written into MB_REQUEST, is ignored.
Otherwise what the host has written stands in MB_REQUEST, from its first byte on, the bytes beyond it as they were; GO with LEN
of 1 to 4,096 sends that many bytes of it and clears VALID; another LEN leaves GO clear and sets VALID with length 0; without GO
the length is kept (log 36). A response that waits is presented with its length: VALID, GO clear, MAILBOX_DONE set. EVT_BASE
keeps bits 11 to 0. -/
def Obligations.MailboxAndItsRegisters : Prop :=
  ∀ (p : PortId) (s : State), s.live = true →
    (∀ (v : Word32) (m : List Byte), (s.port p).mbGo = true → exec (.mbDoorbellWrite p v m) s = .next s) ∧
    (∀ (v : Word32) (m page : List Byte), (s.port p).mbGo = false → page = (m ++ (s.port p).mbReq.drop m.length).take 4096 →
      (v.getLsbD 31 = true → 1 ≤ v.toNat % 65536 → v.toNat % 65536 ≤ 4096 → exec (.mbDoorbellWrite p v m) s =
        .next (mailboxSend p ((page ++ List.replicate 4096 0).take (v.toNat % 65536)) (s.modPort p (fun q => { q with mbReq := page }))) ∧
        Answers (.mbDoorbellWrite p v m) s (fun t => (t.port p).mbGo = true ∧ (t.port p).mbResp = none ∧ (t.port p).mbReq = page)) ∧
      (v.getLsbD 31 = true → (v.toNat % 65536 = 0 ∨ 4096 < v.toNat % 65536) → Answers (.mbDoorbellWrite p v m) s (fun t =>
        (t.port p).mbGo = false ∧ (t.port p).mbResp = some [] ∧ (t.port p).mbReq = page ∧ bar2Reg t p 0x0044 = 2 ^ 31 ∧
        (t.port p).status = (s.port p).status ||| 0x200)) ∧
      (v.getLsbD 31 = false → exec (.mbDoorbellWrite p v m) s =
        .next (s.modPort p (fun q => { q with mbReq := page, mbLen := BitVec.ofNat 16 (v.toNat % 65536) })))) ∧
    (∀ r : List Byte, (s.port p).mbWait = some r → Answers (.mailboxResponse p) s (fun t =>
      (t.port p).mbGo = false ∧ (t.port p).mbResp = some r ∧ (t.port p).mbWait = none ∧
      (t.port p).status = (s.port p).status ||| 0x200)) ∧
    ((s.port p).mbWait = none → exec (.mailboxResponse p) s = .next s) ∧
    (∀ v : Word32, exec (.evtBaseWrite p v) s = .next (s.modPort p (fun q => { q with evtBase := v.truncate 12 })))

/-- O51. Plarik requests of every operation, over MCTP and over a mailbox. A request of each operation is received over MCTP when
the path is open, and through the mailbox of either port when it is free, a commit at its instant in the tick. Without bytes 0
to 3, or for another node, it is discarded and counted, with no answer; a malformed one is answered with 0xD0000061 and one of
an unknown operation with 0xD0000060. A sound request of a path that is not busy is counted; over MCTP it is answered, or its
endpoint waits for the answer; through a mailbox GO stands until the response is presented. A row whose bytes carry another
operation changes nothing (log 3). -/
def Obligations.PlarikRequestsArriveOverTheirPath : Prop :=
  (∀ (q : Path) (r : PlarikReq) (k : Nat) (s u : State) (x : Instr) (ok : Bool),
      (x, ok, u) ∈ [(Instr.plarikGet q r, decide (reqOp r.bytes = 1), s), (.plarikSet q r, decide (reqOp r.bytes = 2), s),
        (.plarikCommit q ⟨r, k⟩, decide (reqOp r.bytes = 3) && decide (reqPayload r.bytes ≠ [2]), atOffset k s),
        (.plarikDiscard q r, decide (reqOp r.bytes = 3) && decide (reqPayload r.bytes = [2]), s),
        (.plarikDescribe q r, decide (reqOp r.bytes = 4), s), (.plarikNext q r, decide (reqOp r.bytes = 5), s),
        (.plarikUnknownOp q r, decide (reqOp r.bytes < 1) || decide (5 < reqOp r.bytes), s)] →
      (ok = false → exec x s = .next s) ∧
      (ok = true → q = .mctp → mctpOpen s = true → exec x s = .next (plarikReceive .mctp r.endpoint r.bytes u) ∧
        (4 ≤ r.bytes.length → addressed s .mctp r.bytes = true → malformed r.bytes = false →
          (1 ≤ reqOp r.bytes → reqOp r.bytes ≤ 5 → plarikBusy s .mctp r.endpoint = false → Answers x s (fun t =>
            t.mgmt.requests = s.mgmt.requests + 1 ∧ (s.mgmt.sent.length < t.mgmt.sent.length ∨ r.endpoint ∈ t.mgmt.busy))) ∧
          (reqOp r.bytes = 0 ∨ 5 < reqOp r.bytes → Answers x s (fun t => t.mgmt.sent.length = s.mgmt.sent.length + 1)))) ∧
      (∀ n : PortId, ok = true → q = pathOf n → s.live = true → (s.port n).mbGo = false → exec x s = .next (mailboxSend n r.bytes u) ∧
        Answers x s (fun t => (t.port n).mbGo = true ∧ (dictServes s = true → 4 ≤ r.bytes.length → malformed r.bytes = false →
          1 ≤ reqOp r.bytes → reqOp r.bytes ≤ 5 → dictBusy s = false → t.mgmt.requests = s.mgmt.requests + 1)))) ∧
    (∀ (p : Path) (e : Byte) (b : List Byte) (s : State), dictServes s = true →
      (b.length < 4 ∨ addressed s p b = false → plarikReceive p e b s = { s with mgmt.discards := s.mgmt.discards + 1 }) ∧
      (4 ≤ b.length → addressed s p b = true → malformed b = true → plarikReceive p e b s = plarikRefuse p e b 0xD0000061 s) ∧
      (4 ≤ b.length → addressed s p b = true → malformed b = false → (reqOp b = 0 ∨ 5 < reqOp b) →
        plarikReceive p e b s = plarikRefuse p e b 0xD0000060 s))

/-- O52. MCTP control messages. Over an open path, Set Endpoint ID takes an identifier other than 0x00 and 0xFF and answers with it;
Get Endpoint ID, UUID, version support, message type support and vendor support are answered and change nothing but what was
sent; a message of an unsupported type, or with an integrity check where it must not have one, is discarded and counted; an
NVMe-MI message may carry one. An identifier, a type or a selector that is not known is answered with its error. (The bytes are
those of the MCTP Base Specification, log 37.) -/
def Obligations.MctpControlMessagesAreAnswered : Prop :=
  ∀ s : State, mctpOpen s = true →
    (∀ e : Byte, e ≠ 0 → e ≠ 0xFF → exec (.setEndpointId e) s = .next (mctpSend [0x01, 0x00, 0, e, 0] { s with mgmt.eid := e })) ∧
    exec (.setEndpointId 0) s = .next (mctpSend [0x01, 0x02] s) ∧ exec (.setEndpointId 0xFF) s = .next (mctpSend [0x01, 0x02] s) ∧
    exec .getEndpointId s = .next (mctpSend [0x02, 0x00, s.mgmt.eid, 0, 0] s) ∧
    exec .getEndpointUuid s = .next (mctpSend ([0x03, 0x00] ++ leBytes 16 Config.endpointUuid.toNat) s) ∧
    exec (.getMctpVersionSupport 0x00) s = .next (mctpSend [0x04, 0x00, 1, 0xF1, 0xF3, 0xFF, 0x00] s) ∧
    exec (.getMctpVersionSupport 0x04) s = .next (mctpSend [0x04, 0x00, 1, 0xF1, 0xF2, 0xFF, 0x00] s) ∧
    exec (.getMctpVersionSupport 0xFF) s = .next (mctpSend [0x04, 0x00, 1, 0xF1, 0xF3, 0xFF, 0x00] s) ∧
    exec (.getMctpVersionSupport 0x7E) s = .next (mctpSend ([0x04, 0x00, 1] ++ leBytes 4 Config.plarikVersion.toNat) s) ∧
    (∀ k : Byte, Answers (.getMctpVersionSupport k) s (fun t => t.mgmt.sent.length = s.mgmt.sent.length + 1 ∧ t.mgmt.eid = s.mgmt.eid)) ∧
    (∀ k : Byte, k ≠ 0 → k ≠ 4 → k ≠ 0x7E → k ≠ 0xFF → exec (.getMctpVersionSupport k) s = .next (mctpSend [0x04, 0x80] s)) ∧
    exec .getMessageTypeSupport s = .next (mctpSend [0x05, 0x00, 2, 0x04, 0x7E] s) ∧
    exec (.getVendorDefinedMsgSupport 0) s =
      .next (mctpSend ([0x06, 0x00, 0xFF, 0] ++ (leBytes 2 Config.pciVendorId.toNat).reverse ++ [0, 0]) s) ∧
    (∀ k : Byte, k ≠ 0 → exec (.getVendorDefinedMsgSupport k) s = .next (mctpSend [0x06, 0x02] s)) ∧
    (∀ e : Byte, e ≠ 0 → e ≠ 0xFF → Answers (.setEndpointId e) s (fun t => t.mgmt.eid = e ∧ t.mgmt.sent = s.mgmt.sent ++ [[0x01, 0x00, 0, e, 0]])) ∧
    (∀ (x : Instr) (r : List Byte), (x, r) ∈ [(Instr.getEndpointId, [0x02, 0x00, s.mgmt.eid, 0, 0]),
        (.getEndpointUuid, [0x03, 0x00] ++ leBytes 16 Config.endpointUuid.toNat), (.getMctpVersionSupport 0, [0x04, 0x00, 1, 0xF1, 0xF3, 0xFF, 0x00]),
        (.getMessageTypeSupport, [0x05, 0x00, 2, 0x04, 0x7E]),
        (.getVendorDefinedMsgSupport 0, [0x06, 0x00, 0xFF, 0] ++ (leBytes 2 Config.pciVendorId.toNat).reverse ++ [0, 0])] →
      Answers x s (fun t => t.mgmt.sent = s.mgmt.sent ++ [r])) ∧
    (∀ (k : BitVec 7) (ic : Bool), ((k ≠ 0 ∧ k ≠ 4 ∧ k ≠ 0x7E) ∨ (ic = true ∧ k ≠ 4)) →
      exec (.mctpMessageDiscard k ic) s = .next { s with mgmt.drops := s.mgmt.drops + 1 }) ∧
    exec (.mctpMessageDiscard 4 true) s = .next s

/-- O53. NVMe-MI over MCTP, SMBus alerts and I3C addresses. Data structures, health polls, configuration and tunnelled admin
commands are answered over an open path; a data structure type, a configuration identifier and a controller that are not known
are answered with Invalid Parameter; the frequency and the transmission unit are kept; a health poll or a configuration that
clears drops the change flags that no longer stand. While ALERT_N is low the controller answers the alert response with its own
address; ENTDAA, and SETDASA to its static address, give it an I3C address. (Bytes: log 37.) -/
def Obligations.NvmeMiAndTheManagementBuses : Prop :=
  ∀ s : State, mctpOpen s = true →
    exec (.readNvmeMiDataStructure 4 0 0) s = .next (miAnswer 0x00 (leBytes 2 2) (leBytes 2 0) s) ∧
    (∀ (k x : Byte) (c : Word16), 5 ≤ k.toNat → exec (.readNvmeMiDataStructure k x c) s = .next (miAnswer 0x04 [] [] s)) ∧
    (∀ (k x : Byte) (c : Word16), Answers (.readNvmeMiDataStructure k x c) s (fun t => t.mgmt.sent.length = s.mgmt.sent.length + 1)) ∧
    (∀ (k x : Byte) (v : Word16), exec (.miConfigurationSet (.other k) x v) s = .next (miAnswer 0x04 [] [] s) ∧
      exec (.miConfigurationGet (.other k) x) s = .next (miAnswer 0x04 [] [] s)) ∧
    (∀ b : Bool, Answers (.nvmSubsystemHealthPoll b) s (fun t => t.mgmt.sent.length = s.mgmt.sent.length + 1 ∧
      t.mgmt.healthChange = ((s.mgmt.healthChange ||| (if b then 0xFFFF else 0)) &&& healthNow s))) ∧
    (∀ (a : Word16) (m : Byte) (b : Bool), Answers (.controllerHealthPoll a m b) s (fun t => t.mgmt.sent.length = s.mgmt.sent.length + 1 ∧
      t.mgmt.healthChange = ((s.mgmt.healthChange ||| (if b then 0xFFFF else 0)) &&& healthNow s))) ∧
    (∀ v : Word16, (v = 1 ∨ v = 2) → exec (.miConfigurationSet .smbusFrequency 2 v) s =
      .next (miAnswer 0x00 [] [] { s with mgmt.smbusFreq := v.toNat })) ∧
    (∀ v : Word16, 64 ≤ v.toNat → v.toNat ≤ 256 → exec (.miConfigurationSet .transmissionUnit 0 v) s =
      .next (miAnswer 0x00 [] [] { s with mgmt.tu := v.toNat })) ∧
    (∀ (x : Byte) (v : Word16), exec (.miConfigurationSet .healthStatusChange x v) s = .next (miAnswer 0x00 [] [] (clearHealth v s))) ∧
    Answers (.readNvmeMiDataStructure 4 0 0) s (fun t => t.mgmt.sent = s.mgmt.sent ++ [[0, 2, 0, 0, 0, 0]]) ∧
    (∀ (c : MiConfig) (x : Byte) (v : Word16), Answers (.miConfigurationSet c x v) s (fun t => t.mgmt.sent.length = s.mgmt.sent.length + 1) ∧
      Answers (.miConfigurationGet c x) s (fun t => t.mgmt.sent.length = s.mgmt.sent.length + 1)) ∧
    (∀ v : Word16, (v = 1 ∨ v = 2) → Answers (.miConfigurationSet .smbusFrequency 2 v) s (fun t => t.mgmt.smbusFreq = v.toNat)) ∧
    (∀ (c : Word16) (u : Tunnel), Answers (.miAdminTunnel c u) s (fun t => t.mgmt.sent.length = s.mgmt.sent.length + 1)) ∧
    exec (.miConfigurationGet .smbusFrequency 2) s = .next (miAnswer 0x00 (leBytes 1 s.mgmt.smbusFreq) [] s) ∧
    exec (.miConfigurationGet .transmissionUnit 0) s = .next (miAnswer 0x00 (leBytes 2 s.mgmt.tu) [] s) ∧
    (∀ (c : Word16) (u : Tunnel), ((controllers s).contains c.toNat = true → exec (.miAdminTunnel c u) s =
        .next (tunnelRun (if c = 1 then 0 else 1) u s)) ∧
      ((controllers s).contains c.toNat = false → exec (.miAdminTunnel c u) s = .next (miAnswer 0x04 [] [] s))) ∧
    (bitOf (cfg s 0x1100 3) 0 = true → s.power.alertLow = true → exec .smbusAlertResponse s =
      .next { s with mgmt.alertAnswers := s.mgmt.alertAnswers ++ [BitVec.ofNat 8 (0x1D + b2n s.power.straps.addrSel0 + 2 * b2n s.power.straps.addrSel1)] }) ∧
    (s.power.alertLow = false → exec .smbusAlertResponse s = .next s) ∧
    (∀ x, bitOf (cfg s 0x1100 3) 1 = true → exec (.i3cAddressAssignment (.entdaa x)) s = .next { s with mgmt.i3cAddr := some x }) ∧
    (∀ st x, bitOf (cfg s 0x1100 3) 1 = true → (cfg s 0x1100 4 ≠ 0 → st.toNat = cfg s 0x1100 4 → exec (.i3cAddressAssignment (.setdasa st x)) s =
      .next { s with mgmt.i3cAddr := some x }) ∧ (st.toNat ≠ cfg s 0x1100 4 → exec (.i3cAddressAssignment (.setdasa st x)) s = .next s))

/-- O54. What an accepted write of each object with a row of its own does. A write that passes every step of R440 is answered with 0
and has the effect of its object, where the object is not one of the staging copy: a stored value, the correctable-error table
cleared, the requested cache mode, the dirty limit applied, capture control and decimation, retirement and its undoing, the OEM
commands, the slot's erase, the node number, the log selection, the recorder's mode and freeze. -/
def Obligations.AcceptedObjectWritesHaveTheirEffect : Prop :=
  ∀ (p : Path) (o : Obj) (s : State), o.staged = false →
    (∀ v : Byte, AcceptedWrite s p 0x2201 1 [v] o → exec (.scrubEnableWrite p v) s =
      .next (showAnswer 0 [] (storeValue p 0x2201 1 o.persistent [v] s))) ∧
    (∀ v : Byte, AcceptedWrite s p 0x2205 2 [v] o → exec (.ceTableClear p v) s =
      .next (showAnswer 0 [] (if v = 1 then { s with bms.ceTable := [] } else s))) ∧
    (∀ v : Byte, AcceptedWrite s p 0x2300 1 [v] o → exec (.cacheModeWrite p v) s =
      .next (showAnswer 0 [] (requestMode (cacheModeOf v.toNat) (storeValue p 0x2300 1 true [v] s)))) ∧
    (∀ v : Word16, AcceptedWrite s p 0x2300 3 (leBytes 2 v.toNat) o → exec (.dirtyLimitWrite p v) s =
      .next (showAnswer 0 [] (applyDirtyLimit (storeValue p 0x2300 3 true (leBytes 2 v.toNat) s)))) ∧
    (∀ v : Byte, AcceptedWrite s p 0x4010 1 [v] o → exec (.captureCtrlWrite p v) s =
      .next (showAnswer 0 [] (restartDecim { s with mgmt.capCtrl := v.toNat, mgmt.capLost := 0 }))) ∧
    (∀ v : Byte, AcceptedWrite s p 0x4010 3 [v] o → exec (.captureDecimWrite p v) s =
      .next (showAnswer 0 [] (restartDecim { s with mgmt.capDecim := v.toNat }))) ∧
    (∀ v : Word16, AcceptedWrite s p 0x7302 1 (leBytes 2 v.toNat) o → exec (.retireReqWrite p v) s =
      .next (showAnswer 0 [] (retireByRequest v.toNat s))) ∧
    (∀ v : Byte, AcceptedWrite s p 0x7302 2 [v] o → exec (.unretireWrite p v) s =
      .next (showAnswer 0 [] { s with faults.unretire := decide (v.toNat = 1) })) ∧
    (AcceptedWrite s p 0x7050 3 [1] o → exec (.oemRead p) s = .next (showAnswer 0 [] (oemStart 1 s))) ∧
    (AcceptedWrite s p 0x7050 3 [2] o → exec (.oemProgram p) s = .next (showAnswer 0 [] (oemStart 2 s))) ∧
    (AcceptedWrite s p 0x7050 3 [3] o → exec (.oemErase p) s = .next (showAnswer 0 [] (oemStart 3 s))) ∧
    (∀ v : Byte, AcceptedWrite s p 0x7060 1 [v] o → exec (.slotEraseWrite p v) s = .next (showAnswer 0 [] (eraseSlot v.toNat s))) ∧
    (∀ v : Word16, AcceptedWrite s p 0x1001 1 (leBytes 2 v.toNat) o → exec (.nodeNumberWrite p v) s =
      .next (showAnswer 0 [] (storeValue p 0x1001 1 o.persistent (leBytes 2 v.toNat) s))) ∧
    (∀ v : Word32, AcceptedWrite s p 0x7202 1 (leBytes 4 v.toNat) o → exec (.logSelectWrite p v) s =
      .next (showAnswer 0 [] { s with evr.logSelect := v.toNat })) ∧
    (∀ v : Byte, AcceptedWrite s p 0x7200 1 [v] o → exec (.evtModeWrite p v) s =
      .next (showAnswer 0 [] (setEvtMode (decide (v.toNat = 1)) (storeValue p 0x7200 1 true [v] s)))) ∧
    (∀ v : Byte, AcceptedWrite s p 0x7200 2 [v] o → exec (.evtFreezeWrite p v) s =
      .next (showAnswer 0 [] (if v.toNat = 1 then freeze s else unfreeze s))) ∧
    (∀ b : Byte, AcceptedWrite s p 0x2201 1 [b] o →
      Answers (.scrubEnableWrite p b) s (fun t => assocGet ⟨0x2201, 1⟩ t.dict.values = some [b] ∧ t.mgmt.answer = some (0, []))) ∧
    (AcceptedWrite s p 0x2205 2 [1] o → Answers (.ceTableClear p 1) s (fun t => t.bms.ceTable = [] ∧ t.mgmt.answer = some (0, []))) ∧
    (∀ b : Byte, AcceptedWrite s p 0x2300 1 [b] o → Answers (.cacheModeWrite p b) s (fun t =>
      t.cache.requested = cacheModeOf b.toNat ∧ t.mgmt.answer = some (0, []))) ∧
    (∀ h : Word16, AcceptedWrite s p 0x2300 3 (leBytes 2 h.toNat) o → Answers (.dirtyLimitWrite p h) s (fun t =>
      assocGet ⟨0x2300, 3⟩ t.dict.values = some (leBytes 2 h.toNat) ∧ t.mgmt.answer = some (0, []))) ∧
    (∀ b : Byte, AcceptedWrite s p 0x4010 1 [b] o → Answers (.captureCtrlWrite p b) s (fun t =>
      t.mgmt.capCtrl = b.toNat ∧ t.mgmt.capLost = 0 ∧ t.mgmt.answer = some (0, []))) ∧
    (∀ b : Byte, AcceptedWrite s p 0x4010 3 [b] o → Answers (.captureDecimWrite p b) s (fun t =>
      t.mgmt.capDecim = b.toNat ∧ t.mgmt.answer = some (0, []))) ∧
    (∀ n : ChanId, AcceptedWrite s p 0x7302 1 (leBytes 2 (0xC000 + n.val)) o → unitRetired s (.channel n) = false →
      Answers (.retireReqWrite p (BitVec.ofNat 16 (0xC000 + n.val))) s (fun t => (.channel n, true) ∈ t.faults.decided ∧
        t.mgmt.answer = some (0, []))) ∧
    (∀ b : Byte, AcceptedWrite s p 0x7302 2 [b] o → Answers (.unretireWrite p b) s (fun t =>
      t.faults.unretire = decide (b = 1) ∧ t.mgmt.answer = some (0, []))) ∧
    (∀ (x : Instr) (k : Byte), (x, k) ∈ [(Instr.oemRead p, 1), (.oemProgram p, 2), (.oemErase p, 3)] → AcceptedWrite s p 0x7050 3 [k] o →
      Answers x s (fun t => t.mule.oemCmd = k ∧ t.mule.oemStatus = (s.mule.oemStatus &&& 0xF0) ||| 1 ∧ t.mgmt.answer = some (0, []))) ∧
    (∀ b : Byte, AcceptedWrite s p 0x7060 1 [b] o → Answers (.slotEraseWrite p b) s (fun t =>
      t.fw.slots[lamb s].state = 0 ∧ t.fw.next = none ∧ t.mule.slotErase = b ∧ t.mgmt.answer = some (0, []))) ∧
    (∀ h : Word16, AcceptedWrite s p 0x1001 1 (leBytes 2 h.toNat) o → Answers (.nodeNumberWrite p h) s (fun t =>
      assocGet ⟨0x1001, 1⟩ t.dict.values = some (leBytes 2 h.toNat) ∧ t.mgmt.answer = some (0, []))) ∧
    (∀ w : Word32, AcceptedWrite s p 0x7202 1 (leBytes 4 w.toNat) o → Answers (.logSelectWrite p w) s (fun t =>
      t.evr.logSelect = w.toNat ∧ t.mgmt.answer = some (0, []))) ∧
    (∀ b : Byte, AcceptedWrite s p 0x7200 1 [b] o → Answers (.evtModeWrite p b) s (fun t =>
      t.evr.fill = decide (b = 1) ∧ t.mgmt.answer = some (0, []))) ∧
    (∀ b : Byte, AcceptedWrite s p 0x7200 2 [b] o → Answers (.evtFreezeWrite p b) s (fun t =>
      t.evr.frozen = decide (b = 1) ∧ t.mgmt.answer = some (0, []))) ∧
    (∀ b : Byte, AcceptedWrite s p 0x6103 2 [b] o → calEnabled s .fe = true → s.cal.requests = [] →
      headServes s (Fin.ofNat 32 s.cal.reqHead) = true → b = 1 → Answers (.calReqKindsWrite p b) s (fun t =>
        t.cal.requests = [⟨Fin.ofNat 32 s.cal.reqHead, .fe, 0, .normal⟩] ∧ t.mgmt.answer = some (0, []))) ∧
    (∀ (i : Word16) (x : Byte) (v : List Byte), AcceptedWrite s p i.toNat x.toNat v o → i.toNat < 0xF000 →
      ¬(i.toNat = 0x1020 ∧ x.toNat = 1) → specialWrite p i.toNat x.toNat v s = none → Answers (.objectWrite p i x v) s (fun t =>
        assocGet ⟨i.toNat, x.toNat⟩ t.dict.values = some v ∧ t.mgmt.answer = some (0, []))) ∧
    (∀ (i : Word16) (x : Byte) (v : List Byte), AcceptedWrite s p i.toNat x.toNat v o → i.toNat < 0xF000 →
      ¬(i.toNat = 0x1020 ∧ x.toNat = 1) → specialWrite p i.toNat x.toNat v s = none → exec (.objectWrite p i x v) s =
        .next (showAnswer 0 [] (storeValue p i.toNat x.toNat o.persistent v s)))

/-- O55. The objects of privilege, owner lock, commit, discard and firmware. An accepted write enters or leaves the privileged view
with its own answer, sets or clears the owner lock, discards the staging copy, begins a commit, which is answered at once if the
request gives a code and whose writer otherwise waits for its end, aborts the staging, or takes the commit action that it names,
with its outcome in FW_ACTION_RESULT; a staged object's value goes into the staging copy. -/
def Obligations.PrivilegeCommitAndFirmwareObjects : Prop :=
  ∀ (p : Path) (o : Obj) (s : State),
    (∀ v : Word32, o.staged = false → AcceptedWrite s p 0x1010 1 (leBytes 4 v.toNat) o → exec (.privEnterWrite p v) s =
      .next (showAnswer (enterPriv p v.toNat s).1 [] (enterPriv p v.toNat s).2)) ∧
    (∀ v : Byte, o.staged = false → AcceptedWrite s p 0x1011 1 [v] o → exec (.ownerLockWrite p v) s =
      .next (showAnswer 0 [] (writeLock p v.toNat s))) ∧
    (AcceptedWrite s p 0x1020 1 [2] o → exec (.discardWrite p) s = .next (showAnswer 0 [] (requestDiscard p s))) ∧
    (∀ (ns : Nat) (u : State), AcceptedWrite (atOffset ns s) p 0x1020 1 [1] o →
      (requestCommit p (.write p) (atOffset ns s) = (none, u) → exec (.commitWrite ⟨p, ns⟩) s = .next u) ∧
      (∀ n, requestCommit p (.write p) (atOffset ns s) = (some n, u) → exec (.commitWrite ⟨p, ns⟩) s = .next (showAnswer n [] u)) ∧
      (CommitRuns (atOffset ns s) → Answers (.commitWrite ⟨p, ns⟩) s (fun t => t.dict.stage = .swapping ∧ t.dict.waiter = some (.write p) ∧
        t.dict.staged = s.dict.staged ∧ t.dict.commitAt = s.clock.ns + max s.clock.sub ns))) ∧
    (AcceptedWrite s p 0x1020 1 [2] o → s.dict.stage = .idle → Answers (.discardWrite p) s (fun t =>
      t.dict.staged = [] ∧ t.dict.owner = none ∧ t.mgmt.answer = some (0, []))) ∧
    (∀ v : Word32, o.staged = false → AcceptedWrite s p 0x1010 1 (leBytes 4 v.toNat) o → Answers (.privEnterWrite p v) s (fun t =>
      (pathState t p).priv = decide (v.toNat = cfg s 0x1010 2) ∧
      t.mgmt.answer = some (if v.toNat = cfg s 0x1010 2 then 0 else 0xD0000010, []))) ∧
    (o.staged = false → AcceptedWrite s p 0x1011 1 [1] o → s.mgmt.lock = none → Answers (.ownerLockWrite p 1) s (fun t =>
      t.mgmt.lock = some (p, identOf s p) ∧ t.mgmt.answer = some (0, []))) ∧
    (o.staged = false → AcceptedWrite s p 0x1011 1 [0] o → s.mgmt.lock.isSome = true → Answers (.ownerLockWrite p 0) s (fun t =>
      t.mgmt.lock = none ∧ t.mgmt.answer = some (0, []))) ∧
    (o.staged = false → AcceptedWrite s p 0x7100 8 [1] o → fwBound s = true → Answers (.fwAbortWrite p 1) s (fun t =>
      t.fw.source = none ∧ t.fw.header = none ∧ t.fw.slots[lamb s].state = 0 ∧ t.mgmt.answer = some (0, []))) ∧
    (∀ i : Fin 2, o.staged = false → namedSlot s s.fw.actionSlot = some i →
      (AcceptedWrite s p 0x7102 1 [0] o → fwActionRefusal 0 i s = none → Answers (.fwActionKeep p) s (fun t =>
        t.fw = { s.fw with actionResult := 0 } ∧ t.mgmt.answer = some (0, []))) ∧
      (AcceptedWrite s p 0x7102 1 [1] o → fwActionRefusal 1 i s = none → Answers (.fwActionNextReset p) s (fun t =>
        t.fw = { s.fw with next := some i, actionResult := 0 } ∧ t.mgmt.answer = some (0, []))) ∧
      (AcceptedWrite s p 0x7102 1 [2] o → fwActionRefusal 2 i s = none → Answers (.fwActionExisting p) s (fun t =>
        t.fw = { s.fw with next := if i = s.fw.active then none else some i, actionResult := 0 } ∧ t.mgmt.answer = some (0, []))) ∧
      (AcceptedWrite s p 0x7102 1 [3] o → fwActionRefusal 3 i s = none → s.fw.slots[i].resetOnly = false →
        Answers (.fwActionImmediate p) s (fun t => t.fw.activation = .draining ∧ t.fw.target = some i ∧ t.cmds.fetchStopped = true))) ∧
    (∀ v : Byte, o.staged = false → AcceptedWrite s p 0x7100 8 [v] o → exec (.fwAbortWrite p v) s =
      .next (showAnswer 0 [] (if v.toNat = 1 ∧ fwBound s = true then releaseBinding 2 (pathCode p) s else s))) ∧
    (∀ (x : Instr) (k : Byte), (x, k) ∈ [(Instr.fwActionKeep p, 0), (.fwActionNextReset p, 1), (.fwActionExisting p, 2), (.fwActionImmediate p, 3)] →
      o.staged = false → AcceptedWrite s p 0x7102 1 [k] o → exec x s =
        .next (showAnswer (writeFwAction p k.toNat s).1 [] (writeFwAction p k.toNat s).2)) ∧
    (∀ (i : Word16) (x : Byte) (v : List Byte), o.staged = true → AcceptedWrite s p i.toNat x.toNat v o →
      ¬(i.toNat = 0x1020 ∧ x.toNat = 1) → exec (.objectWrite p i x v) s = .next (showAnswer 0 [] (stageValue p i.toNat x.toNat v s)))

/-- O56. A write that the dictionary does not admit has no effect but its answer. For each row that writes an object and is listed
here, the general one among them, a write that the steps of R440 up to the owner and the busy check refuse is answered with the
abort code of the first step that fails, and changes nothing else. -/
def Obligations.ObjectWritesAreRefusedWithTheirAbortCode : Prop :=
  ∀ (p : Path) (s : State) (b : Byte) (h oi : Word16) (w : Word32) (ox : Byte) (ov : List Byte) (x : Instr) (i j e : Nat) (d : Bool), dictServes s = true →
    (x, i, j, d) ∈ [(Instr.scrubEnableWrite p b, 0x2201, 1, decide ([b] = [2])), (.ceTableClear p b, 0x2205, 2, decide ([b] = [2])),
      (.cacheModeWrite p b, 0x2300, 1, decide ([b] = [2])), (.captureCtrlWrite p b, 0x4010, 1, decide ([b] = [2])),
      (.captureDecimWrite p b, 0x4010, 3, decide ([b] = [2])), (.calReqKindsWrite p b, 0x6103, 2, decide ([b] = [2])),
      (.unretireWrite p b, 0x7302, 2, decide ([b] = [2])), (.slotEraseWrite p b, 0x7060, 1, decide ([b] = [2])),
      (.ownerLockWrite p b, 0x1011, 1, decide ([b] = [2])), (.fwAbortWrite p b, 0x7100, 8, decide ([b] = [2])),
      (.evtFreezeWrite p b, 0x7200, 2, decide ([b] = [2])), (.evtModeWrite p b, 0x7200, 1, decide ([b] = [2])),
      (.oemRead p, 0x7050, 3, false), (.oemProgram p, 0x7050, 3, true), (.oemErase p, 0x7050, 3, false), (.commitWrite ⟨p, 0⟩, 0x1020, 1, false),
      (.discardWrite p, 0x1020, 1, true), (.fwActionKeep p, 0x7102, 1, false), (.fwActionNextReset p, 0x7102, 1, false),
      (.fwActionExisting p, 0x7102, 1, true), (.fwActionImmediate p, 0x7102, 1, false), (.dirtyLimitWrite p h, 0x2300, 3, false),
      (.retireReqWrite p h, 0x7302, 1, false), (.nodeNumberWrite p h, 0x1001, 1, false), (.privEnterWrite p w, 0x1010, 1, false),
      (.logSelectWrite p w, 0x7202, 1, false), (.objectWrite p oi ox ov, oi.toNat, ox.toNat, decide (ov = [2]))] →
    admitWrite s p i j d = .error e → exec x s = .next (showAnswer e [] s)

/-- O57. The reads with a row of their own. WAIT_MAX, DELAY_MAX, MISS_WAIT_MAX, CAPTURE_DATA and LOG_READ are read through the
dictionary: a read that may be made is answered with 0 and the value, the state taking what the read takes with it (a maximum
that clears, records that are delivered); a read that may not is answered with its abort code and changes nothing else. -/
def Obligations.ObjectReadsAndTheirAnswers : Prop :=
  ∀ (p : Path) (s : State) (x : Instr) (i j m : Nat) (c : Fin 4) (n : ChanId), dictServes s = true →
    (x, i, j, m) ∈ [(Instr.waitMaxRead p c, 0x2206, c.val, 2), (.delayMaxRead p n, 0x4133, n.val, 2), (.missWaitMaxRead p, 0x7040, 3, 2),
      (.captureDataRead p m, 0x4012, 1, m), (.logRead p, 0x7202, 2, 16384)] →
    (readCode s p i j = 0 → exec x s = .next (showAnswer 0 ((takeValue p i j false m (dropSnapshot p s)).1.take m)
      (takeValue p i j false m (dropSnapshot p s)).2.2)) ∧
    (readCode s p i j = 0 → Answers x s (fun t =>
      t.mgmt.answer = some (0, (takeValue p i j false m (dropSnapshot p s)).1.take m) ∧ t.dict = s.dict)) ∧
    (readCode s p i j ≠ 0 → exec x s = .next (showAnswer (readCode s p i j) [] s))

/-- O58. Leases and time-outs of the dictionary, MCTP_STATUS, and a channel's swap. The lease of an owned staging copy discards it;
the idle limit, if it is not 0, ends the privileged view; a segmented write and a snapshot that time out are dropped; a write of
MCTP_STATUS that is admitted clears the bits written 1 unless they are set in the same cycle, whose flags both ports show as
well; a channel takes its part of a commit at its sector boundary, which ends the commit if every channel has taken its own, and
while the servo has not swapped the row only tests that end. -/
def Obligations.DictionaryTimersStatusAndSwaps : Prop :=
  ∀ (p : Path) (s : State),
    (s.resident = true → ∀ q, s.dict.owner = some q → exec .stageLeaseExpired s = .next (wantDiscard 2 srcController s)) ∧
    (s.resident = true → ∀ q, s.dict.owner = some q → s.dict.stage = .idle → Answers .stageLeaseExpired s (fun t =>
      t.dict.staged = [] ∧ t.dict.owner = none)) ∧
    (s.resident = true → (cfg s 0x1010 4 ≠ 0 → Answers (.privIdleExpired p) s (fun t => (pathState t p).priv = false)) ∧
      Answers (.segmentTimeout p) s (fun t => (pathState t p).segment = none) ∧
      Answers (.snapshotTimeout p) s (fun t => (pathState t p).snapshot = none)) ∧
    (s.dict.owner = none → exec .stageLeaseExpired s = .next s) ∧
    (s.resident = true → cfg s 0x1010 4 ≠ 0 → exec (.privIdleExpired p) s = .next (modPath p (fun q => { q with priv := false }) s)) ∧
    (cfg s 0x1010 4 = 0 → exec (.privIdleExpired p) s = .next s) ∧
    (s.resident = true → exec (.segmentTimeout p) s = .next (modPath p (fun q => { q with segment := none }) s)) ∧
    (s.resident = true → exec (.snapshotTimeout p) s = .next (dropSnapshot p s)) ∧
    (∀ (v now : Word16) (o : Obj), dictServes s = true → admitWrite s p 0x1101 1 false = .ok o → valueCode s 0x1101 1 o (leBytes 2 v.toNat) = 0 →
      Answers (.mctpStatusWrite p v now) s (fun t => t.mgmt.status = (s.mgmt.status &&& ~~~v) ||| (now &&& 0x3FFF) ∧
        t.mgmt.answer = some (0, []) ∧ ∀ q : PortId, (t.port q).status = (s.port q).status ||| (now &&& 0x3FFF).zeroExtend 32)) ∧
    (∀ n : ChanId, s.live = true → s.dict.servoSwapped = true → (s.rwc n).swapPending = true →
      exec (.channelCommitSwap n) s = .next (endCommit (calSwapChannel n (chanTakes n s))) ∧
      Answers (.channelCommitSwap n) s (fun t => (t.rwc n).swapPending = false)) ∧
    (∀ n : ChanId, s.live = true → s.dict.servoSwapped = false → exec (.channelCommitSwap n) s = .next (endCommit (calSwapChannel n s)))

/-- O59. A piece by FW_PIECE, sealing, the lease, and the activation. An admitted piece at the source's offset is judged and
answered; a sound DIGEST seals the slot, another releases the binding, and so does the lease; when every admitted command is
done the drained activation switches the slot record if the image verifies, or loads the old image; at the drain limit it ends
with Firmware Activation Prohibited; the resume counts the activation or ends it with Invalid Firmware Image; the fallback
restores the image before. -/
def Obligations.FirmwareStagingAndActivation : Prop :=
  ∀ s : State, s.live = true →
    (∀ (p : Path) (x : FwPiece) (o : Obj), dictServes s = true → admitWrite s p 0x7101 2 false = .ok o → x.length ≤ 1048576 →
      exec (.fwPieceWrite p x) s = .next (showAnswer (deliverPiece p { x with offset := (pathState s p).fwOffset } s).1 []
        (deliverPiece p { x with offset := (pathState s p).fwOffset } s).2) ∧
      (judgePiece p { x with offset := (pathState s p).fwOffset } s = .accepted → Answers (.fwPieceWrite p x) s (fun t =>
        t.fw.pieces = s.fw.pieces + 1 ∧ t.mgmt.answer = some (0, [])))) ∧
    (s.fw.sealing = true → exec (.fwSealDone true) s = .next (sealSlot s) ∧
      exec (.fwSealDone false) s = .next (releaseBinding 0 srcController s)) ∧
    (s.fw.sealing = true → Answers (.fwSealDone true) s (fun t => t.fw.slots[lamb s].state = 2 ∧ t.fw.sealing = false ∧ t.fw.source = none) ∧
      Answers (.fwSealDone false) s (fun t => t.fw.slots[lamb s].state = 0 ∧ t.fw.sealing = false ∧ t.fw.source = none)) ∧
    (s.resident = true → fwBound s = true → s.fw.sealing = false → Answers .fwLeaseExpired s (fun t => t.fw.source = none ∧ t.fw.slots[lamb s].state = 0)) ∧
    (s.fw.activation = .draining → Answers .activationDrainLimit s (fun t => t.fw.activation = .none ∧ t.fw.target = none ∧
      t.cmds.fetchStopped = s.faults.dataDown)) ∧
    (s.fw.activation = .switched → Answers .activationResume s (fun t => t.fw.activation = .none ∧
        t.fw.activations = s.fw.activations + 1 ∧ t.fw.active = s.fw.active) ∧
      Answers .activationFallback s (fun t => t.fw.activation = .none ∧ t.fw.active = s.fw.before ∧ t.fw.fallbacks = s.fw.fallbacks + 1)) ∧
    (s.resident = true → fwBound s = true → s.fw.sealing = false → exec .fwLeaseExpired s = .next (releaseBinding 1 srcController s)) ∧
    (∀ k : Fin 2, s.fw.target = some k → s.fw.activation = .draining → drained s = true →
      Answers (.activationDrainDone true) s (fun t => t.fw.activation = .switched ∧ t.fw.active = k ∧ t.fw.next = none) ∧
      Answers (.activationDrainDone false) s (fun t => t.fw.activation = .loading ∧ t.fw.badImage = true)) ∧
    (drained s = false → exec (.activationDrainDone true) s = .next s ∧ exec (.activationDrainDone false) s = .next s) ∧
    (s.fw.activation = .draining → exec .activationDrainLimit s = .next (endActivation .fwProhibited s)) ∧
    (s.fw.activation = .loading → exec .activationResume s = .next (endActivation .invalidFwImage s)) ∧
    (s.fw.activation = .switched → exec .activationResume s = .next (leaveFailed (endActivation .success
        (raise (event 0xC013 2 srcController s.fw.active.val s.fw.slots[s.fw.active].version)
          (relayout s.fw.slots[s.fw.before].dictVersion { s with fw.activations := s.fw.activations + 1, fw.programmed := [] })))) ∧
      exec .activationFallback s = .next (endActivation .invalidFwImage (raise (event 0xC014 3 srcController s.fw.before.val
        s.fw.slots[s.fw.active].version) (updateSystem { s with fw.active := s.fw.before, fw.fallbacks := s.fw.fallbacks + 1 }))))

/-- O60. The event recorder: a write, a repeat, a freeze, and the mirror. The next queued event is written once the Mule is mounted,
and the queue holds the others; while frozen only the events that were queued at the freeze are written; an event that the open
record absorbs in REPEAT adds one to that record's REPEAT and makes no record; the end of the freeze's lease ends the freeze and
queues one summary event if events came meanwhile; the mirror takes gathered records while the recorder is not frozen. -/
def Obligations.EventsAreWrittenFrozenAndMirrored : Prop :=
  ∀ s : State, s.live = true →
    (s.mule.mounted = true → exec .eventWrite s = .next (writeNext s)) ∧ (s.mule.mounted = false → exec .eventWrite s = .next s) ∧
    (s.evr.queue = [] → exec .eventWrite s = .next s) ∧
    (s.evr.frozen = true → s.evr.freezeLeft = 0 → exec .eventWrite s = .next s) ∧
    (∀ (e : Event) (q : List Event), s.mule.mounted = true → s.evr.queue = e :: q → s.evr.frozen = true → s.evr.freezeLeft ≠ 0 →
      Answers .eventWrite s (fun t => t.evr.queue = q ∧ t.evr.freezeLeft = s.evr.freezeLeft - 1)) ∧
    (∀ (e : Event) (q : List Event), s.mule.mounted = true → s.evr.queue = e :: q → s.evr.frozen = false → s.evr.fill = true →
      s.evr.lostSince = 0 → Answers .eventWrite s (fun t => t.evr.queue = q ∧ t.evr.nextSeq = (s.evr.nextSeq + 1) % 2 ^ 32 ∧
        ∃ r ∈ t.evr.ring.head?, r.event = e ∧ r.seq = s.evr.nextSeq ∧ r.rept = 0)) ∧
    (∀ (e : Event) (q : List Event) (r : EventRec) (l : List EventRec), s.mule.mounted = true → s.evr.queue = e :: q → s.evr.frozen = false →
      s.evr.fill = false → s.evr.lostSince = 0 → s.evr.isOpen = true → s.evr.ring = r :: l → sameEvent e r.event = true →
      Answers .eventWrite s (fun t => t.evr.queue = q ∧ t.evr.nextSeq = s.evr.nextSeq ∧ t.evr.ring = { r with rept := r.rept + 1 } :: l)) ∧
    (s.evr.frozen = false → exec .freezeLeaseExpired s = .next s) ∧
    (s.evr.frozen = true → Answers .freezeLeaseExpired s (fun t => t.evr.frozen = false ∧ t.evr.freezeLeft = 0 ∧ t.evr.frozenCount = 0 ∧
      t.evr.ring = s.evr.ring ∧ (s.evr.frozenCount = 0 → t.evr.queue = s.evr.queue) ∧
      (s.evr.frozenCount ≠ 0 → t.evr.queue.length = s.evr.queue.length + 1))) ∧
    (s.mule.mounted = true → s.evr.frozen = false → exec .mirrorPageProgram s = .next (mirrorPage (logPages ((gathered s.evr).take 512) s)) ∧
      Answers .mirrorPageProgram s (fun t => t.evr.ring = s.evr.ring ∧
        (pagesWritten s .eventLog < partPages .eventLog → t.evr.log = ((gathered s.evr).take 512).reverse ++ s.evr.log))) ∧
    (s.evr.frozen = true → exec .mirrorPageProgram s = .next s)
end

