-- ==== Sys2Proof/Laws/Buffer.lean ====
section
/-! SUPPORT. The listed words of a buffer channel: reading after writing, and the one form is kept. -/

namespace Sys2Proof.Machine

@[simp] theorem readRow_nil (row : Nat) : readRow [] row = 0 := rfl

theorem readRow_cons (e : Nat × BufWord) (ws : List (Nat × BufWord)) (row : Nat) :
    readRow (e :: ws) row = if e.1 = row then e.2 else readRow ws row := by
  by_cases h : e.1 = row <;> simp [readRow, h]

/-- The rows of the listed words in their one form rise from a bound. -/
def wordsFrom (lo : Nat) (ws : List (Nat × BufWord)) : Prop := wordsWf ws = true ∧ ∀ e ∈ ws.head?, lo ≤ e.1

theorem wordsFrom_nil (lo : Nat) : wordsFrom lo [] := ⟨rfl, fun _ h => by cases h⟩

theorem wordsWf_cons {e : Nat × BufWord} {ws : List (Nat × BufWord)} :
    wordsWf (e :: ws) = true ↔ e.2 ≠ 0 ∧ wordsFrom (e.1 + 1) ws := by
  cases ws with
  | nil => exact ⟨fun h => ⟨of_decide_eq_true h, wordsFrom_nil _⟩, fun h => decide_eq_true h.1⟩
  | cons f r =>
    constructor
    · intro h
      simp only [wordsWf, Bool.and_eq_true, decide_eq_true_eq] at h
      exact ⟨h.1.1, h.2, fun x hx => by cases hx; exact h.1.2⟩
    · intro h
      simp only [wordsWf, Bool.and_eq_true, decide_eq_true_eq]
      exact ⟨⟨h.1, h.2.2 f rfl⟩, h.2.1⟩

theorem wordsFrom_cons {lo : Nat} {e : Nat × BufWord} {ws : List (Nat × BufWord)} :
    wordsFrom lo (e :: ws) ↔ lo ≤ e.1 ∧ e.2 ≠ 0 ∧ wordsFrom (e.1 + 1) ws :=
  ⟨fun h => ⟨h.2 e rfl, wordsWf_cons.mp h.1⟩, fun h => ⟨wordsWf_cons.mpr h.2, fun x hx => by cases hx; exact h.1⟩⟩

theorem wordsFrom.mono {lo lo' : Nat} {ws : List (Nat × BufWord)} (h : wordsFrom lo ws) (hl : lo' ≤ lo) : wordsFrom lo' ws :=
  ⟨h.1, fun x hx => Nat.le_trans hl (h.2 x hx)⟩

theorem readRow_below {ws : List (Nat × BufWord)} : ∀ {lo row : Nat}, wordsFrom lo ws → row < lo → readRow ws row = 0 := by
  induction ws with
  | nil => intros; rfl
  | cons e ws ih =>
    intro lo row h hr
    obtain ⟨he, _, hw⟩ := wordsFrom_cons.mp h
    rw [readRow_cons, if_neg (by omega)]
    exact ih hw (by omega)

theorem writeRow_from {ws : List (Nat × BufWord)} : ∀ {lo row : Nat} {w : BufWord}, wordsFrom lo ws → lo ≤ row →
    wordsFrom lo (writeRow row w ws) := by
  induction ws with
  | nil =>
    intro lo row w _ hr
    unfold writeRow
    split
    · exact wordsFrom_nil _
    · exact wordsFrom_cons.mpr ⟨hr, by assumption, wordsFrom_nil _⟩
  | cons e r ih =>
    intro lo row w h hr
    obtain ⟨he, h0, hr'⟩ := wordsFrom_cons.mp h
    unfold writeRow
    split
    · exact wordsFrom_cons.mpr ⟨he, h0, ih hr' (by omega)⟩
    · have rest : wordsFrom (row + 1) (if e.1 = row then r else e :: r) := by
        split
        · next hh => rw [← hh]; exact hr'
        · exact wordsFrom_cons.mpr ⟨by omega, h0, hr'⟩
      dsimp only
      split
      · exact rest.mono (by omega)
      · exact wordsFrom_cons.mpr ⟨hr, by assumption, rest⟩

/-- A write keeps the one form. -/
theorem writeRow_wf {row : Nat} {w : BufWord} {ws : List (Nat × BufWord)} (h : wordsWf ws = true) :
    wordsWf (writeRow row w ws) = true :=
  (writeRow_from (lo := 0) ⟨h, fun _ _ => Nat.zero_le _⟩ (Nat.zero_le _)).1

theorem filter_from {p : Nat × BufWord → Bool} {ws : List (Nat × BufWord)} : ∀ {lo : Nat}, wordsFrom lo ws →
    wordsFrom lo (ws.filter p) := by
  induction ws with
  | nil => intro lo h; exact h
  | cons e r ih =>
    intro lo h
    obtain ⟨he, h0, hr⟩ := wordsFrom_cons.mp h
    rw [List.filter_cons]
    split
    · exact wordsFrom_cons.mpr ⟨he, h0, ih hr⟩
    · exact (ih hr).mono (by omega)

/-- Dropping listed words keeps the one form. -/
theorem filter_wf {p : Nat × BufWord → Bool} {ws : List (Nat × BufWord)} (h : wordsWf ws = true) :
    wordsWf (ws.filter p) = true :=
  (filter_from (lo := 0) ⟨h, fun _ _ => Nat.zero_le _⟩).1

theorem readRow_writeRow_from {ws : List (Nat × BufWord)} : ∀ {lo row row' : Nat} {w : BufWord}, wordsFrom lo ws →
    readRow (writeRow row w ws) row' = if row' = row then w else readRow ws row' := by
  induction ws with
  | nil =>
    intro lo row row' w _
    unfold writeRow
    by_cases hw : w = 0
    · rw [if_pos hw, hw]; split <;> rfl
    · rw [if_neg hw, readRow_cons]
      by_cases h : row' = row
      · rw [if_pos h, if_pos h.symm]
      · rw [if_neg h, if_neg (Ne.symm h)]
  | cons e r ih =>
    intro lo row row' w h
    obtain ⟨_, _, hr⟩ := wordsFrom_cons.mp h
    unfold writeRow
    split
    · rw [readRow_cons, ih hr, readRow_cons]
      by_cases h1 : e.1 = row'
      · rw [if_pos h1, if_pos h1, if_neg (by omega)]
      · rw [if_neg h1, if_neg h1]
    · dsimp only
      have rest : wordsFrom (row + 1) (if e.1 = row then r else e :: r) := by
        split
        · next hh => rw [← hh]; exact hr
        · exact wordsFrom_cons.mpr ⟨by omega, (wordsFrom_cons.mp h).2⟩
      have same : row' ≠ row → readRow (if e.1 = row then r else e :: r) row' = readRow (e :: r) row' := by
        intro hne
        split
        · rw [readRow_cons, if_neg (by omega)]
        · rfl
      by_cases h2 : row' = row
      · rw [if_pos h2]
        split
        · next hw => rw [hw, h2]; exact readRow_below rest (by omega)
        · rw [readRow_cons, if_pos h2.symm]
      · rw [if_neg h2, ← same h2]
        split
        · rfl
        · rw [readRow_cons, if_neg (Ne.symm h2)]

/-- A read after a write: the word written at its row, every other row as before. -/
theorem readRow_writeRow {ws : List (Nat × BufWord)} {row row' : Nat} {w : BufWord} (h : wordsWf ws = true) :
    readRow (writeRow row w ws) row' = if row' = row then w else readRow ws row' :=
  readRow_writeRow_from (lo := 0) ⟨h, fun _ _ => Nat.zero_le _⟩

end Sys2Proof.Machine
end

