-- ==== Sys2Proof/Laws/Keeps.lean ====
section
/-! SUPPORT. What every operation of the model keeps: the queue, the one form of the buffer's words, the recorder's bounds, and every
part of the state outside the set `m` of parts that it may change. The head of the lemmas in the Frame files. -/

namespace Sys2Proof.Machine

/-- The number of a part. -/
def Part.bit : Part → Nat
  | .power => 0 | .straps => 1 | .clock => 2 | .tick => 3 | .counter => 4 | .links => 5 | .chans => 6 | .heads => 7 | .env => 8 | .cal => 9
  | .ports => 10 | .flags => 11 | .bands => 12 | .sub => 13 | .cmds => 14 | .sched => 15 | .bms => 16 | .cache => 17 | .faults => 18 | .mule => 19
  | .values => 20 | .dict => 21 | .mgmt => 22 | .recorder => 23 | .events => 24 | .fw => 25 | .loadQueue => 26 | .freeCount => 27

/-- The set `a` of parts is contained in `b`. -/
def Sub (a b : Nat) : Prop := ∀ i, a.testBit i = true → b.testBit i = true

theorem Sub.has {a b i : Nat} (h : Sub a b) (hi : a.testBit i = true) : b.testBit i = true := h i hi

theorem Sub.of {a b m : Nat} (h : a &&& b = a) (hm : Sub b m) : Sub a m := fun i hi => by
  rw [← h, Nat.testBit_and, Bool.and_eq_true] at hi
  exact hm i hi.2

theorem SamePart.refl (p : Part) (s : State) : SamePart p s s := by cases p <;> rfl

theorem SamePart.trans {p : Part} {s t u : State} (h : SamePart p s t) (h' : SamePart p t u) : SamePart p s u := by
  cases p <;> exact Eq.trans h' h

/-- From `s` to `t` the queue is the same, the buffer's words and the recorder stay well kept, and every part outside `m` is the
same. -/
def Keeps (m : Nat) (s t : State) : Prop :=
  t.pending = s.pending ∧ (BufferWf s → BufferWf t) ∧ (RecorderOk s.evr → RecorderOk t.evr) ∧
    ∀ p : Part, m.testBit p.bit = true ∨ SamePart p s t

theorem Keeps.refl {m : Nat} (s : State) : Keeps m s s := ⟨rfl, id, id, fun p => .inr (SamePart.refl p s)⟩

theorem keeps_parts {m : Nat} {s t u : State} (h : ∀ p : Part, m.testBit p.bit = true ∨ SamePart p s t)
    (h' : ∀ p : Part, m.testBit p.bit = true ∨ SamePart p t u) (p : Part) : m.testBit p.bit = true ∨ SamePart p s u := by
  rcases h p with h | h
  · exact .inl h
  · rcases h' p with h' | h'
    · exact .inl h'
    · exact .inr (h.trans h')

/-- A change of anything else. -/
theorem Keeps.upd {m : Nat} {s0 t : State} {power clock tick links chans heads env cal ports sub cmds sched bms cache faults mule dict
    mgmt fw evr loadQueue freeCount pending}
    (hp : pending = t.pending) (hb : bms.chans = t.bms.chans) (hr : evr.ring = t.evr.ring) (ho : evr.boot = t.evr.boot)
    (hl : evr.log = t.evr.log) (hi : evr.isOpen = t.evr.isOpen) (h : Keeps m s0 t)
    (hs : ∀ p : Part, m.testBit p.bit = true ∨ SamePart p t (State.mk power clock tick links chans heads env cal ports sub cmds sched
      bms cache faults mule dict mgmt fw evr loadQueue freeCount pending) := by
        intro p; cases p <;> first | (refine Or.inl (Sub.has (by with_reducible assumption) ?_); with_unfolding_all rfl) | with_reducible exact Or.inr rfl | (refine Or.inr ?_; dsimp only [SamePart, recorded, arrived, Evr.count]; done)) :
    Keeps m s0 (State.mk power clock tick links chans heads env cal ports sub cmds sched bms cache faults mule dict mgmt fw evr
      loadQueue freeCount pending) :=
  ⟨hp.trans h.1, fun w c => by have := h.2.1 w c; rw [← hb] at this; exact this,
    fun w => by have := h.2.2.1 w; simpa only [RecorderOk, hr, ho, hl, hi] using this, keeps_parts h.2.2.2 hs⟩

/-- A change of the recorder that keeps it within its bounds. -/
theorem Keeps.updEvr {m : Nat} {s0 t t' : State} (h : Keeps m s0 t) (hp : t'.pending = t.pending)
    (hb : t'.bms.chans = t.bms.chans) (hr : RecorderOk t.evr → RecorderOk t'.evr)
    (hs : ∀ p : Part, m.testBit p.bit = true ∨ SamePart p t t' := by
        intro p; cases p <;> first | (refine Or.inl (Sub.has (by with_reducible assumption) ?_); with_unfolding_all rfl) | with_reducible exact Or.inr rfl | (refine Or.inr ?_; dsimp only [SamePart, recorded, arrived, Evr.count]; done)) :
    Keeps m s0 t' :=
  ⟨hp.trans h.1, fun w c => by have := h.2.1 w c; rw [← hb] at this; exact this, fun w => hr (h.2.2.1 w),
    keeps_parts h.2.2.2 hs⟩

theorem foldl_keeps {m : Nat} {α : Type} {s0 s : State} {g : State → α → State} {l : List α} (h : Keeps m s0 s)
    (hg : ∀ (t : State) (x : α), Keeps m s0 t → Keeps m s0 (g t x)) : Keeps m s0 (l.foldl g s) := by
  induction l generalizing s with
  | nil => exact h
  | cons a l ih => exact ih (hg _ _ h)

theorem getD_keeps {m : Nat} {s0 s : State} {o : Option State} (h : Keeps m s0 s) (ho : ∀ r, o = some r → Keeps m s0 r) :
    Keeps m s0 (o.getD s) := by
  cases o with
  | none => exact h
  | some r => exact ho r rfl

theorem keeps_ite {m : Nat} {s0 : State} {c : Prop} [Decidable c] {x y : State} (h : Keeps m s0 x) (h' : Keeps m s0 y) :
    Keeps m s0 (if c then x else y) := by
  by_cases hc : c
  · rw [if_pos hc]; exact h
  · rw [if_neg hc]; exact h'

theorem id_keeps {m : Nat} {s0 t : State} (h : Keeps m s0 t) : Keeps m s0 (id t) := h

theorem elim_keeps {m : Nat} {α : Type} {s0 t : State} {o : Option α} {f : α → State} (h : Keeps m s0 t)
    (hf : ∀ x, Keeps m s0 (f x)) : Keeps m s0 (o.elim t f) := by
  cases o with
  | none => exact h
  | some x => exact hf x

/-- What may be a result keeps all this. -/
def OptKeeps (m : Nat) (s0 : State) (o : Option (Nat × State)) : Prop := ∀ r, o = some r → Keeps m s0 r.2

theorem optKeeps_none {m : Nat} {s0 : State} : OptKeeps m s0 none := fun _ e => nomatch e

theorem optKeeps_pair {m : Nat} {s0 : State} {r : Nat × State} (h : Keeps m s0 r.2) : OptKeeps m s0 (some r) :=
  fun _ e => Option.some.inj e ▸ h

theorem optKeeps_some {m : Nat} {s0 t : State} {n : Nat} (h : Keeps m s0 t) : OptKeeps m s0 (some (n, t)) := optKeeps_pair h

theorem optKeeps_ite {m : Nat} {s0 : State} {c : Prop} [Decidable c] {x y : Option (Nat × State)} (h : OptKeeps m s0 x)
    (h' : OptKeeps m s0 y) : OptKeeps m s0 (if c then x else y) := by
  by_cases hc : c
  · rw [if_pos hc]; exact h
  · rw [if_neg hc]; exact h'

/-! ## The buffer channel's words -/

@[simp] theorem modArbiter_words (write : Bool) (f : Arbiter → Arbiter) (b : BmsChan) : (modArbiter write f b).words = b.words := by
  unfold modArbiter; split <;> rfl

@[simp] theorem served_words (write : Bool) (w : Waiting) (b : BmsChan) : (served write w b).words = b.words := by
  unfold served
  dsimp only
  split
  · exact modArbiter_words _ _ _
  · exact modArbiter_words _ _ _

@[simp] theorem queueReqs_words (write : Bool) (l : List BufReq) (b : BmsChan) : (queueReqs write l b).words = b.words := by
  unfold queueReqs
  induction l generalizing b with
  | nil => rfl
  | cons r l ih =>
    rw [List.foldl_cons, ih]
    split
    · rfl
    · exact modArbiter_words _ _ _

theorem upd_getElem {α : Type} {k : Nat} (v : Vector α k) (i j : Fin k) (f : α → α) :
    (upd v i f)[j] = if i = j then f v[i] else v[j] := by
  simp only [upd, Fin.getElem_fin, Vector.getElem_set, Fin.val_inj]

/-- A channel changed without harm to its words. -/
theorem modBms_keeps {m : Nat} {s0 : State} {c : Fin 4} {f : BmsChan → BmsChan} {s : State} (hk : Keeps m s0 s)
    (hf : ∀ b : BmsChan, wordsWf b.words = true → wordsWf (f b).words = true)
    (hm : Sub 0x10000 m := by first | with_reducible assumption | (refine Sub.of ?_ (by with_reducible assumption); with_unfolding_all rfl)) :
    Keeps m s0 (modBms c f s) := by
  refine ⟨hk.1, fun w d => ?_, hk.2.2.1, keeps_parts hk.2.2.2 (by
    intro p; cases p <;> first | (refine Or.inl (Sub.has (by with_reducible assumption) ?_); with_unfolding_all rfl) | with_reducible exact Or.inr rfl | (refine Or.inr ?_; dsimp only [SamePart, recorded, arrived, modBms]; done))⟩
  have h := hk.2.1 w
  unfold modBms
  dsimp only
  rw [upd_getElem]
  split
  · exact hf _ (h c)
  · exact h d

/-! ## The recorder -/

theorem RecorderOk.count {r : Evr} (e : Event) (h : RecorderOk r) : RecorderOk (r.count e) := h

theorem RecorderOk.close {r : Evr} (h : RecorderOk r) : RecorderOk { r with isOpen := false } :=
  ⟨h.1, h.2.1, h.2.2.1, h.2.2.2.1, fun e => by cases e⟩

theorem RecorderOk.boot {r : Evr} (l : List Event) (hl : l.length ≤ 64) (h : RecorderOk r) : RecorderOk { r with boot := l } :=
  ⟨h.1, hl, h.2.2⟩

theorem RecorderOk.record {r : Evr} (x : EventRec) (o : Bool) (n : Nat) (hx : x.rept = 0) (h : RecorderOk r) :
    RecorderOk { r with ring := capped 4096 (x :: r.ring), nextSeq := n, isOpen := o } := by
  refine ⟨List.length_take_le _ _, h.2.1, fun y hy => ?_, h.2.2.2.1, fun _ y hy => ?_⟩
  · rcases List.mem_cons.mp (List.mem_of_mem_take hy) with rfl | hy
    · omega
    · exact h.2.2.1 y hy
  · have : some x = some y := hy
    cases this
    omega

theorem RecorderOk.again {r : Evr} {x : EventRec} {rest : List EventRec} (hr : r.ring = x :: rest) (ho : r.isOpen = true)
    (h : RecorderOk r) :
    RecorderOk { r with ring := { x with rept := x.rept + 1 } :: rest, isOpen := decide (x.rept + 1 < 65535) } := by
  have hx : x.rept < 65535 := h.2.2.2.2 ho x (by rw [hr]; rfl)
  refine ⟨?_, h.2.1, fun y hy => ?_, h.2.2.2.1, fun e y hy => ?_⟩
  · have := h.1; rw [hr] at this; exact this
  · rcases List.mem_cons.mp hy with rfl | hy
    · show x.rept + 1 ≤ 65535; omega
    · exact h.2.2.1 y (by rw [hr]; exact List.mem_cons_of_mem _ hy)
  · cases hy; exact of_decide_eq_true e

theorem mem_unmirrored {r : Evr} {x : EventRec} (hx : x ∈ unmirrored r) : x ∈ r.ring := by
  unfold unmirrored at hx
  split at hx
  · exact hx
  · exact List.takeWhile_subset _ hx

theorem mem_gathered {r : Evr} {x : EventRec} (hx : x ∈ gathered r) : x ∈ r.ring := by
  unfold gathered at hx
  split at hx
  · exact mem_unmirrored (List.mem_of_mem_drop (List.mem_reverse.mp hx))
  · exact mem_unmirrored (List.mem_reverse.mp hx)

theorem RecorderOk.append {r : Evr} {l : List EventRec} (hl : ∀ x ∈ l, x.rept ≤ 65535) (h : RecorderOk r) :
    RecorderOk (appendLog l r) := by
  exact ⟨h.1, h.2.1, h.2.2.1, fun x hx =>
    (List.mem_append.mp hx).elim (fun hx => hl x (List.mem_reverse.mp hx)) (h.2.2.2.1 x), h.2.2.2.2⟩

theorem RecorderOk.shorten {r : Evr} (n : Nat) (h : RecorderOk r) : RecorderOk { r with log := r.log.take n } :=
  ⟨h.1, h.2.1, h.2.2.1, fun x hx => h.2.2.2.1 x (List.mem_of_mem_take hx), h.2.2.2.2⟩

theorem RecorderOk.reload {r : Evr} (n : Nat) (f : Bool) (q : List Event) (h : RecorderOk r) :
    RecorderOk { r with ring := r.log.take 4096, nextSeq := n, isOpen := false, fill := f, queue := q, boot := [], bootLost := 0 } :=
  ⟨List.length_take_le _ _, Nat.zero_le _, fun x hx => h.2.2.2.1 x (List.mem_of_mem_take hx), h.2.2.2.1, fun e => by cases e⟩

theorem RecorderOk.reset {r : Evr} (h : RecorderOk r) : RecorderOk (evrAtReset r) :=
  ⟨Nat.zero_le _, Nat.zero_le _, fun _ hx => absurd hx List.not_mem_nil, h.2.2.2.1, fun e => Bool.noConfusion e⟩

theorem leNat_lt (l : List Byte) : leNat l < 256 ^ l.length := by
  induction l with
  | nil => exact Nat.one_pos
  | cons a l ih =>
    have := a.isLt
    unfold leNat
    rw [List.length_cons, Nat.pow_succ]
    omega

theorem fieldU_two (b : List Byte) (o : Nat) : fieldU b o 2 ≤ 65535 := by
  have := leNat_lt ((b.drop o).take 2)
  have h2 : ((b.drop o).take 2).length ≤ 2 := List.length_take_le _ _
  have := Nat.pow_le_pow_right (n := 256) (by omega) h2
  unfold fieldU
  omega

end Sys2Proof.Machine
end

