-- ==== Sys2Proof/Laws/Frame01.lean ====
section
/-! SUPPORT. What each operation keeps (see Keeps), in the order in which operations call each other: State.modChan to kickDies. -/

set_option linter.unusedTactic false
set_option linter.unreachableTactic false
set_option Elab.async false

namespace Sys2Proof.Machine

theorem State.modChan_keeps {pm : Nat} {s0 : State} {s : State} {n : ChanId} {f : Chan → Chan} (hk : Keeps pm s0 s) (hm : Sub 0x40 pm := by first | with_reducible assumption | (refine Sub.of ?_ (by with_reducible assumption); with_unfolding_all rfl)) :
    Keeps pm s0 (State.modChan s n f) := by
  unfold State.modChan
  try dsimp only
  repeat' first
    | with_reducible assumption
    | (with_reducible intro t; intros)
    | with_reducible refine foldl_keeps ?_ ?_
    | with_reducible refine keeps_ite ?_ ?_
    | split
    | with_reducible refine Keeps.upd rfl rfl rfl rfl rfl rfl ?_

theorem State.modCe_keeps {pm : Nat} {s0 : State} {s : State} {n : ChanId} {f : Ce → Ce} (hk : Keeps pm s0 s) (hm : Sub 0x40 pm := by first | with_reducible assumption | (refine Sub.of ?_ (by with_reducible assumption); with_unfolding_all rfl)) :
    Keeps pm s0 (State.modCe s n f) := by
  unfold State.modCe
  try dsimp only
  repeat' first
    | with_reducible assumption
    | (with_reducible intro t; intros)
    | with_reducible refine foldl_keeps ?_ ?_
    | with_reducible refine State.modChan_keeps ?_ 
    | with_reducible refine keeps_ite ?_ ?_
    | split
    | with_reducible refine Keeps.upd rfl rfl rfl rfl rfl rfl ?_

theorem State.modHead_keeps {pm : Nat} {s0 : State} {s : State} {h : HeadId} {f : Head → Head} (hk : Keeps pm s0 s) (hm : Sub 0x80 pm := by first | with_reducible assumption | (refine Sub.of ?_ (by with_reducible assumption); with_unfolding_all rfl)) :
    Keeps pm s0 (State.modHead s h f) := by
  unfold State.modHead
  try dsimp only
  repeat' first
    | with_reducible assumption
    | (with_reducible intro t; intros)
    | with_reducible refine foldl_keeps ?_ ?_
    | with_reducible refine keeps_ite ?_ ?_
    | split
    | with_reducible refine Keeps.upd rfl rfl rfl rfl rfl rfl ?_

theorem State.modLink_keeps {pm : Nat} {s0 : State} {s : State} {k : LinkId} {f : Link → Link} (hk : Keeps pm s0 s) (hm : Sub 0x20 pm := by first | with_reducible assumption | (refine Sub.of ?_ (by with_reducible assumption); with_unfolding_all rfl)) :
    Keeps pm s0 (State.modLink s k f) := by
  unfold State.modLink
  try dsimp only
  repeat' first
    | with_reducible assumption
    | (with_reducible intro t; intros)
    | with_reducible refine foldl_keeps ?_ ?_
    | with_reducible refine keeps_ite ?_ ?_
    | split
    | with_reducible refine Keeps.upd rfl rfl rfl rfl rfl rfl ?_

theorem State.modPort_keeps {pm : Nat} {s0 : State} {s : State} {p : PortId} {f : Port → Port} (hk : Keeps pm s0 s) (hm : Sub 0xc00 pm := by first | with_reducible assumption | (refine Sub.of ?_ (by with_reducible assumption); with_unfolding_all rfl)) :
    Keeps pm s0 (State.modPort s p f) := by
  unfold State.modPort
  try dsimp only
  repeat' first
    | with_reducible assumption
    | (with_reducible intro t; intros)
    | with_reducible refine foldl_keeps ?_ ?_
    | with_reducible refine keeps_ite ?_ ?_
    | split
    | with_reducible refine Keeps.upd rfl rfl rfl rfl rfl rfl ?_

theorem State.modPorts_keeps {pm : Nat} {s0 : State} {s : State} {f : Port → Port} (hk : Keeps pm s0 s) (hm : Sub 0xc00 pm := by first | with_reducible assumption | (refine Sub.of ?_ (by with_reducible assumption); with_unfolding_all rfl)) :
    Keeps pm s0 (State.modPorts s f) := by
  unfold State.modPorts
  try dsimp only
  repeat' first
    | with_reducible assumption
    | (with_reducible intro t; intros)
    | with_reducible refine foldl_keeps ?_ ?_
    | with_reducible refine State.modPort_keeps ?_ 
    | with_reducible refine keeps_ite ?_ ?_
    | split
    | with_reducible refine Keeps.upd rfl rfl rfl rfl rfl rfl ?_

theorem State.modRwc_keeps {pm : Nat} {s0 : State} {s : State} {n : ChanId} {f : Rwc → Rwc} (hk : Keeps pm s0 s) (hm : Sub 0x40 pm := by first | with_reducible assumption | (refine Sub.of ?_ (by with_reducible assumption); with_unfolding_all rfl)) :
    Keeps pm s0 (State.modRwc s n f) := by
  unfold State.modRwc
  try dsimp only
  repeat' first
    | with_reducible assumption
    | (with_reducible intro t; intros)
    | with_reducible refine foldl_keeps ?_ ?_
    | with_reducible refine State.modChan_keeps ?_ 
    | with_reducible refine keeps_ite ?_ ?_
    | split
    | with_reducible refine Keeps.upd rfl rfl rfl rfl rfl rfl ?_

theorem State.modSdm_keeps {pm : Nat} {s0 : State} {s : State} {n : ChanId} {f : Sdm → Sdm} (hk : Keeps pm s0 s) (hm : Sub 0x40 pm := by first | with_reducible assumption | (refine Sub.of ?_ (by with_reducible assumption); with_unfolding_all rfl)) :
    Keeps pm s0 (State.modSdm s n f) := by
  unfold State.modSdm
  try dsimp only
  repeat' first
    | with_reducible assumption
    | (with_reducible intro t; intros)
    | with_reducible refine foldl_keeps ?_ ?_
    | with_reducible refine State.modChan_keeps ?_ 
    | with_reducible refine keeps_ite ?_ ?_
    | split
    | with_reducible refine Keeps.upd rfl rfl rfl rfl rfl rfl ?_

theorem State.modWr_keeps {pm : Nat} {s0 : State} {s : State} {n : ChanId} {f : WriteSide → WriteSide} (hk : Keeps pm s0 s) (hm : Sub 0x40 pm := by first | with_reducible assumption | (refine Sub.of ?_ (by with_reducible assumption); with_unfolding_all rfl)) :
    Keeps pm s0 (State.modWr s n f) := by
  unfold State.modWr
  try dsimp only
  repeat' first
    | with_reducible assumption
    | (with_reducible intro t; intros)
    | with_reducible refine foldl_keeps ?_ ?_
    | with_reducible refine State.modChan_keeps ?_ 
    | with_reducible refine keeps_ite ?_ ?_
    | split
    | with_reducible refine Keeps.upd rfl rfl rfl rfl rfl rfl ?_

theorem raise_keeps {pm : Nat} {s0 : State} {e : Event} {s : State} (hk : Keeps pm s0 s) (hm : Sub 0x1000000 pm := by first | with_reducible assumption | (refine Sub.of ?_ (by with_reducible assumption); with_unfolding_all rfl)) :
    Keeps pm s0 (raise e s) := by
  unfold raise
  dsimp only
  split
  · split
    · next h => exact Keeps.updEvr hk rfl rfl (RecorderOk.boot _ (by rw [List.length_append, List.length_singleton]; omega))
    · exact Keeps.upd rfl rfl rfl rfl rfl rfl hk
  · repeat' first
    | split
    | exact Keeps.upd rfl rfl rfl rfl rfl rfl hk

theorem faultEvent_keeps {pm : Nat} {s0 : State} {k : FaultKind} {c : FaultClass} {unit : Option UnitId} {inWindow : ℕ} {extra : ℕ} {s : State} (hk : Keeps pm s0 s) (hm : Sub 0x1000000 pm := by first | with_reducible assumption | (refine Sub.of ?_ (by with_reducible assumption); with_unfolding_all rfl)) :
    Keeps pm s0 (faultEvent k c unit inWindow extra s) := by
  unfold faultEvent
  try dsimp only
  repeat' first
    | with_reducible assumption
    | (with_reducible intro t; intros)
    | with_reducible refine foldl_keeps ?_ ?_
    | with_reducible refine raise_keeps ?_ 
    | with_reducible refine keeps_ite ?_ ?_
    | split
    | with_reducible refine Keeps.upd rfl rfl rfl rfl rfl rfl ?_

theorem chanFault_keeps {pm : Nat} {s0 : State} {k : FaultKind} {n : ChanId} {s : State} (hk : Keeps pm s0 s) (hm : Sub 0x1000000 pm := by first | with_reducible assumption | (refine Sub.of ?_ (by with_reducible assumption); with_unfolding_all rfl)) :
    Keeps pm s0 (chanFault k n s) := by
  unfold chanFault
  try dsimp only
  repeat' first
    | with_reducible assumption
    | (with_reducible intro t; intros)
    | with_reducible refine foldl_keeps ?_ ?_
    | with_reducible refine faultEvent_keeps ?_ 
    | with_reducible refine keeps_ite ?_ ?_
    | split
    | with_reducible refine Keeps.upd rfl rfl rfl rfl rfl rfl ?_

theorem abandon_keeps {pm : Nat} {s0 : State} {n : ChanId} {s : State} (hk : Keeps pm s0 s) (hm : Sub 0x1000040 pm := by first | with_reducible assumption | (refine Sub.of ?_ (by with_reducible assumption); with_unfolding_all rfl)) :
    Keeps pm s0 (abandon n s) := by
  unfold abandon
  try dsimp only
  repeat' first
    | with_reducible assumption
    | (with_reducible intro t; intros)
    | with_reducible refine foldl_keeps ?_ ?_
    | with_reducible refine State.modChan_keeps ?_ 
    | with_reducible refine chanFault_keeps ?_ 
    | with_reducible refine keeps_ite ?_ ?_
    | split
    | with_reducible refine Keeps.upd rfl rfl rfl rfl rfl rfl ?_

theorem holdActuator_keeps {pm : Nat} {s0 : State} {n : ChanId} {s : State} (hk : Keeps pm s0 s) (hm : Sub 0x40 pm := by first | with_reducible assumption | (refine Sub.of ?_ (by with_reducible assumption); with_unfolding_all rfl)) :
    Keeps pm s0 (holdActuator n s) := by
  unfold holdActuator
  try dsimp only
  repeat' first
    | with_reducible assumption
    | (with_reducible intro t; intros)
    | with_reducible refine foldl_keeps ?_ ?_
    | with_reducible refine State.modRwc_keeps ?_ 
    | with_reducible refine keeps_ite ?_ ?_
    | split
    | with_reducible refine Keeps.upd rfl rfl rfl rfl rfl rfl ?_

theorem modEntry_keeps {pm : Nat} {s0 : State} {n : ChanId} {i : Fin 10} {f : CaptureEntry → CaptureEntry} {s : State} (hk : Keeps pm s0 s) (hm : Sub 0x40 pm := by first | with_reducible assumption | (refine Sub.of ?_ (by with_reducible assumption); with_unfolding_all rfl)) :
    Keeps pm s0 (modEntry n i f s) := by
  unfold modEntry
  try dsimp only
  repeat' first
    | with_reducible assumption
    | (with_reducible intro t; intros)
    | with_reducible refine foldl_keeps ?_ ?_
    | with_reducible refine State.modRwc_keeps ?_ 
    | with_reducible refine keeps_ite ?_ ?_
    | split
    | with_reducible refine Keeps.upd rfl rfl rfl rfl rfl rfl ?_

theorem keepEntries_keeps {pm : Nat} {s0 : State} {n : ChanId} {l : List (Fin 10)} {recovered : Bool} {s : State} (hk : Keeps pm s0 s) (hm : Sub 0x40 pm := by first | with_reducible assumption | (refine Sub.of ?_ (by with_reducible assumption); with_unfolding_all rfl)) :
    Keeps pm s0 (keepEntries n l recovered s) := by
  unfold keepEntries
  try dsimp only
  repeat' first
    | with_reducible assumption
    | (with_reducible intro t; intros)
    | with_reducible refine foldl_keeps ?_ ?_
    | with_reducible refine modEntry_keeps ?_ 
    | with_reducible refine keeps_ite ?_ ?_
    | split
    | with_reducible refine Keeps.upd rfl rfl rfl rfl rfl rfl ?_

theorem endLadder_keeps {pm : Nat} {s0 : State} {n : ChanId} {l : Ladder} {recovered : Bool} {s : State} (hk : Keeps pm s0 s) (hm : Sub 0x40 pm := by first | with_reducible assumption | (refine Sub.of ?_ (by with_reducible assumption); with_unfolding_all rfl)) :
    Keeps pm s0 (endLadder n l recovered s) := by
  unfold endLadder
  try dsimp only
  repeat' first
    | with_reducible assumption
    | (with_reducible intro t; intros)
    | with_reducible refine foldl_keeps ?_ ?_
    | with_reducible refine State.modRwc_keeps ?_ 
    | with_reducible refine holdActuator_keeps ?_ 
    | with_reducible refine keepEntries_keeps ?_ 
    | with_reducible refine keeps_ite ?_ ?_
    | split
    | with_reducible refine Keeps.upd rfl rfl rfl rfl rfl rfl ?_

theorem refile_keeps {pm : Nat} {s0 : State} {o : MediaOp} {s : State} (hk : Keeps pm s0 s) (hm : Sub 0x8000 pm := by first | with_reducible assumption | (refine Sub.of ?_ (by with_reducible assumption); with_unfolding_all rfl)) :
    Keeps pm s0 (refile o s) := by
  unfold refile
  try dsimp only
  repeat' first
    | with_reducible assumption
    | (with_reducible intro t; intros)
    | with_reducible refine foldl_keeps ?_ ?_
    | with_reducible refine keeps_ite ?_ ?_
    | split
    | with_reducible refine Keeps.upd rfl rfl rfl rfl rfl rfl ?_

theorem stopNow_keeps {pm : Nat} {s0 : State} {n : ChanId} {again : Bool} {l : Ladder} {s : State} (hk : Keeps pm s0 s) (hm : Sub 0x8040 pm := by first | with_reducible assumption | (refine Sub.of ?_ (by with_reducible assumption); with_unfolding_all rfl)) :
    Keeps pm s0 (stopNow n again l s) := by
  unfold stopNow
  try dsimp only
  repeat' first
    | with_reducible assumption
    | (with_reducible intro t; intros)
    | with_reducible refine foldl_keeps ?_ ?_
    | with_reducible refine endLadder_keeps ?_ 
    | with_reducible refine refile_keeps ?_ 
    | with_reducible refine keeps_ite ?_ ?_
    | split
    | with_reducible refine Keeps.upd rfl rfl rfl rfl rfl rfl ?_

theorem abandonLadders_keeps {pm : Nat} {s0 : State} {n : ChanId} {s : State} (hk : Keeps pm s0 s) (hm : Sub 0x8040 pm := by first | with_reducible assumption | (refine Sub.of ?_ (by with_reducible assumption); with_unfolding_all rfl)) :
    Keeps pm s0 (abandonLadders n s) := by
  unfold abandonLadders
  try dsimp only
  repeat' first
    | with_reducible assumption
    | (with_reducible intro t; intros)
    | with_reducible refine foldl_keeps ?_ ?_
    | with_reducible refine State.modRwc_keeps ?_ 
    | with_reducible refine stopNow_keeps ?_ 
    | with_reducible refine keeps_ite ?_ ?_
    | split
    | with_reducible refine Keeps.upd rfl rfl rfl rfl rfl rfl ?_

theorem modHeadCal_keeps {pm : Nat} {s0 : State} {h : HeadId} {f : HeadCal → HeadCal} {s : State} (hk : Keeps pm s0 s) (hm : Sub 0x200 pm := by first | with_reducible assumption | (refine Sub.of ?_ (by with_reducible assumption); with_unfolding_all rfl)) :
    Keeps pm s0 (modHeadCal h f s) := by
  unfold modHeadCal
  try dsimp only
  repeat' first
    | with_reducible assumption
    | (with_reducible intro t; intros)
    | with_reducible refine foldl_keeps ?_ ?_
    | with_reducible refine keeps_ite ?_ ?_
    | split
    | with_reducible refine Keeps.upd rfl rfl rfl rfl rfl rfl ?_

theorem modFaultRec_keeps {pm : Nat} {s0 : State} {u : UnitId} {f : FaultRec → FaultRec} {s : State} (hk : Keeps pm s0 s) (hm : Sub 0x40000 pm := by first | with_reducible assumption | (refine Sub.of ?_ (by with_reducible assumption); with_unfolding_all rfl)) :
    Keeps pm s0 (modFaultRec u f s) := by
  unfold modFaultRec
  try dsimp only
  repeat' first
    | with_reducible assumption
    | (with_reducible intro t; intros)
    | with_reducible refine foldl_keeps ?_ ?_
    | with_reducible refine keeps_ite ?_ ?_
    | split
    | with_reducible refine Keeps.upd rfl rfl rfl rfl rfl rfl ?_

theorem decideUnit_keeps {pm : Nat} {s0 : State} {u : UnitId} {full : Bool} {s : State} (hk : Keeps pm s0 s) (hm : Sub 0x40000 pm := by first | with_reducible assumption | (refine Sub.of ?_ (by with_reducible assumption); with_unfolding_all rfl)) :
    Keeps pm s0 (decideUnit u full s) := by
  unfold decideUnit
  try dsimp only
  repeat' first
    | with_reducible assumption
    | (with_reducible intro t; intros)
    | with_reducible refine foldl_keeps ?_ ?_
    | with_reducible refine modFaultRec_keeps ?_ 
    | with_reducible refine keeps_ite ?_ ?_
    | split
    | with_reducible refine Keeps.upd rfl rfl rfl rfl rfl rfl ?_

theorem retireUnit_keeps {pm : Nat} {s0 : State} {u : UnitId} {full : Bool} {s : State} (hk : Keeps pm s0 s) (hm : Sub 0x40000 pm := by first | with_reducible assumption | (refine Sub.of ?_ (by with_reducible assumption); with_unfolding_all rfl)) :
    Keeps pm s0 (retireUnit u full s) := by
  unfold retireUnit
  try dsimp only
  repeat' first
    | with_reducible assumption
    | (with_reducible intro t; intros)
    | with_reducible refine foldl_keeps ?_ ?_
    | with_reducible refine decideUnit_keeps ?_ 
    | with_reducible refine keeps_ite ?_ ?_
    | split
    | with_reducible refine Keeps.upd rfl rfl rfl rfl rfl rfl ?_

theorem charge_keeps {pm : Nat} {s0 : State} {k : FaultKind} {u : UnitId} {writeSide : Bool} {extra : ℕ} {s : State} (hk : Keeps pm s0 s) (hm : Sub 0x1040000 pm := by first | with_reducible assumption | (refine Sub.of ?_ (by with_reducible assumption); with_unfolding_all rfl)) :
    Keeps pm s0 (charge k u writeSide extra s) := by
  unfold charge
  try dsimp only
  repeat' first
    | with_reducible assumption
    | (with_reducible intro t; intros)
    | with_reducible refine foldl_keeps ?_ ?_
    | with_reducible refine faultEvent_keeps ?_ 
    | with_reducible refine modFaultRec_keeps ?_ 
    | with_reducible refine retireUnit_keeps ?_ 
    | with_reducible refine keeps_ite ?_ ?_
    | split
    | with_reducible refine Keeps.upd rfl rfl rfl rfl rfl rfl ?_

theorem startFault_keeps {pm : Nat} {s0 : State} {code : ℕ} {s : State} (hk : Keeps pm s0 s) (hm : Sub 0x1000001 pm := by first | with_reducible assumption | (refine Sub.of ?_ (by with_reducible assumption); with_unfolding_all rfl)) :
    Keeps pm s0 (startFault code s) := by
  unfold startFault
  try dsimp only
  repeat' first
    | with_reducible assumption
    | (with_reducible intro t; intros)
    | with_reducible refine foldl_keeps ?_ ?_
    | with_reducible refine raise_keeps ?_ 
    | with_reducible refine keeps_ite ?_ ?_
    | split
    | with_reducible refine Keeps.upd rfl rfl rfl rfl rfl rfl ?_

theorem dropRequest_keeps {pm : Nat} {s0 : State} {h : HeadId} {k : CalKind} {zone : ℕ} {s : State} (hk : Keeps pm s0 s) (hm : Sub 0x200 pm := by first | with_reducible assumption | (refine Sub.of ?_ (by with_reducible assumption); with_unfolding_all rfl)) :
    Keeps pm s0 (dropRequest h k zone s) := by
  unfold dropRequest
  try dsimp only
  repeat' first
    | with_reducible assumption
    | (with_reducible intro t; intros)
    | with_reducible refine foldl_keeps ?_ ?_
    | with_reducible refine keeps_ite ?_ ?_
    | split
    | with_reducible refine Keeps.upd rfl rfl rfl rfl rfl rfl ?_

theorem abandonRun_keeps {pm : Nat} {s0 : State} {h : HeadId} {k : CalKind} {zone : ℕ} {track : Fin 8} {s : State} (hk : Keeps pm s0 s) (hm : Sub 0x1040201 pm := by first | with_reducible assumption | (refine Sub.of ?_ (by with_reducible assumption); with_unfolding_all rfl)) :
    Keeps pm s0 (abandonRun h k zone track s) := by
  unfold abandonRun
  try dsimp only
  repeat' first
    | with_reducible assumption
    | (with_reducible intro t; intros)
    | with_reducible refine foldl_keeps ?_ ?_
    | with_reducible refine modHeadCal_keeps ?_ 
    | with_reducible refine charge_keeps ?_ 
    | with_reducible refine startFault_keeps ?_ 
    | with_reducible refine dropRequest_keeps ?_ 
    | with_reducible refine keeps_ite ?_ ?_
    | split
    | with_reducible refine Keeps.upd rfl rfl rfl rfl rfl rfl ?_

theorem commitCompletion_keeps {pm : Nat} {s0 : State} {p : PortId} {c : Completion} {s : State} (hk : Keeps pm s0 s) (hm : Sub 0x2c00 pm := by first | with_reducible assumption | (refine Sub.of ?_ (by with_reducible assumption); with_unfolding_all rfl)) :
    Keeps pm s0 (commitCompletion p c s) := by
  unfold commitCompletion
  try dsimp only
  repeat' first
    | with_reducible assumption
    | (with_reducible intro t; intros)
    | with_reducible refine foldl_keeps ?_ ?_
    | with_reducible refine State.modPort_keeps ?_ 
    | with_reducible refine keeps_ite ?_ ?_
    | split
    | with_reducible refine Keeps.upd rfl rfl rfl rfl rfl rfl ?_

theorem adminDone_keeps {pm : Nat} {s0 : State} {a : AdminHdr} {st : Status} {dw0 : ℕ} {d : CplData} {s : State} (hk : Keeps pm s0 s) (hm : Sub 0x2c00 pm := by first | with_reducible assumption | (refine Sub.of ?_ (by with_reducible assumption); with_unfolding_all rfl)) :
    Keeps pm s0 (adminDone a st dw0 d s) := by
  unfold adminDone
  try dsimp only
  repeat' first
    | with_reducible assumption
    | (with_reducible intro t; intros)
    | with_reducible refine foldl_keeps ?_ ?_
    | with_reducible refine commitCompletion_keeps ?_ 
    | with_reducible refine keeps_ite ?_ ?_
    | split
    | with_reducible refine Keeps.upd rfl rfl rfl rfl rfl rfl ?_

theorem countAbort_keeps {pm : Nat} {s0 : State} {done : Bool} {s : State} (hk : Keeps pm s0 s) (hm : Sub 0x4000 pm := by first | with_reducible assumption | (refine Sub.of ?_ (by with_reducible assumption); with_unfolding_all rfl)) :
    Keeps pm s0 (countAbort done s) := by
  unfold countAbort
  try dsimp only
  repeat' first
    | with_reducible assumption
    | (with_reducible intro t; intros)
    | with_reducible refine foldl_keeps ?_ ?_
    | with_reducible refine keeps_ite ?_ ?_
    | split
    | with_reducible refine Keeps.upd rfl rfl rfl rfl rfl rfl ?_

theorem abortAer_keeps {pm : Nat} {s0 : State} {a : AdminHdr} {target : Word16} {s : State} (hk : Keeps pm s0 s) (hm : Sub 0x6c00 pm := by first | with_reducible assumption | (refine Sub.of ?_ (by with_reducible assumption); with_unfolding_all rfl)) :
    Keeps pm s0 (abortAer a target s) := by
  unfold abortAer
  try dsimp only
  repeat' first
    | with_reducible assumption
    | (with_reducible intro t; intros)
    | with_reducible refine foldl_keeps ?_ ?_
    | with_reducible refine State.modPort_keeps ?_ 
    | with_reducible refine adminDone_keeps ?_ 
    | with_reducible refine countAbort_keeps ?_ 
    | with_reducible refine keeps_ite ?_ ?_
    | split
    | with_reducible refine Keeps.upd rfl rfl rfl rfl rfl rfl ?_

theorem modCtx_keeps {pm : Nat} {s0 : State} {id : ℕ} {f : Ctx → Ctx} {s : State} (hk : Keeps pm s0 s) (hm : Sub 0x4000 pm := by first | with_reducible assumption | (refine Sub.of ?_ (by with_reducible assumption); with_unfolding_all rfl)) :
    Keeps pm s0 (modCtx id f s) := by
  unfold modCtx
  try dsimp only
  repeat' first
    | with_reducible assumption
    | (with_reducible intro t; intros)
    | with_reducible refine foldl_keeps ?_ ?_
    | with_reducible refine keeps_ite ?_ ?_
    | split
    | with_reducible refine Keeps.upd rfl rfl rfl rfl rfl rfl ?_

theorem dropCtx_keeps {pm : Nat} {s0 : State} {id : ℕ} {s : State} (hk : Keeps pm s0 s) (hm : Sub 0x4000 pm := by first | with_reducible assumption | (refine Sub.of ?_ (by with_reducible assumption); with_unfolding_all rfl)) :
    Keeps pm s0 (dropCtx id s) := by
  unfold dropCtx
  try dsimp only
  repeat' first
    | with_reducible assumption
    | (with_reducible intro t; intros)
    | with_reducible refine foldl_keeps ?_ ?_
    | with_reducible refine keeps_ite ?_ ?_
    | split
    | with_reducible refine Keeps.upd rfl rfl rfl rfl rfl rfl ?_

theorem releaseAborts_keeps {pm : Nat} {s0 : State} {p : PortId} {id : ℕ} {s : State} (hk : Keeps pm s0 s) (hm : Sub 0xc00 pm := by first | with_reducible assumption | (refine Sub.of ?_ (by with_reducible assumption); with_unfolding_all rfl)) :
    Keeps pm s0 (releaseAborts p id s) := by
  unfold releaseAborts
  try dsimp only
  repeat' first
    | with_reducible assumption
    | (with_reducible intro t; intros)
    | with_reducible refine foldl_keeps ?_ ?_
    | with_reducible refine State.modPort_keeps ?_ 
    | with_reducible refine keeps_ite ?_ ?_
    | split
    | with_reducible refine Keeps.upd rfl rfl rfl rfl rfl rfl ?_

theorem countHost_keeps {pm : Nat} {s0 : State} {c : Ctx} {st : Status} {s : State} (hk : Keeps pm s0 s) (hm : Sub 0x2000 pm := by first | with_reducible assumption | (refine Sub.of ?_ (by with_reducible assumption); with_unfolding_all rfl)) :
    Keeps pm s0 (countHost c st s) := by
  unfold countHost
  try dsimp only
  repeat' first
    | with_reducible assumption
    | (with_reducible intro t; intros)
    | with_reducible refine foldl_keeps ?_ ?_
    | with_reducible refine keeps_ite ?_ ?_
    | split
    | with_reducible refine Keeps.upd rfl rfl rfl rfl rfl rfl ?_

theorem commitCtx_keeps {pm : Nat} {s0 : State} {id : ℕ} {st : Status} {dw0 : ℕ} {dw1 : ℕ} {s : State} (hk : Keeps pm s0 s) (hm : Sub 0x6c00 pm := by first | with_reducible assumption | (refine Sub.of ?_ (by with_reducible assumption); with_unfolding_all rfl)) :
    Keeps pm s0 (commitCtx id st dw0 dw1 s) := by
  unfold commitCtx
  try dsimp only
  repeat' first
    | with_reducible assumption
    | (with_reducible intro t; intros)
    | with_reducible refine foldl_keeps ?_ ?_
    | with_reducible refine commitCompletion_keeps ?_ 
    | with_reducible refine modCtx_keeps ?_ 
    | with_reducible refine dropCtx_keeps ?_ 
    | with_reducible refine releaseAborts_keeps ?_ 
    | with_reducible refine countHost_keeps ?_ 
    | with_reducible refine keeps_ite ?_ ?_
    | split
    | with_reducible refine Keeps.upd rfl rfl rfl rfl rfl rfl ?_

theorem dropLines_keeps {pm : Nat} {s0 : State} {p : Line → Bool} {s : State} (hk : Keeps pm s0 s) (hm : Sub 0x20000 pm := by first | with_reducible assumption | (refine Sub.of ?_ (by with_reducible assumption); with_unfolding_all rfl)) :
    Keeps pm s0 (dropLines p s) := by
  unfold dropLines
  try dsimp only
  repeat' first
    | with_reducible assumption
    | (with_reducible intro t; intros)
    | with_reducible refine foldl_keeps ?_ ?_
    | with_reducible refine keeps_ite ?_ ?_
    | split
    | with_reducible refine Keeps.upd rfl rfl rfl rfl rfl rfl ?_

theorem dropOlder_keeps {pm : Nat} {s0 : State} {c : Ctx} {s : State} (hk : Keeps pm s0 s) (hm : Sub 0x20000 pm := by first | with_reducible assumption | (refine Sub.of ?_ (by with_reducible assumption); with_unfolding_all rfl)) :
    Keeps pm s0 (dropOlder c s) := by
  unfold dropOlder
  try dsimp only
  repeat' first
    | with_reducible assumption
    | (with_reducible intro t; intros)
    | with_reducible refine foldl_keeps ?_ ?_
    | with_reducible refine dropLines_keeps ?_ 
    | with_reducible refine keeps_ite ?_ ?_
    | split
    | with_reducible refine Keeps.upd rfl rfl rfl rfl rfl rfl ?_

theorem serialFrame_keeps {pm : Nat} {s0 : State} {n : ChanId} {read : Bool} {addr : ℕ} {data : ℕ} {s : State} (hk : Keeps pm s0 s) (hm : Sub 0x40 pm := by first | with_reducible assumption | (refine Sub.of ?_ (by with_reducible assumption); with_unfolding_all rfl)) :
    Keeps pm s0 (serialFrame n read addr data s) := by
  unfold serialFrame
  try dsimp only
  repeat' first
    | with_reducible assumption
    | (with_reducible intro t; intros)
    | with_reducible refine foldl_keeps ?_ ?_
    | with_reducible refine State.modWr_keeps ?_ 
    | with_reducible refine keeps_ite ?_ ?_
    | split
    | with_reducible refine Keeps.upd rfl rfl rfl rfl rfl rfl ?_

theorem levelFrame_keeps {pm : Nat} {s0 : State} {n : ChanId} {level : ℕ} {s : State} (hk : Keeps pm s0 s) (hm : Sub 0x40 pm := by first | with_reducible assumption | (refine Sub.of ?_ (by with_reducible assumption); with_unfolding_all rfl)) :
    Keeps pm s0 (levelFrame n level s) := by
  unfold levelFrame
  try dsimp only
  repeat' first
    | with_reducible assumption
    | (with_reducible intro t; intros)
    | with_reducible refine foldl_keeps ?_ ?_
    | with_reducible refine State.modWr_keeps ?_ 
    | with_reducible refine serialFrame_keeps ?_ 
    | with_reducible refine keeps_ite ?_ ?_
    | split
    | with_reducible refine Keeps.upd rfl rfl rfl rfl rfl rfl ?_

theorem flushLevel_keeps {pm : Nat} {s0 : State} {n : ChanId} {s : State} (hk : Keeps pm s0 s) (hm : Sub 0x40 pm := by first | with_reducible assumption | (refine Sub.of ?_ (by with_reducible assumption); with_unfolding_all rfl)) :
    Keeps pm s0 (flushLevel n s) := by
  unfold flushLevel
  try dsimp only
  repeat' first
    | with_reducible assumption
    | (with_reducible intro t; intros)
    | with_reducible refine foldl_keeps ?_ ?_
    | with_reducible refine State.modWr_keeps ?_ 
    | with_reducible refine levelFrame_keeps ?_ 
    | with_reducible refine keeps_ite ?_ ?_
    | split
    | with_reducible refine Keeps.upd rfl rfl rfl rfl rfl rfl ?_

theorem otherFrame_keeps {pm : Nat} {s0 : State} {n : ChanId} {read : Bool} {addr : ℕ} {data : ℕ} {s : State} (hk : Keeps pm s0 s) (hm : Sub 0x40 pm := by first | with_reducible assumption | (refine Sub.of ?_ (by with_reducible assumption); with_unfolding_all rfl)) :
    Keeps pm s0 (otherFrame n read addr data s) := by
  unfold otherFrame
  try dsimp only
  repeat' first
    | with_reducible assumption
    | (with_reducible intro t; intros)
    | with_reducible refine foldl_keeps ?_ ?_
    | with_reducible refine serialFrame_keeps ?_ 
    | with_reducible refine flushLevel_keeps ?_ 
    | with_reducible refine keeps_ite ?_ ?_
    | split
    | with_reducible refine Keeps.upd rfl rfl rfl rfl rfl rfl ?_

theorem modeFrame_keeps {pm : Nat} {s0 : State} {n : ChanId} {i : ℕ} {s : State} (hk : Keeps pm s0 s) (hm : Sub 0x40 pm := by first | with_reducible assumption | (refine Sub.of ?_ (by with_reducible assumption); with_unfolding_all rfl)) :
    Keeps pm s0 (modeFrame n i s) := by
  unfold modeFrame
  try dsimp only
  repeat' first
    | with_reducible assumption
    | (with_reducible intro t; intros)
    | with_reducible refine foldl_keeps ?_ ?_
    | with_reducible refine otherFrame_keeps ?_ 
    | with_reducible refine keeps_ite ?_ ?_
    | split
    | with_reducible refine Keeps.upd rfl rfl rfl rfl rfl rfl ?_

theorem settlePins_keeps {pm : Nat} {s0 : State} {s : State} (hk : Keeps pm s0 s) (hm : Sub 0x20000 pm := by first | with_reducible assumption | (refine Sub.of ?_ (by with_reducible assumption); with_unfolding_all rfl)) :
    Keeps pm s0 (settlePins s) := by
  unfold settlePins
  try dsimp only
  repeat' first
    | with_reducible assumption
    | (with_reducible intro t; intros)
    | with_reducible refine foldl_keeps ?_ ?_
    | with_reducible refine keeps_ite ?_ ?_
    | split
    | with_reducible refine Keeps.upd rfl rfl rfl rfl rfl rfl ?_

theorem withdrawRun_keeps {pm : Nat} {s0 : State} {p : MediaOp → Bool} {n : ChanId} {s : State} (hk : Keeps pm s0 s) (hm : Sub 0x20040 pm := by first | with_reducible assumption | (refine Sub.of ?_ (by with_reducible assumption); with_unfolding_all rfl)) :
    Keeps pm s0 (withdrawRun p n s) := by
  unfold withdrawRun
  try dsimp only
  repeat' first
    | with_reducible assumption
    | (with_reducible intro t; intros)
    | with_reducible refine foldl_keeps ?_ ?_
    | with_reducible refine State.modWr_keeps ?_ 
    | with_reducible refine modeFrame_keeps ?_ 
    | with_reducible refine settlePins_keeps ?_ 
    | with_reducible refine keeps_ite ?_ ?_
    | split
    | with_reducible refine Keeps.upd rfl rfl rfl rfl rfl rfl ?_

theorem withdrawOps_keeps {pm : Nat} {s0 : State} {p : MediaOp → Bool} {s : State} (hk : Keeps pm s0 s) (hm : Sub 0x28040 pm := by first | with_reducible assumption | (refine Sub.of ?_ (by with_reducible assumption); with_unfolding_all rfl)) :
    Keeps pm s0 (withdrawOps p s) := by
  unfold withdrawOps
  try dsimp only
  repeat' first
    | with_reducible assumption
    | (with_reducible intro t; intros)
    | with_reducible refine foldl_keeps ?_ ?_
    | with_reducible refine withdrawRun_keeps ?_ 
    | with_reducible refine keeps_ite ?_ ?_
    | split
    | with_reducible refine Keeps.upd rfl rfl rfl rfl rfl rfl ?_

theorem releaseWrite_keeps {pm : Nat} {s0 : State} {id : ℕ} {s : State} (hk : Keeps pm s0 s) (hm : Sub 0x28040 pm := by first | with_reducible assumption | (refine Sub.of ?_ (by with_reducible assumption); with_unfolding_all rfl)) :
    Keeps pm s0 (releaseWrite id s) := by
  unfold releaseWrite
  try dsimp only
  repeat' first
    | with_reducible assumption
    | (with_reducible intro t; intros)
    | with_reducible refine foldl_keeps ?_ ?_
    | with_reducible refine dropLines_keeps ?_ 
    | with_reducible refine withdrawOps_keeps ?_ 
    | with_reducible refine keeps_ite ?_ ?_
    | split
    | with_reducible refine Keeps.upd rfl rfl rfl rfl rfl rfl ?_

theorem setBand_keeps {pm : Nat} {s0 : State} {r : BandRec} {s : State} (hk : Keeps pm s0 s) (hm : Sub 0x1000 pm := by first | with_reducible assumption | (refine Sub.of ?_ (by with_reducible assumption); with_unfolding_all rfl)) :
    Keeps pm s0 (setBand r s) := by
  unfold setBand
  try dsimp only
  repeat' first
    | with_reducible assumption
    | (with_reducible intro t; intros)
    | with_reducible refine foldl_keeps ?_ ?_
    | with_reducible refine keeps_ite ?_ ?_
    | split
    | with_reducible refine Keeps.upd rfl rfl rfl rfl rfl rfl ?_

theorem rollback_keeps {pm : Nat} {s0 : State} {id : ℕ} {k : BandKey} {onMediaEnd : ℕ} {port : PortId} {s : State} (hk : Keeps pm s0 s) (hm : Sub 0x102fc40 pm := by first | with_reducible assumption | (refine Sub.of ?_ (by with_reducible assumption); with_unfolding_all rfl)) :
    Keeps pm s0 (rollback id k onMediaEnd port s) := by
  unfold rollback
  try dsimp only
  repeat' first
    | with_reducible assumption
    | (with_reducible intro t; intros)
    | with_reducible refine foldl_keeps ?_ ?_
    | with_reducible refine raise_keeps ?_ 
    | with_reducible refine commitCtx_keeps ?_ 
    | with_reducible refine releaseWrite_keeps ?_ 
    | with_reducible refine setBand_keeps ?_ 
    | with_reducible refine keeps_ite ?_ ?_
    | split
    | with_reducible refine Keeps.upd rfl rfl rfl rfl rfl rfl ?_

theorem endWrite_keeps {pm : Nat} {s0 : State} {c : Ctx} {s : State} (hk : Keeps pm s0 s) (hm : Sub 0x102fc40 pm := by first | with_reducible assumption | (refine Sub.of ?_ (by with_reducible assumption); with_unfolding_all rfl)) :
    Keeps pm s0 (endWrite c s) := by
  unfold endWrite
  try dsimp only
  repeat' first
    | with_reducible assumption
    | (with_reducible intro t; intros)
    | with_reducible refine foldl_keeps ?_ ?_
    | with_reducible refine dropOlder_keeps ?_ 
    | with_reducible refine releaseWrite_keeps ?_ 
    | with_reducible refine rollback_keeps ?_ 
    | with_reducible refine keeps_ite ?_ ?_
    | split
    | with_reducible refine Keeps.upd rfl rfl rfl rfl rfl rfl ?_

theorem endRead_keeps {pm : Nat} {s0 : State} {c : Ctx} {s : State} (hk : Keeps pm s0 s) (hm : Sub 0x20000 pm := by first | with_reducible assumption | (refine Sub.of ?_ (by with_reducible assumption); with_unfolding_all rfl)) :
    Keeps pm s0 (endRead c s) := by
  unfold endRead
  try dsimp only
  repeat' first
    | with_reducible assumption
    | (with_reducible intro t; intros)
    | with_reducible refine foldl_keeps ?_ ?_
    | with_reducible refine keeps_ite ?_ ?_
    | split
    | with_reducible refine Keeps.upd rfl rfl rfl rfl rfl rfl ?_

theorem endUnacked_keeps {pm : Nat} {s0 : State} {c : Ctx} {st : Status} {s : State} (hk : Keeps pm s0 s) (hm : Sub 0x102fc40 pm := by first | with_reducible assumption | (refine Sub.of ?_ (by with_reducible assumption); with_unfolding_all rfl)) :
    Keeps pm s0 (endUnacked c st s) := by
  unfold endUnacked
  try dsimp only
  repeat' first
    | with_reducible assumption
    | (with_reducible intro t; intros)
    | with_reducible refine foldl_keeps ?_ ?_
    | with_reducible refine modCtx_keeps ?_ 
    | with_reducible refine commitCtx_keeps ?_ 
    | with_reducible refine endWrite_keeps ?_ 
    | with_reducible refine endRead_keeps ?_ 
    | with_reducible refine keeps_ite ?_ ?_
    | split
    | with_reducible refine Keeps.upd rfl rfl rfl rfl rfl rfl ?_

theorem abortHosts_keeps {pm : Nat} {s0 : State} {nsid : ℕ} {l : List (BitVec 128 × PortId)} {except : ℕ} {s : State} (hk : Keeps pm s0 s) (hm : Sub 0x102fc40 pm := by first | with_reducible assumption | (refine Sub.of ?_ (by with_reducible assumption); with_unfolding_all rfl)) :
    Keeps pm s0 (abortHosts nsid l except s) := by
  unfold abortHosts
  try dsimp only
  repeat' first
    | with_reducible assumption
    | (with_reducible intro t; intros)
    | with_reducible refine foldl_keeps ?_ ?_
    | with_reducible refine endUnacked_keeps ?_ 
    | with_reducible refine keeps_ite ?_ ?_
    | split
    | with_reducible refine Keeps.upd rfl rfl rfl rfl rfl rfl ?_

theorem gatherImages_keeps {pm : Nat} {s0 : State} {s : State} (hk : Keeps pm s0 s) (hm : Sub 0x80000 pm := by first | with_reducible assumption | (refine Sub.of ?_ (by with_reducible assumption); with_unfolding_all rfl)) :
    Keeps pm s0 (gatherImages s) := by
  unfold gatherImages
  try dsimp only
  repeat' first
    | with_reducible assumption
    | (with_reducible intro t; intros)
    | with_reducible refine foldl_keeps ?_ ?_
    | with_reducible refine keeps_ite ?_ ?_
    | split
    | with_reducible refine Keeps.upd rfl rfl rfl rfl rfl rfl ?_

theorem modDie_keeps {pm : Nat} {s0 : State} {d : Fin 2} {f : Die → Die} {s : State} (hk : Keeps pm s0 s) (hm : Sub 0x80000 pm := by first | with_reducible assumption | (refine Sub.of ?_ (by with_reducible assumption); with_unfolding_all rfl)) :
    Keeps pm s0 (modDie d f s) := by
  unfold modDie
  try dsimp only
  repeat' first
    | with_reducible assumption
    | (with_reducible intro t; intros)
    | with_reducible refine foldl_keeps ?_ ?_
    | with_reducible refine keeps_ite ?_ ?_
    | split
    | with_reducible refine Keeps.upd rfl rfl rfl rfl rfl rfl ?_

theorem clearErased_keeps {pm : Nat} {s0 : State} {a : PageAddr} {s : State} (hk : Keeps pm s0 s) (hm : Sub 0x80000 pm := by first | with_reducible assumption | (refine Sub.of ?_ (by with_reducible assumption); with_unfolding_all rfl)) :
    Keeps pm s0 (clearErased a s) := by
  unfold clearErased
  try dsimp only
  repeat' first
    | with_reducible assumption
    | (with_reducible intro t; intros)
    | with_reducible refine foldl_keeps ?_ ?_
    | with_reducible refine modDie_keeps ?_ 
    | with_reducible refine keeps_ite ?_ ?_
    | split
    | with_reducible refine Keeps.upd rfl rfl rfl rfl rfl rfl ?_

theorem startJournal_keeps {pm : Nat} {s0 : State} {s : State} (hk : Keeps pm s0 s) (hm : Sub 0x80000 pm := by first | with_reducible assumption | (refine Sub.of ?_ (by with_reducible assumption); with_unfolding_all rfl)) :
    Keeps pm s0 (startJournal s) := by
  unfold startJournal
  try dsimp only
  repeat' first
    | with_reducible assumption
    | (with_reducible intro t; intros)
    | with_reducible refine foldl_keeps ?_ ?_
    | with_reducible refine gatherImages_keeps ?_ 
    | with_reducible refine modDie_keeps ?_ 
    | with_reducible refine clearErased_keeps ?_ 
    | with_reducible refine keeps_ite ?_ ?_
    | split
    | with_reducible refine Keeps.upd rfl rfl rfl rfl rfl rfl ?_

theorem startErase_keeps {pm : Nat} {s0 : State} {die : Fin 2} {s : State} (hk : Keeps pm s0 s) (hm : Sub 0x80000 pm := by first | with_reducible assumption | (refine Sub.of ?_ (by with_reducible assumption); with_unfolding_all rfl)) :
    Keeps pm s0 (startErase die s) := by
  unfold startErase
  try dsimp only
  repeat' first
    | with_reducible assumption
    | (with_reducible intro t; intros)
    | with_reducible refine foldl_keeps ?_ ?_
    | with_reducible refine modDie_keeps ?_ 
    | with_reducible refine keeps_ite ?_ ?_
    | split
    | with_reducible refine Keeps.upd rfl rfl rfl rfl rfl rfl ?_

theorem kickDies_keeps {pm : Nat} {s0 : State} {s : State} (hk : Keeps pm s0 s) (hm : Sub 0x80000 pm := by first | with_reducible assumption | (refine Sub.of ?_ (by with_reducible assumption); with_unfolding_all rfl)) :
    Keeps pm s0 (kickDies s) := by
  unfold kickDies
  try dsimp only
  repeat' first
    | with_reducible assumption
    | (with_reducible intro t; intros)
    | with_reducible refine foldl_keeps ?_ ?_
    | with_reducible refine startJournal_keeps ?_ 
    | with_reducible refine startErase_keeps ?_ 
    | with_reducible refine keeps_ite ?_ ?_
    | split
    | with_reducible refine Keeps.upd rfl rfl rfl rfl rfl rfl ?_

end Sys2Proof.Machine
end

