-- ==== Sys2Proof/Laws/Frame02.lean ====
section
/-! SUPPORT. What each operation keeps (see Keeps), in the order in which operations call each other: queueLoad to servePauses. -/

set_option linter.unusedTactic false
set_option linter.unreachableTactic false
set_option Elab.async false

namespace Sys2Proof.Machine

theorem queueLoad_keeps {pm : Nat} {s0 : State} {n : ChanId} {s : State} (hk : Keeps pm s0 s) (hm : Sub 0x4000000 pm := by first | with_reducible assumption | (refine Sub.of ?_ (by with_reducible assumption); with_unfolding_all rfl)) :
    Keeps pm s0 (queueLoad n s) := by
  unfold queueLoad
  try dsimp only
  repeat' first
    | with_reducible assumption
    | (with_reducible intro t; intros)
    | with_reducible refine foldl_keeps ?_ ?_
    | with_reducible refine keeps_ite ?_ ?_
    | split
    | with_reducible refine Keeps.upd rfl rfl rfl rfl rfl rfl ?_

theorem loadForWork_keeps {pm : Nat} {s0 : State} {s : State} (hk : Keeps pm s0 s) (hm : Sub 0x4000000 pm := by first | with_reducible assumption | (refine Sub.of ?_ (by with_reducible assumption); with_unfolding_all rfl)) :
    Keeps pm s0 (loadForWork s) := by
  unfold loadForWork
  try dsimp only
  repeat' first
    | with_reducible assumption
    | (with_reducible intro t; intros)
    | with_reducible refine foldl_keeps ?_ ?_
    | with_reducible refine queueLoad_keeps ?_ 
    | with_reducible refine keeps_ite ?_ ?_
    | split
    | with_reducible refine Keeps.upd rfl rfl rfl rfl rfl rfl ?_

theorem takeSpeed_keeps {pm : Nat} {s0 : State} {s : State} (hk : Keeps pm s0 s) (hm : Sub 0x8 pm := by first | with_reducible assumption | (refine Sub.of ?_ (by with_reducible assumption); with_unfolding_all rfl)) :
    Keeps pm s0 (takeSpeed s) := by
  unfold takeSpeed
  try dsimp only
  repeat' first
    | with_reducible assumption
    | (with_reducible intro t; intros)
    | with_reducible refine foldl_keeps ?_ ?_
    | with_reducible refine keeps_ite ?_ ?_
    | split
    | with_reducible refine Keeps.upd rfl rfl rfl rfl rfl rfl ?_

theorem startRamp_keeps {pm : Nat} {s0 : State} {s : State} (hk : Keeps pm s0 s) (hm : Sub 0x8 pm := by first | with_reducible assumption | (refine Sub.of ?_ (by with_reducible assumption); with_unfolding_all rfl)) :
    Keeps pm s0 (startRamp s) := by
  unfold startRamp
  try dsimp only
  repeat' first
    | with_reducible assumption
    | (with_reducible intro t; intros)
    | with_reducible refine foldl_keeps ?_ ?_
    | with_reducible refine takeSpeed_keeps ?_ 
    | with_reducible refine keeps_ite ?_ ?_
    | split
    | with_reducible refine Keeps.upd rfl rfl rfl rfl rfl rfl ?_

theorem sendFrames_keeps {pm : Nat} {s0 : State} {k : LinkId} {fs : List DownFrame} {s : State} (hk : Keeps pm s0 s) (hm : Sub 0x20 pm := by first | with_reducible assumption | (refine Sub.of ?_ (by with_reducible assumption); with_unfolding_all rfl)) :
    Keeps pm s0 (sendFrames k fs s) := by
  unfold sendFrames
  try dsimp only
  repeat' first
    | with_reducible assumption
    | (with_reducible intro t; intros)
    | with_reducible refine foldl_keeps ?_ ?_
    | with_reducible refine State.modLink_keeps ?_ 
    | with_reducible refine keeps_ite ?_ ?_
    | split
    | with_reducible refine Keeps.upd rfl rfl rfl rfl rfl rfl ?_

theorem sendFrame_keeps {pm : Nat} {s0 : State} {k : LinkId} {f : DownFrame} {s : State} (hk : Keeps pm s0 s) (hm : Sub 0x20 pm := by first | with_reducible assumption | (refine Sub.of ?_ (by with_reducible assumption); with_unfolding_all rfl)) :
    Keeps pm s0 (sendFrame k f s) := by
  unfold sendFrame
  try dsimp only
  repeat' first
    | with_reducible assumption
    | (with_reducible intro t; intros)
    | with_reducible refine foldl_keeps ?_ ?_
    | with_reducible refine sendFrames_keeps ?_ 
    | with_reducible refine keeps_ite ?_ ?_
    | split
    | with_reducible refine Keeps.upd rfl rfl rfl rfl rfl rfl ?_

theorem sendSpin_keeps {pm : Nat} {s0 : State} {c : ℕ} {s : State} (hk : Keeps pm s0 s) (hm : Sub 0x20 pm := by first | with_reducible assumption | (refine Sub.of ?_ (by with_reducible assumption); with_unfolding_all rfl)) :
    Keeps pm s0 (sendSpin c s) := by
  unfold sendSpin
  try dsimp only
  repeat' first
    | with_reducible assumption
    | (with_reducible intro t; intros)
    | with_reducible refine foldl_keeps ?_ ?_
    | with_reducible refine sendFrame_keeps ?_ 
    | with_reducible refine keeps_ite ?_ ?_
    | split
    | with_reducible refine Keeps.upd rfl rfl rfl rfl rfl rfl ?_

theorem spinUp_keeps {pm : Nat} {s0 : State} {s : State} (hk : Keeps pm s0 s) (hm : Sub 0x28 pm := by first | with_reducible assumption | (refine Sub.of ?_ (by with_reducible assumption); with_unfolding_all rfl)) :
    Keeps pm s0 (spinUp s) := by
  unfold spinUp
  try dsimp only
  repeat' first
    | with_reducible assumption
    | (with_reducible intro t; intros)
    | with_reducible refine foldl_keeps ?_ ?_
    | with_reducible refine startRamp_keeps ?_ 
    | with_reducible refine sendSpin_keeps ?_ 
    | with_reducible refine keeps_ite ?_ ?_
    | split
    | with_reducible refine Keeps.upd rfl rfl rfl rfl rfl rfl ?_

theorem changeSpeed_keeps {pm : Nat} {s0 : State} {s : State} (hk : Keeps pm s0 s) (hm : Sub 0x29 pm := by first | with_reducible assumption | (refine Sub.of ?_ (by with_reducible assumption); with_unfolding_all rfl)) :
    Keeps pm s0 (changeSpeed s) := by
  unfold changeSpeed
  try dsimp only
  repeat' first
    | with_reducible assumption
    | (with_reducible intro t; intros)
    | with_reducible refine foldl_keeps ?_ ?_
    | with_reducible refine takeSpeed_keeps ?_ 
    | with_reducible refine spinUp_keeps ?_ 
    | with_reducible refine keeps_ite ?_ ?_
    | split
    | with_reducible refine Keeps.upd rfl rfl rfl rfl rfl rfl ?_

theorem sendRetract_keeps {pm : Nat} {s0 : State} {k : LinkId} {ns : List ChanId} {s : State} (hk : Keeps pm s0 s) (hm : Sub 0x60 pm := by first | with_reducible assumption | (refine Sub.of ?_ (by with_reducible assumption); with_unfolding_all rfl)) :
    Keeps pm s0 (sendRetract k ns s) := by
  unfold sendRetract
  try dsimp only
  repeat' first
    | with_reducible assumption
    | (with_reducible intro t; intros)
    | with_reducible refine foldl_keeps ?_ ?_
    | with_reducible refine State.modChan_keeps ?_ 
    | with_reducible refine sendFrame_keeps ?_ 
    | with_reducible refine keeps_ite ?_ ?_
    | split
    | with_reducible refine Keeps.upd rfl rfl rfl rfl rfl rfl ?_

theorem sectorOver_keeps {pm : Nat} {s0 : State} {n : ChanId} {s : State} (hk : Keeps pm s0 s) (hm : Sub 0x40 pm := by first | with_reducible assumption | (refine Sub.of ?_ (by with_reducible assumption); with_unfolding_all rfl)) :
    Keeps pm s0 (sectorOver n s) := by
  unfold sectorOver
  try dsimp only
  repeat' first
    | with_reducible assumption
    | (with_reducible intro t; intros)
    | with_reducible refine foldl_keeps ?_ ?_
    | with_reducible refine State.modWr_keeps ?_ 
    | with_reducible refine keeps_ite ?_ ?_
    | split
    | with_reducible refine Keeps.upd rfl rfl rfl rfl rfl rfl ?_

theorem unplace_keeps {pm : Nat} {s0 : State} {n : ChanId} {s : State} (hk : Keeps pm s0 s) (hm : Sub 0x8000 pm := by first | with_reducible assumption | (refine Sub.of ?_ (by with_reducible assumption); with_unfolding_all rfl)) :
    Keeps pm s0 (unplace n s) := by
  unfold unplace
  try dsimp only
  repeat' first
    | with_reducible assumption
    | (with_reducible intro t; intros)
    | with_reducible refine foldl_keeps ?_ ?_
    | with_reducible refine keeps_ite ?_ ?_
    | split
    | with_reducible refine Keeps.upd rfl rfl rfl rfl rfl rfl ?_

theorem fileOp_keeps {pm : Nat} {s0 : State} {kind : OpKind} {k : BandKey} {off : ℕ} {cnt : ℕ} {created : ℕ} {s : State} (hk : Keeps pm s0 s) (hm : Sub 0x8000 pm := by first | with_reducible assumption | (refine Sub.of ?_ (by with_reducible assumption); with_unfolding_all rfl)) :
    Keeps pm s0 (fileOp kind k off cnt created s) := by
  unfold fileOp
  try dsimp only
  repeat' first
    | with_reducible assumption
    | (with_reducible intro t; intros)
    | with_reducible refine foldl_keeps ?_ ?_
    | with_reducible refine keeps_ite ?_ ?_
    | split
    | with_reducible refine Keeps.upd rfl rfl rfl rfl rfl rfl ?_

theorem endRun_keeps {pm : Nat} {s0 : State} {n : ChanId} {keepRest : Bool} {s : State} (hk : Keeps pm s0 s) (hm : Sub 0x28040 pm := by first | with_reducible assumption | (refine Sub.of ?_ (by with_reducible assumption); with_unfolding_all rfl)) :
    Keeps pm s0 (endRun n keepRest s) := by
  unfold endRun
  try dsimp only
  repeat' first
    | with_reducible assumption
    | (with_reducible intro t; intros)
    | with_reducible refine foldl_keeps ?_ ?_
    | with_reducible refine State.modWr_keeps ?_ 
    | with_reducible refine refile_keeps ?_ 
    | with_reducible refine modeFrame_keeps ?_ 
    | with_reducible refine settlePins_keeps ?_ 
    | with_reducible refine sectorOver_keeps ?_ 
    | with_reducible refine unplace_keeps ?_ 
    | with_reducible refine fileOp_keeps ?_ 
    | with_reducible refine keeps_ite ?_ ?_
    | split
    | with_reducible refine Keeps.upd rfl rfl rfl rfl rfl rfl ?_

theorem dropCalOps_keeps {pm : Nat} {s0 : State} {n : ChanId} {s : State} (hk : Keeps pm s0 s) (hm : Sub 0x28040 pm := by first | with_reducible assumption | (refine Sub.of ?_ (by with_reducible assumption); with_unfolding_all rfl)) :
    Keeps pm s0 (dropCalOps n s) := by
  unfold dropCalOps
  try dsimp only
  repeat' first
    | with_reducible assumption
    | (with_reducible intro t; intros)
    | with_reducible refine foldl_keeps ?_ ?_
    | with_reducible refine State.modRwc_keeps ?_ 
    | with_reducible refine unplace_keeps ?_ 
    | with_reducible refine endRun_keeps ?_ 
    | with_reducible refine keeps_ite ?_ ?_
    | split
    | with_reducible refine Keeps.upd rfl rfl rfl rfl rfl rfl ?_

theorem recordResult_keeps {pm : Nat} {s0 : State} {h : HeadId} {k : CalKind} {track : ℕ} {code : ℕ} {s : State} (hk : Keeps pm s0 s) (hm : Sub 0x1000200 pm := by first | with_reducible assumption | (refine Sub.of ?_ (by with_reducible assumption); with_unfolding_all rfl)) :
    Keeps pm s0 (recordResult h k track code s) := by
  unfold recordResult
  try dsimp only
  repeat' first
    | with_reducible assumption
    | (with_reducible intro t; intros)
    | with_reducible refine foldl_keeps ?_ ?_
    | with_reducible refine raise_keeps ?_ 
    | with_reducible refine modHeadCal_keeps ?_ 
    | with_reducible refine keeps_ite ?_ ?_
    | split
    | with_reducible refine Keeps.upd rfl rfl rfl rfl rfl rfl ?_

theorem breakRun_keeps {pm : Nat} {s0 : State} {code : ℕ} {n : ChanId} {s : State} (hk : Keeps pm s0 s) (hm : Sub 0x1028240 pm := by first | with_reducible assumption | (refine Sub.of ?_ (by with_reducible assumption); with_unfolding_all rfl)) :
    Keeps pm s0 (breakRun code n s) := by
  unfold breakRun
  try dsimp only
  repeat' first
    | with_reducible assumption
    | (with_reducible intro t; intros)
    | with_reducible refine foldl_keeps ?_ ?_
    | with_reducible refine dropCalOps_keeps ?_ 
    | with_reducible refine recordResult_keeps ?_ 
    | with_reducible refine keeps_ite ?_ ?_
    | split
    | with_reducible refine Keeps.upd rfl rfl rfl rfl rfl rfl ?_

theorem transientFault_keeps {pm : Nat} {s0 : State} {k : FaultKind} {unit : Option UnitId} {extra : ℕ} {s : State} (hk : Keeps pm s0 s) (hm : Sub 0x1040000 pm := by first | with_reducible assumption | (refine Sub.of ?_ (by with_reducible assumption); with_unfolding_all rfl)) :
    Keeps pm s0 (transientFault k unit extra s) := by
  unfold transientFault
  try dsimp only
  repeat' first
    | with_reducible assumption
    | (with_reducible intro t; intros)
    | with_reducible refine foldl_keeps ?_ ?_
    | with_reducible refine faultEvent_keeps ?_ 
    | with_reducible refine modFaultRec_keeps ?_ 
    | with_reducible refine keeps_ite ?_ ?_
    | split
    | with_reducible refine Keeps.upd rfl rfl rfl rfl rfl rfl ?_

theorem mapLines_keeps {pm : Nat} {s0 : State} {f : Line → Line} {s : State} (hk : Keeps pm s0 s) (hm : Sub 0x20000 pm := by first | with_reducible assumption | (refine Sub.of ?_ (by with_reducible assumption); with_unfolding_all rfl)) :
    Keeps pm s0 (mapLines f s) := by
  unfold mapLines
  try dsimp only
  repeat' first
    | with_reducible assumption
    | (with_reducible intro t; intros)
    | with_reducible refine foldl_keeps ?_ ?_
    | with_reducible refine keeps_ite ?_ ?_
    | split
    | with_reducible refine Keeps.upd rfl rfl rfl rfl rfl rfl ?_

theorem movedOff_keeps {pm : Nat} {s0 : State} {k : BandKey} {offs : List ℕ} {s : State} (hk : Keeps pm s0 s) (hm : Sub 0x2c000 pm := by first | with_reducible assumption | (refine Sub.of ?_ (by with_reducible assumption); with_unfolding_all rfl)) :
    Keeps pm s0 (movedOff k offs s) := by
  unfold movedOff
  try dsimp only
  repeat' first
    | with_reducible assumption
    | (with_reducible intro t; intros)
    | with_reducible refine foldl_keeps ?_ ?_
    | with_reducible refine modCtx_keeps ?_ 
    | with_reducible refine fileOp_keeps ?_ 
    | with_reducible refine mapLines_keeps ?_ 
    | with_reducible refine keeps_ite ?_ ?_
    | split
    | with_reducible refine Keeps.upd rfl rfl rfl rfl rfl rfl ?_

theorem modBand_keeps {pm : Nat} {s0 : State} {k : BandKey} {f : BandRec → BandRec} {s : State} (hk : Keeps pm s0 s) (hm : Sub 0x1000 pm := by first | with_reducible assumption | (refine Sub.of ?_ (by with_reducible assumption); with_unfolding_all rfl)) :
    Keeps pm s0 (modBand k f s) := by
  unfold modBand
  try dsimp only
  repeat' first
    | with_reducible assumption
    | (with_reducible intro t; intros)
    | with_reducible refine foldl_keeps ?_ ?_
    | with_reducible refine setBand_keeps ?_ 
    | with_reducible refine keeps_ite ?_ ?_
    | split
    | with_reducible refine Keeps.upd rfl rfl rfl rfl rfl rfl ?_

theorem relocate_keeps {pm : Nat} {s0 : State} {n : ChanId} {k : BandKey} {o : ℕ} {s : State} (hk : Keeps pm s0 s) (hm : Sub 0xad040 pm := by first | with_reducible assumption | (refine Sub.of ?_ (by with_reducible assumption); with_unfolding_all rfl)) :
    Keeps pm s0 (relocate n k o s).2 := by
  unfold relocate
  try dsimp only
  repeat' first
    | with_reducible assumption
    | (with_reducible intro t; intros)
    | with_reducible refine foldl_keeps ?_ ?_
    | with_reducible refine State.modWr_keeps ?_ 
    | with_reducible refine settlePins_keeps ?_ 
    | with_reducible refine setBand_keeps ?_ 
    | with_reducible refine movedOff_keeps ?_ 
    | with_reducible refine modBand_keeps ?_ 
    | with_reducible refine keeps_ite ?_ ?_
    | split
    | with_reducible refine Keeps.upd rfl rfl rfl rfl rfl rfl ?_
theorem relocate_keepsP {pm : Nat} {s0 : State} {n : ChanId} {k : BandKey} {o : ℕ} {s : State} (hk : Keeps pm s0 s) {ra} {rb : State} (e : (relocate n k o s) = (ra, rb)) (hm : Sub 0xad040 pm := by first | with_reducible assumption | (refine Sub.of ?_ (by with_reducible assumption); with_unfolding_all rfl)) :
    Keeps pm s0 rb := by
  have := relocate_keeps (s0 := s0) (n := n) (k := k) (o := o) (s := s) hk
  rw [e] at this
  exact this

theorem passOffset_keeps {pm : Nat} {s0 : State} {k : BandKey} {o : ℕ} {s : State} (hk : Keeps pm s0 s) (hm : Sub 0x1000 pm := by first | with_reducible assumption | (refine Sub.of ?_ (by with_reducible assumption); with_unfolding_all rfl)) :
    Keeps pm s0 (passOffset k o s) := by
  unfold passOffset
  try dsimp only
  repeat' first
    | with_reducible assumption
    | (with_reducible intro t; intros)
    | with_reducible refine foldl_keeps ?_ ?_
    | with_reducible refine modBand_keeps ?_ 
    | with_reducible refine keeps_ite ?_ ?_
    | split
    | with_reducible refine Keeps.upd rfl rfl rfl rfl rfl rfl ?_

theorem setZoneState_keeps {pm : Nat} {s0 : State} {k : BandKey} {z : ZoneState} {s : State} (hk : Keeps pm s0 s) (hm : Sub 0x1000 pm := by first | with_reducible assumption | (refine Sub.of ?_ (by with_reducible assumption); with_unfolding_all rfl)) :
    Keeps pm s0 (setZoneState k z s) := by
  unfold setZoneState
  try dsimp only
  repeat' first
    | with_reducible assumption
    | (with_reducible intro t; intros)
    | with_reducible refine foldl_keeps ?_ ?_
    | with_reducible refine setBand_keeps ?_ 
    | with_reducible refine keeps_ite ?_ ?_
    | split
    | with_reducible refine Keeps.upd rfl rfl rfl rfl rfl rfl ?_

theorem deferredAen_keeps {pm : Nat} {s0 : State} {hostx : ℕ} {s : State} (hk : Keeps pm s0 s) (hm : Sub 0xc00 pm := by first | with_reducible assumption | (refine Sub.of ?_ (by with_reducible assumption); with_unfolding_all rfl)) :
    Keeps pm s0 (deferredAen hostx s) := by
  unfold deferredAen
  try dsimp only
  repeat' first
    | with_reducible assumption
    | (with_reducible intro t; intros)
    | with_reducible refine foldl_keeps ?_ ?_
    | with_reducible refine State.modPort_keeps ?_ 
    | with_reducible refine keeps_ite ?_ ?_
    | split
    | with_reducible refine Keeps.upd rfl rfl rfl rfl rfl rfl ?_

theorem refreshAlert_keeps {pm : Nat} {s0 : State} {s : State} (hk : Keeps pm s0 s) (hm : Sub 0x800 pm := by first | with_reducible assumption | (refine Sub.of ?_ (by with_reducible assumption); with_unfolding_all rfl)) :
    Keeps pm s0 (refreshAlert s) := by
  unfold refreshAlert
  try dsimp only
  repeat' first
    | with_reducible assumption
    | (with_reducible intro t; intros)
    | with_reducible refine foldl_keeps ?_ ?_
    | with_reducible refine keeps_ite ?_ ?_
    | split
    | with_reducible refine Keeps.upd rfl rfl rfl rfl rfl rfl ?_

theorem setFlag_keeps {pm : Nat} {s0 : State} {f : Flag} {s : State} (hk : Keeps pm s0 s) (hm : Sub 0x800 pm := by first | with_reducible assumption | (refine Sub.of ?_ (by with_reducible assumption); with_unfolding_all rfl)) :
    Keeps pm s0 (setFlag f s) := by
  have msg : ∀ q : Port, hostSide (requestMsg q) = hostSide q := by
    intro q; unfold requestMsg; split <;> rfl
  have host : ∀ q : Port, hostSide (setPortFlag f q) = hostSide q := by
    intro q
    unfold setPortFlag withStatus
    dsimp only
    split
    · rw [msg]; rfl
    · rfl
  refine ⟨hk.1, fun w c => hk.2.1 w c, hk.2.2.1, keeps_parts hk.2.2.2 (fun p => ?_)⟩
  by_cases hp : p = .ports
  · subst hp
    refine .inr ?_
    show (upd (upd s.ports 0 _) 1 _).map hostSide = s.ports.map hostSide
    ext i hi
    have h2 : i = 0 ∨ i = 1 := by omega
    rcases h2 with rfl | rfl
    · simp [upd, host]
    · simp [upd, host]
  · cases p <;> first | exact absurd rfl hp | (refine Or.inl (Sub.has (by with_reducible assumption) ?_); with_unfolding_all rfl) | (refine Or.inr ?_; dsimp only [SamePart, recorded, arrived, setFlag, refreshAlert, State.modPorts, State.modPort]; done)

theorem logDeferred_keeps {pm : Nat} {s0 : State} {nsid : ℕ} {lba : ℕ} {count : ℕ} {cause : ℕ} {hostx : ℕ} {port : PortId} {s : State} (hk : Keeps pm s0 s) (hm : Sub 0x1002c00 pm := by first | with_reducible assumption | (refine Sub.of ?_ (by with_reducible assumption); with_unfolding_all rfl)) :
    Keeps pm s0 (logDeferred nsid lba count cause hostx port s) := by
  unfold logDeferred
  try dsimp only
  repeat' first
    | with_reducible assumption
    | (with_reducible intro t; intros)
    | with_reducible refine foldl_keeps ?_ ?_
    | with_reducible refine raise_keeps ?_ 
    | with_reducible refine deferredAen_keeps ?_ 
    | with_reducible refine setFlag_keeps ?_ 
    | with_reducible refine keeps_ite ?_ ?_
    | split
    | with_reducible refine Keeps.upd rfl rfl rfl rfl rfl rfl ?_

theorem noteWarningPort_keeps {pm : Nat} {s0 : State} {p : PortId} {s : State} (hk : Keeps pm s0 s) (hm : Sub 0xc00 pm := by first | with_reducible assumption | (refine Sub.of ?_ (by with_reducible assumption); with_unfolding_all rfl)) :
    Keeps pm s0 (noteWarningPort p s) := by
  unfold noteWarningPort
  try dsimp only
  repeat' first
    | with_reducible assumption
    | (with_reducible intro t; intros)
    | with_reducible refine foldl_keeps ?_ ?_
    | with_reducible refine State.modPort_keeps ?_ 
    | with_reducible refine keeps_ite ?_ ?_
    | split
    | with_reducible refine Keeps.upd rfl rfl rfl rfl rfl rfl ?_

theorem noteWarning_keeps {pm : Nat} {s0 : State} {s : State} (hk : Keeps pm s0 s) (hm : Sub 0xc00 pm := by first | with_reducible assumption | (refine Sub.of ?_ (by with_reducible assumption); with_unfolding_all rfl)) :
    Keeps pm s0 (noteWarning s) := by
  unfold noteWarning
  try dsimp only
  repeat' first
    | with_reducible assumption
    | (with_reducible intro t; intros)
    | with_reducible refine foldl_keeps ?_ ?_
    | with_reducible refine noteWarningPort_keeps ?_ 
    | with_reducible refine keeps_ite ?_ ?_
    | split
    | with_reducible refine Keeps.upd rfl rfl rfl rfl rfl rfl ?_

theorem markLost_keeps {pm : Nat} {s0 : State} {k : BandKey} {cause : ℕ} {l : List (ℕ × ℕ × PortId)} {s : State} (hk : Keeps pm s0 s) (hm : Sub 0x1083c00 pm := by first | with_reducible assumption | (refine Sub.of ?_ (by with_reducible assumption); with_unfolding_all rfl)) :
    Keeps pm s0 (markLost k cause l s) := by
  unfold markLost
  try dsimp only
  repeat' first
    | with_reducible assumption
    | (with_reducible intro t; intros)
    | with_reducible refine foldl_keeps ?_ ?_
    | with_reducible refine setBand_keeps ?_ 
    | with_reducible refine setZoneState_keeps ?_ 
    | with_reducible refine logDeferred_keeps ?_ 
    | with_reducible refine noteWarning_keeps ?_ 
    | with_reducible refine keeps_ite ?_ ?_
    | split
    | with_reducible refine Keeps.upd rfl rfl rfl rfl rfl rfl ?_

theorem loseLine_keeps {pm : Nat} {s0 : State} {k : BandKey} {o : ℕ} {cause : ℕ} {b : BlockKey} {s : State} (hk : Keeps pm s0 s) (hm : Sub 0x10a3c00 pm := by first | with_reducible assumption | (refine Sub.of ?_ (by with_reducible assumption); with_unfolding_all rfl)) :
    Keeps pm s0 (loseLine k o cause b s) := by
  unfold loseLine
  try dsimp only
  repeat' first
    | with_reducible assumption
    | (with_reducible intro t; intros)
    | with_reducible refine foldl_keeps ?_ ?_
    | with_reducible refine dropLines_keeps ?_ 
    | with_reducible refine modBand_keeps ?_ 
    | with_reducible refine markLost_keeps ?_ 
    | with_reducible refine keeps_ite ?_ ?_
    | split
    | with_reducible refine Keeps.upd rfl rfl rfl rfl rfl rfl ?_

theorem unplaceable_keeps {pm : Nat} {s0 : State} {op : MediaOp} {o : ℕ} {cause : ℕ} {st : Status} {s : State} (hk : Keeps pm s0 s) (hm : Sub 0x10afc40 pm := by first | with_reducible assumption | (refine Sub.of ?_ (by with_reducible assumption); with_unfolding_all rfl)) :
    Keeps pm s0 (unplaceable op o cause st s) := by
  unfold unplaceable
  try dsimp only
  repeat' first
    | with_reducible assumption
    | (with_reducible intro t; intros)
    | with_reducible refine foldl_keeps ?_ ?_
    | with_reducible refine endUnacked_keeps ?_ 
    | with_reducible refine loseLine_keeps ?_ 
    | with_reducible refine keeps_ite ?_ ?_
    | split
    | with_reducible refine Keeps.upd rfl rfl rfl rfl rfl rfl ?_

theorem placeElsewhere_keeps {pm : Nat} {s0 : State} {n : ChanId} {op : MediaOp} {o : ℕ} {s : State} (hk : Keeps pm s0 s) (hm : Sub 0x10afc40 pm := by first | with_reducible assumption | (refine Sub.of ?_ (by with_reducible assumption); with_unfolding_all rfl)) :
    Keeps pm s0 (placeElsewhere n op o s) := by
  unfold placeElsewhere
  try dsimp only
  repeat' first
    | with_reducible assumption
    | (with_reducible intro t; intros)
    | with_reducible refine foldl_keeps ?_ ?_
    | with_reducible refine relocate_keeps ?_ 
    | with_reducible refine relocate_keepsP ?_  (by assumption)
    | with_reducible refine passOffset_keeps ?_ 
    | with_reducible refine unplaceable_keeps ?_ 
    | with_reducible refine keeps_ite ?_ ?_
    | split
    | with_reducible refine Keeps.upd rfl rfl rfl rfl rfl rfl ?_

theorem setFaultsAt_keeps {pm : Nat} {s0 : State} {n : ChanId} {k : BandKey} {p : ℕ} {c : ℕ} {s : State} (hk : Keeps pm s0 s) (hm : Sub 0x40 pm := by first | with_reducible assumption | (refine Sub.of ?_ (by with_reducible assumption); with_unfolding_all rfl)) :
    Keeps pm s0 (setFaultsAt n k p c s) := by
  unfold setFaultsAt
  try dsimp only
  repeat' first
    | with_reducible assumption
    | (with_reducible intro t; intros)
    | with_reducible refine foldl_keeps ?_ ?_
    | with_reducible refine State.modWr_keeps ?_ 
    | with_reducible refine keeps_ite ?_ ?_
    | split
    | with_reducible refine Keeps.upd rfl rfl rfl rfl rfl rfl ?_

theorem abortSector_keeps {pm : Nat} {s0 : State} {fault : Bool} {n : ChanId} {s : State} (hk : Keeps pm s0 s) (hm : Sub 0x10efc40 pm := by first | with_reducible assumption | (refine Sub.of ?_ (by with_reducible assumption); with_unfolding_all rfl)) :
    Keeps pm s0 (abortSector fault n s) := by
  unfold abortSector
  try dsimp only
  repeat' first
    | with_reducible assumption
    | (with_reducible intro t; intros)
    | with_reducible refine foldl_keeps ?_ ?_
    | with_reducible refine State.modWr_keeps ?_ 
    | with_reducible refine sectorOver_keeps ?_ 
    | with_reducible refine transientFault_keeps ?_ 
    | with_reducible refine placeElsewhere_keeps ?_ 
    | with_reducible refine setFaultsAt_keeps ?_ 
    | with_reducible refine keeps_ite ?_ ?_
    | split
    | with_reducible refine Keeps.upd rfl rfl rfl rfl rfl rfl ?_

theorem stopRead_keeps {pm : Nat} {s0 : State} {n : ChanId} {s : State} (hk : Keeps pm s0 s) (hm : Sub 0x8040 pm := by first | with_reducible assumption | (refine Sub.of ?_ (by with_reducible assumption); with_unfolding_all rfl)) :
    Keeps pm s0 (stopRead n s) := by
  unfold stopRead
  try dsimp only
  repeat' first
    | with_reducible assumption
    | (with_reducible intro t; intros)
    | with_reducible refine foldl_keeps ?_ ?_
    | with_reducible refine State.modRwc_keeps ?_ 
    | with_reducible refine refile_keeps ?_ 
    | with_reducible refine unplace_keeps ?_ 
    | with_reducible refine keeps_ite ?_ ?_
    | split
    | with_reducible refine Keeps.upd rfl rfl rfl rfl rfl rfl ?_

theorem parkChannel_keeps {pm : Nat} {s0 : State} {n : ChanId} {s : State} (hk : Keeps pm s0 s) (hm : Sub 0x10efe40 pm := by first | with_reducible assumption | (refine Sub.of ?_ (by with_reducible assumption); with_unfolding_all rfl)) :
    Keeps pm s0 (parkChannel n s) := by
  unfold parkChannel
  try dsimp only
  repeat' first
    | with_reducible assumption
    | (with_reducible intro t; intros)
    | with_reducible refine foldl_keeps ?_ ?_
    | with_reducible refine State.modChan_keeps ?_ 
    | with_reducible refine refile_keeps ?_ 
    | with_reducible refine modeFrame_keeps ?_ 
    | with_reducible refine unplace_keeps ?_ 
    | with_reducible refine endRun_keeps ?_ 
    | with_reducible refine breakRun_keeps ?_ 
    | with_reducible refine abortSector_keeps ?_ 
    | with_reducible refine stopRead_keeps ?_ 
    | with_reducible refine keeps_ite ?_ ?_
    | split
    | with_reducible refine Keeps.upd rfl rfl rfl rfl rfl rfl ?_

theorem unloadChans_keeps {pm : Nat} {s0 : State} {ns : List ChanId} {s : State} (hk : Keeps pm s0 s) (hm : Sub 0x10efe60 pm := by first | with_reducible assumption | (refine Sub.of ?_ (by with_reducible assumption); with_unfolding_all rfl)) :
    Keeps pm s0 (unloadChans ns s) := by
  unfold unloadChans
  try dsimp only
  repeat' first
    | with_reducible assumption
    | (with_reducible intro t; intros)
    | with_reducible refine foldl_keeps ?_ ?_
    | with_reducible refine sendRetract_keeps ?_ 
    | with_reducible refine parkChannel_keeps ?_ 
    | with_reducible refine keeps_ite ?_ ?_
    | split
    | with_reducible refine Keeps.upd rfl rfl rfl rfl rfl rfl ?_

theorem unloadAll_keeps {pm : Nat} {s0 : State} {s : State} (hk : Keeps pm s0 s) (hm : Sub 0x50efe60 pm := by first | with_reducible assumption | (refine Sub.of ?_ (by with_reducible assumption); with_unfolding_all rfl)) :
    Keeps pm s0 (unloadAll s) := by
  unfold unloadAll
  try dsimp only
  repeat' first
    | with_reducible assumption
    | (with_reducible intro t; intros)
    | with_reducible refine foldl_keeps ?_ ?_
    | with_reducible refine unloadChans_keeps ?_ 
    | with_reducible refine keeps_ite ?_ ?_
    | split
    | with_reducible refine Keeps.upd rfl rfl rfl rfl rfl rfl ?_

theorem speedProgress_keeps {pm : Nat} {s0 : State} {s : State} (hk : Keeps pm s0 s) (hm : Sub 0x50efe69 pm := by first | with_reducible assumption | (refine Sub.of ?_ (by with_reducible assumption); with_unfolding_all rfl)) :
    Keeps pm s0 (speedProgress s) := by
  unfold speedProgress
  try dsimp only
  repeat' first
    | with_reducible assumption
    | (with_reducible intro t; intros)
    | with_reducible refine foldl_keeps ?_ ?_
    | with_reducible refine changeSpeed_keeps ?_ 
    | with_reducible refine unloadAll_keeps ?_ 
    | with_reducible refine keeps_ite ?_ ?_
    | split
    | with_reducible refine Keeps.upd rfl rfl rfl rfl rfl rfl ?_

theorem shutdownProgress_keeps {pm : Nat} {s0 : State} {s : State} (hk : Keeps pm s0 s) (hm : Sub 0x50efe60 pm := by first | with_reducible assumption | (refine Sub.of ?_ (by with_reducible assumption); with_unfolding_all rfl)) :
    Keeps pm s0 (shutdownProgress s) := by
  unfold shutdownProgress
  try dsimp only
  repeat' first
    | with_reducible assumption
    | (with_reducible intro t; intros)
    | with_reducible refine foldl_keeps ?_ ?_
    | with_reducible refine State.modPort_keeps ?_ 
    | with_reducible refine unloadAll_keeps ?_ 
    | with_reducible refine keeps_ite ?_ ?_
    | split
    | with_reducible refine Keeps.upd rfl rfl rfl rfl rfl rfl ?_

theorem enterPhase_keeps {pm : Nat} {s0 : State} {ph : Phase} {s : State} (hk : Keeps pm s0 s) (hm : Sub 0x1000801 pm := by first | with_reducible assumption | (refine Sub.of ?_ (by with_reducible assumption); with_unfolding_all rfl)) :
    Keeps pm s0 (enterPhase ph s) := by
  unfold enterPhase
  try dsimp only
  repeat' first
    | with_reducible assumption
    | (with_reducible intro t; intros)
    | with_reducible refine foldl_keeps ?_ ?_
    | with_reducible refine raise_keeps ?_ 
    | with_reducible refine setFlag_keeps ?_ 
    | with_reducible refine keeps_ite ?_ ?_
    | split
    | with_reducible refine Keeps.upd rfl rfl rfl rfl rfl rfl ?_

theorem thermalProgress_keeps {pm : Nat} {s0 : State} {s : State} (hk : Keeps pm s0 s) (hm : Sub 0x50efe61 pm := by first | with_reducible assumption | (refine Sub.of ?_ (by with_reducible assumption); with_unfolding_all rfl)) :
    Keeps pm s0 (thermalProgress s) := by
  unfold thermalProgress
  try dsimp only
  repeat' first
    | with_reducible assumption
    | (with_reducible intro t; intros)
    | with_reducible refine foldl_keeps ?_ ?_
    | with_reducible refine sendSpin_keeps ?_ 
    | with_reducible refine unloadAll_keeps ?_ 
    | with_reducible refine enterPhase_keeps ?_ 
    | with_reducible refine keeps_ite ?_ ?_
    | split
    | with_reducible refine Keeps.upd rfl rfl rfl rfl rfl rfl ?_

theorem destageFirst_keeps {pm : Nat} {s0 : State} {l : List BlockKey} {s : State} (hk : Keeps pm s0 s) (hm : Sub 0x20000 pm := by first | with_reducible assumption | (refine Sub.of ?_ (by with_reducible assumption); with_unfolding_all rfl)) :
    Keeps pm s0 (destageFirst l s) := by
  unfold destageFirst
  try dsimp only
  repeat' first
    | with_reducible assumption
    | (with_reducible intro t; intros)
    | with_reducible refine foldl_keeps ?_ ?_
    | with_reducible refine keeps_ite ?_ ?_
    | split
    | with_reducible refine Keeps.upd rfl rfl rfl rfl rfl rfl ?_

theorem standbyProgress_keeps {pm : Nat} {s0 : State} {s : State} (hk : Keeps pm s0 s) (hm : Sub 0x50efe61 pm := by first | with_reducible assumption | (refine Sub.of ?_ (by with_reducible assumption); with_unfolding_all rfl)) :
    Keeps pm s0 (standbyProgress s) := by
  unfold standbyProgress
  try dsimp only
  repeat' first
    | with_reducible assumption
    | (with_reducible intro t; intros)
    | with_reducible refine foldl_keeps ?_ ?_
    | with_reducible refine sendSpin_keeps ?_ 
    | with_reducible refine unloadAll_keeps ?_ 
    | with_reducible refine enterPhase_keeps ?_ 
    | with_reducible refine destageFirst_keeps ?_ 
    | with_reducible refine keeps_ite ?_ ?_
    | split
    | with_reducible refine Keeps.upd rfl rfl rfl rfl rfl rfl ?_

theorem freeSlots_keeps {pm : Nat} {s0 : State} {p : SideSlot → Bool} {s : State} (hk : Keeps pm s0 s) (hm : Sub 0x20000 pm := by first | with_reducible assumption | (refine Sub.of ?_ (by with_reducible assumption); with_unfolding_all rfl)) :
    Keeps pm s0 (freeSlots p s) := by
  unfold freeSlots
  try dsimp only
  repeat' first
    | with_reducible assumption
    | (with_reducible intro t; intros)
    | with_reducible refine foldl_keeps ?_ ?_
    | with_reducible refine keeps_ite ?_ ?_
    | split
    | with_reducible refine Keeps.upd rfl rfl rfl rfl rfl rfl ?_

theorem enterOff_keeps {pm : Nat} {s0 : State} {s : State} (hk : Keeps pm s0 s) (hm : Sub 0x20000 pm := by first | with_reducible assumption | (refine Sub.of ?_ (by with_reducible assumption); with_unfolding_all rfl)) :
    Keeps pm s0 (enterOff s) := by
  unfold enterOff
  try dsimp only
  repeat' first
    | with_reducible assumption
    | (with_reducible intro t; intros)
    | with_reducible refine foldl_keeps ?_ ?_
    | with_reducible refine dropLines_keeps ?_ 
    | with_reducible refine freeSlots_keeps ?_ 
    | with_reducible refine keeps_ite ?_ ?_
    | split
    | with_reducible refine Keeps.upd rfl rfl rfl rfl rfl rfl ?_

theorem endDraining_keeps {pm : Nat} {s0 : State} {s : State} (hk : Keeps pm s0 s) (hm : Sub 0x20000 pm := by first | with_reducible assumption | (refine Sub.of ?_ (by with_reducible assumption); with_unfolding_all rfl)) :
    Keeps pm s0 (endDraining s) := by
  unfold endDraining
  try dsimp only
  repeat' first
    | with_reducible assumption
    | (with_reducible intro t; intros)
    | with_reducible refine foldl_keeps ?_ ?_
    | with_reducible refine enterOff_keeps ?_ 
    | with_reducible refine keeps_ite ?_ ?_
    | split
    | with_reducible refine Keeps.upd rfl rfl rfl rfl rfl rfl ?_

theorem releaseEarly_keeps {pm : Nat} {s0 : State} {p : Pause} {s : State} (hk : Keeps pm s0 s) (hm : Sub 0x20000 pm := by first | with_reducible assumption | (refine Sub.of ?_ (by with_reducible assumption); with_unfolding_all rfl)) :
    Keeps pm s0 (releaseEarly p s) := by
  unfold releaseEarly
  try dsimp only
  repeat' first
    | with_reducible assumption
    | (with_reducible intro t; intros)
    | with_reducible refine foldl_keeps ?_ ?_
    | with_reducible refine mapLines_keeps ?_ 
    | with_reducible refine keeps_ite ?_ ?_
    | split
    | with_reducible refine Keeps.upd rfl rfl rfl rfl rfl rfl ?_

theorem fileSpans_keeps {pm : Nat} {s0 : State} {kind : OpKind} {nsid : ℕ} {lba : ℕ} {count : ℕ} {created : ℕ} {s : State} (hk : Keeps pm s0 s) (hm : Sub 0x8000 pm := by first | with_reducible assumption | (refine Sub.of ?_ (by with_reducible assumption); with_unfolding_all rfl)) :
    Keeps pm s0 (fileSpans kind nsid lba count created s) := by
  unfold fileSpans
  try dsimp only
  repeat' first
    | with_reducible assumption
    | (with_reducible intro t; intros)
    | with_reducible refine foldl_keeps ?_ ?_
    | with_reducible refine fileOp_keeps ?_ 
    | with_reducible refine keeps_ite ?_ ?_
    | split
    | with_reducible refine Keeps.upd rfl rfl rfl rfl rfl rfl ?_

theorem toMedia_keeps {pm : Nat} {s0 : State} {id : ℕ} {s : State} (hk : Keeps pm s0 s) (hm : Sub 0xc000 pm := by first | with_reducible assumption | (refine Sub.of ?_ (by with_reducible assumption); with_unfolding_all rfl)) :
    Keeps pm s0 (toMedia id s) := by
  unfold toMedia
  try dsimp only
  repeat' first
    | with_reducible assumption
    | (with_reducible intro t; intros)
    | with_reducible refine foldl_keeps ?_ ?_
    | with_reducible refine modCtx_keeps ?_ 
    | with_reducible refine fileSpans_keeps ?_ 
    | with_reducible refine keeps_ite ?_ ?_
    | split
    | with_reducible refine Keeps.upd rfl rfl rfl rfl rfl rfl ?_

theorem wantSupersede_keeps {pm : Nat} {s0 : State} {b : BlockKey} {id : ℕ} {s : State} (hk : Keeps pm s0 s) (hm : Sub 0x80000 pm := by first | with_reducible assumption | (refine Sub.of ?_ (by with_reducible assumption); with_unfolding_all rfl)) :
    Keeps pm s0 (wantSupersede b id s) := by
  unfold wantSupersede
  try dsimp only
  repeat' first
    | with_reducible assumption
    | (with_reducible intro t; intros)
    | with_reducible refine foldl_keeps ?_ ?_
    | with_reducible refine keeps_ite ?_ ?_
    | split
    | with_reducible refine Keeps.upd rfl rfl rfl rfl rfl rfl ?_

theorem pauseDestage_keeps {pm : Nat} {s0 : State} {q : ℕ} {s : State} (hk : Keeps pm s0 s) (hm : Sub 0x20000 pm := by first | with_reducible assumption | (refine Sub.of ?_ (by with_reducible assumption); with_unfolding_all rfl)) :
    Keeps pm s0 (pauseDestage q s) := by
  unfold pauseDestage
  try dsimp only
  repeat' first
    | with_reducible assumption
    | (with_reducible intro t; intros)
    | with_reducible refine foldl_keeps ?_ ?_
    | with_reducible refine destageFirst_keeps ?_ 
    | with_reducible refine keeps_ite ?_ ?_
    | split
    | with_reducible refine Keeps.upd rfl rfl rfl rfl rfl rfl ?_

theorem pauseWrite_keeps {pm : Nat} {s0 : State} {id : ℕ} {q : ℕ} {rest : List Block} {s : State} (hk : Keeps pm s0 s) (hm : Sub 0x24000 pm := by first | with_reducible assumption | (refine Sub.of ?_ (by with_reducible assumption); with_unfolding_all rfl)) :
    Keeps pm s0 (pauseWrite id q rest s) := by
  unfold pauseWrite
  try dsimp only
  repeat' first
    | with_reducible assumption
    | (with_reducible intro t; intros)
    | with_reducible refine foldl_keeps ?_ ?_
    | with_reducible refine modCtx_keeps ?_ 
    | with_reducible refine pauseDestage_keeps ?_ 
    | with_reducible refine keeps_ite ?_ ?_
    | split
    | with_reducible refine Keeps.upd rfl rfl rfl rfl rfl rfl ?_

theorem allocLine_keeps {pm : Nat} {s0 : State} {mk : Fin 16 → Line} {b : BlockKey} {s : State} (hk : Keeps pm s0 s) {rb : State} (e : allocLine mk b s = some rb) (hm : Sub 0x20000 pm := by first | with_reducible assumption | (refine Sub.of ?_ (by with_reducible assumption); with_unfolding_all rfl)) :
    Keeps pm s0 rb := by
  unfold allocLine at e
  obtain ⟨w, _, rfl⟩ := Option.map_eq_some_iff.mp e
  exact Keeps.upd rfl rfl rfl rfl rfl rfl (dropLines_keeps hk)

theorem receiveFrom_keeps {pm : Nat} {s0 : State} {id : Nat} {l : List Block} {s : State} (hk : Keeps pm s0 s) (hm : Sub 0xa4000 pm := by first | with_reducible assumption | (refine Sub.of ?_ (by with_reducible assumption); with_unfolding_all rfl)) :
    Keeps pm s0 (receiveFrom id l s) := by
  induction l generalizing s with
  | nil => exact modCtx_keeps hk
  | cons i rest ih =>
    unfold receiveFrom
    dsimp only
    repeat' first
    | with_reducible assumption
    | with_reducible refine ih ?_
    | with_reducible refine wantSupersede_keeps ?_
    | with_reducible refine pauseWrite_keeps ?_
    | with_reducible refine allocLine_keeps ?_ (by assumption)
    | split

theorem receiveData_keeps {pm : Nat} {s0 : State} {id : ℕ} {data : List Block} {s : State} (hk : Keeps pm s0 s) (hm : Sub 0xac000 pm := by first | with_reducible assumption | (refine Sub.of ?_ (by with_reducible assumption); with_unfolding_all rfl)) :
    Keeps pm s0 (receiveData id data s) := by
  unfold receiveData
  try dsimp only
  repeat' first
    | with_reducible assumption
    | (with_reducible intro t; intros)
    | with_reducible refine foldl_keeps ?_ ?_
    | with_reducible refine toMedia_keeps ?_ 
    | with_reducible refine receiveFrom_keeps ?_ 
    | with_reducible refine keeps_ite ?_ ?_
    | split
    | with_reducible refine Keeps.upd rfl rfl rfl rfl rfl rfl ?_

theorem servePause_keeps {pm : Nat} {s0 : State} {id : ℕ} {s : State} (hk : Keeps pm s0 s) (hm : Sub 0xac000 pm := by first | with_reducible assumption | (refine Sub.of ?_ (by with_reducible assumption); with_unfolding_all rfl)) :
    Keeps pm s0 (servePause id s) := by
  unfold servePause
  try dsimp only
  repeat' first
    | with_reducible assumption
    | (with_reducible intro t; intros)
    | with_reducible refine foldl_keeps ?_ ?_
    | with_reducible refine pauseDestage_keeps ?_ 
    | with_reducible refine receiveData_keeps ?_ 
    | with_reducible refine keeps_ite ?_ ?_
    | split
    | with_reducible refine Keeps.upd rfl rfl rfl rfl rfl rfl ?_

theorem servePauses_keeps {pm : Nat} {s0 : State} {s : State} (hk : Keeps pm s0 s) (hm : Sub 0xac000 pm := by first | with_reducible assumption | (refine Sub.of ?_ (by with_reducible assumption); with_unfolding_all rfl)) :
    Keeps pm s0 (servePauses s) := by
  unfold servePauses
  try dsimp only
  repeat' first
    | with_reducible assumption
    | (with_reducible intro t; intros)
    | with_reducible refine foldl_keeps ?_ ?_
    | with_reducible refine releaseEarly_keeps ?_ 
    | with_reducible refine servePause_keeps ?_ 
    | with_reducible refine keeps_ite ?_ ?_
    | split
    | with_reducible refine Keeps.upd rfl rfl rfl rfl rfl rfl ?_

end Sys2Proof.Machine
end

