-- ==== Sys2Proof/Laws/Frame03.lean ====
section
/-! SUPPORT. What each operation keeps (see Keeps), in the order in which operations call each other: modRegion to modReg. -/

set_option linter.unusedTactic false
set_option linter.unreachableTactic false
set_option Elab.async false

namespace Sys2Proof.Machine

theorem modRegion_keeps {pm : Nat} {s0 : State} {i : Fin 2} {f : Region → Region} {s : State} (hk : Keeps pm s0 s) (hm : Sub 0x80000 pm := by first | with_reducible assumption | (refine Sub.of ?_ (by with_reducible assumption); with_unfolding_all rfl)) :
    Keeps pm s0 (modRegion i f s) := by
  unfold modRegion
  try dsimp only
  repeat' first
    | with_reducible assumption
    | (with_reducible intro t; intros)
    | with_reducible refine foldl_keeps ?_ ?_
    | with_reducible refine keeps_ite ?_ ?_
    | split
    | with_reducible refine Keeps.upd rfl rfl rfl rfl rfl rfl ?_

theorem eraseRegion_keeps {pm : Nat} {s0 : State} {i : Fin 2} {s : State} (hk : Keeps pm s0 s) (hm : Sub 0x80000 pm := by first | with_reducible assumption | (refine Sub.of ?_ (by with_reducible assumption); with_unfolding_all rfl)) :
    Keeps pm s0 (eraseRegion i s) := by
  unfold eraseRegion
  try dsimp only
  repeat' first
    | with_reducible assumption
    | (with_reducible intro t; intros)
    | with_reducible refine foldl_keeps ?_ ?_
    | with_reducible refine modRegion_keeps ?_ 
    | with_reducible refine keeps_ite ?_ ?_
    | split
    | with_reducible refine Keeps.upd rfl rfl rfl rfl rfl rfl ?_

theorem releaseRegions_keeps {pm : Nat} {s0 : State} {s : State} (hk : Keeps pm s0 s) (hm : Sub 0x80000 pm := by first | with_reducible assumption | (refine Sub.of ?_ (by with_reducible assumption); with_unfolding_all rfl)) :
    Keeps pm s0 (releaseRegions s) := by
  unfold releaseRegions
  try dsimp only
  repeat' first
    | with_reducible assumption
    | (with_reducible intro t; intros)
    | with_reducible refine foldl_keeps ?_ ?_
    | with_reducible refine eraseRegion_keeps ?_ 
    | with_reducible refine keeps_ite ?_ ?_
    | split
    | with_reducible refine Keeps.upd rfl rfl rfl rfl rfl rfl ?_

theorem progress_keeps {pm : Nat} {s0 : State} {s : State} (hk : Keeps pm s0 s) (hm : Sub 0x50efe69 pm := by first | with_reducible assumption | (refine Sub.of ?_ (by with_reducible assumption); with_unfolding_all rfl)) :
    Keeps pm s0 (progress s) := by
  unfold progress
  try dsimp only
  repeat' first
    | with_reducible assumption
    | (with_reducible intro t; intros)
    | with_reducible refine foldl_keeps ?_ ?_
    | with_reducible refine kickDies_keeps ?_ 
    | with_reducible refine loadForWork_keeps ?_ 
    | with_reducible refine speedProgress_keeps ?_ 
    | with_reducible refine shutdownProgress_keeps ?_ 
    | with_reducible refine thermalProgress_keeps ?_ 
    | with_reducible refine standbyProgress_keeps ?_ 
    | with_reducible refine endDraining_keeps ?_ 
    | with_reducible refine servePauses_keeps ?_ 
    | with_reducible refine releaseRegions_keeps ?_ 
    | with_reducible refine keeps_ite ?_ ?_
    | split
    | with_reducible refine Keeps.upd rfl rfl rfl rfl rfl rfl ?_

theorem abortIo_keeps {pm : Nat} {s0 : State} {a : AdminHdr} {sqid : ℕ} {target : Word16} {s : State} (hk : Keeps pm s0 s) (hm : Sub 0x50efe69 pm := by first | with_reducible assumption | (refine Sub.of ?_ (by with_reducible assumption); with_unfolding_all rfl)) :
    Keeps pm s0 (abortIo a sqid target s) := by
  unfold abortIo
  try dsimp only
  repeat' first
    | with_reducible assumption
    | (with_reducible intro t; intros)
    | with_reducible refine foldl_keeps ?_ ?_
    | with_reducible refine State.modPort_keeps ?_ 
    | with_reducible refine adminDone_keeps ?_ 
    | with_reducible refine countAbort_keeps ?_ 
    | with_reducible refine endUnacked_keeps ?_ 
    | with_reducible refine progress_keeps ?_ 
    | with_reducible refine keeps_ite ?_ ?_
    | split
    | with_reducible refine Keeps.upd rfl rfl rfl rfl rfl rfl ?_

theorem modSlot_keeps {pm : Nat} {s0 : State} {i : Fin 2} {f : Slot → Slot} {s : State} (hk : Keeps pm s0 s) (hm : Sub 0x2000000 pm := by first | with_reducible assumption | (refine Sub.of ?_ (by with_reducible assumption); with_unfolding_all rfl)) :
    Keeps pm s0 (modSlot i f s) := by
  unfold modSlot
  try dsimp only
  repeat' first
    | with_reducible assumption
    | (with_reducible intro t; intros)
    | with_reducible refine foldl_keeps ?_ ?_
    | with_reducible refine keeps_ite ?_ ?_
    | split
    | with_reducible refine Keeps.upd rfl rfl rfl rfl rfl rfl ?_

theorem eraseBlock_keeps {pm : Nat} {s0 : State} {die : Fin 2} {plane : Fin 4} {b : ℕ} {s : State} (hk : Keeps pm s0 s) (hm : Sub 0x80000 pm := by first | with_reducible assumption | (refine Sub.of ?_ (by with_reducible assumption); with_unfolding_all rfl)) :
    Keeps pm s0 (eraseBlock die plane b s) := by
  unfold eraseBlock
  try dsimp only
  repeat' first
    | with_reducible assumption
    | (with_reducible intro t; intros)
    | with_reducible refine foldl_keeps ?_ ?_
    | with_reducible refine modDie_keeps ?_ 
    | with_reducible refine keeps_ite ?_ ?_
    | split
    | with_reducible refine Keeps.upd rfl rfl rfl rfl rfl rfl ?_

theorem storePage_keeps {pm : Nat} {s0 : State} {a : PageAddr} {p : NandPage} {s : State} (hk : Keeps pm s0 s) (hm : Sub 0x80000 pm := by first | with_reducible assumption | (refine Sub.of ?_ (by with_reducible assumption); with_unfolding_all rfl)) :
    Keeps pm s0 (storePage a p s) := by
  unfold storePage
  try dsimp only
  repeat' first
    | with_reducible assumption
    | (with_reducible intro t; intros)
    | with_reducible refine foldl_keeps ?_ ?_
    | with_reducible refine modDie_keeps ?_ 
    | with_reducible refine keeps_ite ?_ ?_
    | split
    | with_reducible refine Keeps.upd rfl rfl rfl rfl rfl rfl ?_

theorem updateSystem_keeps {pm : Nat} {s0 : State} {s : State} (hk : Keeps pm s0 s) (hm : Sub 0x80000 pm := by first | with_reducible assumption | (refine Sub.of ?_ (by with_reducible assumption); with_unfolding_all rfl)) :
    Keeps pm s0 (updateSystem s) := by
  unfold updateSystem
  try dsimp only
  repeat' first
    | with_reducible assumption
    | (with_reducible intro t; intros)
    | with_reducible refine foldl_keeps ?_ ?_
    | with_reducible refine clearErased_keeps ?_ 
    | with_reducible refine eraseBlock_keeps ?_ 
    | with_reducible refine storePage_keeps ?_ 
    | with_reducible refine keeps_ite ?_ ?_
    | split
    | with_reducible refine Keeps.upd rfl rfl rfl rfl rfl rfl ?_

theorem recordSlots_keeps {pm : Nat} {s0 : State} {before : Fw} {s : State} (hk : Keeps pm s0 s) (hm : Sub 0x80000 pm := by first | with_reducible assumption | (refine Sub.of ?_ (by with_reducible assumption); with_unfolding_all rfl)) :
    Keeps pm s0 (recordSlots before s) := by
  unfold recordSlots
  try dsimp only
  repeat' first
    | with_reducible assumption
    | (with_reducible intro t; intros)
    | with_reducible refine foldl_keeps ?_ ?_
    | with_reducible refine updateSystem_keeps ?_ 
    | with_reducible refine keeps_ite ?_ ?_
    | split
    | with_reducible refine Keeps.upd rfl rfl rfl rfl rfl rfl ?_

theorem eraseLamb_keeps {pm : Nat} {s0 : State} {s : State} (hk : Keeps pm s0 s) (hm : Sub 0x2080000 pm := by first | with_reducible assumption | (refine Sub.of ?_ (by with_reducible assumption); with_unfolding_all rfl)) :
    Keeps pm s0 (eraseLamb s) := by
  unfold eraseLamb
  try dsimp only
  repeat' first
    | with_reducible assumption
    | (with_reducible intro t; intros)
    | with_reducible refine foldl_keeps ?_ ?_
    | with_reducible refine kickDies_keeps ?_ 
    | with_reducible refine keeps_ite ?_ ?_
    | split
    | with_reducible refine Keeps.upd rfl rfl rfl rfl rfl rfl ?_

theorem releaseBinding_keeps {pm : Nat} {s0 : State} {cause : ℕ} {src : ℕ} {s : State} (hk : Keeps pm s0 s) (hm : Sub 0x3080000 pm := by first | with_reducible assumption | (refine Sub.of ?_ (by with_reducible assumption); with_unfolding_all rfl)) :
    Keeps pm s0 (releaseBinding cause src s) := by
  unfold releaseBinding
  try dsimp only
  repeat' first
    | with_reducible assumption
    | (with_reducible intro t; intros)
    | with_reducible refine foldl_keeps ?_ ?_
    | with_reducible refine raise_keeps ?_ 
    | with_reducible refine modSlot_keeps ?_ 
    | with_reducible refine recordSlots_keeps ?_ 
    | with_reducible refine eraseLamb_keeps ?_ 
    | with_reducible refine keeps_ite ?_ ?_
    | split
    | with_reducible refine Keeps.upd rfl rfl rfl rfl rfl rfl ?_

theorem abortStaging_keeps {pm : Nat} {s0 : State} {p : Path} {x : ℕ} {s : State} (hk : Keeps pm s0 s) (hm : Sub 0x3080000 pm := by first | with_reducible assumption | (refine Sub.of ?_ (by with_reducible assumption); with_unfolding_all rfl)) :
    Keeps pm s0 (abortStaging p x s) := by
  unfold abortStaging
  try dsimp only
  repeat' first
    | with_reducible assumption
    | (with_reducible intro t; intros)
    | with_reducible refine foldl_keeps ?_ ?_
    | with_reducible refine releaseBinding_keeps ?_ 
    | with_reducible refine keeps_ite ?_ ?_
    | split
    | with_reducible refine Keeps.upd rfl rfl rfl rfl rfl rfl ?_

theorem setTrend_keeps {pm : Nat} {s0 : State} {x : ZoneTrend} {s : State} (hk : Keeps pm s0 s) (hm : Sub 0x200 pm := by first | with_reducible assumption | (refine Sub.of ?_ (by with_reducible assumption); with_unfolding_all rfl)) :
    Keeps pm s0 (setTrend x s) := by
  unfold setTrend
  try dsimp only
  repeat' first
    | with_reducible assumption
    | (with_reducible intro t; intros)
    | with_reducible refine foldl_keeps ?_ ?_
    | with_reducible refine keeps_ite ?_ ?_
    | split
    | with_reducible refine Keeps.upd rfl rfl rfl rfl rfl rfl ?_

theorem requestCal_keeps {pm : Nat} {s0 : State} {r : CalReq} {s : State} (hk : Keeps pm s0 s) (hm : Sub 0x200 pm := by first | with_reducible assumption | (refine Sub.of ?_ (by with_reducible assumption); with_unfolding_all rfl)) :
    Keeps pm s0 (requestCal r s) := by
  unfold requestCal
  try dsimp only
  repeat' first
    | with_reducible assumption
    | (with_reducible intro t; intros)
    | with_reducible refine foldl_keeps ?_ ?_
    | with_reducible refine keeps_ite ?_ ?_
    | split
    | with_reducible refine Keeps.upd rfl rfl rfl rfl rfl rfl ?_

theorem acceptResult_keeps {pm : Nat} {s0 : State} {x : CalStaged} {s : State} (hk : Keeps pm s0 s) (hm : Sub 0x1000200 pm := by first | with_reducible assumption | (refine Sub.of ?_ (by with_reducible assumption); with_unfolding_all rfl)) :
    Keeps pm s0 (acceptResult x s) := by
  unfold acceptResult
  try dsimp only
  repeat' first
    | with_reducible assumption
    | (with_reducible intro t; intros)
    | with_reducible refine foldl_keeps ?_ ?_
    | with_reducible refine modHeadCal_keeps ?_ 
    | with_reducible refine recordResult_keeps ?_ 
    | with_reducible refine setTrend_keeps ?_ 
    | with_reducible refine requestCal_keeps ?_ 
    | with_reducible refine keeps_ite ?_ ?_
    | split
    | with_reducible refine Keeps.upd rfl rfl rfl rfl rfl rfl ?_

theorem emptyBand_keeps {pm : Nat} {s0 : State} {k : BandKey} {s : State} (hk : Keeps pm s0 s) (hm : Sub 0x1001000 pm := by first | with_reducible assumption | (refine Sub.of ?_ (by with_reducible assumption); with_unfolding_all rfl)) :
    Keeps pm s0 (emptyBand k s) := by
  unfold emptyBand
  try dsimp only
  repeat' first
    | with_reducible assumption
    | (with_reducible intro t; intros)
    | with_reducible refine foldl_keeps ?_ ?_
    | with_reducible refine faultEvent_keeps ?_ 
    | with_reducible refine setBand_keeps ?_ 
    | with_reducible refine keeps_ite ?_ ?_
    | split
    | with_reducible refine Keeps.upd rfl rfl rfl rfl rfl rfl ?_

theorem dropExcursion_keeps {pm : Nat} {s0 : State} {k : BandKey} {s : State} (hk : Keeps pm s0 s) (hm : Sub 0x40 pm := by first | with_reducible assumption | (refine Sub.of ?_ (by with_reducible assumption); with_unfolding_all rfl)) :
    Keeps pm s0 (dropExcursion k s) := by
  unfold dropExcursion
  try dsimp only
  repeat' first
    | with_reducible assumption
    | (with_reducible intro t; intros)
    | with_reducible refine foldl_keeps ?_ ?_
    | with_reducible refine State.modWr_keeps ?_ 
    | with_reducible refine keeps_ite ?_ ?_
    | split
    | with_reducible refine Keeps.upd rfl rfl rfl rfl rfl rfl ?_

theorem dropDestage_keeps {pm : Nat} {s0 : State} {k : BandKey} {s : State} (hk : Keeps pm s0 s) (hm : Sub 0x28040 pm := by first | with_reducible assumption | (refine Sub.of ?_ (by with_reducible assumption); with_unfolding_all rfl)) :
    Keeps pm s0 (dropDestage k s) := by
  unfold dropDestage
  try dsimp only
  repeat' first
    | with_reducible assumption
    | (with_reducible intro t; intros)
    | with_reducible refine foldl_keeps ?_ ?_
    | with_reducible refine withdrawOps_keeps ?_ 
    | with_reducible refine endRun_keeps ?_ 
    | with_reducible refine keeps_ite ?_ ?_
    | split
    | with_reducible refine Keeps.upd rfl rfl rfl rfl rfl rfl ?_

theorem maintain_keeps {pm : Nat} {s0 : State} {nsid : ℕ} {lba : ℕ} {count : ℕ} {s : State} (hk : Keeps pm s0 s) (hm : Sub 0x20000 pm := by first | with_reducible assumption | (refine Sub.of ?_ (by with_reducible assumption); with_unfolding_all rfl)) :
    Keeps pm s0 (maintain nsid lba count s) := by
  unfold maintain
  try dsimp only
  repeat' first
    | with_reducible assumption
    | (with_reducible intro t; intros)
    | with_reducible refine foldl_keeps ?_ ?_
    | with_reducible refine dropLines_keeps ?_ 
    | with_reducible refine freeSlots_keeps ?_ 
    | with_reducible refine keeps_ite ?_ ?_
    | split
    | with_reducible refine Keeps.upd rfl rfl rfl rfl rfl rfl ?_

theorem maintainBand_keeps {pm : Nat} {s0 : State} {k : BandKey} {s : State} (hk : Keeps pm s0 s) (hm : Sub 0x20000 pm := by first | with_reducible assumption | (refine Sub.of ?_ (by with_reducible assumption); with_unfolding_all rfl)) :
    Keeps pm s0 (maintainBand k s) := by
  unfold maintainBand
  try dsimp only
  repeat' first
    | with_reducible assumption
    | (with_reducible intro t; intros)
    | with_reducible refine foldl_keeps ?_ ?_
    | with_reducible refine maintain_keeps ?_ 
    | with_reducible refine keeps_ite ?_ ?_
    | split
    | with_reducible refine Keeps.upd rfl rfl rfl rfl rfl rfl ?_

theorem zoneOrdering_keeps {pm : Nat} {s0 : State} {k : BandKey} {s : State} (hk : Keeps pm s0 s) (hm : Sub 0x28040 pm := by first | with_reducible assumption | (refine Sub.of ?_ (by with_reducible assumption); with_unfolding_all rfl)) :
    Keeps pm s0 (zoneOrdering k s) := by
  unfold zoneOrdering
  try dsimp only
  repeat' first
    | with_reducible assumption
    | (with_reducible intro t; intros)
    | with_reducible refine foldl_keeps ?_ ?_
    | with_reducible refine dropExcursion_keeps ?_ 
    | with_reducible refine dropDestage_keeps ?_ 
    | with_reducible refine maintainBand_keeps ?_ 
    | with_reducible refine keeps_ite ?_ ?_
    | split
    | with_reducible refine Keeps.upd rfl rfl rfl rfl rfl rfl ?_

theorem actOn_keeps {pm : Nat} {s0 : State} {op : IoOp} {done : Bool} {k : BandKey} {s : State} (hk : Keeps pm s0 s) (hm : Sub 0x1029040 pm := by first | with_reducible assumption | (refine Sub.of ?_ (by with_reducible assumption); with_unfolding_all rfl)) :
    Keeps pm s0 (actOn op done k s) := by
  unfold actOn
  try dsimp only
  repeat' first
    | with_reducible assumption
    | (with_reducible intro t; intros)
    | with_reducible refine foldl_keeps ?_ ?_
    | with_reducible refine setZoneState_keeps ?_ 
    | with_reducible refine emptyBand_keeps ?_ 
    | with_reducible refine zoneOrdering_keeps ?_ 
    | with_reducible refine keeps_ite ?_ ?_
    | split
    | with_reducible refine Keeps.upd rfl rfl rfl rfl rfl rfl ?_

theorem relayout_keeps {pm : Nat} {s0 : State} {old : ℕ} {s : State} (hk : Keeps pm s0 s) (hm : Sub 0x1100000 pm := by first | with_reducible assumption | (refine Sub.of ?_ (by with_reducible assumption); with_unfolding_all rfl)) :
    Keeps pm s0 (relayout old s) := by
  unfold relayout
  try dsimp only
  repeat' first
    | with_reducible assumption
    | (with_reducible intro t; intros)
    | with_reducible refine foldl_keeps ?_ ?_
    | with_reducible refine raise_keeps ?_ 
    | with_reducible refine keeps_ite ?_ ?_
    | split
    | with_reducible refine Keeps.upd rfl rfl rfl rfl rfl rfl ?_

theorem activatePending_keeps {pm : Nat} {s0 : State} {s : State} (hk : Keeps pm s0 s) (hm : Sub 0x3180000 pm := by first | with_reducible assumption | (refine Sub.of ?_ (by with_reducible assumption); with_unfolding_all rfl)) :
    Keeps pm s0 (activatePending s) := by
  unfold activatePending
  try dsimp only
  repeat' first
    | with_reducible assumption
    | (with_reducible intro t; intros)
    | with_reducible refine foldl_keeps ?_ ?_
    | with_reducible refine raise_keeps ?_ 
    | with_reducible refine updateSystem_keeps ?_ 
    | with_reducible refine relayout_keeps ?_ 
    | with_reducible refine keeps_ite ?_ ?_
    | split
    | with_reducible refine Keeps.upd rfl rfl rfl rfl rfl rfl ?_

theorem discardStaging_keeps {pm : Nat} {s0 : State} {cause : ℕ} {src : ℕ} {s : State} (hk : Keeps pm s0 s) (hm : Sub 0x1200000 pm := by first | with_reducible assumption | (refine Sub.of ?_ (by with_reducible assumption); with_unfolding_all rfl)) :
    Keeps pm s0 (discardStaging cause src s) := by
  unfold discardStaging
  try dsimp only
  repeat' first
    | with_reducible assumption
    | (with_reducible intro t; intros)
    | with_reducible refine foldl_keeps ?_ ?_
    | with_reducible refine raise_keeps ?_ 
    | with_reducible refine keeps_ite ?_ ?_
    | split
    | with_reducible refine Keeps.upd rfl rfl rfl rfl rfl rfl ?_

theorem wantDiscard_keeps {pm : Nat} {s0 : State} {cause : ℕ} {src : ℕ} {s : State} (hk : Keeps pm s0 s) (hm : Sub 0x1200000 pm := by first | with_reducible assumption | (refine Sub.of ?_ (by with_reducible assumption); with_unfolding_all rfl)) :
    Keeps pm s0 (wantDiscard cause src s) := by
  unfold wantDiscard
  try dsimp only
  repeat' first
    | with_reducible assumption
    | (with_reducible intro t; intros)
    | with_reducible refine foldl_keeps ?_ ?_
    | with_reducible refine discardStaging_keeps ?_ 
    | with_reducible refine keeps_ite ?_ ?_
    | split
    | with_reducible refine Keeps.upd rfl rfl rfl rfl rfl rfl ?_

theorem stopSync_keeps {pm : Nat} {s0 : State} {s : State} (hk : Keeps pm s0 s) (hm : Sub 0x1000200 pm := by first | with_reducible assumption | (refine Sub.of ?_ (by with_reducible assumption); with_unfolding_all rfl)) :
    Keeps pm s0 (stopSync s) := by
  unfold stopSync
  try dsimp only
  repeat' first
    | with_reducible assumption
    | (with_reducible intro t; intros)
    | with_reducible refine foldl_keeps ?_ ?_
    | with_reducible refine recordResult_keeps ?_ 
    | with_reducible refine keeps_ite ?_ ?_
    | split
    | with_reducible refine Keeps.upd rfl rfl rfl rfl rfl rfl ?_

theorem stopEq_keeps {pm : Nat} {s0 : State} {e : EqRun} {s : State} (hk : Keeps pm s0 s) (hm : Sub 0x1000200 pm := by first | with_reducible assumption | (refine Sub.of ?_ (by with_reducible assumption); with_unfolding_all rfl)) :
    Keeps pm s0 (stopEq e s) := by
  unfold stopEq
  try dsimp only
  repeat' first
    | with_reducible assumption
    | (with_reducible intro t; intros)
    | with_reducible refine foldl_keeps ?_ ?_
    | with_reducible refine recordResult_keeps ?_ 
    | with_reducible refine keeps_ite ?_ ?_
    | split
    | with_reducible refine Keeps.upd rfl rfl rfl rfl rfl rfl ?_

theorem stopEqs_keeps {pm : Nat} {s0 : State} {p : HeadId → Bool} {s : State} (hk : Keeps pm s0 s) (hm : Sub 0x1000200 pm := by first | with_reducible assumption | (refine Sub.of ?_ (by with_reducible assumption); with_unfolding_all rfl)) :
    Keeps pm s0 (stopEqs p s) := by
  unfold stopEqs
  try dsimp only
  repeat' first
    | with_reducible assumption
    | (with_reducible intro t; intros)
    | with_reducible refine foldl_keeps ?_ ?_
    | with_reducible refine stopEq_keeps ?_ 
    | with_reducible refine keeps_ite ?_ ?_
    | split
    | with_reducible refine Keeps.upd rfl rfl rfl rfl rfl rfl ?_

theorem stopRun_keeps {pm : Nat} {s0 : State} {n : ChanId} {s : State} (hk : Keeps pm s0 s) (hm : Sub 0x1028240 pm := by first | with_reducible assumption | (refine Sub.of ?_ (by with_reducible assumption); with_unfolding_all rfl)) :
    Keeps pm s0 (stopRun n s) := by
  unfold stopRun
  try dsimp only
  repeat' first
    | with_reducible assumption
    | (with_reducible intro t; intros)
    | with_reducible refine foldl_keeps ?_ ?_
    | with_reducible refine breakRun_keeps ?_ 
    | with_reducible refine keeps_ite ?_ ?_
    | split
    | with_reducible refine Keeps.upd rfl rfl rfl rfl rfl rfl ?_

theorem stopRuns_keeps {pm : Nat} {s0 : State} {s : State} (hk : Keeps pm s0 s) (hm : Sub 0x1028240 pm := by first | with_reducible assumption | (refine Sub.of ?_ (by with_reducible assumption); with_unfolding_all rfl)) :
    Keeps pm s0 (stopRuns s) := by
  unfold stopRuns
  try dsimp only
  repeat' first
    | with_reducible assumption
    | (with_reducible intro t; intros)
    | with_reducible refine foldl_keeps ?_ ?_
    | with_reducible refine stopSync_keeps ?_ 
    | with_reducible refine stopEqs_keeps ?_ 
    | with_reducible refine stopRun_keeps ?_ 
    | with_reducible refine keeps_ite ?_ ?_
    | split
    | with_reducible refine Keeps.upd rfl rfl rfl rfl rfl rfl ?_

theorem activationDiscards_keeps {pm : Nat} {s0 : State} {s : State} (hk : Keeps pm s0 s) (hm : Sub 0x3228240 pm := by first | with_reducible assumption | (refine Sub.of ?_ (by with_reducible assumption); with_unfolding_all rfl)) :
    Keeps pm s0 (activationDiscards s) := by
  unfold activationDiscards
  try dsimp only
  repeat' first
    | with_reducible assumption
    | (with_reducible intro t; intros)
    | with_reducible refine foldl_keeps ?_ ?_
    | with_reducible refine wantDiscard_keeps ?_ 
    | with_reducible refine stopRuns_keeps ?_ 
    | with_reducible refine keeps_ite ?_ ?_
    | split
    | with_reducible refine Keeps.upd rfl rfl rfl rfl rfl rfl ?_

theorem activationStarting_keeps {pm : Nat} {s0 : State} {s : State} (hk : Keeps pm s0 s) (hm : Sub 0xc00 pm := by first | with_reducible assumption | (refine Sub.of ?_ (by with_reducible assumption); with_unfolding_all rfl)) :
    Keeps pm s0 (activationStarting s) := by
  unfold activationStarting
  try dsimp only
  repeat' first
    | with_reducible assumption
    | (with_reducible intro t; intros)
    | with_reducible refine foldl_keeps ?_ ?_
    | with_reducible refine State.modPorts_keeps ?_ 
    | with_reducible refine keeps_ite ?_ ?_
    | split
    | with_reducible refine Keeps.upd rfl rfl rfl rfl rfl rfl ?_

theorem cmdRefused_keeps {pm : Nat} {s0 : State} {p : PortId} {opcode : ℕ} {io : ℕ} {nsid : ℕ} {cdw10 : ℕ} {st : Status} {s : State} (hk : Keeps pm s0 s) (hm : Sub 0x1000000 pm := by first | with_reducible assumption | (refine Sub.of ?_ (by with_reducible assumption); with_unfolding_all rfl)) :
    Keeps pm s0 (cmdRefused p opcode io nsid cdw10 st s) := by
  unfold cmdRefused
  try dsimp only
  repeat' first
    | with_reducible assumption
    | (with_reducible intro t; intros)
    | with_reducible refine foldl_keeps ?_ ?_
    | with_reducible refine raise_keeps ?_ 
    | with_reducible refine keeps_ite ?_ ?_
    | split
    | with_reducible refine Keeps.upd rfl rfl rfl rfl rfl rfl ?_

theorem adminRefused_keeps {pm : Nat} {s0 : State} {a : AdminHdr} {opcode : ℕ} {nsid : ℕ} {cdw10 : ℕ} {st : Status} {s : State} (hk : Keeps pm s0 s) (hm : Sub 0x1002c00 pm := by first | with_reducible assumption | (refine Sub.of ?_ (by with_reducible assumption); with_unfolding_all rfl)) :
    Keeps pm s0 (adminRefused a opcode nsid cdw10 st s) := by
  unfold adminRefused
  try dsimp only
  repeat' first
    | with_reducible assumption
    | (with_reducible intro t; intros)
    | with_reducible refine foldl_keeps ?_ ?_
    | with_reducible refine adminDone_keeps ?_ 
    | with_reducible refine cmdRefused_keeps ?_ 
    | with_reducible refine keeps_ite ?_ ?_
    | split
    | with_reducible refine Keeps.upd rfl rfl rfl rfl rfl rfl ?_

theorem adminAnswer_keeps {pm : Nat} {s0 : State} {a : AdminHdr} {opcode : ℕ} {nsid : ℕ} {cdw10 : ℕ} {r : Except Status (ℕ × CplData)} {s : State} (hk : Keeps pm s0 s) (hm : Sub 0x1002c00 pm := by first | with_reducible assumption | (refine Sub.of ?_ (by with_reducible assumption); with_unfolding_all rfl)) :
    Keeps pm s0 (adminAnswer a opcode nsid cdw10 r s) := by
  unfold adminAnswer
  try dsimp only
  repeat' first
    | with_reducible assumption
    | (with_reducible intro t; intros)
    | with_reducible refine foldl_keeps ?_ ?_
    | with_reducible refine adminDone_keeps ?_ 
    | with_reducible refine adminRefused_keeps ?_ 
    | with_reducible refine keeps_ite ?_ ?_
    | split
    | with_reducible refine Keeps.upd rfl rfl rfl rfl rfl rfl ?_

theorem adminExec_keeps {pm : Nat} {s0 : State} {a : AdminHdr} {inRecovery : Bool} {f : State → State} {s : State} (hk : Keeps pm s0 s) (h_f : ∀ (t : State), Keeps pm s0 t → Keeps pm s0 (f t)) (hm : Sub 0x2c00 pm := by first | with_reducible assumption | (refine Sub.of ?_ (by with_reducible assumption); with_unfolding_all rfl)) :
    Keeps pm s0 (adminExec a inRecovery f s) := by
  unfold adminExec
  try dsimp only
  repeat' first
    | with_reducible assumption
    | (with_reducible intro t; intros)
    | with_reducible refine foldl_keeps ?_ ?_
    | with_reducible refine adminDone_keeps ?_ 
    | with_reducible refine h_f _ ?_
    | with_reducible refine keeps_ite ?_ ?_
    | split
    | with_reducible refine Keeps.upd rfl rfl rfl rfl rfl rfl ?_

theorem adminNotReady_keeps {pm : Nat} {s0 : State} {a : AdminHdr} {opcode : ℕ} {nsid : ℕ} {cdw10 : ℕ} {s : State} (hk : Keeps pm s0 s) (hm : Sub 0x1002c00 pm := by first | with_reducible assumption | (refine Sub.of ?_ (by with_reducible assumption); with_unfolding_all rfl)) :
    Keeps pm s0 (adminNotReady a opcode nsid cdw10 s) := by
  unfold adminNotReady
  try dsimp only
  repeat' first
    | with_reducible assumption
    | (with_reducible intro t; intros)
    | with_reducible refine foldl_keeps ?_ ?_
    | with_reducible refine commitCompletion_keeps ?_ 
    | with_reducible refine cmdRefused_keeps ?_ 
    | with_reducible refine keeps_ite ?_ ?_
    | split
    | with_reducible refine Keeps.upd rfl rfl rfl rfl rfl rfl ?_

theorem adminUnless_keeps {pm : Nat} {s0 : State} {a : AdminHdr} {opcode : ℕ} {nsid : ℕ} {cdw10 : ℕ} {st : Option Status} {f : State → State} {s : State} (hk : Keeps pm s0 s) (h_f : ∀ (t : State), Keeps pm s0 t → Keeps pm s0 (f t)) (hm : Sub 0x1002c00 pm := by first | with_reducible assumption | (refine Sub.of ?_ (by with_reducible assumption); with_unfolding_all rfl)) :
    Keeps pm s0 (adminUnless a opcode nsid cdw10 st f s) := by
  unfold adminUnless
  try dsimp only
  repeat' first
    | with_reducible assumption
    | (with_reducible intro t; intros)
    | with_reducible refine foldl_keeps ?_ ?_
    | with_reducible refine adminDone_keeps ?_ 
    | with_reducible refine adminRefused_keeps ?_ 
    | with_reducible refine h_f _ ?_
    | with_reducible refine keeps_ite ?_ ?_
    | split
    | with_reducible refine Keeps.upd rfl rfl rfl rfl rfl rfl ?_

theorem takeEntry_keeps {pm : Nat} {s0 : State} {p : PortId} {x : Sq} {s : State} (hk : Keeps pm s0 s) (hm : Sub 0xc00 pm := by first | with_reducible assumption | (refine Sub.of ?_ (by with_reducible assumption); with_unfolding_all rfl)) :
    Keeps pm s0 (takeEntry p x s) := by
  unfold takeEntry
  try dsimp only
  repeat' first
    | with_reducible assumption
    | (with_reducible intro t; intros)
    | with_reducible refine foldl_keeps ?_ ?_
    | with_reducible refine State.modPort_keeps ?_ 
    | with_reducible refine keeps_ite ?_ ?_
    | split
    | with_reducible refine Keeps.upd rfl rfl rfl rfl rfl rfl ?_

theorem modeAtBoundary_keeps {pm : Nat} {s0 : State} {s : State} (hk : Keeps pm s0 s) (hm : Sub 0x20000 pm := by first | with_reducible assumption | (refine Sub.of ?_ (by with_reducible assumption); with_unfolding_all rfl)) :
    Keeps pm s0 (modeAtBoundary s) := by
  unfold modeAtBoundary
  try dsimp only
  repeat' first
    | with_reducible assumption
    | (with_reducible intro t; intros)
    | with_reducible refine foldl_keeps ?_ ?_
    | with_reducible refine keeps_ite ?_ ?_
    | split
    | with_reducible refine Keeps.upd rfl rfl rfl rfl rfl rfl ?_

theorem restartFromSpinWait_keeps {pm : Nat} {s0 : State} {s : State} (hk : Keeps pm s0 s) (hm : Sub 0x1020801 pm := by first | with_reducible assumption | (refine Sub.of ?_ (by with_reducible assumption); with_unfolding_all rfl)) :
    Keeps pm s0 (restartFromSpinWait s) := by
  unfold restartFromSpinWait
  try dsimp only
  repeat' first
    | with_reducible assumption
    | (with_reducible intro t; intros)
    | with_reducible refine foldl_keeps ?_ ?_
    | with_reducible refine enterPhase_keeps ?_ 
    | with_reducible refine modeAtBoundary_keeps ?_ 
    | with_reducible refine keeps_ite ?_ ?_
    | split
    | with_reducible refine Keeps.upd rfl rfl rfl rfl rfl rfl ?_

theorem powerStates_keeps {pm : Nat} {s0 : State} {s : State} (hk : Keeps pm s0 s) (hm : Sub 0x50efe61 pm := by first | with_reducible assumption | (refine Sub.of ?_ (by with_reducible assumption); with_unfolding_all rfl)) :
    Keeps pm s0 (powerStates s) := by
  unfold powerStates
  try dsimp only
  repeat' first
    | with_reducible assumption
    | (with_reducible intro t; intros)
    | with_reducible refine foldl_keeps ?_ ?_
    | with_reducible refine standbyProgress_keeps ?_ 
    | with_reducible refine restartFromSpinWait_keeps ?_ 
    | with_reducible refine keeps_ite ?_ ?_
    | split
    | with_reducible refine Keeps.upd rfl rfl rfl rfl rfl rfl ?_

theorem wakeFor_keeps {pm : Nat} {s0 : State} {p : PortId} {s : State} (hk : Keeps pm s0 s) (hm : Sub 0x50efe61 pm := by first | with_reducible assumption | (refine Sub.of ?_ (by with_reducible assumption); with_unfolding_all rfl)) :
    Keeps pm s0 (wakeFor p s) := by
  unfold wakeFor
  try dsimp only
  repeat' first
    | with_reducible assumption
    | (with_reducible intro t; intros)
    | with_reducible refine foldl_keeps ?_ ?_
    | with_reducible refine State.modPort_keeps ?_ 
    | with_reducible refine powerStates_keeps ?_ 
    | with_reducible refine keeps_ite ?_ ?_
    | split
    | with_reducible refine Keeps.upd rfl rfl rfl rfl rfl rfl ?_

theorem completeRefused_keeps {pm : Nat} {s0 : State} {c : Ctx} {st : Status} {dnr : Bool} {crd : ℕ} {s : State} (hk : Keeps pm s0 s) (hm : Sub 0x1002c00 pm := by first | with_reducible assumption | (refine Sub.of ?_ (by with_reducible assumption); with_unfolding_all rfl)) :
    Keeps pm s0 (completeRefused c st dnr crd s) := by
  unfold completeRefused
  try dsimp only
  repeat' first
    | with_reducible assumption
    | (with_reducible intro t; intros)
    | with_reducible refine foldl_keeps ?_ ?_
    | with_reducible refine commitCompletion_keeps ?_ 
    | with_reducible refine cmdRefused_keeps ?_ 
    | with_reducible refine keeps_ite ?_ ?_
    | split
    | with_reducible refine Keeps.upd rfl rfl rfl rfl rfl rfl ?_

theorem hostIndex_keeps {pm : Nat} {s0 : State} {p : PortId} {s : State} (hk : Keeps pm s0 s) (hm : Sub 0x2000 pm := by first | with_reducible assumption | (refine Sub.of ?_ (by with_reducible assumption); with_unfolding_all rfl)) :
    Keeps pm s0 (hostIndex p s).2 := by
  unfold hostIndex
  try dsimp only
  repeat' first
    | with_reducible assumption
    | (with_reducible intro t; intros)
    | with_reducible refine foldl_keeps ?_ ?_
    | with_reducible refine keeps_ite ?_ ?_
    | split
    | with_reducible refine Keeps.upd rfl rfl rfl rfl rfl rfl ?_
theorem hostIndex_keepsP {pm : Nat} {s0 : State} {p : PortId} {s : State} (hk : Keeps pm s0 s) {ra} {rb : State} (e : (hostIndex p s) = (ra, rb)) (hm : Sub 0x2000 pm := by first | with_reducible assumption | (refine Sub.of ?_ (by with_reducible assumption); with_unfolding_all rfl)) :
    Keeps pm s0 rb := by
  have := hostIndex_keeps (s0 := s0) (p := p) (s := s) hk
  rw [e] at this
  exact this

theorem writeOverFills_keeps {pm : Nat} {s0 : State} {nsid : ℕ} {lba : ℕ} {count : ℕ} {s : State} (hk : Keeps pm s0 s) (hm : Sub 0x20000 pm := by first | with_reducible assumption | (refine Sub.of ?_ (by with_reducible assumption); with_unfolding_all rfl)) :
    Keeps pm s0 (writeOverFills nsid lba count s) := by
  unfold writeOverFills
  try dsimp only
  repeat' first
    | with_reducible assumption
    | (with_reducible intro t; intros)
    | with_reducible refine foldl_keeps ?_ ?_
    | with_reducible refine freeSlots_keeps ?_ 
    | with_reducible refine keeps_ite ?_ ?_
    | split
    | with_reducible refine Keeps.upd rfl rfl rfl rfl rfl rfl ?_

theorem openZone_keeps {pm : Nat} {s0 : State} {c : Ctx} {s : State} (hk : Keeps pm s0 s) (hm : Sub 0x1000 pm := by first | with_reducible assumption | (refine Sub.of ?_ (by with_reducible assumption); with_unfolding_all rfl)) :
    Keeps pm s0 (openZone c s) := by
  unfold openZone
  try dsimp only
  repeat' first
    | with_reducible assumption
    | (with_reducible intro t; intros)
    | with_reducible refine foldl_keeps ?_ ?_
    | with_reducible refine modBand_keeps ?_ 
    | with_reducible refine setZoneState_keeps ?_ 
    | with_reducible refine keeps_ite ?_ ?_
    | split
    | with_reducible refine Keeps.upd rfl rfl rfl rfl rfl rfl ?_

theorem fileCommand_keeps {pm : Nat} {s0 : State} {c : Ctx} {s : State} (hk : Keeps pm s0 s) (hm : Sub 0x27000 pm := by first | with_reducible assumption | (refine Sub.of ?_ (by with_reducible assumption); with_unfolding_all rfl)) :
    Keeps pm s0 (fileCommand c s) := by
  unfold fileCommand
  try dsimp only
  repeat' first
    | with_reducible assumption
    | (with_reducible intro t; intros)
    | with_reducible refine foldl_keeps ?_ ?_
    | with_reducible refine hostIndex_keeps ?_ 
    | with_reducible refine hostIndex_keepsP ?_  (by assumption)
    | with_reducible refine writeOverFills_keeps ?_ 
    | with_reducible refine openZone_keeps ?_ 
    | with_reducible refine keeps_ite ?_ ?_
    | split
    | with_reducible refine Keeps.upd rfl rfl rfl rfl rfl rfl ?_

theorem admitOne_keeps {pm : Nat} {s0 : State} {p : PortId} {x : Sq} {e : SqEntry} {s : State} (hk : Keeps pm s0 s) (hm : Sub 0x50efe69 pm := by first | with_reducible assumption | (refine Sub.of ?_ (by with_reducible assumption); with_unfolding_all rfl)) :
    Keeps pm s0 (admitOne p x e s) := by
  unfold admitOne
  try dsimp only
  repeat' first
    | with_reducible assumption
    | (with_reducible intro t; intros)
    | with_reducible refine foldl_keeps ?_ ?_
    | with_reducible refine commitCompletion_keeps ?_ 
    | with_reducible refine takeEntry_keeps ?_ 
    | with_reducible refine wakeFor_keeps ?_ 
    | with_reducible refine completeRefused_keeps ?_ 
    | with_reducible refine fileCommand_keeps ?_ 
    | with_reducible refine keeps_ite ?_ ?_
    | split
    | with_reducible refine Keeps.upd rfl rfl rfl rfl rfl rfl ?_

theorem releaseShadows_keeps {pm : Nat} {s0 : State} {k : BandKey} {below : ℕ} {s : State} (hk : Keeps pm s0 s) (hm : Sub 0x20000 pm := by first | with_reducible assumption | (refine Sub.of ?_ (by with_reducible assumption); with_unfolding_all rfl)) :
    Keeps pm s0 (releaseShadows k below s) := by
  unfold releaseShadows
  try dsimp only
  repeat' first
    | with_reducible assumption
    | (with_reducible intro t; intros)
    | with_reducible refine foldl_keeps ?_ ?_
    | with_reducible refine mapLines_keeps ?_ 
    | with_reducible refine keeps_ite ?_ ?_
    | split
    | with_reducible refine Keeps.upd rfl rfl rfl rfl rfl rfl ?_

theorem stepFrontier_keeps {pm : Nat} {s0 : State} {k : BandKey} {s : State} (hk : Keeps pm s0 s) (hm : Sub 0x21000 pm := by first | with_reducible assumption | (refine Sub.of ?_ (by with_reducible assumption); with_unfolding_all rfl)) :
    Keeps pm s0 (stepFrontier k s) := by
  unfold stepFrontier
  try dsimp only
  repeat' first
    | with_reducible assumption
    | (with_reducible intro t; intros)
    | with_reducible refine foldl_keeps ?_ ?_
    | with_reducible refine setBand_keeps ?_ 
    | with_reducible refine releaseShadows_keeps ?_ 
    | with_reducible refine keeps_ite ?_ ?_
    | split
    | with_reducible refine Keeps.upd rfl rfl rfl rfl rfl rfl ?_

theorem advanceBy_keeps {pm : Nat} {s0 : State} {n : Nat} {k : BandKey} {s : State} (hk : Keeps pm s0 s) (hm : Sub 0x21000 pm := by first | with_reducible assumption | (refine Sub.of ?_ (by with_reducible assumption); with_unfolding_all rfl)) :
    Keeps pm s0 (advanceBy n k s) := by
  induction n generalizing s with
  | zero => exact hk
  | succ n ih =>
    unfold advanceBy
    dsimp only
    split
    · exact hk
    · exact ih (stepFrontier_keeps hk)

theorem advanceFrontier_keeps {pm : Nat} {s0 : State} {k : BandKey} {s : State} (hk : Keeps pm s0 s) (hm : Sub 0x21000 pm := by first | with_reducible assumption | (refine Sub.of ?_ (by with_reducible assumption); with_unfolding_all rfl)) :
    Keeps pm s0 (advanceFrontier k s) := by
  unfold advanceFrontier
  try dsimp only
  repeat' first
    | with_reducible assumption
    | (with_reducible intro t; intros)
    | with_reducible refine foldl_keeps ?_ ?_
    | with_reducible refine advanceBy_keeps ?_ 
    | with_reducible refine keeps_ite ?_ ?_
    | split
    | with_reducible refine Keeps.upd rfl rfl rfl rfl rfl rfl ?_

theorem advanceTick_keeps {pm : Nat} {s0 : State} {s : State} (hk : Keeps pm s0 s) (hm : Sub 0xc pm := by first | with_reducible assumption | (refine Sub.of ?_ (by with_reducible assumption); with_unfolding_all rfl)) :
    Keeps pm s0 (advanceTick s) := by
  unfold advanceTick
  try dsimp only
  repeat' first
    | with_reducible assumption
    | (with_reducible intro t; intros)
    | with_reducible refine foldl_keeps ?_ ?_
    | with_reducible refine keeps_ite ?_ ?_
    | split
    | with_reducible refine Keeps.upd rfl rfl rfl rfl rfl rfl ?_

theorem advanceWp_keeps {pm : Nat} {s0 : State} {c : Ctx} {k : BandKey} {s : State} (hk : Keeps pm s0 s) (hm : Sub 0x1000 pm := by first | with_reducible assumption | (refine Sub.of ?_ (by with_reducible assumption); with_unfolding_all rfl)) :
    Keeps pm s0 (advanceWp c k s) := by
  unfold advanceWp
  try dsimp only
  repeat' first
    | with_reducible assumption
    | (with_reducible intro t; intros)
    | with_reducible refine foldl_keeps ?_ ?_
    | with_reducible refine setBand_keeps ?_ 
    | with_reducible refine setZoneState_keeps ?_ 
    | with_reducible refine keeps_ite ?_ ?_
    | split
    | with_reducible refine Keeps.upd rfl rfl rfl rfl rfl rfl ?_

theorem afterRead_keeps {pm : Nat} {s0 : State} {index : ℕ} {sub : ℕ} {s : State} (hk : Keeps pm s0 s) (hm : Sub 0x890040 pm := by first | with_reducible assumption | (refine Sub.of ?_ (by with_reducible assumption); with_unfolding_all rfl)) :
    Keeps pm s0 (afterRead index sub s) := by
  unfold afterRead
  try dsimp only
  repeat' first
    | with_reducible assumption
    | (with_reducible intro t; intros)
    | with_reducible refine foldl_keeps ?_ ?_
    | with_reducible refine State.modCe_keeps ?_ 
    | with_reducible refine modBms_keeps ?_ (by intro b h; first | exact h | (simpa using h))
    | with_reducible refine keeps_ite ?_ ?_
    | split
    | with_reducible refine Keeps.upd rfl rfl rfl rfl rfl rfl ?_

theorem alignFifo_keeps {pm : Nat} {s0 : State} {n : ChanId} {o : ℕ} {s : State} (hk : Keeps pm s0 s) (hm : Sub 0x20040 pm := by first | with_reducible assumption | (refine Sub.of ?_ (by with_reducible assumption); with_unfolding_all rfl)) :
    Keeps pm s0 (alignFifo n o s) := by
  unfold alignFifo
  try dsimp only
  repeat' first
    | with_reducible assumption
    | (with_reducible intro t; intros)
    | with_reducible refine foldl_keeps ?_ ?_
    | with_reducible refine State.modWr_keeps ?_ 
    | with_reducible refine settlePins_keeps ?_ 
    | with_reducible refine keeps_ite ?_ ?_
    | split
    | with_reducible refine Keeps.upd rfl rfl rfl rfl rfl rfl ?_

theorem modReg_keeps {pm : Nat} {s0 : State} {id : ℕ} {f : MissReg → MissReg} {s : State} (hk : Keeps pm s0 s) (hm : Sub 0x20000 pm := by first | with_reducible assumption | (refine Sub.of ?_ (by with_reducible assumption); with_unfolding_all rfl)) :
    Keeps pm s0 (modReg id f s) := by
  unfold modReg
  try dsimp only
  repeat' first
    | with_reducible assumption
    | (with_reducible intro t; intros)
    | with_reducible refine foldl_keeps ?_ ?_
    | with_reducible refine keeps_ite ?_ ?_
    | split
    | with_reducible refine Keeps.upd rfl rfl rfl rfl rfl rfl ?_

end Sys2Proof.Machine
end

