-- ==== Sys2Proof/Laws/Frame04.lean ====
section
/-! SUPPORT. What each operation keeps (see Keeps), in the order in which operations call each other: takeSlot to stopLadders. -/

set_option linter.unusedTactic false
set_option linter.unreachableTactic false
set_option Elab.async false

namespace Sys2Proof.Machine

theorem takeSlot_keeps {pm : Nat} {s0 : State} {b : BlockKey} {transient : Bool} {s : State} (hk : Keeps pm s0 s) {rb : State} (e : (takeSlot b transient s) = some rb) (hm : Sub 0x20000 pm := by first | with_reducible assumption | (refine Sub.of ?_ (by with_reducible assumption); with_unfolding_all rfl)) :
    Keeps pm s0 rb := by
  unfold takeSlot at e
  try dsimp only at e
  repeat' first
    | (injection e with e; subst e)
    | (cases e; done)
    | split at e
  repeat' first
    | with_reducible assumption
    | (with_reducible intro t; intros)
    | with_reducible refine foldl_keeps ?_ ?_
    | with_reducible refine keeps_ite ?_ ?_
    | split
    | with_reducible refine Keeps.upd rfl rfl rfl rfl rfl rfl ?_

theorem fillingLine_keeps {pm : Nat} {s0 : State} {mr : Nat} {b : BlockKey} {s : State} (hk : Keeps pm s0 s) (hm : Sub 0x20000 pm := by first | with_reducible assumption | (refine Sub.of ?_ (by with_reducible assumption); with_unfolding_all rfl)) :
    Keeps pm s0 (fillingLine mr b s) := by
  unfold fillingLine
  dsimp only
  split
  · next h => exact allocLine_keeps hk h
  · have h : Keeps pm s0 { modReg mr (fun m => { m with transient := b.lba :: m.transient }) s with cache.bypass := s.cache.bypass + 1 } :=
      Keeps.upd rfl rfl rfl rfl rfl rfl (modReg_keeps hk)
    exact getD_keeps h (fun r e => takeSlot_keeps h e)

theorem demandReg_keeps {pm : Nat} {s0 : State} {id : ℕ} {nsid : ℕ} {lba : ℕ} {count : ℕ} {k : BandKey} {off : ℕ} {created : ℕ} {s : State} (hk : Keeps pm s0 s) (hm : Sub 0x2c000 pm := by first | with_reducible assumption | (refine Sub.of ?_ (by with_reducible assumption); with_unfolding_all rfl)) :
    Keeps pm s0 (demandReg id nsid lba count k off created s) := by
  unfold demandReg
  try dsimp only
  repeat' first
    | with_reducible assumption
    | (with_reducible intro t; intros)
    | with_reducible refine foldl_keeps ?_ ?_
    | with_reducible refine modCtx_keeps ?_ 
    | with_reducible refine fileOp_keeps ?_ 
    | with_reducible refine fillingLine_keeps ?_ 
    | with_reducible refine keeps_ite ?_ ?_
    | split
    | with_reducible refine Keeps.upd rfl rfl rfl rfl rfl rfl ?_

theorem allocRuns_keeps {pm : Nat} {s0 : State} {id : Nat} {l : List Nat} {s : State} (hk : Keeps pm s0 s) (hm : Sub 0x2c000 pm := by first | with_reducible assumption | (refine Sub.of ?_ (by with_reducible assumption); with_unfolding_all rfl)) :
    Keeps pm s0 (allocRuns id l s) := by
  induction l generalizing s with
  | nil => exact hk
  | cons i rest ih =>
    unfold allocRuns
    dsimp only
    repeat' first
    | with_reducible assumption
    | with_reducible refine ih ?_
    | with_reducible refine demandReg_keeps ?_
    | split

theorem deliverTo_keeps {pm : Nat} {s0 : State} {p : Path} {endpoint : Byte} {resp : List Byte} {s : State} (hk : Keeps pm s0 s) (hm : Sub 0x400c00 pm := by first | with_reducible assumption | (refine Sub.of ?_ (by with_reducible assumption); with_unfolding_all rfl)) :
    Keeps pm s0 (deliverTo p endpoint resp s) := by
  unfold deliverTo
  try dsimp only
  repeat' first
    | with_reducible assumption
    | (with_reducible intro t; intros)
    | with_reducible refine foldl_keeps ?_ ?_
    | with_reducible refine State.modPort_keeps ?_ 
    | with_reducible refine keeps_ite ?_ ?_
    | split
    | with_reducible refine Keeps.upd rfl rfl rfl rfl rfl rfl ?_

theorem answerWaiter_keeps {pm : Nat} {s0 : State} {abort : ℕ} {s : State} (hk : Keeps pm s0 s) (hm : Sub 0x600c00 pm := by first | with_reducible assumption | (refine Sub.of ?_ (by with_reducible assumption); with_unfolding_all rfl)) :
    Keeps pm s0 (answerWaiter abort s) := by
  unfold answerWaiter
  try dsimp only
  repeat' first
    | with_reducible assumption
    | (with_reducible intro t; intros)
    | with_reducible refine foldl_keeps ?_ ?_
    | with_reducible refine State.modPort_keeps ?_ 
    | with_reducible refine deliverTo_keeps ?_ 
    | with_reducible refine keeps_ite ?_ ?_
    | split
    | with_reducible refine Keeps.upd rfl rfl rfl rfl rfl rfl ?_

theorem answerBusy_keeps {pm : Nat} {s0 : State} {s : State} (hk : Keeps pm s0 s) (hm : Sub 0x600c00 pm := by first | with_reducible assumption | (refine Sub.of ?_ (by with_reducible assumption); with_unfolding_all rfl)) :
    Keeps pm s0 (answerBusy s) := by
  unfold answerBusy
  try dsimp only
  repeat' first
    | with_reducible assumption
    | (with_reducible intro t; intros)
    | with_reducible refine foldl_keeps ?_ ?_
    | with_reducible refine answerWaiter_keeps ?_ 
    | with_reducible refine keeps_ite ?_ ?_
    | split
    | with_reducible refine Keeps.upd rfl rfl rfl rfl rfl rfl ?_

theorem applyDirtyLimit_keeps {pm : Nat} {s0 : State} {s : State} (hk : Keeps pm s0 s) (hm : Sub 0x20000 pm := by first | with_reducible assumption | (refine Sub.of ?_ (by with_reducible assumption); with_unfolding_all rfl)) :
    Keeps pm s0 (applyDirtyLimit s) := by
  unfold applyDirtyLimit
  try dsimp only
  repeat' first
    | with_reducible assumption
    | (with_reducible intro t; intros)
    | with_reducible refine foldl_keeps ?_ ?_
    | with_reducible refine destageFirst_keeps ?_ 
    | with_reducible refine keeps_ite ?_ ?_
    | split
    | with_reducible refine Keeps.upd rfl rfl rfl rfl rfl rfl ?_

theorem takeBlock_keeps {pm : Nat} {s0 : State} {id : ℕ} {i : ℕ} {d : Block} {s : State} (hk : Keeps pm s0 s) (hm : Sub 0x4000 pm := by first | with_reducible assumption | (refine Sub.of ?_ (by with_reducible assumption); with_unfolding_all rfl)) :
    Keeps pm s0 (takeBlock id i d s) := by
  unfold takeBlock
  try dsimp only
  repeat' first
    | with_reducible assumption
    | (with_reducible intro t; intros)
    | with_reducible refine foldl_keeps ?_ ?_
    | with_reducible refine modCtx_keeps ?_ 
    | with_reducible refine keeps_ite ?_ ?_
    | split
    | with_reducible refine Keeps.upd rfl rfl rfl rfl rfl rfl ?_

theorem touch_keeps {pm : Nat} {s0 : State} {q : ℕ} {w : ℕ} {s : State} (hk : Keeps pm s0 s) (hm : Sub 0x20000 pm := by first | with_reducible assumption | (refine Sub.of ?_ (by with_reducible assumption); with_unfolding_all rfl)) :
    Keeps pm s0 (touch q w s) := by
  unfold touch
  try dsimp only
  repeat' first
    | with_reducible assumption
    | (with_reducible intro t; intros)
    | with_reducible refine foldl_keeps ?_ ?_
    | with_reducible refine keeps_ite ?_ ?_
    | split
    | with_reducible refine Keeps.upd rfl rfl rfl rfl rfl rfl ?_

theorem slotToLine_keeps {pm : Nat} {s0 : State} {x : SideSlot} {s : State} (hk : Keeps pm s0 s) (hm : Sub 0x20000 pm := by first | with_reducible assumption | (refine Sub.of ?_ (by with_reducible assumption); with_unfolding_all rfl)) :
    Keeps pm s0 (slotToLine x s) := by
  unfold slotToLine
  try dsimp only
  repeat' first
    | with_reducible assumption
    | (with_reducible intro t; intros)
    | with_reducible refine foldl_keeps ?_ ?_
    | with_reducible refine freeSlots_keeps ?_ 
    | with_reducible refine allocLine_keeps ?_  (by assumption)
    | with_reducible refine touch_keeps ?_ 
    | with_reducible refine keeps_ite ?_ ?_
    | split
    | with_reducible refine Keeps.upd rfl rfl rfl rfl rfl rfl ?_

theorem failBlock_keeps {pm : Nat} {s0 : State} {id : ℕ} {i : ℕ} {s : State} (hk : Keeps pm s0 s) (hm : Sub 0x4000 pm := by first | with_reducible assumption | (refine Sub.of ?_ (by with_reducible assumption); with_unfolding_all rfl)) :
    Keeps pm s0 (failBlock id i s) := by
  unfold failBlock
  try dsimp only
  repeat' first
    | with_reducible assumption
    | (with_reducible intro t; intros)
    | with_reducible refine foldl_keeps ?_ ?_
    | with_reducible refine modCtx_keeps ?_ 
    | with_reducible refine keeps_ite ?_ ?_
    | split
    | with_reducible refine Keeps.upd rfl rfl rfl rfl rfl rfl ?_

theorem fromReg_keeps {pm : Nat} {s0 : State} {id : ℕ} {i : ℕ} {b : BlockKey} {m : MissReg} {s : State} (hk : Keeps pm s0 s) (hm : Sub 0x4000 pm := by first | with_reducible assumption | (refine Sub.of ?_ (by with_reducible assumption); with_unfolding_all rfl)) :
    Keeps pm s0 (fromReg id i b m s) := by
  unfold fromReg
  try dsimp only
  repeat' first
    | with_reducible assumption
    | (with_reducible intro t; intros)
    | with_reducible refine foldl_keeps ?_ ?_
    | with_reducible refine takeBlock_keeps ?_ 
    | with_reducible refine keeps_ite ?_ ?_
    | split
    | with_reducible refine Keeps.upd rfl rfl rfl rfl rfl rfl ?_

theorem mergeInto_keeps {pm : Nat} {s0 : State} {id : ℕ} {m : MissReg} {s : State} (hk : Keeps pm s0 s) (hm : Sub 0x24000 pm := by first | with_reducible assumption | (refine Sub.of ?_ (by with_reducible assumption); with_unfolding_all rfl)) :
    Keeps pm s0 (mergeInto id m s) := by
  unfold mergeInto
  try dsimp only
  repeat' first
    | with_reducible assumption
    | (with_reducible intro t; intros)
    | with_reducible refine foldl_keeps ?_ ?_
    | with_reducible refine modCtx_keeps ?_ 
    | with_reducible refine modReg_keeps ?_ 
    | with_reducible refine keeps_ite ?_ ?_
    | split
    | with_reducible refine Keeps.upd rfl rfl rfl rfl rfl rfl ?_

theorem lookupBlock_keeps {pm : Nat} {s0 : State} {c : Ctx} {i : ℕ} {s : State} (hk : Keeps pm s0 s) (hm : Sub 0x24000 pm := by first | with_reducible assumption | (refine Sub.of ?_ (by with_reducible assumption); with_unfolding_all rfl)) :
    Keeps pm s0 (lookupBlock c i s) := by
  unfold lookupBlock
  try dsimp only
  repeat' first
    | with_reducible assumption
    | (with_reducible intro t; intros)
    | with_reducible refine foldl_keeps ?_ ?_
    | with_reducible refine takeBlock_keeps ?_ 
    | with_reducible refine touch_keeps ?_ 
    | with_reducible refine slotToLine_keeps ?_ 
    | with_reducible refine failBlock_keeps ?_ 
    | with_reducible refine fromReg_keeps ?_ 
    | with_reducible refine mergeInto_keeps ?_ 
    | with_reducible refine keeps_ite ?_ ?_
    | split
    | with_reducible refine Keeps.upd rfl rfl rfl rfl rfl rfl ?_

theorem lookupRead_keeps {pm : Nat} {s0 : State} {id : ℕ} {s : State} (hk : Keeps pm s0 s) (hm : Sub 0x2c000 pm := by first | with_reducible assumption | (refine Sub.of ?_ (by with_reducible assumption); with_unfolding_all rfl)) :
    Keeps pm s0 (lookupRead id s) := by
  unfold lookupRead
  try dsimp only
  repeat' first
    | with_reducible assumption
    | (with_reducible intro t; intros)
    | with_reducible refine foldl_keeps ?_ ?_
    | with_reducible refine allocRuns_keeps ?_ 
    | with_reducible refine lookupBlock_keeps ?_ 
    | with_reducible refine keeps_ite ?_ ?_
    | split
    | with_reducible refine Keeps.upd rfl rfl rfl rfl rfl rfl ?_

theorem lookupWaiting_keeps {pm : Nat} {s0 : State} {s : State} (hk : Keeps pm s0 s) (hm : Sub 0x2c000 pm := by first | with_reducible assumption | (refine Sub.of ?_ (by with_reducible assumption); with_unfolding_all rfl)) :
    Keeps pm s0 (lookupWaiting s) := by
  unfold lookupWaiting
  try dsimp only
  repeat' first
    | with_reducible assumption
    | (with_reducible intro t; intros)
    | with_reducible refine foldl_keeps ?_ ?_
    | with_reducible refine lookupRead_keeps ?_ 
    | with_reducible refine keeps_ite ?_ ?_
    | split
    | with_reducible refine Keeps.upd rfl rfl rfl rfl rfl rfl ?_

theorem endReg_keeps {pm : Nat} {s0 : State} {mr : ℕ} {s : State} (hk : Keeps pm s0 s) (hm : Sub 0x2c000 pm := by first | with_reducible assumption | (refine Sub.of ?_ (by with_reducible assumption); with_unfolding_all rfl)) :
    Keeps pm s0 (endReg mr s) := by
  unfold endReg
  try dsimp only
  repeat' first
    | with_reducible assumption
    | (with_reducible intro t; intros)
    | with_reducible refine foldl_keeps ?_ ?_
    | with_reducible refine dropLines_keeps ?_ 
    | with_reducible refine freeSlots_keeps ?_ 
    | with_reducible refine lookupWaiting_keeps ?_ 
    | with_reducible refine keeps_ite ?_ ?_
    | split
    | with_reducible refine Keeps.upd rfl rfl rfl rfl rfl rfl ?_

theorem markArrived_keeps {pm : Nat} {s0 : State} {mr : ℕ} {lba : ℕ} {s : State} (hk : Keeps pm s0 s) (hm : Sub 0x2c000 pm := by first | with_reducible assumption | (refine Sub.of ?_ (by with_reducible assumption); with_unfolding_all rfl)) :
    Keeps pm s0 (markArrived mr lba s) := by
  unfold markArrived
  try dsimp only
  repeat' first
    | with_reducible assumption
    | (with_reducible intro t; intros)
    | with_reducible refine foldl_keeps ?_ ?_
    | with_reducible refine modReg_keeps ?_ 
    | with_reducible refine endReg_keeps ?_ 
    | with_reducible refine keeps_ite ?_ ?_
    | split
    | with_reducible refine Keeps.upd rfl rfl rfl rfl rfl rfl ?_

theorem arrive_keeps {pm : Nat} {s0 : State} {mr : ℕ} {lba : ℕ} {d : Block} {s : State} (hk : Keeps pm s0 s) (hm : Sub 0x2c000 pm := by first | with_reducible assumption | (refine Sub.of ?_ (by with_reducible assumption); with_unfolding_all rfl)) :
    Keeps pm s0 (arrive mr lba d s) := by
  unfold arrive
  try dsimp only
  repeat' first
    | with_reducible assumption
    | (with_reducible intro t; intros)
    | with_reducible refine foldl_keeps ?_ ?_
    | with_reducible refine dropLines_keeps ?_ 
    | with_reducible refine mapLines_keeps ?_ 
    | with_reducible refine freeSlots_keeps ?_ 
    | with_reducible refine modReg_keeps ?_ 
    | with_reducible refine takeBlock_keeps ?_ 
    | with_reducible refine touch_keeps ?_ 
    | with_reducible refine slotToLine_keeps ?_ 
    | with_reducible refine markArrived_keeps ?_ 
    | with_reducible refine keeps_ite ?_ ?_
    | split
    | with_reducible refine Keeps.upd rfl rfl rfl rfl rfl rfl ?_

theorem arriveBad_keeps {pm : Nat} {s0 : State} {mr : ℕ} {lba : ℕ} {s : State} (hk : Keeps pm s0 s) (hm : Sub 0x2c000 pm := by first | with_reducible assumption | (refine Sub.of ?_ (by with_reducible assumption); with_unfolding_all rfl)) :
    Keeps pm s0 (arriveBad mr lba s) := by
  unfold arriveBad
  try dsimp only
  repeat' first
    | with_reducible assumption
    | (with_reducible intro t; intros)
    | with_reducible refine foldl_keeps ?_ ?_
    | with_reducible refine dropLines_keeps ?_ 
    | with_reducible refine freeSlots_keeps ?_ 
    | with_reducible refine failBlock_keeps ?_ 
    | with_reducible refine markArrived_keeps ?_ 
    | with_reducible refine keeps_ite ?_ ?_
    | split
    | with_reducible refine Keeps.upd rfl rfl rfl rfl rfl rfl ?_

theorem arriveBadFor_keeps {pm : Nat} {s0 : State} {p : PortId} {mr : ℕ} {lba : ℕ} {s : State} (hk : Keeps pm s0 s) (hm : Sub 0x4000 pm := by first | with_reducible assumption | (refine Sub.of ?_ (by with_reducible assumption); with_unfolding_all rfl)) :
    Keeps pm s0 (arriveBadFor p mr lba s) := by
  unfold arriveBadFor
  try dsimp only
  repeat' first
    | with_reducible assumption
    | (with_reducible intro t; intros)
    | with_reducible refine foldl_keeps ?_ ?_
    | with_reducible refine failBlock_keeps ?_ 
    | with_reducible refine keeps_ite ?_ ?_
    | split
    | with_reducible refine Keeps.upd rfl rfl rfl rfl rfl rfl ?_

theorem assistAtStrobe_keeps {pm : Nat} {s0 : State} {n : ChanId} {s : State} (hk : Keeps pm s0 s) (hm : Sub 0x40 pm := by first | with_reducible assumption | (refine Sub.of ?_ (by with_reducible assumption); with_unfolding_all rfl)) :
    Keeps pm s0 (assistAtStrobe n s) := by
  unfold assistAtStrobe
  try dsimp only
  repeat' first
    | with_reducible assumption
    | (with_reducible intro t; intros)
    | with_reducible refine foldl_keeps ?_ ?_
    | with_reducible refine State.modWr_keeps ?_ 
    | with_reducible refine keeps_ite ?_ ?_
    | split
    | with_reducible refine Keeps.upd rfl rfl rfl rfl rfl rfl ?_

theorem atOffset_keeps {pm : Nat} {s0 : State} {ns : ℕ} {s : State} (hk : Keeps pm s0 s) (hm : Sub 0x4 pm := by first | with_reducible assumption | (refine Sub.of ?_ (by with_reducible assumption); with_unfolding_all rfl)) :
    Keeps pm s0 (atOffset ns s) := by
  unfold atOffset
  try dsimp only
  repeat' first
    | with_reducible assumption
    | (with_reducible intro t; intros)
    | with_reducible refine foldl_keeps ?_ ?_
    | with_reducible refine keeps_ite ?_ ?_
    | split
    | with_reducible refine Keeps.upd rfl rfl rfl rfl rfl rfl ?_

theorem noticeNs_keeps {pm : Nat} {s0 : State} {nsid : ℕ} {ports : List PortId} {s : State} (hk : Keeps pm s0 s) (hm : Sub 0xc00 pm := by first | with_reducible assumption | (refine Sub.of ?_ (by with_reducible assumption); with_unfolding_all rfl)) :
    Keeps pm s0 (noticeNs nsid ports s) := by
  unfold noticeNs
  try dsimp only
  repeat' first
    | with_reducible assumption
    | (with_reducible intro t; intros)
    | with_reducible refine foldl_keeps ?_ ?_
    | with_reducible refine State.modPort_keeps ?_ 
    | with_reducible refine keeps_ite ?_ ?_
    | split
    | with_reducible refine Keeps.upd rfl rfl rfl rfl rfl rfl ?_

theorem modNs_keeps {pm : Nat} {s0 : State} {nsid : ℕ} {f : Namespace → Namespace} {s : State} (hk : Keeps pm s0 s) (hm : Sub 0x2000 pm := by first | with_reducible assumption | (refine Sub.of ?_ (by with_reducible assumption); with_unfolding_all rfl)) :
    Keeps pm s0 (modNs nsid f s) := by
  unfold modNs
  try dsimp only
  repeat' first
    | with_reducible assumption
    | (with_reducible intro t; intros)
    | with_reducible refine foldl_keeps ?_ ?_
    | with_reducible refine keeps_ite ?_ ?_
    | split
    | with_reducible refine Keeps.upd rfl rfl rfl rfl rfl rfl ?_

theorem attachment_keeps {pm : Nat} {s0 : State} {a : AdminHdr} {nsid : ℕ} {l : List Word16} {attach : Bool} {s : State} (hk : Keeps pm s0 s) (hm : Sub 0x1002c00 pm := by first | with_reducible assumption | (refine Sub.of ?_ (by with_reducible assumption); with_unfolding_all rfl)) :
    Keeps pm s0 (attachment a nsid l attach s) := by
  unfold attachment
  try dsimp only
  repeat' first
    | with_reducible assumption
    | (with_reducible intro t; intros)
    | with_reducible refine foldl_keeps ?_ ?_
    | with_reducible refine adminDone_keeps ?_ 
    | with_reducible refine adminRefused_keeps ?_ 
    | with_reducible refine noticeNs_keeps ?_ 
    | with_reducible refine modNs_keeps ?_ 
    | with_reducible refine keeps_ite ?_ ?_
    | split
    | with_reducible refine Keeps.upd rfl rfl rfl rfl rfl rfl ?_

theorem enterReady_keeps {pm : Nat} {s0 : State} {s : State} (hk : Keeps pm s0 s) (hm : Sub 0x1020801 pm := by first | with_reducible assumption | (refine Sub.of ?_ (by with_reducible assumption); with_unfolding_all rfl)) :
    Keeps pm s0 (enterReady s) := by
  unfold enterReady
  try dsimp only
  repeat' first
    | with_reducible assumption
    | (with_reducible intro t; intros)
    | with_reducible refine foldl_keeps ?_ ?_
    | with_reducible refine enterPhase_keeps ?_ 
    | with_reducible refine destageFirst_keeps ?_ 
    | with_reducible refine keeps_ite ?_ ?_
    | split
    | with_reducible refine Keeps.upd rfl rfl rfl rfl rfl rfl ?_

theorem endCalibrate_keeps {pm : Nat} {s0 : State} {s : State} (hk : Keeps pm s0 s) (hm : Sub 0x1020801 pm := by first | with_reducible assumption | (refine Sub.of ?_ (by with_reducible assumption); with_unfolding_all rfl)) :
    Keeps pm s0 (endCalibrate s) := by
  unfold endCalibrate
  try dsimp only
  repeat' first
    | with_reducible assumption
    | (with_reducible intro t; intros)
    | with_reducible refine foldl_keeps ?_ ?_
    | with_reducible refine enterPhase_keeps ?_ 
    | with_reducible refine enterReady_keeps ?_ 
    | with_reducible refine keeps_ite ?_ ?_
    | split
    | with_reducible refine Keeps.upd rfl rfl rfl rfl rfl rfl ?_

theorem calibrateDone_keeps {pm : Nat} {s0 : State} {s : State} (hk : Keeps pm s0 s) (hm : Sub 0x1020801 pm := by first | with_reducible assumption | (refine Sub.of ?_ (by with_reducible assumption); with_unfolding_all rfl)) :
    Keeps pm s0 (calibrateDone s) := by
  unfold calibrateDone
  try dsimp only
  repeat' first
    | with_reducible assumption
    | (with_reducible intro t; intros)
    | with_reducible refine foldl_keeps ?_ ?_
    | with_reducible refine endCalibrate_keeps ?_ 
    | with_reducible refine keeps_ite ?_ ?_
    | split
    | with_reducible refine Keeps.upd rfl rfl rfl rfl rfl rfl ?_

theorem requestFull_keeps {pm : Nat} {s0 : State} {h : HeadId} {s : State} (hk : Keeps pm s0 s) (hm : Sub 0x200 pm := by first | with_reducible assumption | (refine Sub.of ?_ (by with_reducible assumption); with_unfolding_all rfl)) :
    Keeps pm s0 (requestFull h s) := by
  unfold requestFull
  try dsimp only
  repeat' first
    | with_reducible assumption
    | (with_reducible intro t; intros)
    | with_reducible refine foldl_keeps ?_ ?_
    | with_reducible refine requestCal_keeps ?_ 
    | with_reducible refine keeps_ite ?_ ?_
    | split
    | with_reducible refine Keeps.upd rfl rfl rfl rfl rfl rfl ?_

theorem beginCalibrate_keeps {pm : Nat} {s0 : State} {s : State} (hk : Keeps pm s0 s) (hm : Sub 0x1020a81 pm := by first | with_reducible assumption | (refine Sub.of ?_ (by with_reducible assumption); with_unfolding_all rfl)) :
    Keeps pm s0 (beginCalibrate s) := by
  unfold beginCalibrate
  try dsimp only
  repeat' first
    | with_reducible assumption
    | (with_reducible intro t; intros)
    | with_reducible refine foldl_keeps ?_ ?_
    | with_reducible refine enterPhase_keeps ?_ 
    | with_reducible refine calibrateDone_keeps ?_ 
    | with_reducible refine requestFull_keeps ?_ 
    | with_reducible refine keeps_ite ?_ ?_
    | split
    | with_reducible refine Keeps.upd rfl rfl rfl rfl rfl rfl ?_

theorem enterFailed_keeps {pm : Nat} {s0 : State} {s : State} (hk : Keeps pm s0 s) (hm : Sub 0x1000c01 pm := by first | with_reducible assumption | (refine Sub.of ?_ (by with_reducible assumption); with_unfolding_all rfl)) :
    Keeps pm s0 (enterFailed s) := by
  unfold enterFailed
  try dsimp only
  repeat' first
    | with_reducible assumption
    | (with_reducible intro t; intros)
    | with_reducible refine foldl_keeps ?_ ?_
    | with_reducible refine State.modPorts_keeps ?_ 
    | with_reducible refine enterPhase_keeps ?_ 
    | with_reducible refine keeps_ite ?_ ?_
    | split
    | with_reducible refine Keeps.upd rfl rfl rfl rfl rfl rfl ?_

theorem failStart_keeps {pm : Nat} {s0 : State} {code : ℕ} {s : State} (hk : Keeps pm s0 s) (hm : Sub 0x1000c01 pm := by first | with_reducible assumption | (refine Sub.of ?_ (by with_reducible assumption); with_unfolding_all rfl)) :
    Keeps pm s0 (failStart code s) := by
  unfold failStart
  try dsimp only
  repeat' first
    | with_reducible assumption
    | (with_reducible intro t; intros)
    | with_reducible refine foldl_keeps ?_ ?_
    | with_reducible refine startFault_keeps ?_ 
    | with_reducible refine enterFailed_keeps ?_ 
    | with_reducible refine keeps_ite ?_ ?_
    | split
    | with_reducible refine Keeps.upd rfl rfl rfl rfl rfl rfl ?_

theorem loadsDone_keeps {pm : Nat} {s0 : State} {s : State} (hk : Keeps pm s0 s) (hm : Sub 0x50efee1 pm := by first | with_reducible assumption | (refine Sub.of ?_ (by with_reducible assumption); with_unfolding_all rfl)) :
    Keeps pm s0 (loadsDone s) := by
  unfold loadsDone
  try dsimp only
  repeat' first
    | with_reducible assumption
    | (with_reducible intro t; intros)
    | with_reducible refine foldl_keeps ?_ ?_
    | with_reducible refine sendSpin_keeps ?_ 
    | with_reducible refine unloadAll_keeps ?_ 
    | with_reducible refine beginCalibrate_keeps ?_ 
    | with_reducible refine failStart_keeps ?_ 
    | with_reducible refine keeps_ite ?_ ?_
    | split
    | with_reducible refine Keeps.upd rfl rfl rfl rfl rfl rfl ?_

theorem queueLoads_keeps {pm : Nat} {s0 : State} {s : State} (hk : Keeps pm s0 s) (hm : Sub 0x4000000 pm := by first | with_reducible assumption | (refine Sub.of ?_ (by with_reducible assumption); with_unfolding_all rfl)) :
    Keeps pm s0 (queueLoads s) := by
  unfold queueLoads
  try dsimp only
  repeat' first
    | with_reducible assumption
    | (with_reducible intro t; intros)
    | with_reducible refine foldl_keeps ?_ ?_
    | with_reducible refine keeps_ite ?_ ?_
    | split
    | with_reducible refine Keeps.upd rfl rfl rfl rfl rfl rfl ?_

theorem beginHeadLoad_keeps {pm : Nat} {s0 : State} {s : State} (hk : Keeps pm s0 s) (hm : Sub 0x50efee1 pm := by first | with_reducible assumption | (refine Sub.of ?_ (by with_reducible assumption); with_unfolding_all rfl)) :
    Keeps pm s0 (beginHeadLoad s) := by
  unfold beginHeadLoad
  try dsimp only
  repeat' first
    | with_reducible assumption
    | (with_reducible intro t; intros)
    | with_reducible refine foldl_keeps ?_ ?_
    | with_reducible refine enterPhase_keeps ?_ 
    | with_reducible refine loadsDone_keeps ?_ 
    | with_reducible refine queueLoads_keeps ?_ 
    | with_reducible refine keeps_ite ?_ ?_
    | split
    | with_reducible refine Keeps.upd rfl rfl rfl rfl rfl rfl ?_

theorem beginSector_keeps {pm : Nat} {s0 : State} {n : ChanId} {f : FifoSector} {s : State} (hk : Keeps pm s0 s) (hm : Sub 0x40 pm := by first | with_reducible assumption | (refine Sub.of ?_ (by with_reducible assumption); with_unfolding_all rfl)) :
    Keeps pm s0 (beginSector n f s) := by
  unfold beginSector
  try dsimp only
  repeat' first
    | with_reducible assumption
    | (with_reducible intro t; intros)
    | with_reducible refine foldl_keeps ?_ ?_
    | with_reducible refine State.modRwc_keeps ?_ 
    | with_reducible refine State.modWr_keeps ?_ 
    | with_reducible refine keeps_ite ?_ ?_
    | split
    | with_reducible refine Keeps.upd rfl rfl rfl rfl rfl rfl ?_

theorem bindImage_keeps {pm : Nat} {s0 : State} {src : Path} {b : List Byte} {s : State} (hk : Keeps pm s0 s) (hm : Sub 0x2080000 pm := by first | with_reducible assumption | (refine Sub.of ?_ (by with_reducible assumption); with_unfolding_all rfl)) :
    Keeps pm s0 (bindImage src b s) := by
  unfold bindImage
  try dsimp only
  repeat' first
    | with_reducible assumption
    | (with_reducible intro t; intros)
    | with_reducible refine foldl_keeps ?_ ?_
    | with_reducible refine modSlot_keeps ?_ 
    | with_reducible refine eraseLamb_keeps ?_ 
    | with_reducible refine keeps_ite ?_ ?_
    | split
    | with_reducible refine Keeps.upd rfl rfl rfl rfl rfl rfl ?_

theorem nextFree_keeps {pm : Nat} {s0 : State} {s : State} (hk : Keeps pm s0 s) (hm : Sub 0x8000000 pm := by first | with_reducible assumption | (refine Sub.of ?_ (by with_reducible assumption); with_unfolding_all rfl)) :
    Keeps pm s0 (nextFree s).2 := by
  unfold nextFree
  try dsimp only
  repeat' first
    | with_reducible assumption
    | (with_reducible intro t; intros)
    | with_reducible refine foldl_keeps ?_ ?_
    | with_reducible refine keeps_ite ?_ ?_
    | split
    | with_reducible refine Keeps.upd rfl rfl rfl rfl rfl rfl ?_
theorem nextFree_keepsP {pm : Nat} {s0 : State} {s : State} (hk : Keeps pm s0 s) {ra} {rb : State} (e : (nextFree s) = (ra, rb)) (hm : Sub 0x8000000 pm := by first | with_reducible assumption | (refine Sub.of ?_ (by with_reducible assumption); with_unfolding_all rfl)) :
    Keeps pm s0 rb := by
  have := nextFree_keeps (s0 := s0) (s := s) hk
  rw [e] at this
  exact this

theorem trainPort_keeps {pm : Nat} {s0 : State} {p : PortId} {s : State} (hk : Keeps pm s0 s) (hm : Sub 0x8000c00 pm := by first | with_reducible assumption | (refine Sub.of ?_ (by with_reducible assumption); with_unfolding_all rfl)) :
    Keeps pm s0 (trainPort p s) := by
  unfold trainPort
  try dsimp only
  repeat' first
    | with_reducible assumption
    | (with_reducible intro t; intros)
    | with_reducible refine foldl_keeps ?_ ?_
    | with_reducible refine State.modPort_keeps ?_ 
    | with_reducible refine nextFree_keeps ?_ 
    | with_reducible refine nextFree_keepsP ?_  (by assumption)
    | with_reducible refine keeps_ite ?_ ?_
    | split
    | with_reducible refine Keeps.upd rfl rfl rfl rfl rfl rfl ?_

theorem loadImage_keeps {pm : Nat} {s0 : State} {boot : BootCheck} {s : State} (hk : Keeps pm s0 s) (hm : Sub 0x3180801 pm := by first | with_reducible assumption | (refine Sub.of ?_ (by with_reducible assumption); with_unfolding_all rfl)) :
    Keeps pm s0 (loadImage boot s) := by
  unfold loadImage
  try dsimp only
  repeat' first
    | with_reducible assumption
    | (with_reducible intro t; intros)
    | with_reducible refine foldl_keeps ?_ ?_
    | with_reducible refine raise_keeps ?_ 
    | with_reducible refine startFault_keeps ?_ 
    | with_reducible refine enterPhase_keeps ?_ 
    | with_reducible refine updateSystem_keeps ?_ 
    | with_reducible refine relayout_keeps ?_ 
    | with_reducible refine keeps_ite ?_ ?_
    | split
    | with_reducible refine Keeps.upd rfl rfl rfl rfl rfl rfl ?_

theorem bootUp_keeps {pm : Nat} {s0 : State} {straps : Straps} {boot : BootCheck} {pwrdis : Bool} {s : State} (hk : Keeps pm s0 s) (hm : Sub 0xb180c0f pm := by first | with_reducible assumption | (refine Sub.of ?_ (by with_reducible assumption); with_unfolding_all rfl)) :
    Keeps pm s0 (bootUp straps boot pwrdis s) := by
  unfold bootUp
  try dsimp only
  repeat' first
    | with_reducible assumption
    | (with_reducible intro t; intros)
    | with_reducible refine foldl_keeps ?_ ?_
    | with_reducible refine takeSpeed_keeps ?_ 
    | with_reducible refine activatePending_keeps ?_ 
    | with_reducible refine trainPort_keeps ?_ 
    | with_reducible refine loadImage_keeps ?_ 
    | with_reducible refine keeps_ite ?_ ?_
    | split
    | with_reducible refine Keeps.upd rfl rfl rfl rfl rfl rfl ?_

theorem captureRecord_keeps {pm : Nat} {s0 : State} {n : ChanId} {r : ServoRec} {s : State} (hk : Keeps pm s0 s) (hm : Sub 0x400040 pm := by first | with_reducible assumption | (refine Sub.of ?_ (by with_reducible assumption); with_unfolding_all rfl)) :
    Keeps pm s0 (captureRecord n r s) := by
  unfold captureRecord
  try dsimp only
  repeat' first
    | with_reducible assumption
    | (with_reducible intro t; intros)
    | with_reducible refine foldl_keeps ?_ ?_
    | with_reducible refine State.modSdm_keeps ?_ 
    | with_reducible refine keeps_ite ?_ ?_
    | split
    | with_reducible refine Keeps.upd rfl rfl rfl rfl rfl rfl ?_

theorem publishRecords_keeps {pm : Nat} {s0 : State} {n : ChanId} {s : State} (hk : Keeps pm s0 s) (hm : Sub 0x400040 pm := by first | with_reducible assumption | (refine Sub.of ?_ (by with_reducible assumption); with_unfolding_all rfl)) :
    Keeps pm s0 (publishRecords n s) := by
  unfold publishRecords
  try dsimp only
  repeat' first
    | with_reducible assumption
    | (with_reducible intro t; intros)
    | with_reducible refine foldl_keeps ?_ ?_
    | with_reducible refine State.modSdm_keeps ?_ 
    | with_reducible refine captureRecord_keeps ?_ 
    | with_reducible refine keeps_ite ?_ ?_
    | split
    | with_reducible refine Keeps.upd rfl rfl rfl rfl rfl rfl ?_

theorem boundaryRecords_keeps {pm : Nat} {s0 : State} {s : State} (hk : Keeps pm s0 s) (hm : Sub 0x400040 pm := by first | with_reducible assumption | (refine Sub.of ?_ (by with_reducible assumption); with_unfolding_all rfl)) :
    Keeps pm s0 (boundaryRecords s) := by
  unfold boundaryRecords
  try dsimp only
  repeat' first
    | with_reducible assumption
    | (with_reducible intro t; intros)
    | with_reducible refine foldl_keeps ?_ ?_
    | with_reducible refine State.modSdm_keeps ?_ 
    | with_reducible refine publishRecords_keeps ?_ 
    | with_reducible refine keeps_ite ?_ ?_
    | split
    | with_reducible refine Keeps.upd rfl rfl rfl rfl rfl rfl ?_

theorem stopsFall_keeps {pm : Nat} {s0 : State} {n : ChanId} {rev : Bool} {s : State} (hk : Keeps pm s0 s) (hm : Sub 0x8040 pm := by first | with_reducible assumption | (refine Sub.of ?_ (by with_reducible assumption); with_unfolding_all rfl)) :
    Keeps pm s0 (stopsFall n rev s) := by
  unfold stopsFall
  try dsimp only
  repeat' first
    | with_reducible assumption
    | (with_reducible intro t; intros)
    | with_reducible refine foldl_keeps ?_ ?_
    | with_reducible refine stopNow_keeps ?_ 
    | with_reducible refine keeps_ite ?_ ?_
    | split
    | with_reducible refine Keeps.upd rfl rfl rfl rfl rfl rfl ?_

theorem endUnwanted_keeps {pm : Nat} {s0 : State} {s : State} (hk : Keeps pm s0 s) (hm : Sub 0x2c000 pm := by first | with_reducible assumption | (refine Sub.of ?_ (by with_reducible assumption); with_unfolding_all rfl)) :
    Keeps pm s0 (endUnwanted s) := by
  unfold endUnwanted
  try dsimp only
  repeat' first
    | with_reducible assumption
    | (with_reducible intro t; intros)
    | with_reducible refine foldl_keeps ?_ ?_
    | with_reducible refine endReg_keeps ?_ 
    | with_reducible refine keeps_ite ?_ ?_
    | split
    | with_reducible refine Keeps.upd rfl rfl rfl rfl rfl rfl ?_

theorem grantTokens_keeps {pm : Nat} {s0 : State} {s : State} (hk : Keeps pm s0 s) (hm : Sub 0x8 pm := by first | with_reducible assumption | (refine Sub.of ?_ (by with_reducible assumption); with_unfolding_all rfl)) :
    Keeps pm s0 (grantTokens s) := by
  unfold grantTokens
  try dsimp only
  repeat' first
    | with_reducible assumption
    | (with_reducible intro t; intros)
    | with_reducible refine foldl_keeps ?_ ?_
    | with_reducible refine keeps_ite ?_ ?_
    | split
    | with_reducible refine Keeps.upd rfl rfl rfl rfl rfl rfl ?_

theorem coveredRecord_keeps {pm : Nat} {s0 : State} {u : UnitId} {s : State} (hk : Keeps pm s0 s) (hm : Sub 0x40000 pm := by first | with_reducible assumption | (refine Sub.of ?_ (by with_reducible assumption); with_unfolding_all rfl)) :
    Keeps pm s0 (coveredRecord u s) := by
  unfold coveredRecord
  try dsimp only
  repeat' first
    | with_reducible assumption
    | (with_reducible intro t; intros)
    | with_reducible refine foldl_keeps ?_ ?_
    | with_reducible refine modFaultRec_keeps ?_ 
    | with_reducible refine keeps_ite ?_ ?_
    | split
    | with_reducible refine Keeps.upd rfl rfl rfl rfl rfl rfl ?_

theorem retiredRecord_keeps {pm : Nat} {s0 : State} {u : UnitId} {full : Bool} {s : State} (hk : Keeps pm s0 s) (hm : Sub 0x1040000 pm := by first | with_reducible assumption | (refine Sub.of ?_ (by with_reducible assumption); with_unfolding_all rfl)) :
    Keeps pm s0 (retiredRecord u full s) := by
  unfold retiredRecord
  try dsimp only
  repeat' first
    | with_reducible assumption
    | (with_reducible intro t; intros)
    | with_reducible refine foldl_keeps ?_ ?_
    | with_reducible refine raise_keeps ?_ 
    | with_reducible refine modFaultRec_keeps ?_ 
    | with_reducible refine keeps_ite ?_ ?_
    | split
    | with_reducible refine Keeps.upd rfl rfl rfl rfl rfl rfl ?_

theorem objectChanged_keeps {pm : Nat} {s0 : State} {index : ℕ} {sub : ℕ} {len : ℕ} {src : ℕ} {s : State} (hk : Keeps pm s0 s) (hm : Sub 0x1000000 pm := by first | with_reducible assumption | (refine Sub.of ?_ (by with_reducible assumption); with_unfolding_all rfl)) :
    Keeps pm s0 (objectChanged index sub len src s) := by
  unfold objectChanged
  try dsimp only
  repeat' first
    | with_reducible assumption
    | (with_reducible intro t; intros)
    | with_reducible refine foldl_keeps ?_ ?_
    | with_reducible refine raise_keeps ?_ 
    | with_reducible refine keeps_ite ?_ ?_
    | split
    | with_reducible refine Keeps.upd rfl rfl rfl rfl rfl rfl ?_

theorem eraseStripe_keeps {pm : Nat} {s0 : State} {die : Fin 2} {a : PageAddr} {s : State} (hk : Keeps pm s0 s) (hm : Sub 0x80000 pm := by first | with_reducible assumption | (refine Sub.of ?_ (by with_reducible assumption); with_unfolding_all rfl)) :
    Keeps pm s0 (eraseStripe die a s) := by
  unfold eraseStripe
  try dsimp only
  repeat' first
    | with_reducible assumption
    | (with_reducible intro t; intros)
    | with_reducible refine foldl_keeps ?_ ?_
    | with_reducible refine eraseBlock_keeps ?_ 
    | with_reducible refine keeps_ite ?_ ?_
    | split
    | with_reducible refine Keeps.upd rfl rfl rfl rfl rfl rfl ?_

theorem programNext_keeps {pm : Nat} {s0 : State} {who : Partition} {kind : ℕ} {owner : List Byte} {data : List Byte} {s : State} (hk : Keeps pm s0 s) (hm : Sub 0x80000 pm := by first | with_reducible assumption | (refine Sub.of ?_ (by with_reducible assumption); with_unfolding_all rfl)) :
    Keeps pm s0 (programNext who kind owner data s) := by
  unfold programNext
  try dsimp only
  repeat' first
    | with_reducible assumption
    | (with_reducible intro t; intros)
    | with_reducible refine foldl_keeps ?_ ?_
    | with_reducible refine clearErased_keeps ?_ 
    | with_reducible refine storePage_keeps ?_ 
    | with_reducible refine eraseStripe_keeps ?_ 
    | with_reducible refine keeps_ite ?_ ?_
    | split
    | with_reducible refine Keeps.upd rfl rfl rfl rfl rfl rfl ?_

theorem persistValue_keeps {pm : Nat} {s0 : State} {index : ℕ} {sub : ℕ} {v : List Byte} {src : ℕ} {s : State} (hk : Keeps pm s0 s) (hm : Sub 0x1080000 pm := by first | with_reducible assumption | (refine Sub.of ?_ (by with_reducible assumption); with_unfolding_all rfl)) :
    Keeps pm s0 (persistValue index sub v src s) := by
  unfold persistValue
  try dsimp only
  repeat' first
    | with_reducible assumption
    | (with_reducible intro t; intros)
    | with_reducible refine foldl_keeps ?_ ?_
    | with_reducible refine objectChanged_keeps ?_ 
    | with_reducible refine programNext_keeps ?_ 
    | with_reducible refine keeps_ite ?_ ?_
    | split
    | with_reducible refine Keeps.upd rfl rfl rfl rfl rfl rfl ?_

theorem setValue_keeps {pm : Nat} {s0 : State} {s : State} {index : ℕ} {sub : ℕ} {v : List Byte} (hk : Keeps pm s0 s) (hm : Sub 0x100000 pm := by first | with_reducible assumption | (refine Sub.of ?_ (by with_reducible assumption); with_unfolding_all rfl)) :
    Keeps pm s0 (setValue s index sub v) := by
  unfold setValue
  try dsimp only
  repeat' first
    | with_reducible assumption
    | (with_reducible intro t; intros)
    | with_reducible refine foldl_keeps ?_ ?_
    | with_reducible refine keeps_ite ?_ ?_
    | split
    | with_reducible refine Keeps.upd rfl rfl rfl rfl rfl rfl ?_

theorem servoReaderB_keeps {pm : Nat} {s0 : State} {h : HeadId} {s : State} (hk : Keeps pm s0 s) (hm : Sub 0x1180000 pm := by first | with_reducible assumption | (refine Sub.of ?_ (by with_reducible assumption); with_unfolding_all rfl)) :
    Keeps pm s0 (servoReaderB h s) := by
  unfold servoReaderB
  try dsimp only
  repeat' first
    | with_reducible assumption
    | (with_reducible intro t; intros)
    | with_reducible refine foldl_keeps ?_ ?_
    | with_reducible refine persistValue_keeps ?_ 
    | with_reducible refine setValue_keeps ?_ 
    | with_reducible refine keeps_ite ?_ ?_
    | split
    | with_reducible refine Keeps.upd rfl rfl rfl rfl rfl rfl ?_

theorem gateCheck_keeps {pm : Nat} {s0 : State} {fault : Bool} {n : ChanId} {s : State} (hk : Keeps pm s0 s) (hm : Sub 0x10efc40 pm := by first | with_reducible assumption | (refine Sub.of ?_ (by with_reducible assumption); with_unfolding_all rfl)) :
    Keeps pm s0 (gateCheck fault n s) := by
  unfold gateCheck
  try dsimp only
  repeat' first
    | with_reducible assumption
    | (with_reducible intro t; intros)
    | with_reducible refine foldl_keeps ?_ ?_
    | with_reducible refine State.modWr_keeps ?_ 
    | with_reducible refine abortSector_keeps ?_ 
    | with_reducible refine keeps_ite ?_ ?_
    | split
    | with_reducible refine Keeps.upd rfl rfl rfl rfl rfl rfl ?_

theorem modLadder_keeps {pm : Nat} {s0 : State} {n : ChanId} {o : MediaOp} {off : ℕ} {f : Ladder → Ladder} {s : State} (hk : Keeps pm s0 s) (hm : Sub 0x40 pm := by first | with_reducible assumption | (refine Sub.of ?_ (by with_reducible assumption); with_unfolding_all rfl)) :
    Keeps pm s0 (modLadder n o off f s) := by
  unfold modLadder
  try dsimp only
  repeat' first
    | with_reducible assumption
    | (with_reducible intro t; intros)
    | with_reducible refine foldl_keeps ?_ ?_
    | with_reducible refine State.modRwc_keeps ?_ 
    | with_reducible refine keeps_ite ?_ ?_
    | split
    | with_reducible refine Keeps.upd rfl rfl rfl rfl rfl rfl ?_

theorem stopLadders_keeps {pm : Nat} {s0 : State} {p : Ladder → Bool} {again : Bool} {n : ChanId} {s : State} (hk : Keeps pm s0 s) (hm : Sub 0x8040 pm := by first | with_reducible assumption | (refine Sub.of ?_ (by with_reducible assumption); with_unfolding_all rfl)) :
    Keeps pm s0 (stopLadders p again n s) := by
  unfold stopLadders
  try dsimp only
  repeat' first
    | with_reducible assumption
    | (with_reducible intro t; intros)
    | with_reducible refine foldl_keeps ?_ ?_
    | with_reducible refine stopNow_keeps ?_ 
    | with_reducible refine modLadder_keeps ?_ 
    | with_reducible refine keeps_ite ?_ ?_
    | split
    | with_reducible refine Keeps.upd rfl rfl rfl rfl rfl rfl ?_

end Sys2Proof.Machine
end

