-- ==== Sys2Proof/Laws/Frame05.lean ====
section
/-! SUPPORT. What each operation keeps (see Keeps), in the order in which operations call each other: givenUp to lockChanged. -/

set_option linter.unusedTactic false
set_option linter.unreachableTactic false
set_option Elab.async false

namespace Sys2Proof.Machine

theorem givenUp_keeps {pm : Nat} {s0 : State} {k : BandKey} {offs : List ℕ} {cause : ℕ} {s : State} (hk : Keeps pm s0 s) (hm : Sub 0x10a3c00 pm := by first | with_reducible assumption | (refine Sub.of ?_ (by with_reducible assumption); with_unfolding_all rfl)) :
    Keeps pm s0 (givenUp k offs cause s) := by
  unfold givenUp
  try dsimp only
  repeat' first
    | with_reducible assumption
    | (with_reducible intro t; intros)
    | with_reducible refine foldl_keeps ?_ ?_
    | with_reducible refine dropLines_keeps ?_ 
    | with_reducible refine markLost_keeps ?_ 
    | with_reducible refine keeps_ite ?_ ?_
    | split
    | with_reducible refine Keeps.upd rfl rfl rfl rfl rfl rfl ?_

theorem retireExcursion_keeps {pm : Nat} {s0 : State} {h : HeadId} {s : State} (hk : Keeps pm s0 s) (hm : Sub 0x10a3c40 pm := by first | with_reducible assumption | (refine Sub.of ?_ (by with_reducible assumption); with_unfolding_all rfl)) :
    Keeps pm s0 (retireExcursion h s) := by
  unfold retireExcursion
  try dsimp only
  repeat' first
    | with_reducible assumption
    | (with_reducible intro t; intros)
    | with_reducible refine foldl_keeps ?_ ?_
    | with_reducible refine State.modWr_keeps ?_ 
    | with_reducible refine givenUp_keeps ?_ 
    | with_reducible refine keeps_ite ?_ ?_
    | split
    | with_reducible refine Keeps.upd rfl rfl rfl rfl rfl rfl ?_

theorem retireRepairs_keeps {pm : Nat} {s0 : State} {h : HeadId} {s : State} (hk : Keeps pm s0 s) (hm : Sub 0x10abc40 pm := by first | with_reducible assumption | (refine Sub.of ?_ (by with_reducible assumption); with_unfolding_all rfl)) :
    Keeps pm s0 (retireRepairs h s) := by
  unfold retireRepairs
  try dsimp only
  repeat' first
    | with_reducible assumption
    | (with_reducible intro t; intros)
    | with_reducible refine foldl_keeps ?_ ?_
    | with_reducible refine State.modWr_keeps ?_ 
    | with_reducible refine withdrawOps_keeps ?_ 
    | with_reducible refine givenUp_keeps ?_ 
    | with_reducible refine keeps_ite ?_ ?_
    | split
    | with_reducible refine Keeps.upd rfl rfl rfl rfl rfl rfl ?_

theorem judgeHeld_keeps {pm : Nat} {s0 : State} {l : List Line} {k : BandKey} {s : State} (hk : Keeps pm s0 s) (hm : Sub 0x21000 pm := by first | with_reducible assumption | (refine Sub.of ?_ (by with_reducible assumption); with_unfolding_all rfl)) :
    Keeps pm s0 (judgeHeld l k s) := by
  induction l generalizing s with
  | nil => exact hk
  | cons i rest ih =>
    unfold judgeHeld
    dsimp only
    repeat' first
    | with_reducible assumption
    | with_reducible refine ih ?_
    | with_reducible refine setBand_keeps ?_
    | with_reducible refine mapLines_keeps ?_
    | split

theorem judgeBand_keeps {pm : Nat} {s0 : State} {k : BandKey} {s : State} (hk : Keeps pm s0 s) (hm : Sub 0x21000 pm := by first | with_reducible assumption | (refine Sub.of ?_ (by with_reducible assumption); with_unfolding_all rfl)) :
    Keeps pm s0 (judgeBand k s) := by
  unfold judgeBand
  try dsimp only
  repeat' first
    | with_reducible assumption
    | (with_reducible intro t; intros)
    | with_reducible refine foldl_keeps ?_ ?_
    | with_reducible refine dropLines_keeps ?_ 
    | with_reducible refine mapLines_keeps ?_ 
    | with_reducible refine judgeHeld_keeps ?_ 
    | with_reducible refine keeps_ite ?_ ?_
    | split
    | with_reducible refine Keeps.upd rfl rfl rfl rfl rfl rfl ?_

theorem retireLines_keeps {pm : Nat} {s0 : State} {full : Bool} {k : BandKey} {s : State} (hk : Keeps pm s0 s) (hm : Sub 0x10a3c00 pm := by first | with_reducible assumption | (refine Sub.of ?_ (by with_reducible assumption); with_unfolding_all rfl)) :
    Keeps pm s0 (retireLines full k s) := by
  unfold retireLines
  try dsimp only
  repeat' first
    | with_reducible assumption
    | (with_reducible intro t; intros)
    | with_reducible refine foldl_keeps ?_ ?_
    | with_reducible refine dropLines_keeps ?_ 
    | with_reducible refine mapLines_keeps ?_ 
    | with_reducible refine markLost_keeps ?_ 
    | with_reducible refine maintainBand_keeps ?_ 
    | with_reducible refine judgeBand_keeps ?_ 
    | with_reducible refine keeps_ite ?_ ?_
    | split
    | with_reducible refine Keeps.upd rfl rfl rfl rfl rfl rfl ?_

theorem retireCommands_keeps {pm : Nat} {s0 : State} {full : Bool} {k : BandKey} {s : State} (hk : Keeps pm s0 s) (hm : Sub 0x102fc40 pm := by first | with_reducible assumption | (refine Sub.of ?_ (by with_reducible assumption); with_unfolding_all rfl)) :
    Keeps pm s0 (retireCommands full k s) := by
  unfold retireCommands
  try dsimp only
  repeat' first
    | with_reducible assumption
    | (with_reducible intro t; intros)
    | with_reducible refine foldl_keeps ?_ ?_
    | with_reducible refine endUnacked_keeps ?_ 
    | with_reducible refine keeps_ite ?_ ?_
    | split
    | with_reducible refine Keeps.upd rfl rfl rfl rfl rfl rfl ?_

theorem retireBand_keeps {pm : Nat} {s0 : State} {full : Bool} {k : BandKey} {s : State} (hk : Keeps pm s0 s) (hm : Sub 0x1000 pm := by first | with_reducible assumption | (refine Sub.of ?_ (by with_reducible assumption); with_unfolding_all rfl)) :
    Keeps pm s0 (retireBand full k s) := by
  unfold retireBand
  try dsimp only
  repeat' first
    | with_reducible assumption
    | (with_reducible intro t; intros)
    | with_reducible refine foldl_keeps ?_ ?_
    | with_reducible refine setBand_keeps ?_ 
    | with_reducible refine setZoneState_keeps ?_ 
    | with_reducible refine keeps_ite ?_ ?_
    | split
    | with_reducible refine Keeps.upd rfl rfl rfl rfl rfl rfl ?_

theorem retireHeadEffects_keeps {pm : Nat} {s0 : State} {full : Bool} {h : HeadId} {s : State} (hk : Keeps pm s0 s) (hm : Sub 0x10efe40 pm := by first | with_reducible assumption | (refine Sub.of ?_ (by with_reducible assumption); with_unfolding_all rfl)) :
    Keeps pm s0 (retireHeadEffects full h s) := by
  unfold retireHeadEffects
  try dsimp only
  repeat' first
    | with_reducible assumption
    | (with_reducible intro t; intros)
    | with_reducible refine foldl_keeps ?_ ?_
    | with_reducible refine State.modWr_keeps ?_ 
    | with_reducible refine withdrawOps_keeps ?_ 
    | with_reducible refine endRun_keeps ?_ 
    | with_reducible refine stopRead_keeps ?_ 
    | with_reducible refine stopEqs_keeps ?_ 
    | with_reducible refine stopRun_keeps ?_ 
    | with_reducible refine gateCheck_keeps ?_ 
    | with_reducible refine stopLadders_keeps ?_ 
    | with_reducible refine retireExcursion_keeps ?_ 
    | with_reducible refine retireRepairs_keeps ?_ 
    | with_reducible refine retireLines_keeps ?_ 
    | with_reducible refine retireCommands_keeps ?_ 
    | with_reducible refine retireBand_keeps ?_ 
    | with_reducible refine keeps_ite ?_ ?_
    | split
    | with_reducible refine Keeps.upd rfl rfl rfl rfl rfl rfl ?_

theorem coverReaders_keeps {pm : Nat} {s0 : State} {h : HeadId} {s : State} (hk : Keeps pm s0 s) (hm : Sub 0x40000 pm := by first | with_reducible assumption | (refine Sub.of ?_ (by with_reducible assumption); with_unfolding_all rfl)) :
    Keeps pm s0 (coverReaders h s) := by
  unfold coverReaders
  try dsimp only
  repeat' first
    | with_reducible assumption
    | (with_reducible intro t; intros)
    | with_reducible refine foldl_keeps ?_ ?_
    | with_reducible refine coveredRecord_keeps ?_ 
    | with_reducible refine keeps_ite ?_ ?_
    | split
    | with_reducible refine Keeps.upd rfl rfl rfl rfl rfl rfl ?_

theorem decideChannelOf_keeps {pm : Nat} {s0 : State} {n : ChanId} {s : State} (hk : Keeps pm s0 s) (hm : Sub 0x40000 pm := by first | with_reducible assumption | (refine Sub.of ?_ (by with_reducible assumption); with_unfolding_all rfl)) :
    Keeps pm s0 (decideChannelOf n s) := by
  unfold decideChannelOf
  try dsimp only
  repeat' first
    | with_reducible assumption
    | (with_reducible intro t; intros)
    | with_reducible refine foldl_keeps ?_ ?_
    | with_reducible refine decideUnit_keeps ?_ 
    | with_reducible refine keeps_ite ?_ ?_
    | split
    | with_reducible refine Keeps.upd rfl rfl rfl rfl rfl rfl ?_

theorem retireNow_keeps {pm : Nat} {s0 : State} {u : UnitId} {full : Bool} {s : State} (hk : Keeps pm s0 s) (hm : Sub 0x51efe60 pm := by first | with_reducible assumption | (refine Sub.of ?_ (by with_reducible assumption); with_unfolding_all rfl)) :
    Keeps pm s0 (retireNow u full s) := by
  unfold retireNow
  try dsimp only
  repeat' first
    | with_reducible assumption
    | (with_reducible intro t; intros)
    | with_reducible refine foldl_keeps ?_ ?_
    | with_reducible refine State.modRwc_keeps ?_ 
    | with_reducible refine unloadChans_keeps ?_ 
    | with_reducible refine stopRun_keeps ?_ 
    | with_reducible refine coveredRecord_keeps ?_ 
    | with_reducible refine retiredRecord_keeps ?_ 
    | with_reducible refine servoReaderB_keeps ?_ 
    | with_reducible refine retireHeadEffects_keeps ?_ 
    | with_reducible refine coverReaders_keeps ?_ 
    | with_reducible refine decideChannelOf_keeps ?_ 
    | with_reducible refine keeps_ite ?_ ?_
    | split
    | with_reducible refine Keeps.upd rfl rfl rfl rfl rfl rfl ?_

theorem retirementInstant_keeps {pm : Nat} {s0 : State} {s : State} (hk : Keeps pm s0 s) (hm : Sub 0x51efee1 pm := by first | with_reducible assumption | (refine Sub.of ?_ (by with_reducible assumption); with_unfolding_all rfl)) :
    Keeps pm s0 (retirementInstant s) := by
  unfold retirementInstant
  try dsimp only
  repeat' first
    | with_reducible assumption
    | (with_reducible intro t; intros)
    | with_reducible refine foldl_keeps ?_ ?_
    | with_reducible refine setFlag_keeps ?_ 
    | with_reducible refine noteWarning_keeps ?_ 
    | with_reducible refine loadsDone_keeps ?_ 
    | with_reducible refine retireNow_keeps ?_ 
    | with_reducible refine keeps_ite ?_ ?_
    | split
    | with_reducible refine Keeps.upd rfl rfl rfl rfl rfl rfl ?_

theorem boundaryRest_keeps {pm : Nat} {s0 : State} {s : State} (hk : Keeps pm s0 s) (hm : Sub 0x51efee9 pm := by first | with_reducible assumption | (refine Sub.of ?_ (by with_reducible assumption); with_unfolding_all rfl)) :
    Keeps pm s0 (boundaryRest s) := by
  unfold boundaryRest
  try dsimp only
  repeat' first
    | with_reducible assumption
    | (with_reducible intro t; intros)
    | with_reducible refine foldl_keeps ?_ ?_
    | with_reducible refine noteWarning_keeps ?_ 
    | with_reducible refine progress_keeps ?_ 
    | with_reducible refine modeAtBoundary_keeps ?_ 
    | with_reducible refine stopsFall_keeps ?_ 
    | with_reducible refine endUnwanted_keeps ?_ 
    | with_reducible refine grantTokens_keeps ?_ 
    | with_reducible refine retirementInstant_keeps ?_ 
    | with_reducible refine keeps_ite ?_ ?_
    | split
    | with_reducible refine Keeps.upd rfl rfl rfl rfl rfl rfl ?_

theorem withdrawAssist_keeps {pm : Nat} {s0 : State} {n : ChanId} {s : State} (hk : Keeps pm s0 s) (hm : Sub 0x40 pm := by first | with_reducible assumption | (refine Sub.of ?_ (by with_reducible assumption); with_unfolding_all rfl)) :
    Keeps pm s0 (withdrawAssist n s) := by
  unfold withdrawAssist
  try dsimp only
  repeat' first
    | with_reducible assumption
    | (with_reducible intro t; intros)
    | with_reducible refine foldl_keeps ?_ ?_
    | with_reducible refine State.modWr_keeps ?_ 
    | with_reducible refine keeps_ite ?_ ?_
    | split
    | with_reducible refine Keeps.upd rfl rfl rfl rfl rfl rfl ?_

theorem capCheck_keeps {pm : Nat} {s0 : State} {fresh : Bool} {n : ChanId} {s : State} (hk : Keeps pm s0 s) (hm : Sub 0x40 pm := by first | with_reducible assumption | (refine Sub.of ?_ (by with_reducible assumption); with_unfolding_all rfl)) :
    Keeps pm s0 (capCheck fresh n s) := by
  unfold capCheck
  try dsimp only
  repeat' first
    | with_reducible assumption
    | (with_reducible intro t; intros)
    | with_reducible refine foldl_keeps ?_ ?_
    | with_reducible refine withdrawAssist_keeps ?_ 
    | with_reducible refine keeps_ite ?_ ?_
    | split
    | with_reducible refine Keeps.upd rfl rfl rfl rfl rfl rfl ?_

theorem publishCaps_keeps {pm : Nat} {s0 : State} {s : State} (hk : Keeps pm s0 s) (hm : Sub 0x1000948 pm := by first | with_reducible assumption | (refine Sub.of ?_ (by with_reducible assumption); with_unfolding_all rfl)) :
    Keeps pm s0 (publishCaps s) := by
  unfold publishCaps
  try dsimp only
  repeat' first
    | with_reducible assumption
    | (with_reducible intro t; intros)
    | with_reducible refine foldl_keeps ?_ ?_
    | with_reducible refine raise_keeps ?_ 
    | with_reducible refine setFlag_keeps ?_ 
    | with_reducible refine capCheck_keeps ?_ 
    | with_reducible refine keeps_ite ?_ ?_
    | split
    | with_reducible refine Keeps.upd rfl rfl rfl rfl rfl rfl ?_

theorem calValueSwaps_keeps {pm : Nat} {s0 : State} {x : CalValue} {s : State} (hk : Keeps pm s0 s) (hm : Sub 0x11800c0 pm := by first | with_reducible assumption | (refine Sub.of ?_ (by with_reducible assumption); with_unfolding_all rfl)) :
    Keeps pm s0 (calValueSwaps x s) := by
  unfold calValueSwaps
  try dsimp only
  repeat' first
    | with_reducible assumption
    | (with_reducible intro t; intros)
    | with_reducible refine foldl_keeps ?_ ?_
    | with_reducible refine State.modHead_keeps ?_ 
    | with_reducible refine persistValue_keeps ?_ 
    | with_reducible refine setValue_keeps ?_ 
    | with_reducible refine capCheck_keeps ?_ 
    | with_reducible refine keeps_ite ?_ ?_
    | split
    | with_reducible refine Keeps.upd rfl rfl rfl rfl rfl rfl ?_

theorem calSwap_keeps {pm : Nat} {s0 : State} {which : CalValue → Bool} {s : State} (hk : Keeps pm s0 s) (hm : Sub 0x11802c0 pm := by first | with_reducible assumption | (refine Sub.of ?_ (by with_reducible assumption); with_unfolding_all rfl)) :
    Keeps pm s0 (calSwap which s) := by
  unfold calSwap
  try dsimp only
  repeat' first
    | with_reducible assumption
    | (with_reducible intro t; intros)
    | with_reducible refine foldl_keeps ?_ ?_
    | with_reducible refine acceptResult_keeps ?_ 
    | with_reducible refine calValueSwaps_keeps ?_ 
    | with_reducible refine keeps_ite ?_ ?_
    | split
    | with_reducible refine Keeps.upd rfl rfl rfl rfl rfl rfl ?_

theorem calSwapTick_keeps {pm : Nat} {s0 : State} {s : State} (hk : Keeps pm s0 s) (hm : Sub 0x11802c0 pm := by first | with_reducible assumption | (refine Sub.of ?_ (by with_reducible assumption); with_unfolding_all rfl)) :
    Keeps pm s0 (calSwapTick s) := by
  unfold calSwapTick
  try dsimp only
  repeat' first
    | with_reducible assumption
    | (with_reducible intro t; intros)
    | with_reducible refine foldl_keeps ?_ ?_
    | with_reducible refine calSwap_keeps ?_ 
    | with_reducible refine keeps_ite ?_ ?_
    | split
    | with_reducible refine Keeps.upd rfl rfl rfl rfl rfl rfl ?_

theorem newAssist_keeps {pm : Nat} {s0 : State} {old : State} {h : HeadId} {s : State} (hk : Keeps pm s0 s) (hm : Sub 0xc0 pm := by first | with_reducible assumption | (refine Sub.of ?_ (by with_reducible assumption); with_unfolding_all rfl)) :
    Keeps pm s0 (newAssist old h s) := by
  unfold newAssist
  try dsimp only
  repeat' first
    | with_reducible assumption
    | (with_reducible intro t; intros)
    | with_reducible refine foldl_keeps ?_ ?_
    | with_reducible refine State.modHead_keeps ?_ 
    | with_reducible refine capCheck_keeps ?_ 
    | with_reducible refine keeps_ite ?_ ?_
    | split
    | with_reducible refine Keeps.upd rfl rfl rfl rfl rfl rfl ?_

theorem finishRead_keeps {pm : Nat} {s0 : State} {n : ChanId} {inSector : Bool} {s : State} (hk : Keeps pm s0 s) (hm : Sub 0x8040 pm := by first | with_reducible assumption | (refine Sub.of ?_ (by with_reducible assumption); with_unfolding_all rfl)) :
    Keeps pm s0 (finishRead n inSector s) := by
  unfold finishRead
  try dsimp only
  repeat' first
    | with_reducible assumption
    | (with_reducible intro t; intros)
    | with_reducible refine foldl_keeps ?_ ?_
    | with_reducible refine State.modRwc_keeps ?_ 
    | with_reducible refine modeFrame_keeps ?_ 
    | with_reducible refine stopRead_keeps ?_ 
    | with_reducible refine keeps_ite ?_ ?_
    | split
    | with_reducible refine Keeps.upd rfl rfl rfl rfl rfl rfl ?_

theorem speedChanged_keeps {pm : Nat} {s0 : State} {s : State} (hk : Keeps pm s0 s) (hm : Sub 0x8069 pm := by first | with_reducible assumption | (refine Sub.of ?_ (by with_reducible assumption); with_unfolding_all rfl)) :
    Keeps pm s0 (speedChanged s) := by
  unfold speedChanged
  try dsimp only
  repeat' first
    | with_reducible assumption
    | (with_reducible intro t; intros)
    | with_reducible refine foldl_keeps ?_ ?_
    | with_reducible refine changeSpeed_keeps ?_ 
    | with_reducible refine finishRead_keeps ?_ 
    | with_reducible refine keeps_ite ?_ ?_
    | split
    | with_reducible refine Keeps.upd rfl rfl rfl rfl rfl rfl ?_

theorem newSpeed_keeps {pm : Nat} {s0 : State} {old : State} {s : State} (hk : Keeps pm s0 s) (hm : Sub 0x80e9 pm := by first | with_reducible assumption | (refine Sub.of ?_ (by with_reducible assumption); with_unfolding_all rfl)) :
    Keeps pm s0 (newSpeed old s) := by
  unfold newSpeed
  try dsimp only
  repeat' first
    | with_reducible assumption
    | (with_reducible intro t; intros)
    | with_reducible refine foldl_keeps ?_ ?_
    | with_reducible refine speedChanged_keeps ?_ 
    | with_reducible refine keeps_ite ?_ ?_
    | split
    | with_reducible refine Keeps.upd rfl rfl rfl rfl rfl rfl ?_

theorem calTouched_keeps {pm : Nat} {s0 : State} {l : List (ℕ × ℕ)} {s : State} (hk : Keeps pm s0 s) (hm : Sub 0x1000200 pm := by first | with_reducible assumption | (refine Sub.of ?_ (by with_reducible assumption); with_unfolding_all rfl)) :
    Keeps pm s0 (calTouched l s) := by
  unfold calTouched
  try dsimp only
  repeat' first
    | with_reducible assumption
    | (with_reducible intro t; intros)
    | with_reducible refine foldl_keeps ?_ ?_
    | with_reducible refine recordResult_keeps ?_ 
    | with_reducible refine keeps_ite ?_ ?_
    | split
    | with_reducible refine Keeps.upd rfl rfl rfl rfl rfl rfl ?_

theorem commitSwap_keeps {pm : Nat} {s0 : State} {s : State} (hk : Keeps pm s0 s) (hm : Sub 0x12082e9 pm := by first | with_reducible assumption | (refine Sub.of ?_ (by with_reducible assumption); with_unfolding_all rfl)) :
    Keeps pm s0 (commitSwap s) := by
  unfold commitSwap
  try dsimp only
  repeat' first
    | with_reducible assumption
    | (with_reducible intro t; intros)
    | with_reducible refine foldl_keeps ?_ ?_
    | with_reducible refine State.modCe_keeps ?_ 
    | with_reducible refine State.modRwc_keeps ?_ 
    | with_reducible refine State.modWr_keeps ?_ 
    | with_reducible refine newAssist_keeps ?_ 
    | with_reducible refine newSpeed_keeps ?_ 
    | with_reducible refine calTouched_keeps ?_ 
    | with_reducible refine keeps_ite ?_ ?_
    | split
    | with_reducible refine Keeps.upd rfl rfl rfl rfl rfl rfl ?_

theorem gateCheckAll_keeps {pm : Nat} {s0 : State} {fault : Bool} {s : State} (hk : Keeps pm s0 s) (hm : Sub 0x10efc40 pm := by first | with_reducible assumption | (refine Sub.of ?_ (by with_reducible assumption); with_unfolding_all rfl)) :
    Keeps pm s0 (gateCheckAll fault s) := by
  unfold gateCheckAll
  try dsimp only
  repeat' first
    | with_reducible assumption
    | (with_reducible intro t; intros)
    | with_reducible refine foldl_keeps ?_ ?_
    | with_reducible refine gateCheck_keeps ?_ 
    | with_reducible refine keeps_ite ?_ ?_
    | split
    | with_reducible refine Keeps.upd rfl rfl rfl rfl rfl rfl ?_

theorem dropWrites_keeps {pm : Nat} {s0 : State} {s : State} (hk : Keeps pm s0 s) (hm : Sub 0x10efe40 pm := by first | with_reducible assumption | (refine Sub.of ?_ (by with_reducible assumption); with_unfolding_all rfl)) :
    Keeps pm s0 (dropWrites s) := by
  unfold dropWrites
  try dsimp only
  repeat' first
    | with_reducible assumption
    | (with_reducible intro t; intros)
    | with_reducible refine foldl_keeps ?_ ?_
    | with_reducible refine State.modSdm_keeps ?_ 
    | with_reducible refine stopRuns_keeps ?_ 
    | with_reducible refine gateCheckAll_keeps ?_ 
    | with_reducible refine keeps_ite ?_ ?_
    | split
    | with_reducible refine Keeps.upd rfl rfl rfl rfl rfl rfl ?_

theorem startHoldtest_keeps {pm : Nat} {s0 : State} {s : State} (hk : Keeps pm s0 s) (hm : Sub 0x21 pm := by first | with_reducible assumption | (refine Sub.of ?_ (by with_reducible assumption); with_unfolding_all rfl)) :
    Keeps pm s0 (startHoldtest s) := by
  unfold startHoldtest
  try dsimp only
  repeat' first
    | with_reducible assumption
    | (with_reducible intro t; intros)
    | with_reducible refine foldl_keeps ?_ ?_
    | with_reducible refine sendFrame_keeps ?_ 
    | with_reducible refine keeps_ite ?_ ?_
    | split
    | with_reducible refine Keeps.upd rfl rfl rfl rfl rfl rfl ?_

theorem onLocked_keeps {pm : Nat} {s0 : State} {s : State} (hk : Keeps pm s0 s) (hm : Sub 0x50efee9 pm := by first | with_reducible assumption | (refine Sub.of ?_ (by with_reducible assumption); with_unfolding_all rfl)) :
    Keeps pm s0 (onLocked s) := by
  unfold onLocked
  try dsimp only
  repeat' first
    | with_reducible assumption
    | (with_reducible intro t; intros)
    | with_reducible refine foldl_keeps ?_ ?_
    | with_reducible refine enterPhase_keeps ?_ 
    | with_reducible refine loadsDone_keeps ?_ 
    | with_reducible refine queueLoads_keeps ?_ 
    | with_reducible refine startHoldtest_keeps ?_ 
    | with_reducible refine keeps_ite ?_ ?_
    | split
    | with_reducible refine Keeps.upd rfl rfl rfl rfl rfl rfl ?_

theorem driveRestart_keeps {pm : Nat} {s0 : State} {s : State} (hk : Keeps pm s0 s) (hm : Sub 0x50efe61 pm := by first | with_reducible assumption | (refine Sub.of ?_ (by with_reducible assumption); with_unfolding_all rfl)) :
    Keeps pm s0 (driveRestart s) := by
  unfold driveRestart
  try dsimp only
  repeat' first
    | with_reducible assumption
    | (with_reducible intro t; intros)
    | with_reducible refine foldl_keeps ?_ ?_
    | with_reducible refine sendSpin_keeps ?_ 
    | with_reducible refine unloadAll_keeps ?_ 
    | with_reducible refine keeps_ite ?_ ?_
    | split
    | with_reducible refine Keeps.upd rfl rfl rfl rfl rfl rfl ?_

theorem enterHoldover_keeps {pm : Nat} {s0 : State} {s : State} (hk : Keeps pm s0 s) (hm : Sub 0x50efe69 pm := by first | with_reducible assumption | (refine Sub.of ?_ (by with_reducible assumption); with_unfolding_all rfl)) :
    Keeps pm s0 (enterHoldover s) := by
  unfold enterHoldover
  try dsimp only
  repeat' first
    | with_reducible assumption
    | (with_reducible intro t; intros)
    | with_reducible refine foldl_keeps ?_ ?_
    | with_reducible refine stopRead_keeps ?_ 
    | with_reducible refine stopLadders_keeps ?_ 
    | with_reducible refine driveRestart_keeps ?_ 
    | with_reducible refine keeps_ite ?_ ?_
    | split
    | with_reducible refine Keeps.upd rfl rfl rfl rfl rfl rfl ?_

theorem enterStopped_keeps {pm : Nat} {s0 : State} {s : State} (hk : Keeps pm s0 s) (hm : Sub 0x8048 pm := by first | with_reducible assumption | (refine Sub.of ?_ (by with_reducible assumption); with_unfolding_all rfl)) :
    Keeps pm s0 (enterStopped s) := by
  unfold enterStopped
  try dsimp only
  repeat' first
    | with_reducible assumption
    | (with_reducible intro t; intros)
    | with_reducible refine foldl_keeps ?_ ?_
    | with_reducible refine stopRead_keeps ?_ 
    | with_reducible refine stopLadders_keeps ?_ 
    | with_reducible refine keeps_ite ?_ ?_
    | split
    | with_reducible refine Keeps.upd rfl rfl rfl rfl rfl rfl ?_

theorem enterTick_keeps {pm : Nat} {s0 : State} {t : TickState} {s : State} (hk : Keeps pm s0 s) (hm : Sub 0x50efee9 pm := by first | with_reducible assumption | (refine Sub.of ?_ (by with_reducible assumption); with_unfolding_all rfl)) :
    Keeps pm s0 (enterTick t s) := by
  unfold enterTick
  try dsimp only
  repeat' first
    | with_reducible assumption
    | (with_reducible intro t; intros)
    | with_reducible refine foldl_keeps ?_ ?_
    | with_reducible refine onLocked_keeps ?_ 
    | with_reducible refine enterHoldover_keeps ?_ 
    | with_reducible refine enterStopped_keeps ?_ 
    | with_reducible refine keeps_ite ?_ ?_
    | split
    | with_reducible refine Keeps.upd rfl rfl rfl rfl rfl rfl ?_

theorem changeTick_keeps {pm : Nat} {s0 : State} {s : State} (hk : Keeps pm s0 s) (hm : Sub 0x50efee9 pm := by first | with_reducible assumption | (refine Sub.of ?_ (by with_reducible assumption); with_unfolding_all rfl)) :
    Keeps pm s0 (changeTick s) := by
  unfold changeTick
  try dsimp only
  repeat' first
    | with_reducible assumption
    | (with_reducible intro t; intros)
    | with_reducible refine foldl_keeps ?_ ?_
    | with_reducible refine raise_keeps ?_ 
    | with_reducible refine setFlag_keeps ?_ 
    | with_reducible refine dropWrites_keeps ?_ 
    | with_reducible refine enterTick_keeps ?_ 
    | with_reducible refine keeps_ite ?_ ?_
    | split
    | with_reducible refine Keeps.upd rfl rfl rfl rfl rfl rfl ?_

theorem takeEarly_keeps {pm : Nat} {s0 : State} {n : ChanId} {v : CalValue} {s : State} (hk : Keeps pm s0 s) (hm : Sub 0x11802c0 pm := by first | with_reducible assumption | (refine Sub.of ?_ (by with_reducible assumption); with_unfolding_all rfl)) :
    Keeps pm s0 (takeEarly n v s) := by
  unfold takeEarly
  try dsimp only
  repeat' first
    | with_reducible assumption
    | (with_reducible intro t; intros)
    | with_reducible refine foldl_keeps ?_ ?_
    | with_reducible refine calSwap_keeps ?_ 
    | with_reducible refine keeps_ite ?_ ?_
    | split
    | with_reducible refine Keeps.upd rfl rfl rfl rfl rfl rfl ?_

theorem calSwapChannel_keeps {pm : Nat} {s0 : State} {n : ChanId} {s : State} (hk : Keeps pm s0 s) (hm : Sub 0x11802c0 pm := by first | with_reducible assumption | (refine Sub.of ?_ (by with_reducible assumption); with_unfolding_all rfl)) :
    Keeps pm s0 (calSwapChannel n s) := by
  unfold calSwapChannel
  try dsimp only
  repeat' first
    | with_reducible assumption
    | (with_reducible intro t; intros)
    | with_reducible refine foldl_keeps ?_ ?_
    | with_reducible refine calSwap_keeps ?_ 
    | with_reducible refine takeEarly_keeps ?_ 
    | with_reducible refine keeps_ite ?_ ?_
    | split
    | with_reducible refine Keeps.upd rfl rfl rfl rfl rfl rfl ?_

theorem chanTakes_keeps {pm : Nat} {s0 : State} {n : ChanId} {s : State} (hk : Keeps pm s0 s) (hm : Sub 0x200040 pm := by first | with_reducible assumption | (refine Sub.of ?_ (by with_reducible assumption); with_unfolding_all rfl)) :
    Keeps pm s0 (chanTakes n s) := by
  unfold chanTakes
  try dsimp only
  repeat' first
    | with_reducible assumption
    | (with_reducible intro t; intros)
    | with_reducible refine foldl_keeps ?_ ?_
    | with_reducible refine State.modRwc_keeps ?_ 
    | with_reducible refine keeps_ite ?_ ?_
    | split
    | with_reducible refine Keeps.upd rfl rfl rfl rfl rfl rfl ?_

theorem recountBands_keeps {pm : Nat} {s0 : State} {p : BandRec → Bool} {s : State} (hk : Keeps pm s0 s) (hm : Sub 0x1000 pm := by first | with_reducible assumption | (refine Sub.of ?_ (by with_reducible assumption); with_unfolding_all rfl)) :
    Keeps pm s0 (recountBands p s) := by
  unfold recountBands
  try dsimp only
  repeat' first
    | with_reducible assumption
    | (with_reducible intro t; intros)
    | with_reducible refine foldl_keeps ?_ ?_
    | with_reducible refine keeps_ite ?_ ?_
    | split
    | with_reducible refine Keeps.upd rfl rfl rfl rfl rfl rfl ?_

theorem finishCommit_keeps {pm : Nat} {s0 : State} {s : State} (hk : Keeps pm s0 s) (hm : Sub 0x1781c00 pm := by first | with_reducible assumption | (refine Sub.of ?_ (by with_reducible assumption); with_unfolding_all rfl)) :
    Keeps pm s0 (finishCommit s) := by
  unfold finishCommit
  try dsimp only
  repeat' first
    | with_reducible assumption
    | (with_reducible intro t; intros)
    | with_reducible refine foldl_keeps ?_ ?_
    | with_reducible refine setFlag_keeps ?_ 
    | with_reducible refine answerWaiter_keeps ?_ 
    | with_reducible refine persistValue_keeps ?_ 
    | with_reducible refine recountBands_keeps ?_ 
    | with_reducible refine keeps_ite ?_ ?_
    | split
    | with_reducible refine Keeps.upd rfl rfl rfl rfl rfl rfl ?_

theorem endCommit_keeps {pm : Nat} {s0 : State} {s : State} (hk : Keeps pm s0 s) (hm : Sub 0x1781c00 pm := by first | with_reducible assumption | (refine Sub.of ?_ (by with_reducible assumption); with_unfolding_all rfl)) :
    Keeps pm s0 (endCommit s) := by
  unfold endCommit
  try dsimp only
  repeat' first
    | with_reducible assumption
    | (with_reducible intro t; intros)
    | with_reducible refine foldl_keeps ?_ ?_
    | with_reducible refine finishCommit_keeps ?_ 
    | with_reducible refine keeps_ite ?_ ?_
    | split
    | with_reducible refine Keeps.upd rfl rfl rfl rfl rfl rfl ?_

theorem idleChannelsTake_keeps {pm : Nat} {s0 : State} {s : State} (hk : Keeps pm s0 s) (hm : Sub 0x1781ec0 pm := by first | with_reducible assumption | (refine Sub.of ?_ (by with_reducible assumption); with_unfolding_all rfl)) :
    Keeps pm s0 (idleChannelsTake s) := by
  unfold idleChannelsTake
  try dsimp only
  repeat' first
    | with_reducible assumption
    | (with_reducible intro t; intros)
    | with_reducible refine foldl_keeps ?_ ?_
    | with_reducible refine calSwapChannel_keeps ?_ 
    | with_reducible refine chanTakes_keeps ?_ 
    | with_reducible refine endCommit_keeps ?_ 
    | with_reducible refine keeps_ite ?_ ?_
    | split
    | with_reducible refine Keeps.upd rfl rfl rfl rfl rfl rfl ?_

theorem sendLoadCmd_keeps {pm : Nat} {s0 : State} {s : State} {n : ChanId} (hk : Keeps pm s0 s) (hm : Sub 0x60 pm := by first | with_reducible assumption | (refine Sub.of ?_ (by with_reducible assumption); with_unfolding_all rfl)) :
    Keeps pm s0 (sendLoadCmd s n) := by
  unfold sendLoadCmd
  try dsimp only
  repeat' first
    | with_reducible assumption
    | (with_reducible intro t; intros)
    | with_reducible refine foldl_keeps ?_ ?_
    | with_reducible refine State.modCe_keeps ?_ 
    | with_reducible refine sendFrame_keeps ?_ 
    | with_reducible refine keeps_ite ?_ ?_
    | split
    | with_reducible refine Keeps.upd rfl rfl rfl rfl rfl rfl ?_

theorem boundaryServo_keeps {pm : Nat} {s0 : State} {s : State} (hk : Keeps pm s0 s) (hm : Sub 0x57effe9 pm := by first | with_reducible assumption | (refine Sub.of ?_ (by with_reducible assumption); with_unfolding_all rfl)) :
    Keeps pm s0 (boundaryServo s) := by
  unfold boundaryServo
  try dsimp only
  repeat' first
    | with_reducible assumption
    | (with_reducible intro t; intros)
    | with_reducible refine foldl_keeps ?_ ?_
    | with_reducible refine publishCaps_keeps ?_ 
    | with_reducible refine calSwapTick_keeps ?_ 
    | with_reducible refine commitSwap_keeps ?_ 
    | with_reducible refine changeTick_keeps ?_ 
    | with_reducible refine idleChannelsTake_keeps ?_ 
    | with_reducible refine sendLoadCmd_keeps ?_ 
    | with_reducible refine keeps_ite ?_ ?_
    | split
    | with_reducible refine Keeps.upd rfl rfl rfl rfl rfl rfl ?_

theorem noteBand_keeps {pm : Nat} {s0 : State} {k : BandKey} {s : State} (hk : Keeps pm s0 s) (hm : Sub 0x80000 pm := by first | with_reducible assumption | (refine Sub.of ?_ (by with_reducible assumption); with_unfolding_all rfl)) :
    Keeps pm s0 (noteBand k s) := by
  unfold noteBand
  try dsimp only
  repeat' first
    | with_reducible assumption
    | (with_reducible intro t; intros)
    | with_reducible refine foldl_keeps ?_ ?_
    | with_reducible refine keeps_ite ?_ ?_
    | split
    | with_reducible refine Keeps.upd rfl rfl rfl rfl rfl rfl ?_

theorem buildNs_keeps {pm : Nat} {s0 : State} {nsid : ℕ} {zoned : Bool} {bands : List BandKey} {s : State} (hk : Keeps pm s0 s) (hm : Sub 0x83000 pm := by first | with_reducible assumption | (refine Sub.of ?_ (by with_reducible assumption); with_unfolding_all rfl)) :
    Keeps pm s0 (buildNs nsid zoned bands s) := by
  unfold buildNs
  try dsimp only
  repeat' first
    | with_reducible assumption
    | (with_reducible intro t; intros)
    | with_reducible refine foldl_keeps ?_ ?_
    | with_reducible refine modBand_keeps ?_ 
    | with_reducible refine noteBand_keeps ?_ 
    | with_reducible refine keeps_ite ?_ ?_
    | split
    | with_reducible refine Keeps.upd rfl rfl rfl rfl rfl rfl ?_

theorem calMonitor_keeps {pm : Nat} {s0 : State} {n : ChanId} {m : ℕ} {s : State} (hk : Keeps pm s0 s) (hm : Sub 0x200 pm := by first | with_reducible assumption | (refine Sub.of ?_ (by with_reducible assumption); with_unfolding_all rfl)) :
    Keeps pm s0 (calMonitor n m s) := by
  unfold calMonitor
  try dsimp only
  repeat' first
    | with_reducible assumption
    | (with_reducible intro t; intros)
    | with_reducible refine foldl_keeps ?_ ?_
    | with_reducible refine keeps_ite ?_ ?_
    | split
    | with_reducible refine Keeps.upd rfl rfl rfl rfl rfl rfl ?_

theorem calSectorGood_keeps {pm : Nat} {s0 : State} {s : State} {c : Codeword} {e : CaptureEntry} {d : Decoded} {w : BitVec 37120} (hk : Keeps pm s0 s) (hm : Sub 0x200 pm := by first | with_reducible assumption | (refine Sub.of ?_ (by with_reducible assumption); with_unfolding_all rfl)) :
    Keeps pm s0 (calSectorGood s c e d w) := by
  unfold calSectorGood
  try dsimp only
  repeat' first
    | with_reducible assumption
    | (with_reducible intro t; intros)
    | with_reducible refine foldl_keeps ?_ ?_
    | with_reducible refine keeps_ite ?_ ?_
    | split
    | with_reducible refine Keeps.upd rfl rfl rfl rfl rfl rfl ?_

theorem calSectorRead_keeps {pm : Nat} {s0 : State} {o : MediaOp} {off : ℕ} {absent : Bool} {s : State} (hk : Keeps pm s0 s) (hm : Sub 0x200 pm := by first | with_reducible assumption | (refine Sub.of ?_ (by with_reducible assumption); with_unfolding_all rfl)) :
    Keeps pm s0 (calSectorRead o off absent s) := by
  unfold calSectorRead
  try dsimp only
  repeat' first
    | with_reducible assumption
    | (with_reducible intro t; intros)
    | with_reducible refine foldl_keeps ?_ ?_
    | with_reducible refine keeps_ite ?_ ?_
    | split
    | with_reducible refine Keeps.upd rfl rfl rfl rfl rfl rfl ?_

theorem filePhase_keeps {pm : Nat} {s0 : State} {n : ChanId} {r : CalRunning} {s : State} (hk : Keeps pm s0 s) (hm : Sub 0x8200 pm := by first | with_reducible assumption | (refine Sub.of ?_ (by with_reducible assumption); with_unfolding_all rfl)) :
    Keeps pm s0 (filePhase n r s) := by
  unfold filePhase
  try dsimp only
  repeat' first
    | with_reducible assumption
    | (with_reducible intro t; intros)
    | with_reducible refine foldl_keeps ?_ ?_
    | with_reducible refine fileOp_keeps ?_ 
    | with_reducible refine keeps_ite ?_ ?_
    | split
    | with_reducible refine Keeps.upd rfl rfl rfl rfl rfl rfl ?_

theorem calStep_keeps {pm : Nat} {s0 : State} {n : ChanId} {s : State} (hk : Keeps pm s0 s) (hm : Sub 0x1028240 pm := by first | with_reducible assumption | (refine Sub.of ?_ (by with_reducible assumption); with_unfolding_all rfl)) :
    Keeps pm s0 (calStep n s) := by
  unfold calStep
  try dsimp only
  repeat' first
    | with_reducible assumption
    | (with_reducible intro t; intros)
    | with_reducible refine foldl_keeps ?_ ?_
    | with_reducible refine breakRun_keeps ?_ 
    | with_reducible refine filePhase_keeps ?_ 
    | with_reducible refine keeps_ite ?_ ?_
    | split
    | with_reducible refine Keeps.upd rfl rfl rfl rfl rfl rfl ?_

theorem noteDuty_keeps {pm : Nat} {s0 : State} {n : ChanId} {s : State} (hk : Keeps pm s0 s) (hm : Sub 0x200 pm := by first | with_reducible assumption | (refine Sub.of ?_ (by with_reducible assumption); with_unfolding_all rfl)) :
    Keeps pm s0 (noteDuty n s) := by
  unfold noteDuty
  try dsimp only
  repeat' first
    | with_reducible assumption
    | (with_reducible intro t; intros)
    | with_reducible refine foldl_keeps ?_ ?_
    | with_reducible refine keeps_ite ?_ ?_
    | split
    | with_reducible refine Keeps.upd rfl rfl rfl rfl rfl rfl ?_

theorem calSteps_keeps {pm : Nat} {s0 : State} {s : State} (hk : Keeps pm s0 s) (hm : Sub 0x1028240 pm := by first | with_reducible assumption | (refine Sub.of ?_ (by with_reducible assumption); with_unfolding_all rfl)) :
    Keeps pm s0 (calSteps s) := by
  unfold calSteps
  try dsimp only
  repeat' first
    | with_reducible assumption
    | (with_reducible intro t; intros)
    | with_reducible refine foldl_keeps ?_ ?_
    | with_reducible refine calStep_keeps ?_ 
    | with_reducible refine noteDuty_keeps ?_ 
    | with_reducible refine keeps_ite ?_ ?_
    | split
    | with_reducible refine Keeps.upd rfl rfl rfl rfl rfl rfl ?_

theorem calStrobe_keeps {pm : Nat} {s0 : State} {n : ChanId} {f : ServoField} {m : Sample} {inside : Bool} {s : State} (hk : Keeps pm s0 s) (hm : Sub 0x240 pm := by first | with_reducible assumption | (refine Sub.of ?_ (by with_reducible assumption); with_unfolding_all rfl)) :
    Keeps pm s0 (calStrobe n f m inside s) := by
  unfold calStrobe
  try dsimp only
  repeat' first
    | with_reducible assumption
    | (with_reducible intro t; intros)
    | with_reducible refine foldl_keeps ?_ ?_
    | with_reducible refine State.modCe_keeps ?_ 
    | with_reducible refine keeps_ite ?_ ?_
    | split
    | with_reducible refine Keeps.upd rfl rfl rfl rfl rfl rfl ?_

theorem clearBlock_keeps {pm : Nat} {s0 : State} {die : Fin 2} {plane : Fin 4} {b : ℕ} {s : State} (hk : Keeps pm s0 s) (hm : Sub 0x80000 pm := by first | with_reducible assumption | (refine Sub.of ?_ (by with_reducible assumption); with_unfolding_all rfl)) :
    Keeps pm s0 (clearBlock die plane b s) := by
  unfold clearBlock
  try dsimp only
  repeat' first
    | with_reducible assumption
    | (with_reducible intro t; intros)
    | with_reducible refine foldl_keeps ?_ ?_
    | with_reducible refine modDie_keeps ?_ 
    | with_reducible refine keeps_ite ?_ ?_
    | split
    | with_reducible refine Keeps.upd rfl rfl rfl rfl rfl rfl ?_

theorem clearHealth_keeps {pm : Nat} {s0 : State} {mask : Word16} {s : State} (hk : Keeps pm s0 s) (hm : Sub 0x400000 pm := by first | with_reducible assumption | (refine Sub.of ?_ (by with_reducible assumption); with_unfolding_all rfl)) :
    Keeps pm s0 (clearHealth mask s) := by
  unfold clearHealth
  try dsimp only
  repeat' first
    | with_reducible assumption
    | (with_reducible intro t; intros)
    | with_reducible refine foldl_keeps ?_ ?_
    | with_reducible refine keeps_ite ?_ ?_
    | split
    | with_reducible refine Keeps.upd rfl rfl rfl rfl rfl rfl ?_

theorem clearLog_keeps {pm : Nat} {s0 : State} {p : PortId} {lid : ℕ} {s : State} (hk : Keeps pm s0 s) (hm : Sub 0xc00 pm := by first | with_reducible assumption | (refine Sub.of ?_ (by with_reducible assumption); with_unfolding_all rfl)) :
    Keeps pm s0 (clearLog p lid s) := by
  unfold clearLog
  try dsimp only
  repeat' first
    | with_reducible assumption
    | (with_reducible intro t; intros)
    | with_reducible refine foldl_keeps ?_ ?_
    | with_reducible refine State.modPort_keeps ?_ 
    | with_reducible refine keeps_ite ?_ ?_
    | split
    | with_reducible refine Keeps.upd rfl rfl rfl rfl rfl rfl ?_

theorem clearMarks_keeps {pm : Nat} {s0 : State} {c : Ctx} {s : State} (hk : Keeps pm s0 s) (hm : Sub 0x1000 pm := by first | with_reducible assumption | (refine Sub.of ?_ (by with_reducible assumption); with_unfolding_all rfl)) :
    Keeps pm s0 (clearMarks c s) := by
  unfold clearMarks
  try dsimp only
  repeat' first
    | with_reducible assumption
    | (with_reducible intro t; intros)
    | with_reducible refine foldl_keeps ?_ ?_
    | with_reducible refine setBand_keeps ?_ 
    | with_reducible refine keeps_ite ?_ ?_
    | split
    | with_reducible refine Keeps.upd rfl rfl rfl rfl rfl rfl ?_

theorem clearMctpStatus_keeps {pm : Nat} {s0 : State} {v : Word16} {setNow : Word16} {s : State} (hk : Keeps pm s0 s) (hm : Sub 0xc00 pm := by first | with_reducible assumption | (refine Sub.of ?_ (by with_reducible assumption); with_unfolding_all rfl)) :
    Keeps pm s0 (clearMctpStatus v setNow s) := by
  unfold clearMctpStatus
  try dsimp only
  repeat' first
    | with_reducible assumption
    | (with_reducible intro t; intros)
    | with_reducible refine foldl_keeps ?_ ?_
    | with_reducible refine State.modPorts_keeps ?_ 
    | with_reducible refine refreshAlert_keeps ?_ 
    | with_reducible refine keeps_ite ?_ ?_
    | split
    | with_reducible refine Keeps.upd rfl rfl rfl rfl rfl rfl ?_

theorem lockChanged_keeps {pm : Nat} {s0 : State} {src : ℕ} {s : State} (hk : Keeps pm s0 s) (hm : Sub 0x1080000 pm := by first | with_reducible assumption | (refine Sub.of ?_ (by with_reducible assumption); with_unfolding_all rfl)) :
    Keeps pm s0 (lockChanged src s) := by
  unfold lockChanged
  try dsimp only
  repeat' first
    | with_reducible assumption
    | (with_reducible intro t; intros)
    | with_reducible refine foldl_keeps ?_ ?_
    | with_reducible refine persistValue_keeps ?_ 
    | with_reducible refine keeps_ite ?_ ?_
    | split
    | with_reducible refine Keeps.upd rfl rfl rfl rfl rfl rfl ?_

end Sys2Proof.Machine
end

