-- ==== Sys2Proof/Laws/Frame07.lean ====
section
/-! SUPPORT. What each operation keeps (see Keeps), in the order in which operations call each other: retain to endNsCommands. -/

set_option linter.unusedTactic false
set_option linter.unreachableTactic false
set_option Elab.async false

namespace Sys2Proof.Machine

theorem retain_keeps {pm : Nat} {s0 : State} {n : ChanId} {i : Fin 10} {s : State} (hk : Keeps pm s0 s) (hm : Sub 0x40 pm := by first | with_reducible assumption | (refine Sub.of ?_ (by with_reducible assumption); with_unfolding_all rfl)) :
    Keeps pm s0 (retain n i s).2 := by
  unfold retain
  try dsimp only
  repeat' first
    | with_reducible assumption
    | (with_reducible intro t; intros)
    | with_reducible refine foldl_keeps ?_ ?_
    | with_reducible refine State.modRwc_keeps ?_ 
    | with_reducible refine freeEntry_keeps ?_ 
    | with_reducible refine holdEntry_keeps ?_ 
    | with_reducible refine keeps_ite ?_ ?_
    | split
    | with_reducible refine Keeps.upd rfl rfl rfl rfl rfl rfl ?_
theorem retain_keepsP {pm : Nat} {s0 : State} {n : ChanId} {i : Fin 10} {s : State} (hk : Keeps pm s0 s) {ra} {rb : State} (e : (retain n i s) = (ra, rb)) (hm : Sub 0x40 pm := by first | with_reducible assumption | (refine Sub.of ?_ (by with_reducible assumption); with_unfolding_all rfl)) :
    Keeps pm s0 rb := by
  have := retain_keeps (s0 := s0) (n := n) (i := i) (s := s) hk
  rw [e] at this
  exact this

theorem rereadFailed_keeps {pm : Nat} {s0 : State} {n : ChanId} {l : Ladder} {i : Fin 10} {misdirected : Bool} {s : State} (hk : Keeps pm s0 s) (hm : Sub 0x10ed040 pm := by first | with_reducible assumption | (refine Sub.of ?_ (by with_reducible assumption); with_unfolding_all rfl)) :
    Keeps pm s0 (rereadFailed n l i misdirected s) := by
  unfold rereadFailed
  try dsimp only
  repeat' first
    | with_reducible assumption
    | (with_reducible intro t; intros)
    | with_reducible refine foldl_keeps ?_ ?_
    | with_reducible refine modLadder_keeps ?_ 
    | with_reducible refine nextStep_keeps ?_ 
    | with_reducible refine retain_keeps ?_ 
    | with_reducible refine retain_keepsP ?_  (by assumption)
    | with_reducible refine keeps_ite ?_ ?_
    | split
    | with_reducible refine Keeps.upd rfl rfl rfl rfl rfl rfl ?_

theorem startLadder_keeps {pm : Nat} {s0 : State} {n : ChanId} {o : MediaOp} {off : ℕ} {e : Option (Fin 10)} {spans : List (ℕ × ℕ)} {misdirected : Bool} {s : State} (hk : Keeps pm s0 s) (hm : Sub 0x10ed040 pm := by first | with_reducible assumption | (refine Sub.of ?_ (by with_reducible assumption); with_unfolding_all rfl)) :
    Keeps pm s0 (startLadder n o off e spans misdirected s) := by
  unfold startLadder
  try dsimp only
  repeat' first
    | with_reducible assumption
    | (with_reducible intro t; intros)
    | with_reducible refine foldl_keeps ?_ ?_
    | with_reducible refine State.modRwc_keeps ?_ 
    | with_reducible refine holdActuator_keeps ?_ 
    | with_reducible refine unrecovered_keeps ?_ 
    | with_reducible refine keeps_ite ?_ ?_
    | split
    | with_reducible refine Keeps.upd rfl rfl rfl rfl rfl rfl ?_

theorem sectorFails_keeps {pm : Nat} {s0 : State} {n : ChanId} {c : Codeword} {misdirected : Bool} {s : State} (hk : Keeps pm s0 s) (hm : Sub 0x10ed040 pm := by first | with_reducible assumption | (refine Sub.of ?_ (by with_reducible assumption); with_unfolding_all rfl)) :
    Keeps pm s0 (sectorFails n c misdirected s) := by
  unfold sectorFails
  try dsimp only
  repeat' first
    | with_reducible assumption
    | (with_reducible intro t; intros)
    | with_reducible refine foldl_keeps ?_ ?_
    | with_reducible refine State.modRwc_keeps ?_ 
    | with_reducible refine modEntry_keeps ?_ 
    | with_reducible refine keepEntries_keeps ?_ 
    | with_reducible refine transientFault_keeps ?_ 
    | with_reducible refine deliverBad_keeps ?_ 
    | with_reducible refine freeEntry_keeps ?_ 
    | with_reducible refine retain_keeps ?_ 
    | with_reducible refine retain_keepsP ?_  (by assumption)
    | with_reducible refine rereadFailed_keeps ?_ 
    | with_reducible refine startLadder_keeps ?_ 
    | with_reducible refine keeps_ite ?_ ?_
    | split
    | with_reducible refine Keeps.upd rfl rfl rfl rfl rfl rfl ?_

theorem decodeFirst_keeps {pm : Nat} {s0 : State} {n : ChanId} {s : State} (hk : Keeps pm s0 s) (hm : Sub 0x10ed240 pm := by first | with_reducible assumption | (refine Sub.of ?_ (by with_reducible assumption); with_unfolding_all rfl)) :
    Keeps pm s0 (decodeFirst n s) := by
  unfold decodeFirst
  split
  · exact hk
  · next c rest _ =>
    dsimp only
    generalize decodeWord (byteAt c.params.set 25) c.params.iterations c.llr = d
    generalize judgeDecode s c.op.band c.offset d = v
    refine settleChannel_keeps ?_
    have h : ∀ f g, Keeps pm s0 (modEntry n c.entry f (s.modRwc n g)) := fun f g => modEntry_keeps (State.modRwc_keeps hk)
    cases d.word with
    | none =>
      cases v with
      | good b => exact sectorGood_keeps (noteFailed_keeps (h _ _))
      | _ => exact sectorFails_keeps (noteFailed_keeps (h _ _))
    | some w =>
      cases v with
      | good b => exact sectorGood_keeps (noteDecode_keeps (noteSync2_keeps (h _ _)))
      | _ => exact sectorFails_keeps (noteFailed_keeps (noteSync2_keeps (h _ _)))

theorem finishDeletes_keeps {pm : Nat} {s0 : State} {p : PortId} {s : State} (hk : Keeps pm s0 s) (hm : Sub 0xc00 pm := by first | with_reducible assumption | (refine Sub.of ?_ (by with_reducible assumption); with_unfolding_all rfl)) :
    Keeps pm s0 (finishDeletes p s) := by
  unfold finishDeletes
  try dsimp only
  repeat' first
    | with_reducible assumption
    | (with_reducible intro t; intros)
    | with_reducible refine foldl_keeps ?_ ?_
    | with_reducible refine State.modPort_keeps ?_ 
    | with_reducible refine keeps_ite ?_ ?_
    | split
    | with_reducible refine Keeps.upd rfl rfl rfl rfl rfl rfl ?_

theorem endQueue_keeps {pm : Nat} {s0 : State} {p : PortId} {qid : ℕ} {s : State} (hk : Keeps pm s0 s) (hm : Sub 0x102fc40 pm := by first | with_reducible assumption | (refine Sub.of ?_ (by with_reducible assumption); with_unfolding_all rfl)) :
    Keeps pm s0 (endQueue p qid s) := by
  unfold endQueue
  try dsimp only
  repeat' first
    | with_reducible assumption
    | (with_reducible intro t; intros)
    | with_reducible refine foldl_keeps ?_ ?_
    | with_reducible refine endUnacked_keeps ?_ 
    | with_reducible refine keeps_ite ?_ ?_
    | split
    | with_reducible refine Keeps.upd rfl rfl rfl rfl rfl rfl ?_

theorem deleteSq_keeps {pm : Nat} {s0 : State} {a : AdminHdr} {qid : ℕ} {s : State} (hk : Keeps pm s0 s) (hm : Sub 0x50efe69 pm := by first | with_reducible assumption | (refine Sub.of ?_ (by with_reducible assumption); with_unfolding_all rfl)) :
    Keeps pm s0 (deleteSq a qid s) := by
  unfold deleteSq
  try dsimp only
  repeat' first
    | with_reducible assumption
    | (with_reducible intro t; intros)
    | with_reducible refine foldl_keeps ?_ ?_
    | with_reducible refine State.modPort_keeps ?_ 
    | with_reducible refine progress_keeps ?_ 
    | with_reducible refine finishDeletes_keeps ?_ 
    | with_reducible refine endQueue_keeps ?_ 
    | with_reducible refine keeps_ite ?_ ?_
    | split
    | with_reducible refine Keeps.upd rfl rfl rfl rfl rfl rfl ?_

theorem modPath_keeps {pm : Nat} {s0 : State} {p : Path} {f : PathState → PathState} {s : State} (hk : Keeps pm s0 s) (hm : Sub 0x400000 pm := by first | with_reducible assumption | (refine Sub.of ?_ (by with_reducible assumption); with_unfolding_all rfl)) :
    Keeps pm s0 (modPath p f s) := by
  unfold modPath
  try dsimp only
  repeat' first
    | with_reducible assumption
    | (with_reducible intro t; intros)
    | with_reducible refine foldl_keeps ?_ ?_
    | with_reducible refine keeps_ite ?_ ?_
    | split
    | with_reducible refine Keeps.upd rfl rfl rfl rfl rfl rfl ?_

theorem setSourceImage_keeps {pm : Nat} {s0 : State} {p : Path} {b : List Byte} {s : State} (hk : Keeps pm s0 s) (hm : Sub 0x400000 pm := by first | with_reducible assumption | (refine Sub.of ?_ (by with_reducible assumption); with_unfolding_all rfl)) :
    Keeps pm s0 (setSourceImage p b s) := by
  unfold setSourceImage
  try dsimp only
  repeat' first
    | with_reducible assumption
    | (with_reducible intro t; intros)
    | with_reducible refine foldl_keeps ?_ ?_
    | with_reducible refine modPath_keeps ?_ 
    | with_reducible refine keeps_ite ?_ ?_
    | split
    | with_reducible refine Keeps.upd rfl rfl rfl rfl rfl rfl ?_

theorem storeImage_keeps {pm : Nat} {s0 : State} {before : Fw} {s : State} (hk : Keeps pm s0 s) (hm : Sub 0x80000 pm := by first | with_reducible assumption | (refine Sub.of ?_ (by with_reducible assumption); with_unfolding_all rfl)) :
    Keeps pm s0 (storeImage before s) := by
  unfold storeImage
  try dsimp only
  repeat' first
    | with_reducible assumption
    | (with_reducible intro t; intros)
    | with_reducible refine foldl_keeps ?_ ?_
    | with_reducible refine programNext_keeps ?_ 
    | with_reducible refine keeps_ite ?_ ?_
    | split
    | with_reducible refine Keeps.upd rfl rfl rfl rfl rfl rfl ?_

theorem programPages_keeps {pm : Nat} {s0 : State} {s : State} (hk : Keeps pm s0 s) (hm : Sub 0x2000000 pm := by first | with_reducible assumption | (refine Sub.of ?_ (by with_reducible assumption); with_unfolding_all rfl)) :
    Keeps pm s0 (programPages s) := by
  unfold programPages
  try dsimp only
  repeat' first
    | with_reducible assumption
    | (with_reducible intro t; intros)
    | with_reducible refine foldl_keeps ?_ ?_
    | with_reducible refine keeps_ite ?_ ?_
    | split
    | with_reducible refine Keeps.upd rfl rfl rfl rfl rfl rfl ?_

theorem takeUnits_keeps {pm : Nat} {s0 : State} {first : ℕ} {count : ℕ} {s : State} (hk : Keeps pm s0 s) (hm : Sub 0x2080000 pm := by first | with_reducible assumption | (refine Sub.of ?_ (by with_reducible assumption); with_unfolding_all rfl)) :
    Keeps pm s0 (takeUnits first count s) := by
  unfold takeUnits
  try dsimp only
  repeat' first
    | with_reducible assumption
    | (with_reducible intro t; intros)
    | with_reducible refine foldl_keeps ?_ ?_
    | with_reducible refine modSlot_keeps ?_ 
    | with_reducible refine storeImage_keeps ?_ 
    | with_reducible refine programPages_keeps ?_ 
    | with_reducible refine keeps_ite ?_ ?_
    | split
    | with_reducible refine Keeps.upd rfl rfl rfl rfl rfl rfl ?_

theorem takePiece_keeps {pm : Nat} {s0 : State} {src : Path} {p : FwPiece} {s : State} (hk : Keeps pm s0 s) (hm : Sub 0x2480000 pm := by first | with_reducible assumption | (refine Sub.of ?_ (by with_reducible assumption); with_unfolding_all rfl)) :
    Keeps pm s0 (takePiece src p s) := by
  unfold takePiece
  try dsimp only
  repeat' first
    | with_reducible assumption
    | (with_reducible intro t; intros)
    | with_reducible refine foldl_keeps ?_ ?_
    | with_reducible refine recordSlots_keeps ?_ 
    | with_reducible refine bindImage_keeps ?_ 
    | with_reducible refine setSourceImage_keeps ?_ 
    | with_reducible refine takeUnits_keeps ?_ 
    | with_reducible refine keeps_ite ?_ ?_
    | split
    | with_reducible refine Keeps.upd rfl rfl rfl rfl rfl rfl ?_

theorem fwRefuse_keeps {pm : Nat} {s0 : State} {src : Path} {code : ℕ} {imageId : ℕ} {s : State} (hk : Keeps pm s0 s) (hm : Sub 0x3000000 pm := by first | with_reducible assumption | (refine Sub.of ?_ (by with_reducible assumption); with_unfolding_all rfl)) :
    Keeps pm s0 (fwRefuse src code imageId s) := by
  unfold fwRefuse
  try dsimp only
  repeat' first
    | with_reducible assumption
    | (with_reducible intro t; intros)
    | with_reducible refine foldl_keeps ?_ ?_
    | with_reducible refine raise_keeps ?_ 
    | with_reducible refine keeps_ite ?_ ?_
    | split
    | with_reducible refine Keeps.upd rfl rfl rfl rfl rfl rfl ?_

theorem deliverPiece_keeps {pm : Nat} {s0 : State} {p : Path} {piece : FwPiece} {s : State} (hk : Keeps pm s0 s) (hm : Sub 0x3480000 pm := by first | with_reducible assumption | (refine Sub.of ?_ (by with_reducible assumption); with_unfolding_all rfl)) :
    Keeps pm s0 (deliverPiece p piece s).2 := by
  unfold deliverPiece
  try dsimp only
  repeat' first
    | with_reducible assumption
    | (with_reducible intro t; intros)
    | with_reducible refine foldl_keeps ?_ ?_
    | with_reducible refine takePiece_keeps ?_ 
    | with_reducible refine fwRefuse_keeps ?_ 
    | with_reducible refine keeps_ite ?_ ?_
    | split
    | with_reducible refine Keeps.upd rfl rfl rfl rfl rfl rfl ?_
theorem deliverPiece_keepsP {pm : Nat} {s0 : State} {p : Path} {piece : FwPiece} {s : State} (hk : Keeps pm s0 s) {ra} {rb : State} (e : (deliverPiece p piece s) = (ra, rb)) (hm : Sub 0x3480000 pm := by first | with_reducible assumption | (refine Sub.of ?_ (by with_reducible assumption); with_unfolding_all rfl)) :
    Keeps pm s0 rb := by
  have := deliverPiece_keeps (s0 := s0) (p := p) (piece := piece) (s := s) hk
  rw [e] at this
  exact this

theorem detectOverrun_keeps {pm : Nat} {s0 : State} {n : ChanId} {s : State} (hk : Keeps pm s0 s) (hm : Sub 0x1000040 pm := by first | with_reducible assumption | (refine Sub.of ?_ (by with_reducible assumption); with_unfolding_all rfl)) :
    Keeps pm s0 (detectOverrun n s) := by
  unfold detectOverrun
  try dsimp only
  repeat' first
    | with_reducible assumption
    | (with_reducible intro t; intros)
    | with_reducible refine foldl_keeps ?_ ?_
    | with_reducible refine abandon_keeps ?_ 
    | with_reducible refine keeps_ite ?_ ?_
    | split
    | with_reducible refine Keeps.upd rfl rfl rfl rfl rfl rfl ?_

theorem readSnapshot_keeps {pm : Nat} {s0 : State} {p : Path} {k : ObjKey} {v : List Byte} {got : ℕ} {offset : ℕ} {limit : ℕ} {s : State} (hk : Keeps pm s0 s) (hm : Sub 0x400000 pm := by first | with_reducible assumption | (refine Sub.of ?_ (by with_reducible assumption); with_unfolding_all rfl)) :
    Keeps pm s0 (readSnapshot p k v got offset limit s).2 := by
  unfold readSnapshot
  try dsimp only
  repeat' first
    | with_reducible assumption
    | (with_reducible intro t; intros)
    | with_reducible refine foldl_keeps ?_ ?_
    | with_reducible refine modPath_keeps ?_ 
    | with_reducible refine keeps_ite ?_ ?_
    | split
    | with_reducible refine Keeps.upd rfl rfl rfl rfl rfl rfl ?_
theorem readSnapshot_keepsP {pm : Nat} {s0 : State} {p : Path} {k : ObjKey} {v : List Byte} {got : ℕ} {offset : ℕ} {limit : ℕ} {s : State} (hk : Keeps pm s0 s) {ra} {rb : State} (e : (readSnapshot p k v got offset limit s) = (ra, rb)) (hm : Sub 0x400000 pm := by first | with_reducible assumption | (refine Sub.of ?_ (by with_reducible assumption); with_unfolding_all rfl)) :
    Keeps pm s0 rb := by
  have := readSnapshot_keeps (s0 := s0) (p := p) (k := k) (v := v) (got := got) (offset := offset) (limit := limit) (s := s) hk
  rw [e] at this
  exact this

theorem takeCapture_keeps {pm : Nat} {s0 : State} {limit : ℕ} {s : State} (hk : Keeps pm s0 s) (hm : Sub 0x400000 pm := by first | with_reducible assumption | (refine Sub.of ?_ (by with_reducible assumption); with_unfolding_all rfl)) :
    Keeps pm s0 (takeCapture limit s).2 := by
  unfold takeCapture
  try dsimp only
  repeat' first
    | with_reducible assumption
    | (with_reducible intro t; intros)
    | with_reducible refine foldl_keeps ?_ ?_
    | with_reducible refine keeps_ite ?_ ?_
    | split
    | with_reducible refine Keeps.upd rfl rfl rfl rfl rfl rfl ?_
theorem takeCapture_keepsP {pm : Nat} {s0 : State} {limit : ℕ} {s : State} (hk : Keeps pm s0 s) {ra} {rb : State} (e : (takeCapture limit s) = (ra, rb)) (hm : Sub 0x400000 pm := by first | with_reducible assumption | (refine Sub.of ?_ (by with_reducible assumption); with_unfolding_all rfl)) :
    Keeps pm s0 rb := by
  have := takeCapture_keeps (s0 := s0) (limit := limit) (s := s) hk
  rw [e] at this
  exact this

theorem takeValue_keeps {pm : Nat} {s0 : State} {p : Path} {index : ℕ} {sub : ℕ} {staged : Bool} {limit : ℕ} {s : State} (hk : Keeps pm s0 s) (hm : Sub 0xc90040 pm := by first | with_reducible assumption | (refine Sub.of ?_ (by with_reducible assumption); with_unfolding_all rfl)) :
    Keeps pm s0 (takeValue p index sub staged limit s).2.2 := by
  unfold takeValue
  try dsimp only
  repeat' first
    | with_reducible assumption
    | (with_reducible intro t; intros)
    | with_reducible refine foldl_keeps ?_ ?_
    | with_reducible refine afterRead_keeps ?_ 
    | with_reducible refine takeCapture_keeps ?_ 
    | with_reducible refine takeCapture_keepsP ?_  (by assumption)
    | with_reducible refine keeps_ite ?_ ?_
    | split
    | with_reducible refine Keeps.upd rfl rfl rfl rfl rfl rfl ?_
theorem takeValue_keepsP {pm : Nat} {s0 : State} {p : Path} {index : ℕ} {sub : ℕ} {staged : Bool} {limit : ℕ} {s : State} (hk : Keeps pm s0 s) {ra rc} {rb : State} (e : (takeValue p index sub staged limit s) = (ra, rc, rb)) (hm : Sub 0xc90040 pm := by first | with_reducible assumption | (refine Sub.of ?_ (by with_reducible assumption); with_unfolding_all rfl)) :
    Keeps pm s0 rb := by
  have := takeValue_keeps (s0 := s0) (p := p) (index := index) (sub := sub) (staged := staged) (limit := limit) (s := s) hk
  rw [e] at this
  exact this

theorem dropSnapshot_keeps {pm : Nat} {s0 : State} {p : Path} {s : State} (hk : Keeps pm s0 s) (hm : Sub 0x400000 pm := by first | with_reducible assumption | (refine Sub.of ?_ (by with_reducible assumption); with_unfolding_all rfl)) :
    Keeps pm s0 (dropSnapshot p s) := by
  unfold dropSnapshot
  try dsimp only
  repeat' first
    | with_reducible assumption
    | (with_reducible intro t; intros)
    | with_reducible refine foldl_keeps ?_ ?_
    | with_reducible refine modPath_keeps ?_ 
    | with_reducible refine keeps_ite ?_ ?_
    | split
    | with_reducible refine Keeps.upd rfl rfl rfl rfl rfl rfl ?_

theorem dictRead_keeps {pm : Nat} {s0 : State} {p : Path} {index sub : Nat} {staged segment : Bool} {offset limit : Nat} {s : State} (hk : Keeps pm s0 s) (hm : Sub 0xc90040 pm := by first | with_reducible assumption | (refine Sub.of ?_ (by with_reducible assumption); with_unfolding_all rfl)) :
    Keeps pm s0 (dictRead p index sub staged segment offset limit s).2.2.2 := by
  unfold dictRead
  dsimp only
  split
  · exact hk
  · split
    · split
      · split
        · exact readSnapshot_keeps hk
        · exact hk
      · exact hk
    · split
      · exact readSnapshot_keeps (takeValue_keeps (dropSnapshot_keeps hk))
      · exact takeValue_keeps (dropSnapshot_keeps hk)

theorem refuseProgram_keeps {pm : Nat} {s0 : State} {src : ℕ} {s : State} (hk : Keeps pm s0 s) (hm : Sub 0x1080000 pm := by first | with_reducible assumption | (refine Sub.of ?_ (by with_reducible assumption); with_unfolding_all rfl)) :
    Keeps pm s0 (refuseProgram src s) := by
  unfold refuseProgram
  try dsimp only
  repeat' first
    | with_reducible assumption
    | (with_reducible intro t; intros)
    | with_reducible refine foldl_keeps ?_ ?_
    | with_reducible refine raise_keeps ?_ 
    | with_reducible refine keeps_ite ?_ ?_
    | split
    | with_reducible refine Keeps.upd rfl rfl rfl rfl rfl rfl ?_

theorem slotEraseRefused_keeps {pm : Nat} {s0 : State} {v : ℕ} {src : ℕ} {code : ℕ} {s : State} (hk : Keeps pm s0 s) (hm : Sub 0x1000000 pm := by first | with_reducible assumption | (refine Sub.of ?_ (by with_reducible assumption); with_unfolding_all rfl)) :
    Keeps pm s0 (slotEraseRefused v src code s) := by
  unfold slotEraseRefused
  try dsimp only
  repeat' first
    | with_reducible assumption
    | (with_reducible intro t; intros)
    | with_reducible refine foldl_keeps ?_ ?_
    | with_reducible refine raise_keeps ?_ 
    | with_reducible refine keeps_ite ?_ ?_
    | split
    | with_reducible refine Keeps.upd rfl rfl rfl rfl rfl rfl ?_

theorem noteRefusal_keeps {pm : Nat} {s0 : State} {p : Path} {index : ℕ} {sub : ℕ} {x : ℕ} {s : State} (hk : Keeps pm s0 s) (hm : Sub 0x1080000 pm := by first | with_reducible assumption | (refine Sub.of ?_ (by with_reducible assumption); with_unfolding_all rfl)) :
    Keeps pm s0 (noteRefusal p index sub x s) := by
  unfold noteRefusal
  try dsimp only
  repeat' first
    | with_reducible assumption
    | (with_reducible intro t; intros)
    | with_reducible refine foldl_keeps ?_ ?_
    | with_reducible refine refuseProgram_keeps ?_ 
    | with_reducible refine slotEraseRefused_keeps ?_ 
    | with_reducible refine keeps_ite ?_ ?_
    | split
    | with_reducible refine Keeps.upd rfl rfl rfl rfl rfl rfl ?_

theorem requestDiscard_keeps {pm : Nat} {s0 : State} {p : Path} {s : State} (hk : Keeps pm s0 s) (hm : Sub 0x1200000 pm := by first | with_reducible assumption | (refine Sub.of ?_ (by with_reducible assumption); with_unfolding_all rfl)) :
    Keeps pm s0 (requestDiscard p s) := by
  unfold requestDiscard
  try dsimp only
  repeat' first
    | with_reducible assumption
    | (with_reducible intro t; intros)
    | with_reducible refine foldl_keeps ?_ ?_
    | with_reducible refine wantDiscard_keeps ?_ 
    | with_reducible refine keeps_ite ?_ ?_
    | split
    | with_reducible refine Keeps.upd rfl rfl rfl rfl rfl rfl ?_

theorem refuseCommit_keeps {pm : Nat} {s0 : State} {p : Path} {code : ℕ} {k : ObjKey} {s : State} (hk : Keeps pm s0 s) (hm : Sub 0x1200000 pm := by first | with_reducible assumption | (refine Sub.of ?_ (by with_reducible assumption); with_unfolding_all rfl)) :
    Keeps pm s0 (refuseCommit p code k s) := by
  unfold refuseCommit
  try dsimp only
  repeat' first
    | with_reducible assumption
    | (with_reducible intro t; intros)
    | with_reducible refine foldl_keeps ?_ ?_
    | with_reducible refine raise_keeps ?_ 
    | with_reducible refine keeps_ite ?_ ?_
    | split
    | with_reducible refine Keeps.upd rfl rfl rfl rfl rfl rfl ?_

theorem requestCommit_keeps {pm : Nat} {s0 : State} {p : Path} {w : Waiter} {s : State} (hk : Keeps pm s0 s) (hm : Sub 0x1781c00 pm := by first | with_reducible assumption | (refine Sub.of ?_ (by with_reducible assumption); with_unfolding_all rfl)) :
    Keeps pm s0 (requestCommit p w s).2 := by
  unfold requestCommit
  try dsimp only
  repeat' first
    | with_reducible assumption
    | (with_reducible intro t; intros)
    | with_reducible refine foldl_keeps ?_ ?_
    | with_reducible refine finishCommit_keeps ?_ 
    | with_reducible refine refuseCommit_keeps ?_ 
    | with_reducible refine keeps_ite ?_ ?_
    | split
    | with_reducible refine Keeps.upd rfl rfl rfl rfl rfl rfl ?_
theorem requestCommit_keepsP {pm : Nat} {s0 : State} {p : Path} {w : Waiter} {s : State} (hk : Keeps pm s0 s) {ra} {rb : State} (e : (requestCommit p w s) = (ra, rb)) (hm : Sub 0x1781c00 pm := by first | with_reducible assumption | (refine Sub.of ?_ (by with_reducible assumption); with_unfolding_all rfl)) :
    Keeps pm s0 rb := by
  have := requestCommit_keeps (s0 := s0) (p := p) (w := w) (s := s) hk
  rw [e] at this
  exact this

theorem stageValue_keeps {pm : Nat} {s0 : State} {p : Path} {index : ℕ} {sub : ℕ} {v : List Byte} {s : State} (hk : Keeps pm s0 s) (hm : Sub 0x200000 pm := by first | with_reducible assumption | (refine Sub.of ?_ (by with_reducible assumption); with_unfolding_all rfl)) :
    Keeps pm s0 (stageValue p index sub v s) := by
  unfold stageValue
  try dsimp only
  repeat' first
    | with_reducible assumption
    | (with_reducible intro t; intros)
    | with_reducible refine foldl_keeps ?_ ?_
    | with_reducible refine keeps_ite ?_ ?_
    | split
    | with_reducible refine Keeps.upd rfl rfl rfl rfl rfl rfl ?_

theorem writeOem_keeps {pm : Nat} {s0 : State} {p : Path} {index : ℕ} {sub : ℕ} {v : List Byte} {s : State} (hk : Keeps pm s0 s) (hm : Sub 0x1180000 pm := by first | with_reducible assumption | (refine Sub.of ?_ (by with_reducible assumption); with_unfolding_all rfl)) :
    Keeps pm s0 (writeOem p index sub v s).2 := by
  unfold writeOem
  try dsimp only
  repeat' first
    | with_reducible assumption
    | (with_reducible intro t; intros)
    | with_reducible refine foldl_keeps ?_ ?_
    | with_reducible refine persistValue_keeps ?_ 
    | with_reducible refine setValue_keeps ?_ 
    | with_reducible refine keeps_ite ?_ ?_
    | split
    | with_reducible refine Keeps.upd rfl rfl rfl rfl rfl rfl ?_
theorem writeOem_keepsP {pm : Nat} {s0 : State} {p : Path} {index : ℕ} {sub : ℕ} {v : List Byte} {s : State} (hk : Keeps pm s0 s) {ra} {rb : State} (e : (writeOem p index sub v s) = (ra, rb)) (hm : Sub 0x1180000 pm := by first | with_reducible assumption | (refine Sub.of ?_ (by with_reducible assumption); with_unfolding_all rfl)) :
    Keeps pm s0 rb := by
  have := writeOem_keeps (s0 := s0) (p := p) (index := index) (sub := sub) (v := v) (s := s) hk
  rw [e] at this
  exact this

theorem enterPriv_keeps {pm : Nat} {s0 : State} {p : Path} {x : ℕ} {s : State} (hk : Keeps pm s0 s) (hm : Sub 0x400000 pm := by first | with_reducible assumption | (refine Sub.of ?_ (by with_reducible assumption); with_unfolding_all rfl)) :
    Keeps pm s0 (enterPriv p x s).2 := by
  unfold enterPriv
  try dsimp only
  repeat' first
    | with_reducible assumption
    | (with_reducible intro t; intros)
    | with_reducible refine foldl_keeps ?_ ?_
    | with_reducible refine modPath_keeps ?_ 
    | with_reducible refine keeps_ite ?_ ?_
    | split
    | with_reducible refine Keeps.upd rfl rfl rfl rfl rfl rfl ?_
theorem enterPriv_keepsP {pm : Nat} {s0 : State} {p : Path} {x : ℕ} {s : State} (hk : Keeps pm s0 s) {ra} {rb : State} (e : (enterPriv p x s) = (ra, rb)) (hm : Sub 0x400000 pm := by first | with_reducible assumption | (refine Sub.of ?_ (by with_reducible assumption); with_unfolding_all rfl)) :
    Keeps pm s0 rb := by
  have := enterPriv_keeps (s0 := s0) (p := p) (x := x) (s := s) hk
  rw [e] at this
  exact this

theorem storeValue_keeps {pm : Nat} {s0 : State} {p : Path} {index : ℕ} {sub : ℕ} {persistent : Bool} {v : List Byte} {s : State} (hk : Keeps pm s0 s) (hm : Sub 0x1180000 pm := by first | with_reducible assumption | (refine Sub.of ?_ (by with_reducible assumption); with_unfolding_all rfl)) :
    Keeps pm s0 (storeValue p index sub persistent v s) := by
  unfold storeValue
  try dsimp only
  repeat' first
    | with_reducible assumption
    | (with_reducible intro t; intros)
    | with_reducible refine foldl_keeps ?_ ?_
    | with_reducible refine persistValue_keeps ?_ 
    | with_reducible refine setValue_keeps ?_ 
    | with_reducible refine keeps_ite ?_ ?_
    | split
    | with_reducible refine Keeps.upd rfl rfl rfl rfl rfl rfl ?_

theorem writeLock_keeps {pm : Nat} {s0 : State} {p : Path} {x : ℕ} {s : State} (hk : Keeps pm s0 s) (hm : Sub 0x1480800 pm := by first | with_reducible assumption | (refine Sub.of ?_ (by with_reducible assumption); with_unfolding_all rfl)) :
    Keeps pm s0 (writeLock p x s) := by
  unfold writeLock
  try dsimp only
  repeat' first
    | with_reducible assumption
    | (with_reducible intro t; intros)
    | with_reducible refine foldl_keeps ?_ ?_
    | with_reducible refine raise_keeps ?_ 
    | with_reducible refine setFlag_keeps ?_ 
    | with_reducible refine lockChanged_keeps ?_ 
    | with_reducible refine keeps_ite ?_ ?_
    | split
    | with_reducible refine Keeps.upd rfl rfl rfl rfl rfl rfl ?_

theorem requestMode_keeps {pm : Nat} {s0 : State} {m : CacheMode} {s : State} (hk : Keeps pm s0 s) (hm : Sub 0x20000 pm := by first | with_reducible assumption | (refine Sub.of ?_ (by with_reducible assumption); with_unfolding_all rfl)) :
    Keeps pm s0 (requestMode m s) := by
  unfold requestMode
  try dsimp only
  repeat' first
    | with_reducible assumption
    | (with_reducible intro t; intros)
    | with_reducible refine foldl_keeps ?_ ?_
    | with_reducible refine destageFirst_keeps ?_ 
    | with_reducible refine enterOff_keeps ?_ 
    | with_reducible refine keeps_ite ?_ ?_
    | split
    | with_reducible refine Keeps.upd rfl rfl rfl rfl rfl rfl ?_

theorem restartDecim_keeps {pm : Nat} {s0 : State} {s : State} (hk : Keeps pm s0 s) (hm : Sub 0x40 pm := by first | with_reducible assumption | (refine Sub.of ?_ (by with_reducible assumption); with_unfolding_all rfl)) :
    Keeps pm s0 (restartDecim s) := by
  unfold restartDecim
  try dsimp only
  repeat' first
    | with_reducible assumption
    | (with_reducible intro t; intros)
    | with_reducible refine foldl_keeps ?_ ?_
    | with_reducible refine State.modSdm_keeps ?_ 
    | with_reducible refine keeps_ite ?_ ?_
    | split
    | with_reducible refine Keeps.upd rfl rfl rfl rfl rfl rfl ?_

theorem writeCaptureCtrl_keeps {pm : Nat} {s0 : State} {x : ℕ} {s : State} (hk : Keeps pm s0 s) (hm : Sub 0x400040 pm := by first | with_reducible assumption | (refine Sub.of ?_ (by with_reducible assumption); with_unfolding_all rfl)) :
    Keeps pm s0 (writeCaptureCtrl x s) := by
  unfold writeCaptureCtrl
  try dsimp only
  repeat' first
    | with_reducible assumption
    | (with_reducible intro t; intros)
    | with_reducible refine foldl_keeps ?_ ?_
    | with_reducible refine restartDecim_keeps ?_ 
    | with_reducible refine keeps_ite ?_ ?_
    | split
    | with_reducible refine Keeps.upd rfl rfl rfl rfl rfl rfl ?_

theorem requestKinds_keeps {pm : Nat} {s0 : State} {v : ℕ} {s : State} (hk : Keeps pm s0 s) (hm : Sub 0x200 pm := by first | with_reducible assumption | (refine Sub.of ?_ (by with_reducible assumption); with_unfolding_all rfl)) :
    Keeps pm s0 (requestKinds v s) := by
  unfold requestKinds
  try dsimp only
  repeat' first
    | with_reducible assumption
    | (with_reducible intro t; intros)
    | with_reducible refine foldl_keeps ?_ ?_
    | with_reducible refine requestCal_keeps ?_ 
    | with_reducible refine keeps_ite ?_ ?_
    | split
    | with_reducible refine Keeps.upd rfl rfl rfl rfl rfl rfl ?_

theorem oemOutcome_keeps {pm : Nat} {s0 : State} {st : ℕ} {s : State} (hk : Keeps pm s0 s) (hm : Sub 0x80000 pm := by first | with_reducible assumption | (refine Sub.of ?_ (by with_reducible assumption); with_unfolding_all rfl)) :
    Keeps pm s0 (oemOutcome st s) := by
  unfold oemOutcome
  try dsimp only
  repeat' first
    | with_reducible assumption
    | (with_reducible intro t; intros)
    | with_reducible refine foldl_keeps ?_ ?_
    | with_reducible refine keeps_ite ?_ ?_
    | split
    | with_reducible refine Keeps.upd rfl rfl rfl rfl rfl rfl ?_

theorem oemStart_keeps {pm : Nat} {s0 : State} {v : ℕ} {s : State} (hk : Keeps pm s0 s) (hm : Sub 0x80000 pm := by first | with_reducible assumption | (refine Sub.of ?_ (by with_reducible assumption); with_unfolding_all rfl)) :
    Keeps pm s0 (oemStart v s) := by
  unfold oemStart
  try dsimp only
  repeat' first
    | with_reducible assumption
    | (with_reducible intro t; intros)
    | with_reducible refine foldl_keeps ?_ ?_
    | with_reducible refine startOem_keeps ?_ 
    | with_reducible refine oemOutcome_keeps ?_ 
    | with_reducible refine keeps_ite ?_ ?_
    | split
    | with_reducible refine Keeps.upd rfl rfl rfl rfl rfl rfl ?_

theorem eraseSlot_keeps {pm : Nat} {s0 : State} {v : ℕ} {s : State} (hk : Keeps pm s0 s) (hm : Sub 0x2080000 pm := by first | with_reducible assumption | (refine Sub.of ?_ (by with_reducible assumption); with_unfolding_all rfl)) :
    Keeps pm s0 (eraseSlot v s) := by
  unfold eraseSlot
  try dsimp only
  repeat' first
    | with_reducible assumption
    | (with_reducible intro t; intros)
    | with_reducible refine foldl_keeps ?_ ?_
    | with_reducible refine modSlot_keeps ?_ 
    | with_reducible refine recordSlots_keeps ?_ 
    | with_reducible refine eraseLamb_keeps ?_ 
    | with_reducible refine keeps_ite ?_ ?_
    | split
    | with_reducible refine Keeps.upd rfl rfl rfl rfl rfl rfl ?_

theorem pieceOfBytes_keeps {pm : Nat} {s0 : State} {p : Path} {v : List Byte} {s : State} (hk : Keeps pm s0 s) (hm : Sub 0x8000000 pm := by first | with_reducible assumption | (refine Sub.of ?_ (by with_reducible assumption); with_unfolding_all rfl)) :
    Keeps pm s0 (pieceOfBytes p v s).2 := by
  unfold pieceOfBytes
  try dsimp only
  repeat' first
    | with_reducible assumption
    | (with_reducible intro t; intros)
    | with_reducible refine foldl_keeps ?_ ?_
    | with_reducible refine nextFree_keeps ?_ 
    | with_reducible refine nextFree_keepsP ?_  (by assumption)
    | with_reducible refine keeps_ite ?_ ?_
    | split
    | with_reducible refine Keeps.upd rfl rfl rfl rfl rfl rfl ?_
theorem pieceOfBytes_keepsP {pm : Nat} {s0 : State} {p : Path} {v : List Byte} {s : State} (hk : Keeps pm s0 s) {ra} {rb : State} (e : (pieceOfBytes p v s) = (ra, rb)) (hm : Sub 0x8000000 pm := by first | with_reducible assumption | (refine Sub.of ?_ (by with_reducible assumption); with_unfolding_all rfl)) :
    Keeps pm s0 rb := by
  have := pieceOfBytes_keeps (s0 := s0) (p := p) (v := v) (s := s) hk
  rw [e] at this
  exact this

theorem unfreeze_keeps {pm : Nat} {s0 : State} {s : State} (hk : Keeps pm s0 s) (hm : Sub 0x1800000 pm := by first | with_reducible assumption | (refine Sub.of ?_ (by with_reducible assumption); with_unfolding_all rfl)) :
    Keeps pm s0 (unfreeze s) := by
  unfold unfreeze
  try dsimp only
  repeat' first
    | with_reducible assumption
    | (with_reducible intro t; intros)
    | with_reducible refine foldl_keeps ?_ ?_
    | with_reducible refine keeps_ite ?_ ?_
    | split
    | with_reducible refine Keeps.upd rfl rfl rfl rfl rfl rfl ?_

theorem startActivation_keeps {pm : Nat} {s0 : State} {slot : Fin 2} {asker : Option AdminHdr} {s : State} (hk : Keeps pm s0 s) (hm : Sub 0x3804c00 pm := by first | with_reducible assumption | (refine Sub.of ?_ (by with_reducible assumption); with_unfolding_all rfl)) :
    Keeps pm s0 (startActivation slot asker s) := by
  unfold startActivation
  try dsimp only
  repeat' first
    | with_reducible assumption
    | (with_reducible intro t; intros)
    | with_reducible refine foldl_keeps ?_ ?_
    | with_reducible refine State.modPorts_keeps ?_ 
    | with_reducible refine activationStarting_keeps ?_ 
    | with_reducible refine unfreeze_keeps ?_ 
    | with_reducible refine keeps_ite ?_ ?_
    | split
    | with_reducible refine Keeps.upd rfl rfl rfl rfl rfl rfl ?_

theorem fwActionEffect_keeps {pm : Nat} {s0 : State} {ca : ℕ} {slot : Fin 2} {asker : Option AdminHdr} {s : State} (hk : Keeps pm s0 s) (hm : Sub 0x3804c00 pm := by first | with_reducible assumption | (refine Sub.of ?_ (by with_reducible assumption); with_unfolding_all rfl)) :
    Keeps pm s0 (fwActionEffect ca slot asker s).2 := by
  unfold fwActionEffect
  try dsimp only
  repeat' first
    | with_reducible assumption
    | (with_reducible intro t; intros)
    | with_reducible refine foldl_keeps ?_ ?_
    | with_reducible refine startActivation_keeps ?_ 
    | with_reducible refine keeps_ite ?_ ?_
    | split
    | with_reducible refine Keeps.upd rfl rfl rfl rfl rfl rfl ?_
theorem fwActionEffect_keepsP {pm : Nat} {s0 : State} {ca : ℕ} {slot : Fin 2} {asker : Option AdminHdr} {s : State} (hk : Keeps pm s0 s) {ra} {rb : State} (e : (fwActionEffect ca slot asker s) = (ra, rb)) (hm : Sub 0x3804c00 pm := by first | with_reducible assumption | (refine Sub.of ?_ (by with_reducible assumption); with_unfolding_all rfl)) :
    Keeps pm s0 rb := by
  have := fwActionEffect_keeps (s0 := s0) (ca := ca) (slot := slot) (asker := asker) (s := s) hk
  rw [e] at this
  exact this

theorem fwAction_keeps {pm : Nat} {s0 : State} {ca : ℕ} {fs : ℕ} {src : Path} {asker : Option AdminHdr} {dictionary : Bool} {s : State} (hk : Keeps pm s0 s) (hm : Sub 0x3884c00 pm := by first | with_reducible assumption | (refine Sub.of ?_ (by with_reducible assumption); with_unfolding_all rfl)) :
    Keeps pm s0 (fwAction ca fs src asker dictionary s).2 := by
  unfold fwAction
  try dsimp only
  repeat' first
    | with_reducible assumption
    | (with_reducible intro t; intros)
    | with_reducible refine foldl_keeps ?_ ?_
    | with_reducible refine recordSlots_keeps ?_ 
    | with_reducible refine fwRefuse_keeps ?_ 
    | with_reducible refine fwActionEffect_keeps ?_ 
    | with_reducible refine fwActionEffect_keepsP ?_  (by assumption)
    | with_reducible refine keeps_ite ?_ ?_
    | split
    | with_reducible refine Keeps.upd rfl rfl rfl rfl rfl rfl ?_
theorem fwAction_keepsP {pm : Nat} {s0 : State} {ca : ℕ} {fs : ℕ} {src : Path} {asker : Option AdminHdr} {dictionary : Bool} {s : State} (hk : Keeps pm s0 s) {ra} {rb : State} (e : (fwAction ca fs src asker dictionary s) = (ra, rb)) (hm : Sub 0x3884c00 pm := by first | with_reducible assumption | (refine Sub.of ?_ (by with_reducible assumption); with_unfolding_all rfl)) :
    Keeps pm s0 rb := by
  have := fwAction_keeps (s0 := s0) (ca := ca) (fs := fs) (src := src) (asker := asker) (dictionary := dictionary) (s := s) hk
  rw [e] at this
  exact this

theorem writeFwAction_keeps {pm : Nat} {s0 : State} {p : Path} {ca : ℕ} {s : State} (hk : Keeps pm s0 s) (hm : Sub 0x3884c00 pm := by first | with_reducible assumption | (refine Sub.of ?_ (by with_reducible assumption); with_unfolding_all rfl)) :
    Keeps pm s0 (writeFwAction p ca s).2 := by
  unfold writeFwAction
  try dsimp only
  repeat' first
    | with_reducible assumption
    | (with_reducible intro t; intros)
    | with_reducible refine foldl_keeps ?_ ?_
    | with_reducible refine fwAction_keeps ?_ 
    | with_reducible refine fwAction_keepsP ?_  (by assumption)
    | with_reducible refine keeps_ite ?_ ?_
    | split
    | with_reducible refine Keeps.upd rfl rfl rfl rfl rfl rfl ?_
theorem writeFwAction_keepsP {pm : Nat} {s0 : State} {p : Path} {ca : ℕ} {s : State} (hk : Keeps pm s0 s) {ra} {rb : State} (e : (writeFwAction p ca s) = (ra, rb)) (hm : Sub 0x3884c00 pm := by first | with_reducible assumption | (refine Sub.of ?_ (by with_reducible assumption); with_unfolding_all rfl)) :
    Keeps pm s0 rb := by
  have := writeFwAction_keeps (s0 := s0) (p := p) (ca := ca) (s := s) hk
  rw [e] at this
  exact this

theorem setEvtMode_keeps {pm : Nat} {s0 : State} {fill : Bool} {s : State} (hk : Keeps pm s0 s) (hm : Sub 0x800000 pm := by first | with_reducible assumption | (refine Sub.of ?_ (by with_reducible assumption); with_unfolding_all rfl)) :
    Keeps pm s0 (setEvtMode fill s) := by
  unfold setEvtMode
  split
  · exact hk
  · exact Keeps.updEvr hk rfl rfl RecorderOk.close

theorem freeze_keeps {pm : Nat} {s0 : State}  {s : State} (hk : Keeps pm s0 s) (hm : Sub 0x800000 pm := by first | with_reducible assumption | (refine Sub.of ?_ (by with_reducible assumption); with_unfolding_all rfl)) :
    Keeps pm s0 (freeze s) := by
  unfold freeze
  split
  · exact hk
  · exact Keeps.updEvr hk rfl rfl RecorderOk.close

theorem retireByRequest_keeps {pm : Nat} {s0 : State} {v : ℕ} {s : State} (hk : Keeps pm s0 s) (hm : Sub 0x40000 pm := by first | with_reducible assumption | (refine Sub.of ?_ (by with_reducible assumption); with_unfolding_all rfl)) :
    Keeps pm s0 (retireByRequest v s) := by
  unfold retireByRequest
  try dsimp only
  repeat' first
    | with_reducible assumption
    | (with_reducible intro t; intros)
    | with_reducible refine foldl_keeps ?_ ?_
    | with_reducible refine retireUnit_keeps ?_ 
    | with_reducible refine keeps_ite ?_ ?_
    | split
    | with_reducible refine Keeps.upd rfl rfl rfl rfl rfl rfl ?_

theorem specialWrite_keeps {pm : Nat} {s0 : State} {p : Path} {index sub : Nat} {v : List Byte} {s : State} (hk : Keeps pm s0 s) (hm : Sub 0xbff5e40 pm := by first | with_reducible assumption | (refine Sub.of ?_ (by with_reducible assumption); with_unfolding_all rfl)) : OptKeeps pm s0 (specialWrite p index sub v s) := by
  unfold specialWrite
  dsimp only
  refine optKeeps_ite (optKeeps_pair (writeOem_keeps hk)) ?_
  refine optKeeps_ite (optKeeps_pair (enterPriv_keeps hk)) ?_
  refine optKeeps_ite (optKeeps_some (writeLock_keeps hk)) ?_
  refine optKeeps_ite (optKeeps_some (refreshAlert_keeps (storeValue_keeps hk))) ?_
  refine optKeeps_ite (optKeeps_some (clearMctpStatus_keeps hk)) ?_
  refine optKeeps_ite (optKeeps_some (keeps_ite (Keeps.upd rfl rfl rfl rfl rfl rfl hk) hk)) ?_
  refine optKeeps_ite (optKeeps_some (requestMode_keeps (storeValue_keeps hk))) ?_
  refine optKeeps_ite (optKeeps_some (applyDirtyLimit_keeps (storeValue_keeps hk))) ?_
  refine optKeeps_ite (optKeeps_some (Keeps.upd rfl rfl rfl rfl rfl rfl (storeValue_keeps hk))) ?_
  refine optKeeps_ite (optKeeps_some (recountBands_keeps (storeValue_keeps hk))) ?_
  refine optKeeps_ite (optKeeps_some (writeCaptureCtrl_keeps hk)) ?_
  refine optKeeps_ite (optKeeps_some (restartDecim_keeps (Keeps.upd rfl rfl rfl rfl rfl rfl hk))) ?_
  refine optKeeps_ite (optKeeps_some (storeValue_keeps hk)) ?_
  refine optKeeps_ite (optKeeps_some (Keeps.upd rfl rfl rfl rfl rfl rfl hk)) ?_
  refine optKeeps_ite (optKeeps_some (requestKinds_keeps hk)) ?_
  refine optKeeps_ite ?_ ?_
  · split
    · exact optKeeps_some (Keeps.upd rfl rfl rfl rfl rfl rfl hk)
    · exact optKeeps_some (Keeps.upd rfl rfl rfl rfl rfl rfl hk)
    · exact optKeeps_some (oemStart_keeps hk)
    · exact optKeeps_some (Keeps.upd rfl rfl rfl rfl rfl rfl hk)
  refine optKeeps_ite (optKeeps_some (eraseSlot_keeps hk)) ?_
  refine optKeeps_ite (optKeeps_some (abortStaging_keeps hk)) ?_
  refine optKeeps_ite (optKeeps_ite (optKeeps_some (modPath_keeps hk)) (optKeeps_pair (deliverPiece_keeps (pieceOfBytes_keeps hk)))) ?_
  refine optKeeps_ite (optKeeps_ite (optKeeps_pair (writeFwAction_keeps hk)) (optKeeps_some (Keeps.upd rfl rfl rfl rfl rfl rfl hk))) ?_
  refine optKeeps_ite (optKeeps_some (setEvtMode_keeps (storeValue_keeps hk))) ?_
  refine optKeeps_ite (optKeeps_some (keeps_ite (freeze_keeps hk) (unfreeze_keeps hk))) ?_
  refine optKeeps_ite (optKeeps_some (Keeps.upd rfl rfl rfl rfl rfl rfl hk)) ?_
  refine optKeeps_ite (optKeeps_ite (optKeeps_some (retireByRequest_keeps hk)) (optKeeps_some (Keeps.upd rfl rfl rfl rfl rfl rfl hk))) ?_
  exact optKeeps_none

theorem writeWhole_keeps {pm : Nat} {s0 : State} {p : Path} {w : Waiter} {index sub : Nat} {o : Obj} {v : List Byte} {s : State} (hk : Keeps pm s0 s) (hm : Sub 0xbff5e40 pm := by first | with_reducible assumption | (refine Sub.of ?_ (by with_reducible assumption); with_unfolding_all rfl)) :
    Keeps pm s0 (writeWhole p w index sub o v s).2 := by
  unfold writeWhole
  dsimp only
  split
  · exact hk
  · split
    · dsimp only
      split
      · exact noteRefusal_keeps hk
      · exact hk
    · split
      · split
        · exact requestDiscard_keeps hk
        · exact requestCommit_keeps hk
      · split
        · exact stageValue_keeps hk
        · split
          · next r h => exact (specialWrite_keeps hk) r h
          · exact storeValue_keeps hk
theorem writeWhole_keepsP {pm : Nat} {s0 : State} {p : Path} {w : Waiter} {index sub : Nat} {o : Obj} {v : List Byte} {s : State}
    (hk : Keeps pm s0 s) {ra} {rb : State} (e : writeWhole p w index sub o v s = (ra, rb)) (hm : Sub 0xbff5e40 pm := by first | with_reducible assumption | (refine Sub.of ?_ (by with_reducible assumption); with_unfolding_all rfl)) : Keeps pm s0 rb := by
  have := writeWhole_keeps (p := p) (w := w) (index := index) (sub := sub) (o := o) (v := v) hk
  rw [e] at this
  exact this

theorem dictWrite_keeps {pm : Nat} {s0 : State} {p : Path} {w : Waiter} {index : ℕ} {sub : ℕ} {v : List Byte} {s : State} (hk : Keeps pm s0 s) (hm : Sub 0xbff5e40 pm := by first | with_reducible assumption | (refine Sub.of ?_ (by with_reducible assumption); with_unfolding_all rfl)) :
    Keeps pm s0 (dictWrite p w index sub v s).2 := by
  unfold dictWrite
  try dsimp only
  repeat' first
    | with_reducible assumption
    | (with_reducible intro t; intros)
    | with_reducible refine foldl_keeps ?_ ?_
    | with_reducible refine writeWhole_keeps ?_ 
    | with_reducible refine writeWhole_keepsP ?_  (by assumption)
    | with_reducible refine keeps_ite ?_ ?_
    | split
    | with_reducible refine Keeps.upd rfl rfl rfl rfl rfl rfl ?_
theorem dictWrite_keepsP {pm : Nat} {s0 : State} {p : Path} {w : Waiter} {index : ℕ} {sub : ℕ} {v : List Byte} {s : State} (hk : Keeps pm s0 s) {ra} {rb : State} (e : (dictWrite p w index sub v s) = (ra, rb)) (hm : Sub 0xbff5e40 pm := by first | with_reducible assumption | (refine Sub.of ?_ (by with_reducible assumption); with_unfolding_all rfl)) :
    Keeps pm s0 rb := by
  have := dictWrite_keeps (s0 := s0) (p := p) (w := w) (index := index) (sub := sub) (v := v) (s := s) hk
  rw [e] at this
  exact this

theorem dirtyAgain_keeps {pm : Nat} {s0 : State} {k : BandKey} {offs : List ℕ} {s : State} (hk : Keeps pm s0 s) (hm : Sub 0x20000 pm := by first | with_reducible assumption | (refine Sub.of ?_ (by with_reducible assumption); with_unfolding_all rfl)) :
    Keeps pm s0 (dirtyAgain k offs s) := by
  unfold dirtyAgain
  try dsimp only
  repeat' first
    | with_reducible assumption
    | (with_reducible intro t; intros)
    | with_reducible refine foldl_keeps ?_ ?_
    | with_reducible refine mapLines_keeps ?_ 
    | with_reducible refine keeps_ite ?_ ?_
    | split
    | with_reducible refine Keeps.upd rfl rfl rfl rfl rfl rfl ?_

theorem portEvent_keeps {pm : Nat} {s0 : State} {p : PortId} {kind : ℕ} {s : State} (hk : Keeps pm s0 s) (hm : Sub 0x1000000 pm := by first | with_reducible assumption | (refine Sub.of ?_ (by with_reducible assumption); with_unfolding_all rfl)) :
    Keeps pm s0 (portEvent p kind s) := by
  unfold portEvent
  try dsimp only
  repeat' first
    | with_reducible assumption
    | (with_reducible intro t; intros)
    | with_reducible refine foldl_keeps ?_ ?_
    | with_reducible refine raise_keeps ?_ 
    | with_reducible refine keeps_ite ?_ ?_
    | split
    | with_reducible refine Keeps.upd rfl rfl rfl rfl rfl rfl ?_

theorem dropLink_keeps {pm : Nat} {s0 : State} {p : PortId} {s : State} (hk : Keeps pm s0 s) (hm : Sub 0x1000c00 pm := by first | with_reducible assumption | (refine Sub.of ?_ (by with_reducible assumption); with_unfolding_all rfl)) :
    Keeps pm s0 (dropLink p s) := by
  unfold dropLink
  try dsimp only
  repeat' first
    | with_reducible assumption
    | (with_reducible intro t; intros)
    | with_reducible refine foldl_keeps ?_ ?_
    | with_reducible refine State.modPort_keeps ?_ 
    | with_reducible refine portEvent_keeps ?_ 
    | with_reducible refine keeps_ite ?_ ?_
    | split
    | with_reducible refine Keeps.upd rfl rfl rfl rfl rfl rfl ?_

theorem dropRun_keeps {pm : Nat} {s0 : State} {k : BandKey} {s : State} (hk : Keeps pm s0 s) (hm : Sub 0x28040 pm := by first | with_reducible assumption | (refine Sub.of ?_ (by with_reducible assumption); with_unfolding_all rfl)) :
    Keeps pm s0 (dropRun k s) := by
  unfold dropRun
  try dsimp only
  repeat' first
    | with_reducible assumption
    | (with_reducible intro t; intros)
    | with_reducible refine foldl_keeps ?_ ?_
    | with_reducible refine endRun_keeps ?_ 
    | with_reducible refine keeps_ite ?_ ?_
    | split
    | with_reducible refine Keeps.upd rfl rfl rfl rfl rfl rfl ?_

theorem dropSegment_keeps {pm : Nat} {s0 : State} {p : Path} {s : State} (hk : Keeps pm s0 s) (hm : Sub 0x400000 pm := by first | with_reducible assumption | (refine Sub.of ?_ (by with_reducible assumption); with_unfolding_all rfl)) :
    Keeps pm s0 (dropSegment p s) := by
  unfold dropSegment
  try dsimp only
  repeat' first
    | with_reducible assumption
    | (with_reducible intro t; intros)
    | with_reducible refine foldl_keeps ?_ ?_
    | with_reducible refine modPath_keeps ?_ 
    | with_reducible refine keeps_ite ?_ ?_
    | split
    | with_reducible refine Keeps.upd rfl rfl rfl rfl rfl rfl ?_

theorem earlyEnds_keeps {pm : Nat} {s0 : State} {n : ChanId} {l : Ladder} {s : State} (hk : Keeps pm s0 s) (hm : Sub 0x4040 pm := by first | with_reducible assumption | (refine Sub.of ?_ (by with_reducible assumption); with_unfolding_all rfl)) :
    Keeps pm s0 (earlyEnds n l s) := by
  unfold earlyEnds
  try dsimp only
  repeat' first
    | with_reducible assumption
    | (with_reducible intro t; intros)
    | with_reducible refine foldl_keeps ?_ ?_
    | with_reducible refine arriveBadFor_keeps ?_ 
    | with_reducible refine modLadder_keeps ?_ 
    | with_reducible refine keeps_ite ?_ ?_
    | split
    | with_reducible refine Keeps.upd rfl rfl rfl rfl rfl rfl ?_

theorem endActivation_keeps {pm : Nat} {s0 : State} {st : Status} {s : State} (hk : Keeps pm s0 s) (hm : Sub 0x2006c00 pm := by first | with_reducible assumption | (refine Sub.of ?_ (by with_reducible assumption); with_unfolding_all rfl)) :
    Keeps pm s0 (endActivation st s) := by
  unfold endActivation
  try dsimp only
  repeat' first
    | with_reducible assumption
    | (with_reducible intro t; intros)
    | with_reducible refine foldl_keeps ?_ ?_
    | with_reducible refine State.modPorts_keeps ?_ 
    | with_reducible refine adminDone_keeps ?_ 
    | with_reducible refine keeps_ite ?_ ?_
    | split
    | with_reducible refine Keeps.upd rfl rfl rfl rfl rfl rfl ?_

theorem endNsCommands_keeps {pm : Nat} {s0 : State} {nsid : ℕ} {s : State} (hk : Keeps pm s0 s) (hm : Sub 0x102fc40 pm := by first | with_reducible assumption | (refine Sub.of ?_ (by with_reducible assumption); with_unfolding_all rfl)) :
    Keeps pm s0 (endNsCommands nsid s) := by
  unfold endNsCommands
  try dsimp only
  repeat' first
    | with_reducible assumption
    | (with_reducible intro t; intros)
    | with_reducible refine foldl_keeps ?_ ?_
    | with_reducible refine endUnacked_keeps ?_ 
    | with_reducible refine keeps_ite ?_ ?_
    | split
    | with_reducible refine Keeps.upd rfl rfl rfl rfl rfl rfl ?_

end Sys2Proof.Machine
end

