-- ==== Sys2Proof/Laws/Frame08.lean ====
section
/-! SUPPORT. What each operation keeps (see Keeps), in the order in which operations call each other: stageResult to restoreMap. -/

set_option linter.unusedTactic false
set_option linter.unreachableTactic false
set_option Elab.async false

namespace Sys2Proof.Machine

theorem stageResult_keeps {pm : Nat} {s0 : State} {x : CalStaged} {touched : Bool} {s : State} (hk : Keeps pm s0 s) (hm : Sub 0x1000200 pm := by first | with_reducible assumption | (refine Sub.of ?_ (by with_reducible assumption); with_unfolding_all rfl)) :
    Keeps pm s0 (stageResult x touched s) := by
  unfold stageResult
  try dsimp only
  repeat' first
    | with_reducible assumption
    | (with_reducible intro t; intros)
    | with_reducible refine foldl_keeps ?_ ?_
    | with_reducible refine recordResult_keeps ?_ 
    | with_reducible refine keeps_ite ?_ ?_
    | split
    | with_reducible refine Keeps.upd rfl rfl rfl rfl rfl rfl ?_

theorem endOrdinaryRun_keeps {pm : Nat} {s0 : State} {h : HeadId} {k : CalKind} {zone : ℕ} {s : State} (hk : Keeps pm s0 s) (hm : Sub 0x1040201 pm := by first | with_reducible assumption | (refine Sub.of ?_ (by with_reducible assumption); with_unfolding_all rfl)) :
    Keeps pm s0 (endOrdinaryRun h k zone s) := by
  unfold endOrdinaryRun
  try dsimp only
  repeat' first
    | with_reducible assumption
    | (with_reducible intro t; intros)
    | with_reducible refine foldl_keeps ?_ ?_
    | with_reducible refine dropRequest_keeps ?_ 
    | with_reducible refine abandonRun_keeps ?_ 
    | with_reducible refine recordResult_keeps ?_ 
    | with_reducible refine stageResult_keeps ?_ 
    | with_reducible refine keeps_ite ?_ ?_
    | split
    | with_reducible refine Keeps.upd rfl rfl rfl rfl rfl rfl ?_

theorem endReplay_keeps {pm : Nat} {s0 : State} {s : State} (hk : Keeps pm s0 s) (hm : Sub 0x51efee1 pm := by first | with_reducible assumption | (refine Sub.of ?_ (by with_reducible assumption); with_unfolding_all rfl)) :
    Keeps pm s0 (endReplay s) := by
  unfold endReplay
  try dsimp only
  repeat' first
    | with_reducible assumption
    | (with_reducible intro t; intros)
    | with_reducible refine foldl_keeps ?_ ?_
    | with_reducible refine enterPhase_keeps ?_ 
    | with_reducible refine retirementInstant_keeps ?_ 
    | with_reducible refine keeps_ite ?_ ?_
    | split
    | with_reducible refine Keeps.upd rfl rfl rfl rfl rfl rfl ?_

theorem refuseCtx_keeps {pm : Nat} {s0 : State} {c : Ctx} {st : Status} {s : State} (hk : Keeps pm s0 s) (hm : Sub 0x1006c00 pm := by first | with_reducible assumption | (refine Sub.of ?_ (by with_reducible assumption); with_unfolding_all rfl)) :
    Keeps pm s0 (refuseCtx c st s) := by
  unfold refuseCtx
  try dsimp only
  repeat' first
    | with_reducible assumption
    | (with_reducible intro t; intros)
    | with_reducible refine foldl_keeps ?_ ?_
    | with_reducible refine commitCtx_keeps ?_ 
    | with_reducible refine cmdRefused_keeps ?_ 
    | with_reducible refine keeps_ite ?_ ?_
    | split
    | with_reducible refine Keeps.upd rfl rfl rfl rfl rfl rfl ?_

theorem endReservation_keeps {pm : Nat} {s0 : State} {c : Ctx} {st : Status} {s : State} (hk : Keeps pm s0 s) (hm : Sub 0x50efe69 pm := by first | with_reducible assumption | (refine Sub.of ?_ (by with_reducible assumption); with_unfolding_all rfl)) :
    Keeps pm s0 (endReservation c st s) := by
  unfold endReservation
  try dsimp only
  repeat' first
    | with_reducible assumption
    | (with_reducible intro t; intros)
    | with_reducible refine foldl_keeps ?_ ?_
    | with_reducible refine commitCtx_keeps ?_ 
    | with_reducible refine progress_keeps ?_ 
    | with_reducible refine refuseCtx_keeps ?_ 
    | with_reducible refine keeps_ite ?_ ?_
    | split
    | with_reducible refine Keeps.upd rfl rfl rfl rfl rfl rfl ?_

theorem endStalls_keeps {pm : Nat} {s0 : State} {h : HeadId} {s : State} (hk : Keeps pm s0 s) (hm : Sub 0x80 pm := by first | with_reducible assumption | (refine Sub.of ?_ (by with_reducible assumption); with_unfolding_all rfl)) :
    Keeps pm s0 (endStalls h s) := by
  unfold endStalls
  try dsimp only
  repeat' first
    | with_reducible assumption
    | (with_reducible intro t; intros)
    | with_reducible refine foldl_keeps ?_ ?_
    | with_reducible refine State.modHead_keeps ?_ 
    | with_reducible refine keeps_ite ?_ ?_
    | split
    | with_reducible refine Keeps.upd rfl rfl rfl rfl rfl rfl ?_

theorem headFinished_keeps {pm : Nat} {s0 : State} {h : HeadId} {s : State} (hk : Keeps pm s0 s) (hm : Sub 0x1020a01 pm := by first | with_reducible assumption | (refine Sub.of ?_ (by with_reducible assumption); with_unfolding_all rfl)) :
    Keeps pm s0 (headFinished h s) := by
  unfold headFinished
  try dsimp only
  repeat' first
    | with_reducible assumption
    | (with_reducible intro t; intros)
    | with_reducible refine foldl_keeps ?_ ?_
    | with_reducible refine calibrateDone_keeps ?_ 
    | with_reducible refine keeps_ite ?_ ?_
    | split
    | with_reducible refine Keeps.upd rfl rfl rfl rfl rfl rfl ?_

theorem endTrackRun_keeps {pm : Nat} {s0 : State} {n : ChanId} {r : CalRunning} {k : CalKind} {s : State} (hk : Keeps pm s0 s) (hm : Sub 0x1060a01 pm := by first | with_reducible assumption | (refine Sub.of ?_ (by with_reducible assumption); with_unfolding_all rfl)) :
    Keeps pm s0 (endTrackRun n r k s) := by
  unfold endTrackRun
  try dsimp only
  repeat' first
    | with_reducible assumption
    | (with_reducible intro t; intros)
    | with_reducible refine foldl_keeps ?_ ?_
    | with_reducible refine modHeadCal_keeps ?_ 
    | with_reducible refine dropRequest_keeps ?_ 
    | with_reducible refine abandonRun_keeps ?_ 
    | with_reducible refine recordResult_keeps ?_ 
    | with_reducible refine stageResult_keeps ?_ 
    | with_reducible refine headFinished_keeps ?_ 
    | with_reducible refine keeps_ite ?_ ?_
    | split
    | with_reducible refine Keeps.upd rfl rfl rfl rfl rfl rfl ?_

theorem endVerify_keeps {pm : Nat} {s0 : State} {n : ChanId} {r : CalRunning} {s : State} (hk : Keeps pm s0 s) (hm : Sub 0x1020a01 pm := by first | with_reducible assumption | (refine Sub.of ?_ (by with_reducible assumption); with_unfolding_all rfl)) :
    Keeps pm s0 (endVerify n r s) := by
  unfold endVerify
  try dsimp only
  repeat' first
    | with_reducible assumption
    | (with_reducible intro t; intros)
    | with_reducible refine foldl_keeps ?_ ?_
    | with_reducible refine requestFull_keeps ?_ 
    | with_reducible refine headFinished_keeps ?_ 
    | with_reducible refine keeps_ite ?_ ?_
    | split
    | with_reducible refine Keeps.upd rfl rfl rfl rfl rfl rfl ?_

theorem selectFrame_keeps {pm : Nat} {s0 : State} {n : ChanId} {h : HeadId} {s : State} (hk : Keeps pm s0 s) (hm : Sub 0x40 pm := by first | with_reducible assumption | (refine Sub.of ?_ (by with_reducible assumption); with_unfolding_all rfl)) :
    Keeps pm s0 (selectFrame n h s) := by
  unfold selectFrame
  try dsimp only
  repeat' first
    | with_reducible assumption
    | (with_reducible intro t; intros)
    | with_reducible refine foldl_keeps ?_ ?_
    | with_reducible refine State.modWr_keeps ?_ 
    | with_reducible refine otherFrame_keeps ?_ 
    | with_reducible refine keeps_ite ?_ ?_
    | split
    | with_reducible refine Keeps.upd rfl rfl rfl rfl rfl rfl ?_

theorem switchHead_keeps {pm : Nat} {s0 : State} {n : ChanId} {h : HeadId} {dev : ℤ} {s : State} (hk : Keeps pm s0 s) (hm : Sub 0x40 pm := by first | with_reducible assumption | (refine Sub.of ?_ (by with_reducible assumption); with_unfolding_all rfl)) :
    Keeps pm s0 (switchHead n h dev s) := by
  unfold switchHead
  try dsimp only
  repeat' first
    | with_reducible assumption
    | (with_reducible intro t; intros)
    | with_reducible refine foldl_keeps ?_ ?_
    | with_reducible refine State.modSdm_keeps ?_ 
    | with_reducible refine selectFrame_keeps ?_ 
    | with_reducible refine keeps_ite ?_ ?_
    | split
    | with_reducible refine Keeps.upd rfl rfl rfl rfl rfl rfl ?_

theorem latchAccess_keeps {pm : Nat} {s0 : State} {n : ChanId} {dev : ℤ} {s : State} (hk : Keeps pm s0 s) (hm : Sub 0x40 pm := by first | with_reducible assumption | (refine Sub.of ?_ (by with_reducible assumption); with_unfolding_all rfl)) :
    Keeps pm s0 (latchAccess n dev s) := by
  unfold latchAccess
  try dsimp only
  repeat' first
    | with_reducible assumption
    | (with_reducible intro t; intros)
    | with_reducible refine foldl_keeps ?_ ?_
    | with_reducible refine State.modChan_keeps ?_ 
    | with_reducible refine switchHead_keeps ?_ 
    | with_reducible refine keeps_ite ?_ ?_
    | split
    | with_reducible refine Keeps.upd rfl rfl rfl rfl rfl rfl ?_

theorem loadSettles_keeps {pm : Nat} {s0 : State} {n : ChanId} {p : ℤ} {s : State} (hk : Keeps pm s0 s) (hm : Sub 0x40 pm := by first | with_reducible assumption | (refine Sub.of ?_ (by with_reducible assumption); with_unfolding_all rfl)) :
    Keeps pm s0 (loadSettles n p s) := by
  unfold loadSettles
  try dsimp only
  repeat' first
    | with_reducible assumption
    | (with_reducible intro t; intros)
    | with_reducible refine foldl_keeps ?_ ?_
    | with_reducible refine State.modChan_keeps ?_ 
    | with_reducible refine keeps_ite ?_ ?_
    | split
    | with_reducible refine Keeps.upd rfl rfl rfl rfl rfl rfl ?_

theorem reinitialise_keeps {pm : Nat} {s0 : State} {n : ChanId} {s : State} (hk : Keeps pm s0 s) (hm : Sub 0x40 pm := by first | with_reducible assumption | (refine Sub.of ?_ (by with_reducible assumption); with_unfolding_all rfl)) :
    Keeps pm s0 (reinitialise n s) := by
  unfold reinitialise
  try dsimp only
  repeat' first
    | with_reducible assumption
    | (with_reducible intro t; intros)
    | with_reducible refine foldl_keeps ?_ ?_
    | with_reducible refine State.modCe_keeps ?_ 
    | with_reducible refine keeps_ite ?_ ?_
    | split
    | with_reducible refine Keeps.upd rfl rfl rfl rfl rfl rfl ?_

theorem reinitIfDue_keeps {pm : Nat} {s0 : State} {n : ChanId} {s : State} (hk : Keeps pm s0 s) (hm : Sub 0x1040040 pm := by first | with_reducible assumption | (refine Sub.of ?_ (by with_reducible assumption); with_unfolding_all rfl)) :
    Keeps pm s0 (reinitIfDue n s) := by
  unfold reinitIfDue
  try dsimp only
  repeat' first
    | with_reducible assumption
    | (with_reducible intro t; intros)
    | with_reducible refine foldl_keeps ?_ ?_
    | with_reducible refine State.modCe_keeps ?_ 
    | with_reducible refine transientFault_keeps ?_ 
    | with_reducible refine reinitialise_keeps ?_ 
    | with_reducible refine keeps_ite ?_ ?_
    | split
    | with_reducible refine Keeps.upd rfl rfl rfl rfl rfl rfl ?_

theorem loadComplete_keeps {pm : Nat} {s0 : State} {n : ChanId} {s : State} (hk : Keeps pm s0 s) (hm : Sub 0x50efee1 pm := by first | with_reducible assumption | (refine Sub.of ?_ (by with_reducible assumption); with_unfolding_all rfl)) :
    Keeps pm s0 (loadComplete n s) := by
  unfold loadComplete
  try dsimp only
  repeat' first
    | with_reducible assumption
    | (with_reducible intro t; intros)
    | with_reducible refine foldl_keeps ?_ ?_
    | with_reducible refine State.modChan_keeps ?_ 
    | with_reducible refine charge_keeps ?_ 
    | with_reducible refine modeFrame_keeps ?_ 
    | with_reducible refine loadsDone_keeps ?_ 
    | with_reducible refine keeps_ite ?_ ?_
    | split
    | with_reducible refine Keeps.upd rfl rfl rfl rfl rfl rfl ?_

theorem seekRunEnd_keeps {pm : Nat} {s0 : State} {n : ChanId} {s : State} (hk : Keeps pm s0 s) (hm : Sub 0x40000 pm := by first | with_reducible assumption | (refine Sub.of ?_ (by with_reducible assumption); with_unfolding_all rfl)) :
    Keeps pm s0 (seekRunEnd n s) := by
  unfold seekRunEnd
  try dsimp only
  repeat' first
    | with_reducible assumption
    | (with_reducible intro t; intros)
    | with_reducible refine foldl_keeps ?_ ?_
    | with_reducible refine keeps_ite ?_ ?_
    | split
    | with_reducible refine Keeps.upd rfl rfl rfl rfl rfl rfl ?_

theorem moveDone_keeps {pm : Nat} {s0 : State} {n : ChanId} {s : State} (hk : Keeps pm s0 s) (hm : Sub 0x50efee1 pm := by first | with_reducible assumption | (refine Sub.of ?_ (by with_reducible assumption); with_unfolding_all rfl)) :
    Keeps pm s0 (moveDone n s) := by
  unfold moveDone
  try dsimp only
  repeat' first
    | with_reducible assumption
    | (with_reducible intro t; intros)
    | with_reducible refine foldl_keeps ?_ ?_
    | with_reducible refine State.modChan_keeps ?_ 
    | with_reducible refine loadComplete_keeps ?_ 
    | with_reducible refine seekRunEnd_keeps ?_ 
    | with_reducible refine keeps_ite ?_ ?_
    | split
    | with_reducible refine Keeps.upd rfl rfl rfl rfl rfl rfl ?_

theorem parityError_keeps {pm : Nat} {s0 : State} {n : ChanId} {copies : Fin 3} {s : State} (hk : Keeps pm s0 s) (hm : Sub 0x1040040 pm := by first | with_reducible assumption | (refine Sub.of ?_ (by with_reducible assumption); with_unfolding_all rfl)) :
    Keeps pm s0 (parityError n copies s) := by
  unfold parityError
  try dsimp only
  repeat' first
    | with_reducible assumption
    | (with_reducible intro t; intros)
    | with_reducible refine foldl_keeps ?_ ?_
    | with_reducible refine State.modCe_keeps ?_ 
    | with_reducible refine chanFault_keeps ?_ 
    | with_reducible refine abandon_keeps ?_ 
    | with_reducible refine charge_keeps ?_ 
    | with_reducible refine keeps_ite ?_ ?_
    | split
    | with_reducible refine Keeps.upd rfl rfl rfl rfl rfl rfl ?_

theorem fileExcursion_keeps {pm : Nat} {s0 : State} {kind : OpKind} {k : BandKey} {offs : List ℕ} {s : State} (hk : Keeps pm s0 s) (hm : Sub 0x8000 pm := by first | with_reducible assumption | (refine Sub.of ?_ (by with_reducible assumption); with_unfolding_all rfl)) :
    Keeps pm s0 (fileExcursion kind k offs s) := by
  unfold fileExcursion
  try dsimp only
  repeat' first
    | with_reducible assumption
    | (with_reducible intro t; intros)
    | with_reducible refine foldl_keeps ?_ ?_
    | with_reducible refine fileOp_keeps ?_ 
    | with_reducible refine keeps_ite ?_ ?_
    | split
    | with_reducible refine Keeps.upd rfl rfl rfl rfl rfl rfl ?_

theorem noteExcursion_keeps {pm : Nat} {s0 : State} {n : ChanId} {k : BandKey} {t : ℕ} {wedge : ℕ} {s : State} (hk : Keeps pm s0 s) (hm : Sub 0x1028040 pm := by first | with_reducible assumption | (refine Sub.of ?_ (by with_reducible assumption); with_unfolding_all rfl)) :
    Keeps pm s0 (noteExcursion n k t wedge s) := by
  unfold noteExcursion
  try dsimp only
  repeat' first
    | with_reducible assumption
    | (with_reducible intro t; intros)
    | with_reducible refine foldl_keeps ?_ ?_
    | with_reducible refine State.modWr_keeps ?_ 
    | with_reducible refine raise_keeps ?_ 
    | with_reducible refine dirtyAgain_keeps ?_ 
    | with_reducible refine fileExcursion_keeps ?_ 
    | with_reducible refine keeps_ite ?_ ?_
    | split
    | with_reducible refine Keeps.upd rfl rfl rfl rfl rfl rfl ?_

theorem takeTrim_keeps {pm : Nat} {s0 : State} {n : ChanId} {h : HeadId} {trim : ℤ} {s : State} (hk : Keeps pm s0 s) (hm : Sub 0xc0 pm := by first | with_reducible assumption | (refine Sub.of ?_ (by with_reducible assumption); with_unfolding_all rfl)) :
    Keeps pm s0 (takeTrim n h trim s).2 := by
  unfold takeTrim
  try dsimp only
  repeat' first
    | with_reducible assumption
    | (with_reducible intro t; intros)
    | with_reducible refine foldl_keeps ?_ ?_
    | with_reducible refine State.modHead_keeps ?_ 
    | with_reducible refine State.modWr_keeps ?_ 
    | with_reducible refine keeps_ite ?_ ?_
    | split
    | with_reducible refine Keeps.upd rfl rfl rfl rfl rfl rfl ?_
theorem takeTrim_keepsP {pm : Nat} {s0 : State} {n : ChanId} {h : HeadId} {trim : ℤ} {s : State} (hk : Keeps pm s0 s) {ra} {rb : State} (e : (takeTrim n h trim s) = (ra, rb)) (hm : Sub 0xc0 pm := by first | with_reducible assumption | (refine Sub.of ?_ (by with_reducible assumption); with_unfolding_all rfl)) :
    Keeps pm s0 rb := by
  have := takeTrim_keeps (s0 := s0) (n := n) (h := h) (trim := trim) (s := s) hk
  rw [e] at this
  exact this

theorem levelAtStrobe_keeps {pm : Nat} {s0 : State} {n : ChanId} {s : State} (hk : Keeps pm s0 s) (hm : Sub 0xc0 pm := by first | with_reducible assumption | (refine Sub.of ?_ (by with_reducible assumption); with_unfolding_all rfl)) :
    Keeps pm s0 (levelAtStrobe n s) := by
  unfold levelAtStrobe
  try dsimp only
  repeat' first
    | with_reducible assumption
    | (with_reducible intro t; intros)
    | with_reducible refine foldl_keeps ?_ ?_
    | with_reducible refine State.modWr_keeps ?_ 
    | with_reducible refine flushLevel_keeps ?_ 
    | with_reducible refine takeTrim_keeps ?_ 
    | with_reducible refine takeTrim_keepsP ?_  (by assumption)
    | with_reducible refine keeps_ite ?_ ?_
    | split
    | with_reducible refine Keeps.upd rfl rfl rfl rfl rfl rfl ?_

theorem sendLevel_keeps {pm : Nat} {s0 : State} {n : ChanId} {h : HeadId} {trim : ℤ} {s : State} (hk : Keeps pm s0 s) (hm : Sub 0xc0 pm := by first | with_reducible assumption | (refine Sub.of ?_ (by with_reducible assumption); with_unfolding_all rfl)) :
    Keeps pm s0 (sendLevel n h trim s) := by
  unfold sendLevel
  try dsimp only
  repeat' first
    | with_reducible assumption
    | (with_reducible intro t; intros)
    | with_reducible refine foldl_keeps ?_ ?_
    | with_reducible refine levelFrame_keeps ?_ 
    | with_reducible refine takeTrim_keeps ?_ 
    | with_reducible refine takeTrim_keepsP ?_  (by assumption)
    | with_reducible refine keeps_ite ?_ ?_
    | split
    | with_reducible refine Keeps.upd rfl rfl rfl rfl rfl rfl ?_

theorem runLevel_keeps {pm : Nat} {s0 : State} {n : ChanId} {s : State} (hk : Keeps pm s0 s) (hm : Sub 0xc0 pm := by first | with_reducible assumption | (refine Sub.of ?_ (by with_reducible assumption); with_unfolding_all rfl)) :
    Keeps pm s0 (runLevel n s) := by
  unfold runLevel
  try dsimp only
  repeat' first
    | with_reducible assumption
    | (with_reducible intro t; intros)
    | with_reducible refine foldl_keeps ?_ ?_
    | with_reducible refine levelFrame_keeps ?_ 
    | with_reducible refine sendLevel_keeps ?_ 
    | with_reducible refine keeps_ite ?_ ?_
    | split
    | with_reducible refine Keeps.upd rfl rfl rfl rfl rfl rfl ?_

theorem writerFrames_keeps {pm : Nat} {s0 : State} {n : ChanId} {h : HeadId} {s : State} (hk : Keeps pm s0 s) (hm : Sub 0x40 pm := by first | with_reducible assumption | (refine Sub.of ?_ (by with_reducible assumption); with_unfolding_all rfl)) :
    Keeps pm s0 (writerFrames n h s) := by
  unfold writerFrames
  try dsimp only
  repeat' first
    | with_reducible assumption
    | (with_reducible intro t; intros)
    | with_reducible refine foldl_keeps ?_ ?_
    | with_reducible refine State.modWr_keeps ?_ 
    | with_reducible refine otherFrame_keeps ?_ 
    | with_reducible refine keeps_ite ?_ ?_
    | split
    | with_reducible refine Keeps.upd rfl rfl rfl rfl rfl rfl ?_

theorem runWriter_keeps {pm : Nat} {s0 : State} {n : ChanId} {s : State} (hk : Keeps pm s0 s) (hm : Sub 0x40 pm := by first | with_reducible assumption | (refine Sub.of ?_ (by with_reducible assumption); with_unfolding_all rfl)) :
    Keeps pm s0 (runWriter n s) := by
  unfold runWriter
  try dsimp only
  repeat' first
    | with_reducible assumption
    | (with_reducible intro t; intros)
    | with_reducible refine foldl_keeps ?_ ?_
    | with_reducible refine writerFrames_keeps ?_ 
    | with_reducible refine keeps_ite ?_ ?_
    | split
    | with_reducible refine Keeps.upd rfl rfl rfl rfl rfl rfl ?_

theorem prepareRun_keeps {pm : Nat} {s0 : State} {n : ChanId} {s : State} (hk : Keeps pm s0 s) (hm : Sub 0xc0 pm := by first | with_reducible assumption | (refine Sub.of ?_ (by with_reducible assumption); with_unfolding_all rfl)) :
    Keeps pm s0 (prepareRun n s) := by
  unfold prepareRun
  try dsimp only
  repeat' first
    | with_reducible assumption
    | (with_reducible intro t; intros)
    | with_reducible refine foldl_keeps ?_ ?_
    | with_reducible refine runLevel_keeps ?_ 
    | with_reducible refine runWriter_keeps ?_ 
    | with_reducible refine keeps_ite ?_ ?_
    | split
    | with_reducible refine Keeps.upd rfl rfl rfl rfl rfl rfl ?_

theorem writeAtStrobe_keeps {pm : Nat} {s0 : State} {n : ChanId} {m : Sample} {s : State} (hk : Keeps pm s0 s) (hm : Sub 0x10efcc0 pm := by first | with_reducible assumption | (refine Sub.of ?_ (by with_reducible assumption); with_unfolding_all rfl)) :
    Keeps pm s0 (writeAtStrobe n m s) := by
  unfold writeAtStrobe
  try dsimp only
  repeat' first
    | with_reducible assumption
    | (with_reducible intro t; intros)
    | with_reducible refine foldl_keeps ?_ ?_
    | with_reducible refine State.modWr_keeps ?_ 
    | with_reducible refine assistAtStrobe_keeps ?_ 
    | with_reducible refine gateCheck_keeps ?_ 
    | with_reducible refine noteExcursion_keeps ?_ 
    | with_reducible refine levelAtStrobe_keeps ?_ 
    | with_reducible refine prepareRun_keeps ?_ 
    | with_reducible refine keeps_ite ?_ ?_
    | split
    | with_reducible refine Keeps.upd rfl rfl rfl rfl rfl rfl ?_

theorem evaluateOnTrack_keeps {pm : Nat} {s0 : State} {n : ChanId} {m : Sample} {held : Bool} {s : State} (hk : Keeps pm s0 s) (hm : Sub 0x40 pm := by first | with_reducible assumption | (refine Sub.of ?_ (by with_reducible assumption); with_unfolding_all rfl)) :
    Keeps pm s0 (evaluateOnTrack n m held s) := by
  unfold evaluateOnTrack
  try dsimp only
  repeat' first
    | with_reducible assumption
    | (with_reducible intro t; intros)
    | with_reducible refine foldl_keeps ?_ ?_
    | with_reducible refine State.modSdm_keeps ?_ 
    | with_reducible refine keeps_ite ?_ ?_
    | split
    | with_reducible refine Keeps.upd rfl rfl rfl rfl rfl rfl ?_

theorem engineStrobe_keeps {pm : Nat} {s0 : State} {n : ChanId} {f : ServoField} {m : Sample} {switched : Bool} {wrap : Bool} {s : State} (hk : Keeps pm s0 s) (hm : Sub 0x50efee1 pm := by first | with_reducible assumption | (refine Sub.of ?_ (by with_reducible assumption); with_unfolding_all rfl)) :
    Keeps pm s0 (engineStrobe n f m switched wrap s) := by
  unfold engineStrobe
  try dsimp only
  repeat' first
    | with_reducible assumption
    | (with_reducible intro t; intros)
    | with_reducible refine foldl_keeps ?_ ?_
    | with_reducible refine State.modCe_keeps ?_ 
    | with_reducible refine calStrobe_keeps ?_ 
    | with_reducible refine compute_keeps ?_ 
    | with_reducible refine latchAccess_keeps ?_ 
    | with_reducible refine loadSettles_keeps ?_ 
    | with_reducible refine reinitIfDue_keeps ?_ 
    | with_reducible refine moveDone_keeps ?_ 
    | with_reducible refine parityError_keeps ?_ 
    | with_reducible refine writeAtStrobe_keeps ?_ 
    | with_reducible refine evaluateOnTrack_keeps ?_ 
    | with_reducible refine keeps_ite ?_ ?_
    | split
    | with_reducible refine Keeps.upd rfl rfl rfl rfl rfl rfl ?_

theorem modFeat_keeps {pm : Nat} {s0 : State} {p : PortId} {f : Features → Features} {s : State} (hk : Keeps pm s0 s) (hm : Sub 0xc00 pm := by first | with_reducible assumption | (refine Sub.of ?_ (by with_reducible assumption); with_unfolding_all rfl)) :
    Keeps pm s0 (modFeat p f s) := by
  unfold modFeat
  try dsimp only
  repeat' first
    | with_reducible assumption
    | (with_reducible intro t; intros)
    | with_reducible refine foldl_keeps ?_ ?_
    | with_reducible refine State.modPort_keeps ?_ 
    | with_reducible refine keeps_ite ?_ ?_
    | split
    | with_reducible refine Keeps.upd rfl rfl rfl rfl rfl rfl ?_

theorem enterPs_keeps {pm : Nat} {s0 : State} {p : PortId} {k : ℕ} {s : State} (hk : Keeps pm s0 s) (hm : Sub 0x50efe69 pm := by first | with_reducible assumption | (refine Sub.of ?_ (by with_reducible assumption); with_unfolding_all rfl)) :
    Keeps pm s0 (enterPs p k s) := by
  unfold enterPs
  try dsimp only
  repeat' first
    | with_reducible assumption
    | (with_reducible intro t; intros)
    | with_reducible refine foldl_keeps ?_ ?_
    | with_reducible refine progress_keeps ?_ 
    | with_reducible refine powerStates_keeps ?_ 
    | with_reducible refine modFeat_keeps ?_ 
    | with_reducible refine keeps_ite ?_ ?_
    | split
    | with_reducible refine Keeps.upd rfl rfl rfl rfl rfl rfl ?_

theorem latchThermal_keeps {pm : Nat} {s0 : State} {s : State} (hk : Keeps pm s0 s) (hm : Sub 0x100 pm := by first | with_reducible assumption | (refine Sub.of ?_ (by with_reducible assumption); with_unfolding_all rfl)) :
    Keeps pm s0 (latchThermal s) := by
  unfold latchThermal
  try dsimp only
  repeat' first
    | with_reducible assumption
    | (with_reducible intro t; intros)
    | with_reducible refine foldl_keeps ?_ ?_
    | with_reducible refine keeps_ite ?_ ?_
    | split
    | with_reducible refine Keeps.upd rfl rfl rfl rfl rfl rfl ?_

theorem judgeWarn_keeps {pm : Nat} {s0 : State} {s : State} (hk : Keeps pm s0 s) (hm : Sub 0xd00 pm := by first | with_reducible assumption | (refine Sub.of ?_ (by with_reducible assumption); with_unfolding_all rfl)) :
    Keeps pm s0 (judgeWarn s) := by
  unfold judgeWarn
  try dsimp only
  repeat' first
    | with_reducible assumption
    | (with_reducible intro t; intros)
    | with_reducible refine foldl_keeps ?_ ?_
    | with_reducible refine noteWarning_keeps ?_ 
    | with_reducible refine keeps_ite ?_ ?_
    | split
    | with_reducible refine Keeps.upd rfl rfl rfl rfl rfl rfl ?_

theorem inhibitWrites_keeps {pm : Nat} {s0 : State} {s : State} (hk : Keeps pm s0 s) (hm : Sub 0x102fc40 pm := by first | with_reducible assumption | (refine Sub.of ?_ (by with_reducible assumption); with_unfolding_all rfl)) :
    Keeps pm s0 (inhibitWrites s) := by
  unfold inhibitWrites
  try dsimp only
  repeat' first
    | with_reducible assumption
    | (with_reducible intro t; intros)
    | with_reducible refine foldl_keeps ?_ ?_
    | with_reducible refine endUnacked_keeps ?_ 
    | with_reducible refine cmdRefused_keeps ?_ 
    | with_reducible refine keeps_ite ?_ ?_
    | split
    | with_reducible refine Keeps.upd rfl rfl rfl rfl rfl rfl ?_

theorem judgeWindow_keeps {pm : Nat} {s0 : State} {s : State} (hk : Keeps pm s0 s) (hm : Sub 0x10efd40 pm := by first | with_reducible assumption | (refine Sub.of ?_ (by with_reducible assumption); with_unfolding_all rfl)) :
    Keeps pm s0 (judgeWindow s) := by
  unfold judgeWindow
  try dsimp only
  repeat' first
    | with_reducible assumption
    | (with_reducible intro t; intros)
    | with_reducible refine foldl_keeps ?_ ?_
    | with_reducible refine raise_keeps ?_ 
    | with_reducible refine setFlag_keeps ?_ 
    | with_reducible refine gateCheckAll_keeps ?_ 
    | with_reducible refine inhibitWrites_keeps ?_ 
    | with_reducible refine keeps_ite ?_ ?_
    | split
    | with_reducible refine Keeps.upd rfl rfl rfl rfl rfl rfl ?_

theorem tempTriggers_keeps {pm : Nat} {s0 : State} {s : State} (hk : Keeps pm s0 s) (hm : Sub 0x200 pm := by first | with_reducible assumption | (refine Sub.of ?_ (by with_reducible assumption); with_unfolding_all rfl)) :
    Keeps pm s0 (tempTriggers s) := by
  unfold tempTriggers
  try dsimp only
  repeat' first
    | with_reducible assumption
    | (with_reducible intro t; intros)
    | with_reducible refine foldl_keeps ?_ ?_
    | with_reducible refine requestCal_keeps ?_ 
    | with_reducible refine keeps_ite ?_ ?_
    | split
    | with_reducible refine Keeps.upd rfl rfl rfl rfl rfl rfl ?_

theorem judgeRestart_keeps {pm : Nat} {s0 : State} {s : State} (hk : Keeps pm s0 s) (hm : Sub 0x1024901 pm := by first | with_reducible assumption | (refine Sub.of ?_ (by with_reducible assumption); with_unfolding_all rfl)) :
    Keeps pm s0 (judgeRestart s) := by
  unfold judgeRestart
  try dsimp only
  repeat' first
    | with_reducible assumption
    | (with_reducible intro t; intros)
    | with_reducible refine foldl_keeps ?_ ?_
    | with_reducible refine restartFromSpinWait_keeps ?_ 
    | with_reducible refine keeps_ite ?_ ?_
    | split
    | with_reducible refine Keeps.upd rfl rfl rfl rfl rfl rfl ?_

theorem judgeShutdown_keeps {pm : Nat} {s0 : State} {s : State} (hk : Keeps pm s0 s) (hm : Sub 0x50efe61 pm := by first | with_reducible assumption | (refine Sub.of ?_ (by with_reducible assumption); with_unfolding_all rfl)) :
    Keeps pm s0 (judgeShutdown s) := by
  unfold judgeShutdown
  try dsimp only
  repeat' first
    | with_reducible assumption
    | (with_reducible intro t; intros)
    | with_reducible refine foldl_keeps ?_ ?_
    | with_reducible refine raise_keeps ?_ 
    | with_reducible refine thermalProgress_keeps ?_ 
    | with_reducible refine keeps_ite ?_ ?_
    | split
    | with_reducible refine Keeps.upd rfl rfl rfl rfl rfl rfl ?_

theorem envDecision_keeps {pm : Nat} {s0 : State} {r : Vector SensorInput 11} {s : State} (hk : Keeps pm s0 s) (hm : Sub 0x50eff61 pm := by first | with_reducible assumption | (refine Sub.of ?_ (by with_reducible assumption); with_unfolding_all rfl)) :
    Keeps pm s0 (envDecision r s) := by
  unfold envDecision
  try dsimp only
  repeat' first
    | with_reducible assumption
    | (with_reducible intro t; intros)
    | with_reducible refine foldl_keeps ?_ ?_
    | with_reducible refine cycleSensor_keeps ?_ 
    | with_reducible refine decideStep_keeps ?_ 
    | with_reducible refine headFinished_keeps ?_ 
    | with_reducible refine latchThermal_keeps ?_ 
    | with_reducible refine judgeWarn_keeps ?_ 
    | with_reducible refine judgeWindow_keeps ?_ 
    | with_reducible refine tempTriggers_keeps ?_ 
    | with_reducible refine judgeRestart_keeps ?_ 
    | with_reducible refine judgeShutdown_keeps ?_ 
    | with_reducible refine keeps_ite ?_ ?_
    | split
    | with_reducible refine Keeps.upd rfl rfl rfl rfl rfl rfl ?_

theorem growBad_keeps {pm : Nat} {s0 : State} {die : Fin 2} {plane : Fin 4} {b : ℕ} {s : State} (hk : Keeps pm s0 s) (hm : Sub 0x1080000 pm := by first | with_reducible assumption | (refine Sub.of ?_ (by with_reducible assumption); with_unfolding_all rfl)) :
    Keeps pm s0 (growBad die plane b s).2 := by
  unfold growBad
  try dsimp only
  repeat' first
    | with_reducible assumption
    | (with_reducible intro t; intros)
    | with_reducible refine foldl_keeps ?_ ?_
    | with_reducible refine raise_keeps ?_ 
    | with_reducible refine modDie_keeps ?_ 
    | with_reducible refine updateSystem_keeps ?_ 
    | with_reducible refine keeps_ite ?_ ?_
    | split
    | with_reducible refine Keeps.upd rfl rfl rfl rfl rfl rfl ?_
theorem growBad_keepsP {pm : Nat} {s0 : State} {die : Fin 2} {plane : Fin 4} {b : ℕ} {s : State} (hk : Keeps pm s0 s) {ra} {rb : State} (e : (growBad die plane b s) = (ra, rb)) (hm : Sub 0x1080000 pm := by first | with_reducible assumption | (refine Sub.of ?_ (by with_reducible assumption); with_unfolding_all rfl)) :
    Keeps pm s0 rb := by
  have := growBad_keeps (s0 := s0) (die := die) (plane := plane) (b := b) (s := s) hk
  rw [e] at this
  exact this

theorem eraseBad_keeps {pm : Nat} {s0 : State} {die : Fin 2} {who : Partition} {a : PageAddr} {s : State} (hk : Keeps pm s0 s) (hm : Sub 0x1080000 pm := by first | with_reducible assumption | (refine Sub.of ?_ (by with_reducible assumption); with_unfolding_all rfl)) :
    Keeps pm s0 (eraseBad die who a s) := by
  unfold eraseBad
  try dsimp only
  repeat' first
    | with_reducible assumption
    | (with_reducible intro t; intros)
    | with_reducible refine foldl_keeps ?_ ?_
    | with_reducible refine modDie_keeps ?_ 
    | with_reducible refine growBad_keeps ?_ 
    | with_reducible refine growBad_keepsP ?_  (by assumption)
    | with_reducible refine keeps_ite ?_ ?_
    | split
    | with_reducible refine Keeps.upd rfl rfl rfl rfl rfl rfl ?_

theorem oemEnds_keeps {pm : Nat} {s0 : State} {st : ℕ} {s : State} (hk : Keeps pm s0 s) (hm : Sub 0x80000 pm := by first | with_reducible assumption | (refine Sub.of ?_ (by with_reducible assumption); with_unfolding_all rfl)) :
    Keeps pm s0 (oemEnds st s) := by
  unfold oemEnds
  try dsimp only
  repeat' first
    | with_reducible assumption
    | (with_reducible intro t; intros)
    | with_reducible refine foldl_keeps ?_ ?_
    | with_reducible refine oemOutcome_keeps ?_ 
    | with_reducible refine keeps_ite ?_ ?_
    | split
    | with_reducible refine Keeps.upd rfl rfl rfl rfl rfl rfl ?_

theorem regionErased_keeps {pm : Nat} {s0 : State} {die : Fin 2} {i : Fin 2} {s : State} (hk : Keeps pm s0 s) (hm : Sub 0x80000 pm := by first | with_reducible assumption | (refine Sub.of ?_ (by with_reducible assumption); with_unfolding_all rfl)) :
    Keeps pm s0 (regionErased die i s) := by
  unfold regionErased
  try dsimp only
  repeat' first
    | with_reducible assumption
    | (with_reducible intro t; intros)
    | with_reducible refine foldl_keeps ?_ ?_
    | with_reducible refine modRegion_keeps ?_ 
    | with_reducible refine keeps_ite ?_ ?_
    | split
    | with_reducible refine Keeps.upd rfl rfl rfl rfl rfl rfl ?_

theorem slotErased_keeps {pm : Nat} {s0 : State} {die : Fin 2} {s : State} (hk : Keeps pm s0 s) (hm : Sub 0x2080000 pm := by first | with_reducible assumption | (refine Sub.of ?_ (by with_reducible assumption); with_unfolding_all rfl)) :
    Keeps pm s0 (slotErased die s) := by
  unfold slotErased
  try dsimp only
  repeat' first
    | with_reducible assumption
    | (with_reducible intro t; intros)
    | with_reducible refine foldl_keeps ?_ ?_
    | with_reducible refine storeImage_keeps ?_ 
    | with_reducible refine programPages_keeps ?_ 
    | with_reducible refine keeps_ite ?_ ?_
    | split
    | with_reducible refine Keeps.upd rfl rfl rfl rfl rfl rfl ?_

theorem eraseGood_keeps {pm : Nat} {s0 : State} {die : Fin 2} {who : Partition} {a : PageAddr} {s : State} (hk : Keeps pm s0 s) (hm : Sub 0x2080000 pm := by first | with_reducible assumption | (refine Sub.of ?_ (by with_reducible assumption); with_unfolding_all rfl)) :
    Keeps pm s0 (eraseGood die who a s) := by
  unfold eraseGood
  try dsimp only
  repeat' first
    | with_reducible assumption
    | (with_reducible intro t; intros)
    | with_reducible refine foldl_keeps ?_ ?_
    | with_reducible refine eraseBlock_keeps ?_ 
    | with_reducible refine eraseStripe_keeps ?_ 
    | with_reducible refine dieFree_keeps ?_ 
    | with_reducible refine oemEnds_keeps ?_ 
    | with_reducible refine regionErased_keeps ?_ 
    | with_reducible refine slotErased_keeps ?_ 
    | with_reducible refine keeps_ite ?_ ?_
    | split
    | with_reducible refine Keeps.upd rfl rfl rfl rfl rfl rfl ?_

theorem eraseRegions_keeps {pm : Nat} {s0 : State} {s : State} (hk : Keeps pm s0 s) (hm : Sub 0x80000 pm := by first | with_reducible assumption | (refine Sub.of ?_ (by with_reducible assumption); with_unfolding_all rfl)) :
    Keeps pm s0 (eraseRegions s) := by
  unfold eraseRegions
  try dsimp only
  repeat' first
    | with_reducible assumption
    | (with_reducible intro t; intros)
    | with_reducible refine foldl_keeps ?_ ?_
    | with_reducible refine eraseWhole_keeps ?_ 
    | with_reducible refine keeps_ite ?_ ?_
    | split
    | with_reducible refine Keeps.upd rfl rfl rfl rfl rfl rfl ?_

theorem execPowerGood_keeps {pm : Nat} {s0 : State} {straps : Straps} {boot : BootCheck} {pwrdis : Bool} {s : State} (hk : Keeps pm s0 s) {rb : State} (e : (execPowerGood straps boot pwrdis s) = .next rb) (hm : Sub 0xb180c0f pm := by first | with_reducible assumption | (refine Sub.of ?_ (by with_reducible assumption); with_unfolding_all rfl)) :
    Keeps pm s0 rb := by
  unfold execPowerGood at e
  repeat' first
    | (injection e with e; subst e)
    | (cases e; done)
    | split at e
  all_goals try dsimp only
  all_goals repeat' first
    | with_reducible assumption
    | (with_reducible intro t; intros)
    | with_reducible refine foldl_keeps ?_ ?_
    | with_reducible refine bootUp_keeps ?_ 
    | with_reducible refine keeps_ite ?_ ?_
    | split
    | with_reducible refine Keeps.upd rfl rfl rfl rfl rfl rfl ?_

theorem porReset_keeps {pm : Nat} {s0 : State} {s : State} (hk : Keeps pm s0 s) (hm : Sub 0x7fffffd pm := by first | with_reducible assumption | (refine Sub.of ?_ (by with_reducible assumption); with_unfolding_all rfl)) :
    Keeps pm s0 (porReset s) := by
  have h : ∀ t : State, t.pending = s.pending → t.bms.chans = State.reset.bms.chans → t.evr = evrAtReset s.evr →
      (t.power.straps, t.power.crx4) = (s.power.straps, s.power.crx4) → t.freeCount = s.freeCount → Keeps pm s0 t := by
    intro t hp hb he hs hf
    refine ⟨hp.trans hk.1, fun _ c => ?_, fun w => ?_, keeps_parts hk.2.2.2 (fun p => ?_)⟩
    · rw [hb]; revert c; decide
    · rw [he]; exact (hk.2.2.1 w).reset
    · cases p <;> first | exact Or.inr hs | exact Or.inr hf | (refine Or.inl (Sub.has hm ?_); with_unfolding_all rfl)
  unfold porReset
  dsimp only
  split
  · exact raise_keeps (h _ rfl rfl rfl rfl rfl)
  · exact h _ rfl rfl rfl rfl rfl

theorem execRailUndervoltage_keeps {pm : Nat} {s0 : State} {rail : Rail} {s : State} (hk : Keeps pm s0 s) {rb : State} (e : (execRailUndervoltage rail s) = .next rb) (hm : Sub 0x7fffffd pm := by first | with_reducible assumption | (refine Sub.of ?_ (by with_reducible assumption); with_unfolding_all rfl)) :
    Keeps pm s0 rb := by
  unfold execRailUndervoltage at e
  repeat' first
    | (injection e with e; subst e)
    | (cases e; done)
    | split at e
  all_goals try dsimp only
  all_goals repeat' first
    | with_reducible assumption
    | (with_reducible intro t; intros)
    | with_reducible refine foldl_keeps ?_ ?_
    | with_reducible refine porReset_keeps ?_ 
    | with_reducible refine keeps_ite ?_ ?_
    | split
    | with_reducible refine Keeps.upd rfl rfl rfl rfl rfl rfl ?_

theorem execBufferSelftest_keeps {pm : Nat} {s0 : State} {r : SelftestReading} {s : State} (hk : Keeps pm s0 s) {rb : State} (e : (execBufferSelftest r s) = .next rb) (hm : Sub 0x1010c01 pm := by first | with_reducible assumption | (refine Sub.of ?_ (by with_reducible assumption); with_unfolding_all rfl)) :
    Keeps pm s0 rb := by
  unfold execBufferSelftest at e
  repeat' first
    | (injection e with e; subst e)
    | (cases e; done)
    | split at e
  all_goals try dsimp only
  all_goals repeat' first
    | with_reducible assumption
    | (with_reducible intro t; intros)
    | with_reducible refine foldl_keeps ?_ ?_
    | with_reducible refine failStart_keeps ?_ 
    | with_reducible refine keeps_ite ?_ ?_
    | split
    | with_reducible refine Keeps.upd rfl rfl rfl rfl rfl rfl ?_

theorem execBufferTrainingDone_keeps {pm : Nat} {s0 : State} {s : State} (hk : Keeps pm s0 s) {rb : State} (e : (execBufferTrainingDone s) = .next rb) (hm : Sub 0x10000 pm := by first | with_reducible assumption | (refine Sub.of ?_ (by with_reducible assumption); with_unfolding_all rfl)) :
    Keeps pm s0 rb := by
  unfold execBufferTrainingDone at e
  repeat' first
    | (injection e with e; subst e)
    | (cases e; done)
    | split at e
  all_goals try dsimp only
  all_goals repeat' first
    | with_reducible assumption
    | (with_reducible intro t; intros)
    | with_reducible refine foldl_keeps ?_ ?_
    | with_reducible refine keeps_ite ?_ ?_
    | split
    | with_reducible refine Keeps.upd rfl rfl rfl rfl rfl rfl ?_

theorem execBufferTrainingTimeout_keeps {pm : Nat} {s0 : State} {c : Fin 4} {s : State} (hk : Keeps pm s0 s) {rb : State} (e : (execBufferTrainingTimeout c s) = .next rb) (hm : Sub 0x1010c01 pm := by first | with_reducible assumption | (refine Sub.of ?_ (by with_reducible assumption); with_unfolding_all rfl)) :
    Keeps pm s0 rb := by
  unfold execBufferTrainingTimeout at e
  repeat' first
    | (injection e with e; subst e)
    | (cases e; done)
    | split at e
  all_goals try dsimp only
  all_goals repeat' first
    | with_reducible assumption
    | (with_reducible intro t; intros)
    | with_reducible refine foldl_keeps ?_ ?_
    | with_reducible refine failStart_keeps ?_ 
    | with_reducible refine keeps_ite ?_ ?_
    | split
    | with_reducible refine Keeps.upd rfl rfl rfl rfl rfl rfl ?_

theorem execBufferFillDone_keeps {pm : Nat} {s0 : State} {s : State} (hk : Keeps pm s0 s) {rb : State} (e : (execBufferFillDone s) = .next rb) (hm : Sub 0x1010801 pm := by first | with_reducible assumption | (refine Sub.of ?_ (by with_reducible assumption); with_unfolding_all rfl)) :
    Keeps pm s0 rb := by
  unfold execBufferFillDone at e
  repeat' first
    | (injection e with e; subst e)
    | (cases e; done)
    | split at e
  all_goals try dsimp only
  all_goals repeat' first
    | with_reducible assumption
    | (with_reducible intro t; intros)
    | with_reducible refine foldl_keeps ?_ ?_
    | with_reducible refine enterPhase_keeps ?_ 
    | with_reducible refine keeps_ite ?_ ?_
    | split
    | with_reducible refine Keeps.upd rfl rfl rfl rfl rfl rfl ?_

theorem replaceBad_keeps {pm : Nat} {s0 : State} {s : State} {b : Fin 2 × Fin 4 × ℕ} (hk : Keeps pm s0 s) (hm : Sub 0x80000 pm := by first | with_reducible assumption | (refine Sub.of ?_ (by with_reducible assumption); with_unfolding_all rfl)) :
    Keeps pm s0 (replaceBad s b) := by
  unfold replaceBad
  try dsimp only
  repeat' first
    | with_reducible assumption
    | (with_reducible intro t; intros)
    | with_reducible refine foldl_keeps ?_ ?_
    | with_reducible refine modDie_keeps ?_ 
    | with_reducible refine keeps_ite ?_ ?_
    | split
    | with_reducible refine Keeps.upd rfl rfl rfl rfl rfl rfl ?_

theorem factoryScan_keeps {pm : Nat} {s0 : State} {r : MountReading} {s : State} (hk : Keeps pm s0 s) (hm : Sub 0x80000 pm := by first | with_reducible assumption | (refine Sub.of ?_ (by with_reducible assumption); with_unfolding_all rfl)) :
    Keeps pm s0 (factoryScan r s) := by
  unfold factoryScan
  try dsimp only
  repeat' first
    | with_reducible assumption
    | (with_reducible intro t; intros)
    | with_reducible refine foldl_keeps ?_ ?_
    | with_reducible refine modDie_keeps ?_ 
    | with_reducible refine updateSystem_keeps ?_ 
    | with_reducible refine replaceBad_keeps ?_ 
    | with_reducible refine keeps_ite ?_ ?_
    | split
    | with_reducible refine Keeps.upd rfl rfl rfl rfl rfl rfl ?_

theorem takeSystem_keeps {pm : Nat} {s0 : State} {c : SystemCopy} {s : State} (hk : Keeps pm s0 s) (hm : Sub 0x2080000 pm := by first | with_reducible assumption | (refine Sub.of ?_ (by with_reducible assumption); with_unfolding_all rfl)) :
    Keeps pm s0 (takeSystem c s) := by
  unfold takeSystem
  try dsimp only
  repeat' first
    | with_reducible assumption
    | (with_reducible intro t; intros)
    | with_reducible refine foldl_keeps ?_ ?_
    | with_reducible refine modDie_keeps ?_ 
    | with_reducible refine keeps_ite ?_ ?_
    | split
    | with_reducible refine Keeps.upd rfl rfl rfl rfl rfl rfl ?_

theorem mountTables_keeps {pm : Nat} {s0 : State} {r : MountReading} {s : State} (hk : Keeps pm s0 s) (hm : Sub 0x2080000 pm := by first | with_reducible assumption | (refine Sub.of ?_ (by with_reducible assumption); with_unfolding_all rfl)) :
    Keeps pm s0 (mountTables r s) := by
  unfold mountTables
  try dsimp only
  repeat' first
    | with_reducible assumption
    | (with_reducible intro t; intros)
    | with_reducible refine foldl_keeps ?_ ?_
    | with_reducible refine factoryScan_keeps ?_ 
    | with_reducible refine takeSystem_keeps ?_ 
    | with_reducible refine keeps_ite ?_ ?_
    | split
    | with_reducible refine Keeps.upd rfl rfl rfl rfl rfl rfl ?_

theorem restoreMap_keeps {pm : Nat} {s0 : State} {s : State} (hk : Keeps pm s0 s) (hm : Sub 0x80000 pm := by first | with_reducible assumption | (refine Sub.of ?_ (by with_reducible assumption); with_unfolding_all rfl)) :
    Keeps pm s0 (restoreMap s) := by
  unfold restoreMap
  try dsimp only
  repeat' first
    | with_reducible assumption
    | (with_reducible intro t; intros)
    | with_reducible refine foldl_keeps ?_ ?_
    | with_reducible refine modDie_keeps ?_ 
    | with_reducible refine keeps_ite ?_ ?_
    | split
    | with_reducible refine Keeps.upd rfl rfl rfl rfl rfl rfl ?_

end Sys2Proof.Machine
end

