-- ==== Sys2Proof/Laws/Frame09.lean ====
section
/-! SUPPORT. What each operation keeps (see Keeps), in the order in which operations call each other: readRegions to execLinkLoss. -/

set_option linter.unusedTactic false
set_option linter.unreachableTactic false
set_option Elab.async false

namespace Sys2Proof.Machine

theorem readRegions_keeps {pm : Nat} {s0 : State} {r : MountReading} {s : State} (hk : Keeps pm s0 s) (hm : Sub 0x80000 pm := by first | with_reducible assumption | (refine Sub.of ?_ (by with_reducible assumption); with_unfolding_all rfl)) :
    Keeps pm s0 (readRegions r s) := by
  unfold readRegions
  try dsimp only
  repeat' first
    | with_reducible assumption
    | (with_reducible intro t; intros)
    | with_reducible refine foldl_keeps ?_ ?_
    | with_reducible refine modRegion_keeps ?_ 
    | with_reducible refine keeps_ite ?_ ?_
    | split
    | with_reducible refine Keeps.upd rfl rfl rfl rfl rfl rfl ?_

theorem restoreEvents_keeps {pm : Nat} {s0 : State}  {s : State} (hk : Keeps pm s0 s) (hm : Sub 0x1800000 pm := by first | with_reducible assumption | (refine Sub.of ?_ (by with_reducible assumption); with_unfolding_all rfl)) :
    Keeps pm s0 (restoreEvents s) := by
  unfold restoreEvents
  dsimp only
  refine Keeps.updEvr hk rfl rfl (fun h => RecorderOk.reload _ _ _ (RecorderOk.append (fun x hx => ?_) h))
  have hv : ∀ (l : List (Nat × List Byte)) (y : EventRec), y ∈ l.map (fun e => recordFrom e.2) → y.rept ≤ 65535 := by
    intro l y hy
    obtain ⟨e, _, rfl⟩ := List.mem_map.mp hy
    exact fieldU_two _ _
  unfold newerEvents at hx
  generalize imageOf s (replayChoice s) = o at hx
  cases o with
  | none =>
    dsimp only at hx
    split at hx
    · exact absurd hx List.not_mem_nil
    · exact absurd (List.mem_of_mem_filter hx) List.not_mem_nil
  | some v =>
    dsimp only at hx
    split at hx
    · exact hv _ x hx
    · exact hv _ x (List.mem_of_mem_filter hx)

theorem makeRoom_keeps {pm : Nat} {s0 : State} {s : State} (hk : Keeps pm s0 s) (hm : Sub 0x800000 pm := by first | with_reducible assumption | (refine Sub.of ?_ (by with_reducible assumption); with_unfolding_all rfl)) :
    Keeps pm s0 (makeRoom s) := by
  have h : ∀ n, Keeps pm s0 { s with evr.log := s.evr.log.take n } :=
    fun n => Keeps.updEvr hk rfl rfl (fun h => RecorderOk.shorten n h)
  unfold makeRoom
  split
  · exact h _
  · exact hk

theorem logPages_keeps {pm : Nat} {s0 : State} {l : List EventRec} {s : State} (hk : Keeps pm s0 s) (hm : Sub 0x880000 pm := by first | with_reducible assumption | (refine Sub.of ?_ (by with_reducible assumption); with_unfolding_all rfl)) :
    Keeps pm s0 (logPages l s) := by
  unfold logPages
  try dsimp only
  repeat' first
    | with_reducible assumption
    | (with_reducible intro t; intros)
    | with_reducible refine foldl_keeps ?_ ?_
    | with_reducible refine programNext_keeps ?_ 
    | with_reducible refine makeRoom_keeps ?_ 
    | with_reducible refine keeps_ite ?_ ?_
    | split
    | with_reducible refine Keeps.upd rfl rfl rfl rfl rfl rfl ?_

theorem rebuildBands_keeps {pm : Nat} {s0 : State} {s : State} (hk : Keeps pm s0 s) (hm : Sub 0x1000 pm := by first | with_reducible assumption | (refine Sub.of ?_ (by with_reducible assumption); with_unfolding_all rfl)) :
    Keeps pm s0 (rebuildBands s) := by
  unfold rebuildBands
  try dsimp only
  repeat' first
    | with_reducible assumption
    | (with_reducible intro t; intros)
    | with_reducible refine foldl_keeps ?_ ?_
    | with_reducible refine setBand_keeps ?_ 
    | with_reducible refine modBand_keeps ?_ 
    | with_reducible refine keeps_ite ?_ ?_
    | split
    | with_reducible refine Keeps.upd rfl rfl rfl rfl rfl rfl ?_

theorem raiseReady_keeps {pm : Nat} {s0 : State} {s : State} (hk : Keeps pm s0 s) (hm : Sub 0xc00 pm := by first | with_reducible assumption | (refine Sub.of ?_ (by with_reducible assumption); with_unfolding_all rfl)) :
    Keeps pm s0 (raiseReady s) := by
  unfold raiseReady
  try dsimp only
  repeat' first
    | with_reducible assumption
    | (with_reducible intro t; intros)
    | with_reducible refine foldl_keeps ?_ ?_
    | with_reducible refine State.modPorts_keeps ?_ 
    | with_reducible refine keeps_ite ?_ ?_
    | split
    | with_reducible refine Keeps.upd rfl rfl rfl rfl rfl rfl ?_

theorem execMountEnd_keeps {pm : Nat} {s0 : State} {r : MountReading} {s : State} (hk : Keeps pm s0 s) {rb : State} (e : (execMountEnd r s) = .next rb) (hm : Sub 0x7defee1 pm := by first | with_reducible assumption | (refine Sub.of ?_ (by with_reducible assumption); with_unfolding_all rfl)) :
    Keeps pm s0 rb := by
  unfold execMountEnd at e
  repeat' first
    | (injection e with e; subst e)
    | (cases e; done)
    | split at e
  all_goals try dsimp only
  all_goals repeat' first
    | with_reducible assumption
    | (with_reducible intro t; intros)
    | with_reducible refine foldl_keeps ?_ ?_
    | with_reducible refine enterPhase_keeps ?_ 
    | with_reducible refine failStart_keeps ?_ 
    | with_reducible refine clearOwnerLock_keeps ?_ 
    | with_reducible refine requestMode_keeps ?_ 
    | with_reducible refine endReplay_keeps ?_ 
    | with_reducible refine eraseRegions_keeps ?_ 
    | with_reducible refine mountTables_keeps ?_ 
    | with_reducible refine restoreMap_keeps ?_ 
    | with_reducible refine readRegions_keeps ?_ 
    | with_reducible refine restoreEvents_keeps ?_ 
    | with_reducible refine logPages_keeps ?_ 
    | with_reducible refine rebuildBands_keeps ?_ 
    | with_reducible refine raiseReady_keeps ?_ 
    | with_reducible refine keeps_ite ?_ ?_
    | split
    | with_reducible refine Keeps.upd rfl rfl rfl rfl rfl rfl ?_

theorem loseLines_keeps {pm : Nat} {s0 : State} {v : VaultImage} {lostAt : List ℕ} {s : State} (hk : Keeps pm s0 s) (hm : Sub 0x1083c00 pm := by first | with_reducible assumption | (refine Sub.of ?_ (by with_reducible assumption); with_unfolding_all rfl)) :
    Keeps pm s0 (loseLines v lostAt s) := by
  unfold loseLines
  try dsimp only
  repeat' first
    | with_reducible assumption
    | (with_reducible intro t; intros)
    | with_reducible refine foldl_keeps ?_ ?_
    | with_reducible refine markLost_keeps ?_ 
    | with_reducible refine keeps_ite ?_ ?_
    | split
    | with_reducible refine Keeps.upd rfl rfl rfl rfl rfl rfl ?_

theorem reinstall_keeps {pm : Nat} {s0 : State} {v : VaultImage} {lostAt : List ℕ} {s : State} (hk : Keeps pm s0 s) (hm : Sub 0x20000 pm := by first | with_reducible assumption | (refine Sub.of ?_ (by with_reducible assumption); with_unfolding_all rfl)) :
    Keeps pm s0 (reinstall v lostAt s) := by
  unfold reinstall
  try dsimp only
  repeat' first
    | with_reducible assumption
    | (with_reducible intro t; intros)
    | with_reducible refine foldl_keeps ?_ ?_
    | with_reducible refine keeps_ite ?_ ?_
    | split
    | with_reducible refine Keeps.upd rfl rfl rfl rfl rfl rfl ?_

theorem loseBand_keeps {pm : Nat} {s0 : State} {wps : List (HeadId × ℕ × ℕ)} {k : BandKey} {s : State} (hk : Keeps pm s0 s) (hm : Sub 0x1083c00 pm := by first | with_reducible assumption | (refine Sub.of ?_ (by with_reducible assumption); with_unfolding_all rfl)) :
    Keeps pm s0 (loseBand wps k s) := by
  unfold loseBand
  try dsimp only
  repeat' first
    | with_reducible assumption
    | (with_reducible intro t; intros)
    | with_reducible refine foldl_keeps ?_ ?_
    | with_reducible refine setBand_keeps ?_ 
    | with_reducible refine setZoneState_keeps ?_ 
    | with_reducible refine markLost_keeps ?_ 
    | with_reducible refine keeps_ite ?_ ?_
    | split
    | with_reducible refine Keeps.upd rfl rfl rfl rfl rfl rfl ?_

theorem replayLines_keeps {pm : Nat} {s0 : State} {r : ReplayReading} {v : VaultImage} {s : State} (hk : Keeps pm s0 s) (hm : Sub 0x10e3c04 pm := by first | with_reducible assumption | (refine Sub.of ?_ (by with_reducible assumption); with_unfolding_all rfl)) :
    Keeps pm s0 (replayLines r v s) := by
  unfold replayLines
  try dsimp only
  repeat' first
    | with_reducible assumption
    | (with_reducible intro t; intros)
    | with_reducible refine foldl_keeps ?_ ?_
    | with_reducible refine countLoss_keeps ?_ 
    | with_reducible refine loseLines_keeps ?_ 
    | with_reducible refine reinstall_keeps ?_ 
    | with_reducible refine loseBand_keeps ?_ 
    | with_reducible refine keeps_ite ?_ ?_
    | split
    | with_reducible refine Keeps.upd rfl rfl rfl rfl rfl rfl ?_

theorem replayMeta_keeps {pm : Nat} {s0 : State} {r : ReplayReading} {v : VaultImage} {s : State} (hk : Keeps pm s0 s) (hm : Sub 0x83000 pm := by first | with_reducible assumption | (refine Sub.of ?_ (by with_reducible assumption); with_unfolding_all rfl)) :
    Keeps pm s0 (replayMeta r v s) := by
  unfold replayMeta
  try dsimp only
  repeat' first
    | with_reducible assumption
    | (with_reducible intro t; intros)
    | with_reducible refine foldl_keeps ?_ ?_
    | with_reducible refine setBand_keeps ?_ 
    | with_reducible refine keeps_ite ?_ ?_
    | split
    | with_reducible refine Keeps.upd rfl rfl rfl rfl rfl rfl ?_

theorem execReplayEnd_keeps {pm : Nat} {s0 : State} {r : ReplayReading} {s : State} (hk : Keeps pm s0 s) {rb : State} (e : (execReplayEnd r s) = .next rb) (hm : Sub 0x51efee5 pm := by first | with_reducible assumption | (refine Sub.of ?_ (by with_reducible assumption); with_unfolding_all rfl)) :
    Keeps pm s0 rb := by
  unfold execReplayEnd at e
  repeat' first
    | (injection e with e; subst e)
    | (cases e; done)
    | split at e
  all_goals try dsimp only
  all_goals repeat' first
    | with_reducible assumption
    | (with_reducible intro t; intros)
    | with_reducible refine foldl_keeps ?_ ?_
    | with_reducible refine closeReplay_keeps ?_ 
    | with_reducible refine requestMode_keeps ?_ 
    | with_reducible refine endReplay_keeps ?_ 
    | with_reducible refine replayLines_keeps ?_ 
    | with_reducible refine replayMeta_keeps ?_ 
    | with_reducible refine keeps_ite ?_ ?_
    | split
    | with_reducible refine Keeps.upd rfl rfl rfl rfl rfl rfl ?_

theorem offlineZone_keeps {pm : Nat} {s0 : State} {k : BandKey} {s : State} (hk : Keeps pm s0 s) (hm : Sub 0x21000 pm := by first | with_reducible assumption | (refine Sub.of ?_ (by with_reducible assumption); with_unfolding_all rfl)) :
    Keeps pm s0 (offlineZone k s) := by
  unfold offlineZone
  try dsimp only
  repeat' first
    | with_reducible assumption
    | (with_reducible intro t; intros)
    | with_reducible refine foldl_keeps ?_ ?_
    | with_reducible refine setZoneState_keeps ?_ 
    | with_reducible refine maintainBand_keeps ?_ 
    | with_reducible refine keeps_ite ?_ ?_
    | split
    | with_reducible refine Keeps.upd rfl rfl rfl rfl rfl rfl ?_

theorem judgeReplayed_keeps {pm : Nat} {s0 : State} {s : State} (hk : Keeps pm s0 s) (hm : Sub 0x29000 pm := by first | with_reducible assumption | (refine Sub.of ?_ (by with_reducible assumption); with_unfolding_all rfl)) :
    Keeps pm s0 (judgeReplayed s) := by
  unfold judgeReplayed
  try dsimp only
  repeat' first
    | with_reducible assumption
    | (with_reducible intro t; intros)
    | with_reducible refine foldl_keeps ?_ ?_
    | with_reducible refine dropLines_keeps ?_ 
    | with_reducible refine fileOp_keeps ?_ 
    | with_reducible refine judgeBand_keeps ?_ 
    | with_reducible refine keeps_ite ?_ ?_
    | split
    | with_reducible refine Keeps.upd rfl rfl rfl rfl rfl rfl ?_

theorem execZoneMetadataLoadEnd_keeps {pm : Nat} {s0 : State} {r : ZoneLoadReading} {s : State} (hk : Keeps pm s0 s) {rb : State} (e : (execZoneMetadataLoadEnd r s) = .next rb) (hm : Sub 0x50efe61 pm := by first | with_reducible assumption | (refine Sub.of ?_ (by with_reducible assumption); with_unfolding_all rfl)) :
    Keeps pm s0 rb := by
  unfold execZoneMetadataLoadEnd at e
  repeat' first
    | (injection e with e; subst e)
    | (cases e; done)
    | split at e
  all_goals try dsimp only
  all_goals repeat' first
    | with_reducible assumption
    | (with_reducible intro t; intros)
    | with_reducible refine foldl_keeps ?_ ?_
    | with_reducible refine modBand_keeps ?_ 
    | with_reducible refine noteWarning_keeps ?_ 
    | with_reducible refine unloadAll_keeps ?_ 
    | with_reducible refine endDraining_keeps ?_ 
    | with_reducible refine releaseRegions_keeps ?_ 
    | with_reducible refine enterReady_keeps ?_ 
    | with_reducible refine failStart_keeps ?_ 
    | with_reducible refine offlineZone_keeps ?_ 
    | with_reducible refine judgeReplayed_keeps ?_ 
    | with_reducible refine keeps_ite ?_ ?_
    | split
    | with_reducible refine Keeps.upd rfl rfl rfl rfl rfl rfl ?_

theorem failSpinUp_keeps {pm : Nat} {s0 : State} {combo : Bool} {s : State} (hk : Keeps pm s0 s) (hm : Sub 0x1000c29 pm := by first | with_reducible assumption | (refine Sub.of ?_ (by with_reducible assumption); with_unfolding_all rfl)) :
    Keeps pm s0 (failSpinUp combo s) := by
  unfold failSpinUp
  try dsimp only
  repeat' first
    | with_reducible assumption
    | (with_reducible intro t; intros)
    | with_reducible refine foldl_keeps ?_ ?_
    | with_reducible refine sendSpin_keeps ?_ 
    | with_reducible refine failStart_keeps ?_ 
    | with_reducible refine keeps_ite ?_ ?_
    | split
    | with_reducible refine Keeps.upd rfl rfl rfl rfl rfl rfl ?_

theorem execSpinUpInstant_keeps {pm : Nat} {s0 : State} {s : State} (hk : Keeps pm s0 s) {rb : State} (e : (execSpinUpInstant s) = .next rb) (hm : Sub 0x1000c29 pm := by first | with_reducible assumption | (refine Sub.of ?_ (by with_reducible assumption); with_unfolding_all rfl)) :
    Keeps pm s0 rb := by
  unfold execSpinUpInstant at e
  repeat' first
    | (injection e with e; subst e)
    | (cases e; done)
    | split at e
  all_goals try dsimp only
  all_goals repeat' first
    | with_reducible assumption
    | (with_reducible intro t; intros)
    | with_reducible refine foldl_keeps ?_ ?_
    | with_reducible refine spinUp_keeps ?_ 
    | with_reducible refine enterPhase_keeps ?_ 
    | with_reducible refine failSpinUp_keeps ?_ 
    | with_reducible refine keeps_ite ?_ ?_
    | split
    | with_reducible refine Keeps.upd rfl rfl rfl rfl rfl rfl ?_

theorem execSpinupTimeout_keeps {pm : Nat} {s0 : State} {s : State} (hk : Keeps pm s0 s) {rb : State} (e : (execSpinupTimeout s) = .next rb) (hm : Sub 0x1000c29 pm := by first | with_reducible assumption | (refine Sub.of ?_ (by with_reducible assumption); with_unfolding_all rfl)) :
    Keeps pm s0 rb := by
  unfold execSpinupTimeout at e
  repeat' first
    | (injection e with e; subst e)
    | (cases e; done)
    | split at e
  all_goals try dsimp only
  all_goals repeat' first
    | with_reducible assumption
    | (with_reducible intro t; intros)
    | with_reducible refine foldl_keeps ?_ ?_
    | with_reducible refine failSpinUp_keeps ?_ 
    | with_reducible refine keeps_ite ?_ ?_
    | split
    | with_reducible refine Keeps.upd rfl rfl rfl rfl rfl rfl ?_

theorem noteFrame_keeps {pm : Nat} {s0 : State} {k : LinkId} {type : ℕ} {f : UpFrame} {s : State} (hk : Keeps pm s0 s) (hm : Sub 0x20 pm := by first | with_reducible assumption | (refine Sub.of ?_ (by with_reducible assumption); with_unfolding_all rfl)) :
    Keeps pm s0 (noteFrame k type f s) := by
  unfold noteFrame
  try dsimp only
  repeat' first
    | with_reducible assumption
    | (with_reducible intro t; intros)
    | with_reducible refine foldl_keeps ?_ ?_
    | with_reducible refine State.modLink_keeps ?_ 
    | with_reducible refine keeps_ite ?_ ?_
    | split
    | with_reducible refine Keeps.upd rfl rfl rfl rfl rfl rfl ?_

theorem onFrame_keeps {pm : Nat} {s0 : State} {k : LinkId} {type : ℕ} {f : UpFrame} {g : State → State} {s : State} (hk : Keeps pm s0 s) (h_g : ∀ (t : State), Keeps pm s0 t → Keeps pm s0 (g t)) (hm : Sub 0x24 pm := by first | with_reducible assumption | (refine Sub.of ?_ (by with_reducible assumption); with_unfolding_all rfl)) :
    Keeps pm s0 (onFrame k type f g s) := by
  unfold onFrame
  try dsimp only
  repeat' first
    | with_reducible assumption
    | (with_reducible intro t; intros)
    | with_reducible refine foldl_keeps ?_ ?_
    | with_reducible refine atOffset_keeps ?_ 
    | with_reducible refine noteFrame_keeps ?_ 
    | with_reducible refine h_g _ ?_
    | with_reducible refine keeps_ite ?_ ?_
    | split
    | with_reducible refine Keeps.upd rfl rfl rfl rfl rfl rfl ?_

theorem holdupPass_keeps {pm : Nat} {s0 : State} {s : State} (hk : Keeps pm s0 s) (hm : Sub 0x1 pm := by first | with_reducible assumption | (refine Sub.of ?_ (by with_reducible assumption); with_unfolding_all rfl)) :
    Keeps pm s0 (holdupPass s) := by
  unfold holdupPass
  try dsimp only
  repeat' first
    | with_reducible assumption
    | (with_reducible intro t; intros)
    | with_reducible refine foldl_keeps ?_ ?_
    | with_reducible refine keeps_ite ?_ ?_
    | split
    | with_reducible refine Keeps.upd rfl rfl rfl rfl rfl rfl ?_

theorem holdupFail_keeps {pm : Nat} {s0 : State} {s : State} (hk : Keeps pm s0 s) (hm : Sub 0x1020c01 pm := by first | with_reducible assumption | (refine Sub.of ?_ (by with_reducible assumption); with_unfolding_all rfl)) :
    Keeps pm s0 (holdupFail s) := by
  unfold holdupFail
  try dsimp only
  repeat' first
    | with_reducible assumption
    | (with_reducible intro t; intros)
    | with_reducible refine foldl_keeps ?_ ?_
    | with_reducible refine startFault_keeps ?_ 
    | with_reducible refine setFlag_keeps ?_ 
    | with_reducible refine noteWarning_keeps ?_ 
    | with_reducible refine destageFirst_keeps ?_ 
    | with_reducible refine driveFault_keeps ?_ 
    | with_reducible refine keeps_ite ?_ ?_
    | split
    | with_reducible refine Keeps.upd rfl rfl rfl rfl rfl rfl ?_

theorem holdupJudge_keeps {pm : Nat} {s0 : State} {vs : ℕ} {ve : ℕ} {e : ℕ} {s : State} (hk : Keeps pm s0 s) (hm : Sub 0x1020c01 pm := by first | with_reducible assumption | (refine Sub.of ?_ (by with_reducible assumption); with_unfolding_all rfl)) :
    Keeps pm s0 (holdupJudge vs ve e s) := by
  unfold holdupJudge
  try dsimp only
  repeat' first
    | with_reducible assumption
    | (with_reducible intro t; intros)
    | with_reducible refine foldl_keeps ?_ ?_
    | with_reducible refine setFlag_keeps ?_ 
    | with_reducible refine holdupPass_keeps ?_ 
    | with_reducible refine holdupFail_keeps ?_ 
    | with_reducible refine keeps_ite ?_ ?_
    | split
    | with_reducible refine Keeps.upd rfl rfl rfl rfl rfl rfl ?_

theorem execTestresFrame_keeps {pm : Nat} {s0 : State} {k : LinkId} {f : UpFrame} {s : State} (hk : Keeps pm s0 s) {rb : State} (e : (execTestresFrame k f s) = .next rb) (hm : Sub 0x50efee5 pm := by first | with_reducible assumption | (refine Sub.of ?_ (by with_reducible assumption); with_unfolding_all rfl)) :
    Keeps pm s0 rb := by
  unfold execTestresFrame at e
  repeat' first
    | (injection e with e; subst e)
    | (cases e; done)
    | split at e
  all_goals try dsimp only
  all_goals repeat' first
    | with_reducible assumption
    | (with_reducible intro t; intros)
    | with_reducible refine foldl_keeps ?_ ?_
    | with_reducible refine beginHeadLoad_keeps ?_ 
    | with_reducible refine onFrame_keeps ?_ ?_ 
    | with_reducible refine holdupJudge_keeps ?_ 
    | with_reducible refine keeps_ite ?_ ?_
    | split
    | with_reducible refine Keeps.upd rfl rfl rfl rfl rfl rfl ?_

theorem execStoreFrame_keeps {pm : Nat} {s0 : State} {k : LinkId} {f : UpFrame} {s : State} (hk : Keeps pm s0 s) {rb : State} (e : (execStoreFrame k f s) = .next rb) (hm : Sub 0x25 pm := by first | with_reducible assumption | (refine Sub.of ?_ (by with_reducible assumption); with_unfolding_all rfl)) :
    Keeps pm s0 rb := by
  unfold execStoreFrame at e
  repeat' first
    | (injection e with e; subst e)
    | (cases e; done)
    | split at e
  all_goals try dsimp only
  all_goals repeat' first
    | with_reducible assumption
    | (with_reducible intro t; intros)
    | with_reducible refine foldl_keeps ?_ ?_
    | with_reducible refine onFrame_keeps ?_ ?_ 
    | with_reducible refine keeps_ite ?_ ?_
    | split
    | with_reducible refine Keeps.upd rfl rfl rfl rfl rfl rfl ?_

theorem execHoldupCheckRepeat_keeps {pm : Nat} {s0 : State} {s : State} (hk : Keeps pm s0 s) {rb : State} (e : (execHoldupCheckRepeat s) = .next rb) (hm : Sub 0x21 pm := by first | with_reducible assumption | (refine Sub.of ?_ (by with_reducible assumption); with_unfolding_all rfl)) :
    Keeps pm s0 rb := by
  unfold execHoldupCheckRepeat at e
  repeat' first
    | (injection e with e; subst e)
    | (cases e; done)
    | split at e
  all_goals try dsimp only
  all_goals repeat' first
    | with_reducible assumption
    | (with_reducible intro t; intros)
    | with_reducible refine foldl_keeps ?_ ?_
    | with_reducible refine startHoldtest_keeps ?_ 
    | with_reducible refine keeps_ite ?_ ?_
    | split
    | with_reducible refine Keeps.upd rfl rfl rfl rfl rfl rfl ?_

theorem execActuatorLoadStart_keeps {pm : Nat} {s0 : State} {s : State} (hk : Keeps pm s0 s) {rb : State} (e : (execActuatorLoadStart s) = .next rb) (hm : Sub 0x4000040 pm := by first | with_reducible assumption | (refine Sub.of ?_ (by with_reducible assumption); with_unfolding_all rfl)) :
    Keeps pm s0 rb := by
  unfold execActuatorLoadStart at e
  repeat' first
    | (injection e with e; subst e)
    | (cases e; done)
    | split at e
  all_goals try dsimp only
  all_goals repeat' first
    | with_reducible assumption
    | (with_reducible intro t; intros)
    | with_reducible refine foldl_keeps ?_ ?_
    | with_reducible refine State.modChan_keeps ?_ 
    | with_reducible refine keeps_ite ?_ ?_
    | split
    | with_reducible refine Keeps.upd rfl rfl rfl rfl rfl rfl ?_

theorem immediateFault_keeps {pm : Nat} {s0 : State} {k : FaultKind} {u : UnitId} {extra : ℕ} {s : State} (hk : Keeps pm s0 s) (hm : Sub 0x1040000 pm := by first | with_reducible assumption | (refine Sub.of ?_ (by with_reducible assumption); with_unfolding_all rfl)) :
    Keeps pm s0 (immediateFault k u extra s) := by
  unfold immediateFault
  try dsimp only
  repeat' first
    | with_reducible assumption
    | (with_reducible intro t; intros)
    | with_reducible refine foldl_keeps ?_ ?_
    | with_reducible refine faultEvent_keeps ?_ 
    | with_reducible refine retireUnit_keeps ?_ 
    | with_reducible refine keeps_ite ?_ ?_
    | split
    | with_reducible refine Keeps.upd rfl rfl rfl rfl rfl rfl ?_

theorem execLoadTimeout_keeps {pm : Nat} {s0 : State} {n : ChanId} {s : State} (hk : Keeps pm s0 s) {rb : State} (e : (execLoadTimeout n s) = .next rb) (hm : Sub 0x50efe61 pm := by first | with_reducible assumption | (refine Sub.of ?_ (by with_reducible assumption); with_unfolding_all rfl)) :
    Keeps pm s0 rb := by
  unfold execLoadTimeout at e
  repeat' first
    | (injection e with e; subst e)
    | (cases e; done)
    | split at e
  all_goals try dsimp only
  all_goals repeat' first
    | with_reducible assumption
    | (with_reducible intro t; intros)
    | with_reducible refine foldl_keeps ?_ ?_
    | with_reducible refine State.modChan_keeps ?_ 
    | with_reducible refine startFault_keeps ?_ 
    | with_reducible refine sendSpin_keeps ?_ 
    | with_reducible refine unloadChans_keeps ?_ 
    | with_reducible refine unloadAll_keeps ?_ 
    | with_reducible refine failStart_keeps ?_ 
    | with_reducible refine immediateFault_keeps ?_ 
    | with_reducible refine keeps_ite ?_ ?_
    | split
    | with_reducible refine Keeps.upd rfl rfl rfl rfl rfl rfl ?_

theorem phaseFails_keeps {pm : Nat} {s0 : State} {s : State} (hk : Keeps pm s0 s) (hm : Sub 0x50efee1 pm := by first | with_reducible assumption | (refine Sub.of ?_ (by with_reducible assumption); with_unfolding_all rfl)) :
    Keeps pm s0 (phaseFails s) := by
  unfold phaseFails
  try dsimp only
  repeat' first
    | with_reducible assumption
    | (with_reducible intro t; intros)
    | with_reducible refine foldl_keeps ?_ ?_
    | with_reducible refine startFault_keeps ?_ 
    | with_reducible refine unloadChans_keeps ?_ 
    | with_reducible refine endCalibrate_keeps ?_ 
    | with_reducible refine failStart_keeps ?_ 
    | with_reducible refine beginHeadLoad_keeps ?_ 
    | with_reducible refine holdupFail_keeps ?_ 
    | with_reducible refine immediateFault_keeps ?_ 
    | with_reducible refine keeps_ite ?_ ?_
    | split
    | with_reducible refine Keeps.upd rfl rfl rfl rfl rfl rfl ?_

theorem execPhaseLimitExpired_keeps {pm : Nat} {s0 : State} {s : State} (hk : Keeps pm s0 s) {rb : State} (e : (execPhaseLimitExpired s) = .next rb) (hm : Sub 0x50efee1 pm := by first | with_reducible assumption | (refine Sub.of ?_ (by with_reducible assumption); with_unfolding_all rfl)) :
    Keeps pm s0 rb := by
  unfold execPhaseLimitExpired at e
  repeat' first
    | (injection e with e; subst e)
    | (cases e; done)
    | split at e
  all_goals try dsimp only
  all_goals repeat' first
    | with_reducible assumption
    | (with_reducible intro t; intros)
    | with_reducible refine foldl_keeps ?_ ?_
    | with_reducible refine unloadAll_keeps ?_ 
    | with_reducible refine failStart_keeps ?_ 
    | with_reducible refine phaseFails_keeps ?_ 
    | with_reducible refine keeps_ite ?_ ?_
    | split
    | with_reducible refine Keeps.upd rfl rfl rfl rfl rfl rfl ?_

theorem issueBoundary_keeps {pm : Nat} {s0 : State} {s : State} (hk : Keeps pm s0 s) (hm : Sub 0x3c pm := by first | with_reducible assumption | (refine Sub.of ?_ (by with_reducible assumption); with_unfolding_all rfl)) :
    Keeps pm s0 (issueBoundary s) := by
  unfold issueBoundary
  dsimp only
  have h : Keeps pm s0 (advanceTick s) := advanceTick_keeps hk
  generalize advanceTick s = t at h ⊢
  exact State.modLink_keeps (State.modLink_keeps (Keeps.upd rfl rfl rfl rfl rfl rfl h))

theorem startRun_keeps {pm : Nat} {s0 : State} {n : ChanId} {op : MediaOp} {s : State} (hk : Keeps pm s0 s) (hm : Sub 0xc0 pm := by first | with_reducible assumption | (refine Sub.of ?_ (by with_reducible assumption); with_unfolding_all rfl)) :
    Keeps pm s0 (startRun n op s) := by
  unfold startRun
  try dsimp only
  repeat' first
    | with_reducible assumption
    | (with_reducible intro t; intros)
    | with_reducible refine foldl_keeps ?_ ?_
    | with_reducible refine State.modWr_keeps ?_ 
    | with_reducible refine modeFrame_keeps ?_ 
    | with_reducible refine runLevel_keeps ?_ 
    | with_reducible refine runWriter_keeps ?_ 
    | with_reducible refine keeps_ite ?_ ?_
    | split
    | with_reducible refine Keeps.upd rfl rfl rfl rfl rfl rfl ?_

theorem place_keeps {pm : Nat} {s0 : State} {n : ChanId} {o : MediaOp} {forced : Bool} {s : State} (hk : Keeps pm s0 s) (hm : Sub 0x82c0 pm := by first | with_reducible assumption | (refine Sub.of ?_ (by with_reducible assumption); with_unfolding_all rfl)) :
    Keeps pm s0 (place n o forced s) := by
  unfold place
  try dsimp only
  repeat' first
    | with_reducible assumption
    | (with_reducible intro t; intros)
    | with_reducible refine foldl_keeps ?_ ?_
    | with_reducible refine State.modRwc_keeps ?_ 
    | with_reducible refine State.modWr_keeps ?_ 
    | with_reducible refine modeFrame_keeps ?_ 
    | with_reducible refine noteDuty_keeps ?_ 
    | with_reducible refine startRun_keeps ?_ 
    | with_reducible refine keeps_ite ?_ ?_
    | split
    | with_reducible refine Keeps.upd rfl rfl rfl rfl rfl rfl ?_

theorem passFor_keeps {pm : Nat} {s0 : State} {s : State} {n : ChanId} (hk : Keeps pm s0 s) (hm : Sub 0x82c0 pm := by first | with_reducible assumption | (refine Sub.of ?_ (by with_reducible assumption); with_unfolding_all rfl)) :
    Keeps pm s0 (passFor s n) := by
  unfold passFor
  try dsimp only
  repeat' first
    | with_reducible assumption
    | (with_reducible intro t; intros)
    | with_reducible refine foldl_keeps ?_ ?_
    | with_reducible refine place_keeps ?_ 
    | with_reducible refine keeps_ite ?_ ?_
    | split
    | with_reducible refine Keeps.upd rfl rfl rfl rfl rfl rfl ?_

theorem pruneQueue_keeps {pm : Nat} {s0 : State} {s : State} (hk : Keeps pm s0 s) (hm : Sub 0x8000 pm := by first | with_reducible assumption | (refine Sub.of ?_ (by with_reducible assumption); with_unfolding_all rfl)) :
    Keeps pm s0 (pruneQueue s) := by
  unfold pruneQueue
  try dsimp only
  repeat' first
    | with_reducible assumption
    | (with_reducible intro t; intros)
    | with_reducible refine foldl_keeps ?_ ?_
    | with_reducible refine keeps_ite ?_ ?_
    | split
    | with_reducible refine Keeps.upd rfl rfl rfl rfl rfl rfl ?_

theorem pruneUrgent_keeps {pm : Nat} {s0 : State} {s : State} (hk : Keeps pm s0 s) (hm : Sub 0x20000 pm := by first | with_reducible assumption | (refine Sub.of ?_ (by with_reducible assumption); with_unfolding_all rfl)) :
    Keeps pm s0 (pruneUrgent s) := by
  unfold pruneUrgent
  try dsimp only
  repeat' first
    | with_reducible assumption
    | (with_reducible intro t; intros)
    | with_reducible refine foldl_keeps ?_ ?_
    | with_reducible refine keeps_ite ?_ ?_
    | split
    | with_reducible refine Keeps.upd rfl rfl rfl rfl rfl rfl ?_

theorem sheepdogPass_keeps {pm : Nat} {s0 : State} {s : State} (hk : Keeps pm s0 s) (hm : Sub 0x10282c0 pm := by first | with_reducible assumption | (refine Sub.of ?_ (by with_reducible assumption); with_unfolding_all rfl)) :
    Keeps pm s0 (sheepdogPass s) := by
  unfold sheepdogPass
  try dsimp only
  repeat' first
    | with_reducible assumption
    | (with_reducible intro t; intros)
    | with_reducible refine foldl_keeps ?_ ?_
    | with_reducible refine calSteps_keeps ?_ 
    | with_reducible refine passFor_keeps ?_ 
    | with_reducible refine pruneQueue_keeps ?_ 
    | with_reducible refine pruneUrgent_keeps ?_ 
    | with_reducible refine keeps_ite ?_ ?_
    | split
    | with_reducible refine Keeps.upd rfl rfl rfl rfl rfl rfl ?_

theorem execTickBoundary_keeps {pm : Nat} {s0 : State} {s : State} (hk : Keeps pm s0 s) {rb : State} (e : (execTickBoundary s) = .next rb) (hm : Sub 0x57efffd pm := by first | with_reducible assumption | (refine Sub.of ?_ (by with_reducible assumption); with_unfolding_all rfl)) :
    Keeps pm s0 rb := by
  unfold execTickBoundary at e
  repeat' first
    | (injection e with e; subst e)
    | (cases e; done)
    | split at e
  all_goals try dsimp only
  all_goals repeat' first
    | with_reducible assumption
    | (with_reducible intro t; intros)
    | with_reducible refine foldl_keeps ?_ ?_
    | with_reducible refine boundaryRecords_keeps ?_ 
    | with_reducible refine boundaryRest_keeps ?_ 
    | with_reducible refine boundaryServo_keeps ?_ 
    | with_reducible refine issueBoundary_keeps ?_ 
    | with_reducible refine sheepdogPass_keeps ?_ 
    | with_reducible refine keeps_ite ?_ ?_
    | split
    | with_reducible refine Keeps.upd rfl rfl rfl rfl rfl rfl ?_

theorem ifLive_keeps {pm : Nat} {s0 : State} {s : State} {f : State → State} (hk : Keeps pm s0 s) (h_f : ∀ (t : State), Keeps pm s0 t → Keeps pm s0 (f t)) (hm : Sub 0x0 pm := by first | with_reducible assumption | (refine Sub.of ?_ (by with_reducible assumption); with_unfolding_all rfl)) :
    Keeps pm s0 (ifLive s f) := by
  unfold ifLive
  try dsimp only
  repeat' first
    | with_reducible assumption
    | (with_reducible intro t; intros)
    | with_reducible refine foldl_keeps ?_ ?_
    | with_reducible refine h_f _ ?_
    | with_reducible refine keeps_ite ?_ ?_
    | split
    | with_reducible refine Keeps.upd rfl rfl rfl rfl rfl rfl ?_

theorem withdrawDecision_keeps {pm : Nat} {s0 : State} {s : State} {x : ChanId × Bool} (hk : Keeps pm s0 s) (hm : Sub 0x8040 pm := by first | with_reducible assumption | (refine Sub.of ?_ (by with_reducible assumption); with_unfolding_all rfl)) :
    Keeps pm s0 (withdrawDecision s x) := by
  unfold withdrawDecision
  try dsimp only
  repeat' first
    | with_reducible assumption
    | (with_reducible intro t; intros)
    | with_reducible refine foldl_keeps ?_ ?_
    | with_reducible refine State.modRwc_keeps ?_ 
    | with_reducible refine State.modWr_keeps ?_ 
    | with_reducible refine refile_keeps ?_ 
    | with_reducible refine unplace_keeps ?_ 
    | with_reducible refine keeps_ite ?_ ?_
    | split
    | with_reducible refine Keeps.upd rfl rfl rfl rfl rfl rfl ?_

theorem execSheepdogPassLate_keeps {pm : Nat} {s0 : State} {s : State} (hk : Keeps pm s0 s) {rb : State} (e : (execSheepdogPassLate s) = .next rb) (hm : Sub 0x1008040 pm := by first | with_reducible assumption | (refine Sub.of ?_ (by with_reducible assumption); with_unfolding_all rfl)) :
    Keeps pm s0 rb := by
  unfold execSheepdogPassLate at e
  repeat' first
    | (injection e with e; subst e)
    | (cases e; done)
    | split at e
  all_goals try dsimp only
  all_goals repeat' first
    | with_reducible assumption
    | (with_reducible intro t; intros)
    | with_reducible refine foldl_keeps ?_ ?_
    | with_reducible refine raise_keeps ?_ 
    | with_reducible refine ifLive_keeps ?_ ?_ 
    | with_reducible refine withdrawDecision_keeps ?_ 
    | with_reducible refine keeps_ite ?_ ?_
    | split
    | with_reducible refine Keeps.upd rfl rfl rfl rfl rfl rfl ?_

theorem tickTo_keeps {pm : Nat} {s0 : State} {t : TickState} {s : State} (hk : Keeps pm s0 s) (hm : Sub 0x8 pm := by first | with_reducible assumption | (refine Sub.of ?_ (by with_reducible assumption); with_unfolding_all rfl)) :
    Keeps pm s0 (tickTo t s) := by
  unfold tickTo
  try dsimp only
  repeat' first
    | with_reducible assumption
    | (with_reducible intro t; intros)
    | with_reducible refine foldl_keeps ?_ ?_
    | with_reducible refine keeps_ite ?_ ?_
    | split
    | with_reducible refine Keeps.upd rfl rfl rfl rfl rfl rfl ?_

theorem snapTo_keeps {pm : Nat} {s0 : State} {raw : ℕ} {atNs : ℕ} {s : State} (hk : Keeps pm s0 s) (hm : Sub 0x8 pm := by first | with_reducible assumption | (refine Sub.of ?_ (by with_reducible assumption); with_unfolding_all rfl)) :
    Keeps pm s0 (snapTo raw atNs s) := by
  unfold snapTo
  try dsimp only
  repeat' first
    | with_reducible assumption
    | (with_reducible intro t; intros)
    | with_reducible refine foldl_keeps ?_ ?_
    | with_reducible refine keeps_ite ?_ ?_
    | split
    | with_reducible refine Keeps.upd rfl rfl rfl rfl rfl rfl ?_

theorem indexReturns_keeps {pm : Nat} {s0 : State} {raw : ℕ} {atNs : ℕ} {s : State} (hk : Keeps pm s0 s) (hm : Sub 0x8 pm := by first | with_reducible assumption | (refine Sub.of ?_ (by with_reducible assumption); with_unfolding_all rfl)) :
    Keeps pm s0 (indexReturns raw atNs s) := by
  unfold indexReturns
  try dsimp only
  repeat' first
    | with_reducible assumption
    | (with_reducible intro t; intros)
    | with_reducible refine foldl_keeps ?_ ?_
    | with_reducible refine tickTo_keeps ?_ 
    | with_reducible refine snapTo_keeps ?_ 
    | with_reducible refine keeps_ite ?_ ?_
    | split
    | with_reducible refine Keeps.upd rfl rfl rfl rfl rfl rfl ?_

theorem respace_keeps {pm : Nat} {s0 : State} {edge : ℤ} {period : ℕ} {s : State} (hk : Keeps pm s0 s) (hm : Sub 0x8 pm := by first | with_reducible assumption | (refine Sub.of ?_ (by with_reducible assumption); with_unfolding_all rfl)) :
    Keeps pm s0 (respace edge period s) := by
  unfold respace
  try dsimp only
  repeat' first
    | with_reducible assumption
    | (with_reducible intro t; intros)
    | with_reducible refine foldl_keeps ?_ ?_
    | with_reducible refine keeps_ite ?_ ?_
    | split
    | with_reducible refine Keeps.upd rfl rfl rfl rfl rfl rfl ?_

theorem judgeSpeed_keeps {pm : Nat} {s0 : State} {period : ℕ} {s : State} (hk : Keeps pm s0 s) (hm : Sub 0x1040008 pm := by first | with_reducible assumption | (refine Sub.of ?_ (by with_reducible assumption); with_unfolding_all rfl)) :
    Keeps pm s0 (judgeSpeed period s) := by
  unfold judgeSpeed
  try dsimp only
  repeat' first
    | with_reducible assumption
    | (with_reducible intro t; intros)
    | with_reducible refine foldl_keeps ?_ ?_
    | with_reducible refine driveFault_keeps ?_ 
    | with_reducible refine keeps_ite ?_ ?_
    | split
    | with_reducible refine Keeps.upd rfl rfl rfl rfl rfl rfl ?_

theorem measured_keeps {pm : Nat} {s0 : State} {raw : ℕ} {period : ℕ} {atNs : ℕ} {s : State} (hk : Keeps pm s0 s) (hm : Sub 0x1040008 pm := by first | with_reducible assumption | (refine Sub.of ?_ (by with_reducible assumption); with_unfolding_all rfl)) :
    Keeps pm s0 (measured raw period atNs s) := by
  unfold measured
  try dsimp only
  repeat' first
    | with_reducible assumption
    | (with_reducible intro t; intros)
    | with_reducible refine foldl_keeps ?_ ?_
    | with_reducible refine tickTo_keeps ?_ 
    | with_reducible refine snapTo_keeps ?_ 
    | with_reducible refine respace_keeps ?_ 
    | with_reducible refine judgeSpeed_keeps ?_ 
    | with_reducible refine keeps_ite ?_ ?_
    | split
    | with_reducible refine Keeps.upd rfl rfl rfl rfl rfl rfl ?_

theorem indexEdge_keeps {pm : Nat} {s0 : State} {raw : ℕ} {atNs : ℕ} {s : State} (hk : Keeps pm s0 s) (hm : Sub 0x1040008 pm := by first | with_reducible assumption | (refine Sub.of ?_ (by with_reducible assumption); with_unfolding_all rfl)) :
    Keeps pm s0 (indexEdge raw atNs s) := by
  unfold indexEdge
  try dsimp only
  repeat' first
    | with_reducible assumption
    | (with_reducible intro t; intros)
    | with_reducible refine foldl_keeps ?_ ?_
    | with_reducible refine snapTo_keeps ?_ 
    | with_reducible refine indexReturns_keeps ?_ 
    | with_reducible refine measured_keeps ?_ 
    | with_reducible refine keeps_ite ?_ ?_
    | split
    | with_reducible refine Keeps.upd rfl rfl rfl rfl rfl rfl ?_

theorem execIndexFrame_keeps {pm : Nat} {s0 : State} {k : LinkId} {f : UpFrame} {s : State} (hk : Keeps pm s0 s) {rb : State} (e : (execIndexFrame k f s) = .next rb) (hm : Sub 0x104002c pm := by first | with_reducible assumption | (refine Sub.of ?_ (by with_reducible assumption); with_unfolding_all rfl)) :
    Keeps pm s0 rb := by
  unfold execIndexFrame at e
  repeat' first
    | (injection e with e; subst e)
    | (cases e; done)
    | split at e
  all_goals try dsimp only
  all_goals repeat' first
    | with_reducible assumption
    | (with_reducible intro t; intros)
    | with_reducible refine foldl_keeps ?_ ?_
    | with_reducible refine State.modLink_keeps ?_ 
    | with_reducible refine onFrame_keeps ?_ ?_ 
    | with_reducible refine indexEdge_keeps ?_ 
    | with_reducible refine keeps_ite ?_ ?_
    | split
    | with_reducible refine Keeps.upd rfl rfl rfl rfl rfl rfl ?_

theorem loseIndex_keeps {pm : Nat} {s0 : State} {s : State} (hk : Keeps pm s0 s) (hm : Sub 0x8 pm := by first | with_reducible assumption | (refine Sub.of ?_ (by with_reducible assumption); with_unfolding_all rfl)) :
    Keeps pm s0 (loseIndex s) := by
  unfold loseIndex
  try dsimp only
  repeat' first
    | with_reducible assumption
    | (with_reducible intro t; intros)
    | with_reducible refine foldl_keeps ?_ ?_
    | with_reducible refine tickTo_keeps ?_ 
    | with_reducible refine keeps_ite ?_ ?_
    | split
    | with_reducible refine Keeps.upd rfl rfl rfl rfl rfl rfl ?_

theorem execIndexLoss_keeps {pm : Nat} {s0 : State} {s : State} (hk : Keeps pm s0 s) {rb : State} (e : (execIndexLoss s) = .next rb) (hm : Sub 0x8 pm := by first | with_reducible assumption | (refine Sub.of ?_ (by with_reducible assumption); with_unfolding_all rfl)) :
    Keeps pm s0 rb := by
  unfold execIndexLoss at e
  repeat' first
    | (injection e with e; subst e)
    | (cases e; done)
    | split at e
  all_goals try dsimp only
  all_goals repeat' first
    | with_reducible assumption
    | (with_reducible intro t; intros)
    | with_reducible refine foldl_keeps ?_ ?_
    | with_reducible refine loseIndex_keeps ?_ 
    | with_reducible refine keeps_ite ?_ ?_
    | split
    | with_reducible refine Keeps.upd rfl rfl rfl rfl rfl rfl ?_

theorem execIndexLoss10s_keeps {pm : Nat} {s0 : State} {s : State} (hk : Keeps pm s0 s) {rb : State} (e : (execIndexLoss10s s) = .next rb) (hm : Sub 0x50efe69 pm := by first | with_reducible assumption | (refine Sub.of ?_ (by with_reducible assumption); with_unfolding_all rfl)) :
    Keeps pm s0 rb := by
  unfold execIndexLoss10s at e
  repeat' first
    | (injection e with e; subst e)
    | (cases e; done)
    | split at e
  all_goals try dsimp only
  all_goals repeat' first
    | with_reducible assumption
    | (with_reducible intro t; intros)
    | with_reducible refine foldl_keeps ?_ ?_
    | with_reducible refine driveRestart_keeps ?_ 
    | with_reducible refine driveFault_keeps ?_ 
    | with_reducible refine keeps_ite ?_ ?_
    | split
    | with_reducible refine Keeps.upd rfl rfl rfl rfl rfl rfl ?_

theorem spindleStopped_keeps {pm : Nat} {s0 : State} {s : State} (hk : Keeps pm s0 s) (hm : Sub 0x1020829 pm := by first | with_reducible assumption | (refine Sub.of ?_ (by with_reducible assumption); with_unfolding_all rfl)) :
    Keeps pm s0 (spindleStopped s) := by
  unfold spindleStopped
  try dsimp only
  repeat' first
    | with_reducible assumption
    | (with_reducible intro t; intros)
    | with_reducible refine foldl_keeps ?_ ?_
    | with_reducible refine spinUp_keeps ?_ 
    | with_reducible refine restartFromSpinWait_keeps ?_ 
    | with_reducible refine tickTo_keeps ?_ 
    | with_reducible refine keeps_ite ?_ ?_
    | split
    | with_reducible refine Keeps.upd rfl rfl rfl rfl rfl rfl ?_

theorem execBemfFrame_keeps {pm : Nat} {s0 : State} {k : LinkId} {f : UpFrame} {s : State} (hk : Keeps pm s0 s) {rb : State} (e : (execBemfFrame k f s) = .next rb) (hm : Sub 0x102082d pm := by first | with_reducible assumption | (refine Sub.of ?_ (by with_reducible assumption); with_unfolding_all rfl)) :
    Keeps pm s0 rb := by
  unfold execBemfFrame at e
  repeat' first
    | (injection e with e; subst e)
    | (cases e; done)
    | split at e
  all_goals try dsimp only
  all_goals repeat' first
    | with_reducible assumption
    | (with_reducible intro t; intros)
    | with_reducible refine foldl_keeps ?_ ?_
    | with_reducible refine State.modLink_keeps ?_ 
    | with_reducible refine onFrame_keeps ?_ ?_ 
    | with_reducible refine spindleStopped_keeps ?_ 
    | with_reducible refine keeps_ite ?_ ?_
    | split
    | with_reducible refine Keeps.upd rfl rfl rfl rfl rfl rfl ?_

theorem faultSlots_keeps {pm : Nat} {s0 : State} {k : LinkId} {mask : ℕ} {atNs : ℕ} {s : State} (hk : Keeps pm s0 s) (hm : Sub 0x10efc40 pm := by first | with_reducible assumption | (refine Sub.of ?_ (by with_reducible assumption); with_unfolding_all rfl)) :
    Keeps pm s0 (faultSlots k mask atNs s) := by
  unfold faultSlots
  try dsimp only
  repeat' first
    | with_reducible assumption
    | (with_reducible intro t; intros)
    | with_reducible refine foldl_keeps ?_ ?_
    | with_reducible refine State.modSdm_keeps ?_ 
    | with_reducible refine gateCheck_keeps ?_ 
    | with_reducible refine keeps_ite ?_ ?_
    | split
    | with_reducible refine Keeps.upd rfl rfl rfl rfl rfl rfl ?_

theorem execFaultFrame_keeps {pm : Nat} {s0 : State} {k : LinkId} {f : UpFrame} {s : State} (hk : Keeps pm s0 s) {rb : State} (e : (execFaultFrame k f s) = .next rb) (hm : Sub 0x10efc6d pm := by first | with_reducible assumption | (refine Sub.of ?_ (by with_reducible assumption); with_unfolding_all rfl)) :
    Keeps pm s0 rb := by
  unfold execFaultFrame at e
  repeat' first
    | (injection e with e; subst e)
    | (cases e; done)
    | split at e
  all_goals try dsimp only
  all_goals repeat' first
    | with_reducible assumption
    | (with_reducible intro t; intros)
    | with_reducible refine foldl_keeps ?_ ?_
    | with_reducible refine State.modLink_keeps ?_ 
    | with_reducible refine failSpinUp_keeps ?_ 
    | with_reducible refine onFrame_keeps ?_ ?_ 
    | with_reducible refine faultSlots_keeps ?_ 
    | with_reducible refine keeps_ite ?_ ?_
    | split
    | with_reducible refine Keeps.upd rfl rfl rfl rfl rfl rfl ?_

theorem execAdlIdleFrame_keeps {pm : Nat} {s0 : State} {k : LinkId} {f : UpFrame} {s : State} (hk : Keeps pm s0 s) {rb : State}
    (e : execAdlIdleFrame k f s = .next rb) (hm : Sub 0x24 pm := by first | with_reducible assumption | (refine Sub.of ?_ (by with_reducible assumption); with_unfolding_all rfl)) : Keeps pm s0 rb := by
  injection e with e
  exact e ▸ onFrame_keeps hk (fun t ht => ht)

theorem execLinkLoss_keeps {pm : Nat} {s0 : State} {k : LinkId} {s : State} (hk : Keeps pm s0 s) {rb : State} (e : (execLinkLoss k s) = .next rb) (hm : Sub 0x10efc69 pm := by first | with_reducible assumption | (refine Sub.of ?_ (by with_reducible assumption); with_unfolding_all rfl)) :
    Keeps pm s0 rb := by
  unfold execLinkLoss at e
  repeat' first
    | (injection e with e; subst e)
    | (cases e; done)
    | split at e
  all_goals try dsimp only
  all_goals repeat' first
    | with_reducible assumption
    | (with_reducible intro t; intros)
    | with_reducible refine foldl_keeps ?_ ?_
    | with_reducible refine State.modLink_keeps ?_ 
    | with_reducible refine State.modSdm_keeps ?_ 
    | with_reducible refine transientFault_keeps ?_ 
    | with_reducible refine gateCheck_keeps ?_ 
    | with_reducible refine failSpinUp_keeps ?_ 
    | with_reducible refine keeps_ite ?_ ?_
    | split
    | with_reducible refine Keeps.upd rfl rfl rfl rfl rfl rfl ?_

end Sys2Proof.Machine
end

