-- ==== Sys2Proof/Laws/Frame10.lean ====
section
/-! SUPPORT. What each operation keeps (see Keeps), in the order in which operations call each other: execLinkLossLimit to execEnvDecision. -/

set_option linter.unusedTactic false
set_option linter.unreachableTactic false
set_option Elab.async false

namespace Sys2Proof.Machine

theorem execLinkLossLimit_keeps {pm : Nat} {s0 : State} {k : LinkId} {s : State} (hk : Keeps pm s0 s) {rb : State} (e : (execLinkLossLimit k s) = .next rb) (hm : Sub 0x50efe61 pm := by first | with_reducible assumption | (refine Sub.of ?_ (by with_reducible assumption); with_unfolding_all rfl)) :
    Keeps pm s0 rb := by
  unfold execLinkLossLimit at e
  repeat' first
    | (injection e with e; subst e)
    | (cases e; done)
    | split at e
  all_goals try dsimp only
  all_goals repeat' first
    | with_reducible assumption
    | (with_reducible intro t; intros)
    | with_reducible refine foldl_keeps ?_ ?_
    | with_reducible refine State.modLink_keeps ?_ 
    | with_reducible refine charge_keeps ?_ 
    | with_reducible refine driveRestart_keeps ?_ 
    | with_reducible refine keeps_ite ?_ ?_
    | split
    | with_reducible refine Keeps.upd rfl rfl rfl rfl rfl rfl ?_

theorem execSpeedFaultLimit_keeps {pm : Nat} {s0 : State} {s : State} (hk : Keeps pm s0 s) {rb : State} (e : (execSpeedFaultLimit s) = .next rb) (hm : Sub 0x50efe61 pm := by first | with_reducible assumption | (refine Sub.of ?_ (by with_reducible assumption); with_unfolding_all rfl)) :
    Keeps pm s0 rb := by
  unfold execSpeedFaultLimit at e
  repeat' first
    | (injection e with e; subst e)
    | (cases e; done)
    | split at e
  all_goals try dsimp only
  all_goals repeat' first
    | with_reducible assumption
    | (with_reducible intro t; intros)
    | with_reducible refine foldl_keeps ?_ ?_
    | with_reducible refine driveRestart_keeps ?_ 
    | with_reducible refine keeps_ite ?_ ?_
    | split
    | with_reducible refine Keeps.upd rfl rfl rfl rfl rfl rfl ?_

theorem wedgeZero_keeps {pm : Nat} {s0 : State} {n : ChanId} {m : Sample} {t : ℕ} {s : State} (hk : Keeps pm s0 s) (hm : Sub 0xc0 pm := by first | with_reducible assumption | (refine Sub.of ?_ (by with_reducible assumption); with_unfolding_all rfl)) :
    Keeps pm s0 (wedgeZero n m t s) := by
  unfold wedgeZero
  try dsimp only
  repeat' first
    | with_reducible assumption
    | (with_reducible intro t; intros)
    | with_reducible refine foldl_keeps ?_ ?_
    | with_reducible refine State.modHead_keeps ?_ 
    | with_reducible refine State.modSdm_keeps ?_ 
    | with_reducible refine keeps_ite ?_ ?_
    | split
    | with_reducible refine Keeps.upd rfl rfl rfl rfl rfl rfl ?_

theorem substituteStrobe_keeps {pm : Nat} {s0 : State} {n : ChanId} {t : ℕ} {s : State} (hk : Keeps pm s0 s) (hm : Sub 0x8 pm := by first | with_reducible assumption | (refine Sub.of ?_ (by with_reducible assumption); with_unfolding_all rfl)) :
    Keeps pm s0 (substituteStrobe n t s) := by
  unfold substituteStrobe
  try dsimp only
  repeat' first
    | with_reducible assumption
    | (with_reducible intro t; intros)
    | with_reducible refine foldl_keeps ?_ ?_
    | with_reducible refine tickTo_keeps ?_ 
    | with_reducible refine respace_keeps ?_ 
    | with_reducible refine keeps_ite ?_ ?_
    | split
    | with_reducible refine Keeps.upd rfl rfl rfl rfl rfl rfl ?_

theorem sdmStrobe.substituteOrMeasure_keeps {pm : Nat} {s0 : State} {n : ChanId} {m : Sample} {t : ℕ} {s : State} (hk : Keeps pm s0 s) (hm : Sub 0xc8 pm := by first | with_reducible assumption | (refine Sub.of ?_ (by with_reducible assumption); with_unfolding_all rfl)) :
    Keeps pm s0 (sdmStrobe.substituteOrMeasure n m t s) := by
  unfold sdmStrobe.substituteOrMeasure
  try dsimp only
  repeat' first
    | with_reducible assumption
    | (with_reducible intro t; intros)
    | with_reducible refine foldl_keeps ?_ ?_
    | with_reducible refine wedgeZero_keeps ?_ 
    | with_reducible refine substituteStrobe_keeps ?_ 
    | with_reducible refine keeps_ite ?_ ?_
    | split
    | with_reducible refine Keeps.upd rfl rfl rfl rfl rfl rfl ?_

theorem sdmStrobe_keeps {pm : Nat} {s0 : State} {n : ChanId} {f : ServoField} {m : Sample} {s : State} (hk : Keeps pm s0 s) (hm : Sub 0x10000c8 pm := by first | with_reducible assumption | (refine Sub.of ?_ (by with_reducible assumption); with_unfolding_all rfl)) :
    Keeps pm s0 (sdmStrobe n f m s) := by
  unfold sdmStrobe
  try dsimp only
  repeat' first
    | with_reducible assumption
    | (with_reducible intro t; intros)
    | with_reducible refine foldl_keeps ?_ ?_
    | with_reducible refine State.modSdm_keeps ?_ 
    | with_reducible refine chanFault_keeps ?_ 
    | with_reducible refine sdmStrobe.substituteOrMeasure_keeps ?_ 
    | with_reducible refine keeps_ite ?_ ?_
    | split
    | with_reducible refine Keeps.upd rfl rfl rfl rfl rfl rfl ?_

theorem loadLost_keeps {pm : Nat} {s0 : State} {n : ChanId} {s : State} (hk : Keeps pm s0 s) (hm : Sub 0x40 pm := by first | with_reducible assumption | (refine Sub.of ?_ (by with_reducible assumption); with_unfolding_all rfl)) :
    Keeps pm s0 (loadLost n s) := by
  unfold loadLost
  try dsimp only
  repeat' first
    | with_reducible assumption
    | (with_reducible intro t; intros)
    | with_reducible refine foldl_keeps ?_ ?_
    | with_reducible refine State.modChan_keeps ?_ 
    | with_reducible refine keeps_ite ?_ ?_
    | split
    | with_reducible refine Keeps.upd rfl rfl rfl rfl rfl rfl ?_

theorem fourthMiss_keeps {pm : Nat} {s0 : State} {n : ChanId} {s : State} (hk : Keeps pm s0 s) (hm : Sub 0x1048040 pm := by first | with_reducible assumption | (refine Sub.of ?_ (by with_reducible assumption); with_unfolding_all rfl)) :
    Keeps pm s0 (fourthMiss n s) := by
  unfold fourthMiss
  try dsimp only
  repeat' first
    | with_reducible assumption
    | (with_reducible intro t; intros)
    | with_reducible refine foldl_keeps ?_ ?_
    | with_reducible refine State.modSdm_keeps ?_ 
    | with_reducible refine transientFault_keeps ?_ 
    | with_reducible refine finishRead_keeps ?_ 
    | with_reducible refine keeps_ite ?_ ?_
    | split
    | with_reducible refine Keeps.upd rfl rfl rfl rfl rfl rfl ?_

theorem firstSam_keeps {pm : Nat} {s0 : State} {n : ChanId} {seen : Bool} {s : State} (hk : Keeps pm s0 s) (hm : Sub 0x40 pm := by first | with_reducible assumption | (refine Sub.of ?_ (by with_reducible assumption); with_unfolding_all rfl)) :
    Keeps pm s0 (firstSam n seen s) := by
  unfold firstSam
  try dsimp only
  repeat' first
    | with_reducible assumption
    | (with_reducible intro t; intros)
    | with_reducible refine foldl_keeps ?_ ?_
    | with_reducible refine State.modChan_keeps ?_ 
    | with_reducible refine keeps_ite ?_ ?_
    | split
    | with_reducible refine Keeps.upd rfl rfl rfl rfl rfl rfl ?_

theorem strobe_keeps {pm : Nat} {s0 : State} {n : ChanId} {f : ServoField} {s : State} (hk : Keeps pm s0 s) (hm : Sub 0x50efee9 pm := by first | with_reducible assumption | (refine Sub.of ?_ (by with_reducible assumption); with_unfolding_all rfl)) :
    Keeps pm s0 (strobe n f s) := by
  unfold strobe
  try dsimp only
  repeat' first
    | with_reducible assumption
    | (with_reducible intro t; intros)
    | with_reducible refine foldl_keeps ?_ ?_
    | with_reducible refine State.modSdm_keeps ?_ 
    | with_reducible refine closeRecord_keeps ?_ 
    | with_reducible refine closeWindow_keeps ?_ 
    | with_reducible refine powerFrontEnds_keeps ?_ 
    | with_reducible refine detectOverrun_keeps ?_ 
    | with_reducible refine engineStrobe_keeps ?_ 
    | with_reducible refine sdmStrobe_keeps ?_ 
    | with_reducible refine loadLost_keeps ?_ 
    | with_reducible refine fourthMiss_keeps ?_ 
    | with_reducible refine firstSam_keeps ?_ 
    | with_reducible refine keeps_ite ?_ ?_
    | split
    | with_reducible refine Keeps.upd rfl rfl rfl rfl rfl rfl ?_

theorem execWedgeStrobe_keeps {pm : Nat} {s0 : State} {n : ChanId} {f : ServoField} {s : State} (hk : Keeps pm s0 s) {rb : State} (e : (execWedgeStrobe n f s) = .next rb) (hm : Sub 0x50efeed pm := by first | with_reducible assumption | (refine Sub.of ?_ (by with_reducible assumption); with_unfolding_all rfl)) :
    Keeps pm s0 rb := by
  unfold execWedgeStrobe at e
  repeat' first
    | (injection e with e; subst e)
    | (cases e; done)
    | split at e
  all_goals try dsimp only
  all_goals repeat' first
    | with_reducible assumption
    | (with_reducible intro t; intros)
    | with_reducible refine foldl_keeps ?_ ?_
    | with_reducible refine atOffset_keeps ?_ 
    | with_reducible refine strobe_keeps ?_ 
    | with_reducible refine keeps_ite ?_ ?_
    | split
    | with_reducible refine Keeps.upd rfl rfl rfl rfl rfl rfl ?_

theorem execSamWindowClose_keeps {pm : Nat} {s0 : State} {n : ChanId} {f : ServoField} {s : State} (hk : Keeps pm s0 s) {rb : State} (e : (execSamWindowClose n f s) = .next rb) (hm : Sub 0x10efc40 pm := by first | with_reducible assumption | (refine Sub.of ?_ (by with_reducible assumption); with_unfolding_all rfl)) :
    Keeps pm s0 rb := by
  unfold execSamWindowClose at e
  repeat' first
    | (injection e with e; subst e)
    | (cases e; done)
    | split at e
  all_goals try dsimp only
  all_goals repeat' first
    | with_reducible assumption
    | (with_reducible intro t; intros)
    | with_reducible refine foldl_keeps ?_ ?_
    | with_reducible refine State.modSdm_keeps ?_ 
    | with_reducible refine flushLevel_keeps ?_ 
    | with_reducible refine gateCheck_keeps ?_ 
    | with_reducible refine closeWindow_keeps ?_ 
    | with_reducible refine keeps_ite ?_ ?_
    | split
    | with_reducible refine Keeps.upd rfl rfl rfl rfl rfl rfl ?_

theorem execReacqLimitExpired_keeps {pm : Nat} {s0 : State} {n : ChanId} {s : State} (hk : Keeps pm s0 s) {rb : State} (e : (execReacqLimitExpired n s) = .next rb) (hm : Sub 0x50efe60 pm := by first | with_reducible assumption | (refine Sub.of ?_ (by with_reducible assumption); with_unfolding_all rfl)) :
    Keeps pm s0 rb := by
  unfold execReacqLimitExpired at e
  repeat' first
    | (injection e with e; subst e)
    | (cases e; done)
    | split at e
  all_goals try dsimp only
  all_goals repeat' first
    | with_reducible assumption
    | (with_reducible intro t; intros)
    | with_reducible refine foldl_keeps ?_ ?_
    | with_reducible refine State.modChan_keeps ?_ 
    | with_reducible refine queueLoad_keeps ?_ 
    | with_reducible refine unloadChans_keeps ?_ 
    | with_reducible refine keeps_ite ?_ ?_
    | split
    | with_reducible refine Keeps.upd rfl rfl rfl rfl rfl rfl ?_

theorem execAccessRequest_keeps {pm : Nat} {s0 : State} {n : ChanId} {r : AccessReq} {s : State} (hk : Keeps pm s0 s) {rb : State} (e : (execAccessRequest n r s) = .next rb) (hm : Sub 0x40 pm := by first | with_reducible assumption | (refine Sub.of ?_ (by with_reducible assumption); with_unfolding_all rfl)) :
    Keeps pm s0 rb := by
  unfold execAccessRequest at e
  repeat' first
    | (injection e with e; subst e)
    | (cases e; done)
    | split at e
  all_goals try dsimp only
  all_goals repeat' first
    | with_reducible assumption
    | (with_reducible intro t; intros)
    | with_reducible refine foldl_keeps ?_ ?_
    | with_reducible refine State.modChan_keeps ?_ 
    | with_reducible refine keeps_ite ?_ ?_
    | split
    | with_reducible refine Keeps.upd rfl rfl rfl rfl rfl rfl ?_

theorem issueOutput_keeps {pm : Nat} {s0 : State} {n : ChanId} {b : Computation} {s : State} (hk : Keeps pm s0 s) (hm : Sub 0x60 pm := by first | with_reducible assumption | (refine Sub.of ?_ (by with_reducible assumption); with_unfolding_all rfl)) :
    Keeps pm s0 (issueOutput n b s) := by
  unfold issueOutput
  try dsimp only
  repeat' first
    | with_reducible assumption
    | (with_reducible intro t; intros)
    | with_reducible refine foldl_keeps ?_ ?_
    | with_reducible refine State.modCe_keeps ?_ 
    | with_reducible refine sendFrame_keeps ?_ 
    | with_reducible refine closeRecord_keeps ?_ 
    | with_reducible refine keeps_ite ?_ ?_
    | split
    | with_reducible refine Keeps.upd rfl rfl rfl rfl rfl rfl ?_

theorem execCeOutputIssue_keeps {pm : Nat} {s0 : State} {n : ChanId} {s : State} (hk : Keeps pm s0 s) {rb : State} (e : (execCeOutputIssue n s) = .next rb) (hm : Sub 0x60 pm := by first | with_reducible assumption | (refine Sub.of ?_ (by with_reducible assumption); with_unfolding_all rfl)) :
    Keeps pm s0 rb := by
  unfold execCeOutputIssue at e
  repeat' first
    | (injection e with e; subst e)
    | (cases e; done)
    | split at e
  all_goals try dsimp only
  all_goals repeat' first
    | with_reducible assumption
    | (with_reducible intro t; intros)
    | with_reducible refine foldl_keeps ?_ ?_
    | with_reducible refine flushLevel_keeps ?_ 
    | with_reducible refine issueOutput_keeps ?_ 
    | with_reducible refine keeps_ite ?_ ?_
    | split
    | with_reducible refine Keeps.upd rfl rfl rfl rfl rfl rfl ?_

theorem seekFaultEvent_keeps {pm : Nat} {s0 : State} {n : ChanId} {s : State} (hk : Keeps pm s0 s) (hm : Sub 0x1040000 pm := by first | with_reducible assumption | (refine Sub.of ?_ (by with_reducible assumption); with_unfolding_all rfl)) :
    Keeps pm s0 (seekFaultEvent n s) := by
  unfold seekFaultEvent
  try dsimp only
  repeat' first
    | with_reducible assumption
    | (with_reducible intro t; intros)
    | with_reducible refine foldl_keeps ?_ ?_
    | with_reducible refine charge_keeps ?_ 
    | with_reducible refine transientFault_keeps ?_ 
    | with_reducible refine keeps_ite ?_ ?_
    | split
    | with_reducible refine Keeps.upd rfl rfl rfl rfl rfl rfl ?_

theorem execSeekFault_keeps {pm : Nat} {s0 : State} {n : ChanId} {s : State} (hk : Keeps pm s0 s) {rb : State} (e : (execSeekFault n s) = .next rb) (hm : Sub 0x10efc40 pm := by first | with_reducible assumption | (refine Sub.of ?_ (by with_reducible assumption); with_unfolding_all rfl)) :
    Keeps pm s0 rb := by
  unfold execSeekFault at e
  repeat' first
    | (injection e with e; subst e)
    | (cases e; done)
    | split at e
  all_goals try dsimp only
  all_goals repeat' first
    | with_reducible assumption
    | (with_reducible intro t; intros)
    | with_reducible refine foldl_keeps ?_ ?_
    | with_reducible refine State.modChan_keeps ?_ 
    | with_reducible refine gateCheck_keeps ?_ 
    | with_reducible refine reinitialise_keeps ?_ 
    | with_reducible refine seekFaultEvent_keeps ?_ 
    | with_reducible refine keeps_ite ?_ ?_
    | split
    | with_reducible refine Keeps.upd rfl rfl rfl rfl rfl rfl ?_

theorem execTrimLate_keeps {pm : Nat} {s0 : State} {n : ChanId} {s : State} (hk : Keeps pm s0 s) {rb : State} (e : (execTrimLate n s) = .next rb) (hm : Sub 0x40 pm := by first | with_reducible assumption | (refine Sub.of ?_ (by with_reducible assumption); with_unfolding_all rfl)) :
    Keeps pm s0 rb := by
  unfold execTrimLate at e
  repeat' first
    | (injection e with e; subst e)
    | (cases e; done)
    | split at e
  all_goals try dsimp only
  all_goals repeat' first
    | with_reducible assumption
    | (with_reducible intro t; intros)
    | with_reducible refine foldl_keeps ?_ ?_
    | with_reducible refine State.modWr_keeps ?_ 
    | with_reducible refine keeps_ite ?_ ?_
    | split
    | with_reducible refine Keeps.upd rfl rfl rfl rfl rfl rfl ?_

theorem fillFifo_keeps {pm : Nat} {s0 : State} {n : ChanId} {l : List Bool} {s : State} (hk : Keeps pm s0 s) (hm : Sub 0x20040 pm := by first | with_reducible assumption | (refine Sub.of ?_ (by with_reducible assumption); with_unfolding_all rfl)) :
    Keeps pm s0 (fillFifo n l s) := by
  induction l generalizing s with
  | nil => exact settlePins_keeps hk
  | cons p l ih =>
    unfold fillFifo
    dsimp only
    split
    · exact hk
    · split
      · exact settlePins_keeps hk
      · exact ih (State.modWr_keeps hk)

theorem runOn_keeps {pm : Nat} {s0 : State} {n : ChanId} {k : Nat} {a : Option Nat} {s : State} (hk : Keeps pm s0 s) (hm : Sub 0x10efc40 pm := by first | with_reducible assumption | (refine Sub.of ?_ (by with_reducible assumption); with_unfolding_all rfl)) :
    Keeps pm s0 (runOn n k a s) := by
  induction k generalizing s a with
  | zero => exact hk
  | succ k ih =>
    unfold runOn
    dsimp only
    split
    · exact hk
    · next r _ =>
      split
      · exact endRun_keeps hk
      · next i _ =>
        have h : Keeps pm s0 (alignFifo n (r.op.offset + i) (s.modWr n (fun w => { w with run := some { r with next := i } }))) :=
          alignFifo_keeps (State.modWr_keeps hk)
        revert h
        generalize alignFifo n (r.op.offset + i) (s.modWr n (fun w => { w with run := some { r with next := i } })) = t
        intro h
        split
        · exact h
        · exact endRun_keeps h
        · exact endRun_keeps (Keeps.upd rfl rfl rfl rfl rfl rfl h)
        · exact h
        · exact keeps_ite (transientFault_keeps (State.modWr_keeps h)) h
        · exact ih (unplaceable_keeps h)
        · exact ih (placeElsewhere_keeps h)
        · exact keeps_ite (startArmed_keeps (State.modWr_keeps h)) (State.modWr_keeps h)

theorem openWindow_keeps {pm : Nat} {s0 : State} {n : ChanId} {fill : List Bool} {s : State} (hk : Keeps pm s0 s) (hm : Sub 0x10efc40 pm := by first | with_reducible assumption | (refine Sub.of ?_ (by with_reducible assumption); with_unfolding_all rfl)) :
    Keeps pm s0 (openWindow n fill s) := by
  unfold openWindow
  try dsimp only
  repeat' first
    | with_reducible assumption
    | (with_reducible intro t; intros)
    | with_reducible refine foldl_keeps ?_ ?_
    | with_reducible refine State.modWr_keeps ?_ 
    | with_reducible refine fillFifo_keeps ?_ 
    | with_reducible refine runOn_keeps ?_ 
    | with_reducible refine keeps_ite ?_ ?_
    | split
    | with_reducible refine Keeps.upd rfl rfl rfl rfl rfl rfl ?_

theorem execDataWindowOpen_keeps {pm : Nat} {s0 : State} {n : ChanId} {arrived : ℕ} {poisoned : List ℕ} {s : State} (hk : Keeps pm s0 s) {rb : State} (e : (execDataWindowOpen n arrived poisoned s) = .next rb) (hm : Sub 0x10efc40 pm := by first | with_reducible assumption | (refine Sub.of ?_ (by with_reducible assumption); with_unfolding_all rfl)) :
    Keeps pm s0 rb := by
  unfold execDataWindowOpen at e
  repeat' first
    | (injection e with e; subst e)
    | (cases e; done)
    | split at e
  all_goals try dsimp only
  all_goals repeat' first
    | with_reducible assumption
    | (with_reducible intro t; intros)
    | with_reducible refine foldl_keeps ?_ ?_
    | with_reducible refine openWindow_keeps ?_ 
    | with_reducible refine keeps_ite ?_ ?_
    | split
    | with_reducible refine Keeps.upd rfl rfl rfl rfl rfl rfl ?_

theorem landBand_keeps {pm : Nat} {s0 : State} {k : BandKey} {o : ℕ} {s : State} (hk : Keeps pm s0 s) (hm : Sub 0x1000 pm := by first | with_reducible assumption | (refine Sub.of ?_ (by with_reducible assumption); with_unfolding_all rfl)) :
    Keeps pm s0 (landBand k o s) := by
  unfold landBand
  try dsimp only
  repeat' first
    | with_reducible assumption
    | (with_reducible intro t; intros)
    | with_reducible refine foldl_keeps ?_ ?_
    | with_reducible refine modBand_keeps ?_ 
    | with_reducible refine keeps_ite ?_ ?_
    | split
    | with_reducible refine Keeps.upd rfl rfl rfl rfl rfl rfl ?_

theorem noteFlush_keeps {pm : Nat} {s0 : State} {b : BlockKey} {version : ℕ} {s : State} (hk : Keeps pm s0 s) (hm : Sub 0x4000 pm := by first | with_reducible assumption | (refine Sub.of ?_ (by with_reducible assumption); with_unfolding_all rfl)) :
    Keeps pm s0 (noteFlush b version s) := by
  unfold noteFlush
  try dsimp only
  repeat' first
    | with_reducible assumption
    | (with_reducible intro t; intros)
    | with_reducible refine foldl_keeps ?_ ?_
    | with_reducible refine keeps_ite ?_ ?_
    | split
    | with_reducible refine Keeps.upd rfl rfl rfl rfl rfl rfl ?_

theorem landLine_keeps {pm : Nat} {s0 : State} {r : WriteRun} {f : FifoSector} {b : BlockKey} {s : State} (hk : Keeps pm s0 s) (hm : Sub 0x10a7c00 pm := by first | with_reducible assumption | (refine Sub.of ?_ (by with_reducible assumption); with_unfolding_all rfl)) :
    Keeps pm s0 (landLine r f b s) := by
  unfold landLine
  try dsimp only
  repeat' first
    | with_reducible assumption
    | (with_reducible intro t; intros)
    | with_reducible refine foldl_keeps ?_ ?_
    | with_reducible refine dropLines_keeps ?_ 
    | with_reducible refine mapLines_keeps ?_ 
    | with_reducible refine markLost_keeps ?_ 
    | with_reducible refine noteFlush_keeps ?_ 
    | with_reducible refine keeps_ite ?_ ?_
    | split
    | with_reducible refine Keeps.upd rfl rfl rfl rfl rfl rfl ?_

theorem landRepair_keeps {pm : Nat} {s0 : State} {k : BandKey} {o : ℕ} {s : State} (hk : Keeps pm s0 s) (hm : Sub 0x40 pm := by first | with_reducible assumption | (refine Sub.of ?_ (by with_reducible assumption); with_unfolding_all rfl)) :
    Keeps pm s0 (landRepair k o s) := by
  unfold landRepair
  try dsimp only
  repeat' first
    | with_reducible assumption
    | (with_reducible intro t; intros)
    | with_reducible refine foldl_keeps ?_ ?_
    | with_reducible refine State.modWr_keeps ?_ 
    | with_reducible refine keeps_ite ?_ ?_
    | split
    | with_reducible refine Keeps.upd rfl rfl rfl rfl rfl rfl ?_

theorem landBlock_keeps {pm : Nat} {s0 : State} {r : WriteRun} {f : FifoSector} {s : State} (hk : Keeps pm s0 s) (hm : Sub 0x10afc40 pm := by first | with_reducible assumption | (refine Sub.of ?_ (by with_reducible assumption); with_unfolding_all rfl)) :
    Keeps pm s0 (landBlock r f s) := by
  unfold landBlock
  try dsimp only
  repeat' first
    | with_reducible assumption
    | (with_reducible intro t; intros)
    | with_reducible refine foldl_keeps ?_ ?_
    | with_reducible refine modCtx_keeps ?_ 
    | with_reducible refine endUnacked_keeps ?_ 
    | with_reducible refine landLine_keeps ?_ 
    | with_reducible refine landRepair_keeps ?_ 
    | with_reducible refine keeps_ite ?_ ?_
    | split
    | with_reducible refine Keeps.upd rfl rfl rfl rfl rfl rfl ?_

theorem sectorLands_keeps {pm : Nat} {s0 : State} {n : ChanId} {fill : List Bool} {s : State} (hk : Keeps pm s0 s) (hm : Sub 0x10efcc0 pm := by first | with_reducible assumption | (refine Sub.of ?_ (by with_reducible assumption); with_unfolding_all rfl)) :
    Keeps pm s0 (sectorLands n fill s) := by
  unfold sectorLands
  try dsimp only
  repeat' first
    | with_reducible assumption
    | (with_reducible intro t; intros)
    | with_reducible refine foldl_keeps ?_ ?_
    | with_reducible refine State.modWr_keeps ?_ 
    | with_reducible refine sectorOver_keeps ?_ 
    | with_reducible refine setFaultsAt_keeps ?_ 
    | with_reducible refine advanceFrontier_keeps ?_ 
    | with_reducible refine endStalls_keeps ?_ 
    | with_reducible refine fillFifo_keeps ?_ 
    | with_reducible refine runOn_keeps ?_ 
    | with_reducible refine landBand_keeps ?_ 
    | with_reducible refine landBlock_keeps ?_ 
    | with_reducible refine keeps_ite ?_ ?_
    | split
    | with_reducible refine Keeps.upd rfl rfl rfl rfl rfl rfl ?_

theorem execSectorOnMedia_keeps {pm : Nat} {s0 : State} {x : SectorLanding} {s : State} (hk : Keeps pm s0 s) {rb : State} (e : (execSectorOnMedia x s) = .next rb) (hm : Sub 0x50efee9 pm := by first | with_reducible assumption | (refine Sub.of ?_ (by with_reducible assumption); with_unfolding_all rfl)) :
    Keeps pm s0 rb := by
  unfold execSectorOnMedia at e
  repeat' first
    | (injection e with e; subst e)
    | (cases e; done)
    | split at e
  all_goals try dsimp only
  all_goals repeat' first
    | with_reducible assumption
    | (with_reducible intro t; intros)
    | with_reducible refine foldl_keeps ?_ ?_
    | with_reducible refine flushLevel_keeps ?_ 
    | with_reducible refine progress_keeps ?_ 
    | with_reducible refine startArmed_keeps ?_ 
    | with_reducible refine sectorLands_keeps ?_ 
    | with_reducible refine keeps_ite ?_ ?_
    | split
    | with_reducible refine Keeps.upd rfl rfl rfl rfl rfl rfl ?_

theorem verifiedGood_keeps {pm : Nat} {s0 : State} {k : BandKey} {offs : List ℕ} {s : State} (hk : Keeps pm s0 s) (hm : Sub 0x20000 pm := by first | with_reducible assumption | (refine Sub.of ?_ (by with_reducible assumption); with_unfolding_all rfl)) :
    Keeps pm s0 (verifiedGood k offs s) := by
  unfold verifiedGood
  try dsimp only
  repeat' first
    | with_reducible assumption
    | (with_reducible intro t; intros)
    | with_reducible refine foldl_keeps ?_ ?_
    | with_reducible refine mapLines_keeps ?_ 
    | with_reducible refine keeps_ite ?_ ?_
    | split
    | with_reducible refine Keeps.upd rfl rfl rfl rfl rfl rfl ?_

theorem settleExcursion_keeps {pm : Nat} {s0 : State} {n : ChanId} {e : Excursion} {fix : List ℕ} {tries : ℕ} {s : State} (hk : Keeps pm s0 s) (hm : Sub 0x29040 pm := by first | with_reducible assumption | (refine Sub.of ?_ (by with_reducible assumption); with_unfolding_all rfl)) :
    Keeps pm s0 (settleExcursion n e fix tries s) := by
  unfold settleExcursion
  try dsimp only
  repeat' first
    | with_reducible assumption
    | (with_reducible intro t; intros)
    | with_reducible refine foldl_keeps ?_ ?_
    | with_reducible refine State.modWr_keeps ?_ 
    | with_reducible refine advanceFrontier_keeps ?_ 
    | with_reducible refine dirtyAgain_keeps ?_ 
    | with_reducible refine fileExcursion_keeps ?_ 
    | with_reducible refine keeps_ite ?_ ?_
    | split
    | with_reducible refine Keeps.upd rfl rfl rfl rfl rfl rfl ?_

theorem verifyRead_keeps {pm : Nat} {s0 : State} {n : ChanId} {reads : List (ℕ × ℕ)} {s : State} (hk : Keeps pm s0 s) (hm : Sub 0x10abc40 pm := by first | with_reducible assumption | (refine Sub.of ?_ (by with_reducible assumption); with_unfolding_all rfl)) :
    Keeps pm s0 (verifyRead n reads s) := by
  unfold verifyRead
  try dsimp only
  repeat' first
    | with_reducible assumption
    | (with_reducible intro t; intros)
    | with_reducible refine foldl_keeps ?_ ?_
    | with_reducible refine State.modWr_keeps ?_ 
    | with_reducible refine givenUp_keeps ?_ 
    | with_reducible refine verifiedGood_keeps ?_ 
    | with_reducible refine settleExcursion_keeps ?_ 
    | with_reducible refine keeps_ite ?_ ?_
    | split
    | with_reducible refine Keeps.upd rfl rfl rfl rfl rfl rfl ?_

theorem execExcursionVerifyDone_keeps {pm : Nat} {s0 : State} {n : ChanId} {reads : List (ℕ × ℕ)} {s : State} (hk : Keeps pm s0 s) {rb : State} (e : (execExcursionVerifyDone n reads s) = .next rb) (hm : Sub 0x50efe69 pm := by first | with_reducible assumption | (refine Sub.of ?_ (by with_reducible assumption); with_unfolding_all rfl)) :
    Keeps pm s0 rb := by
  unfold execExcursionVerifyDone at e
  repeat' first
    | (injection e with e; subst e)
    | (cases e; done)
    | split at e
  all_goals try dsimp only
  all_goals repeat' first
    | with_reducible assumption
    | (with_reducible intro t; intros)
    | with_reducible refine foldl_keeps ?_ ?_
    | with_reducible refine progress_keeps ?_ 
    | with_reducible refine verifyRead_keeps ?_ 
    | with_reducible refine keeps_ite ?_ ?_
    | split
    | with_reducible refine Keeps.upd rfl rfl rfl rfl rfl rfl ?_

theorem repairRead_keeps {pm : Nat} {s0 : State} {n : ChanId} {reads : List (ℕ × ℕ)} {s : State} (hk : Keeps pm s0 s) (hm : Sub 0x10abc40 pm := by first | with_reducible assumption | (refine Sub.of ?_ (by with_reducible assumption); with_unfolding_all rfl)) :
    Keeps pm s0 (repairRead n reads s) := by
  unfold repairRead
  try dsimp only
  repeat' first
    | with_reducible assumption
    | (with_reducible intro t; intros)
    | with_reducible refine foldl_keeps ?_ ?_
    | with_reducible refine State.modWr_keeps ?_ 
    | with_reducible refine givenUp_keeps ?_ 
    | with_reducible refine verifiedGood_keeps ?_ 
    | with_reducible refine settleExcursion_keeps ?_ 
    | with_reducible refine keeps_ite ?_ ?_
    | split
    | with_reducible refine Keeps.upd rfl rfl rfl rfl rfl rfl ?_

theorem execRepairDone_keeps {pm : Nat} {s0 : State} {n : ChanId} {reads : List (ℕ × ℕ)} {s : State} (hk : Keeps pm s0 s) {rb : State} (e : (execRepairDone n reads s) = .next rb) (hm : Sub 0x50efe69 pm := by first | with_reducible assumption | (refine Sub.of ?_ (by with_reducible assumption); with_unfolding_all rfl)) :
    Keeps pm s0 rb := by
  unfold execRepairDone at e
  repeat' first
    | (injection e with e; subst e)
    | (cases e; done)
    | split at e
  all_goals try dsimp only
  all_goals repeat' first
    | with_reducible assumption
    | (with_reducible intro t; intros)
    | with_reducible refine foldl_keeps ?_ ?_
    | with_reducible refine progress_keeps ?_ 
    | with_reducible refine repairRead_keeps ?_ 
    | with_reducible refine keeps_ite ?_ ?_
    | split
    | with_reducible refine Keeps.upd rfl rfl rfl rfl rfl rfl ?_

theorem writeStallEvent_keeps {pm : Nat} {s0 : State} {h : HeadId} {s : State} (hk : Keeps pm s0 s) (hm : Sub 0x1040080 pm := by first | with_reducible assumption | (refine Sub.of ?_ (by with_reducible assumption); with_unfolding_all rfl)) :
    Keeps pm s0 (writeStallEvent h s) := by
  unfold writeStallEvent
  try dsimp only
  repeat' first
    | with_reducible assumption
    | (with_reducible intro t; intros)
    | with_reducible refine foldl_keeps ?_ ?_
    | with_reducible refine State.modHead_keeps ?_ 
    | with_reducible refine charge_keeps ?_ 
    | with_reducible refine transientFault_keeps ?_ 
    | with_reducible refine keeps_ite ?_ ?_
    | split
    | with_reducible refine Keeps.upd rfl rfl rfl rfl rfl rfl ?_

theorem execWriteTimeLimit_keeps {pm : Nat} {s0 : State} {n : ChanId} {s : State} (hk : Keeps pm s0 s) {rb : State} (e : (execWriteTimeLimit n s) = .next rb) (hm : Sub 0x10680c0 pm := by first | with_reducible assumption | (refine Sub.of ?_ (by with_reducible assumption); with_unfolding_all rfl)) :
    Keeps pm s0 rb := by
  unfold execWriteTimeLimit at e
  repeat' first
    | (injection e with e; subst e)
    | (cases e; done)
    | split at e
  all_goals try dsimp only
  all_goals repeat' first
    | with_reducible assumption
    | (with_reducible intro t; intros)
    | with_reducible refine foldl_keeps ?_ ?_
    | with_reducible refine endRun_keeps ?_ 
    | with_reducible refine writeStallEvent_keeps ?_ 
    | with_reducible refine keeps_ite ?_ ?_
    | split
    | with_reducible refine Keeps.upd rfl rfl rfl rfl rfl rfl ?_

theorem execPaFaultFall_keeps {pm : Nat} {s0 : State} {n : ChanId} {s : State} (hk : Keeps pm s0 s) {rb : State} (e : (execPaFaultFall n s) = .next rb) (hm : Sub 0x10efc40 pm := by first | with_reducible assumption | (refine Sub.of ?_ (by with_reducible assumption); with_unfolding_all rfl)) :
    Keeps pm s0 rb := by
  unfold execPaFaultFall at e
  repeat' first
    | (injection e with e; subst e)
    | (cases e; done)
    | split at e
  all_goals try dsimp only
  all_goals repeat' first
    | with_reducible assumption
    | (with_reducible intro t; intros)
    | with_reducible refine foldl_keeps ?_ ?_
    | with_reducible refine State.modWr_keeps ?_ 
    | with_reducible refine transientFault_keeps ?_ 
    | with_reducible refine gateCheck_keeps ?_ 
    | with_reducible refine keeps_ite ?_ ?_
    | split
    | with_reducible refine Keeps.upd rfl rfl rfl rfl rfl rfl ?_

theorem execPaFaultRise_keeps {pm : Nat} {s0 : State} {n : ChanId} {s : State} (hk : Keeps pm s0 s) {rb : State} (e : (execPaFaultRise n s) = .next rb) (hm : Sub 0x40 pm := by first | with_reducible assumption | (refine Sub.of ?_ (by with_reducible assumption); with_unfolding_all rfl)) :
    Keeps pm s0 rb := by
  unfold execPaFaultRise at e
  repeat' first
    | (injection e with e; subst e)
    | (cases e; done)
    | split at e
  all_goals try dsimp only
  all_goals repeat' first
    | with_reducible assumption
    | (with_reducible intro t; intros)
    | with_reducible refine foldl_keeps ?_ ?_
    | with_reducible refine State.modWr_keeps ?_ 
    | with_reducible refine keeps_ite ?_ ?_
    | split
    | with_reducible refine Keeps.upd rfl rfl rfl rfl rfl rfl ?_

theorem execPaFaultHold_keeps {pm : Nat} {s0 : State} {n : ChanId} {s : State} (hk : Keeps pm s0 s) {rb : State} (e : (execPaFaultHold n s) = .next rb) (hm : Sub 0x1040040 pm := by first | with_reducible assumption | (refine Sub.of ?_ (by with_reducible assumption); with_unfolding_all rfl)) :
    Keeps pm s0 rb := by
  unfold execPaFaultHold at e
  repeat' first
    | (injection e with e; subst e)
    | (cases e; done)
    | split at e
  all_goals try dsimp only
  all_goals repeat' first
    | with_reducible assumption
    | (with_reducible intro t; intros)
    | with_reducible refine foldl_keeps ?_ ?_
    | with_reducible refine State.modWr_keeps ?_ 
    | with_reducible refine charge_keeps ?_ 
    | with_reducible refine keeps_ite ?_ ?_
    | split
    | with_reducible refine Keeps.upd rfl rfl rfl rfl rfl rfl ?_

theorem monitorOut_keeps {pm : Nat} {s0 : State} {n : ChanId} {h : HeadId} {s : State} (hk : Keeps pm s0 s) (hm : Sub 0x10efcc0 pm := by first | with_reducible assumption | (refine Sub.of ?_ (by with_reducible assumption); with_unfolding_all rfl)) :
    Keeps pm s0 (monitorOut n h s) := by
  unfold monitorOut
  try dsimp only
  repeat' first
    | with_reducible assumption
    | (with_reducible intro t; intros)
    | with_reducible refine foldl_keeps ?_ ?_
    | with_reducible refine State.modHead_keeps ?_ 
    | with_reducible refine State.modWr_keeps ?_ 
    | with_reducible refine charge_keeps ?_ 
    | with_reducible refine gateCheck_keeps ?_ 
    | with_reducible refine keeps_ite ?_ ?_
    | split
    | with_reducible refine Keeps.upd rfl rfl rfl rfl rfl rfl ?_

theorem execMonitorReadDone_keeps {pm : Nat} {s0 : State} {n : ChanId} {m : Word16} {s : State} (hk : Keeps pm s0 s) {rb : State} (e : (execMonitorReadDone n m s) = .next rb) (hm : Sub 0x10efec0 pm := by first | with_reducible assumption | (refine Sub.of ?_ (by with_reducible assumption); with_unfolding_all rfl)) :
    Keeps pm s0 rb := by
  unfold execMonitorReadDone at e
  repeat' first
    | (injection e with e; subst e)
    | (cases e; done)
    | split at e
  all_goals try dsimp only
  all_goals repeat' first
    | with_reducible assumption
    | (with_reducible intro t; intros)
    | with_reducible refine foldl_keeps ?_ ?_
    | with_reducible refine State.modHead_keeps ?_ 
    | with_reducible refine State.modWr_keeps ?_ 
    | with_reducible refine serialFrame_keeps ?_ 
    | with_reducible refine flushLevel_keeps ?_ 
    | with_reducible refine calMonitor_keeps ?_ 
    | with_reducible refine closeWindow_keeps ?_ 
    | with_reducible refine takeTrim_keeps ?_ 
    | with_reducible refine takeTrim_keepsP ?_  (by assumption)
    | with_reducible refine monitorOut_keeps ?_ 
    | with_reducible refine keeps_ite ?_ ?_
    | split
    | with_reducible refine Keeps.upd rfl rfl rfl rfl rfl rfl ?_

theorem execFaultReadDone_keeps {pm : Nat} {s0 : State} {n : ChanId} {v : Word16} {s : State} (hk : Keeps pm s0 s) {rb : State} (e : (execFaultReadDone n v s) = .next rb) (hm : Sub 0x40 pm := by first | with_reducible assumption | (refine Sub.of ?_ (by with_reducible assumption); with_unfolding_all rfl)) :
    Keeps pm s0 rb := by
  unfold execFaultReadDone at e
  repeat' first
    | (injection e with e; subst e)
    | (cases e; done)
    | split at e
  all_goals try dsimp only
  all_goals repeat' first
    | with_reducible assumption
    | (with_reducible intro t; intros)
    | with_reducible refine foldl_keeps ?_ ?_
    | with_reducible refine State.modWr_keeps ?_ 
    | with_reducible refine otherFrame_keeps ?_ 
    | with_reducible refine keeps_ite ?_ ?_
    | split
    | with_reducible refine Keeps.upd rfl rfl rfl rfl rfl rfl ?_

theorem readOver_keeps {pm : Nat} {s0 : State} {n : ChanId} {s : State} (hk : Keeps pm s0 s) (hm : Sub 0x8040 pm := by first | with_reducible assumption | (refine Sub.of ?_ (by with_reducible assumption); with_unfolding_all rfl)) :
    Keeps pm s0 (readOver n s) := by
  unfold readOver
  try dsimp only
  repeat' first
    | with_reducible assumption
    | (with_reducible intro t; intros)
    | with_reducible refine foldl_keeps ?_ ?_
    | with_reducible refine State.modRwc_keeps ?_ 
    | with_reducible refine modeFrame_keeps ?_ 
    | with_reducible refine unplace_keeps ?_ 
    | with_reducible refine keeps_ite ?_ ?_
    | split
    | with_reducible refine Keeps.upd rfl rfl rfl rfl rfl rfl ?_

theorem internalReg_keeps {pm : Nat} {s0 : State} {nsid : ℕ} {lba : ℕ} {count : ℕ} {s : State} (hk : Keeps pm s0 s) (hm : Sub 0x20000 pm := by first | with_reducible assumption | (refine Sub.of ?_ (by with_reducible assumption); with_unfolding_all rfl)) :
    Keeps pm s0 (internalReg nsid lba count s) := by
  unfold internalReg
  try dsimp only
  repeat' first
    | with_reducible assumption
    | (with_reducible intro t; intros)
    | with_reducible refine foldl_keeps ?_ ?_
    | with_reducible refine fillingLine_keeps ?_ 
    | with_reducible refine keeps_ite ?_ ?_
    | split
    | with_reducible refine Keeps.upd rfl rfl rfl rfl rfl rfl ?_

theorem internalRegs_keeps {pm : Nat} {s0 : State} {o : MediaOp} {s : State} (hk : Keeps pm s0 s) (hm : Sub 0x2c000 pm := by first | with_reducible assumption | (refine Sub.of ?_ (by with_reducible assumption); with_unfolding_all rfl)) :
    Keeps pm s0 (internalRegs o s) := by
  unfold internalRegs
  try dsimp only
  repeat' first
    | with_reducible assumption
    | (with_reducible intro t; intros)
    | with_reducible refine foldl_keeps ?_ ?_
    | with_reducible refine endReg_keeps ?_ 
    | with_reducible refine internalReg_keeps ?_ 
    | with_reducible refine keeps_ite ?_ ?_
    | split
    | with_reducible refine Keeps.upd rfl rfl rfl rfl rfl rfl ?_

theorem noteAsperities_keeps {pm : Nat} {s0 : State} {n : ChanId} {count : ℕ} {s : State} (hk : Keeps pm s0 s) (hm : Sub 0x1040040 pm := by first | with_reducible assumption | (refine Sub.of ?_ (by with_reducible assumption); with_unfolding_all rfl)) :
    Keeps pm s0 (noteAsperities n count s) := by
  unfold noteAsperities
  try dsimp only
  repeat' first
    | with_reducible assumption
    | (with_reducible intro t; intros)
    | with_reducible refine foldl_keeps ?_ ?_
    | with_reducible refine State.modRwc_keeps ?_ 
    | with_reducible refine transientFault_keeps ?_ 
    | with_reducible refine keeps_ite ?_ ?_
    | split
    | with_reducible refine Keeps.upd rfl rfl rfl rfl rfl rfl ?_

theorem noteSpans_keeps {pm : Nat} {s0 : State} {n : ChanId} {o : MediaOp} {off : ℕ} {spans : List (ℕ × ℕ)} {s : State} (hk : Keeps pm s0 s) (hm : Sub 0x81040 pm := by first | with_reducible assumption | (refine Sub.of ?_ (by with_reducible assumption); with_unfolding_all rfl)) :
    Keeps pm s0 (noteSpans n o off spans s) := by
  unfold noteSpans
  try dsimp only
  repeat' first
    | with_reducible assumption
    | (with_reducible intro t; intros)
    | with_reducible refine foldl_keeps ?_ ?_
    | with_reducible refine modLadder_keeps ?_ 
    | with_reducible refine pendingDefect_keeps ?_ 
    | with_reducible refine keeps_ite ?_ ?_
    | split
    | with_reducible refine Keeps.upd rfl rfl rfl rfl rfl rfl ?_

theorem noteSync_keeps {pm : Nat} {s0 : State} {d : Option (ℕ × ℕ)} {s : State} (hk : Keeps pm s0 s) (hm : Sub 0x200 pm := by first | with_reducible assumption | (refine Sub.of ?_ (by with_reducible assumption); with_unfolding_all rfl)) :
    Keeps pm s0 (noteSync d s) := by
  unfold noteSync
  try dsimp only
  repeat' first
    | with_reducible assumption
    | (with_reducible intro t; intros)
    | with_reducible refine foldl_keeps ?_ ?_
    | with_reducible refine keeps_ite ?_ ?_
    | split
    | with_reducible refine Keeps.upd rfl rfl rfl rfl rfl rfl ?_

theorem takeSector_keeps {pm : Nat} {s0 : State} {n : ChanId} {o : MediaOp} {off : ℕ} {set : ℕ} {sel : EqSel} {again : Bool} {i : Fin 10} {sig : SectorSignal} {s : State} (hk : Keeps pm s0 s) (hm : Sub 0x10ed240 pm := by first | with_reducible assumption | (refine Sub.of ?_ (by with_reducible assumption); with_unfolding_all rfl)) :
    Keeps pm s0 (takeSector n o off set sel again i sig s) := by
  unfold takeSector
  try dsimp only
  repeat' first
    | with_reducible assumption
    | (with_reducible intro t; intros)
    | with_reducible refine foldl_keeps ?_ ?_
    | with_reducible refine State.modRwc_keeps ?_ 
    | with_reducible refine modEntry_keeps ?_ 
    | with_reducible refine transientFault_keeps ?_ 
    | with_reducible refine calSectorRead_keeps ?_ 
    | with_reducible refine noteFailed_keeps ?_ 
    | with_reducible refine sectorFails_keeps ?_ 
    | with_reducible refine noteAsperities_keeps ?_ 
    | with_reducible refine noteSpans_keeps ?_ 
    | with_reducible refine noteSync_keeps ?_ 
    | with_reducible refine keeps_ite ?_ ?_
    | split
    | with_reducible refine Keeps.upd rfl rfl rfl rfl rfl rfl ?_

theorem readNext_keeps {pm : Nat} {s0 : State} {n : ChanId} {o : MediaOp} {i : Fin 10} {sig : SectorSignal} {s : State} (hk : Keeps pm s0 s) (hm : Sub 0x10ed240 pm := by first | with_reducible assumption | (refine Sub.of ?_ (by with_reducible assumption); with_unfolding_all rfl)) :
    Keeps pm s0 (readNext n o i sig s) := by
  unfold readNext
  try dsimp only
  repeat' first
    | with_reducible assumption
    | (with_reducible intro t; intros)
    | with_reducible refine foldl_keeps ?_ ?_
    | with_reducible refine State.modRwc_keeps ?_ 
    | with_reducible refine refile_keeps ?_ 
    | with_reducible refine endReg_keeps ?_ 
    | with_reducible refine readOver_keeps ?_ 
    | with_reducible refine internalRegs_keeps ?_ 
    | with_reducible refine takeSector_keeps ?_ 
    | with_reducible refine keeps_ite ?_ ?_
    | split
    | with_reducible refine Keeps.upd rfl rfl rfl rfl rfl rfl ?_

theorem readAgain_keeps {pm : Nat} {s0 : State} {n : ChanId} {l : Ladder} {i : Fin 10} {sig : SectorSignal} {s : State} (hk : Keeps pm s0 s) (hm : Sub 0x10ed240 pm := by first | with_reducible assumption | (refine Sub.of ?_ (by with_reducible assumption); with_unfolding_all rfl)) :
    Keeps pm s0 (readAgain n l i sig s) := by
  unfold readAgain
  try dsimp only
  repeat' first
    | with_reducible assumption
    | (with_reducible intro t; intros)
    | with_reducible refine foldl_keeps ?_ ?_
    | with_reducible refine unrecovered_keeps ?_ 
    | with_reducible refine nextStep_keeps ?_ 
    | with_reducible refine takeSector_keeps ?_ 
    | with_reducible refine keeps_ite ?_ ?_
    | split
    | with_reducible refine Keeps.upd rfl rfl rfl rfl rfl rfl ?_

theorem execSectorRead_keeps {pm : Nat} {s0 : State} {n : ChanId} {sig : SectorSignal} {s : State} (hk : Keeps pm s0 s) {rb : State} (e : (execSectorRead n sig s) = .next rb) (hm : Sub 0x10ed240 pm := by first | with_reducible assumption | (refine Sub.of ?_ (by with_reducible assumption); with_unfolding_all rfl)) :
    Keeps pm s0 rb := by
  unfold execSectorRead at e
  repeat' first
    | (injection e with e; subst e)
    | (cases e; done)
    | split at e
  all_goals try dsimp only
  all_goals repeat' first
    | with_reducible assumption
    | (with_reducible intro t; intros)
    | with_reducible refine foldl_keeps ?_ ?_
    | with_reducible refine finishRead_keeps ?_ 
    | with_reducible refine dropUnwanted_keeps ?_ 
    | with_reducible refine settleChannel_keeps ?_ 
    | with_reducible refine readNext_keeps ?_ 
    | with_reducible refine readAgain_keeps ?_ 
    | with_reducible refine keeps_ite ?_ ?_
    | split
    | with_reducible refine Keeps.upd rfl rfl rfl rfl rfl rfl ?_

theorem execDecodeComplete_keeps {pm : Nat} {s0 : State} {n : ChanId} {entry : Fin 10} {s : State} (hk : Keeps pm s0 s) {rb : State} (e : (execDecodeComplete n entry s) = .next rb) (hm : Sub 0x10ed240 pm := by first | with_reducible assumption | (refine Sub.of ?_ (by with_reducible assumption); with_unfolding_all rfl)) :
    Keeps pm s0 rb := by
  unfold execDecodeComplete at e
  repeat' first
    | (injection e with e; subst e)
    | (cases e; done)
    | split at e
  all_goals try dsimp only
  all_goals repeat' first
    | with_reducible assumption
    | (with_reducible intro t; intros)
    | with_reducible refine foldl_keeps ?_ ?_
    | with_reducible refine decodeFirst_keeps ?_ 
    | with_reducible refine keeps_ite ?_ ?_
    | split
    | with_reducible refine Keeps.upd rfl rfl rfl rfl rfl rfl ?_

theorem lookGood_keeps {pm : Nat} {s0 : State} {n : ChanId} {l : Ladder} {a : Attempt} {b : Block} {s : State} (hk : Keeps pm s0 s) (hm : Sub 0x10ed040 pm := by first | with_reducible assumption | (refine Sub.of ?_ (by with_reducible assumption); with_unfolding_all rfl)) :
    Keeps pm s0 (lookGood n l a b s) := by
  unfold lookGood
  try dsimp only
  repeat' first
    | with_reducible assumption
    | (with_reducible intro t; intros)
    | with_reducible refine foldl_keeps ?_ ?_
    | with_reducible refine State.modRwc_keeps ?_ 
    | with_reducible refine readerBlame_keeps ?_ 
    | with_reducible refine recovered_keeps ?_ 
    | with_reducible refine keeps_ite ?_ ?_
    | split
    | with_reducible refine Keeps.upd rfl rfl rfl rfl rfl rfl ?_

theorem lookEnds_keeps {pm : Nat} {s0 : State} {n : ChanId} {s : State} (hk : Keeps pm s0 s) (hm : Sub 0x10ed040 pm := by first | with_reducible assumption | (refine Sub.of ?_ (by with_reducible assumption); with_unfolding_all rfl)) :
    Keeps pm s0 (lookEnds n s) := by
  unfold lookEnds
  try dsimp only
  repeat' first
    | with_reducible assumption
    | (with_reducible intro t; intros)
    | with_reducible refine foldl_keeps ?_ ?_
    | with_reducible refine State.modRwc_keeps ?_ 
    | with_reducible refine stopsFall_keeps ?_ 
    | with_reducible refine modLadder_keeps ?_ 
    | with_reducible refine unrecovered_keeps ?_ 
    | with_reducible refine nextStep_keeps ?_ 
    | with_reducible refine settleChannel_keeps ?_ 
    | with_reducible refine earlyEnds_keeps ?_ 
    | with_reducible refine lookGood_keeps ?_ 
    | with_reducible refine keeps_ite ?_ ?_
    | split
    | with_reducible refine Keeps.upd rfl rfl rfl rfl rfl rfl ?_

theorem execSecondLookAttemptEnd_keeps {pm : Nat} {s0 : State} {n : ChanId} {code : ℕ} {s : State} (hk : Keeps pm s0 s) {rb : State} (e : (execSecondLookAttemptEnd n code s) = .next rb) (hm : Sub 0x10ed040 pm := by first | with_reducible assumption | (refine Sub.of ?_ (by with_reducible assumption); with_unfolding_all rfl)) :
    Keeps pm s0 rb := by
  unfold execSecondLookAttemptEnd at e
  repeat' first
    | (injection e with e; subst e)
    | (cases e; done)
    | split at e
  all_goals try dsimp only
  all_goals repeat' first
    | with_reducible assumption
    | (with_reducible intro t; intros)
    | with_reducible refine foldl_keeps ?_ ?_
    | with_reducible refine lookEnds_keeps ?_ 
    | with_reducible refine keeps_ite ?_ ?_
    | split
    | with_reducible refine Keeps.upd rfl rfl rfl rfl rfl rfl ?_

theorem execRetryTimeLimit_keeps {pm : Nat} {s0 : State} {n : ChanId} {s : State} (hk : Keeps pm s0 s) {rb : State} (e : (execRetryTimeLimit n s) = .next rb) (hm : Sub 0x10ed040 pm := by first | with_reducible assumption | (refine Sub.of ?_ (by with_reducible assumption); with_unfolding_all rfl)) :
    Keeps pm s0 rb := by
  unfold execRetryTimeLimit at e
  repeat' first
    | (injection e with e; subst e)
    | (cases e; done)
    | split at e
  all_goals try dsimp only
  all_goals repeat' first
    | with_reducible assumption
    | (with_reducible intro t; intros)
    | with_reducible refine foldl_keeps ?_ ?_
    | with_reducible refine modLadder_keeps ?_ 
    | with_reducible refine unrecovered_keeps ?_ 
    | with_reducible refine settleChannel_keeps ?_ 
    | with_reducible refine earlyEnds_keeps ?_ 
    | with_reducible refine keeps_ite ?_ ?_
    | split
    | with_reducible refine Keeps.upd rfl rfl rfl rfl rfl rfl ?_

theorem execEnvDecision_keeps {pm : Nat} {s0 : State} {r : Vector SensorInput 11} {s : State} (hk : Keeps pm s0 s) {rb : State} (e : (execEnvDecision r s) = .next rb) (hm : Sub 0x50eff61 pm := by first | with_reducible assumption | (refine Sub.of ?_ (by with_reducible assumption); with_unfolding_all rfl)) :
    Keeps pm s0 rb := by
  unfold execEnvDecision at e
  repeat' first
    | (injection e with e; subst e)
    | (cases e; done)
    | split at e
  all_goals try dsimp only
  all_goals repeat' first
    | with_reducible assumption
    | (with_reducible intro t; intros)
    | with_reducible refine foldl_keeps ?_ ?_
    | with_reducible refine envDecision_keeps ?_ 
    | with_reducible refine keeps_ite ?_ ?_
    | split
    | with_reducible refine Keeps.upd rfl rfl rfl rfl rfl rfl ?_

end Sys2Proof.Machine
end

