-- ==== Sys2Proof/Laws/Frame11.lean ====
section
/-! SUPPORT. What each operation keeps (see Keeps), in the order in which operations call each other: execCalSchedule to nsCommand. -/

set_option linter.unusedTactic false
set_option linter.unreachableTactic false
set_option Elab.async false

namespace Sys2Proof.Machine

theorem execCalSchedule_keeps {pm : Nat} {s0 : State} {h : HeadId} {kind : CalKind} {s : State} (hk : Keeps pm s0 s) {rb : State} (e : (execCalSchedule h kind s) = .next rb) (hm : Sub 0x200 pm := by first | with_reducible assumption | (refine Sub.of ?_ (by with_reducible assumption); with_unfolding_all rfl)) :
    Keeps pm s0 rb := by
  unfold execCalSchedule at e
  repeat' first
    | (injection e with e; subst e)
    | (cases e; done)
    | split at e
  all_goals try dsimp only
  all_goals repeat' first
    | with_reducible assumption
    | (with_reducible intro t; intros)
    | with_reducible refine foldl_keeps ?_ ?_
    | with_reducible refine requestCal_keeps ?_ 
    | with_reducible refine keeps_ite ?_ ?_
    | split
    | with_reducible refine Keeps.upd rfl rfl rfl rfl rfl rfl ?_

theorem showAnswer_keeps {pm : Nat} {s0 : State} {code : ℕ} {v : List Byte} {s : State} (hk : Keeps pm s0 s) (hm : Sub 0x400000 pm := by first | with_reducible assumption | (refine Sub.of ?_ (by with_reducible assumption); with_unfolding_all rfl)) :
    Keeps pm s0 (showAnswer code v s) := by
  unfold showAnswer
  try dsimp only
  repeat' first
    | with_reducible assumption
    | (with_reducible intro t; intros)
    | with_reducible refine foldl_keeps ?_ ?_
    | with_reducible refine keeps_ite ?_ ?_
    | split
    | with_reducible refine Keeps.upd rfl rfl rfl rfl rfl rfl ?_

theorem objectAccess_keeps {pm : Nat} {s0 : State} {p : Path} {index : ℕ} {sub : ℕ} {v : List Byte} {s : State} (hk : Keeps pm s0 s) (hm : Sub 0xbff5e40 pm := by first | with_reducible assumption | (refine Sub.of ?_ (by with_reducible assumption); with_unfolding_all rfl)) :
    Keeps pm s0 (objectAccess p index sub v s) := by
  unfold objectAccess
  try dsimp only
  repeat' first
    | with_reducible assumption
    | (with_reducible intro t; intros)
    | with_reducible refine foldl_keeps ?_ ?_
    | with_reducible refine dictWrite_keeps ?_ 
    | with_reducible refine dictWrite_keepsP ?_  (by assumption)
    | with_reducible refine showAnswer_keeps ?_ 
    | with_reducible refine keeps_ite ?_ ?_
    | split
    | with_reducible refine Keeps.upd rfl rfl rfl rfl rfl rfl ?_

theorem execCalReqKindsWrite_keeps {pm : Nat} {s0 : State} {p : Path} {v : Byte} {s : State} (hk : Keeps pm s0 s) {rb : State} (e : (execCalReqKindsWrite p v s) = .next rb) (hm : Sub 0xbff5e40 pm := by first | with_reducible assumption | (refine Sub.of ?_ (by with_reducible assumption); with_unfolding_all rfl)) :
    Keeps pm s0 rb := by
  unfold execCalReqKindsWrite at e
  repeat' first
    | (injection e with e; subst e)
    | (cases e; done)
    | split at e
  all_goals try dsimp only
  all_goals repeat' first
    | with_reducible assumption
    | (with_reducible intro t; intros)
    | with_reducible refine foldl_keeps ?_ ?_
    | with_reducible refine objectAccess_keeps ?_ 
    | with_reducible refine keeps_ite ?_ ?_
    | split
    | with_reducible refine Keeps.upd rfl rfl rfl rfl rfl rfl ?_

theorem execCalRunEnd_keeps {pm : Nat} {s0 : State} {h : HeadId} {x : RunName} {s : State} (hk : Keeps pm s0 s) {rb : State} (e : (execCalRunEnd h x s) = .next rb) (hm : Sub 0x50efe69 pm := by first | with_reducible assumption | (refine Sub.of ?_ (by with_reducible assumption); with_unfolding_all rfl)) :
    Keeps pm s0 rb := by
  unfold execCalRunEnd at e
  repeat' first
    | (injection e with e; subst e)
    | (cases e; done)
    | split at e
  all_goals try dsimp only
  all_goals repeat' first
    | with_reducible assumption
    | (with_reducible intro t; intros)
    | with_reducible refine foldl_keeps ?_ ?_
    | with_reducible refine breakRun_keeps ?_ 
    | with_reducible refine progress_keeps ?_ 
    | with_reducible refine endOrdinaryRun_keeps ?_ 
    | with_reducible refine endTrackRun_keeps ?_ 
    | with_reducible refine endVerify_keeps ?_ 
    | with_reducible refine keeps_ite ?_ ?_
    | split
    | with_reducible refine Keeps.upd rfl rfl rfl rfl rfl rfl ?_

theorem execCalDeferTimeout_keeps {pm : Nat} {s0 : State} {h : HeadId} {kind : CalKind} {s : State} (hk : Keeps pm s0 s) {rb : State} (e : (execCalDeferTimeout h kind s) = .next rb) (hm : Sub 0x1000200 pm := by first | with_reducible assumption | (refine Sub.of ?_ (by with_reducible assumption); with_unfolding_all rfl)) :
    Keeps pm s0 rb := by
  unfold execCalDeferTimeout at e
  repeat' first
    | (injection e with e; subst e)
    | (cases e; done)
    | split at e
  all_goals try dsimp only
  all_goals repeat' first
    | with_reducible assumption
    | (with_reducible intro t; intros)
    | with_reducible refine foldl_keeps ?_ ?_
    | with_reducible refine recordResult_keeps ?_ 
    | with_reducible refine keeps_ite ?_ ?_
    | split
    | with_reducible refine Keeps.upd rfl rfl rfl rfl rfl rfl ?_

theorem settle_keeps {pm : Nat} {s0 : State} {s : State} (hk : Keeps pm s0 s) (hm : Sub 0x50efe69 pm := by first | with_reducible assumption | (refine Sub.of ?_ (by with_reducible assumption); with_unfolding_all rfl)) :
    Keeps pm s0 (settle s) := by
  unfold settle
  try dsimp only
  repeat' first
    | with_reducible assumption
    | (with_reducible intro t; intros)
    | with_reducible refine foldl_keeps ?_ ?_
    | with_reducible refine progress_keeps ?_ 
    | with_reducible refine powerStates_keeps ?_ 
    | with_reducible refine keeps_ite ?_ ?_
    | split
    | with_reducible refine Keeps.upd rfl rfl rfl rfl rfl rfl ?_

theorem resetPrivilege_keeps {pm : Nat} {s0 : State} {p : PortId} {s : State} (hk : Keeps pm s0 s) (hm : Sub 0x1600000 pm := by first | with_reducible assumption | (refine Sub.of ?_ (by with_reducible assumption); with_unfolding_all rfl)) :
    Keeps pm s0 (resetPrivilege p s) := by
  unfold resetPrivilege
  try dsimp only
  repeat' first
    | with_reducible assumption
    | (with_reducible intro t; intros)
    | with_reducible refine foldl_keeps ?_ ?_
    | with_reducible refine wantDiscard_keeps ?_ 
    | with_reducible refine modPath_keeps ?_ 
    | with_reducible refine keeps_ite ?_ ?_
    | split
    | with_reducible refine Keeps.upd rfl rfl rfl rfl rfl rfl ?_

theorem vendorReset_keeps {pm : Nat} {s0 : State} {p : PortId} {s : State} (hk : Keeps pm s0 s) (hm : Sub 0xc00 pm := by first | with_reducible assumption | (refine Sub.of ?_ (by with_reducible assumption); with_unfolding_all rfl)) :
    Keeps pm s0 (vendorReset p s) := by
  unfold vendorReset
  try dsimp only
  repeat' first
    | with_reducible assumption
    | (with_reducible intro t; intros)
    | with_reducible refine foldl_keeps ?_ ?_
    | with_reducible refine State.modPort_keeps ?_ 
    | with_reducible refine keeps_ite ?_ ?_
    | split
    | with_reducible refine Keeps.upd rfl rfl rfl rfl rfl rfl ?_

theorem functionReset_keeps {pm : Nat} {s0 : State} {p : PortId} {kind : ℕ} {s : State} (hk : Keeps pm s0 s) (hm : Sub 0x56efe69 pm := by first | with_reducible assumption | (refine Sub.of ?_ (by with_reducible assumption); with_unfolding_all rfl)) :
    Keeps pm s0 (functionReset p kind s) := by
  unfold functionReset
  try dsimp only
  repeat' first
    | with_reducible assumption
    | (with_reducible intro t; intros)
    | with_reducible refine foldl_keeps ?_ ?_
    | with_reducible refine controllerReset_keeps ?_ 
    | with_reducible refine portEvent_keeps ?_ 
    | with_reducible refine settle_keeps ?_ 
    | with_reducible refine resetPrivilege_keeps ?_ 
    | with_reducible refine vendorReset_keeps ?_ 
    | with_reducible refine keeps_ite ?_ ?_
    | split
    | with_reducible refine Keeps.upd rfl rfl rfl rfl rfl rfl ?_

theorem resetInVault_keeps {pm : Nat} {s0 : State} {p : PortId} {s : State} (hk : Keeps pm s0 s) (hm : Sub 0xc00 pm := by first | with_reducible assumption | (refine Sub.of ?_ (by with_reducible assumption); with_unfolding_all rfl)) :
    Keeps pm s0 (resetInVault p s) := by
  unfold resetInVault
  try dsimp only
  repeat' first
    | with_reducible assumption
    | (with_reducible intro t; intros)
    | with_reducible refine foldl_keeps ?_ ?_
    | with_reducible refine controllerFields_keeps ?_ 
    | with_reducible refine vendorReset_keeps ?_ 
    | with_reducible refine keeps_ite ?_ ?_
    | split
    | with_reducible refine Keeps.upd rfl rfl rfl rfl rfl rfl ?_

theorem execPerstAssert_keeps {pm : Nat} {s0 : State} {p : PortId} {s : State} (hk : Keeps pm s0 s) {rb : State} (e : (execPerstAssert p s) = .next rb) (hm : Sub 0x56efe69 pm := by first | with_reducible assumption | (refine Sub.of ?_ (by with_reducible assumption); with_unfolding_all rfl)) :
    Keeps pm s0 rb := by
  unfold execPerstAssert at e
  repeat' first
    | (injection e with e; subst e)
    | (cases e; done)
    | split at e
  all_goals try dsimp only
  all_goals repeat' first
    | with_reducible assumption
    | (with_reducible intro t; intros)
    | with_reducible refine foldl_keeps ?_ ?_
    | with_reducible refine State.modPort_keeps ?_ 
    | with_reducible refine functionReset_keeps ?_ 
    | with_reducible refine resetInVault_keeps ?_ 
    | with_reducible refine keeps_ite ?_ ?_
    | split
    | with_reducible refine Keeps.upd rfl rfl rfl rfl rfl rfl ?_

theorem execPerstDeassert_keeps {pm : Nat} {s0 : State} {p : PortId} {s : State} (hk : Keeps pm s0 s) {rb : State} (e : (execPerstDeassert p s) = .next rb) (hm : Sub 0x8000c00 pm := by first | with_reducible assumption | (refine Sub.of ?_ (by with_reducible assumption); with_unfolding_all rfl)) :
    Keeps pm s0 rb := by
  unfold execPerstDeassert at e
  repeat' first
    | (injection e with e; subst e)
    | (cases e; done)
    | split at e
  all_goals try dsimp only
  all_goals repeat' first
    | with_reducible assumption
    | (with_reducible intro t; intros)
    | with_reducible refine foldl_keeps ?_ ?_
    | with_reducible refine State.modPort_keeps ?_ 
    | with_reducible refine trainPort_keeps ?_ 
    | with_reducible refine keeps_ite ?_ ?_
    | split
    | with_reducible refine Keeps.upd rfl rfl rfl rfl rfl rfl ?_

theorem when_keeps {pm : Nat} {s0 : State} {c : Bool} {f : State → State} {s : State} (hk : Keeps pm s0 s) (h_f : ∀ (t : State), Keeps pm s0 t → Keeps pm s0 (f t)) (hm : Sub 0x0 pm := by first | with_reducible assumption | (refine Sub.of ?_ (by with_reducible assumption); with_unfolding_all rfl)) :
    Keeps pm s0 (when c f s) := by
  unfold when
  try dsimp only
  repeat' first
    | with_reducible assumption
    | (with_reducible intro t; intros)
    | with_reducible refine foldl_keeps ?_ ?_
    | with_reducible refine h_f _ ?_
    | with_reducible refine keeps_ite ?_ ?_
    | split
    | with_reducible refine Keeps.upd rfl rfl rfl rfl rfl rfl ?_

theorem execRefclkLoss_keeps {pm : Nat} {s0 : State} {p : PortId} {s : State} (hk : Keeps pm s0 s) {rb : State} (e : (execRefclkLoss p s) = .next rb) (hm : Sub 0x1000c00 pm := by first | with_reducible assumption | (refine Sub.of ?_ (by with_reducible assumption); with_unfolding_all rfl)) :
    Keeps pm s0 rb := by
  unfold execRefclkLoss at e
  repeat' first
    | (injection e with e; subst e)
    | (cases e; done)
    | split at e
  all_goals try dsimp only
  all_goals repeat' first
    | with_reducible assumption
    | (with_reducible intro t; intros)
    | with_reducible refine foldl_keeps ?_ ?_
    | with_reducible refine dropLink_keeps ?_ 
    | with_reducible refine when_keeps ?_ ?_ 
    | with_reducible refine keeps_ite ?_ ?_
    | split
    | with_reducible refine Keeps.upd rfl rfl rfl rfl rfl rfl ?_

theorem execHotReset_keeps {pm : Nat} {s0 : State} {p : PortId} {s : State} (hk : Keeps pm s0 s) {rb : State} (e : (execHotReset p s) = .next rb) (hm : Sub 0x56efe69 pm := by first | with_reducible assumption | (refine Sub.of ?_ (by with_reducible assumption); with_unfolding_all rfl)) :
    Keeps pm s0 rb := by
  unfold execHotReset at e
  repeat' first
    | (injection e with e; subst e)
    | (cases e; done)
    | split at e
  all_goals try dsimp only
  all_goals repeat' first
    | with_reducible assumption
    | (with_reducible intro t; intros)
    | with_reducible refine foldl_keeps ?_ ?_
    | with_reducible refine functionReset_keeps ?_ 
    | with_reducible refine resetInVault_keeps ?_ 
    | with_reducible refine keeps_ite ?_ ?_
    | split
    | with_reducible refine Keeps.upd rfl rfl rfl rfl rfl rfl ?_

theorem execFunctionLevelReset_keeps {pm : Nat} {s0 : State} {p : PortId} {s : State} (hk : Keeps pm s0 s) {rb : State} (e : (execFunctionLevelReset p s) = .next rb) (hm : Sub 0x56efe69 pm := by first | with_reducible assumption | (refine Sub.of ?_ (by with_reducible assumption); with_unfolding_all rfl)) :
    Keeps pm s0 rb := by
  unfold execFunctionLevelReset at e
  repeat' first
    | (injection e with e; subst e)
    | (cases e; done)
    | split at e
  all_goals try dsimp only
  all_goals repeat' first
    | with_reducible assumption
    | (with_reducible intro t; intros)
    | with_reducible refine foldl_keeps ?_ ?_
    | with_reducible refine functionReset_keeps ?_ 
    | with_reducible refine resetInVault_keeps ?_ 
    | with_reducible refine keeps_ite ?_ ?_
    | split
    | with_reducible refine Keeps.upd rfl rfl rfl rfl rfl rfl ?_

theorem execLinkDisable_keeps {pm : Nat} {s0 : State} {p : PortId} {s : State} (hk : Keeps pm s0 s) {rb : State} (e : (execLinkDisable p s) = .next rb) (hm : Sub 0x56efe69 pm := by first | with_reducible assumption | (refine Sub.of ?_ (by with_reducible assumption); with_unfolding_all rfl)) :
    Keeps pm s0 rb := by
  unfold execLinkDisable at e
  repeat' first
    | (injection e with e; subst e)
    | (cases e; done)
    | split at e
  all_goals try dsimp only
  all_goals repeat' first
    | with_reducible assumption
    | (with_reducible intro t; intros)
    | with_reducible refine foldl_keeps ?_ ?_
    | with_reducible refine controllerReset_keeps ?_ 
    | with_reducible refine dropLink_keeps ?_ 
    | with_reducible refine settle_keeps ?_ 
    | with_reducible refine resetPrivilege_keeps ?_ 
    | with_reducible refine vendorReset_keeps ?_ 
    | with_reducible refine resetInVault_keeps ?_ 
    | with_reducible refine keeps_ite ?_ ?_
    | split
    | with_reducible refine Keeps.upd rfl rfl rfl rfl rfl rfl ?_

theorem execCcEnable_keeps {pm : Nat} {s0 : State} {p : PortId} {s : State} (hk : Keeps pm s0 s) {rb : State} (e : (execCcEnable p s) = .next rb) (hm : Sub 0x50efe69 pm := by first | with_reducible assumption | (refine Sub.of ?_ (by with_reducible assumption); with_unfolding_all rfl)) :
    Keeps pm s0 rb := by
  unfold execCcEnable at e
  repeat' first
    | (injection e with e; subst e)
    | (cases e; done)
    | split at e
  all_goals try dsimp only
  all_goals repeat' first
    | with_reducible assumption
    | (with_reducible intro t; intros)
    | with_reducible refine foldl_keeps ?_ ?_
    | with_reducible refine State.modPort_keeps ?_ 
    | with_reducible refine settle_keeps ?_ 
    | with_reducible refine keeps_ite ?_ ?_
    | split
    | with_reducible refine Keeps.upd rfl rfl rfl rfl rfl rfl ?_

theorem execCcDisable_keeps {pm : Nat} {s0 : State} {p : PortId} {s : State} (hk : Keeps pm s0 s) {rb : State} (e : (execCcDisable p s) = .next rb) (hm : Sub 0x52efe69 pm := by first | with_reducible assumption | (refine Sub.of ?_ (by with_reducible assumption); with_unfolding_all rfl)) :
    Keeps pm s0 rb := by
  unfold execCcDisable at e
  repeat' first
    | (injection e with e; subst e)
    | (cases e; done)
    | split at e
  all_goals try dsimp only
  all_goals repeat' first
    | with_reducible assumption
    | (with_reducible intro t; intros)
    | with_reducible refine foldl_keeps ?_ ?_
    | with_reducible refine controllerFields_keeps ?_ 
    | with_reducible refine controllerReset_keeps ?_ 
    | with_reducible refine portEvent_keeps ?_ 
    | with_reducible refine settle_keeps ?_ 
    | with_reducible refine keeps_ite ?_ ?_
    | split
    | with_reducible refine Keeps.upd rfl rfl rfl rfl rfl rfl ?_

theorem execCcShutdown_keeps {pm : Nat} {s0 : State} {p : PortId} {shn : BitVec 2} {s : State} (hk : Keeps pm s0 s) {rb : State} (e : (execCcShutdown p shn s) = .next rb) (hm : Sub 0x50efe69 pm := by first | with_reducible assumption | (refine Sub.of ?_ (by with_reducible assumption); with_unfolding_all rfl)) :
    Keeps pm s0 rb := by
  unfold execCcShutdown at e
  repeat' first
    | (injection e with e; subst e)
    | (cases e; done)
    | split at e
  all_goals try dsimp only
  all_goals repeat' first
    | with_reducible assumption
    | (with_reducible intro t; intros)
    | with_reducible refine foldl_keeps ?_ ?_
    | with_reducible refine State.modPort_keeps ?_ 
    | with_reducible refine progress_keeps ?_ 
    | with_reducible refine keeps_ite ?_ ?_
    | split
    | with_reducible refine Keeps.upd rfl rfl rfl rfl rfl rfl ?_

theorem leaveFailed_keeps {pm : Nat} {s0 : State} {s : State} (hk : Keeps pm s0 s) (hm : Sub 0x1030801 pm := by first | with_reducible assumption | (refine Sub.of ?_ (by with_reducible assumption); with_unfolding_all rfl)) :
    Keeps pm s0 (leaveFailed s) := by
  unfold leaveFailed
  try dsimp only
  repeat' first
    | with_reducible assumption
    | (with_reducible intro t; intros)
    | with_reducible refine foldl_keeps ?_ ?_
    | with_reducible refine enterPhase_keeps ?_ 
    | with_reducible refine restartFromSpinWait_keeps ?_ 
    | with_reducible refine keeps_ite ?_ ?_
    | split
    | with_reducible refine Keeps.upd rfl rfl rfl rfl rfl rfl ?_

theorem execNvmSubsystemReset_keeps {pm : Nat} {s0 : State} {p : PortId} {v : Word32} {s : State} (hk : Keeps pm s0 s) {rb : State} (e : (execNvmSubsystemReset p v s) = .next rb) (hm : Sub 0x56ffe69 pm := by first | with_reducible assumption | (refine Sub.of ?_ (by with_reducible assumption); with_unfolding_all rfl)) :
    Keeps pm s0 rb := by
  unfold execNvmSubsystemReset at e
  repeat' first
    | (injection e with e; subst e)
    | (cases e; done)
    | split at e
  all_goals try dsimp only
  all_goals repeat' first
    | with_reducible assumption
    | (with_reducible intro t; intros)
    | with_reducible refine foldl_keeps ?_ ?_
    | with_reducible refine functionReset_keeps ?_ 
    | with_reducible refine resetInVault_keeps ?_ 
    | with_reducible refine leaveFailed_keeps ?_ 
    | with_reducible refine keeps_ite ?_ ?_
    | split
    | with_reducible refine Keeps.upd rfl rfl rfl rfl rfl rfl ?_

theorem execSqTailDoorbell_keeps {pm : Nat} {s0 : State} {p : PortId} {qid : ℕ} {tail : ℕ} {s : State} (hk : Keeps pm s0 s) {rb : State} (e : (execSqTailDoorbell p qid tail s) = .next rb) (hm : Sub 0xc00 pm := by first | with_reducible assumption | (refine Sub.of ?_ (by with_reducible assumption); with_unfolding_all rfl)) :
    Keeps pm s0 rb := by
  unfold execSqTailDoorbell at e
  repeat' first
    | (injection e with e; subst e)
    | (cases e; done)
    | split at e
  all_goals try dsimp only
  all_goals repeat' first
    | with_reducible assumption
    | (with_reducible intro t; intros)
    | with_reducible refine foldl_keeps ?_ ?_
    | with_reducible refine State.modPort_keeps ?_ 
    | with_reducible refine keeps_ite ?_ ?_
    | split
    | with_reducible refine Keeps.upd rfl rfl rfl rfl rfl rfl ?_

theorem execCqHeadDoorbell_keeps {pm : Nat} {s0 : State} {p : PortId} {qid : ℕ} {head : ℕ} {s : State} (hk : Keeps pm s0 s) {rb : State} (e : (execCqHeadDoorbell p qid head s) = .next rb) (hm : Sub 0xc00 pm := by first | with_reducible assumption | (refine Sub.of ?_ (by with_reducible assumption); with_unfolding_all rfl)) :
    Keeps pm s0 rb := by
  unfold execCqHeadDoorbell at e
  repeat' first
    | (injection e with e; subst e)
    | (cases e; done)
    | split at e
  all_goals try dsimp only
  all_goals repeat' first
    | with_reducible assumption
    | (with_reducible intro t; intros)
    | with_reducible refine foldl_keeps ?_ ?_
    | with_reducible refine State.modPort_keeps ?_ 
    | with_reducible refine keeps_ite ?_ ?_
    | split
    | with_reducible refine Keeps.upd rfl rfl rfl rfl rfl rfl ?_

theorem execCommandAdmission_keeps {pm : Nat} {s0 : State} {p : PortId} {e : SqEntry} {s : State} (hk : Keeps pm s0 s) {rb : State} (e : (execCommandAdmission p e s) = .next rb) (hm : Sub 0x50efe69 pm := by first | with_reducible assumption | (refine Sub.of ?_ (by with_reducible assumption); with_unfolding_all rfl)) :
    Keeps pm s0 rb := by
  unfold execCommandAdmission at e
  repeat' first
    | (injection e with e; subst e)
    | (cases e; done)
    | split at e
  all_goals try dsimp only
  all_goals repeat' first
    | with_reducible assumption
    | (with_reducible intro t; intros)
    | with_reducible refine foldl_keeps ?_ ?_
    | with_reducible refine progress_keeps ?_ 
    | with_reducible refine admitOne_keeps ?_ 
    | with_reducible refine keeps_ite ?_ ?_
    | split
    | with_reducible refine Keeps.upd rfl rfl rfl rfl rfl rfl ?_

theorem execCompletionCommit_keeps {pm : Nat} {s0 : State} {id : ℕ} {s : State} (hk : Keeps pm s0 s) {rb : State} (e : (execCompletionCommit id s) = .next rb) (hm : Sub 0x50efe69 pm := by first | with_reducible assumption | (refine Sub.of ?_ (by with_reducible assumption); with_unfolding_all rfl)) :
    Keeps pm s0 rb := by
  unfold execCompletionCommit at e
  repeat' first
    | (injection e with e; subst e)
    | (cases e; done)
    | split at e
  all_goals try dsimp only
  all_goals repeat' first
    | with_reducible assumption
    | (with_reducible intro t; intros)
    | with_reducible refine foldl_keeps ?_ ?_
    | with_reducible refine progress_keeps ?_ 
    | with_reducible refine lookupWaiting_keeps ?_ 
    | with_reducible refine commitRead_keeps ?_ 
    | with_reducible refine commitWrite_keeps ?_ 
    | with_reducible refine keeps_ite ?_ ?_
    | split
    | with_reducible refine Keeps.upd rfl rfl rfl rfl rfl rfl ?_

theorem postAborts_keeps {pm : Nat} {s0 : State} {p : PortId} {ids : List ℕ} {s : State} (hk : Keeps pm s0 s) (hm : Sub 0xc00 pm := by first | with_reducible assumption | (refine Sub.of ?_ (by with_reducible assumption); with_unfolding_all rfl)) :
    Keeps pm s0 (postAborts p ids s) := by
  unfold postAborts
  try dsimp only
  repeat' first
    | with_reducible assumption
    | (with_reducible intro t; intros)
    | with_reducible refine foldl_keeps ?_ ?_
    | with_reducible refine State.modPort_keeps ?_ 
    | with_reducible refine keeps_ite ?_ ?_
    | split
    | with_reducible refine Keeps.upd rfl rfl rfl rfl rfl rfl ?_

theorem postCompletion_keeps {pm : Nat} {s0 : State} {p : PortId} {qid : ℕ} {s : State} (hk : Keeps pm s0 s) (hm : Sub 0x4c00 pm := by first | with_reducible assumption | (refine Sub.of ?_ (by with_reducible assumption); with_unfolding_all rfl)) :
    Keeps pm s0 (postCompletion p qid s) := by
  unfold postCompletion
  try dsimp only
  repeat' first
    | with_reducible assumption
    | (with_reducible intro t; intros)
    | with_reducible refine foldl_keeps ?_ ?_
    | with_reducible refine State.modPort_keeps ?_ 
    | with_reducible refine finishDeletes_keeps ?_ 
    | with_reducible refine postAborts_keeps ?_ 
    | with_reducible refine keeps_ite ?_ ?_
    | split
    | with_reducible refine Keeps.upd rfl rfl rfl rfl rfl rfl ?_

theorem execCompletionPost_keeps {pm : Nat} {s0 : State} {p : PortId} {qid : ℕ} {s : State} (hk : Keeps pm s0 s) {rb : State} (e : (execCompletionPost p qid s) = .next rb) (hm : Sub 0x50efe69 pm := by first | with_reducible assumption | (refine Sub.of ?_ (by with_reducible assumption); with_unfolding_all rfl)) :
    Keeps pm s0 rb := by
  unfold execCompletionPost at e
  repeat' first
    | (injection e with e; subst e)
    | (cases e; done)
    | split at e
  all_goals try dsimp only
  all_goals repeat' first
    | with_reducible assumption
    | (with_reducible intro t; intros)
    | with_reducible refine foldl_keeps ?_ ?_
    | with_reducible refine progress_keeps ?_ 
    | with_reducible refine postCompletion_keeps ?_ 
    | with_reducible refine keeps_ite ?_ ?_
    | split
    | with_reducible refine Keeps.upd rfl rfl rfl rfl rfl rfl ?_

theorem execFlushCommit_keeps {pm : Nat} {s0 : State} {id : ℕ} {s : State} (hk : Keeps pm s0 s) {rb : State} (e : (execFlushCommit id s) = .next rb) (hm : Sub 0x50efe69 pm := by first | with_reducible assumption | (refine Sub.of ?_ (by with_reducible assumption); with_unfolding_all rfl)) :
    Keeps pm s0 rb := by
  unfold execFlushCommit at e
  repeat' first
    | (injection e with e; subst e)
    | (cases e; done)
    | split at e
  all_goals try dsimp only
  all_goals repeat' first
    | with_reducible assumption
    | (with_reducible intro t; intros)
    | with_reducible refine foldl_keeps ?_ ?_
    | with_reducible refine commitCtx_keeps ?_ 
    | with_reducible refine progress_keeps ?_ 
    | with_reducible refine keeps_ite ?_ ?_
    | split
    | with_reducible refine Keeps.upd rfl rfl rfl rfl rfl rfl ?_

theorem execCreateIoSq_keeps {pm : Nat} {s0 : State} {a : AdminHdr} {qid : ℕ} {size : ℕ} {cqid : ℕ} {contiguous : Bool} {s : State} (hk : Keeps pm s0 s) {rb : State} (e : (execCreateIoSq a qid size cqid contiguous s) = .next rb) (hm : Sub 0x1002c00 pm := by first | with_reducible assumption | (refine Sub.of ?_ (by with_reducible assumption); with_unfolding_all rfl)) :
    Keeps pm s0 rb := by
  unfold execCreateIoSq at e
  repeat' first
    | (injection e with e; subst e)
    | (cases e; done)
    | split at e
  all_goals try dsimp only
  all_goals repeat' first
    | with_reducible assumption
    | (with_reducible intro t; intros)
    | with_reducible refine foldl_keeps ?_ ?_
    | with_reducible refine State.modPort_keeps ?_ 
    | with_reducible refine adminExec_keeps ?_ ?_ 
    | with_reducible refine adminUnless_keeps ?_ ?_ 
    | with_reducible refine keeps_ite ?_ ?_
    | split
    | with_reducible refine Keeps.upd rfl rfl rfl rfl rfl rfl ?_

theorem execDeleteIoSq_keeps {pm : Nat} {s0 : State} {a : AdminHdr} {qid : ℕ} {s : State} (hk : Keeps pm s0 s) {rb : State} (e : (execDeleteIoSq a qid s) = .next rb) (hm : Sub 0x50efe69 pm := by first | with_reducible assumption | (refine Sub.of ?_ (by with_reducible assumption); with_unfolding_all rfl)) :
    Keeps pm s0 rb := by
  unfold execDeleteIoSq at e
  repeat' first
    | (injection e with e; subst e)
    | (cases e; done)
    | split at e
  all_goals try dsimp only
  all_goals repeat' first
    | with_reducible assumption
    | (with_reducible intro t; intros)
    | with_reducible refine foldl_keeps ?_ ?_
    | with_reducible refine adminRefused_keeps ?_ 
    | with_reducible refine adminExec_keeps ?_ ?_ 
    | with_reducible refine deleteSq_keeps ?_ 
    | with_reducible refine keeps_ite ?_ ?_
    | split
    | with_reducible refine Keeps.upd rfl rfl rfl rfl rfl rfl ?_

theorem execCreateIoCq_keeps {pm : Nat} {s0 : State} {a : AdminHdr} {qid : ℕ} {size : ℕ} {vector : ℕ} {contiguous : Bool} {irqEnable : Bool} {s : State} (hk : Keeps pm s0 s) {rb : State} (e : (execCreateIoCq a qid size vector contiguous irqEnable s) = .next rb) (hm : Sub 0x1002c00 pm := by first | with_reducible assumption | (refine Sub.of ?_ (by with_reducible assumption); with_unfolding_all rfl)) :
    Keeps pm s0 rb := by
  unfold execCreateIoCq at e
  repeat' first
    | (injection e with e; subst e)
    | (cases e; done)
    | split at e
  all_goals try dsimp only
  all_goals repeat' first
    | with_reducible assumption
    | (with_reducible intro t; intros)
    | with_reducible refine foldl_keeps ?_ ?_
    | with_reducible refine State.modPort_keeps ?_ 
    | with_reducible refine adminExec_keeps ?_ ?_ 
    | with_reducible refine adminUnless_keeps ?_ ?_ 
    | with_reducible refine keeps_ite ?_ ?_
    | split
    | with_reducible refine Keeps.upd rfl rfl rfl rfl rfl rfl ?_

theorem execDeleteIoCq_keeps {pm : Nat} {s0 : State} {a : AdminHdr} {qid : ℕ} {s : State} (hk : Keeps pm s0 s) {rb : State} (e : (execDeleteIoCq a qid s) = .next rb) (hm : Sub 0x1002c00 pm := by first | with_reducible assumption | (refine Sub.of ?_ (by with_reducible assumption); with_unfolding_all rfl)) :
    Keeps pm s0 rb := by
  unfold execDeleteIoCq at e
  repeat' first
    | (injection e with e; subst e)
    | (cases e; done)
    | split at e
  all_goals try dsimp only
  all_goals repeat' first
    | with_reducible assumption
    | (with_reducible intro t; intros)
    | with_reducible refine foldl_keeps ?_ ?_
    | with_reducible refine State.modPort_keeps ?_ 
    | with_reducible refine adminExec_keeps ?_ ?_ 
    | with_reducible refine adminUnless_keeps ?_ ?_ 
    | with_reducible refine keeps_ite ?_ ?_
    | split
    | with_reducible refine Keeps.upd rfl rfl rfl rfl rfl rfl ?_

theorem logPage_keeps {pm : Nat} {s0 : State} {s : State} {p : PortId} {lid : ℕ} (hk : Keeps pm s0 s) (hm : Sub 0x8000000 pm := by first | with_reducible assumption | (refine Sub.of ?_ (by with_reducible assumption); with_unfolding_all rfl)) :
    Keeps pm s0 (logPage s p lid).2 := by
  unfold logPage
  try dsimp only
  repeat' first
    | with_reducible assumption
    | (with_reducible intro t; intros)
    | with_reducible refine foldl_keeps ?_ ?_
    | with_reducible refine nextFree_keeps ?_ 
    | with_reducible refine nextFree_keepsP ?_  (by assumption)
    | with_reducible refine keeps_ite ?_ ?_
    | split
    | with_reducible refine Keeps.upd rfl rfl rfl rfl rfl rfl ?_
theorem logPage_keepsP {pm : Nat} {s0 : State} {s : State} {p : PortId} {lid : ℕ} (hk : Keeps pm s0 s) {ra} {rb : State} (e : (logPage s p lid) = (ra, rb)) (hm : Sub 0x8000000 pm := by first | with_reducible assumption | (refine Sub.of ?_ (by with_reducible assumption); with_unfolding_all rfl)) :
    Keeps pm s0 rb := by
  have := logPage_keeps (s0 := s0) (s := s) (p := p) (lid := lid) hk
  rw [e] at this
  exact this

theorem getLog_keeps {pm : Nat} {s0 : State} {a : AdminHdr} {lid : ℕ} {rae : Bool} {nsid : ℕ} {offset : ℕ} {length : ℕ} {s : State} (hk : Keeps pm s0 s) (hm : Sub 0x9002c00 pm := by first | with_reducible assumption | (refine Sub.of ?_ (by with_reducible assumption); with_unfolding_all rfl)) :
    Keeps pm s0 (getLog a lid rae nsid offset length s) := by
  unfold getLog
  try dsimp only
  repeat' first
    | with_reducible assumption
    | (with_reducible intro t; intros)
    | with_reducible refine foldl_keeps ?_ ?_
    | with_reducible refine State.modPort_keeps ?_ 
    | with_reducible refine adminDone_keeps ?_ 
    | with_reducible refine adminRefused_keeps ?_ 
    | with_reducible refine clearLog_keeps ?_ 
    | with_reducible refine logPage_keeps ?_ 
    | with_reducible refine logPage_keepsP ?_  (by assumption)
    | with_reducible refine keeps_ite ?_ ?_
    | split
    | with_reducible refine Keeps.upd rfl rfl rfl rfl rfl rfl ?_

theorem execGetLogPage_keeps {pm : Nat} {s0 : State} {a : AdminHdr} {lid : Byte} {rae : Bool} {nsid : Word32} {offset : ℕ} {length : ℕ} {s : State} (hk : Keeps pm s0 s) {rb : State} (e : (execGetLogPage a lid rae nsid offset length s) = .next rb) (hm : Sub 0x9002c00 pm := by first | with_reducible assumption | (refine Sub.of ?_ (by with_reducible assumption); with_unfolding_all rfl)) :
    Keeps pm s0 rb := by
  unfold execGetLogPage at e
  repeat' first
    | (injection e with e; subst e)
    | (cases e; done)
    | split at e
  all_goals try dsimp only
  all_goals repeat' first
    | with_reducible assumption
    | (with_reducible intro t; intros)
    | with_reducible refine foldl_keeps ?_ ?_
    | with_reducible refine adminExec_keeps ?_ ?_ 
    | with_reducible refine getLog_keeps ?_ 
    | with_reducible refine keeps_ite ?_ ?_
    | split
    | with_reducible refine Keeps.upd rfl rfl rfl rfl rfl rfl ?_

theorem execIdentify_keeps {pm : Nat} {s0 : State} {a : AdminHdr} {cns : Byte} {nsid : Word32} {csi : Byte} {cntid : Word16} {s : State} (hk : Keeps pm s0 s) {rb : State} (e : (execIdentify a cns nsid csi cntid s) = .next rb) (hm : Sub 0x1002c00 pm := by first | with_reducible assumption | (refine Sub.of ?_ (by with_reducible assumption); with_unfolding_all rfl)) :
    Keeps pm s0 rb := by
  unfold execIdentify at e
  repeat' first
    | (injection e with e; subst e)
    | (cases e; done)
    | split at e
  all_goals try dsimp only
  all_goals repeat' first
    | with_reducible assumption
    | (with_reducible intro t; intros)
    | with_reducible refine foldl_keeps ?_ ?_
    | with_reducible refine adminAnswer_keeps ?_ 
    | with_reducible refine adminExec_keeps ?_ ?_ 
    | with_reducible refine keeps_ite ?_ ?_
    | split
    | with_reducible refine Keeps.upd rfl rfl rfl rfl rfl rfl ?_

theorem execAbort_keeps {pm : Nat} {s0 : State} {a : AdminHdr} {sqid : ℕ} {target : Word16} {s : State} (hk : Keeps pm s0 s) {rb : State} (e : (execAbort a sqid target s) = .next rb) (hm : Sub 0x50efe69 pm := by first | with_reducible assumption | (refine Sub.of ?_ (by with_reducible assumption); with_unfolding_all rfl)) :
    Keeps pm s0 rb := by
  unfold execAbort at e
  repeat' first
    | (injection e with e; subst e)
    | (cases e; done)
    | split at e
  all_goals try dsimp only
  all_goals repeat' first
    | with_reducible assumption
    | (with_reducible intro t; intros)
    | with_reducible refine foldl_keeps ?_ ?_
    | with_reducible refine abortAer_keeps ?_ 
    | with_reducible refine abortIo_keeps ?_ 
    | with_reducible refine adminRefused_keeps ?_ 
    | with_reducible refine adminExec_keeps ?_ ?_ 
    | with_reducible refine keeps_ite ?_ ?_
    | split
    | with_reducible refine Keeps.upd rfl rfl rfl rfl rfl rfl ?_

theorem execGetFeatures_keeps {pm : Nat} {s0 : State} {a : AdminHdr} {fid : Byte} {x : FeatureDwords} {nsid : Word32} {s : State} (hk : Keeps pm s0 s) {rb : State} (e : (execGetFeatures a fid x nsid s) = .next rb) (hm : Sub 0x1002c00 pm := by first | with_reducible assumption | (refine Sub.of ?_ (by with_reducible assumption); with_unfolding_all rfl)) :
    Keeps pm s0 rb := by
  unfold execGetFeatures at e
  repeat' first
    | (injection e with e; subst e)
    | (cases e; done)
    | split at e
  all_goals try dsimp only
  all_goals repeat' first
    | with_reducible assumption
    | (with_reducible intro t; intros)
    | with_reducible refine foldl_keeps ?_ ?_
    | with_reducible refine adminAnswer_keeps ?_ 
    | with_reducible refine adminExec_keeps ?_ ?_ 
    | with_reducible refine keeps_ite ?_ ?_
    | split
    | with_reducible refine Keeps.upd rfl rfl rfl rfl rfl rfl ?_

theorem setFeature_keeps {pm : Nat} {s0 : State} {a : AdminHdr} {fid : ℕ} {nsid : ℕ} {save : Bool} {st : State → Option Status} {dw0 : ℕ} {f : State → State} {s : State} (hk : Keeps pm s0 s) (h_f : ∀ (t : State), Keeps pm s0 t → Keeps pm s0 (f t)) (hm : Sub 0x1002c00 pm := by first | with_reducible assumption | (refine Sub.of ?_ (by with_reducible assumption); with_unfolding_all rfl)) :
    Keeps pm s0 (setFeature a fid nsid save st dw0 f s) := by
  unfold setFeature
  try dsimp only
  repeat' first
    | with_reducible assumption
    | (with_reducible intro t; intros)
    | with_reducible refine foldl_keeps ?_ ?_
    | with_reducible refine adminDone_keeps ?_ 
    | with_reducible refine adminRefused_keeps ?_ 
    | with_reducible refine adminExec_keeps ?_ ?_ 
    | with_reducible refine h_f _ ?_
    | with_reducible refine keeps_ite ?_ ?_
    | split
    | with_reducible refine Keeps.upd rfl rfl rfl rfl rfl rfl ?_

theorem execSetFeatArbitration_keeps {pm : Nat} {s0 : State} {a : AdminHdr} {save : Bool} {v : Word32} {s : State} (hk : Keeps pm s0 s) {rb : State} (e : (execSetFeatArbitration a save v s) = .next rb) (hm : Sub 0x1002c00 pm := by first | with_reducible assumption | (refine Sub.of ?_ (by with_reducible assumption); with_unfolding_all rfl)) :
    Keeps pm s0 rb := by
  unfold execSetFeatArbitration at e
  repeat' first
    | (injection e with e; subst e)
    | (cases e; done)
    | split at e
  all_goals try dsimp only
  all_goals repeat' first
    | with_reducible assumption
    | (with_reducible intro t; intros)
    | with_reducible refine foldl_keeps ?_ ?_
    | with_reducible refine modFeat_keeps ?_ 
    | with_reducible refine setFeature_keeps ?_ ?_ 
    | with_reducible refine keeps_ite ?_ ?_
    | split
    | with_reducible refine Keeps.upd rfl rfl rfl rfl rfl rfl ?_

theorem execSetFeatPowerManagement_keeps {pm : Nat} {s0 : State} {a : AdminHdr} {save : Bool} {v : Word32} {s : State} (hk : Keeps pm s0 s) {rb : State} (e : (execSetFeatPowerManagement a save v s) = .next rb) (hm : Sub 0x50efe69 pm := by first | with_reducible assumption | (refine Sub.of ?_ (by with_reducible assumption); with_unfolding_all rfl)) :
    Keeps pm s0 rb := by
  unfold execSetFeatPowerManagement at e
  repeat' first
    | (injection e with e; subst e)
    | (cases e; done)
    | split at e
  all_goals try dsimp only
  all_goals repeat' first
    | with_reducible assumption
    | (with_reducible intro t; intros)
    | with_reducible refine foldl_keeps ?_ ?_
    | with_reducible refine enterPs_keeps ?_ 
    | with_reducible refine setFeature_keeps ?_ ?_ 
    | with_reducible refine keeps_ite ?_ ?_
    | split
    | with_reducible refine Keeps.upd rfl rfl rfl rfl rfl rfl ?_

theorem execSetFeatTemperatureThreshold_keeps {pm : Nat} {s0 : State} {a : AdminHdr} {save : Bool} {v : Word32} {s : State} (hk : Keeps pm s0 s) {rb : State} (e : (execSetFeatTemperatureThreshold a save v s) = .next rb) (hm : Sub 0x1002c00 pm := by first | with_reducible assumption | (refine Sub.of ?_ (by with_reducible assumption); with_unfolding_all rfl)) :
    Keeps pm s0 rb := by
  unfold execSetFeatTemperatureThreshold at e
  repeat' first
    | (injection e with e; subst e)
    | (cases e; done)
    | split at e
  all_goals try dsimp only
  all_goals repeat' first
    | with_reducible assumption
    | (with_reducible intro t; intros)
    | with_reducible refine foldl_keeps ?_ ?_
    | with_reducible refine noteWarning_keeps ?_ 
    | with_reducible refine modFeat_keeps ?_ 
    | with_reducible refine setFeature_keeps ?_ ?_ 
    | with_reducible refine keeps_ite ?_ ?_
    | split
    | with_reducible refine Keeps.upd rfl rfl rfl rfl rfl rfl ?_

theorem execSetFeatErrorRecovery_keeps {pm : Nat} {s0 : State} {a : AdminHdr} {save : Bool} {nsid : Word32} {v : Word32} {s : State} (hk : Keeps pm s0 s) {rb : State} (e : (execSetFeatErrorRecovery a save nsid v s) = .next rb) (hm : Sub 0x1002c00 pm := by first | with_reducible assumption | (refine Sub.of ?_ (by with_reducible assumption); with_unfolding_all rfl)) :
    Keeps pm s0 rb := by
  unfold execSetFeatErrorRecovery at e
  repeat' first
    | (injection e with e; subst e)
    | (cases e; done)
    | split at e
  all_goals try dsimp only
  all_goals repeat' first
    | with_reducible assumption
    | (with_reducible intro t; intros)
    | with_reducible refine foldl_keeps ?_ ?_
    | with_reducible refine modFeat_keeps ?_ 
    | with_reducible refine setFeature_keeps ?_ ?_ 
    | with_reducible refine keeps_ite ?_ ?_
    | split
    | with_reducible refine Keeps.upd rfl rfl rfl rfl rfl rfl ?_

theorem execSetFeatVolatileWriteCache_keeps {pm : Nat} {s0 : State} {a : AdminHdr} {save : Bool} {v : Word32} {s : State} (hk : Keeps pm s0 s) {rb : State} (e : (execSetFeatVolatileWriteCache a save v s) = .next rb) (hm : Sub 0x50efe69 pm := by first | with_reducible assumption | (refine Sub.of ?_ (by with_reducible assumption); with_unfolding_all rfl)) :
    Keeps pm s0 rb := by
  unfold execSetFeatVolatileWriteCache at e
  repeat' first
    | (injection e with e; subst e)
    | (cases e; done)
    | split at e
  all_goals try dsimp only
  all_goals repeat' first
    | with_reducible assumption
    | (with_reducible intro t; intros)
    | with_reducible refine foldl_keeps ?_ ?_
    | with_reducible refine progress_keeps ?_ 
    | with_reducible refine requestMode_keeps ?_ 
    | with_reducible refine setFeature_keeps ?_ ?_ 
    | with_reducible refine keeps_ite ?_ ?_
    | split
    | with_reducible refine Keeps.upd rfl rfl rfl rfl rfl rfl ?_

theorem execSetFeatNumberOfQueues_keeps {pm : Nat} {s0 : State} {a : AdminHdr} {save : Bool} {v : Word32} {s : State} (hk : Keeps pm s0 s) {rb : State} (e : (execSetFeatNumberOfQueues a save v s) = .next rb) (hm : Sub 0x1002c00 pm := by first | with_reducible assumption | (refine Sub.of ?_ (by with_reducible assumption); with_unfolding_all rfl)) :
    Keeps pm s0 rb := by
  unfold execSetFeatNumberOfQueues at e
  repeat' first
    | (injection e with e; subst e)
    | (cases e; done)
    | split at e
  all_goals try dsimp only
  all_goals repeat' first
    | with_reducible assumption
    | (with_reducible intro t; intros)
    | with_reducible refine foldl_keeps ?_ ?_
    | with_reducible refine setFeature_keeps ?_ ?_ 
    | with_reducible refine id_keeps ?_
    | with_reducible refine elim_keeps ?_ ?_
    | with_reducible refine keeps_ite ?_ ?_
    | split
    | with_reducible refine Keeps.upd rfl rfl rfl rfl rfl rfl ?_

theorem execSetFeatInterruptCoalescing_keeps {pm : Nat} {s0 : State} {a : AdminHdr} {save : Bool} {v : Word32} {s : State} (hk : Keeps pm s0 s) {rb : State} (e : (execSetFeatInterruptCoalescing a save v s) = .next rb) (hm : Sub 0x1002c00 pm := by first | with_reducible assumption | (refine Sub.of ?_ (by with_reducible assumption); with_unfolding_all rfl)) :
    Keeps pm s0 rb := by
  unfold execSetFeatInterruptCoalescing at e
  repeat' first
    | (injection e with e; subst e)
    | (cases e; done)
    | split at e
  all_goals try dsimp only
  all_goals repeat' first
    | with_reducible assumption
    | (with_reducible intro t; intros)
    | with_reducible refine foldl_keeps ?_ ?_
    | with_reducible refine modFeat_keeps ?_ 
    | with_reducible refine setFeature_keeps ?_ ?_ 
    | with_reducible refine keeps_ite ?_ ?_
    | split
    | with_reducible refine Keeps.upd rfl rfl rfl rfl rfl rfl ?_

theorem execSetFeatInterruptVectorConfig_keeps {pm : Nat} {s0 : State} {a : AdminHdr} {save : Bool} {v : Word32} {s : State} (hk : Keeps pm s0 s) {rb : State} (e : (execSetFeatInterruptVectorConfig a save v s) = .next rb) (hm : Sub 0x1002c00 pm := by first | with_reducible assumption | (refine Sub.of ?_ (by with_reducible assumption); with_unfolding_all rfl)) :
    Keeps pm s0 rb := by
  unfold execSetFeatInterruptVectorConfig at e
  repeat' first
    | (injection e with e; subst e)
    | (cases e; done)
    | split at e
  all_goals try dsimp only
  all_goals repeat' first
    | with_reducible assumption
    | (with_reducible intro t; intros)
    | with_reducible refine foldl_keeps ?_ ?_
    | with_reducible refine modFeat_keeps ?_ 
    | with_reducible refine setFeature_keeps ?_ ?_ 
    | with_reducible refine keeps_ite ?_ ?_
    | split
    | with_reducible refine Keeps.upd rfl rfl rfl rfl rfl rfl ?_

theorem execSetFeatWriteAtomicity_keeps {pm : Nat} {s0 : State} {a : AdminHdr} {save : Bool} {v : Word32} {s : State} (hk : Keeps pm s0 s) {rb : State} (e : (execSetFeatWriteAtomicity a save v s) = .next rb) (hm : Sub 0x1002c00 pm := by first | with_reducible assumption | (refine Sub.of ?_ (by with_reducible assumption); with_unfolding_all rfl)) :
    Keeps pm s0 rb := by
  unfold execSetFeatWriteAtomicity at e
  repeat' first
    | (injection e with e; subst e)
    | (cases e; done)
    | split at e
  all_goals try dsimp only
  all_goals repeat' first
    | with_reducible assumption
    | (with_reducible intro t; intros)
    | with_reducible refine foldl_keeps ?_ ?_
    | with_reducible refine modFeat_keeps ?_ 
    | with_reducible refine setFeature_keeps ?_ ?_ 
    | with_reducible refine keeps_ite ?_ ?_
    | split
    | with_reducible refine Keeps.upd rfl rfl rfl rfl rfl rfl ?_

theorem execSetFeatAsyncEventConfig_keeps {pm : Nat} {s0 : State} {a : AdminHdr} {save : Bool} {v : Word32} {s : State} (hk : Keeps pm s0 s) {rb : State} (e : (execSetFeatAsyncEventConfig a save v s) = .next rb) (hm : Sub 0x1002c00 pm := by first | with_reducible assumption | (refine Sub.of ?_ (by with_reducible assumption); with_unfolding_all rfl)) :
    Keeps pm s0 rb := by
  unfold execSetFeatAsyncEventConfig at e
  repeat' first
    | (injection e with e; subst e)
    | (cases e; done)
    | split at e
  all_goals try dsimp only
  all_goals repeat' first
    | with_reducible assumption
    | (with_reducible intro t; intros)
    | with_reducible refine foldl_keeps ?_ ?_
    | with_reducible refine modFeat_keeps ?_ 
    | with_reducible refine setFeature_keeps ?_ ?_ 
    | with_reducible refine keeps_ite ?_ ?_
    | split
    | with_reducible refine Keeps.upd rfl rfl rfl rfl rfl rfl ?_

theorem execSetFeatTimestamp_keeps {pm : Nat} {s0 : State} {a : AdminHdr} {save : Bool} {ms : BitVec 48} {s : State} (hk : Keeps pm s0 s) {rb : State} (e : (execSetFeatTimestamp a save ms s) = .next rb) (hm : Sub 0x1002c00 pm := by first | with_reducible assumption | (refine Sub.of ?_ (by with_reducible assumption); with_unfolding_all rfl)) :
    Keeps pm s0 rb := by
  unfold execSetFeatTimestamp at e
  repeat' first
    | (injection e with e; subst e)
    | (cases e; done)
    | split at e
  all_goals try dsimp only
  all_goals repeat' first
    | with_reducible assumption
    | (with_reducible intro t; intros)
    | with_reducible refine foldl_keeps ?_ ?_
    | with_reducible refine raise_keeps ?_ 
    | with_reducible refine modFeat_keeps ?_ 
    | with_reducible refine setFeature_keeps ?_ ?_ 
    | with_reducible refine keeps_ite ?_ ?_
    | split
    | with_reducible refine Keeps.upd rfl rfl rfl rfl rfl rfl ?_

theorem execSetFeatHostBehaviorSupport_keeps {pm : Nat} {s0 : State} {a : AdminHdr} {save : Bool} {acre : Bool} {s : State} (hk : Keeps pm s0 s) {rb : State} (e : (execSetFeatHostBehaviorSupport a save acre s) = .next rb) (hm : Sub 0x1002c00 pm := by first | with_reducible assumption | (refine Sub.of ?_ (by with_reducible assumption); with_unfolding_all rfl)) :
    Keeps pm s0 rb := by
  unfold execSetFeatHostBehaviorSupport at e
  repeat' first
    | (injection e with e; subst e)
    | (cases e; done)
    | split at e
  all_goals try dsimp only
  all_goals repeat' first
    | with_reducible assumption
    | (with_reducible intro t; intros)
    | with_reducible refine foldl_keeps ?_ ?_
    | with_reducible refine modFeat_keeps ?_ 
    | with_reducible refine setFeature_keeps ?_ ?_ 
    | with_reducible refine keeps_ite ?_ ?_
    | split
    | with_reducible refine Keeps.upd rfl rfl rfl rfl rfl rfl ?_

theorem execSetFeatSoftwareProgressMarker_keeps {pm : Nat} {s0 : State} {a : AdminHdr} {save : Bool} {v : Word32} {s : State} (hk : Keeps pm s0 s) {rb : State} (e : (execSetFeatSoftwareProgressMarker a save v s) = .next rb) (hm : Sub 0x1002c00 pm := by first | with_reducible assumption | (refine Sub.of ?_ (by with_reducible assumption); with_unfolding_all rfl)) :
    Keeps pm s0 rb := by
  unfold execSetFeatSoftwareProgressMarker at e
  repeat' first
    | (injection e with e; subst e)
    | (cases e; done)
    | split at e
  all_goals try dsimp only
  all_goals repeat' first
    | with_reducible assumption
    | (with_reducible intro t; intros)
    | with_reducible refine foldl_keeps ?_ ?_
    | with_reducible refine modFeat_keeps ?_ 
    | with_reducible refine setFeature_keeps ?_ ?_ 
    | with_reducible refine keeps_ite ?_ ?_
    | split
    | with_reducible refine Keeps.upd rfl rfl rfl rfl rfl rfl ?_

theorem execSetFeatHostIdentifier_keeps {pm : Nat} {s0 : State} {a : AdminHdr} {save : Bool} {exhid : Bool} {v : BitVec 128} {s : State} (hk : Keeps pm s0 s) {rb : State} (e : (execSetFeatHostIdentifier a save exhid v s) = .next rb) (hm : Sub 0x1002c00 pm := by first | with_reducible assumption | (refine Sub.of ?_ (by with_reducible assumption); with_unfolding_all rfl)) :
    Keeps pm s0 rb := by
  unfold execSetFeatHostIdentifier at e
  repeat' first
    | (injection e with e; subst e)
    | (cases e; done)
    | split at e
  all_goals try dsimp only
  all_goals repeat' first
    | with_reducible assumption
    | (with_reducible intro t; intros)
    | with_reducible refine foldl_keeps ?_ ?_
    | with_reducible refine modFeat_keeps ?_ 
    | with_reducible refine setFeature_keeps ?_ ?_ 
    | with_reducible refine keeps_ite ?_ ?_
    | split
    | with_reducible refine Keeps.upd rfl rfl rfl rfl rfl rfl ?_

theorem execSetFeatReservationNotifMask_keeps {pm : Nat} {s0 : State} {a : AdminHdr} {save : Bool} {nsid : Word32} {v : Word32} {s : State} (hk : Keeps pm s0 s) {rb : State} (e : (execSetFeatReservationNotifMask a save nsid v s) = .next rb) (hm : Sub 0x1002c00 pm := by first | with_reducible assumption | (refine Sub.of ?_ (by with_reducible assumption); with_unfolding_all rfl)) :
    Keeps pm s0 rb := by
  unfold execSetFeatReservationNotifMask at e
  repeat' first
    | (injection e with e; subst e)
    | (cases e; done)
    | split at e
  all_goals try dsimp only
  all_goals repeat' first
    | with_reducible assumption
    | (with_reducible intro t; intros)
    | with_reducible refine foldl_keeps ?_ ?_
    | with_reducible refine modFeat_keeps ?_ 
    | with_reducible refine setFeature_keeps ?_ ?_ 
    | with_reducible refine keeps_ite ?_ ?_
    | split
    | with_reducible refine Keeps.upd rfl rfl rfl rfl rfl rfl ?_

theorem execSetFeatReservationPersistence_keeps {pm : Nat} {s0 : State} {a : AdminHdr} {save : Bool} {nsid : Word32} {v : Word32} {s : State} (hk : Keeps pm s0 s) {rb : State} (e : (execSetFeatReservationPersistence a save nsid v s) = .next rb) (hm : Sub 0x1002c00 pm := by first | with_reducible assumption | (refine Sub.of ?_ (by with_reducible assumption); with_unfolding_all rfl)) :
    Keeps pm s0 rb := by
  unfold execSetFeatReservationPersistence at e
  repeat' first
    | (injection e with e; subst e)
    | (cases e; done)
    | split at e
  all_goals try dsimp only
  all_goals repeat' first
    | with_reducible assumption
    | (with_reducible intro t; intros)
    | with_reducible refine foldl_keeps ?_ ?_
    | with_reducible refine modNs_keeps ?_ 
    | with_reducible refine setFeature_keeps ?_ ?_ 
    | with_reducible refine keeps_ite ?_ ?_
    | split
    | with_reducible refine Keeps.upd rfl rfl rfl rfl rfl rfl ?_

theorem execAsyncEventRequest_keeps {pm : Nat} {s0 : State} {a : AdminHdr} {s : State} (hk : Keeps pm s0 s) {rb : State} (e : (execAsyncEventRequest a s) = .next rb) (hm : Sub 0x1002c00 pm := by first | with_reducible assumption | (refine Sub.of ?_ (by with_reducible assumption); with_unfolding_all rfl)) :
    Keeps pm s0 rb := by
  unfold execAsyncEventRequest at e
  repeat' first
    | (injection e with e; subst e)
    | (cases e; done)
    | split at e
  all_goals try dsimp only
  all_goals repeat' first
    | with_reducible assumption
    | (with_reducible intro t; intros)
    | with_reducible refine foldl_keeps ?_ ?_
    | with_reducible refine State.modPort_keeps ?_ 
    | with_reducible refine adminRefused_keeps ?_ 
    | with_reducible refine adminExec_keeps ?_ ?_ 
    | with_reducible refine keeps_ite ?_ ?_
    | split
    | with_reducible refine Keeps.upd rfl rfl rfl rfl rfl rfl ?_

theorem nsCommand_keeps {pm : Nat} {s0 : State} {a : AdminHdr} {opcode : ℕ} {nsid : ℕ} {cdw10 : ℕ} {f : State → State} {s : State} (hk : Keeps pm s0 s) (h_f : ∀ (t : State), Keeps pm s0 t → Keeps pm s0 (f t)) (hm : Sub 0x1002c00 pm := by first | with_reducible assumption | (refine Sub.of ?_ (by with_reducible assumption); with_unfolding_all rfl)) :
    Keeps pm s0 (nsCommand a opcode nsid cdw10 f s) := by
  unfold nsCommand
  try dsimp only
  repeat' first
    | with_reducible assumption
    | (with_reducible intro t; intros)
    | with_reducible refine foldl_keeps ?_ ?_
    | with_reducible refine adminRefused_keeps ?_ 
    | with_reducible refine adminExec_keeps ?_ ?_ 
    | with_reducible refine adminNotReady_keeps ?_ 
    | with_reducible refine h_f _ ?_
    | with_reducible refine keeps_ite ?_ ?_
    | split
    | with_reducible refine Keeps.upd rfl rfl rfl rfl rfl rfl ?_

end Sys2Proof.Machine
end

