-- ==== Sys2Proof/Laws/Frame12.lean ====
section
/-! SUPPORT. What each operation keeps (see Keeps), in the order in which operations call each other: execNamespaceCreate to execMaintenanceOrderingPoint. -/

set_option linter.unusedTactic false
set_option linter.unreachableTactic false
set_option Elab.async false

namespace Sys2Proof.Machine

theorem execNamespaceCreate_keeps {pm : Nat} {s0 : State} {a : AdminHdr} {csi : Byte} {nsze : ℕ} {ncap : ℕ} {lbaf : BitVec 4} {s : State} (hk : Keeps pm s0 s) {rb : State} (e : (execNamespaceCreate a csi nsze ncap lbaf s) = .next rb) (hm : Sub 0x1083c00 pm := by first | with_reducible assumption | (refine Sub.of ?_ (by with_reducible assumption); with_unfolding_all rfl)) :
    Keeps pm s0 rb := by
  unfold execNamespaceCreate at e
  repeat' first
    | (injection e with e; subst e)
    | (cases e; done)
    | split at e
  all_goals try dsimp only
  all_goals repeat' first
    | with_reducible assumption
    | (with_reducible intro t; intros)
    | with_reducible refine foldl_keeps ?_ ?_
    | with_reducible refine createNs_keeps ?_ 
    | with_reducible refine nsCommand_keeps ?_ ?_ 
    | with_reducible refine keeps_ite ?_ ?_
    | split
    | with_reducible refine Keeps.upd rfl rfl rfl rfl rfl rfl ?_

theorem wipeBand_keeps {pm : Nat} {s0 : State} {k : BandKey} {s : State} (hk : Keeps pm s0 s) (hm : Sub 0x10a9040 pm := by first | with_reducible assumption | (refine Sub.of ?_ (by with_reducible assumption); with_unfolding_all rfl)) :
    Keeps pm s0 (wipeBand k s) := by
  unfold wipeBand
  try dsimp only
  repeat' first
    | with_reducible assumption
    | (with_reducible intro t; intros)
    | with_reducible refine foldl_keeps ?_ ?_
    | with_reducible refine modBand_keeps ?_ 
    | with_reducible refine emptyBand_keeps ?_ 
    | with_reducible refine zoneOrdering_keeps ?_ 
    | with_reducible refine noteBand_keeps ?_ 
    | with_reducible refine dropRun_keeps ?_ 
    | with_reducible refine keeps_ite ?_ ?_
    | split
    | with_reducible refine Keeps.upd rfl rfl rfl rfl rfl rfl ?_

theorem maintainNs_keeps {pm : Nat} {s0 : State} {n : Namespace} {s : State} (hk : Keeps pm s0 s) (hm : Sub 0x20000 pm := by first | with_reducible assumption | (refine Sub.of ?_ (by with_reducible assumption); with_unfolding_all rfl)) :
    Keeps pm s0 (maintainNs n s) := by
  unfold maintainNs
  try dsimp only
  repeat' first
    | with_reducible assumption
    | (with_reducible intro t; intros)
    | with_reducible refine foldl_keeps ?_ ?_
    | with_reducible refine maintain_keeps ?_ 
    | with_reducible refine keeps_ite ?_ ?_
    | split
    | with_reducible refine Keeps.upd rfl rfl rfl rfl rfl rfl ?_

theorem wipeNs_keeps {pm : Nat} {s0 : State} {n : Namespace} {s : State} (hk : Keeps pm s0 s) (hm : Sub 0x10afc40 pm := by first | with_reducible assumption | (refine Sub.of ?_ (by with_reducible assumption); with_unfolding_all rfl)) :
    Keeps pm s0 (wipeNs n s) := by
  unfold wipeNs
  try dsimp only
  repeat' first
    | with_reducible assumption
    | (with_reducible intro t; intros)
    | with_reducible refine foldl_keeps ?_ ?_
    | with_reducible refine endNsCommands_keeps ?_ 
    | with_reducible refine wipeBand_keeps ?_ 
    | with_reducible refine maintainNs_keeps ?_ 
    | with_reducible refine keeps_ite ?_ ?_
    | split
    | with_reducible refine Keeps.upd rfl rfl rfl rfl rfl rfl ?_

theorem forgetNs_keeps {pm : Nat} {s0 : State} {nsid : ℕ} {s : State} (hk : Keeps pm s0 s) (hm : Sub 0xc00 pm := by first | with_reducible assumption | (refine Sub.of ?_ (by with_reducible assumption); with_unfolding_all rfl)) :
    Keeps pm s0 (forgetNs nsid s) := by
  unfold forgetNs
  try dsimp only
  repeat' first
    | with_reducible assumption
    | (with_reducible intro t; intros)
    | with_reducible refine foldl_keeps ?_ ?_
    | with_reducible refine State.modPorts_keeps ?_ 
    | with_reducible refine keeps_ite ?_ ?_
    | split
    | with_reducible refine Keeps.upd rfl rfl rfl rfl rfl rfl ?_

theorem removeNs_keeps {pm : Nat} {s0 : State} {s : State} {n : Namespace} (hk : Keeps pm s0 s) (hm : Sub 0x10afc40 pm := by first | with_reducible assumption | (refine Sub.of ?_ (by with_reducible assumption); with_unfolding_all rfl)) :
    Keeps pm s0 (removeNs s n) := by
  unfold removeNs
  try dsimp only
  repeat' first
    | with_reducible assumption
    | (with_reducible intro t; intros)
    | with_reducible refine foldl_keeps ?_ ?_
    | with_reducible refine modBand_keeps ?_ 
    | with_reducible refine noticeNs_keeps ?_ 
    | with_reducible refine noteBand_keeps ?_ 
    | with_reducible refine wipeNs_keeps ?_ 
    | with_reducible refine forgetNs_keeps ?_ 
    | with_reducible refine keeps_ite ?_ ?_
    | split
    | with_reducible refine Keeps.upd rfl rfl rfl rfl rfl rfl ?_

theorem execNamespaceDelete_keeps {pm : Nat} {s0 : State} {a : AdminHdr} {nsid : Word32} {s : State} (hk : Keeps pm s0 s) {rb : State} (e : (execNamespaceDelete a nsid s) = .next rb) (hm : Sub 0x50efe69 pm := by first | with_reducible assumption | (refine Sub.of ?_ (by with_reducible assumption); with_unfolding_all rfl)) :
    Keeps pm s0 rb := by
  unfold execNamespaceDelete at e
  repeat' first
    | (injection e with e; subst e)
    | (cases e; done)
    | split at e
  all_goals try dsimp only
  all_goals repeat' first
    | with_reducible assumption
    | (with_reducible intro t; intros)
    | with_reducible refine foldl_keeps ?_ ?_
    | with_reducible refine adminDone_keeps ?_ 
    | with_reducible refine progress_keeps ?_ 
    | with_reducible refine adminRefused_keeps ?_ 
    | with_reducible refine nsCommand_keeps ?_ ?_ 
    | with_reducible refine removeNs_keeps ?_ 
    | with_reducible refine keeps_ite ?_ ?_
    | split
    | with_reducible refine Keeps.upd rfl rfl rfl rfl rfl rfl ?_

theorem execNamespaceAttach_keeps {pm : Nat} {s0 : State} {a : AdminHdr} {nsid : Word32} {ctrls : List Word16} {s : State} (hk : Keeps pm s0 s) {rb : State} (e : (execNamespaceAttach a nsid ctrls s) = .next rb) (hm : Sub 0x1002c00 pm := by first | with_reducible assumption | (refine Sub.of ?_ (by with_reducible assumption); with_unfolding_all rfl)) :
    Keeps pm s0 rb := by
  unfold execNamespaceAttach at e
  repeat' first
    | (injection e with e; subst e)
    | (cases e; done)
    | split at e
  all_goals try dsimp only
  all_goals repeat' first
    | with_reducible assumption
    | (with_reducible intro t; intros)
    | with_reducible refine foldl_keeps ?_ ?_
    | with_reducible refine adminExec_keeps ?_ ?_ 
    | with_reducible refine attachment_keeps ?_ 
    | with_reducible refine keeps_ite ?_ ?_
    | split
    | with_reducible refine Keeps.upd rfl rfl rfl rfl rfl rfl ?_

theorem execNamespaceDetach_keeps {pm : Nat} {s0 : State} {a : AdminHdr} {nsid : Word32} {ctrls : List Word16} {s : State} (hk : Keeps pm s0 s) {rb : State} (e : (execNamespaceDetach a nsid ctrls s) = .next rb) (hm : Sub 0x1002c00 pm := by first | with_reducible assumption | (refine Sub.of ?_ (by with_reducible assumption); with_unfolding_all rfl)) :
    Keeps pm s0 rb := by
  unfold execNamespaceDetach at e
  repeat' first
    | (injection e with e; subst e)
    | (cases e; done)
    | split at e
  all_goals try dsimp only
  all_goals repeat' first
    | with_reducible assumption
    | (with_reducible intro t; intros)
    | with_reducible refine foldl_keeps ?_ ?_
    | with_reducible refine adminExec_keeps ?_ ?_ 
    | with_reducible refine attachment_keeps ?_ 
    | with_reducible refine keeps_ite ?_ ?_
    | split
    | with_reducible refine Keeps.upd rfl rfl rfl rfl rfl rfl ?_

theorem execFormatNvm_keeps {pm : Nat} {s0 : State} {a : AdminHdr} {nsid : Word32} {lbaf : BitVec 4} {ses : BitVec 3} {s : State} (hk : Keeps pm s0 s) {rb : State} (e : (execFormatNvm a nsid lbaf ses s) = .next rb) (hm : Sub 0x50efe69 pm := by first | with_reducible assumption | (refine Sub.of ?_ (by with_reducible assumption); with_unfolding_all rfl)) :
    Keeps pm s0 rb := by
  unfold execFormatNvm at e
  repeat' first
    | (injection e with e; subst e)
    | (cases e; done)
    | split at e
  all_goals try dsimp only
  all_goals repeat' first
    | with_reducible assumption
    | (with_reducible intro t; intros)
    | with_reducible refine foldl_keeps ?_ ?_
    | with_reducible refine adminDone_keeps ?_ 
    | with_reducible refine progress_keeps ?_ 
    | with_reducible refine adminRefused_keeps ?_ 
    | with_reducible refine noticeNs_keeps ?_ 
    | with_reducible refine nsCommand_keeps ?_ ?_ 
    | with_reducible refine wipeNs_keeps ?_ 
    | with_reducible refine keeps_ite ?_ ?_
    | split
    | with_reducible refine Keeps.upd rfl rfl rfl rfl rfl rfl ?_

theorem sanitizeCommand_keeps {pm : Nat} {s0 : State} {a : AdminHdr} {cdw10 : ℕ} {f : State → State} {s : State} (hk : Keeps pm s0 s) (h_f : ∀ (t : State), Keeps pm s0 t → Keeps pm s0 (f t)) (hm : Sub 0x1002c00 pm := by first | with_reducible assumption | (refine Sub.of ?_ (by with_reducible assumption); with_unfolding_all rfl)) :
    Keeps pm s0 (sanitizeCommand a cdw10 f s) := by
  unfold sanitizeCommand
  try dsimp only
  repeat' first
    | with_reducible assumption
    | (with_reducible intro t; intros)
    | with_reducible refine foldl_keeps ?_ ?_
    | with_reducible refine adminRefused_keeps ?_ 
    | with_reducible refine adminExec_keeps ?_ ?_ 
    | with_reducible refine h_f _ ?_
    | with_reducible refine keeps_ite ?_ ?_
    | split
    | with_reducible refine Keeps.upd rfl rfl rfl rfl rfl rfl ?_

theorem execSanitizeOverwrite_keeps {pm : Nat} {s0 : State} {a : AdminHdr} {owpass : BitVec 4} {pattern : Word32} {sanact : BitVec 3} {s : State} (hk : Keeps pm s0 s) {rb : State} (e : (execSanitizeOverwrite a owpass pattern sanact s) = .next rb) (hm : Sub 0x50efe69 pm := by first | with_reducible assumption | (refine Sub.of ?_ (by with_reducible assumption); with_unfolding_all rfl)) :
    Keeps pm s0 rb := by
  unfold execSanitizeOverwrite at e
  repeat' first
    | (injection e with e; subst e)
    | (cases e; done)
    | split at e
  all_goals try dsimp only
  all_goals repeat' first
    | with_reducible assumption
    | (with_reducible intro t; intros)
    | with_reducible refine foldl_keeps ?_ ?_
    | with_reducible refine adminDone_keeps ?_ 
    | with_reducible refine progress_keeps ?_ 
    | with_reducible refine adminRefused_keeps ?_ 
    | with_reducible refine endNsCommands_keeps ?_ 
    | with_reducible refine sanitizeCommand_keeps ?_ ?_ 
    | with_reducible refine keeps_ite ?_ ?_
    | split
    | with_reducible refine Keeps.upd rfl rfl rfl rfl rfl rfl ?_

theorem execSanitizeExitFailureMode_keeps {pm : Nat} {s0 : State} {a : AdminHdr} {s : State} (hk : Keeps pm s0 s) {rb : State} (e : (execSanitizeExitFailureMode a s) = .next rb) (hm : Sub 0x1002c00 pm := by first | with_reducible assumption | (refine Sub.of ?_ (by with_reducible assumption); with_unfolding_all rfl)) :
    Keeps pm s0 rb := by
  unfold execSanitizeExitFailureMode at e
  repeat' first
    | (injection e with e; subst e)
    | (cases e; done)
    | split at e
  all_goals try dsimp only
  all_goals repeat' first
    | with_reducible assumption
    | (with_reducible intro t; intros)
    | with_reducible refine foldl_keeps ?_ ?_
    | with_reducible refine adminDone_keeps ?_ 
    | with_reducible refine sanitizeCommand_keeps ?_ ?_ 
    | with_reducible refine keeps_ite ?_ ?_
    | split
    | with_reducible refine Keeps.upd rfl rfl rfl rfl rfl rfl ?_

theorem ifResident_keeps {pm : Nat} {s0 : State} {s : State} {f : State → State} (hk : Keeps pm s0 s) (h_f : ∀ (t : State), Keeps pm s0 t → Keeps pm s0 (f t)) (hm : Sub 0x0 pm := by first | with_reducible assumption | (refine Sub.of ?_ (by with_reducible assumption); with_unfolding_all rfl)) :
    Keeps pm s0 (ifResident s f) := by
  unfold ifResident
  try dsimp only
  repeat' first
    | with_reducible assumption
    | (with_reducible intro t; intros)
    | with_reducible refine foldl_keeps ?_ ?_
    | with_reducible refine h_f _ ?_
    | with_reducible refine keeps_ite ?_ ?_
    | split
    | with_reducible refine Keeps.upd rfl rfl rfl rfl rfl rfl ?_

theorem sanitized_keeps {pm : Nat} {s0 : State} {s : State} (hk : Keeps pm s0 s) (hm : Sub 0x10afc40 pm := by first | with_reducible assumption | (refine Sub.of ?_ (by with_reducible assumption); with_unfolding_all rfl)) :
    Keeps pm s0 (sanitized s) := by
  unfold sanitized
  try dsimp only
  repeat' first
    | with_reducible assumption
    | (with_reducible intro t; intros)
    | with_reducible refine foldl_keeps ?_ ?_
    | with_reducible refine eraseRegion_keeps ?_ 
    | with_reducible refine wipeNs_keeps ?_ 
    | with_reducible refine keeps_ite ?_ ?_
    | split
    | with_reducible refine Keeps.upd rfl rfl rfl rfl rfl rfl ?_

theorem execSanitizeOverwriteDone_keeps {pm : Nat} {s0 : State} {failed : Bool} {s : State} (hk : Keeps pm s0 s) {rb : State} (e : (execSanitizeOverwriteDone failed s) = .next rb) (hm : Sub 0x50efe69 pm := by first | with_reducible assumption | (refine Sub.of ?_ (by with_reducible assumption); with_unfolding_all rfl)) :
    Keeps pm s0 rb := by
  unfold execSanitizeOverwriteDone at e
  repeat' first
    | (injection e with e; subst e)
    | (cases e; done)
    | split at e
  all_goals try dsimp only
  all_goals repeat' first
    | with_reducible assumption
    | (with_reducible intro t; intros)
    | with_reducible refine foldl_keeps ?_ ?_
    | with_reducible refine progress_keeps ?_ 
    | with_reducible refine ifResident_keeps ?_ ?_ 
    | with_reducible refine sanitized_keeps ?_ 
    | with_reducible refine keeps_ite ?_ ?_
    | split
    | with_reducible refine Keeps.upd rfl rfl rfl rfl rfl rfl ?_

theorem execFirmwareImageDownload_keeps {pm : Nat} {s0 : State} {a : AdminHdr} {piece : FwPiece} {s : State} (hk : Keeps pm s0 s) {rb : State} (e : (execFirmwareImageDownload a piece s) = .next rb) (hm : Sub 0x3482c00 pm := by first | with_reducible assumption | (refine Sub.of ?_ (by with_reducible assumption); with_unfolding_all rfl)) :
    Keeps pm s0 rb := by
  unfold execFirmwareImageDownload at e
  repeat' first
    | (injection e with e; subst e)
    | (cases e; done)
    | split at e
  all_goals try dsimp only
  all_goals repeat' first
    | with_reducible assumption
    | (with_reducible intro t; intros)
    | with_reducible refine foldl_keeps ?_ ?_
    | with_reducible refine adminDone_keeps ?_ 
    | with_reducible refine adminExec_keeps ?_ ?_ 
    | with_reducible refine takePiece_keeps ?_ 
    | with_reducible refine fwRefuse_keeps ?_ 
    | with_reducible refine keeps_ite ?_ ?_
    | split
    | with_reducible refine Keeps.upd rfl rfl rfl rfl rfl rfl ?_

theorem fwCommit_keeps {pm : Nat} {s0 : State} {a : AdminHdr} {ca : ℕ} {fs : BitVec 3} {inRecovery : Bool} {s : State} (hk : Keeps pm s0 s) (hm : Sub 0x3886c00 pm := by first | with_reducible assumption | (refine Sub.of ?_ (by with_reducible assumption); with_unfolding_all rfl)) :
    Keeps pm s0 (fwCommit a ca fs inRecovery s) := by
  unfold fwCommit
  try dsimp only
  repeat' first
    | with_reducible assumption
    | (with_reducible intro t; intros)
    | with_reducible refine foldl_keeps ?_ ?_
    | with_reducible refine adminDone_keeps ?_ 
    | with_reducible refine adminExec_keeps ?_ ?_ 
    | with_reducible refine fwAction_keeps ?_ 
    | with_reducible refine fwAction_keepsP ?_  (by assumption)
    | with_reducible refine keeps_ite ?_ ?_
    | split
    | with_reducible refine Keeps.upd rfl rfl rfl rfl rfl rfl ?_

theorem execFwCommitKeep_keeps {pm : Nat} {s0 : State} {a : AdminHdr} {fs : BitVec 3} {s : State} (hk : Keeps pm s0 s) {rb : State} (e : (execFwCommitKeep a fs s) = .next rb) (hm : Sub 0x3886c00 pm := by first | with_reducible assumption | (refine Sub.of ?_ (by with_reducible assumption); with_unfolding_all rfl)) :
    Keeps pm s0 rb := by
  unfold execFwCommitKeep at e
  repeat' first
    | (injection e with e; subst e)
    | (cases e; done)
    | split at e
  all_goals try dsimp only
  all_goals repeat' first
    | with_reducible assumption
    | (with_reducible intro t; intros)
    | with_reducible refine foldl_keeps ?_ ?_
    | with_reducible refine fwCommit_keeps ?_ 
    | with_reducible refine keeps_ite ?_ ?_
    | split
    | with_reducible refine Keeps.upd rfl rfl rfl rfl rfl rfl ?_

theorem execFwCommitNextReset_keeps {pm : Nat} {s0 : State} {a : AdminHdr} {fs : BitVec 3} {s : State} (hk : Keeps pm s0 s) {rb : State} (e : (execFwCommitNextReset a fs s) = .next rb) (hm : Sub 0x3886c00 pm := by first | with_reducible assumption | (refine Sub.of ?_ (by with_reducible assumption); with_unfolding_all rfl)) :
    Keeps pm s0 rb := by
  unfold execFwCommitNextReset at e
  repeat' first
    | (injection e with e; subst e)
    | (cases e; done)
    | split at e
  all_goals try dsimp only
  all_goals repeat' first
    | with_reducible assumption
    | (with_reducible intro t; intros)
    | with_reducible refine foldl_keeps ?_ ?_
    | with_reducible refine fwCommit_keeps ?_ 
    | with_reducible refine keeps_ite ?_ ?_
    | split
    | with_reducible refine Keeps.upd rfl rfl rfl rfl rfl rfl ?_

theorem execFwCommitExisting_keeps {pm : Nat} {s0 : State} {a : AdminHdr} {fs : BitVec 3} {s : State} (hk : Keeps pm s0 s) {rb : State} (e : (execFwCommitExisting a fs s) = .next rb) (hm : Sub 0x3886c00 pm := by first | with_reducible assumption | (refine Sub.of ?_ (by with_reducible assumption); with_unfolding_all rfl)) :
    Keeps pm s0 rb := by
  unfold execFwCommitExisting at e
  repeat' first
    | (injection e with e; subst e)
    | (cases e; done)
    | split at e
  all_goals try dsimp only
  all_goals repeat' first
    | with_reducible assumption
    | (with_reducible intro t; intros)
    | with_reducible refine foldl_keeps ?_ ?_
    | with_reducible refine fwCommit_keeps ?_ 
    | with_reducible refine keeps_ite ?_ ?_
    | split
    | with_reducible refine Keeps.upd rfl rfl rfl rfl rfl rfl ?_

theorem execFwCommitImmediate_keeps {pm : Nat} {s0 : State} {a : AdminHdr} {fs : BitVec 3} {s : State} (hk : Keeps pm s0 s) {rb : State} (e : (execFwCommitImmediate a fs s) = .next rb) (hm : Sub 0x3886c00 pm := by first | with_reducible assumption | (refine Sub.of ?_ (by with_reducible assumption); with_unfolding_all rfl)) :
    Keeps pm s0 rb := by
  unfold execFwCommitImmediate at e
  repeat' first
    | (injection e with e; subst e)
    | (cases e; done)
    | split at e
  all_goals try dsimp only
  all_goals repeat' first
    | with_reducible assumption
    | (with_reducible intro t; intros)
    | with_reducible refine foldl_keeps ?_ ?_
    | with_reducible refine fwCommit_keeps ?_ 
    | with_reducible refine keeps_ite ?_ ?_
    | split
    | with_reducible refine Keeps.upd rfl rfl rfl rfl rfl rfl ?_

theorem execFwCommitBootPartition_keeps {pm : Nat} {s0 : State} {a : AdminHdr} {_ca : BitVec 3} {s : State} (hk : Keeps pm s0 s) {rb : State} (e : (execFwCommitBootPartition a _ca s) = .next rb) (hm : Sub 0x3002c00 pm := by first | with_reducible assumption | (refine Sub.of ?_ (by with_reducible assumption); with_unfolding_all rfl)) :
    Keeps pm s0 rb := by
  unfold execFwCommitBootPartition at e
  repeat' first
    | (injection e with e; subst e)
    | (cases e; done)
    | split at e
  all_goals try dsimp only
  all_goals repeat' first
    | with_reducible assumption
    | (with_reducible intro t; intros)
    | with_reducible refine foldl_keeps ?_ ?_
    | with_reducible refine adminDone_keeps ?_ 
    | with_reducible refine adminExec_keeps ?_ ?_ 
    | with_reducible refine fwRefuse_keeps ?_ 
    | with_reducible refine keeps_ite ?_ ?_
    | split
    | with_reducible refine Keeps.upd rfl rfl rfl rfl rfl rfl ?_

theorem vendorDone_keeps {pm : Nat} {s0 : State} {a : AdminHdr} {code : ℕ} {length : ℕ} {d : CplData} {s : State} (hk : Keeps pm s0 s) (hm : Sub 0x2c00 pm := by first | with_reducible assumption | (refine Sub.of ?_ (by with_reducible assumption); with_unfolding_all rfl)) :
    Keeps pm s0 (vendorDone a code length d s) := by
  unfold vendorDone
  try dsimp only
  repeat' first
    | with_reducible assumption
    | (with_reducible intro t; intros)
    | with_reducible refine foldl_keeps ?_ ?_
    | with_reducible refine commitCompletion_keeps ?_ 
    | with_reducible refine keeps_ite ?_ ?_
    | split
    | with_reducible refine Keeps.upd rfl rfl rfl rfl rfl rfl ?_

theorem vendorWrite_keeps {pm : Nat} {s0 : State} {a : AdminHdr} {r : Option Nat × State} (hk : Keeps pm s0 r.2) (hm : Sub 0x2c00 pm := by first | with_reducible assumption | (refine Sub.of ?_ (by with_reducible assumption); with_unfolding_all rfl)) :
    Keeps pm s0 (vendorWrite a r) := by
  unfold vendorWrite
  split
  · exact hk
  · exact vendorDone_keeps hk

theorem execVendorCommit_keeps {pm : Nat} {s0 : State} {a : Timed AdminHdr} {s : State} (hk : Keeps pm s0 s) {rb : State} (e : (execVendorCommit a s) = .next rb) (hm : Sub 0xbff7e44 pm := by first | with_reducible assumption | (refine Sub.of ?_ (by with_reducible assumption); with_unfolding_all rfl)) :
    Keeps pm s0 rb := by
  unfold execVendorCommit at e
  repeat' first
    | (injection e with e; subst e)
    | (cases e; done)
    | split at e
  all_goals try dsimp only
  all_goals repeat' first
    | with_reducible assumption
    | (with_reducible intro t; intros)
    | with_reducible refine foldl_keeps ?_ ?_
    | with_reducible refine adminExec_keeps ?_ ?_ 
    | with_reducible refine atOffset_keeps ?_ 
    | with_reducible refine dictWrite_keeps ?_ 
    | with_reducible refine dictWrite_keepsP ?_  (by assumption)
    | with_reducible refine vendorWrite_keeps ?_ 
    | with_reducible refine keeps_ite ?_ ?_
    | split
    | dsimp only
    | with_reducible refine Keeps.upd rfl rfl rfl rfl rfl rfl ?_

theorem execVendorDiscard_keeps {pm : Nat} {s0 : State} {a : AdminHdr} {s : State} (hk : Keeps pm s0 s) {rb : State} (e : (execVendorDiscard a s) = .next rb) (hm : Sub 0xbff7e40 pm := by first | with_reducible assumption | (refine Sub.of ?_ (by with_reducible assumption); with_unfolding_all rfl)) :
    Keeps pm s0 rb := by
  unfold execVendorDiscard at e
  repeat' first
    | (injection e with e; subst e)
    | (cases e; done)
    | split at e
  all_goals try dsimp only
  all_goals repeat' first
    | with_reducible assumption
    | (with_reducible intro t; intros)
    | with_reducible refine foldl_keeps ?_ ?_
    | with_reducible refine adminExec_keeps ?_ ?_ 
    | with_reducible refine dictWrite_keeps ?_ 
    | with_reducible refine dictWrite_keepsP ?_  (by assumption)
    | with_reducible refine vendorWrite_keeps ?_ 
    | with_reducible refine keeps_ite ?_ ?_
    | split
    | dsimp only
    | with_reducible refine Keeps.upd rfl rfl rfl rfl rfl rfl ?_

theorem segmentWrite_keeps {pm : Nat} {s0 : State} {p : Path} {w : Waiter} {index : ℕ} {sub : ℕ} {offset : ℕ} {last : Bool} {v : List Byte} {s : State} (hk : Keeps pm s0 s) (hm : Sub 0xbff5e40 pm := by first | with_reducible assumption | (refine Sub.of ?_ (by with_reducible assumption); with_unfolding_all rfl)) :
    Keeps pm s0 (segmentWrite p w index sub offset last v s).2 := by
  unfold segmentWrite
  try dsimp only
  repeat' first
    | with_reducible assumption
    | (with_reducible intro t; intros)
    | with_reducible refine foldl_keeps ?_ ?_
    | with_reducible refine modPath_keeps ?_ 
    | with_reducible refine writeWhole_keeps ?_ 
    | with_reducible refine writeWhole_keepsP ?_  (by assumption)
    | with_reducible refine dropSegment_keeps ?_ 
    | with_reducible refine keeps_ite ?_ ?_
    | split
    | with_reducible refine Keeps.upd rfl rfl rfl rfl rfl rfl ?_
theorem segmentWrite_keepsP {pm : Nat} {s0 : State} {p : Path} {w : Waiter} {index : ℕ} {sub : ℕ} {offset : ℕ} {last : Bool} {v : List Byte} {s : State} (hk : Keeps pm s0 s) {ra} {rb : State} (e : (segmentWrite p w index sub offset last v s) = (ra, rb)) (hm : Sub 0xbff5e40 pm := by first | with_reducible assumption | (refine Sub.of ?_ (by with_reducible assumption); with_unfolding_all rfl)) :
    Keeps pm s0 rb := by
  have := segmentWrite_keeps (s0 := s0) (p := p) (w := w) (index := index) (sub := sub) (offset := offset) (last := last) (v := v) (s := s) hk
  rw [e] at this
  exact this

theorem execSetObject_keeps {pm : Nat} {s0 : State} {a : AdminHdr} {cdw10 : Word32} {offset : Word32} {data : List Byte} {s : State} (hk : Keeps pm s0 s) {rb : State} (e : (execSetObject a cdw10 offset data s) = .next rb) (hm : Sub 0xbff7e40 pm := by first | with_reducible assumption | (refine Sub.of ?_ (by with_reducible assumption); with_unfolding_all rfl)) :
    Keeps pm s0 rb := by
  unfold execSetObject at e
  repeat' first
    | (injection e with e; subst e)
    | (cases e; done)
    | split at e
  all_goals try dsimp only
  all_goals repeat' first
    | with_reducible assumption
    | (with_reducible intro t; intros)
    | with_reducible refine foldl_keeps ?_ ?_
    | with_reducible refine adminRefused_keeps ?_ 
    | with_reducible refine adminExec_keeps ?_ ?_ 
    | with_reducible refine dictWrite_keeps ?_ 
    | with_reducible refine dictWrite_keepsP ?_  (by assumption)
    | with_reducible refine vendorWrite_keeps ?_ 
    | with_reducible refine segmentWrite_keeps ?_ 
    | with_reducible refine segmentWrite_keepsP ?_  (by assumption)
    | with_reducible refine keeps_ite ?_ ?_
    | split
    | dsimp only
    | with_reducible refine Keeps.upd rfl rfl rfl rfl rfl rfl ?_

theorem execGetObject_keeps {pm : Nat} {s0 : State} {a : AdminHdr} {cdw10 : Word32} {offset : Word32} {length : Word32} {s : State} (hk : Keeps pm s0 s) {rb : State} (e : (execGetObject a cdw10 offset length s) = .next rb) (hm : Sub 0x1c92c40 pm := by first | with_reducible assumption | (refine Sub.of ?_ (by with_reducible assumption); with_unfolding_all rfl)) :
    Keeps pm s0 rb := by
  unfold execGetObject at e
  repeat' first
    | (injection e with e; subst e)
    | (cases e; done)
    | split at e
  all_goals try dsimp only
  all_goals repeat' first
    | with_reducible assumption
    | (with_reducible intro t; intros)
    | with_reducible refine foldl_keeps ?_ ?_
    | with_reducible refine adminRefused_keeps ?_ 
    | with_reducible refine adminExec_keeps ?_ ?_ 
    | with_reducible refine dictRead_keeps ?_ 
    | with_reducible refine vendorDone_keeps ?_ 
    | with_reducible refine keeps_ite ?_ ?_
    | split
    | dsimp only
    | with_reducible refine Keeps.upd rfl rfl rfl rfl rfl rfl ?_

theorem execUnsupportedAdminOpcode_keeps {pm : Nat} {s0 : State} {a : AdminHdr} {opcode : Byte} {nsid : Word32} {cdw10 : Word32} {s : State} (hk : Keeps pm s0 s) {rb : State} (e : (execUnsupportedAdminOpcode a opcode nsid cdw10 s) = .next rb) (hm : Sub 0x1002c00 pm := by first | with_reducible assumption | (refine Sub.of ?_ (by with_reducible assumption); with_unfolding_all rfl)) :
    Keeps pm s0 rb := by
  unfold execUnsupportedAdminOpcode at e
  repeat' first
    | (injection e with e; subst e)
    | (cases e; done)
    | split at e
  all_goals try dsimp only
  all_goals repeat' first
    | with_reducible assumption
    | (with_reducible intro t; intros)
    | with_reducible refine foldl_keeps ?_ ?_
    | with_reducible refine adminRefused_keeps ?_ 
    | with_reducible refine adminExec_keeps ?_ ?_ 
    | with_reducible refine keeps_ite ?_ ?_
    | split
    | with_reducible refine Keeps.upd rfl rfl rfl rfl rfl rfl ?_

theorem execFlush_keeps {pm : Nat} {s0 : State} {id : ℕ} {s : State} (hk : Keeps pm s0 s) {rb : State} (e : (execFlush id s) = .next rb) (hm : Sub 0x50efe69 pm := by first | with_reducible assumption | (refine Sub.of ?_ (by with_reducible assumption); with_unfolding_all rfl)) :
    Keeps pm s0 rb := by
  unfold execFlush at e
  repeat' first
    | (injection e with e; subst e)
    | (cases e; done)
    | split at e
  all_goals try dsimp only
  all_goals repeat' first
    | with_reducible assumption
    | (with_reducible intro t; intros)
    | with_reducible refine foldl_keeps ?_ ?_
    | with_reducible refine modCtx_keeps ?_ 
    | with_reducible refine commitCtx_keeps ?_ 
    | with_reducible refine destageFirst_keeps ?_ 
    | with_reducible refine progress_keeps ?_ 
    | with_reducible refine keeps_ite ?_ ?_
    | split
    | with_reducible refine Keeps.upd rfl rfl rfl rfl rfl rfl ?_

theorem startWrite_keeps {pm : Nat} {s0 : State} {op : IoOp} {id : ℕ} {data : ℕ → List Block} {s : State} (hk : Keeps pm s0 s) (hm : Sub 0x50efe69 pm := by first | with_reducible assumption | (refine Sub.of ?_ (by with_reducible assumption); with_unfolding_all rfl)) :
    Keeps pm s0 (startWrite op id data s) := by
  unfold startWrite
  try dsimp only
  repeat' first
    | with_reducible assumption
    | (with_reducible intro t; intros)
    | with_reducible refine foldl_keeps ?_ ?_
    | with_reducible refine modCtx_keeps ?_ 
    | with_reducible refine receiveData_keeps ?_ 
    | with_reducible refine progress_keeps ?_ 
    | with_reducible refine keeps_ite ?_ ?_
    | split
    | with_reducible refine Keeps.upd rfl rfl rfl rfl rfl rfl ?_

theorem execWrite_keeps {pm : Nat} {s0 : State} {id : ℕ} {data : List Block} {s : State} (hk : Keeps pm s0 s) {rb : State} (e : (execWrite id data s) = .next rb) (hm : Sub 0x50efe69 pm := by first | with_reducible assumption | (refine Sub.of ?_ (by with_reducible assumption); with_unfolding_all rfl)) :
    Keeps pm s0 rb := by
  unfold execWrite at e
  repeat' first
    | (injection e with e; subst e)
    | (cases e; done)
    | split at e
  all_goals try dsimp only
  all_goals repeat' first
    | with_reducible assumption
    | (with_reducible intro t; intros)
    | with_reducible refine foldl_keeps ?_ ?_
    | with_reducible refine ifLive_keeps ?_ ?_ 
    | with_reducible refine startWrite_keeps ?_ 
    | with_reducible refine keeps_ite ?_ ?_
    | split
    | with_reducible refine Keeps.upd rfl rfl rfl rfl rfl rfl ?_

theorem prefetch_keeps {pm : Nat} {s0 : State} {x : Stream} {s : State} (hk : Keeps pm s0 s) (hm : Sub 0x28000 pm := by first | with_reducible assumption | (refine Sub.of ?_ (by with_reducible assumption); with_unfolding_all rfl)) :
    Keeps pm s0 (prefetch x s).2 := by
  unfold prefetch
  try dsimp only
  repeat' first
    | with_reducible assumption
    | (with_reducible intro t; intros)
    | with_reducible refine foldl_keeps ?_ ?_
    | with_reducible refine fileOp_keeps ?_ 
    | with_reducible refine getD_keeps ?_ (fun r e => takeSlot_keeps ?_ e)
    | with_reducible refine takeSlot_keeps ?_  (by assumption)
    | with_reducible refine keeps_ite ?_ ?_
    | split
    | dsimp only
    | with_reducible refine Keeps.upd rfl rfl rfl rfl rfl rfl ?_
theorem prefetch_keepsP {pm : Nat} {s0 : State} {x : Stream} {s : State} (hk : Keeps pm s0 s) {ra} {rb : State} (e : (prefetch x s) = (ra, rb)) (hm : Sub 0x28000 pm := by first | with_reducible assumption | (refine Sub.of ?_ (by with_reducible assumption); with_unfolding_all rfl)) :
    Keeps pm s0 rb := by
  have := prefetch_keeps (s0 := s0) (x := x) (s := s) hk
  rw [e] at this
  exact this

theorem extendStream_keeps {pm : Nat} {s0 : State} {x : Stream} {stop : ℕ} {s : State} (hk : Keeps pm s0 s) (hm : Sub 0x28000 pm := by first | with_reducible assumption | (refine Sub.of ?_ (by with_reducible assumption); with_unfolding_all rfl)) :
    Keeps pm s0 (extendStream x stop s) := by
  unfold extendStream
  try dsimp only
  repeat' first
    | with_reducible assumption
    | (with_reducible intro t; intros)
    | with_reducible refine foldl_keeps ?_ ?_
    | with_reducible refine prefetch_keeps ?_ 
    | with_reducible refine prefetch_keepsP ?_  (by assumption)
    | with_reducible refine keeps_ite ?_ ?_
    | split
    | with_reducible refine Keeps.upd rfl rfl rfl rfl rfl rfl ?_

theorem noteStream_keeps {pm : Nat} {s0 : State} {nsid : ℕ} {start : ℕ} {count : ℕ} {s : State} (hk : Keeps pm s0 s) (hm : Sub 0x28000 pm := by first | with_reducible assumption | (refine Sub.of ?_ (by with_reducible assumption); with_unfolding_all rfl)) :
    Keeps pm s0 (noteStream nsid start count s) := by
  unfold noteStream
  try dsimp only
  repeat' first
    | with_reducible assumption
    | (with_reducible intro t; intros)
    | with_reducible refine foldl_keeps ?_ ?_
    | with_reducible refine extendStream_keeps ?_ 
    | with_reducible refine keeps_ite ?_ ?_
    | split
    | with_reducible refine Keeps.upd rfl rfl rfl rfl rfl rfl ?_

theorem startRead_keeps {pm : Nat} {s0 : State} {c : Ctx} {s : State} (hk : Keeps pm s0 s) (hm : Sub 0x2c000 pm := by first | with_reducible assumption | (refine Sub.of ?_ (by with_reducible assumption); with_unfolding_all rfl)) :
    Keeps pm s0 (startRead c s) := by
  unfold startRead
  try dsimp only
  repeat' first
    | with_reducible assumption
    | (with_reducible intro t; intros)
    | with_reducible refine foldl_keeps ?_ ?_
    | with_reducible refine modCtx_keeps ?_ 
    | with_reducible refine lookupRead_keeps ?_ 
    | with_reducible refine noteStream_keeps ?_ 
    | with_reducible refine keeps_ite ?_ ?_
    | split
    | with_reducible refine Keeps.upd rfl rfl rfl rfl rfl rfl ?_

theorem execRead_keeps {pm : Nat} {s0 : State} {id : ℕ} {s : State} (hk : Keeps pm s0 s) {rb : State} (e : (execRead id s) = .next rb) (hm : Sub 0x50efe69 pm := by first | with_reducible assumption | (refine Sub.of ?_ (by with_reducible assumption); with_unfolding_all rfl)) :
    Keeps pm s0 rb := by
  unfold execRead at e
  repeat' first
    | (injection e with e; subst e)
    | (cases e; done)
    | split at e
  all_goals try dsimp only
  all_goals repeat' first
    | with_reducible assumption
    | (with_reducible intro t; intros)
    | with_reducible refine foldl_keeps ?_ ?_
    | with_reducible refine progress_keeps ?_ 
    | with_reducible refine lookupRead_keeps ?_ 
    | with_reducible refine startRead_keeps ?_ 
    | with_reducible refine keeps_ite ?_ ?_
    | split
    | with_reducible refine Keeps.upd rfl rfl rfl rfl rfl rfl ?_

theorem execWriteZeroes_keeps {pm : Nat} {s0 : State} {id : ℕ} {s : State} (hk : Keeps pm s0 s) {rb : State} (e : (execWriteZeroes id s) = .next rb) (hm : Sub 0x50efe69 pm := by first | with_reducible assumption | (refine Sub.of ?_ (by with_reducible assumption); with_unfolding_all rfl)) :
    Keeps pm s0 rb := by
  unfold execWriteZeroes at e
  repeat' first
    | (injection e with e; subst e)
    | (cases e; done)
    | split at e
  all_goals try dsimp only
  all_goals repeat' first
    | with_reducible assumption
    | (with_reducible intro t; intros)
    | with_reducible refine foldl_keeps ?_ ?_
    | with_reducible refine ifLive_keeps ?_ ?_ 
    | with_reducible refine startWrite_keeps ?_ 
    | with_reducible refine keeps_ite ?_ ?_
    | split
    | with_reducible refine Keeps.upd rfl rfl rfl rfl rfl rfl ?_

theorem onReservation_keeps {pm : Nat} {s0 : State} {op : IoOp} {id : ℕ} {f : Ctx → Namespace → State → State} {s : State} (hk : Keeps pm s0 s) (h_f : ∀ y0 y1 (t : State), Keeps pm s0 t → Keeps pm s0 (f y0 y1 t)) (hm : Sub 0x0 pm := by first | with_reducible assumption | (refine Sub.of ?_ (by with_reducible assumption); with_unfolding_all rfl)) :
    Keeps pm s0 (onReservation op id f s) := by
  unfold onReservation
  try dsimp only
  repeat' first
    | with_reducible assumption
    | (with_reducible intro t; intros)
    | with_reducible refine foldl_keeps ?_ ?_
    | with_reducible refine h_f _ _ _ ?_
    | with_reducible refine keeps_ite ?_ ?_
    | split
    | with_reducible refine Keeps.upd rfl rfl rfl rfl rfl rfl ?_

theorem setReservation_keeps {pm : Nat} {s0 : State} {nsid : ℕ} {r : Reservation} {s : State} (hk : Keeps pm s0 s) (hm : Sub 0x2000 pm := by first | with_reducible assumption | (refine Sub.of ?_ (by with_reducible assumption); with_unfolding_all rfl)) :
    Keeps pm s0 (setReservation nsid r s) := by
  unfold setReservation
  try dsimp only
  repeat' first
    | with_reducible assumption
    | (with_reducible intro t; intros)
    | with_reducible refine foldl_keeps ?_ ?_
    | with_reducible refine modNs_keeps ?_ 
    | with_reducible refine keeps_ite ?_ ?_
    | split
    | with_reducible refine Keeps.upd rfl rfl rfl rfl rfl rfl ?_

theorem notify_keeps {pm : Nat} {s0 : State} {nsid : ℕ} {kind : ℕ} {who : BitVec 128 × PortId → Bool} {s : State} (hk : Keeps pm s0 s) (hm : Sub 0xc00 pm := by first | with_reducible assumption | (refine Sub.of ?_ (by with_reducible assumption); with_unfolding_all rfl)) :
    Keeps pm s0 (notify nsid kind who s) := by
  unfold notify
  try dsimp only
  repeat' first
    | with_reducible assumption
    | (with_reducible intro t; intros)
    | with_reducible refine foldl_keeps ?_ ?_
    | with_reducible refine State.modPort_keeps ?_ 
    | with_reducible refine keeps_ite ?_ ?_
    | split
    | with_reducible refine Keeps.upd rfl rfl rfl rfl rfl rfl ?_

theorem execReservationRegister_keeps {pm : Nat} {s0 : State} {id : ℕ} {s : State} (hk : Keeps pm s0 s) {rb : State} (e : (execReservationRegister id s) = .next rb) (hm : Sub 0x50efe69 pm := by first | with_reducible assumption | (refine Sub.of ?_ (by with_reducible assumption); with_unfolding_all rfl)) :
    Keeps pm s0 rb := by
  unfold execReservationRegister at e
  repeat' first
    | (injection e with e; subst e)
    | (cases e; done)
    | split at e
  all_goals try dsimp only
  all_goals repeat' first
    | with_reducible assumption
    | (with_reducible intro t; intros)
    | with_reducible refine foldl_keeps ?_ ?_
    | with_reducible refine endReservation_keeps ?_ 
    | with_reducible refine onReservation_keeps ?_ ?_ 
    | with_reducible refine setReservation_keeps ?_ 
    | with_reducible refine notify_keeps ?_ 
    | with_reducible refine keeps_ite ?_ ?_
    | split
    | with_reducible refine Keeps.upd rfl rfl rfl rfl rfl rfl ?_

theorem execReservationReport_keeps {pm : Nat} {s0 : State} {id : ℕ} {s : State} (hk : Keeps pm s0 s) {rb : State} (e : (execReservationReport id s) = .next rb) (hm : Sub 0x50efe69 pm := by first | with_reducible assumption | (refine Sub.of ?_ (by with_reducible assumption); with_unfolding_all rfl)) :
    Keeps pm s0 rb := by
  unfold execReservationReport at e
  repeat' first
    | (injection e with e; subst e)
    | (cases e; done)
    | split at e
  all_goals try dsimp only
  all_goals repeat' first
    | with_reducible assumption
    | (with_reducible intro t; intros)
    | with_reducible refine foldl_keeps ?_ ?_
    | with_reducible refine modCtx_keeps ?_ 
    | with_reducible refine endReservation_keeps ?_ 
    | with_reducible refine onReservation_keeps ?_ ?_ 
    | with_reducible refine keeps_ite ?_ ?_
    | split
    | with_reducible refine Keeps.upd rfl rfl rfl rfl rfl rfl ?_

theorem execReservationAcquire_keeps {pm : Nat} {s0 : State} {id : ℕ} {s : State} (hk : Keeps pm s0 s) {rb : State} (e : (execReservationAcquire id s) = .next rb) (hm : Sub 0x50efe69 pm := by first | with_reducible assumption | (refine Sub.of ?_ (by with_reducible assumption); with_unfolding_all rfl)) :
    Keeps pm s0 rb := by
  unfold execReservationAcquire at e
  repeat' first
    | (injection e with e; subst e)
    | (cases e; done)
    | split at e
  all_goals try dsimp only
  all_goals repeat' first
    | with_reducible assumption
    | (with_reducible intro t; intros)
    | with_reducible refine foldl_keeps ?_ ?_
    | with_reducible refine abortHosts_keeps ?_ 
    | with_reducible refine endReservation_keeps ?_ 
    | with_reducible refine onReservation_keeps ?_ ?_ 
    | with_reducible refine setReservation_keeps ?_ 
    | with_reducible refine notify_keeps ?_ 
    | with_reducible refine keeps_ite ?_ ?_
    | split
    | with_reducible refine Keeps.upd rfl rfl rfl rfl rfl rfl ?_

theorem execReservationRelease_keeps {pm : Nat} {s0 : State} {id : ℕ} {s : State} (hk : Keeps pm s0 s) {rb : State} (e : (execReservationRelease id s) = .next rb) (hm : Sub 0x50efe69 pm := by first | with_reducible assumption | (refine Sub.of ?_ (by with_reducible assumption); with_unfolding_all rfl)) :
    Keeps pm s0 rb := by
  unfold execReservationRelease at e
  repeat' first
    | (injection e with e; subst e)
    | (cases e; done)
    | split at e
  all_goals try dsimp only
  all_goals repeat' first
    | with_reducible assumption
    | (with_reducible intro t; intros)
    | with_reducible refine foldl_keeps ?_ ?_
    | with_reducible refine endReservation_keeps ?_ 
    | with_reducible refine onReservation_keeps ?_ ?_ 
    | with_reducible refine setReservation_keeps ?_ 
    | with_reducible refine notify_keeps ?_ 
    | with_reducible refine keeps_ite ?_ ?_
    | split
    | with_reducible refine Keeps.upd rfl rfl rfl rfl rfl rfl ?_

theorem rejudge_keeps {pm : Nat} {s0 : State} {id : ℕ} {k : BandKey} {s : State} (hk : Keeps pm s0 s) (hm : Sub 0x2fc40 pm := by first | with_reducible assumption | (refine Sub.of ?_ (by with_reducible assumption); with_unfolding_all rfl)) :
    Keeps pm s0 (rejudge id k s) := by
  unfold rejudge
  try dsimp only
  repeat' first
    | with_reducible assumption
    | (with_reducible intro t; intros)
    | with_reducible refine foldl_keeps ?_ ?_
    | with_reducible refine modCtx_keeps ?_ 
    | with_reducible refine commitCtx_keeps ?_ 
    | with_reducible refine releaseWrite_keeps ?_ 
    | with_reducible refine modBand_keeps ?_ 
    | with_reducible refine openZone_keeps ?_ 
    | with_reducible refine keeps_ite ?_ ?_
    | split
    | with_reducible refine Keeps.upd rfl rfl rfl rfl rfl rfl ?_

theorem zoneAction_keeps {pm : Nat} {s0 : State} {op : IoOp} {id : ℕ} {s : State} (hk : Keeps pm s0 s) (hm : Sub 0x50efe69 pm := by first | with_reducible assumption | (refine Sub.of ?_ (by with_reducible assumption); with_unfolding_all rfl)) :
    Keeps pm s0 (zoneAction op id s) := by
  unfold zoneAction
  try dsimp only
  repeat' first
    | with_reducible assumption
    | (with_reducible intro t; intros)
    | with_reducible refine foldl_keeps ?_ ?_
    | with_reducible refine commitCtx_keeps ?_ 
    | with_reducible refine progress_keeps ?_ 
    | with_reducible refine actOn_keeps ?_ 
    | with_reducible refine lookupWaiting_keeps ?_ 
    | with_reducible refine noteBand_keeps ?_ 
    | with_reducible refine refuseCtx_keeps ?_ 
    | with_reducible refine rejudge_keeps ?_ 
    | with_reducible refine keeps_ite ?_ ?_
    | split
    | with_reducible refine Keeps.upd rfl rfl rfl rfl rfl rfl ?_

theorem execZoneClose_keeps {pm : Nat} {s0 : State} {id : ℕ} {s : State} (hk : Keeps pm s0 s) {rb : State} (e : (execZoneClose id s) = .next rb) (hm : Sub 0x50efe69 pm := by first | with_reducible assumption | (refine Sub.of ?_ (by with_reducible assumption); with_unfolding_all rfl)) :
    Keeps pm s0 rb := by
  unfold execZoneClose at e
  repeat' first
    | (injection e with e; subst e)
    | (cases e; done)
    | split at e
  all_goals try dsimp only
  all_goals repeat' first
    | with_reducible assumption
    | (with_reducible intro t; intros)
    | with_reducible refine foldl_keeps ?_ ?_
    | with_reducible refine ifLive_keeps ?_ ?_ 
    | with_reducible refine zoneAction_keeps ?_ 
    | with_reducible refine keeps_ite ?_ ?_
    | split
    | with_reducible refine Keeps.upd rfl rfl rfl rfl rfl rfl ?_

theorem execZoneFinish_keeps {pm : Nat} {s0 : State} {id : ℕ} {s : State} (hk : Keeps pm s0 s) {rb : State} (e : (execZoneFinish id s) = .next rb) (hm : Sub 0x50efe69 pm := by first | with_reducible assumption | (refine Sub.of ?_ (by with_reducible assumption); with_unfolding_all rfl)) :
    Keeps pm s0 rb := by
  unfold execZoneFinish at e
  repeat' first
    | (injection e with e; subst e)
    | (cases e; done)
    | split at e
  all_goals try dsimp only
  all_goals repeat' first
    | with_reducible assumption
    | (with_reducible intro t; intros)
    | with_reducible refine foldl_keeps ?_ ?_
    | with_reducible refine ifLive_keeps ?_ ?_ 
    | with_reducible refine zoneAction_keeps ?_ 
    | with_reducible refine keeps_ite ?_ ?_
    | split
    | with_reducible refine Keeps.upd rfl rfl rfl rfl rfl rfl ?_

theorem execZoneOpen_keeps {pm : Nat} {s0 : State} {id : ℕ} {s : State} (hk : Keeps pm s0 s) {rb : State} (e : (execZoneOpen id s) = .next rb) (hm : Sub 0x50efe69 pm := by first | with_reducible assumption | (refine Sub.of ?_ (by with_reducible assumption); with_unfolding_all rfl)) :
    Keeps pm s0 rb := by
  unfold execZoneOpen at e
  repeat' first
    | (injection e with e; subst e)
    | (cases e; done)
    | split at e
  all_goals try dsimp only
  all_goals repeat' first
    | with_reducible assumption
    | (with_reducible intro t; intros)
    | with_reducible refine foldl_keeps ?_ ?_
    | with_reducible refine ifLive_keeps ?_ ?_ 
    | with_reducible refine zoneAction_keeps ?_ 
    | with_reducible refine keeps_ite ?_ ?_
    | split
    | with_reducible refine Keeps.upd rfl rfl rfl rfl rfl rfl ?_

theorem execZoneReset_keeps {pm : Nat} {s0 : State} {id : ℕ} {s : State} (hk : Keeps pm s0 s) {rb : State} (e : (execZoneReset id s) = .next rb) (hm : Sub 0x50efe69 pm := by first | with_reducible assumption | (refine Sub.of ?_ (by with_reducible assumption); with_unfolding_all rfl)) :
    Keeps pm s0 rb := by
  unfold execZoneReset at e
  repeat' first
    | (injection e with e; subst e)
    | (cases e; done)
    | split at e
  all_goals try dsimp only
  all_goals repeat' first
    | with_reducible assumption
    | (with_reducible intro t; intros)
    | with_reducible refine foldl_keeps ?_ ?_
    | with_reducible refine ifLive_keeps ?_ ?_ 
    | with_reducible refine zoneAction_keeps ?_ 
    | with_reducible refine keeps_ite ?_ ?_
    | split
    | with_reducible refine Keeps.upd rfl rfl rfl rfl rfl rfl ?_

theorem execZoneOffline_keeps {pm : Nat} {s0 : State} {id : ℕ} {s : State} (hk : Keeps pm s0 s) {rb : State} (e : (execZoneOffline id s) = .next rb) (hm : Sub 0x50efe69 pm := by first | with_reducible assumption | (refine Sub.of ?_ (by with_reducible assumption); with_unfolding_all rfl)) :
    Keeps pm s0 rb := by
  unfold execZoneOffline at e
  repeat' first
    | (injection e with e; subst e)
    | (cases e; done)
    | split at e
  all_goals try dsimp only
  all_goals repeat' first
    | with_reducible assumption
    | (with_reducible intro t; intros)
    | with_reducible refine foldl_keeps ?_ ?_
    | with_reducible refine ifLive_keeps ?_ ?_ 
    | with_reducible refine zoneAction_keeps ?_ 
    | with_reducible refine keeps_ite ?_ ?_
    | split
    | with_reducible refine Keeps.upd rfl rfl rfl rfl rfl rfl ?_

theorem execSetZoneDescriptorExt_keeps {pm : Nat} {s0 : State} {id : ℕ} {s : State} (hk : Keeps pm s0 s) {rb : State} (e : (execSetZoneDescriptorExt id s) = .next rb) (hm : Sub 0x50efe69 pm := by first | with_reducible assumption | (refine Sub.of ?_ (by with_reducible assumption); with_unfolding_all rfl)) :
    Keeps pm s0 rb := by
  unfold execSetZoneDescriptorExt at e
  repeat' first
    | (injection e with e; subst e)
    | (cases e; done)
    | split at e
  all_goals try dsimp only
  all_goals repeat' first
    | with_reducible assumption
    | (with_reducible intro t; intros)
    | with_reducible refine foldl_keeps ?_ ?_
    | with_reducible refine progress_keeps ?_ 
    | with_reducible refine refuseCtx_keeps ?_ 
    | with_reducible refine keeps_ite ?_ ?_
    | split
    | with_reducible refine Keeps.upd rfl rfl rfl rfl rfl rfl ?_

theorem execReportZones_keeps {pm : Nat} {s0 : State} {id : ℕ} {s : State} (hk : Keeps pm s0 s) {rb : State} (e : (execReportZones id s) = .next rb) (hm : Sub 0x50efe69 pm := by first | with_reducible assumption | (refine Sub.of ?_ (by with_reducible assumption); with_unfolding_all rfl)) :
    Keeps pm s0 rb := by
  unfold execReportZones at e
  repeat' first
    | (injection e with e; subst e)
    | (cases e; done)
    | split at e
  all_goals try dsimp only
  all_goals repeat' first
    | with_reducible assumption
    | (with_reducible intro t; intros)
    | with_reducible refine foldl_keeps ?_ ?_
    | with_reducible refine modCtx_keeps ?_ 
    | with_reducible refine commitCtx_keeps ?_ 
    | with_reducible refine progress_keeps ?_ 
    | with_reducible refine refuseCtx_keeps ?_ 
    | with_reducible refine keeps_ite ?_ ?_
    | split
    | with_reducible refine Keeps.upd rfl rfl rfl rfl rfl rfl ?_

theorem execExtendedReportZones_keeps {pm : Nat} {s0 : State} {id : ℕ} {s : State} (hk : Keeps pm s0 s) {rb : State} (e : (execExtendedReportZones id s) = .next rb) (hm : Sub 0x50efe69 pm := by first | with_reducible assumption | (refine Sub.of ?_ (by with_reducible assumption); with_unfolding_all rfl)) :
    Keeps pm s0 rb := by
  unfold execExtendedReportZones at e
  repeat' first
    | (injection e with e; subst e)
    | (cases e; done)
    | split at e
  all_goals try dsimp only
  all_goals repeat' first
    | with_reducible assumption
    | (with_reducible intro t; intros)
    | with_reducible refine foldl_keeps ?_ ?_
    | with_reducible refine progress_keeps ?_ 
    | with_reducible refine refuseCtx_keeps ?_ 
    | with_reducible refine keeps_ite ?_ ?_
    | split
    | with_reducible refine Keeps.upd rfl rfl rfl rfl rfl rfl ?_

theorem execZoneAppend_keeps {pm : Nat} {s0 : State} {id : ℕ} {data : List Block} {s : State} (hk : Keeps pm s0 s) {rb : State} (e : (execZoneAppend id data s) = .next rb) (hm : Sub 0x50efe69 pm := by first | with_reducible assumption | (refine Sub.of ?_ (by with_reducible assumption); with_unfolding_all rfl)) :
    Keeps pm s0 rb := by
  unfold execZoneAppend at e
  repeat' first
    | (injection e with e; subst e)
    | (cases e; done)
    | split at e
  all_goals try dsimp only
  all_goals repeat' first
    | with_reducible assumption
    | (with_reducible intro t; intros)
    | with_reducible refine foldl_keeps ?_ ?_
    | with_reducible refine ifLive_keeps ?_ ?_ 
    | with_reducible refine startWrite_keeps ?_ 
    | with_reducible refine keeps_ite ?_ ?_
    | split
    | with_reducible refine Keeps.upd rfl rfl rfl rfl rfl rfl ?_

theorem execUnsupportedIoOpcode_keeps {pm : Nat} {s0 : State} {id : ℕ} {s : State} (hk : Keeps pm s0 s) {rb : State} (e : (execUnsupportedIoOpcode id s) = .next rb) (hm : Sub 0x50efe69 pm := by first | with_reducible assumption | (refine Sub.of ?_ (by with_reducible assumption); with_unfolding_all rfl)) :
    Keeps pm s0 rb := by
  unfold execUnsupportedIoOpcode at e
  repeat' first
    | (injection e with e; subst e)
    | (cases e; done)
    | split at e
  all_goals try dsimp only
  all_goals repeat' first
    | with_reducible assumption
    | (with_reducible intro t; intros)
    | with_reducible refine foldl_keeps ?_ ?_
    | with_reducible refine progress_keeps ?_ 
    | with_reducible refine refuseCtx_keeps ?_ 
    | with_reducible refine keeps_ite ?_ ?_
    | split
    | with_reducible refine Keeps.upd rfl rfl rfl rfl rfl rfl ?_

theorem execMaintenanceOrderingPoint_keeps {pm : Nat} {s0 : State} {id : ℕ} {s : State} (hk : Keeps pm s0 s) {rb : State} (e : (execMaintenanceOrderingPoint id s) = .next rb) (hm : Sub 0x2c040 pm := by first | with_reducible assumption | (refine Sub.of ?_ (by with_reducible assumption); with_unfolding_all rfl)) :
    Keeps pm s0 rb := by
  unfold execMaintenanceOrderingPoint at e
  repeat' first
    | (injection e with e; subst e)
    | (cases e; done)
    | split at e
  all_goals try dsimp only
  all_goals repeat' first
    | with_reducible assumption
    | (with_reducible intro t; intros)
    | with_reducible refine foldl_keeps ?_ ?_
    | with_reducible refine modCtx_keeps ?_ 
    | with_reducible refine zoneOrdering_keeps ?_ 
    | with_reducible refine keeps_ite ?_ ?_
    | split
    | with_reducible refine Keeps.upd rfl rfl rfl rfl rfl rfl ?_

end Sys2Proof.Machine
end

