-- ==== Sys2Proof/Laws/Frame13.lean ====
section
/-! SUPPORT. What each operation keeps (see Keeps), in the order in which operations call each other: execUnloadIdleExpired to execScrubLapWarn. -/

set_option linter.unusedTactic false
set_option linter.unreachableTactic false
set_option Elab.async false

namespace Sys2Proof.Machine

theorem execUnloadIdleExpired_keeps {pm : Nat} {s0 : State} {n : ChanId} {s : State} (hk : Keeps pm s0 s) {rb : State} (e : (execUnloadIdleExpired n s) = .next rb) (hm : Sub 0x10efe60 pm := by first | with_reducible assumption | (refine Sub.of ?_ (by with_reducible assumption); with_unfolding_all rfl)) :
    Keeps pm s0 rb := by
  unfold execUnloadIdleExpired at e
  repeat' first
    | (injection e with e; subst e)
    | (cases e; done)
    | split at e
  all_goals try dsimp only
  all_goals repeat' first
    | with_reducible assumption
    | (with_reducible intro t; intros)
    | with_reducible refine foldl_keeps ?_ ?_
    | with_reducible refine unloadChans_keeps ?_ 
    | with_reducible refine keeps_ite ?_ ?_
    | split
    | with_reducible refine Keeps.upd rfl rfl rfl rfl rfl rfl ?_

theorem execStatusWrite_keeps {pm : Nat} {s0 : State} {p : PortId} {v : Word32} {setNow : Word32} {s : State} (hk : Keeps pm s0 s) {rb : State} (e : (execStatusWrite p v setNow s) = .next rb) (hm : Sub 0xc00 pm := by first | with_reducible assumption | (refine Sub.of ?_ (by with_reducible assumption); with_unfolding_all rfl)) :
    Keeps pm s0 rb := by
  unfold execStatusWrite at e
  repeat' first
    | (injection e with e; subst e)
    | (cases e; done)
    | split at e
  all_goals try dsimp only
  all_goals repeat' first
    | with_reducible assumption
    | (with_reducible intro t; intros)
    | with_reducible refine foldl_keeps ?_ ?_
    | with_reducible refine State.modPort_keeps ?_ 
    | with_reducible refine refreshAlert_keeps ?_ 
    | with_reducible refine keeps_ite ?_ ?_
    | split
    | with_reducible refine Keeps.upd rfl rfl rfl rfl rfl rfl ?_

theorem execIntEnableWrite_keeps {pm : Nat} {s0 : State} {p : PortId} {v : Word32} {s : State} (hk : Keeps pm s0 s) {rb : State} (e : (execIntEnableWrite p v s) = .next rb) (hm : Sub 0xc00 pm := by first | with_reducible assumption | (refine Sub.of ?_ (by with_reducible assumption); with_unfolding_all rfl)) :
    Keeps pm s0 rb := by
  unfold execIntEnableWrite at e
  repeat' first
    | (injection e with e; subst e)
    | (cases e; done)
    | split at e
  all_goals try dsimp only
  all_goals repeat' first
    | with_reducible assumption
    | (with_reducible intro t; intros)
    | with_reducible refine foldl_keeps ?_ ?_
    | with_reducible refine State.modPort_keeps ?_ 
    | with_reducible refine keeps_ite ?_ ?_
    | split
    | with_reducible refine Keeps.upd rfl rfl rfl rfl rfl rfl ?_

theorem execTickLoRead_keeps {pm : Nat} {s0 : State} {p : PortId} {s : State} (hk : Keeps pm s0 s) {rb : State} (e : (execTickLoRead p s) = .next rb) (hm : Sub 0xc00 pm := by first | with_reducible assumption | (refine Sub.of ?_ (by with_reducible assumption); with_unfolding_all rfl)) :
    Keeps pm s0 rb := by
  unfold execTickLoRead at e
  repeat' first
    | (injection e with e; subst e)
    | (cases e; done)
    | split at e
  all_goals try dsimp only
  all_goals repeat' first
    | with_reducible assumption
    | (with_reducible intro t; intros)
    | with_reducible refine foldl_keeps ?_ ?_
    | with_reducible refine State.modPort_keeps ?_ 
    | with_reducible refine ifLive_keeps ?_ ?_ 
    | with_reducible refine keeps_ite ?_ ?_
    | split
    | with_reducible refine Keeps.upd rfl rfl rfl rfl rfl rfl ?_

theorem execEvtBaseWrite_keeps {pm : Nat} {s0 : State} {p : PortId} {v : Word32} {s : State} (hk : Keeps pm s0 s) {rb : State} (e : (execEvtBaseWrite p v s) = .next rb) (hm : Sub 0xc00 pm := by first | with_reducible assumption | (refine Sub.of ?_ (by with_reducible assumption); with_unfolding_all rfl)) :
    Keeps pm s0 rb := by
  unfold execEvtBaseWrite at e
  repeat' first
    | (injection e with e; subst e)
    | (cases e; done)
    | split at e
  all_goals try dsimp only
  all_goals repeat' first
    | with_reducible assumption
    | (with_reducible intro t; intros)
    | with_reducible refine foldl_keeps ?_ ?_
    | with_reducible refine State.modPort_keeps ?_ 
    | with_reducible refine ifLive_keeps ?_ ?_ 
    | with_reducible refine keeps_ite ?_ ?_
    | split
    | with_reducible refine Keeps.upd rfl rfl rfl rfl rfl rfl ?_

theorem requestWrite_keeps {pm : Nat} {s0 : State} {p : PortId} {l : List Byte} {s : State} (hk : Keeps pm s0 s) (hm : Sub 0xc00 pm := by first | with_reducible assumption | (refine Sub.of ?_ (by with_reducible assumption); with_unfolding_all rfl)) :
    Keeps pm s0 (requestWrite p l s) := by
  unfold requestWrite
  try dsimp only
  repeat' first
    | with_reducible assumption
    | (with_reducible intro t; intros)
    | with_reducible refine foldl_keeps ?_ ?_
    | with_reducible refine State.modPort_keeps ?_ 
    | with_reducible refine keeps_ite ?_ ?_
    | split
    | with_reducible refine Keeps.upd rfl rfl rfl rfl rfl rfl ?_

theorem mailboxDone_keeps {pm : Nat} {s0 : State} {p : PortId} {s : State} (hk : Keeps pm s0 s) (hm : Sub 0xc00 pm := by first | with_reducible assumption | (refine Sub.of ?_ (by with_reducible assumption); with_unfolding_all rfl)) :
    Keeps pm s0 (mailboxDone p s) := by
  unfold mailboxDone
  try dsimp only
  repeat' first
    | with_reducible assumption
    | (with_reducible intro t; intros)
    | with_reducible refine foldl_keeps ?_ ?_
    | with_reducible refine State.modPort_keeps ?_ 
    | with_reducible refine refreshAlert_keeps ?_ 
    | with_reducible refine keeps_ite ?_ ?_
    | split
    | with_reducible refine Keeps.upd rfl rfl rfl rfl rfl rfl ?_

theorem plarikRefuse_keeps {pm : Nat} {s0 : State} {p : Path} {e : Byte} {r : List Byte} {code : ℕ} {s : State} (hk : Keeps pm s0 s) (hm : Sub 0x400c00 pm := by first | with_reducible assumption | (refine Sub.of ?_ (by with_reducible assumption); with_unfolding_all rfl)) :
    Keeps pm s0 (plarikRefuse p e r code s) := by
  unfold plarikRefuse
  try dsimp only
  repeat' first
    | with_reducible assumption
    | (with_reducible intro t; intros)
    | with_reducible refine foldl_keeps ?_ ?_
    | with_reducible refine deliverTo_keeps ?_ 
    | with_reducible refine keeps_ite ?_ ?_
    | split
    | with_reducible refine Keeps.upd rfl rfl rfl rfl rfl rfl ?_

theorem plarikReply_keeps {pm : Nat} {s0 : State} {p : Path} {e : Byte} {r : List Byte} {before : State}
    {x : Option PlarikAnswer × State} (hk : Keeps pm s0 x.2) (hm : Sub 0x400c00 pm := by first | with_reducible assumption | (refine Sub.of ?_ (by with_reducible assumption); with_unfolding_all rfl)) : Keeps pm s0 (plarikReply p e r before x) := by
  unfold plarikReply
  split
  · exact deliverTo_keeps hk
  · split
    · exact Keeps.upd rfl rfl rfl rfl rfl rfl hk
    · exact hk

theorem plarikRead_keeps {pm : Nat} {s0 : State} {p : Path} {r : List Byte} {s : State} (hk : Keeps pm s0 s) (hm : Sub 0xc90040 pm := by first | with_reducible assumption | (refine Sub.of ?_ (by with_reducible assumption); with_unfolding_all rfl)) :
    Keeps pm s0 (plarikRead p r s).2 := by
  unfold plarikRead
  exact dictRead_keeps hk

theorem laterAnswer_keeps {pm : Nat} {s0 : State} {r : List Byte} {x : Option Nat × State} (hk : Keeps pm s0 x.2) (hm : Sub 0x0 pm := by first | with_reducible assumption | (refine Sub.of ?_ (by with_reducible assumption); with_unfolding_all rfl)) :
    Keeps pm s0 (laterAnswer r x).2 := hk

theorem plarikWrite_keeps {pm : Nat} {s0 : State} {p : Path} {e : Byte} {r : List Byte} {s : State} (hk : Keeps pm s0 s) (hm : Sub 0xbff5e40 pm := by first | with_reducible assumption | (refine Sub.of ?_ (by with_reducible assumption); with_unfolding_all rfl)) :
    Keeps pm s0 (plarikWrite p e r s).2 := by
  unfold plarikWrite
  dsimp only
  refine laterAnswer_keeps ?_
  split
  · exact segmentWrite_keeps hk
  · exact dictWrite_keeps hk

theorem plarikCommitOrDiscard_keeps {pm : Nat} {s0 : State} {p : Path} {e : Byte} {r : List Byte} {s : State} (hk : Keeps pm s0 s) (hm : Sub 0xbff5e40 pm := by first | with_reducible assumption | (refine Sub.of ?_ (by with_reducible assumption); with_unfolding_all rfl)) :
    Keeps pm s0 (plarikCommitOrDiscard p e r s).2 := by
  unfold plarikCommitOrDiscard
  exact laterAnswer_keeps (dictWrite_keeps hk)

theorem plarikDescribe_keeps {pm : Nat} {s0 : State} {r : List Byte} {s : State} (hk : Keeps pm s0 s) (hm : Sub 0x0 pm := by first | with_reducible assumption | (refine Sub.of ?_ (by with_reducible assumption); with_unfolding_all rfl)) :
    Keeps pm s0 (plarikDescribe r s).2 := by
  unfold plarikDescribe
  split <;> exact hk

theorem plarikNext_keeps {pm : Nat} {s0 : State} {r : List Byte} {s : State} (hk : Keeps pm s0 s) (hm : Sub 0x0 pm := by first | with_reducible assumption | (refine Sub.of ?_ (by with_reducible assumption); with_unfolding_all rfl)) :
    Keeps pm s0 (plarikNext r s).2 := by
  unfold plarikNext
  split <;> exact hk

theorem plarikRun_keeps {pm : Nat} {s0 : State} {p : Path} {e : Byte} {r : List Byte} {s : State} (hk : Keeps pm s0 s) (hm : Sub 0xbff5e40 pm := by first | with_reducible assumption | (refine Sub.of ?_ (by with_reducible assumption); with_unfolding_all rfl)) :
    Keeps pm s0 (plarikRun p e r s).2 := by
  unfold plarikRun
  split
  · exact plarikRead_keeps hk
  · exact plarikWrite_keeps hk
  · exact plarikCommitOrDiscard_keeps hk
  · exact plarikDescribe_keeps hk
  · exact plarikNext_keeps hk

theorem plarikReceive_keeps {pm : Nat} {s0 : State} {p : Path} {e : Byte} {r : List Byte} {s : State} (hk : Keeps pm s0 s) (hm : Sub 0xbff5e40 pm := by first | with_reducible assumption | (refine Sub.of ?_ (by with_reducible assumption); with_unfolding_all rfl)) :
    Keeps pm s0 (plarikReceive p e r s) := by
  unfold plarikReceive
  try dsimp only
  repeat' first
    | with_reducible assumption
    | (with_reducible intro t; intros)
    | with_reducible refine foldl_keeps ?_ ?_
    | with_reducible refine plarikRefuse_keeps ?_ 
    | with_reducible refine plarikReply_keeps (plarikRun_keeps ?_)
    | with_reducible refine plarikRun_keeps ?_ 
    | with_reducible refine plarikRun_keepsP ?_  (by assumption)
    | with_reducible refine keeps_ite ?_ ?_
    | split
    | with_reducible refine Keeps.upd rfl rfl rfl rfl rfl rfl ?_

theorem mailboxSend_keeps {pm : Nat} {s0 : State} {p : PortId} {r : List Byte} {s : State} (hk : Keeps pm s0 s) (hm : Sub 0xbff5e40 pm := by first | with_reducible assumption | (refine Sub.of ?_ (by with_reducible assumption); with_unfolding_all rfl)) :
    Keeps pm s0 (mailboxSend p r s) := by
  unfold mailboxSend
  try dsimp only
  repeat' first
    | with_reducible assumption
    | (with_reducible intro t; intros)
    | with_reducible refine foldl_keeps ?_ ?_
    | with_reducible refine State.modPort_keeps ?_ 
    | with_reducible refine plarikReceive_keeps ?_ 
    | with_reducible refine keeps_ite ?_ ?_
    | split
    | with_reducible refine Keeps.upd rfl rfl rfl rfl rfl rfl ?_

theorem execMbDoorbellWrite_keeps {pm : Nat} {s0 : State} {p : PortId} {v : Word32} {request : List Byte} {s : State} (hk : Keeps pm s0 s) {rb : State} (e : (execMbDoorbellWrite p v request s) = .next rb) (hm : Sub 0xbff5e40 pm := by first | with_reducible assumption | (refine Sub.of ?_ (by with_reducible assumption); with_unfolding_all rfl)) :
    Keeps pm s0 rb := by
  unfold execMbDoorbellWrite at e
  repeat' first
    | (injection e with e; subst e)
    | (cases e; done)
    | split at e
  all_goals try dsimp only
  all_goals repeat' first
    | with_reducible assumption
    | (with_reducible intro t; intros)
    | with_reducible refine foldl_keeps ?_ ?_
    | with_reducible refine State.modPort_keeps ?_ 
    | with_reducible refine requestWrite_keeps ?_ 
    | with_reducible refine mailboxDone_keeps ?_ 
    | with_reducible refine mailboxSend_keeps ?_ 
    | with_reducible refine keeps_ite ?_ ?_
    | split
    | with_reducible refine Keeps.upd rfl rfl rfl rfl rfl rfl ?_

theorem execMailboxResponse_keeps {pm : Nat} {s0 : State} {p : PortId} {s : State} (hk : Keeps pm s0 s) {rb : State} (e : (execMailboxResponse p s) = .next rb) (hm : Sub 0xc00 pm := by first | with_reducible assumption | (refine Sub.of ?_ (by with_reducible assumption); with_unfolding_all rfl)) :
    Keeps pm s0 rb := by
  unfold execMailboxResponse at e
  repeat' first
    | (injection e with e; subst e)
    | (cases e; done)
    | split at e
  all_goals try dsimp only
  all_goals repeat' first
    | with_reducible assumption
    | (with_reducible intro t; intros)
    | with_reducible refine foldl_keeps ?_ ?_
    | with_reducible refine State.modPort_keeps ?_ 
    | with_reducible refine ifLive_keeps ?_ ?_ 
    | with_reducible refine mailboxDone_keeps ?_ 
    | with_reducible refine keeps_ite ?_ ?_
    | split
    | with_reducible refine Keeps.upd rfl rfl rfl rfl rfl rfl ?_

theorem execMsixUnmask_keeps {pm : Nat} {s0 : State} {x : PortVector} {s : State} (hk : Keeps pm s0 s) {rb : State} (e : (execMsixUnmask x s) = .next rb) (hm : Sub 0xc00 pm := by first | with_reducible assumption | (refine Sub.of ?_ (by with_reducible assumption); with_unfolding_all rfl)) :
    Keeps pm s0 rb := by
  unfold execMsixUnmask at e
  repeat' first
    | (injection e with e; subst e)
    | (cases e; done)
    | split at e
  all_goals try dsimp only
  all_goals repeat' first
    | with_reducible assumption
    | (with_reducible intro t; intros)
    | with_reducible refine foldl_keeps ?_ ?_
    | with_reducible refine State.modPort_keeps ?_ 
    | with_reducible refine ifLive_keeps ?_ ?_ 
    | with_reducible refine keeps_ite ?_ ?_
    | split
    | with_reducible refine Keeps.upd rfl rfl rfl rfl rfl rfl ?_

theorem execHoldSenseFall_keeps {pm : Nat} {s0 : State} {s : State} (hk : Keeps pm s0 s) {rb : State} (e : (execHoldSenseFall s) = .next rb) (hm : Sub 0x1 pm := by first | with_reducible assumption | (refine Sub.of ?_ (by with_reducible assumption); with_unfolding_all rfl)) :
    Keeps pm s0 rb := by
  unfold execHoldSenseFall at e
  repeat' first
    | (injection e with e; subst e)
    | (cases e; done)
    | split at e
  all_goals try dsimp only
  all_goals repeat' first
    | with_reducible assumption
    | (with_reducible intro t; intros)
    | with_reducible refine foldl_keeps ?_ ?_
    | with_reducible refine keeps_ite ?_ ?_
    | split
    | with_reducible refine Keeps.upd rfl rfl rfl rfl rfl rfl ?_

theorem execHoldSenseRise_keeps {pm : Nat} {s0 : State} {s : State} (hk : Keeps pm s0 s) {rb : State} (e : (execHoldSenseRise s) = .next rb) (hm : Sub 0x1 pm := by first | with_reducible assumption | (refine Sub.of ?_ (by with_reducible assumption); with_unfolding_all rfl)) :
    Keeps pm s0 rb := by
  unfold execHoldSenseRise at e
  repeat' first
    | (injection e with e; subst e)
    | (cases e; done)
    | split at e
  all_goals try dsimp only
  all_goals repeat' first
    | with_reducible assumption
    | (with_reducible intro t; intros)
    | with_reducible refine foldl_keeps ?_ ?_
    | with_reducible refine keeps_ite ?_ ?_
    | split
    | with_reducible refine Keeps.upd rfl rfl rfl rfl rfl rfl ?_

theorem execPwrdisRise_keeps {pm : Nat} {s0 : State} {s : State} (hk : Keeps pm s0 s) {rb : State} (e : (execPwrdisRise s) = .next rb) (hm : Sub 0x1 pm := by first | with_reducible assumption | (refine Sub.of ?_ (by with_reducible assumption); with_unfolding_all rfl)) :
    Keeps pm s0 rb := by
  unfold execPwrdisRise at e
  repeat' first
    | (injection e with e; subst e)
    | (cases e; done)
    | split at e
  all_goals try dsimp only
  all_goals repeat' first
    | with_reducible assumption
    | (with_reducible intro t; intros)
    | with_reducible refine foldl_keeps ?_ ?_
    | with_reducible refine keeps_ite ?_ ?_
    | split
    | with_reducible refine Keeps.upd rfl rfl rfl rfl rfl rfl ?_

theorem execPwrdisFall_keeps {pm : Nat} {s0 : State} {s : State} (hk : Keeps pm s0 s) {rb : State} (e : (execPwrdisFall s) = .next rb) (hm : Sub 0x1 pm := by first | with_reducible assumption | (refine Sub.of ?_ (by with_reducible assumption); with_unfolding_all rfl)) :
    Keeps pm s0 rb := by
  unfold execPwrdisFall at e
  repeat' first
    | (injection e with e; subst e)
    | (cases e; done)
    | split at e
  all_goals try dsimp only
  all_goals repeat' first
    | with_reducible assumption
    | (with_reducible intro t; intros)
    | with_reducible refine foldl_keeps ?_ ?_
    | with_reducible refine keeps_ite ?_ ?_
    | split
    | with_reducible refine Keeps.upd rfl rfl rfl rfl rfl rfl ?_

theorem vaultRecords_keeps {pm : Nat} {s0 : State} {byPwrdis : Bool} {s : State} (hk : Keeps pm s0 s) (hm : Sub 0x1828240 pm := by first | with_reducible assumption | (refine Sub.of ?_ (by with_reducible assumption); with_unfolding_all rfl)) :
    Keeps pm s0 (vaultRecords byPwrdis s) := by
  unfold vaultRecords
  try dsimp only
  repeat' first
    | with_reducible assumption
    | (with_reducible intro t; intros)
    | with_reducible refine foldl_keeps ?_ ?_
    | with_reducible refine raise_keeps ?_ 
    | with_reducible refine abandonLadders_keeps ?_ 
    | with_reducible refine stopRuns_keeps ?_ 
    | with_reducible refine unfreeze_keeps ?_ 
    | with_reducible refine keeps_ite ?_ ?_
    | split
    | with_reducible refine Keeps.upd rfl rfl rfl rfl rfl rfl ?_

theorem triggerVault_keeps {pm : Nat} {s0 : State} {byPwrdis : Bool} {s : State} (hk : Keeps pm s0 s) (hm : Sub 0x3b2c245 pm := by first | with_reducible assumption | (refine Sub.of ?_ (by with_reducible assumption); with_unfolding_all rfl)) :
    Keeps pm s0 (triggerVault byPwrdis s) := by
  unfold triggerVault
  have h := vaultRecords_keeps (byPwrdis := byPwrdis) hk
  extract_lets early found t
  have ht : t = vaultRecords byPwrdis s := rfl
  clear_value early found t
  rw [← ht] at h
  refine Keeps.updEvr h ?_ ?_ ?_ ?_
  · rfl
  · rfl
  · exact RecorderOk.close
  · intro p; cases p <;> first | (refine Or.inl (Sub.has hm ?_); with_unfolding_all rfl) | exact Or.inr rfl

theorem execVaultTrigger_keeps {pm : Nat} {s0 : State} {pwrdis : Bool} {s : State} (hk : Keeps pm s0 s) {rb : State} (e : (execVaultTrigger pwrdis s) = .next rb) (hm : Sub 0x3b2c245 pm := by first | with_reducible assumption | (refine Sub.of ?_ (by with_reducible assumption); with_unfolding_all rfl)) :
    Keeps pm s0 rb := by
  unfold execVaultTrigger at e
  repeat' first
    | (injection e with e; subst e)
    | (cases e; done)
    | split at e
  all_goals try dsimp only
  all_goals repeat' first
    | with_reducible assumption
    | (with_reducible intro t; intros)
    | with_reducible refine foldl_keeps ?_ ?_
    | with_reducible refine triggerVault_keeps ?_ 
    | with_reducible refine keeps_ite ?_ ?_
    | split
    | with_reducible refine Keeps.upd rfl rfl rfl rfl rfl rfl ?_

theorem newRecord_keeps {pm : Nat} {s0 : State} {e : Event} {leaveOpen : Bool} {s : State} (hk : Keeps pm s0 s) (hm : Sub 0x800800 pm := by first | with_reducible assumption | (refine Sub.of ?_ (by with_reducible assumption); with_unfolding_all rfl)) :
    Keeps pm s0 (newRecord e leaveOpen s) := by
  unfold newRecord
  exact setFlag_keeps (Keeps.updEvr hk rfl rfl (RecorderOk.record ⟨e, s.evr.nextSeq, s.clock.cycles, 0⟩ leaveOpen _ rfl))

theorem recordEvent_keeps {pm : Nat} {s0 : State} {e : Event} {s : State} (hk : Keeps pm s0 s) (hm : Sub 0x800800 pm := by first | with_reducible assumption | (refine Sub.of ?_ (by with_reducible assumption); with_unfolding_all rfl)) :
    Keeps pm s0 (recordEvent e s) := by
  unfold recordEvent
  split
  · next hr =>
    split
    · next h =>
      simp only [Bool.and_eq_true] at h
      exact Keeps.updEvr hk rfl rfl (RecorderOk.again hr h.1.2)
    · exact newRecord_keeps hk
  · exact newRecord_keeps hk

theorem overflowRecord_keeps {pm : Nat} {s0 : State} {s : State} (hk : Keeps pm s0 s) (hm : Sub 0x1800800 pm := by first | with_reducible assumption | (refine Sub.of ?_ (by with_reducible assumption); with_unfolding_all rfl)) :
    Keeps pm s0 (overflowRecord s) := by
  unfold overflowRecord
  try dsimp only
  repeat' first
    | with_reducible assumption
    | (with_reducible intro t; intros)
    | with_reducible refine foldl_keeps ?_ ?_
    | with_reducible refine recordEvent_keeps ?_ 
    | with_reducible refine keeps_ite ?_ ?_
    | split
    | with_reducible refine Keeps.upd rfl rfl rfl rfl rfl rfl ?_

theorem writeNext_keeps {pm : Nat} {s0 : State} {s : State} (hk : Keeps pm s0 s) (hm : Sub 0x1800800 pm := by first | with_reducible assumption | (refine Sub.of ?_ (by with_reducible assumption); with_unfolding_all rfl)) :
    Keeps pm s0 (writeNext s) := by
  unfold writeNext
  try dsimp only
  repeat' first
    | with_reducible assumption
    | (with_reducible intro t; intros)
    | with_reducible refine foldl_keeps ?_ ?_
    | with_reducible refine newRecord_keeps ?_ 
    | with_reducible refine recordEvent_keeps ?_ 
    | with_reducible refine overflowRecord_keeps ?_ 
    | with_reducible refine keeps_ite ?_ ?_
    | split
    | with_reducible refine Keeps.upd rfl rfl rfl rfl rfl rfl ?_

theorem loseErase_keeps {pm : Nat} {s0 : State} {die : Fin 2} {s : State} (hk : Keeps pm s0 s) (hm : Sub 0x80000 pm := by first | with_reducible assumption | (refine Sub.of ?_ (by with_reducible assumption); with_unfolding_all rfl)) :
    Keeps pm s0 (loseErase die s) := by
  unfold loseErase
  try dsimp only
  repeat' first
    | with_reducible assumption
    | (with_reducible intro t; intros)
    | with_reducible refine foldl_keeps ?_ ?_
    | with_reducible refine clearBlock_keeps ?_ 
    | with_reducible refine keeps_ite ?_ ?_
    | split
    | with_reducible refine Keeps.upd rfl rfl rfl rfl rfl rfl ?_

theorem startVaultStep_keeps {pm : Nat} {s0 : State} {i : Fin 2} {s : State} (hk : Keeps pm s0 s) (hm : Sub 0x80000 pm := by first | with_reducible assumption | (refine Sub.of ?_ (by with_reducible assumption); with_unfolding_all rfl)) :
    Keeps pm s0 (startVaultStep i s) := by
  unfold startVaultStep
  try dsimp only
  repeat' first
    | with_reducible assumption
    | (with_reducible intro t; intros)
    | with_reducible refine foldl_keeps ?_ ?_
    | with_reducible refine modDie_keeps ?_ 
    | with_reducible refine clearStep_keeps ?_ 
    | with_reducible refine keeps_ite ?_ ?_
    | split
    | with_reducible refine Keeps.upd rfl rfl rfl rfl rfl rfl ?_

theorem startVault_keeps {pm : Nat} {s0 : State} {s : State} (hk : Keeps pm s0 s) (hm : Sub 0x80001 pm := by first | with_reducible assumption | (refine Sub.of ?_ (by with_reducible assumption); with_unfolding_all rfl)) :
    Keeps pm s0 (startVault s) := by
  unfold startVault
  try dsimp only
  repeat' first
    | with_reducible assumption
    | (with_reducible intro t; intros)
    | with_reducible refine foldl_keeps ?_ ?_
    | with_reducible refine modRegion_keeps ?_ 
    | with_reducible refine loseErase_keeps ?_ 
    | with_reducible refine startVaultStep_keeps ?_ 
    | with_reducible refine keeps_ite ?_ ?_
    | split
    | with_reducible refine Keeps.upd rfl rfl rfl rfl rfl rfl ?_

theorem execVaultRetract_keeps {pm : Nat} {s0 : State} {s : State} (hk : Keeps pm s0 s) {rb : State} (e : (execVaultRetract s) = .next rb) (hm : Sub 0x18efe61 pm := by first | with_reducible assumption | (refine Sub.of ?_ (by with_reducible assumption); with_unfolding_all rfl)) :
    Keeps pm s0 rb := by
  unfold execVaultRetract at e
  repeat' first
    | (injection e with e; subst e)
    | (cases e; done)
    | split at e
  all_goals try dsimp only
  all_goals repeat' first
    | with_reducible assumption
    | (with_reducible intro t; intros)
    | with_reducible refine foldl_keeps ?_ ?_
    | with_reducible refine State.modWr_keeps ?_ 
    | with_reducible refine sendRetract_keeps ?_ 
    | with_reducible refine abortSector_keeps ?_ 
    | with_reducible refine parkChannel_keeps ?_ 
    | with_reducible refine writeNext_keeps ?_ 
    | with_reducible refine startVault_keeps ?_ 
    | with_reducible refine keeps_ite ?_ ?_
    | split
    | with_reducible refine Keeps.upd rfl rfl rfl rfl rfl rfl ?_

theorem execVaultRestart_keeps {pm : Nat} {s0 : State} {boot : BootCheck} {s : State} (hk : Keeps pm s0 s) {rb : State} (e : (execVaultRestart boot s) = .next rb) (hm : Sub 0xfffffff pm := by first | with_reducible assumption | (refine Sub.of ?_ (by with_reducible assumption); with_unfolding_all rfl)) :
    Keeps pm s0 rb := by
  unfold execVaultRestart at e
  repeat' first
    | (injection e with e; subst e)
    | (cases e; done)
    | split at e
  all_goals try dsimp only
  all_goals repeat' first
    | with_reducible assumption
    | (with_reducible intro t; intros)
    | with_reducible refine foldl_keeps ?_ ?_
    | with_reducible refine bootUp_keeps ?_ 
    | with_reducible refine porReset_keeps ?_ 
    | with_reducible refine keeps_ite ?_ ?_
    | split
    | with_reducible refine Keeps.upd rfl rfl rfl rfl rfl rfl ?_

theorem storeWord_keeps {pm : Nat} {s0 : State} {c : Fin 4} {row : BitVec 22} {w : BufWord} {q : Nat} {s : State} (hk : Keeps pm s0 s) (hm : Sub 0x10000 pm := by first | with_reducible assumption | (refine Sub.of ?_ (by with_reducible assumption); with_unfolding_all rfl)) :
    Keeps pm s0 (storeWord c row w q s) := by
  unfold storeWord
  exact modBms_keeps hk (fun b h => writeRow_wf h)

theorem holdBand_keeps {pm : Nat} {s0 : State} {lost : List ℕ} {k : BandKey} {s : State} (hk : Keeps pm s0 s) (hm : Sub 0x1000 pm := by first | with_reducible assumption | (refine Sub.of ?_ (by with_reducible assumption); with_unfolding_all rfl)) :
    Keeps pm s0 (holdBand lost k s) := by
  unfold holdBand
  try dsimp only
  repeat' first
    | with_reducible assumption
    | (with_reducible intro t; intros)
    | with_reducible refine foldl_keeps ?_ ?_
    | with_reducible refine modBand_keeps ?_ 
    | with_reducible refine keeps_ite ?_ ?_
    | split
    | with_reducible refine Keeps.upd rfl rfl rfl rfl rfl rfl ?_

theorem relook_keeps {pm : Nat} {s0 : State} {b : BlockKey} {s : State} (hk : Keeps pm s0 s) (hm : Sub 0x20000 pm := by first | with_reducible assumption | (refine Sub.of ?_ (by with_reducible assumption); with_unfolding_all rfl)) :
    Keeps pm s0 (relook b s) := by
  unfold relook
  try dsimp only
  repeat' first
    | with_reducible assumption
    | (with_reducible intro t; intros)
    | with_reducible refine foldl_keeps ?_ ?_
    | with_reducible refine keeps_ite ?_ ?_
    | split
    | with_reducible refine Keeps.upd rfl rfl rfl rfl rfl rfl ?_

theorem poisonLine_keeps {pm : Nat} {s0 : State} {l : Line} {s : State} (hk : Keeps pm s0 s) (hm : Sub 0x102fc40 pm := by first | with_reducible assumption | (refine Sub.of ?_ (by with_reducible assumption); with_unfolding_all rfl)) :
    Keeps pm s0 (poisonLine l s) := by
  unfold poisonLine
  try dsimp only
  repeat' first
    | with_reducible assumption
    | (with_reducible intro t; intros)
    | with_reducible refine foldl_keeps ?_ ?_
    | with_reducible refine dropLines_keeps ?_ 
    | with_reducible refine endUnacked_keeps ?_ 
    | with_reducible refine mapLines_keeps ?_ 
    | with_reducible refine relook_keeps ?_ 
    | with_reducible refine keeps_ite ?_ ?_
    | split
    | with_reducible refine Keeps.upd rfl rfl rfl rfl rfl rfl ?_

theorem poisonAt_keeps {pm : Nat} {s0 : State} {i : ℕ} {s : State} (hk : Keeps pm s0 s) (hm : Sub 0x102fc40 pm := by first | with_reducible assumption | (refine Sub.of ?_ (by with_reducible assumption); with_unfolding_all rfl)) :
    Keeps pm s0 (poisonAt i s) := by
  unfold poisonAt
  try dsimp only
  repeat' first
    | with_reducible assumption
    | (with_reducible intro t; intros)
    | with_reducible refine foldl_keeps ?_ ?_
    | with_reducible refine poisonLine_keeps ?_ 
    | with_reducible refine keeps_ite ?_ ?_
    | split
    | with_reducible refine Keeps.upd rfl rfl rfl rfl rfl rfl ?_

theorem regionError_keeps {pm : Nat} {s0 : State} {a : ℕ} {requester : ℕ} {s : State} (hk : Keeps pm s0 s) (hm : Sub 0x16eff41 pm := by first | with_reducible assumption | (refine Sub.of ?_ (by with_reducible assumption); with_unfolding_all rfl)) :
    Keeps pm s0 (regionError a requester s) := by
  unfold regionError
  try dsimp only
  repeat' first
    | with_reducible assumption
    | (with_reducible intro t; intros)
    | with_reducible refine foldl_keeps ?_ ?_
    | with_reducible refine endUnacked_keeps ?_ 
    | with_reducible refine mgmtPlaneRestart_keeps ?_ 
    | with_reducible refine dataPlaneRestart_keeps ?_ 
    | with_reducible refine holdBand_keeps ?_ 
    | with_reducible refine poisonLine_keeps ?_ 
    | with_reducible refine poisonAt_keeps ?_ 
    | with_reducible refine id_keeps ?_
    | with_reducible refine elim_keeps ?_ ?_
    | with_reducible refine keeps_ite ?_ ?_
    | split
    | with_reducible refine Keeps.upd rfl rfl rfl rfl rfl rfl ?_

theorem tableCorrection_keeps {pm : Nat} {s0 : State} {word : ℕ} {sym : ℕ} {value : Byte} {scrub : Bool} {s : State} (hk : Keeps pm s0 s) (hm : Sub 0x10000 pm := by first | with_reducible assumption | (refine Sub.of ?_ (by with_reducible assumption); with_unfolding_all rfl)) :
    Keeps pm s0 (tableCorrection word sym value scrub s) := by
  unfold tableCorrection
  try dsimp only
  repeat' first
    | with_reducible assumption
    | (with_reducible intro t; intros)
    | with_reducible refine foldl_keeps ?_ ?_
    | with_reducible refine keeps_ite ?_ ?_
    | split
    | with_reducible refine Keeps.upd rfl rfl rfl rfl rfl rfl ?_

theorem noteCorrection_keeps {pm : Nat} {s0 : State} {c : Fin 4} {row : ℕ} {sym : ℕ} {value : Byte} {scrub : Bool} {s : State} (hk : Keeps pm s0 s) (hm : Sub 0x1050000 pm := by first | with_reducible assumption | (refine Sub.of ?_ (by with_reducible assumption); with_unfolding_all rfl)) :
    Keeps pm s0 (noteCorrection c row sym value scrub s) := by
  unfold noteCorrection
  try dsimp only
  repeat' first
    | with_reducible assumption
    | (with_reducible intro t; intros)
    | with_reducible refine foldl_keeps ?_ ?_
    | with_reducible refine transientFault_keeps ?_ 
    | with_reducible refine modBms_keeps ?_ (by intro b h; first | exact h | (simpa using h))
    | with_reducible refine tableCorrection_keeps ?_ 
    | with_reducible refine keeps_ite ?_ ?_
    | split
    | with_reducible refine Keeps.upd rfl rfl rfl rfl rfl rfl ?_

theorem queueRepair_keeps {pm : Nat} {s0 : State} {c : Fin 4} {row : BitVec 22} {w : BufWord} {s : State} (hk : Keeps pm s0 s) (hm : Sub 0x10000 pm := by first | with_reducible assumption | (refine Sub.of ?_ (by with_reducible assumption); with_unfolding_all rfl)) :
    Keeps pm s0 (queueRepair c row w s) := by
  unfold queueRepair
  try dsimp only
  repeat' first
    | with_reducible assumption
    | (with_reducible intro t; intros)
    | with_reducible refine foldl_keeps ?_ ?_
    | with_reducible refine modBms_keeps ?_ (by intro b h; first | exact h | (simpa using h))
    | with_reducible refine keeps_ite ?_ ?_
    | split
    | with_reducible refine Keeps.upd rfl rfl rfl rfl rfl rfl ?_

theorem noteUncorrectable_keeps {pm : Nat} {s0 : State} {c : Fin 4} {row : BitVec 22} {data : BitVec 256} {s : State} (hk : Keeps pm s0 s) (hm : Sub 0x1050000 pm := by first | with_reducible assumption | (refine Sub.of ?_ (by with_reducible assumption); with_unfolding_all rfl)) :
    Keeps pm s0 (noteUncorrectable c row data s) := by
  unfold noteUncorrectable
  try dsimp only
  repeat' first
    | with_reducible assumption
    | (with_reducible intro t; intros)
    | with_reducible refine foldl_keeps ?_ ?_
    | with_reducible refine transientFault_keeps ?_ 
    | with_reducible refine modBms_keeps ?_ (by intro b h; first | exact h | (simpa using h))
    | with_reducible refine keeps_ite ?_ ?_
    | split
    | with_reducible refine Keeps.upd rfl rfl rfl rfl rfl rfl ?_

theorem readWord_keeps {pm : Nat} {s0 : State} {c : Fin 4} {row : BitVec 22} {word : BufWord} {requester : ℕ} {repair : Bool} {noise : BufWord} {s : State} (hk : Keeps pm s0 s) (hm : Sub 0x16fff41 pm := by first | with_reducible assumption | (refine Sub.of ?_ (by with_reducible assumption); with_unfolding_all rfl)) :
    Keeps pm s0 (readWord c row word requester repair noise s).2 := by
  unfold readWord
  try dsimp only
  repeat' first
    | with_reducible assumption
    | (with_reducible intro t; intros)
    | with_reducible refine foldl_keeps ?_ ?_
    | with_reducible refine modBms_keeps ?_ (by intro b h; first | exact h | (simpa using h))
    | with_reducible refine regionError_keeps ?_ 
    | with_reducible refine noteCorrection_keeps ?_ 
    | with_reducible refine queueRepair_keeps ?_ 
    | with_reducible refine noteUncorrectable_keeps ?_ 
    | with_reducible refine keeps_ite ?_ ?_
    | split
    | with_reducible refine Keeps.upd rfl rfl rfl rfl rfl rfl ?_
theorem readWord_keepsP {pm : Nat} {s0 : State} {c : Fin 4} {row : BitVec 22} {word : BufWord} {requester : ℕ} {repair : Bool} {noise : BufWord} {s : State} (hk : Keeps pm s0 s) {ra} {rb : State} (e : (readWord c row word requester repair noise s) = (ra, rb)) (hm : Sub 0x16fff41 pm := by first | with_reducible assumption | (refine Sub.of ?_ (by with_reducible assumption); with_unfolding_all rfl)) :
    Keeps pm s0 rb := by
  have := readWord_keeps (s0 := s0) (c := c) (row := row) (word := word) (requester := requester) (repair := repair) (noise := noise) (s := s) hk
  rw [e] at this
  exact this

theorem writeWord_keeps {pm : Nat} {s0 : State} {c : Fin 4} {r : BufReq} {noise : BufWord} {s : State} (hk : Keeps pm s0 s) (hm : Sub 0x16fff41 pm := by first | with_reducible assumption | (refine Sub.of ?_ (by with_reducible assumption); with_unfolding_all rfl)) :
    Keeps pm s0 (writeWord c r noise s) := by
  unfold writeWord
  try dsimp only
  repeat' first
    | with_reducible assumption
    | (with_reducible intro t; intros)
    | with_reducible refine foldl_keeps ?_ ?_
    | with_reducible refine modBms_keeps ?_ (by intro b h; first | exact h | (simpa using h))
    | with_reducible refine storeWord_keeps ?_ 
    | with_reducible refine readWord_keeps ?_ 
    | with_reducible refine readWord_keepsP ?_  (by assumption)
    | with_reducible refine keeps_ite ?_ ?_
    | split
    | with_reducible refine Keeps.upd rfl rfl rfl rfl rfl rfl ?_

theorem repairWord_keeps {pm : Nat} {s0 : State} {c : Fin 4} {row : BitVec 22} {w : BufWord} {s : State} (hk : Keeps pm s0 s) (hm : Sub 0x10000 pm := by first | with_reducible assumption | (refine Sub.of ?_ (by with_reducible assumption); with_unfolding_all rfl)) :
    Keeps pm s0 (repairWord c row w s) := by
  unfold repairWord
  try dsimp only
  repeat' first
    | with_reducible assumption
    | (with_reducible intro t; intros)
    | with_reducible refine foldl_keeps ?_ ?_
    | with_reducible refine storeWord_keeps ?_ 
    | with_reducible refine keeps_ite ?_ ?_
    | split
    | with_reducible refine Keeps.upd rfl rfl rfl rfl rfl rfl ?_

theorem scrubNext_keeps {pm : Nat} {s0 : State} {c : Fin 4} {s : State} (hk : Keeps pm s0 s) (hm : Sub 0x10040 pm := by first | with_reducible assumption | (refine Sub.of ?_ (by with_reducible assumption); with_unfolding_all rfl)) :
    Keeps pm s0 (scrubNext c s) := by
  unfold scrubNext
  dsimp only
  have h := modBms_keeps (c := c) (f := fun b => { b with scrubRow := b.scrubRow + 1, scrubSlot := some b.readPort.slot }) hk
    (fun b h => h)
  generalize modBms c (fun b => { b with scrubRow := b.scrubRow + 1, scrubSlot := some b.readPort.slot }) s = t at h ⊢
  split
  · exact h
  · split
    · split
      · exact Keeps.upd rfl rfl rfl rfl rfl rfl h
      · refine ⟨h.1, fun w d => ?_, h.2.2.1, keeps_parts h.2.2.2 (fun p => ?_)⟩
        · have := h.2.1 w d
          simpa using this
        · cases p <;> first | (refine Or.inl (Sub.has hm ?_); with_unfolding_all rfl) | with_reducible exact Or.inr rfl
    · split
      · exact Keeps.upd rfl rfl rfl rfl rfl rfl h
      · refine ⟨h.1, fun w d => ?_, h.2.2.1, keeps_parts h.2.2.2 (fun p => ?_)⟩
        · have := h.2.1 w d
          simpa using this
        · cases p <;> first | (refine Or.inl (Sub.has hm ?_); with_unfolding_all rfl) | with_reducible exact Or.inr rfl

theorem performGrant_keeps {pm : Nat} {s0 : State} {c : Fin 4} {write : Bool} {noise : BufWord} {g : Grant} {s : State} (hk : Keeps pm s0 s) (hm : Sub 0x16fff41 pm := by first | with_reducible assumption | (refine Sub.of ?_ (by with_reducible assumption); with_unfolding_all rfl)) :
    Keeps pm s0 (performGrant c write noise g s) := by
  unfold performGrant
  try dsimp only
  repeat' first
    | with_reducible assumption
    | (with_reducible intro t; intros)
    | with_reducible refine foldl_keeps ?_ ?_
    | with_reducible refine modBms_keeps ?_ (by intro b h; first | exact h | (simpa using h))
    | with_reducible refine storeWord_keeps ?_ 
    | with_reducible refine readWord_keeps ?_ 
    | with_reducible refine readWord_keepsP ?_  (by assumption)
    | with_reducible refine writeWord_keeps ?_ 
    | with_reducible refine repairWord_keeps ?_ 
    | with_reducible refine scrubNext_keeps ?_ 
    | with_reducible refine keeps_ite ?_ ?_
    | split
    | with_reducible refine Keeps.upd rfl rfl rfl rfl rfl rfl ?_

theorem execBufferSlotGrant_keeps {pm : Nat} {s0 : State} {c : Fin 4} {writePort : Bool} {arrivals : List BufReq} {noise : BufWord} {s : State} (hk : Keeps pm s0 s) {rb : State} (e : (execBufferSlotGrant c writePort arrivals noise s) = .next rb) (hm : Sub 0x16fff41 pm := by first | with_reducible assumption | (refine Sub.of ?_ (by with_reducible assumption); with_unfolding_all rfl)) :
    Keeps pm s0 rb := by
  unfold execBufferSlotGrant at e
  repeat' first
    | (injection e with e; subst e)
    | (cases e; done)
    | split at e
  all_goals try dsimp only
  all_goals repeat' first
    | with_reducible assumption
    | (with_reducible intro t; intros)
    | with_reducible refine foldl_keeps ?_ ?_
    | with_reducible refine modBms_keeps ?_ (by intro b h; first | exact h | (simpa using h))
    | with_reducible refine performGrant_keeps ?_ 
    | with_reducible refine keeps_ite ?_ ?_
    | split
    | with_reducible refine Keeps.upd rfl rfl rfl rfl rfl rfl ?_

theorem execRepairWriteDrop_keeps {pm : Nat} {s0 : State} {c : Fin 4} {s : State} (hk : Keeps pm s0 s) {rb : State} (e : (execRepairWriteDrop c s) = .next rb) (hm : Sub 0x10000 pm := by first | with_reducible assumption | (refine Sub.of ?_ (by with_reducible assumption); with_unfolding_all rfl)) :
    Keeps pm s0 rb := by
  unfold execRepairWriteDrop at e
  repeat' first
    | (injection e with e; subst e)
    | (cases e; done)
    | split at e
  all_goals try dsimp only
  all_goals repeat' first
    | with_reducible assumption
    | (with_reducible intro t; intros)
    | with_reducible refine foldl_keeps ?_ ?_
    | with_reducible refine modBms_keeps ?_ (by intro b h; first | exact h | (simpa using h))
    | with_reducible refine keeps_ite ?_ ?_
    | split
    | with_reducible refine Keeps.upd rfl rfl rfl rfl rfl rfl ?_

theorem rewriteMeta_keeps {pm : Nat} {s0 : State} {k : BandKey} {s : State} (hk : Keeps pm s0 s) (hm : Sub 0x10000 pm := by first | with_reducible assumption | (refine Sub.of ?_ (by with_reducible assumption); with_unfolding_all rfl)) :
    Keeps pm s0 (rewriteMeta k s) := by
  unfold rewriteMeta
  exact foldl_keeps hk (fun t c ht => modBms_keeps ht (fun b h => filter_wf h))

theorem settleZone_keeps {pm : Nat} {s0 : State} {k : BandKey} {s : State} (hk : Keeps pm s0 s) (hm : Sub 0x1000 pm := by first | with_reducible assumption | (refine Sub.of ?_ (by with_reducible assumption); with_unfolding_all rfl)) :
    Keeps pm s0 (settleZone k s) := by
  unfold settleZone
  try dsimp only
  repeat' first
    | with_reducible assumption
    | (with_reducible intro t; intros)
    | with_reducible refine foldl_keeps ?_ ?_
    | with_reducible refine setZoneState_keeps ?_ 
    | with_reducible refine keeps_ite ?_ ?_
    | split
    | with_reducible refine Keeps.upd rfl rfl rfl rfl rfl rfl ?_

theorem loseExtents_keeps {pm : Nat} {s0 : State} {k : BandKey} {journal : BandRec} {words : List ℕ} {s : State} (hk : Keeps pm s0 s) (hm : Sub 0x1083c00 pm := by first | with_reducible assumption | (refine Sub.of ?_ (by with_reducible assumption); with_unfolding_all rfl)) :
    Keeps pm s0 (loseExtents k journal words s) := by
  unfold loseExtents
  try dsimp only
  repeat' first
    | with_reducible assumption
    | (with_reducible intro t; intros)
    | with_reducible refine foldl_keeps ?_ ?_
    | with_reducible refine markLost_keeps ?_ 
    | with_reducible refine keeps_ite ?_ ?_
    | split
    | with_reducible refine Keeps.upd rfl rfl rfl rfl rfl rfl ?_

theorem rebuildBand_keeps {pm : Nat} {s0 : State} {k : BandKey} {journalOk : Bool} {mediaRun : ℕ} {s : State} (hk : Keeps pm s0 s) (hm : Sub 0x10f3c00 pm := by first | with_reducible assumption | (refine Sub.of ?_ (by with_reducible assumption); with_unfolding_all rfl)) :
    Keeps pm s0 (rebuildBand k journalOk mediaRun s) := by
  unfold rebuildBand
  try dsimp only
  repeat' first
    | with_reducible assumption
    | (with_reducible intro t; intros)
    | with_reducible refine foldl_keeps ?_ ?_
    | with_reducible refine setBand_keeps ?_ 
    | with_reducible refine modBand_keeps ?_ 
    | with_reducible refine noteWarning_keeps ?_ 
    | with_reducible refine offlineZone_keeps ?_ 
    | with_reducible refine rewriteMeta_keeps ?_ 
    | with_reducible refine settleZone_keeps ?_ 
    | with_reducible refine loseExtents_keeps ?_ 
    | with_reducible refine keeps_ite ?_ ?_
    | split
    | with_reducible refine Keeps.upd rfl rfl rfl rfl rfl rfl ?_

theorem execRebuildDone_keeps {pm : Nat} {s0 : State} {h : HeadId} {band : ℕ} {journalOk : Bool} {mediaRun : ℕ} {s : State} (hk : Keeps pm s0 s) {rb : State} (e : (execRebuildDone h band journalOk mediaRun s) = .next rb) (hm : Sub 0x50ffe69 pm := by first | with_reducible assumption | (refine Sub.of ?_ (by with_reducible assumption); with_unfolding_all rfl)) :
    Keeps pm s0 rb := by
  unfold execRebuildDone at e
  repeat' first
    | (injection e with e; subst e)
    | (cases e; done)
    | split at e
  all_goals try dsimp only
  all_goals repeat' first
    | with_reducible assumption
    | (with_reducible intro t; intros)
    | with_reducible refine foldl_keeps ?_ ?_
    | with_reducible refine progress_keeps ?_ 
    | with_reducible refine ifLive_keeps ?_ ?_ 
    | with_reducible refine rebuildBand_keeps ?_ 
    | with_reducible refine keeps_ite ?_ ?_
    | split
    | with_reducible refine Keeps.upd rfl rfl rfl rfl rfl rfl ?_

theorem execScrubLapWarn_keeps {pm : Nat} {s0 : State} {c : Fin 4} {s : State} (hk : Keeps pm s0 s) {rb : State} (e : (execScrubLapWarn c s) = .next rb) (hm : Sub 0x1010000 pm := by first | with_reducible assumption | (refine Sub.of ?_ (by with_reducible assumption); with_unfolding_all rfl)) :
    Keeps pm s0 rb := by
  unfold execScrubLapWarn at e
  repeat' first
    | (injection e with e; subst e)
    | (cases e; done)
    | split at e
  all_goals try dsimp only
  all_goals repeat' first
    | with_reducible assumption
    | (with_reducible intro t; intros)
    | with_reducible refine foldl_keeps ?_ ?_
    | with_reducible refine raise_keeps ?_ 
    | with_reducible refine modBms_keeps ?_ (by intro b h; first | exact h | (simpa using h))
    | with_reducible refine ifLive_keeps ?_ ?_ 
    | with_reducible refine keeps_ite ?_ ?_
    | split
    | with_reducible refine Keeps.upd rfl rfl rfl rfl rfl rfl ?_

end Sys2Proof.Machine
end

