-- ==== Sys2Proof/Laws/Frame14.lean ====
section
/-! SUPPORT. What each operation keeps (see Keeps), in the order in which operations call each other: execScrubEnableWrite to execObjectWrite. -/

set_option linter.unusedTactic false
set_option linter.unreachableTactic false
set_option Elab.async false

namespace Sys2Proof.Machine

theorem execScrubEnableWrite_keeps {pm : Nat} {s0 : State} {p : Path} {v : Byte} {s : State} (hk : Keeps pm s0 s) {rb : State} (e : (execScrubEnableWrite p v s) = .next rb) (hm : Sub 0xbff5e40 pm := by first | with_reducible assumption | (refine Sub.of ?_ (by with_reducible assumption); with_unfolding_all rfl)) :
    Keeps pm s0 rb := by
  unfold execScrubEnableWrite at e
  repeat' first
    | (injection e with e; subst e)
    | (cases e; done)
    | split at e
  all_goals try dsimp only
  all_goals repeat' first
    | with_reducible assumption
    | (with_reducible intro t; intros)
    | with_reducible refine foldl_keeps ?_ ?_
    | with_reducible refine objectAccess_keeps ?_ 
    | with_reducible refine keeps_ite ?_ ?_
    | split
    | with_reducible refine Keeps.upd rfl rfl rfl rfl rfl rfl ?_

theorem execCeTableClear_keeps {pm : Nat} {s0 : State} {p : Path} {v : Byte} {s : State} (hk : Keeps pm s0 s) {rb : State} (e : (execCeTableClear p v s) = .next rb) (hm : Sub 0xbff5e40 pm := by first | with_reducible assumption | (refine Sub.of ?_ (by with_reducible assumption); with_unfolding_all rfl)) :
    Keeps pm s0 rb := by
  unfold execCeTableClear at e
  repeat' first
    | (injection e with e; subst e)
    | (cases e; done)
    | split at e
  all_goals try dsimp only
  all_goals repeat' first
    | with_reducible assumption
    | (with_reducible intro t; intros)
    | with_reducible refine foldl_keeps ?_ ?_
    | with_reducible refine objectAccess_keeps ?_ 
    | with_reducible refine keeps_ite ?_ ?_
    | split
    | with_reducible refine Keeps.upd rfl rfl rfl rfl rfl rfl ?_

theorem objectRead_keeps {pm : Nat} {s0 : State} {p : Path} {index : ℕ} {sub : ℕ} {limit : ℕ} {s : State} (hk : Keeps pm s0 s) (hm : Sub 0xc90040 pm := by first | with_reducible assumption | (refine Sub.of ?_ (by with_reducible assumption); with_unfolding_all rfl)) :
    Keeps pm s0 (objectRead p index sub limit s) := by
  unfold objectRead
  try dsimp only
  repeat' first
    | with_reducible assumption
    | (with_reducible intro t; intros)
    | with_reducible refine foldl_keeps ?_ ?_
    | with_reducible refine dictRead_keeps ?_ 
    | with_reducible refine showAnswer_keeps ?_ 
    | with_reducible refine keeps_ite ?_ ?_
    | split
    | with_reducible refine Keeps.upd rfl rfl rfl rfl rfl rfl ?_

theorem execWaitMaxRead_keeps {pm : Nat} {s0 : State} {p : Path} {c : Fin 4} {s : State} (hk : Keeps pm s0 s) {rb : State} (e : (execWaitMaxRead p c s) = .next rb) (hm : Sub 0xc90040 pm := by first | with_reducible assumption | (refine Sub.of ?_ (by with_reducible assumption); with_unfolding_all rfl)) :
    Keeps pm s0 rb := by
  unfold execWaitMaxRead at e
  repeat' first
    | (injection e with e; subst e)
    | (cases e; done)
    | split at e
  all_goals try dsimp only
  all_goals repeat' first
    | with_reducible assumption
    | (with_reducible intro t; intros)
    | with_reducible refine foldl_keeps ?_ ?_
    | with_reducible refine objectRead_keeps ?_ 
    | with_reducible refine keeps_ite ?_ ?_
    | split
    | with_reducible refine Keeps.upd rfl rfl rfl rfl rfl rfl ?_

theorem execDelayMaxRead_keeps {pm : Nat} {s0 : State} {p : Path} {n : ChanId} {s : State} (hk : Keeps pm s0 s) {rb : State} (e : (execDelayMaxRead p n s) = .next rb) (hm : Sub 0xc90040 pm := by first | with_reducible assumption | (refine Sub.of ?_ (by with_reducible assumption); with_unfolding_all rfl)) :
    Keeps pm s0 rb := by
  unfold execDelayMaxRead at e
  repeat' first
    | (injection e with e; subst e)
    | (cases e; done)
    | split at e
  all_goals try dsimp only
  all_goals repeat' first
    | with_reducible assumption
    | (with_reducible intro t; intros)
    | with_reducible refine foldl_keeps ?_ ?_
    | with_reducible refine objectRead_keeps ?_ 
    | with_reducible refine keeps_ite ?_ ?_
    | split
    | with_reducible refine Keeps.upd rfl rfl rfl rfl rfl rfl ?_

theorem execMissWaitMaxRead_keeps {pm : Nat} {s0 : State} {p : Path} {s : State} (hk : Keeps pm s0 s) {rb : State} (e : (execMissWaitMaxRead p s) = .next rb) (hm : Sub 0xc90040 pm := by first | with_reducible assumption | (refine Sub.of ?_ (by with_reducible assumption); with_unfolding_all rfl)) :
    Keeps pm s0 rb := by
  unfold execMissWaitMaxRead at e
  repeat' first
    | (injection e with e; subst e)
    | (cases e; done)
    | split at e
  all_goals try dsimp only
  all_goals repeat' first
    | with_reducible assumption
    | (with_reducible intro t; intros)
    | with_reducible refine foldl_keeps ?_ ?_
    | with_reducible refine objectRead_keeps ?_ 
    | with_reducible refine keeps_ite ?_ ?_
    | split
    | with_reducible refine Keeps.upd rfl rfl rfl rfl rfl rfl ?_

theorem execCacheModeWrite_keeps {pm : Nat} {s0 : State} {p : Path} {v : Byte} {s : State} (hk : Keeps pm s0 s) {rb : State} (e : (execCacheModeWrite p v s) = .next rb) (hm : Sub 0xbff5e40 pm := by first | with_reducible assumption | (refine Sub.of ?_ (by with_reducible assumption); with_unfolding_all rfl)) :
    Keeps pm s0 rb := by
  unfold execCacheModeWrite at e
  repeat' first
    | (injection e with e; subst e)
    | (cases e; done)
    | split at e
  all_goals try dsimp only
  all_goals repeat' first
    | with_reducible assumption
    | (with_reducible intro t; intros)
    | with_reducible refine foldl_keeps ?_ ?_
    | with_reducible refine objectAccess_keeps ?_ 
    | with_reducible refine keeps_ite ?_ ?_
    | split
    | with_reducible refine Keeps.upd rfl rfl rfl rfl rfl rfl ?_

theorem execDirtyLimitWrite_keeps {pm : Nat} {s0 : State} {p : Path} {v : Word16} {s : State} (hk : Keeps pm s0 s) {rb : State} (e : (execDirtyLimitWrite p v s) = .next rb) (hm : Sub 0xbff5e40 pm := by first | with_reducible assumption | (refine Sub.of ?_ (by with_reducible assumption); with_unfolding_all rfl)) :
    Keeps pm s0 rb := by
  unfold execDirtyLimitWrite at e
  repeat' first
    | (injection e with e; subst e)
    | (cases e; done)
    | split at e
  all_goals try dsimp only
  all_goals repeat' first
    | with_reducible assumption
    | (with_reducible intro t; intros)
    | with_reducible refine foldl_keeps ?_ ?_
    | with_reducible refine objectAccess_keeps ?_ 
    | with_reducible refine keeps_ite ?_ ?_
    | split
    | with_reducible refine Keeps.upd rfl rfl rfl rfl rfl rfl ?_

theorem execAllocWaitExpired_keeps {pm : Nat} {s0 : State} {q : Fin 6400} {s : State} (hk : Keeps pm s0 s) {rb : State} (e : (execAllocWaitExpired q s) = .next rb) (hm : Sub 0x50efe69 pm := by first | with_reducible assumption | (refine Sub.of ?_ (by with_reducible assumption); with_unfolding_all rfl)) :
    Keeps pm s0 rb := by
  unfold execAllocWaitExpired at e
  repeat' first
    | (injection e with e; subst e)
    | (cases e; done)
    | split at e
  all_goals try dsimp only
  all_goals repeat' first
    | with_reducible assumption
    | (with_reducible intro t; intros)
    | with_reducible refine foldl_keeps ?_ ?_
    | with_reducible refine progress_keeps ?_ 
    | with_reducible refine keeps_ite ?_ ?_
    | split
    | with_reducible refine Keeps.upd rfl rfl rfl rfl rfl rfl ?_

theorem execCaptureDataRead_keeps {pm : Nat} {s0 : State} {p : Path} {maxBytes : ℕ} {s : State} (hk : Keeps pm s0 s) {rb : State} (e : (execCaptureDataRead p maxBytes s) = .next rb) (hm : Sub 0xc90040 pm := by first | with_reducible assumption | (refine Sub.of ?_ (by with_reducible assumption); with_unfolding_all rfl)) :
    Keeps pm s0 rb := by
  unfold execCaptureDataRead at e
  repeat' first
    | (injection e with e; subst e)
    | (cases e; done)
    | split at e
  all_goals try dsimp only
  all_goals repeat' first
    | with_reducible assumption
    | (with_reducible intro t; intros)
    | with_reducible refine foldl_keeps ?_ ?_
    | with_reducible refine objectRead_keeps ?_ 
    | with_reducible refine keeps_ite ?_ ?_
    | split
    | with_reducible refine Keeps.upd rfl rfl rfl rfl rfl rfl ?_

theorem execCaptureCtrlWrite_keeps {pm : Nat} {s0 : State} {p : Path} {v : Byte} {s : State} (hk : Keeps pm s0 s) {rb : State} (e : (execCaptureCtrlWrite p v s) = .next rb) (hm : Sub 0xbff5e40 pm := by first | with_reducible assumption | (refine Sub.of ?_ (by with_reducible assumption); with_unfolding_all rfl)) :
    Keeps pm s0 rb := by
  unfold execCaptureCtrlWrite at e
  repeat' first
    | (injection e with e; subst e)
    | (cases e; done)
    | split at e
  all_goals try dsimp only
  all_goals repeat' first
    | with_reducible assumption
    | (with_reducible intro t; intros)
    | with_reducible refine foldl_keeps ?_ ?_
    | with_reducible refine objectAccess_keeps ?_ 
    | with_reducible refine keeps_ite ?_ ?_
    | split
    | with_reducible refine Keeps.upd rfl rfl rfl rfl rfl rfl ?_

theorem execCaptureDecimWrite_keeps {pm : Nat} {s0 : State} {p : Path} {v : Byte} {s : State} (hk : Keeps pm s0 s) {rb : State} (e : (execCaptureDecimWrite p v s) = .next rb) (hm : Sub 0xbff5e40 pm := by first | with_reducible assumption | (refine Sub.of ?_ (by with_reducible assumption); with_unfolding_all rfl)) :
    Keeps pm s0 rb := by
  unfold execCaptureDecimWrite at e
  repeat' first
    | (injection e with e; subst e)
    | (cases e; done)
    | split at e
  all_goals try dsimp only
  all_goals repeat' first
    | with_reducible assumption
    | (with_reducible intro t; intros)
    | with_reducible refine foldl_keeps ?_ ?_
    | with_reducible refine objectAccess_keeps ?_ 
    | with_reducible refine keeps_ite ?_ ?_
    | split
    | with_reducible refine Keeps.upd rfl rfl rfl rfl rfl rfl ?_

theorem execMemExceptionDataPlane_keeps {pm : Nat} {s0 : State} {s : State} (hk : Keeps pm s0 s) {rb : State} (e : (execMemExceptionDataPlane s) = .next rb) (hm : Sub 0x106fc41 pm := by first | with_reducible assumption | (refine Sub.of ?_ (by with_reducible assumption); with_unfolding_all rfl)) :
    Keeps pm s0 rb := by
  unfold execMemExceptionDataPlane at e
  repeat' first
    | (injection e with e; subst e)
    | (cases e; done)
    | split at e
  all_goals try dsimp only
  all_goals repeat' first
    | with_reducible assumption
    | (with_reducible intro t; intros)
    | with_reducible refine foldl_keeps ?_ ?_
    | with_reducible refine dataPlaneRestart_keeps ?_ 
    | with_reducible refine ifLive_keeps ?_ ?_ 
    | with_reducible refine keeps_ite ?_ ?_
    | split
    | with_reducible refine Keeps.upd rfl rfl rfl rfl rfl rfl ?_

theorem execMemExceptionMgmtPlane_keeps {pm : Nat} {s0 : State} {s : State} (hk : Keeps pm s0 s) {rb : State} (e : (execMemExceptionMgmtPlane s) = .next rb) (hm : Sub 0x16eff41 pm := by first | with_reducible assumption | (refine Sub.of ?_ (by with_reducible assumption); with_unfolding_all rfl)) :
    Keeps pm s0 rb := by
  unfold execMemExceptionMgmtPlane at e
  repeat' first
    | (injection e with e; subst e)
    | (cases e; done)
    | split at e
  all_goals try dsimp only
  all_goals repeat' first
    | with_reducible assumption
    | (with_reducible intro t; intros)
    | with_reducible refine foldl_keeps ?_ ?_
    | with_reducible refine mgmtPlaneRestart_keeps ?_ 
    | with_reducible refine ifLive_keeps ?_ ?_ 
    | with_reducible refine keeps_ite ?_ ?_
    | split
    | with_reducible refine Keeps.upd rfl rfl rfl rfl rfl rfl ?_

theorem execRetireReqWrite_keeps {pm : Nat} {s0 : State} {p : Path} {v : Word16} {s : State} (hk : Keeps pm s0 s) {rb : State} (e : (execRetireReqWrite p v s) = .next rb) (hm : Sub 0xbff5e40 pm := by first | with_reducible assumption | (refine Sub.of ?_ (by with_reducible assumption); with_unfolding_all rfl)) :
    Keeps pm s0 rb := by
  unfold execRetireReqWrite at e
  repeat' first
    | (injection e with e; subst e)
    | (cases e; done)
    | split at e
  all_goals try dsimp only
  all_goals repeat' first
    | with_reducible assumption
    | (with_reducible intro t; intros)
    | with_reducible refine foldl_keeps ?_ ?_
    | with_reducible refine objectAccess_keeps ?_ 
    | with_reducible refine keeps_ite ?_ ?_
    | split
    | with_reducible refine Keeps.upd rfl rfl rfl rfl rfl rfl ?_

theorem execUnretireWrite_keeps {pm : Nat} {s0 : State} {p : Path} {v : Byte} {s : State} (hk : Keeps pm s0 s) {rb : State} (e : (execUnretireWrite p v s) = .next rb) (hm : Sub 0xbff5e40 pm := by first | with_reducible assumption | (refine Sub.of ?_ (by with_reducible assumption); with_unfolding_all rfl)) :
    Keeps pm s0 rb := by
  unfold execUnretireWrite at e
  repeat' first
    | (injection e with e; subst e)
    | (cases e; done)
    | split at e
  all_goals try dsimp only
  all_goals repeat' first
    | with_reducible assumption
    | (with_reducible intro t; intros)
    | with_reducible refine foldl_keeps ?_ ?_
    | with_reducible refine objectAccess_keeps ?_ 
    | with_reducible refine keeps_ite ?_ ?_
    | split
    | with_reducible refine Keeps.upd rfl rfl rfl rfl rfl rfl ?_

theorem journalLands_keeps {pm : Nat} {s0 : State} {s : State} (hk : Keeps pm s0 s) (hm : Sub 0x80000 pm := by first | with_reducible assumption | (refine Sub.of ?_ (by with_reducible assumption); with_unfolding_all rfl)) :
    Keeps pm s0 (journalLands s) := by
  unfold journalLands
  try dsimp only
  repeat' first
    | with_reducible assumption
    | (with_reducible intro t; intros)
    | with_reducible refine foldl_keeps ?_ ?_
    | with_reducible refine keeps_ite ?_ ?_
    | split
    | with_reducible refine Keeps.upd rfl rfl rfl rfl rfl rfl ?_

theorem vaultStepDone_keeps {pm : Nat} {s0 : State} {s : State} (hk : Keeps pm s0 s) (hm : Sub 0x80001 pm := by first | with_reducible assumption | (refine Sub.of ?_ (by with_reducible assumption); with_unfolding_all rfl)) :
    Keeps pm s0 (vaultStepDone s) := by
  unfold vaultStepDone
  try dsimp only
  repeat' first
    | with_reducible assumption
    | (with_reducible intro t; intros)
    | with_reducible refine foldl_keeps ?_ ?_
    | with_reducible refine modRegion_keeps ?_ 
    | with_reducible refine startVaultStep_keeps ?_ 
    | with_reducible refine keeps_ite ?_ ?_
    | split
    | with_reducible refine Keeps.upd rfl rfl rfl rfl rfl rfl ?_

theorem programGood_keeps {pm : Nat} {s0 : State} {die : Fin 2} {who : Partition} {pages : List NandPage} {s : State} (hk : Keeps pm s0 s) (hm : Sub 0x80001 pm := by first | with_reducible assumption | (refine Sub.of ?_ (by with_reducible assumption); with_unfolding_all rfl)) :
    Keeps pm s0 (programGood die who pages s) := by
  unfold programGood
  try dsimp only
  repeat' first
    | with_reducible assumption
    | (with_reducible intro t; intros)
    | with_reducible refine foldl_keeps ?_ ?_
    | with_reducible refine modDie_keeps ?_ 
    | with_reducible refine storePages_keeps ?_ 
    | with_reducible refine dieFree_keeps ?_ 
    | with_reducible refine oemEnds_keeps ?_ 
    | with_reducible refine journalLands_keeps ?_ 
    | with_reducible refine vaultStepDone_keeps ?_ 
    | with_reducible refine keeps_ite ?_ ?_
    | split
    | with_reducible refine Keeps.upd rfl rfl rfl rfl rfl rfl ?_

theorem programBad_keeps {pm : Nat} {s0 : State} {die : Fin 2} {who : Partition} {a : PageAddr} {pages : List NandPage} {s : State} (hk : Keeps pm s0 s) (hm : Sub 0x1080001 pm := by first | with_reducible assumption | (refine Sub.of ?_ (by with_reducible assumption); with_unfolding_all rfl)) :
    Keeps pm s0 (programBad die who a pages s) := by
  unfold programBad
  try dsimp only
  repeat' first
    | with_reducible assumption
    | (with_reducible intro t; intros)
    | with_reducible refine foldl_keeps ?_ ?_
    | with_reducible refine modDie_keeps ?_ 
    | with_reducible refine clearErased_keeps ?_ 
    | with_reducible refine growBad_keeps ?_ 
    | with_reducible refine growBad_keepsP ?_  (by assumption)
    | with_reducible refine vaultStepDone_keeps ?_ 
    | with_reducible refine keeps_ite ?_ ?_
    | split
    | with_reducible refine Keeps.upd rfl rfl rfl rfl rfl rfl ?_

theorem execNandProgramDone_keeps {pm : Nat} {s0 : State} {die : Fin 2} {pulses : ℕ} {s : State} (hk : Keeps pm s0 s) {rb : State} (e : (execNandProgramDone die pulses s) = .next rb) (hm : Sub 0x1080001 pm := by first | with_reducible assumption | (refine Sub.of ?_ (by with_reducible assumption); with_unfolding_all rfl)) :
    Keeps pm s0 rb := by
  unfold execNandProgramDone at e
  repeat' first
    | (injection e with e; subst e)
    | (cases e; done)
    | split at e
  all_goals try dsimp only
  all_goals repeat' first
    | with_reducible assumption
    | (with_reducible intro t; intros)
    | with_reducible refine foldl_keeps ?_ ?_
    | with_reducible refine programGood_keeps ?_ 
    | with_reducible refine programBad_keeps ?_ 
    | with_reducible refine keeps_ite ?_ ?_
    | split
    | with_reducible refine Keeps.upd rfl rfl rfl rfl rfl rfl ?_

theorem execNandEraseDone_keeps {pm : Nat} {s0 : State} {die : Fin 2} {pulses : ℕ} {s : State} (hk : Keeps pm s0 s) {rb : State} (e : (execNandEraseDone die pulses s) = .next rb) (hm : Sub 0x3080000 pm := by first | with_reducible assumption | (refine Sub.of ?_ (by with_reducible assumption); with_unfolding_all rfl)) :
    Keeps pm s0 rb := by
  unfold execNandEraseDone at e
  repeat' first
    | (injection e with e; subst e)
    | (cases e; done)
    | split at e
  all_goals try dsimp only
  all_goals repeat' first
    | with_reducible assumption
    | (with_reducible intro t; intros)
    | with_reducible refine foldl_keeps ?_ ?_
    | with_reducible refine eraseBad_keeps ?_ 
    | with_reducible refine eraseGood_keeps ?_ 
    | with_reducible refine keeps_ite ?_ ?_
    | split
    | with_reducible refine Keeps.upd rfl rfl rfl rfl rfl rfl ?_

theorem oemRead_keeps {pm : Nat} {s0 : State} {die : Fin 2} {a : PageAddr} {level : Option (Fin 9)} {data : List Byte} {s : State} (hk : Keeps pm s0 s) (hm : Sub 0x80000 pm := by first | with_reducible assumption | (refine Sub.of ?_ (by with_reducible assumption); with_unfolding_all rfl)) :
    Keeps pm s0 (oemRead die a level data s) := by
  unfold oemRead
  try dsimp only
  repeat' first
    | with_reducible assumption
    | (with_reducible intro t; intros)
    | with_reducible refine foldl_keeps ?_ ?_
    | with_reducible refine noteRead_keeps ?_ 
    | with_reducible refine dieFree_keeps ?_ 
    | with_reducible refine keeps_ite ?_ ?_
    | split
    | with_reducible refine Keeps.upd rfl rfl rfl rfl rfl rfl ?_

theorem execNandReadDone_keeps {pm : Nat} {s0 : State} {die : Fin 2} {errors : SegmentErrors} {data : List Byte} {s : State} (hk : Keeps pm s0 s) {rb : State} (e : (execNandReadDone die errors data s) = .next rb) (hm : Sub 0x16eff41 pm := by first | with_reducible assumption | (refine Sub.of ?_ (by with_reducible assumption); with_unfolding_all rfl)) :
    Keeps pm s0 rb := by
  unfold execNandReadDone at e
  repeat' first
    | (injection e with e; subst e)
    | (cases e; done)
    | split at e
  all_goals try dsimp only
  all_goals repeat' first
    | with_reducible assumption
    | (with_reducible intro t; intros)
    | with_reducible refine foldl_keeps ?_ ?_
    | with_reducible refine codeRead_keeps ?_ 
    | with_reducible refine oemRead_keeps ?_ 
    | with_reducible refine keeps_ite ?_ ?_
    | split
    | with_reducible refine Keeps.upd rfl rfl rfl rfl rfl rfl ?_

theorem execJournalFlushTimer_keeps {pm : Nat} {s0 : State} {s : State} (hk : Keeps pm s0 s) {rb : State} (e : (execJournalFlushTimer s) = .next rb) (hm : Sub 0x80000 pm := by first | with_reducible assumption | (refine Sub.of ?_ (by with_reducible assumption); with_unfolding_all rfl)) :
    Keeps pm s0 rb := by
  unfold execJournalFlushTimer at e
  repeat' first
    | (injection e with e; subst e)
    | (cases e; done)
    | split at e
  all_goals try dsimp only
  all_goals repeat' first
    | with_reducible assumption
    | (with_reducible intro t; intros)
    | with_reducible refine foldl_keeps ?_ ?_
    | with_reducible refine startJournal_keeps ?_ 
    | with_reducible refine ifLive_keeps ?_ ?_ 
    | with_reducible refine keeps_ite ?_ ?_
    | split
    | with_reducible refine Keeps.upd rfl rfl rfl rfl rfl rfl ?_

theorem takeCheckpoint_keeps {pm : Nat} {s0 : State} {s : State} (hk : Keeps pm s0 s) (hm : Sub 0x80000 pm := by first | with_reducible assumption | (refine Sub.of ?_ (by with_reducible assumption); with_unfolding_all rfl)) :
    Keeps pm s0 (takeCheckpoint s) := by
  unfold takeCheckpoint
  try dsimp only
  repeat' first
    | with_reducible assumption
    | (with_reducible intro t; intros)
    | with_reducible refine foldl_keeps ?_ ?_
    | with_reducible refine keeps_ite ?_ ?_
    | split
    | with_reducible refine Keeps.upd rfl rfl rfl rfl rfl rfl ?_

theorem execCheckpointTrigger_keeps {pm : Nat} {s0 : State} {s : State} (hk : Keeps pm s0 s) {rb : State} (e : (execCheckpointTrigger s) = .next rb) (hm : Sub 0x80000 pm := by first | with_reducible assumption | (refine Sub.of ?_ (by with_reducible assumption); with_unfolding_all rfl)) :
    Keeps pm s0 rb := by
  unfold execCheckpointTrigger at e
  repeat' first
    | (injection e with e; subst e)
    | (cases e; done)
    | split at e
  all_goals try dsimp only
  all_goals repeat' first
    | with_reducible assumption
    | (with_reducible intro t; intros)
    | with_reducible refine foldl_keeps ?_ ?_
    | with_reducible refine ifLive_keeps ?_ ?_ 
    | with_reducible refine takeCheckpoint_keeps ?_ 
    | with_reducible refine keeps_ite ?_ ?_
    | split
    | with_reducible refine Keeps.upd rfl rfl rfl rfl rfl rfl ?_

theorem execCodeMiss_keeps {pm : Nat} {s0 : State} {slotPage : ℕ} {die : Fin 2} {s : State} (hk : Keeps pm s0 s) {rb : State} (e : (execCodeMiss slotPage die s) = .next rb) (hm : Sub 0x80000 pm := by first | with_reducible assumption | (refine Sub.of ?_ (by with_reducible assumption); with_unfolding_all rfl)) :
    Keeps pm s0 rb := by
  unfold execCodeMiss at e
  repeat' first
    | (injection e with e; subst e)
    | (cases e; done)
    | split at e
  all_goals try dsimp only
  all_goals repeat' first
    | with_reducible assumption
    | (with_reducible intro t; intros)
    | with_reducible refine foldl_keeps ?_ ?_
    | with_reducible refine modDie_keeps ?_ 
    | with_reducible refine serveMiss_keeps ?_ 
    | with_reducible refine ifResident_keeps ?_ ?_ 
    | with_reducible refine keeps_ite ?_ ?_
    | split
    | with_reducible refine Keeps.upd rfl rfl rfl rfl rfl rfl ?_

theorem execSuspendIntervalEnd_keeps {pm : Nat} {s0 : State} {die : Fin 2} {s : State} (hk : Keeps pm s0 s) {rb : State} (e : (execSuspendIntervalEnd die s) = .next rb) (hm : Sub 0x80000 pm := by first | with_reducible assumption | (refine Sub.of ?_ (by with_reducible assumption); with_unfolding_all rfl)) :
    Keeps pm s0 rb := by
  unfold execSuspendIntervalEnd at e
  repeat' first
    | (injection e with e; subst e)
    | (cases e; done)
    | split at e
  all_goals try dsimp only
  all_goals repeat' first
    | with_reducible assumption
    | (with_reducible intro t; intros)
    | with_reducible refine foldl_keeps ?_ ?_
    | with_reducible refine modDie_keeps ?_ 
    | with_reducible refine serveMiss_keeps ?_ 
    | with_reducible refine ifLive_keeps ?_ ?_ 
    | with_reducible refine keeps_ite ?_ ?_
    | split
    | with_reducible refine Keeps.upd rfl rfl rfl rfl rfl rfl ?_

theorem execOemRead_keeps {pm : Nat} {s0 : State} {p : Path} {s : State} (hk : Keeps pm s0 s) {rb : State} (e : (execOemRead p s) = .next rb) (hm : Sub 0xbff5e40 pm := by first | with_reducible assumption | (refine Sub.of ?_ (by with_reducible assumption); with_unfolding_all rfl)) :
    Keeps pm s0 rb := by
  unfold execOemRead at e
  repeat' first
    | (injection e with e; subst e)
    | (cases e; done)
    | split at e
  all_goals try dsimp only
  all_goals repeat' first
    | with_reducible assumption
    | (with_reducible intro t; intros)
    | with_reducible refine foldl_keeps ?_ ?_
    | with_reducible refine objectAccess_keeps ?_ 
    | with_reducible refine keeps_ite ?_ ?_
    | split
    | with_reducible refine Keeps.upd rfl rfl rfl rfl rfl rfl ?_

theorem execOemProgram_keeps {pm : Nat} {s0 : State} {p : Path} {s : State} (hk : Keeps pm s0 s) {rb : State} (e : (execOemProgram p s) = .next rb) (hm : Sub 0xbff5e40 pm := by first | with_reducible assumption | (refine Sub.of ?_ (by with_reducible assumption); with_unfolding_all rfl)) :
    Keeps pm s0 rb := by
  unfold execOemProgram at e
  repeat' first
    | (injection e with e; subst e)
    | (cases e; done)
    | split at e
  all_goals try dsimp only
  all_goals repeat' first
    | with_reducible assumption
    | (with_reducible intro t; intros)
    | with_reducible refine foldl_keeps ?_ ?_
    | with_reducible refine objectAccess_keeps ?_ 
    | with_reducible refine keeps_ite ?_ ?_
    | split
    | with_reducible refine Keeps.upd rfl rfl rfl rfl rfl rfl ?_

theorem execOemErase_keeps {pm : Nat} {s0 : State} {p : Path} {s : State} (hk : Keeps pm s0 s) {rb : State} (e : (execOemErase p s) = .next rb) (hm : Sub 0xbff5e40 pm := by first | with_reducible assumption | (refine Sub.of ?_ (by with_reducible assumption); with_unfolding_all rfl)) :
    Keeps pm s0 rb := by
  unfold execOemErase at e
  repeat' first
    | (injection e with e; subst e)
    | (cases e; done)
    | split at e
  all_goals try dsimp only
  all_goals repeat' first
    | with_reducible assumption
    | (with_reducible intro t; intros)
    | with_reducible refine foldl_keeps ?_ ?_
    | with_reducible refine objectAccess_keeps ?_ 
    | with_reducible refine keeps_ite ?_ ?_
    | split
    | with_reducible refine Keeps.upd rfl rfl rfl rfl rfl rfl ?_

theorem execSlotEraseWrite_keeps {pm : Nat} {s0 : State} {p : Path} {v : Byte} {s : State} (hk : Keeps pm s0 s) {rb : State} (e : (execSlotEraseWrite p v s) = .next rb) (hm : Sub 0xbff5e40 pm := by first | with_reducible assumption | (refine Sub.of ?_ (by with_reducible assumption); with_unfolding_all rfl)) :
    Keeps pm s0 rb := by
  unfold execSlotEraseWrite at e
  repeat' first
    | (injection e with e; subst e)
    | (cases e; done)
    | split at e
  all_goals try dsimp only
  all_goals repeat' first
    | with_reducible assumption
    | (with_reducible intro t; intros)
    | with_reducible refine foldl_keeps ?_ ?_
    | with_reducible refine objectAccess_keeps ?_ 
    | with_reducible refine keeps_ite ?_ ?_
    | split
    | with_reducible refine Keeps.upd rfl rfl rfl rfl rfl rfl ?_

theorem onMctp_keeps {pm : Nat} {s0 : State} {f : State → State} {s : State} (hk : Keeps pm s0 s) (h_f : ∀ (t : State), Keeps pm s0 t → Keeps pm s0 (f t)) (hm : Sub 0x0 pm := by first | with_reducible assumption | (refine Sub.of ?_ (by with_reducible assumption); with_unfolding_all rfl)) :
    Keeps pm s0 (onMctp f s) := by
  unfold onMctp
  try dsimp only
  repeat' first
    | with_reducible assumption
    | (with_reducible intro t; intros)
    | with_reducible refine foldl_keeps ?_ ?_
    | with_reducible refine h_f _ ?_
    | with_reducible refine keeps_ite ?_ ?_
    | split
    | with_reducible refine Keeps.upd rfl rfl rfl rfl rfl rfl ?_

theorem execMctpMessageDiscard_keeps {pm : Nat} {s0 : State} {msgType : BitVec 7} {ic : Bool} {s : State} (hk : Keeps pm s0 s) {rb : State} (e : (execMctpMessageDiscard msgType ic s) = .next rb) (hm : Sub 0x400000 pm := by first | with_reducible assumption | (refine Sub.of ?_ (by with_reducible assumption); with_unfolding_all rfl)) :
    Keeps pm s0 rb := by
  unfold execMctpMessageDiscard at e
  repeat' first
    | (injection e with e; subst e)
    | (cases e; done)
    | split at e
  all_goals try dsimp only
  all_goals repeat' first
    | with_reducible assumption
    | (with_reducible intro t; intros)
    | with_reducible refine foldl_keeps ?_ ?_
    | with_reducible refine onMctp_keeps ?_ ?_ 
    | with_reducible refine keeps_ite ?_ ?_
    | split
    | with_reducible refine Keeps.upd rfl rfl rfl rfl rfl rfl ?_

theorem plarikArrives_keeps {pm : Nat} {s0 : State} {ofRow : List Byte → Bool} {p : Path} {r : PlarikReq} {s : State} (hk : Keeps pm s0 s) (hm : Sub 0xbff5e40 pm := by first | with_reducible assumption | (refine Sub.of ?_ (by with_reducible assumption); with_unfolding_all rfl)) :
    Keeps pm s0 (plarikArrives ofRow p r s) := by
  unfold plarikArrives
  try dsimp only
  repeat' first
    | with_reducible assumption
    | (with_reducible intro t; intros)
    | with_reducible refine foldl_keeps ?_ ?_
    | with_reducible refine plarikReceive_keeps ?_ 
    | with_reducible refine mailboxSend_keeps ?_ 
    | with_reducible refine keeps_ite ?_ ?_
    | split
    | with_reducible refine Keeps.upd rfl rfl rfl rfl rfl rfl ?_

theorem execPlarikGet_keeps {pm : Nat} {s0 : State} {p : Path} {r : PlarikReq} {s : State} (hk : Keeps pm s0 s) {rb : State} (e : (execPlarikGet p r s) = .next rb) (hm : Sub 0xbff5e40 pm := by first | with_reducible assumption | (refine Sub.of ?_ (by with_reducible assumption); with_unfolding_all rfl)) :
    Keeps pm s0 rb := by
  unfold execPlarikGet at e
  repeat' first
    | (injection e with e; subst e)
    | (cases e; done)
    | split at e
  all_goals try dsimp only
  all_goals repeat' first
    | with_reducible assumption
    | (with_reducible intro t; intros)
    | with_reducible refine foldl_keeps ?_ ?_
    | with_reducible refine plarikArrives_keeps ?_ 
    | with_reducible refine keeps_ite ?_ ?_
    | split
    | with_reducible refine Keeps.upd rfl rfl rfl rfl rfl rfl ?_

theorem execPlarikSet_keeps {pm : Nat} {s0 : State} {p : Path} {r : PlarikReq} {s : State} (hk : Keeps pm s0 s) {rb : State} (e : (execPlarikSet p r s) = .next rb) (hm : Sub 0xbff5e40 pm := by first | with_reducible assumption | (refine Sub.of ?_ (by with_reducible assumption); with_unfolding_all rfl)) :
    Keeps pm s0 rb := by
  unfold execPlarikSet at e
  repeat' first
    | (injection e with e; subst e)
    | (cases e; done)
    | split at e
  all_goals try dsimp only
  all_goals repeat' first
    | with_reducible assumption
    | (with_reducible intro t; intros)
    | with_reducible refine foldl_keeps ?_ ?_
    | with_reducible refine plarikArrives_keeps ?_ 
    | with_reducible refine keeps_ite ?_ ?_
    | split
    | with_reducible refine Keeps.upd rfl rfl rfl rfl rfl rfl ?_

theorem execPlarikCommit_keeps {pm : Nat} {s0 : State} {p : Path} {r : Timed PlarikReq} {s : State} (hk : Keeps pm s0 s) {rb : State} (e : (execPlarikCommit p r s) = .next rb) (hm : Sub 0xbff5e44 pm := by first | with_reducible assumption | (refine Sub.of ?_ (by with_reducible assumption); with_unfolding_all rfl)) :
    Keeps pm s0 rb := by
  unfold execPlarikCommit at e
  repeat' first
    | (injection e with e; subst e)
    | (cases e; done)
    | split at e
  all_goals try dsimp only
  all_goals repeat' first
    | with_reducible assumption
    | (with_reducible intro t; intros)
    | with_reducible refine foldl_keeps ?_ ?_
    | with_reducible refine atOffset_keeps ?_ 
    | with_reducible refine plarikArrives_keeps ?_ 
    | with_reducible refine keeps_ite ?_ ?_
    | split
    | with_reducible refine Keeps.upd rfl rfl rfl rfl rfl rfl ?_

theorem execPlarikDiscard_keeps {pm : Nat} {s0 : State} {p : Path} {r : PlarikReq} {s : State} (hk : Keeps pm s0 s) {rb : State} (e : (execPlarikDiscard p r s) = .next rb) (hm : Sub 0xbff5e40 pm := by first | with_reducible assumption | (refine Sub.of ?_ (by with_reducible assumption); with_unfolding_all rfl)) :
    Keeps pm s0 rb := by
  unfold execPlarikDiscard at e
  repeat' first
    | (injection e with e; subst e)
    | (cases e; done)
    | split at e
  all_goals try dsimp only
  all_goals repeat' first
    | with_reducible assumption
    | (with_reducible intro t; intros)
    | with_reducible refine foldl_keeps ?_ ?_
    | with_reducible refine plarikArrives_keeps ?_ 
    | with_reducible refine keeps_ite ?_ ?_
    | split
    | with_reducible refine Keeps.upd rfl rfl rfl rfl rfl rfl ?_

theorem execPlarikDescribe_keeps {pm : Nat} {s0 : State} {p : Path} {r : PlarikReq} {s : State} (hk : Keeps pm s0 s) {rb : State} (e : (execPlarikDescribe p r s) = .next rb) (hm : Sub 0xbff5e40 pm := by first | with_reducible assumption | (refine Sub.of ?_ (by with_reducible assumption); with_unfolding_all rfl)) :
    Keeps pm s0 rb := by
  unfold execPlarikDescribe at e
  repeat' first
    | (injection e with e; subst e)
    | (cases e; done)
    | split at e
  all_goals try dsimp only
  all_goals repeat' first
    | with_reducible assumption
    | (with_reducible intro t; intros)
    | with_reducible refine foldl_keeps ?_ ?_
    | with_reducible refine plarikArrives_keeps ?_ 
    | with_reducible refine keeps_ite ?_ ?_
    | split
    | with_reducible refine Keeps.upd rfl rfl rfl rfl rfl rfl ?_

theorem execPlarikNext_keeps {pm : Nat} {s0 : State} {p : Path} {r : PlarikReq} {s : State} (hk : Keeps pm s0 s) {rb : State} (e : (execPlarikNext p r s) = .next rb) (hm : Sub 0xbff5e40 pm := by first | with_reducible assumption | (refine Sub.of ?_ (by with_reducible assumption); with_unfolding_all rfl)) :
    Keeps pm s0 rb := by
  unfold execPlarikNext at e
  repeat' first
    | (injection e with e; subst e)
    | (cases e; done)
    | split at e
  all_goals try dsimp only
  all_goals repeat' first
    | with_reducible assumption
    | (with_reducible intro t; intros)
    | with_reducible refine foldl_keeps ?_ ?_
    | with_reducible refine plarikArrives_keeps ?_ 
    | with_reducible refine keeps_ite ?_ ?_
    | split
    | with_reducible refine Keeps.upd rfl rfl rfl rfl rfl rfl ?_

theorem execPlarikUnknownOp_keeps {pm : Nat} {s0 : State} {p : Path} {r : PlarikReq} {s : State} (hk : Keeps pm s0 s) {rb : State} (e : (execPlarikUnknownOp p r s) = .next rb) (hm : Sub 0xbff5e40 pm := by first | with_reducible assumption | (refine Sub.of ?_ (by with_reducible assumption); with_unfolding_all rfl)) :
    Keeps pm s0 rb := by
  unfold execPlarikUnknownOp at e
  repeat' first
    | (injection e with e; subst e)
    | (cases e; done)
    | split at e
  all_goals try dsimp only
  all_goals repeat' first
    | with_reducible assumption
    | (with_reducible intro t; intros)
    | with_reducible refine foldl_keeps ?_ ?_
    | with_reducible refine plarikArrives_keeps ?_ 
    | with_reducible refine keeps_ite ?_ ?_
    | split
    | with_reducible refine Keeps.upd rfl rfl rfl rfl rfl rfl ?_

theorem execSetEndpointId_keeps {pm : Nat} {s0 : State} {eid : Byte} {s : State} (hk : Keeps pm s0 s) {rb : State} (e : (execSetEndpointId eid s) = .next rb) (hm : Sub 0x400000 pm := by first | with_reducible assumption | (refine Sub.of ?_ (by with_reducible assumption); with_unfolding_all rfl)) :
    Keeps pm s0 rb := by
  unfold execSetEndpointId at e
  repeat' first
    | (injection e with e; subst e)
    | (cases e; done)
    | split at e
  all_goals try dsimp only
  all_goals repeat' first
    | with_reducible assumption
    | (with_reducible intro t; intros)
    | with_reducible refine foldl_keeps ?_ ?_
    | with_reducible refine controlAnswer_keeps ?_ 
    | with_reducible refine onMctp_keeps ?_ ?_ 
    | with_reducible refine keeps_ite ?_ ?_
    | split
    | with_reducible refine Keeps.upd rfl rfl rfl rfl rfl rfl ?_

theorem execGetEndpointId_keeps {pm : Nat} {s0 : State} {s : State} (hk : Keeps pm s0 s) {rb : State} (e : (execGetEndpointId s) = .next rb) (hm : Sub 0x400000 pm := by first | with_reducible assumption | (refine Sub.of ?_ (by with_reducible assumption); with_unfolding_all rfl)) :
    Keeps pm s0 rb := by
  unfold execGetEndpointId at e
  repeat' first
    | (injection e with e; subst e)
    | (cases e; done)
    | split at e
  all_goals try dsimp only
  all_goals repeat' first
    | with_reducible assumption
    | (with_reducible intro t; intros)
    | with_reducible refine foldl_keeps ?_ ?_
    | with_reducible refine controlAnswer_keeps ?_ 
    | with_reducible refine onMctp_keeps ?_ ?_ 
    | with_reducible refine keeps_ite ?_ ?_
    | split
    | with_reducible refine Keeps.upd rfl rfl rfl rfl rfl rfl ?_

theorem execGetEndpointUuid_keeps {pm : Nat} {s0 : State} {s : State} (hk : Keeps pm s0 s) {rb : State} (e : (execGetEndpointUuid s) = .next rb) (hm : Sub 0x400000 pm := by first | with_reducible assumption | (refine Sub.of ?_ (by with_reducible assumption); with_unfolding_all rfl)) :
    Keeps pm s0 rb := by
  unfold execGetEndpointUuid at e
  repeat' first
    | (injection e with e; subst e)
    | (cases e; done)
    | split at e
  all_goals try dsimp only
  all_goals repeat' first
    | with_reducible assumption
    | (with_reducible intro t; intros)
    | with_reducible refine foldl_keeps ?_ ?_
    | with_reducible refine controlAnswer_keeps ?_ 
    | with_reducible refine onMctp_keeps ?_ ?_ 
    | with_reducible refine keeps_ite ?_ ?_
    | split
    | with_reducible refine Keeps.upd rfl rfl rfl rfl rfl rfl ?_

theorem execGetMctpVersionSupport_keeps {pm : Nat} {s0 : State} {msgType : Byte} {s : State} (hk : Keeps pm s0 s) {rb : State} (e : (execGetMctpVersionSupport msgType s) = .next rb) (hm : Sub 0x400000 pm := by first | with_reducible assumption | (refine Sub.of ?_ (by with_reducible assumption); with_unfolding_all rfl)) :
    Keeps pm s0 rb := by
  unfold execGetMctpVersionSupport at e
  repeat' first
    | (injection e with e; subst e)
    | (cases e; done)
    | split at e
  all_goals try dsimp only
  all_goals repeat' first
    | with_reducible assumption
    | (with_reducible intro t; intros)
    | with_reducible refine foldl_keeps ?_ ?_
    | with_reducible refine controlAnswer_keeps ?_ 
    | with_reducible refine onMctp_keeps ?_ ?_ 
    | with_reducible refine keeps_ite ?_ ?_
    | split
    | with_reducible refine Keeps.upd rfl rfl rfl rfl rfl rfl ?_

theorem execGetMessageTypeSupport_keeps {pm : Nat} {s0 : State} {s : State} (hk : Keeps pm s0 s) {rb : State} (e : (execGetMessageTypeSupport s) = .next rb) (hm : Sub 0x400000 pm := by first | with_reducible assumption | (refine Sub.of ?_ (by with_reducible assumption); with_unfolding_all rfl)) :
    Keeps pm s0 rb := by
  unfold execGetMessageTypeSupport at e
  repeat' first
    | (injection e with e; subst e)
    | (cases e; done)
    | split at e
  all_goals try dsimp only
  all_goals repeat' first
    | with_reducible assumption
    | (with_reducible intro t; intros)
    | with_reducible refine foldl_keeps ?_ ?_
    | with_reducible refine controlAnswer_keeps ?_ 
    | with_reducible refine onMctp_keeps ?_ ?_ 
    | with_reducible refine keeps_ite ?_ ?_
    | split
    | with_reducible refine Keeps.upd rfl rfl rfl rfl rfl rfl ?_

theorem execGetVendorDefinedMsgSupport_keeps {pm : Nat} {s0 : State} {selector : Byte} {s : State} (hk : Keeps pm s0 s) {rb : State} (e : (execGetVendorDefinedMsgSupport selector s) = .next rb) (hm : Sub 0x400000 pm := by first | with_reducible assumption | (refine Sub.of ?_ (by with_reducible assumption); with_unfolding_all rfl)) :
    Keeps pm s0 rb := by
  unfold execGetVendorDefinedMsgSupport at e
  repeat' first
    | (injection e with e; subst e)
    | (cases e; done)
    | split at e
  all_goals try dsimp only
  all_goals repeat' first
    | with_reducible assumption
    | (with_reducible intro t; intros)
    | with_reducible refine foldl_keeps ?_ ?_
    | with_reducible refine controlAnswer_keeps ?_ 
    | with_reducible refine onMctp_keeps ?_ ?_ 
    | with_reducible refine keeps_ite ?_ ?_
    | split
    | with_reducible refine Keeps.upd rfl rfl rfl rfl rfl rfl ?_

theorem miAnswer_keeps {pm : Nat} {s0 : State} {status : ℕ} {mgmt : List Byte} {data : List Byte} {s : State} (hk : Keeps pm s0 s) (hm : Sub 0x400000 pm := by first | with_reducible assumption | (refine Sub.of ?_ (by with_reducible assumption); with_unfolding_all rfl)) :
    Keeps pm s0 (miAnswer status mgmt data s) := by
  unfold miAnswer
  try dsimp only
  repeat' first
    | with_reducible assumption
    | (with_reducible intro t; intros)
    | with_reducible refine foldl_keeps ?_ ?_
    | with_reducible refine mctpSend_keeps ?_ 
    | with_reducible refine keeps_ite ?_ ?_
    | split
    | with_reducible refine Keeps.upd rfl rfl rfl rfl rfl rfl ?_

theorem execReadNvmeMiDataStructure_keeps {pm : Nat} {s0 : State} {dtyp : Byte} {portId : Byte} {ctrlId : Word16} {s : State}
    (hk : Keeps pm s0 s) {rb : State} (e : execReadNvmeMiDataStructure dtyp portId ctrlId s = .next rb) (hm : Sub 0x400000 pm := by first | with_reducible assumption | (refine Sub.of ?_ (by with_reducible assumption); with_unfolding_all rfl)) : Keeps pm s0 rb := by
  unfold execReadNvmeMiDataStructure at e
  extract_lets n l data at e
  clear_value data
  injection e with e
  subst e
  refine onMctp_keeps hk (fun t ht => ?_)
  cases data
  · exact miAnswer_keeps ht
  · exact miAnswer_keeps ht

theorem execNvmSubsystemHealthPoll_keeps {pm : Nat} {s0 : State} {clear : Bool} {s : State} (hk : Keeps pm s0 s) {rb : State} (e : (execNvmSubsystemHealthPoll clear s) = .next rb) (hm : Sub 0x400000 pm := by first | with_reducible assumption | (refine Sub.of ?_ (by with_reducible assumption); with_unfolding_all rfl)) :
    Keeps pm s0 rb := by
  unfold execNvmSubsystemHealthPoll at e
  repeat' first
    | (injection e with e; subst e)
    | (cases e; done)
    | split at e
  all_goals try dsimp only
  all_goals repeat' first
    | with_reducible assumption
    | (with_reducible intro t; intros)
    | with_reducible refine foldl_keeps ?_ ?_
    | with_reducible refine clearHealth_keeps ?_ 
    | with_reducible refine onMctp_keeps ?_ ?_ 
    | with_reducible refine miAnswer_keeps ?_ 
    | with_reducible refine keeps_ite ?_ ?_
    | split
    | with_reducible refine Keeps.upd rfl rfl rfl rfl rfl rfl ?_

theorem execControllerHealthPoll_keeps {pm : Nat} {s0 : State} {start : Word16} {maxEntries : Byte} {clear : Bool} {s : State} (hk : Keeps pm s0 s) {rb : State} (e : (execControllerHealthPoll start maxEntries clear s) = .next rb) (hm : Sub 0x400000 pm := by first | with_reducible assumption | (refine Sub.of ?_ (by with_reducible assumption); with_unfolding_all rfl)) :
    Keeps pm s0 rb := by
  unfold execControllerHealthPoll at e
  repeat' first
    | (injection e with e; subst e)
    | (cases e; done)
    | split at e
  all_goals try dsimp only
  all_goals repeat' first
    | with_reducible assumption
    | (with_reducible intro t; intros)
    | with_reducible refine foldl_keeps ?_ ?_
    | with_reducible refine clearHealth_keeps ?_ 
    | with_reducible refine onMctp_keeps ?_ ?_ 
    | with_reducible refine miAnswer_keeps ?_ 
    | with_reducible refine keeps_ite ?_ ?_
    | split
    | with_reducible refine Keeps.upd rfl rfl rfl rfl rfl rfl ?_

theorem execMiConfigurationSet_keeps {pm : Nat} {s0 : State} {c : MiConfig} {port : Byte} {v : Word16} {s : State} (hk : Keeps pm s0 s) {rb : State} (e : (execMiConfigurationSet c port v s) = .next rb) (hm : Sub 0x400000 pm := by first | with_reducible assumption | (refine Sub.of ?_ (by with_reducible assumption); with_unfolding_all rfl)) :
    Keeps pm s0 rb := by
  unfold execMiConfigurationSet at e
  repeat' first
    | (injection e with e; subst e)
    | (cases e; done)
    | split at e
  all_goals try dsimp only
  all_goals repeat' first
    | with_reducible assumption
    | (with_reducible intro t; intros)
    | with_reducible refine foldl_keeps ?_ ?_
    | with_reducible refine clearHealth_keeps ?_ 
    | with_reducible refine onMctp_keeps ?_ ?_ 
    | with_reducible refine miAnswer_keeps ?_ 
    | with_reducible refine keeps_ite ?_ ?_
    | split
    | with_reducible refine Keeps.upd rfl rfl rfl rfl rfl rfl ?_

theorem execMiConfigurationGet_keeps {pm : Nat} {s0 : State} {c : MiConfig} {port : Byte} {s : State} (hk : Keeps pm s0 s) {rb : State} (e : (execMiConfigurationGet c port s) = .next rb) (hm : Sub 0x400000 pm := by first | with_reducible assumption | (refine Sub.of ?_ (by with_reducible assumption); with_unfolding_all rfl)) :
    Keeps pm s0 rb := by
  unfold execMiConfigurationGet at e
  repeat' first
    | (injection e with e; subst e)
    | (cases e; done)
    | split at e
  all_goals try dsimp only
  all_goals repeat' first
    | with_reducible assumption
    | (with_reducible intro t; intros)
    | with_reducible refine foldl_keeps ?_ ?_
    | with_reducible refine onMctp_keeps ?_ ?_ 
    | with_reducible refine miAnswer_keeps ?_ 
    | with_reducible refine keeps_ite ?_ ?_
    | split
    | with_reducible refine Keeps.upd rfl rfl rfl rfl rfl rfl ?_

theorem tunnelAnswer_keeps {pm : Nat} {s0 : State} {r : Except Status (ℕ × CplData)} {s : State} (hk : Keeps pm s0 s) (hm : Sub 0x400000 pm := by first | with_reducible assumption | (refine Sub.of ?_ (by with_reducible assumption); with_unfolding_all rfl)) :
    Keeps pm s0 (tunnelAnswer r s) := by
  unfold tunnelAnswer
  try dsimp only
  repeat' first
    | with_reducible assumption
    | (with_reducible intro t; intros)
    | with_reducible refine foldl_keeps ?_ ?_
    | with_reducible refine miAnswer_keeps ?_ 
    | with_reducible refine keeps_ite ?_ ?_
    | split
    | with_reducible refine Keeps.upd rfl rfl rfl rfl rfl rfl ?_

theorem tunnelRun_keeps {pm : Nat} {s0 : State} {p : PortId} {t : Tunnel} {s : State} (hk : Keeps pm s0 s) (hm : Sub 0x8400000 pm := by first | with_reducible assumption | (refine Sub.of ?_ (by with_reducible assumption); with_unfolding_all rfl)) :
    Keeps pm s0 (tunnelRun p t s) := by
  unfold tunnelRun
  try dsimp only
  repeat' first
    | with_reducible assumption
    | (with_reducible intro t; intros)
    | with_reducible refine foldl_keeps ?_ ?_
    | with_reducible refine logPage_keeps ?_ 
    | with_reducible refine logPage_keepsP ?_  (by assumption)
    | with_reducible refine tunnelAnswer_keeps ?_ 
    | with_reducible refine keeps_ite ?_ ?_
    | split
    | with_reducible refine Keeps.upd rfl rfl rfl rfl rfl rfl ?_

theorem execMiAdminTunnel_keeps {pm : Nat} {s0 : State} {ctl : Word16} {t : Tunnel} {s : State} (hk : Keeps pm s0 s) {rb : State} (e : (execMiAdminTunnel ctl t s) = .next rb) (hm : Sub 0x8400000 pm := by first | with_reducible assumption | (refine Sub.of ?_ (by with_reducible assumption); with_unfolding_all rfl)) :
    Keeps pm s0 rb := by
  unfold execMiAdminTunnel at e
  repeat' first
    | (injection e with e; subst e)
    | (cases e; done)
    | split at e
  all_goals try dsimp only
  all_goals repeat' first
    | with_reducible assumption
    | (with_reducible intro t; intros)
    | with_reducible refine foldl_keeps ?_ ?_
    | with_reducible refine onMctp_keeps ?_ ?_ 
    | with_reducible refine miAnswer_keeps ?_ 
    | with_reducible refine tunnelRun_keeps ?_ 
    | with_reducible refine keeps_ite ?_ ?_
    | split
    | with_reducible refine Keeps.upd rfl rfl rfl rfl rfl rfl ?_

theorem execSmbusAlertResponse_keeps {pm : Nat} {s0 : State} {s : State} (hk : Keeps pm s0 s) {rb : State} (e : (execSmbusAlertResponse s) = .next rb) (hm : Sub 0x400000 pm := by first | with_reducible assumption | (refine Sub.of ?_ (by with_reducible assumption); with_unfolding_all rfl)) :
    Keeps pm s0 rb := by
  unfold execSmbusAlertResponse at e
  repeat' first
    | (injection e with e; subst e)
    | (cases e; done)
    | split at e
  all_goals try dsimp only
  all_goals repeat' first
    | with_reducible assumption
    | (with_reducible intro t; intros)
    | with_reducible refine foldl_keeps ?_ ?_
    | with_reducible refine keeps_ite ?_ ?_
    | split
    | with_reducible refine Keeps.upd rfl rfl rfl rfl rfl rfl ?_

theorem execObjectWrite_keeps {pm : Nat} {s0 : State} {p : Path} {index : Word16} {sub : Byte} {data : List Byte} {s : State} (hk : Keeps pm s0 s) {rb : State} (e : (execObjectWrite p index sub data s) = .next rb) (hm : Sub 0xbff5e40 pm := by first | with_reducible assumption | (refine Sub.of ?_ (by with_reducible assumption); with_unfolding_all rfl)) :
    Keeps pm s0 rb := by
  unfold execObjectWrite at e
  repeat' first
    | (injection e with e; subst e)
    | (cases e; done)
    | split at e
  all_goals try dsimp only
  all_goals repeat' first
    | with_reducible assumption
    | (with_reducible intro t; intros)
    | with_reducible refine foldl_keeps ?_ ?_
    | with_reducible refine objectAccess_keeps ?_ 
    | with_reducible refine keeps_ite ?_ ?_
    | split
    | with_reducible refine Keeps.upd rfl rfl rfl rfl rfl rfl ?_

end Sys2Proof.Machine
end

