-- ==== Sys2Proof/Laws/State.lean ====
section
/-! SUPPORT. What each update of a part of the state leaves as it is, field by field, and what it makes of the part. -/

namespace Sys2Proof.Machine

/-! ## Vectors -/

theorem upd_get {α : Type} {k : Nat} (v : Vector α k) (i j : Fin k) (f : α → α) :
    (upd v i f)[j] = if i = j then f v[i] else v[j] := by
  simp only [upd, Fin.getElem_fin, Vector.getElem_set, Fin.val_inj]

@[simp] theorem upd_get_self {α : Type} {k : Nat} (v : Vector α k) (i : Fin k) (f : α → α) : (upd v i f)[i] = f v[i] := by
  rw [upd_get, if_pos rfl]

theorem upd_get_ne {α : Type} {k : Nat} (v : Vector α k) {i j : Fin k} (f : α → α) (h : i ≠ j) : (upd v i f)[j] = v[j] := by
  rw [upd_get, if_neg h]

theorem upd_upd {α : Type} {k : Nat} (v : Vector α k) (i : Fin k) (f g : α → α) : upd (upd v i f) i g = upd v i (fun x => g (f x)) := by
  ext j hj
  simp only [upd, Fin.getElem_fin, Vector.getElem_set]
  split <;> simp_all

/-! ## Fields -/

@[simp] theorem State.modChan_power (s : State) (n : ChanId) (f : Chan → Chan) : (s.modChan n f).power = s.power := rfl
@[simp] theorem State.modChan_clock (s : State) (n : ChanId) (f : Chan → Chan) : (s.modChan n f).clock = s.clock := rfl
@[simp] theorem State.modChan_tick (s : State) (n : ChanId) (f : Chan → Chan) : (s.modChan n f).tick = s.tick := rfl
@[simp] theorem State.modChan_links (s : State) (n : ChanId) (f : Chan → Chan) : (s.modChan n f).links = s.links := rfl
@[simp] theorem State.modChan_heads (s : State) (n : ChanId) (f : Chan → Chan) : (s.modChan n f).heads = s.heads := rfl
@[simp] theorem State.modChan_env (s : State) (n : ChanId) (f : Chan → Chan) : (s.modChan n f).env = s.env := rfl
@[simp] theorem State.modChan_cal (s : State) (n : ChanId) (f : Chan → Chan) : (s.modChan n f).cal = s.cal := rfl
@[simp] theorem State.modChan_ports (s : State) (n : ChanId) (f : Chan → Chan) : (s.modChan n f).ports = s.ports := rfl
@[simp] theorem State.modChan_sub (s : State) (n : ChanId) (f : Chan → Chan) : (s.modChan n f).sub = s.sub := rfl
@[simp] theorem State.modChan_cmds (s : State) (n : ChanId) (f : Chan → Chan) : (s.modChan n f).cmds = s.cmds := rfl
@[simp] theorem State.modChan_sched (s : State) (n : ChanId) (f : Chan → Chan) : (s.modChan n f).sched = s.sched := rfl
@[simp] theorem State.modChan_bms (s : State) (n : ChanId) (f : Chan → Chan) : (s.modChan n f).bms = s.bms := rfl
@[simp] theorem State.modChan_cache (s : State) (n : ChanId) (f : Chan → Chan) : (s.modChan n f).cache = s.cache := rfl
@[simp] theorem State.modChan_faults (s : State) (n : ChanId) (f : Chan → Chan) : (s.modChan n f).faults = s.faults := rfl
@[simp] theorem State.modChan_mule (s : State) (n : ChanId) (f : Chan → Chan) : (s.modChan n f).mule = s.mule := rfl
@[simp] theorem State.modChan_dict (s : State) (n : ChanId) (f : Chan → Chan) : (s.modChan n f).dict = s.dict := rfl
@[simp] theorem State.modChan_mgmt (s : State) (n : ChanId) (f : Chan → Chan) : (s.modChan n f).mgmt = s.mgmt := rfl
@[simp] theorem State.modChan_fw (s : State) (n : ChanId) (f : Chan → Chan) : (s.modChan n f).fw = s.fw := rfl
@[simp] theorem State.modChan_evr (s : State) (n : ChanId) (f : Chan → Chan) : (s.modChan n f).evr = s.evr := rfl
@[simp] theorem State.modChan_loadQueue (s : State) (n : ChanId) (f : Chan → Chan) : (s.modChan n f).loadQueue = s.loadQueue := rfl
@[simp] theorem State.modChan_freeCount (s : State) (n : ChanId) (f : Chan → Chan) : (s.modChan n f).freeCount = s.freeCount := rfl
@[simp] theorem State.modChan_pending (s : State) (n : ChanId) (f : Chan → Chan) : (s.modChan n f).pending = s.pending := rfl

@[simp] theorem State.modSdm_power (s : State) (n : ChanId) (f : Sdm → Sdm) : (s.modSdm n f).power = s.power := rfl
@[simp] theorem State.modSdm_clock (s : State) (n : ChanId) (f : Sdm → Sdm) : (s.modSdm n f).clock = s.clock := rfl
@[simp] theorem State.modSdm_tick (s : State) (n : ChanId) (f : Sdm → Sdm) : (s.modSdm n f).tick = s.tick := rfl
@[simp] theorem State.modSdm_links (s : State) (n : ChanId) (f : Sdm → Sdm) : (s.modSdm n f).links = s.links := rfl
@[simp] theorem State.modSdm_heads (s : State) (n : ChanId) (f : Sdm → Sdm) : (s.modSdm n f).heads = s.heads := rfl
@[simp] theorem State.modSdm_env (s : State) (n : ChanId) (f : Sdm → Sdm) : (s.modSdm n f).env = s.env := rfl
@[simp] theorem State.modSdm_cal (s : State) (n : ChanId) (f : Sdm → Sdm) : (s.modSdm n f).cal = s.cal := rfl
@[simp] theorem State.modSdm_ports (s : State) (n : ChanId) (f : Sdm → Sdm) : (s.modSdm n f).ports = s.ports := rfl
@[simp] theorem State.modSdm_sub (s : State) (n : ChanId) (f : Sdm → Sdm) : (s.modSdm n f).sub = s.sub := rfl
@[simp] theorem State.modSdm_cmds (s : State) (n : ChanId) (f : Sdm → Sdm) : (s.modSdm n f).cmds = s.cmds := rfl
@[simp] theorem State.modSdm_sched (s : State) (n : ChanId) (f : Sdm → Sdm) : (s.modSdm n f).sched = s.sched := rfl
@[simp] theorem State.modSdm_bms (s : State) (n : ChanId) (f : Sdm → Sdm) : (s.modSdm n f).bms = s.bms := rfl
@[simp] theorem State.modSdm_cache (s : State) (n : ChanId) (f : Sdm → Sdm) : (s.modSdm n f).cache = s.cache := rfl
@[simp] theorem State.modSdm_faults (s : State) (n : ChanId) (f : Sdm → Sdm) : (s.modSdm n f).faults = s.faults := rfl
@[simp] theorem State.modSdm_mule (s : State) (n : ChanId) (f : Sdm → Sdm) : (s.modSdm n f).mule = s.mule := rfl
@[simp] theorem State.modSdm_dict (s : State) (n : ChanId) (f : Sdm → Sdm) : (s.modSdm n f).dict = s.dict := rfl
@[simp] theorem State.modSdm_mgmt (s : State) (n : ChanId) (f : Sdm → Sdm) : (s.modSdm n f).mgmt = s.mgmt := rfl
@[simp] theorem State.modSdm_fw (s : State) (n : ChanId) (f : Sdm → Sdm) : (s.modSdm n f).fw = s.fw := rfl
@[simp] theorem State.modSdm_evr (s : State) (n : ChanId) (f : Sdm → Sdm) : (s.modSdm n f).evr = s.evr := rfl
@[simp] theorem State.modSdm_loadQueue (s : State) (n : ChanId) (f : Sdm → Sdm) : (s.modSdm n f).loadQueue = s.loadQueue := rfl
@[simp] theorem State.modSdm_freeCount (s : State) (n : ChanId) (f : Sdm → Sdm) : (s.modSdm n f).freeCount = s.freeCount := rfl
@[simp] theorem State.modSdm_pending (s : State) (n : ChanId) (f : Sdm → Sdm) : (s.modSdm n f).pending = s.pending := rfl

@[simp] theorem State.modCe_power (s : State) (n : ChanId) (f : Ce → Ce) : (s.modCe n f).power = s.power := rfl
@[simp] theorem State.modCe_clock (s : State) (n : ChanId) (f : Ce → Ce) : (s.modCe n f).clock = s.clock := rfl
@[simp] theorem State.modCe_tick (s : State) (n : ChanId) (f : Ce → Ce) : (s.modCe n f).tick = s.tick := rfl
@[simp] theorem State.modCe_links (s : State) (n : ChanId) (f : Ce → Ce) : (s.modCe n f).links = s.links := rfl
@[simp] theorem State.modCe_heads (s : State) (n : ChanId) (f : Ce → Ce) : (s.modCe n f).heads = s.heads := rfl
@[simp] theorem State.modCe_env (s : State) (n : ChanId) (f : Ce → Ce) : (s.modCe n f).env = s.env := rfl
@[simp] theorem State.modCe_cal (s : State) (n : ChanId) (f : Ce → Ce) : (s.modCe n f).cal = s.cal := rfl
@[simp] theorem State.modCe_ports (s : State) (n : ChanId) (f : Ce → Ce) : (s.modCe n f).ports = s.ports := rfl
@[simp] theorem State.modCe_sub (s : State) (n : ChanId) (f : Ce → Ce) : (s.modCe n f).sub = s.sub := rfl
@[simp] theorem State.modCe_cmds (s : State) (n : ChanId) (f : Ce → Ce) : (s.modCe n f).cmds = s.cmds := rfl
@[simp] theorem State.modCe_sched (s : State) (n : ChanId) (f : Ce → Ce) : (s.modCe n f).sched = s.sched := rfl
@[simp] theorem State.modCe_bms (s : State) (n : ChanId) (f : Ce → Ce) : (s.modCe n f).bms = s.bms := rfl
@[simp] theorem State.modCe_cache (s : State) (n : ChanId) (f : Ce → Ce) : (s.modCe n f).cache = s.cache := rfl
@[simp] theorem State.modCe_faults (s : State) (n : ChanId) (f : Ce → Ce) : (s.modCe n f).faults = s.faults := rfl
@[simp] theorem State.modCe_mule (s : State) (n : ChanId) (f : Ce → Ce) : (s.modCe n f).mule = s.mule := rfl
@[simp] theorem State.modCe_dict (s : State) (n : ChanId) (f : Ce → Ce) : (s.modCe n f).dict = s.dict := rfl
@[simp] theorem State.modCe_mgmt (s : State) (n : ChanId) (f : Ce → Ce) : (s.modCe n f).mgmt = s.mgmt := rfl
@[simp] theorem State.modCe_fw (s : State) (n : ChanId) (f : Ce → Ce) : (s.modCe n f).fw = s.fw := rfl
@[simp] theorem State.modCe_evr (s : State) (n : ChanId) (f : Ce → Ce) : (s.modCe n f).evr = s.evr := rfl
@[simp] theorem State.modCe_loadQueue (s : State) (n : ChanId) (f : Ce → Ce) : (s.modCe n f).loadQueue = s.loadQueue := rfl
@[simp] theorem State.modCe_freeCount (s : State) (n : ChanId) (f : Ce → Ce) : (s.modCe n f).freeCount = s.freeCount := rfl
@[simp] theorem State.modCe_pending (s : State) (n : ChanId) (f : Ce → Ce) : (s.modCe n f).pending = s.pending := rfl

@[simp] theorem State.modRwc_power (s : State) (n : ChanId) (f : Rwc → Rwc) : (s.modRwc n f).power = s.power := rfl
@[simp] theorem State.modRwc_clock (s : State) (n : ChanId) (f : Rwc → Rwc) : (s.modRwc n f).clock = s.clock := rfl
@[simp] theorem State.modRwc_tick (s : State) (n : ChanId) (f : Rwc → Rwc) : (s.modRwc n f).tick = s.tick := rfl
@[simp] theorem State.modRwc_links (s : State) (n : ChanId) (f : Rwc → Rwc) : (s.modRwc n f).links = s.links := rfl
@[simp] theorem State.modRwc_heads (s : State) (n : ChanId) (f : Rwc → Rwc) : (s.modRwc n f).heads = s.heads := rfl
@[simp] theorem State.modRwc_env (s : State) (n : ChanId) (f : Rwc → Rwc) : (s.modRwc n f).env = s.env := rfl
@[simp] theorem State.modRwc_cal (s : State) (n : ChanId) (f : Rwc → Rwc) : (s.modRwc n f).cal = s.cal := rfl
@[simp] theorem State.modRwc_ports (s : State) (n : ChanId) (f : Rwc → Rwc) : (s.modRwc n f).ports = s.ports := rfl
@[simp] theorem State.modRwc_sub (s : State) (n : ChanId) (f : Rwc → Rwc) : (s.modRwc n f).sub = s.sub := rfl
@[simp] theorem State.modRwc_cmds (s : State) (n : ChanId) (f : Rwc → Rwc) : (s.modRwc n f).cmds = s.cmds := rfl
@[simp] theorem State.modRwc_sched (s : State) (n : ChanId) (f : Rwc → Rwc) : (s.modRwc n f).sched = s.sched := rfl
@[simp] theorem State.modRwc_bms (s : State) (n : ChanId) (f : Rwc → Rwc) : (s.modRwc n f).bms = s.bms := rfl
@[simp] theorem State.modRwc_cache (s : State) (n : ChanId) (f : Rwc → Rwc) : (s.modRwc n f).cache = s.cache := rfl
@[simp] theorem State.modRwc_faults (s : State) (n : ChanId) (f : Rwc → Rwc) : (s.modRwc n f).faults = s.faults := rfl
@[simp] theorem State.modRwc_mule (s : State) (n : ChanId) (f : Rwc → Rwc) : (s.modRwc n f).mule = s.mule := rfl
@[simp] theorem State.modRwc_dict (s : State) (n : ChanId) (f : Rwc → Rwc) : (s.modRwc n f).dict = s.dict := rfl
@[simp] theorem State.modRwc_mgmt (s : State) (n : ChanId) (f : Rwc → Rwc) : (s.modRwc n f).mgmt = s.mgmt := rfl
@[simp] theorem State.modRwc_fw (s : State) (n : ChanId) (f : Rwc → Rwc) : (s.modRwc n f).fw = s.fw := rfl
@[simp] theorem State.modRwc_evr (s : State) (n : ChanId) (f : Rwc → Rwc) : (s.modRwc n f).evr = s.evr := rfl
@[simp] theorem State.modRwc_loadQueue (s : State) (n : ChanId) (f : Rwc → Rwc) : (s.modRwc n f).loadQueue = s.loadQueue := rfl
@[simp] theorem State.modRwc_freeCount (s : State) (n : ChanId) (f : Rwc → Rwc) : (s.modRwc n f).freeCount = s.freeCount := rfl
@[simp] theorem State.modRwc_pending (s : State) (n : ChanId) (f : Rwc → Rwc) : (s.modRwc n f).pending = s.pending := rfl

@[simp] theorem State.modWr_power (s : State) (n : ChanId) (f : WriteSide → WriteSide) : (s.modWr n f).power = s.power := rfl
@[simp] theorem State.modWr_clock (s : State) (n : ChanId) (f : WriteSide → WriteSide) : (s.modWr n f).clock = s.clock := rfl
@[simp] theorem State.modWr_tick (s : State) (n : ChanId) (f : WriteSide → WriteSide) : (s.modWr n f).tick = s.tick := rfl
@[simp] theorem State.modWr_links (s : State) (n : ChanId) (f : WriteSide → WriteSide) : (s.modWr n f).links = s.links := rfl
@[simp] theorem State.modWr_heads (s : State) (n : ChanId) (f : WriteSide → WriteSide) : (s.modWr n f).heads = s.heads := rfl
@[simp] theorem State.modWr_env (s : State) (n : ChanId) (f : WriteSide → WriteSide) : (s.modWr n f).env = s.env := rfl
@[simp] theorem State.modWr_cal (s : State) (n : ChanId) (f : WriteSide → WriteSide) : (s.modWr n f).cal = s.cal := rfl
@[simp] theorem State.modWr_ports (s : State) (n : ChanId) (f : WriteSide → WriteSide) : (s.modWr n f).ports = s.ports := rfl
@[simp] theorem State.modWr_sub (s : State) (n : ChanId) (f : WriteSide → WriteSide) : (s.modWr n f).sub = s.sub := rfl
@[simp] theorem State.modWr_cmds (s : State) (n : ChanId) (f : WriteSide → WriteSide) : (s.modWr n f).cmds = s.cmds := rfl
@[simp] theorem State.modWr_sched (s : State) (n : ChanId) (f : WriteSide → WriteSide) : (s.modWr n f).sched = s.sched := rfl
@[simp] theorem State.modWr_bms (s : State) (n : ChanId) (f : WriteSide → WriteSide) : (s.modWr n f).bms = s.bms := rfl
@[simp] theorem State.modWr_cache (s : State) (n : ChanId) (f : WriteSide → WriteSide) : (s.modWr n f).cache = s.cache := rfl
@[simp] theorem State.modWr_faults (s : State) (n : ChanId) (f : WriteSide → WriteSide) : (s.modWr n f).faults = s.faults := rfl
@[simp] theorem State.modWr_mule (s : State) (n : ChanId) (f : WriteSide → WriteSide) : (s.modWr n f).mule = s.mule := rfl
@[simp] theorem State.modWr_dict (s : State) (n : ChanId) (f : WriteSide → WriteSide) : (s.modWr n f).dict = s.dict := rfl
@[simp] theorem State.modWr_mgmt (s : State) (n : ChanId) (f : WriteSide → WriteSide) : (s.modWr n f).mgmt = s.mgmt := rfl
@[simp] theorem State.modWr_fw (s : State) (n : ChanId) (f : WriteSide → WriteSide) : (s.modWr n f).fw = s.fw := rfl
@[simp] theorem State.modWr_evr (s : State) (n : ChanId) (f : WriteSide → WriteSide) : (s.modWr n f).evr = s.evr := rfl
@[simp] theorem State.modWr_loadQueue (s : State) (n : ChanId) (f : WriteSide → WriteSide) : (s.modWr n f).loadQueue = s.loadQueue := rfl
@[simp] theorem State.modWr_freeCount (s : State) (n : ChanId) (f : WriteSide → WriteSide) : (s.modWr n f).freeCount = s.freeCount := rfl
@[simp] theorem State.modWr_pending (s : State) (n : ChanId) (f : WriteSide → WriteSide) : (s.modWr n f).pending = s.pending := rfl

@[simp] theorem State.modLink_power (s : State) (k : LinkId) (f : Link → Link) : (s.modLink k f).power = s.power := rfl
@[simp] theorem State.modLink_clock (s : State) (k : LinkId) (f : Link → Link) : (s.modLink k f).clock = s.clock := rfl
@[simp] theorem State.modLink_tick (s : State) (k : LinkId) (f : Link → Link) : (s.modLink k f).tick = s.tick := rfl
@[simp] theorem State.modLink_chans (s : State) (k : LinkId) (f : Link → Link) : (s.modLink k f).chans = s.chans := rfl
@[simp] theorem State.modLink_heads (s : State) (k : LinkId) (f : Link → Link) : (s.modLink k f).heads = s.heads := rfl
@[simp] theorem State.modLink_env (s : State) (k : LinkId) (f : Link → Link) : (s.modLink k f).env = s.env := rfl
@[simp] theorem State.modLink_cal (s : State) (k : LinkId) (f : Link → Link) : (s.modLink k f).cal = s.cal := rfl
@[simp] theorem State.modLink_ports (s : State) (k : LinkId) (f : Link → Link) : (s.modLink k f).ports = s.ports := rfl
@[simp] theorem State.modLink_sub (s : State) (k : LinkId) (f : Link → Link) : (s.modLink k f).sub = s.sub := rfl
@[simp] theorem State.modLink_cmds (s : State) (k : LinkId) (f : Link → Link) : (s.modLink k f).cmds = s.cmds := rfl
@[simp] theorem State.modLink_sched (s : State) (k : LinkId) (f : Link → Link) : (s.modLink k f).sched = s.sched := rfl
@[simp] theorem State.modLink_bms (s : State) (k : LinkId) (f : Link → Link) : (s.modLink k f).bms = s.bms := rfl
@[simp] theorem State.modLink_cache (s : State) (k : LinkId) (f : Link → Link) : (s.modLink k f).cache = s.cache := rfl
@[simp] theorem State.modLink_faults (s : State) (k : LinkId) (f : Link → Link) : (s.modLink k f).faults = s.faults := rfl
@[simp] theorem State.modLink_mule (s : State) (k : LinkId) (f : Link → Link) : (s.modLink k f).mule = s.mule := rfl
@[simp] theorem State.modLink_dict (s : State) (k : LinkId) (f : Link → Link) : (s.modLink k f).dict = s.dict := rfl
@[simp] theorem State.modLink_mgmt (s : State) (k : LinkId) (f : Link → Link) : (s.modLink k f).mgmt = s.mgmt := rfl
@[simp] theorem State.modLink_fw (s : State) (k : LinkId) (f : Link → Link) : (s.modLink k f).fw = s.fw := rfl
@[simp] theorem State.modLink_evr (s : State) (k : LinkId) (f : Link → Link) : (s.modLink k f).evr = s.evr := rfl
@[simp] theorem State.modLink_loadQueue (s : State) (k : LinkId) (f : Link → Link) : (s.modLink k f).loadQueue = s.loadQueue := rfl
@[simp] theorem State.modLink_freeCount (s : State) (k : LinkId) (f : Link → Link) : (s.modLink k f).freeCount = s.freeCount := rfl
@[simp] theorem State.modLink_pending (s : State) (k : LinkId) (f : Link → Link) : (s.modLink k f).pending = s.pending := rfl

@[simp] theorem State.modPort_power (s : State) (p : PortId) (f : Port → Port) : (s.modPort p f).power = s.power := rfl
@[simp] theorem State.modPort_clock (s : State) (p : PortId) (f : Port → Port) : (s.modPort p f).clock = s.clock := rfl
@[simp] theorem State.modPort_tick (s : State) (p : PortId) (f : Port → Port) : (s.modPort p f).tick = s.tick := rfl
@[simp] theorem State.modPort_links (s : State) (p : PortId) (f : Port → Port) : (s.modPort p f).links = s.links := rfl
@[simp] theorem State.modPort_chans (s : State) (p : PortId) (f : Port → Port) : (s.modPort p f).chans = s.chans := rfl
@[simp] theorem State.modPort_heads (s : State) (p : PortId) (f : Port → Port) : (s.modPort p f).heads = s.heads := rfl
@[simp] theorem State.modPort_env (s : State) (p : PortId) (f : Port → Port) : (s.modPort p f).env = s.env := rfl
@[simp] theorem State.modPort_cal (s : State) (p : PortId) (f : Port → Port) : (s.modPort p f).cal = s.cal := rfl
@[simp] theorem State.modPort_sub (s : State) (p : PortId) (f : Port → Port) : (s.modPort p f).sub = s.sub := rfl
@[simp] theorem State.modPort_cmds (s : State) (p : PortId) (f : Port → Port) : (s.modPort p f).cmds = s.cmds := rfl
@[simp] theorem State.modPort_sched (s : State) (p : PortId) (f : Port → Port) : (s.modPort p f).sched = s.sched := rfl
@[simp] theorem State.modPort_bms (s : State) (p : PortId) (f : Port → Port) : (s.modPort p f).bms = s.bms := rfl
@[simp] theorem State.modPort_cache (s : State) (p : PortId) (f : Port → Port) : (s.modPort p f).cache = s.cache := rfl
@[simp] theorem State.modPort_faults (s : State) (p : PortId) (f : Port → Port) : (s.modPort p f).faults = s.faults := rfl
@[simp] theorem State.modPort_mule (s : State) (p : PortId) (f : Port → Port) : (s.modPort p f).mule = s.mule := rfl
@[simp] theorem State.modPort_dict (s : State) (p : PortId) (f : Port → Port) : (s.modPort p f).dict = s.dict := rfl
@[simp] theorem State.modPort_mgmt (s : State) (p : PortId) (f : Port → Port) : (s.modPort p f).mgmt = s.mgmt := rfl
@[simp] theorem State.modPort_fw (s : State) (p : PortId) (f : Port → Port) : (s.modPort p f).fw = s.fw := rfl
@[simp] theorem State.modPort_evr (s : State) (p : PortId) (f : Port → Port) : (s.modPort p f).evr = s.evr := rfl
@[simp] theorem State.modPort_loadQueue (s : State) (p : PortId) (f : Port → Port) : (s.modPort p f).loadQueue = s.loadQueue := rfl
@[simp] theorem State.modPort_freeCount (s : State) (p : PortId) (f : Port → Port) : (s.modPort p f).freeCount = s.freeCount := rfl
@[simp] theorem State.modPort_pending (s : State) (p : PortId) (f : Port → Port) : (s.modPort p f).pending = s.pending := rfl

@[simp] theorem State.modPorts_power (s : State) (f : Port → Port) : (s.modPorts f).power = s.power := rfl
@[simp] theorem State.modPorts_clock (s : State) (f : Port → Port) : (s.modPorts f).clock = s.clock := rfl
@[simp] theorem State.modPorts_tick (s : State) (f : Port → Port) : (s.modPorts f).tick = s.tick := rfl
@[simp] theorem State.modPorts_links (s : State) (f : Port → Port) : (s.modPorts f).links = s.links := rfl
@[simp] theorem State.modPorts_chans (s : State) (f : Port → Port) : (s.modPorts f).chans = s.chans := rfl
@[simp] theorem State.modPorts_heads (s : State) (f : Port → Port) : (s.modPorts f).heads = s.heads := rfl
@[simp] theorem State.modPorts_env (s : State) (f : Port → Port) : (s.modPorts f).env = s.env := rfl
@[simp] theorem State.modPorts_cal (s : State) (f : Port → Port) : (s.modPorts f).cal = s.cal := rfl
@[simp] theorem State.modPorts_sub (s : State) (f : Port → Port) : (s.modPorts f).sub = s.sub := rfl
@[simp] theorem State.modPorts_cmds (s : State) (f : Port → Port) : (s.modPorts f).cmds = s.cmds := rfl
@[simp] theorem State.modPorts_sched (s : State) (f : Port → Port) : (s.modPorts f).sched = s.sched := rfl
@[simp] theorem State.modPorts_bms (s : State) (f : Port → Port) : (s.modPorts f).bms = s.bms := rfl
@[simp] theorem State.modPorts_cache (s : State) (f : Port → Port) : (s.modPorts f).cache = s.cache := rfl
@[simp] theorem State.modPorts_faults (s : State) (f : Port → Port) : (s.modPorts f).faults = s.faults := rfl
@[simp] theorem State.modPorts_mule (s : State) (f : Port → Port) : (s.modPorts f).mule = s.mule := rfl
@[simp] theorem State.modPorts_dict (s : State) (f : Port → Port) : (s.modPorts f).dict = s.dict := rfl
@[simp] theorem State.modPorts_mgmt (s : State) (f : Port → Port) : (s.modPorts f).mgmt = s.mgmt := rfl
@[simp] theorem State.modPorts_fw (s : State) (f : Port → Port) : (s.modPorts f).fw = s.fw := rfl
@[simp] theorem State.modPorts_evr (s : State) (f : Port → Port) : (s.modPorts f).evr = s.evr := rfl
@[simp] theorem State.modPorts_loadQueue (s : State) (f : Port → Port) : (s.modPorts f).loadQueue = s.loadQueue := rfl
@[simp] theorem State.modPorts_freeCount (s : State) (f : Port → Port) : (s.modPorts f).freeCount = s.freeCount := rfl
@[simp] theorem State.modPorts_pending (s : State) (f : Port → Port) : (s.modPorts f).pending = s.pending := rfl

@[simp] theorem State.modHead_power (s : State) (h : HeadId) (f : Head → Head) : (s.modHead h f).power = s.power := rfl
@[simp] theorem State.modHead_clock (s : State) (h : HeadId) (f : Head → Head) : (s.modHead h f).clock = s.clock := rfl
@[simp] theorem State.modHead_tick (s : State) (h : HeadId) (f : Head → Head) : (s.modHead h f).tick = s.tick := rfl
@[simp] theorem State.modHead_links (s : State) (h : HeadId) (f : Head → Head) : (s.modHead h f).links = s.links := rfl
@[simp] theorem State.modHead_chans (s : State) (h : HeadId) (f : Head → Head) : (s.modHead h f).chans = s.chans := rfl
@[simp] theorem State.modHead_env (s : State) (h : HeadId) (f : Head → Head) : (s.modHead h f).env = s.env := rfl
@[simp] theorem State.modHead_cal (s : State) (h : HeadId) (f : Head → Head) : (s.modHead h f).cal = s.cal := rfl
@[simp] theorem State.modHead_ports (s : State) (h : HeadId) (f : Head → Head) : (s.modHead h f).ports = s.ports := rfl
@[simp] theorem State.modHead_sub (s : State) (h : HeadId) (f : Head → Head) : (s.modHead h f).sub = s.sub := rfl
@[simp] theorem State.modHead_cmds (s : State) (h : HeadId) (f : Head → Head) : (s.modHead h f).cmds = s.cmds := rfl
@[simp] theorem State.modHead_sched (s : State) (h : HeadId) (f : Head → Head) : (s.modHead h f).sched = s.sched := rfl
@[simp] theorem State.modHead_bms (s : State) (h : HeadId) (f : Head → Head) : (s.modHead h f).bms = s.bms := rfl
@[simp] theorem State.modHead_cache (s : State) (h : HeadId) (f : Head → Head) : (s.modHead h f).cache = s.cache := rfl
@[simp] theorem State.modHead_faults (s : State) (h : HeadId) (f : Head → Head) : (s.modHead h f).faults = s.faults := rfl
@[simp] theorem State.modHead_mule (s : State) (h : HeadId) (f : Head → Head) : (s.modHead h f).mule = s.mule := rfl
@[simp] theorem State.modHead_dict (s : State) (h : HeadId) (f : Head → Head) : (s.modHead h f).dict = s.dict := rfl
@[simp] theorem State.modHead_mgmt (s : State) (h : HeadId) (f : Head → Head) : (s.modHead h f).mgmt = s.mgmt := rfl
@[simp] theorem State.modHead_fw (s : State) (h : HeadId) (f : Head → Head) : (s.modHead h f).fw = s.fw := rfl
@[simp] theorem State.modHead_evr (s : State) (h : HeadId) (f : Head → Head) : (s.modHead h f).evr = s.evr := rfl
@[simp] theorem State.modHead_loadQueue (s : State) (h : HeadId) (f : Head → Head) : (s.modHead h f).loadQueue = s.loadQueue := rfl
@[simp] theorem State.modHead_freeCount (s : State) (h : HeadId) (f : Head → Head) : (s.modHead h f).freeCount = s.freeCount := rfl
@[simp] theorem State.modHead_pending (s : State) (h : HeadId) (f : Head → Head) : (s.modHead h f).pending = s.pending := rfl

/-! ## Parts -/

theorem State.modPort_port (s : State) (p q : PortId) (f : Port → Port) :
    (s.modPort p f).port q = if p = q then f (s.port p) else s.port q := upd_get _ _ _ _

@[simp] theorem State.modPort_port_self (s : State) (p : PortId) (f : Port → Port) : (s.modPort p f).port p = f (s.port p) :=
  upd_get_self _ _ _

theorem State.modPort_modPort (s : State) (p : PortId) (f g : Port → Port) :
    (s.modPort p f).modPort p g = s.modPort p (fun q => g (f q)) := by
  unfold State.modPort
  dsimp only
  rw [upd_upd]

theorem State.modLink_link (s : State) (k j : LinkId) (f : Link → Link) :
    (s.modLink k f).link j = if k = j then f (s.link k) else s.link j := upd_get _ _ _ _

@[simp] theorem State.modLink_link_self (s : State) (k : LinkId) (f : Link → Link) : (s.modLink k f).link k = f (s.link k) :=
  upd_get_self _ _ _

theorem State.modChan_chan (s : State) (n m : ChanId) (f : Chan → Chan) :
    (s.modChan n f).chan m = if n = m then f (s.chan n) else s.chan m := upd_get _ _ _ _

@[simp] theorem State.modChan_chan_self (s : State) (n : ChanId) (f : Chan → Chan) : (s.modChan n f).chan n = f (s.chan n) :=
  upd_get_self _ _ _

@[simp] theorem State.modSdm_sdm_self (s : State) (n : ChanId) (f : Sdm → Sdm) : (s.modSdm n f).sdm n = f (s.sdm n) := by
  unfold State.modSdm State.sdm; rw [State.modChan_chan_self]

@[simp] theorem State.modCe_ce_self (s : State) (n : ChanId) (f : Ce → Ce) : (s.modCe n f).ce n = f (s.ce n) := by
  unfold State.modCe State.ce; rw [State.modChan_chan_self]

@[simp] theorem State.modRwc_rwc_self (s : State) (n : ChanId) (f : Rwc → Rwc) : (s.modRwc n f).rwc n = f (s.rwc n) := by
  unfold State.modRwc State.rwc; rw [State.modChan_chan_self]

@[simp] theorem State.modWr_wr_self (s : State) (n : ChanId) (f : WriteSide → WriteSide) : (s.modWr n f).wr n = f (s.wr n) := by
  unfold State.modWr State.wr; rw [State.modChan_chan_self]

end Sys2Proof.Machine
end

