-- ==== Sys2Proof/Tests/Slice0.lean ====
section
/-! SUPPORT. Tests: the checks of well-formedness, single steps with results worked out from the manual, and for each statement with
hypotheses a concrete state and operands that meet them. -/

namespace Sys2Proof.Tests
open Sys2Proof.Machine
set_option maxRecDepth 100000

/-! ## States for the tests -/

/-- The controller in READY, its tick LOCKED, the Mule mounted. -/
def ready : State := { State.reset with power.running := true, power.porst := true, power.phase := .ready, power.readyTime := 1, mule.mounted := true, tick.state := .locked, bms.stage := .ready }
/-- In READY with port 0's controller enabled. -/
def hosted : State := ready.modPort 0 (fun q => { q with perst := false, link := some (5, 2), en := true, rdy := true })
/-- An admin command of port 0. -/
def hdr : AdminHdr := ⟨0, 7⟩
/-- A submission-queue entry of an operation on one block. -/
def entry (op : IoOp) : SqEntry := ⟨op, 9, 1, 0, 1, false, false, 0, false, 0, false, 0, 0, 0, 0, 0, 0⟩
/-- A context of an operation, number 1. -/
def ctx (op : IoOp) : Ctx := { contextOf hosted 0 ⟨1, 16, 0, 0, 1⟩ (entry op) 0 0xFF with id := 1 }
/-- The state that holds one context. -/
def holding (c : Ctx) : State := { hosted with cmds.ctxs := [c] }
/-- A frame of a type with a payload, its CRC right. -/
def frame (type : Nat) (payload : Word32) : UpFrame := ⟨0, 0, payload, crc8 (BitVec.ofNat 8 (type * 16) :: leBytes 4 payload.toNat), 0⟩
/-- A servo field of an erased wedge. -/
def field : ServoField := ⟨0, [], 0, List.replicate 22 ⟨[], []⟩, List.replicate 11 ⟨[], []⟩, 0, 0, 0, 0, 0⟩
/-- A servo field with SAM at the predicted time. -/
def samField : ServoField := { field with cellFrom := 11537, amplitude := 10, cells := (List.range 16).map (fun i => if (3915 : Nat).testBit (15 - i) then 10 else -10) ++ [0, 0] }
/-- Channel 0 loaded. -/
def loaded : State := ready.modChan 0 (fun c => { c with load := .loaded })
/-- A media operation. -/
def op : MediaOp := ⟨1, .destage, ⟨0, 0⟩, 0, 1, 0⟩
/-- An event. -/
def evt : Event := event 0x0002 0 7
/-- A namespace attached to both controllers. -/
def ns1 : Namespace := ⟨1, false, 65536, [], true, true, ⟨0, [], none, false⟩⟩
/-- A firmware piece. -/
def piece : FwPiece := ⟨0, 4096, ⟨[], true, false⟩⟩

/-! ## Well-formed commands: each check refuses its ill-formed term -/

theorem test_wf_servo_field : (Instr.wedgeStrobe 0 { field with gray := [] }).wf = false ∧ (Instr.wedgeStrobe 0 field).wf = true := by decide
theorem test_wf_entry : (Instr.commandAdmission 0 { entry .read with nlb := 0 }).wf = false ∧ (Instr.commandAdmission 0 (entry .read)).wf = true := by decide
theorem test_wf_piece : (Instr.fwPieceWrite .port0 { piece with length := 100 }).wf = false ∧ (Instr.fwPieceWrite .port0 piece).wf = true := by decide
theorem test_wf_message : messageWf (List.replicate 4097 0) = false ∧ messageWf (List.replicate 4 0) = true := by
  simp only [messageWf, List.length_replicate]; decide
theorem test_wf_data : dataWf (List.replicate 257 0) = false ∧ dataWf [0] = true := by
  simp only [dataWf, List.length_replicate]; decide
theorem test_wf_value : valueWf (List.replicate 1048577 0) = false ∧ valueWf [1] = true := by
  simp only [valueWf, List.length_replicate]; decide

/-! ## Single steps -/

/-- R134: Gray 11 (bits 1 and 0 set) is 2. -/
theorem test_gray : grayValue (List.replicate 20 false ++ [true, true]) = 2 := by decide
/-- R347: 1 ms is in bucket 1, 16,384 ms in bucket 15. -/
theorem test_latency : latencyBucket 999999 = 0 ∧ latencyBucket 1000000 = 1 ∧ latencyBucket 16384000000 = 15 := by decide
/-- R102: head 14 is head 2 of channel 3. -/
theorem test_heads : chanOf 14 = 3 ∧ localIndex 14 = 2 := by decide
/-- Table 10.17: EVENT_NEW set again in the cycle of its clear stays set. -/
theorem test_status_race : ∃ t, exec (.statusWrite 0 0x400 0x400) (ready.modPort 0 (fun q => { q with status := 0x400 })) = .next t ∧
    (t.port 0).status = 0x400 := ⟨_, rfl, by decide⟩
/-- R318: a masked request is pending and sends nothing. -/
theorem test_masked_message : ((setFlag .eventNew (ready.modPort 0 (fun q => { q with intEnable := 0x400 }))).port 0).pending65 = true ∧
    ((setFlag .eventNew (ready.modPort 0 (fun q => { q with intEnable := 0x400 }))).port 0).msgs65 = 0 := by decide
/-- R32: a boundary counts. -/
theorem test_tick_lo : bar2Reg { ready with tick.counter := 0x100000002 } 0 0x0018 = 2 := by decide
/-- R314: EVT_BASE keeps bits 11 to 0. -/
theorem test_evt_base : ∃ t, exec (.evtBaseWrite 0 0xFFFFF123) ready = .next t ∧ bar2Reg t 0 0x0050 = 0x123 := ⟨_, rfl, by decide⟩
/-- R57: a frame with a bad CRC is counted and takes no effect. -/
theorem test_bad_frame : ∃ t, exec (.storeFrame 0 { frame 11 5 with crc := 0 }) ready = .next t ∧ t.power.storeMv = 0 ∧ (t.link 0).badFrames = 1 :=
  ⟨_, rfl, by decide, by decide⟩
/-- R68: a rise of HOLD_SENSE before the trigger counts a dip. -/
theorem test_dip : ∃ t, exec .holdSenseRise { ready with power.holdLow := true } = .next t ∧ t.power.dips = 1 := ⟨_, rfl, by decide⟩
/-- R60: PORST_N low stops the controller. -/
theorem test_porst : ∃ t, exec .porstAssert ready = .next t ∧ t.power.running = false ∧ t.power.porst = false := ⟨_, rfl, by decide, by decide⟩
/-- R290: a tail outside the queue is not taken. -/
theorem test_doorbell : ∃ t, exec (.sqTailDoorbell 0 1 16) (hosted.modPort 0 (fun q => { q with sqs := [⟨1, 16, 0, 0, 1⟩] })) = .next t ∧
    (t.port 0).sqs = [⟨1, 16, 0, 0, 1⟩] := ⟨_, rfl, by decide⟩
/-- R294: an opcode that is not supported. -/
theorem test_admin_opcode : ∃ t, exec (.unsupportedAdminOpcode hdr 0x7F 0 0) hosted = .next t ∧
    (t.port 0).committed = [plainCompletion 7 .invalidOpcode] := ⟨_, rfl, by decide⟩

/-! ## Witnesses: a state and operands that meet the hypotheses of each statement, clause by clause -/

theorem witness_StepRunsTheFrontCommand : (∃ (s : State) (c : Instr) (r : List Instr), s.pending = c :: r) ∧ (∃ s : State, s.pending = []) :=
  ⟨⟨{ ready with pending := [.tickBoundary] }, _, _, rfl⟩, ⟨State.reset, rfl⟩⟩
theorem witness_EveryCommandAnswersAndLeavesTheQueue : ∃ (s : State) (c : Instr) (r : List Instr), s.pending = c :: r :=
  ⟨{ ready with pending := [.indexLoss] }, _, _, rfl⟩
theorem witness_EveryStepKeepsTheBufferWords : ∃ s t : State, BufferWf s ∧ step s = .next t :=
  ⟨{ ready with pending := [.holdSenseFall] }, _, by unfold BufferWf; decide, rfl⟩
theorem witness_EveryStepKeepsTheRecorderInBounds : ∃ s t : State, RecorderOk s.evr ∧ step s = .next t :=
  ⟨{ ready with pending := [.holdSenseFall] }, _, ⟨by decide, by decide, by decide, by decide, fun h => absurd h (by decide)⟩, rfl⟩
theorem witness_TickCounterCountsEveryBoundary :
    (∃ s : State, s.power.running = true ∧ s.power.dead = false ∧ s.power.straps.testMode = false) ∧
    (∃ (c : Instr) (s t : State), exec c s = .next t ∧ isPowerOnReset c = false ∧ c ≠ .tickBoundary) ∧
    (∃ (s : State) (r : Rail), monitored r = true ∧ s.power.railsLow.contains r = false) ∧
    (∃ s : State, (s.power.vault = .vaulted ∨ s.power.vault = .noVault) ∧ s.power.holdLow = false ∧ s.power.pwrdis = false) ∧
    (∃ s : State, s.live = true) :=
  ⟨⟨ready, by decide⟩, ⟨.holdSenseFall, ready, _, rfl, by decide, by decide⟩, ⟨ready, .vddIo, by decide⟩,
    ⟨{ ready with power.vault := .noVault }, by decide⟩, ⟨ready, by decide⟩⟩
theorem witness_EveryCommandLeavesTheOtherPartsAlone :
    ∃ (c : Instr) (s t : State) (p : Part), exec c s = .next t ∧ (touches c).contains p = false :=
  ⟨.holdSenseFall, ready, _, .mule, rfl, by decide⟩
theorem witness_HeldInResetNothingAnswers : ∃ (c : Instr) (s : State), s.power.running = false ∧ s.power.vault = .none ∧
    (∀ n, (s.wr n).request = false) ∧ isPin c = false := ⟨.tickBoundary, State.reset, by decide⟩
theorem witness_PorstAndUndervoltageHoldTheDeviceInReset :
    (∃ (s : State) (r : Rail), monitored r = true ∧ s.power.railsLow.contains r = false) ∧
    (∃ r : Rail, monitored r = false) ∧ (∃ (s : State) (r : Rail), s.power.railsLow.contains r = true) :=
  ⟨⟨ready, .vddIo, by decide⟩, ⟨.vccNand, by decide⟩, ⟨{ ready with power.railsLow := [.vddIo] }, .vddIo, by decide⟩⟩
theorem witness_PowerGoodSamplesTheStrapsAndStartsBoot :
    (∃ s : State, s.power.running = false ∧ s.power.railsLow = []) ∧ (∃ s : State, s.power.running = false ∧ s.power.railsLow ≠ []) ∧
    (∃ (s : State) (r : Rail), s.power.railsLow = [r] ∧ s.power.porst = true ∧ s.power.running = false) ∧
    (∃ (s : State) (r : Rail), s.power.railsLow.contains r = true ∧ s.power.railsLow.filter (· ≠ r) ≠ []) ∧
    (∃ s : State, s.power.vault = .vaulted ∧ s.power.holdLow = false ∧ s.power.pwrdis = false) :=
  ⟨⟨State.reset, by decide⟩, ⟨{ State.reset with power.railsLow := [.vddIo] }, by decide⟩,
    ⟨{ State.reset with power.railsLow := [.vddIo], power.porst := true }, .vddIo, by decide⟩,
    ⟨{ State.reset with power.railsLow := [.vddIo, .vddCore] }, .vddIo, by decide⟩, ⟨{ ready with power.vault := .vaulted }, by decide⟩⟩
theorem witness_HoldSenseAndPwrdisPinsRunTheirTimers : (∃ s : State, s.power.running = true ∧ s.power.holdLow = true ∧ s.power.vault = .none) ∧
    (∃ s : State, s.power.running = false) := ⟨⟨{ ready with power.holdLow := true }, by decide⟩, ⟨State.reset, by decide⟩⟩
theorem witness_VaultTriggerStopsThePlanes : (∃ (s : State) (b : Bool), s.live = true ∧ vaultDue s b = true) ∧
    (∃ s : State, s.power.vault ≠ .none) ∧ (∃ s : State, s.power.vault = .triggered) :=
  ⟨⟨{ ready with power.holdLow := true }, false, by decide⟩, ⟨{ ready with power.vault := .vaulted }, by decide⟩,
    ⟨{ ready with power.vault := .triggered }, by decide⟩⟩
/-- The outcomes that every case of the self-test requires. -/
def goodOdd : List (Fin 6 × Nat × WordCheck) :=
  ([0, 1, 2, 3, 4, 5] : List (Fin 6)).flatMap (fun k => (List.range (selfTestCases k)).map (fun i => (k, i, selfTestRequired k i)))
/-- A self-test whose every case is as required, with check symbols of zero. -/
def goodTest0 : SelftestReading := ⟨0, 0, goodOdd, (0, 0, 0) :: (List.range 257).map (fun i => (1, i, 0))⟩
/-- That reading, with the signature of its check symbols. -/
def goodTest : SelftestReading := { goodTest0 with signature := selfTestFolded goodTest0 }
theorem goodTest_outcome (k : Fin 6) (i : Nat) (h : i < selfTestCases k) : selfTestOutcome goodTest k i = selfTestRequired k i := by
  have m : (k, i, selfTestRequired k i) ∈ goodOdd := by
    unfold goodOdd
    rw [List.mem_flatMap]
    exact ⟨k, (by decide : ∀ k : Fin 6, k ∈ ([0, 1, 2, 3, 4, 5] : List (Fin 6))) k, List.mem_map.2 ⟨i, List.mem_range.2 h, rfl⟩⟩
  unfold selfTestOutcome
  change ((goodOdd.find? _).map _).getD _ = _
  cases e : goodOdd.find? (fun x => x.1 = k && x.2.1 = i) with
  | none => simpa using List.find?_eq_none.1 e _ m
  | some x =>
    have hx := List.find?_some e
    have mx := List.mem_of_find?_eq_some e
    unfold goodOdd at mx
    rw [List.mem_flatMap] at mx
    obtain ⟨k', -, q⟩ := mx
    obtain ⟨i', -, rfl⟩ := List.mem_map.1 q
    simp only [Bool.and_eq_true, decide_eq_true_eq] at hx
    simp [hx.1, hx.2]
theorem goodTest_checks (k : Fin 6) (i : Nat) (h : (k = 0 ∧ i = 0) ∨ (k = 1 ∧ i < 257)) : selfTestChecks goodTest k i = 0 := by
  unfold selfTestChecks
  cases e : goodTest.oddChecks.find? (fun x => x.1 = k && x.2.1 = i) with
  | none =>
    refine absurd (List.find?_eq_none.1 e (k, i, 0) ?_) (by simp)
    rcases h with ⟨rfl, rfl⟩ | ⟨rfl, h⟩
    · exact List.mem_cons_self
    · exact List.mem_cons_of_mem _ (List.mem_map.2 ⟨i, List.mem_range.2 h, rfl⟩)
  | some x =>
    rcases List.mem_cons.1 (List.mem_of_find?_eq_some e) with rfl | q
    · rfl
    · obtain ⟨j, -, rfl⟩ := List.mem_map.1 q; rfl
theorem selfTestFolded_signature (r : SelftestReading) (x : Word32) : selfTestFolded { r with signature := x } = selfTestFolded r := rfl
theorem goodTest_sum : selfTestSumOk goodTest = true := by
  have f (l : List Nat) (h : ∀ i ∈ l, i < 257) : l.foldl (fun a i => a ^^^ selfTestChecks goodTest 1 i) 0 = 0 := by
    induction l with
    | nil => rfl
    | cons i l ih =>
      rw [List.foldl_cons, goodTest_checks 1 i (.inr ⟨rfl, h i (by simp)⟩)]
      exact ih (fun j m => h j (by simp [m]))
  unfold selfTestSumOk
  rw [f _ (fun i m => by have := List.mem_range.1 m; omega), goodTest_checks 1 256 (.inr ⟨rfl, by omega⟩)]
  rfl
theorem goodTest_passes (k : Fin 6) : selfTestFails goodTest k = false := by
  unfold selfTestFails
  rw [goodTest_checks 0 0 (.inl ⟨rfl, rfl⟩), goodTest_sum, show selfTestFolded goodTest = goodTest.signature from selfTestFolded_signature goodTest0 _]
  simp only [ne_eq, not_true_eq_false, decide_false, Bool.and_false, Bool.or_false, decide_true, Bool.and_self, Bool.not_true, List.any_eq_false,
    List.mem_range, decide_eq_true_eq, not_not]
  exact fun i h => goodTest_outcome k i h
theorem witness_BufferInitialiserRunsItsSteps : (∃ s : State, s.live = true ∧ s.bms.stage = .selfTest) ∧
    (∃ r : SelftestReading, ∀ k : Fin 6, selfTestFails r k = false) ∧
    (∃ (r : SelftestReading) (k : Fin 6), selfTestFails r k = true ∧ ∀ j : Fin 6, j.val < k.val → selfTestFails r j = false) ∧
    (∃ s : State, s.live = true ∧ s.bms.stage = .training) ∧ (∃ s : State, s.live = true ∧ s.bms.stage = .fill ∧ s.power.phase = .boot) :=
  ⟨⟨{ ready with bms.stage := .selfTest }, by decide⟩, ⟨goodTest, goodTest_passes⟩, ⟨⟨0, 0, [(0, 0, .poisoned)], []⟩, 0, by decide, fun j h => absurd h (by simp)⟩, ⟨{ ready with bms.stage := .training }, by decide⟩,
    ⟨{ ready with bms.stage := .fill, power.phase := .boot }, by decide⟩⟩
/-- A copy of SYSTEM by which die 0 has 3,299 good blocks. -/
def wornSystem : SystemCopy := ⟨1, (Vector.replicate 2 []).set 0 ((List.range 157).map (fun i => (0, i, false))), .replicate 2 [], .replicate 2 175, 0, none, none, Fw.reset.slots⟩
theorem witness_MountReplayAndZoneLoadEnd :
    (∃ (s : State) (r : MountReading), s.live = true ∧ s.power.phase = .mount ∧ systemCopy r s = none) ∧
    (∃ (s : State) (r : MountReading) (c : SystemCopy), s.live = true ∧ s.power.phase = .mount ∧ systemCopy r s = some c ∧
      goodBlocks (factoryScan r (takeSystem c s)) 0 < 3300) ∧
    (∃ (s : State) (r : MountReading) (c : SystemCopy), s.live = true ∧ s.power.phase = .mount ∧ systemCopy r s = some c ∧
      ∀ d : Fin 2, 3300 ≤ goodBlocks (factoryScan r (takeSystem c s)) d) ∧
    (∃ s : State, s.live = true ∧ s.power.phase = .replay) ∧
    (∃ (s : State) (i : Fin 2) (v : VaultImage), s.live = true ∧ s.power.phase = .replay ∧ s.mule.replaying = some i ∧
      s.mule.regions[i].image = some v) ∧
    (∃ s : State, s.live = true ∧ s.power.zoneLoadDone = false ∧ s.mule.mounted = true ∧ s.power.phase ≠ .replay ∧ s.power.phase ≠ .failed) ∧
    (∃ r : ZoneLoadReading, r.checkpointOk = false) ∧ (∃ r : ZoneLoadReading, r.checkpointOk = true) :=
  ⟨⟨{ ready with power.phase := .mount }, ⟨true, true, 9, []⟩, by decide⟩,
    ⟨{ ready with power.phase := .mount, mule.scanned := true, mule.system := [wornSystem] }, ⟨true, true, 0, []⟩, wornSystem, by decide⟩,
    ⟨{ ready with power.phase := .mount }, ⟨true, true, 0, []⟩, _, by decide, by decide, rfl, by decide⟩,
    ⟨{ ready with power.phase := .replay }, by decide⟩,
    ⟨modRegion 0 (fun r => { r with image := some ⟨1, false, 0, 0, [], [], .writeBack, [], [], [], [], [], true, true, true⟩ })
      { ready with power.phase := .replay, mule.replaying := some 0 }, 0, _, by decide, by decide, by decide, rfl⟩, ⟨ready, by decide⟩, ⟨⟨false, []⟩, rfl⟩, ⟨⟨true, []⟩, rfl⟩⟩
theorem witness_SpinUpAttemptsAndTheirFailures :
    (∃ s : State, s.live = true ∧ s.power.phase = .spinWait ∧ spinUpReady s = true ∧ (s.link (spindleLink s)).up = true) ∧
    (∃ s : State, s.live = true ∧ s.power.phase = .spinWait ∧ spinUpReady s = true ∧ (s.link (spindleLink s)).up = false ∧
      s.power.attempts = 0) ∧
    (∃ s : State, s.live = true ∧ s.tick.ramp = true ∧ s.power.braking = false ∧ s.power.attempts = 0) ∧
    (∃ s : State, s.live = true ∧ s.tick.ramp = true ∧ s.power.braking = false ∧ 1 ≤ s.power.attempts) :=
  ⟨⟨{ ready.modLink 0 (fun l => { l with up := true }) with power.phase := .spinWait, power.pwrdisSeenLow := true, clock.ns := 100000000000 }, by decide⟩,
    ⟨{ ready with power.phase := .spinWait, power.pwrdisSeenLow := true, clock.ns := 100000000000 }, by decide⟩,
    ⟨{ ready with tick.ramp := true }, by decide⟩, ⟨{ ready with tick.ramp := true, power.attempts := 1 }, by decide⟩⟩
theorem witness_HoldupCheckLoadsAndPhaseLimits :
    (∃ s : State, s.live = true ∧ s.tick.state = .locked ∧ s.power.holdTesting = false ∧ s.power.phase ≠ .holdupCheck ∧
      s.power.holdupPassed = false) ∧
    (∃ (s : State) (n : ChanId) (r : List ChanId), s.live = true ∧ s.loadQueue = n :: r ∧ s.dict.unvalidated = false ∧ s.power.restarting = false ∧ s.power.speedChange ≠ .ramping) ∧
    (∃ (s : State) (n : ChanId), s.live = true ∧ (s.chan n).load ≠ .unloaded ∧ (s.chan n).load ≠ .loaded ∧ (s.chan n).loadFails < 2) ∧
    (∃ s : State, s.live = true ∧ zoneLoadLate s = true) ∧
    (∃ s : State, s.live = true ∧ zoneLoadLate s = false ∧ phaseLate s = true ∧ (s.power.phase = .boot ∨ s.power.phase = .mount)) ∧
    (∃ s : State, s.live = true ∧ zoneLoadLate s = false ∧ phaseLate s = true ∧ s.power.phase = .replay) :=
  ⟨⟨ready, by decide⟩, ⟨{ ready with loadQueue := [3] }, 3, [], by decide⟩,
    ⟨ready.modChan 0 (fun c => { c with load := .settling }), 0, by decide⟩, ⟨{ ready with clock.ns := 6000000000 }, by decide⟩,
    ⟨{ ready with power.phase := .boot, mule.mounted := false, clock.ns := 6000000000 }, by decide⟩,
    ⟨{ ready with power.phase := .replay, power.zoneLoadDone := true, clock.ns := 6000000000 }, by decide⟩⟩
theorem witness_VendorInterruptMessages : (∃ s : State, s.live = true) ∧ (∃ v : Fin 66, v ≠ 65) := ⟨⟨ready, by decide⟩, ⟨64, by decide⟩⟩
theorem witness_GrayCodeGivesTheTrackNumber : ∃ (g : List Bool) (i : Nat), g.length = 22 ∧ i < 22 := ⟨List.replicate 22 true, 21, by decide⟩
theorem witness_LinkFramesThatAreNotValidOnlyCount : ∃ (s : State) (k : LinkId) (f : UpFrame), s.power.running = true ∧ frameValid s k 8 f = false :=
  ⟨ready, 0, { frame 8 0 with crc := 1 }, by decide⟩
theorem witness_LinkFramesThatAreValidAct :
    (∃ s : State, s.live = true ∧ frameValid s 0 0 (frame 0 0) = true) ∧ (∃ s : State, s.live = true ∧ frameValid s 1 8 (frame 8 0) = true ∧ 1 ≠ spindleLink s) ∧
    (∃ s : State, s.live = true ∧ frameValid s 0 8 (frame 8 0) = true ∧ 0 = spindleLink s ∧ isGlitch s (s.clock.ns + (frame 8 0).atNs - (frame 8 0).payload.toNat % 65536) = false ∧
      s.tick.state = .locked ∧ s.tick.indexLost = false ∧ s.tick.lastEdge = some 0) ∧
    (∃ s : State, s.live = true ∧ frameValid s 0 8 (frame 8 0) = true ∧ 0 = spindleLink s ∧ isGlitch s (s.clock.ns + (frame 8 0).atNs - (frame 8 0).payload.toNat % 65536) = true) ∧
    (∃ s : State, s.live = true ∧ frameValid s 1 9 (frame 9 0) = true ∧ 1 ≠ spindleLink s) ∧
    (∃ s : State, s.live = true ∧ frameValid s 0 9 (frame 9 0x10000) = true ∧ 0 = spindleLink s ∧
      ((frame 9 0x10000).payload.toNat / 65536) % 2 = 1 ∧ s.power.braking = false) ∧
    (∃ s : State, s.live = true ∧ frameValid s 0 11 (frame 11 5) = true) ∧ (∃ s : State, s.live = true ∧ frameValid s 1 11 (frame 11 5) = true) ∧
    (∃ s : State, s.live = true ∧ frameValid s 0 10 (frame 10 5) = true ∧ s.power.phase ≠ .spinUp) ∧
    (∃ s : State, s.live = true ∧ frameValid s 0 12 (frame 12 5) = true ∧ s.power.holdTesting = true) ∧
    (∃ s : State, s.live = true ∧ frameValid s 1 12 (frame 12 5) = true) ∧
    (∃ s : State, s.live = true ∧ frameValid s 0 12 (frame 12 5) = true ∧ s.power.holdTesting = false) :=
  ⟨⟨ready, by decide⟩, ⟨ready, by decide⟩, ⟨{ ready with clock.ns := 8000000, tick.lastEdge := some 0 }, by decide⟩,
    ⟨{ ready with clock.ns := 100, tick.lastEdge := some 0 }, by decide⟩, ⟨ready, by decide⟩, ⟨ready, by decide⟩, ⟨ready, by decide⟩, ⟨ready, by decide⟩,
    ⟨ready, by decide⟩, ⟨{ ready with power.holdTesting := true }, by decide⟩, ⟨ready, by decide⟩, ⟨ready, by decide⟩⟩
theorem witness_HoldupCheckIsJudgedByItsEnergy : ∃ (vs ve : Nat) (s : State), ve < vs ∧ cfg s 0x7010 1 < vs := ⟨30000, 20000, ready, by decide⟩
theorem witness_LinkLossAndItsLimit :
    (∃ (s : State) (k : LinkId), s.live = true ∧ (s.link k).up = true ∧ k ≠ spindleLink s) ∧
    (∃ (s : State) (k : LinkId), s.live = true ∧ (s.link k).up = true ∧ s.power.phase ≠ .spinUp) ∧ (∃ (s : State) (k : LinkId), s.live = true ∧ (s.link k).up = false) ∧
    (∃ (s : State) (k : LinkId), s.live = true ∧ (s.link k).lost = true ∧ (s.link k).charged = false) ∧
    (∃ (s : State) (k : LinkId), s.live = true ∧ (s.link k).lost = true ∧ (s.link k).charged = false ∧ k = spindleLink s ∧ s.power.phase = .ready ∧
      s.power.restarting = false) ∧
    (∃ (s : State) (k : LinkId), s.live = true ∧ (s.link k).charged = true) :=
  ⟨⟨ready.modLink 1 (fun l => { l with up := true }), 1, by decide⟩, ⟨ready.modLink 0 (fun l => { l with up := true }), 0, by decide⟩, ⟨ready, 0, by decide⟩, ⟨ready.modLink 1 (fun l => { l with lost := true }), 1, by decide⟩,
    ⟨ready.modLink 0 (fun l => { l with lost := true }), 0, by decide⟩,
    ⟨ready.modLink 1 (fun l => { l with lost := true, charged := true }), 1, by decide⟩⟩
theorem witness_IndexAndSpeedLossesStartTheirFallbacks :
    (∃ s : State, s.live = true ∧ s.tick.indexLost = false ∧ s.tick.state = .locked ∧ referenceActuator s = none) ∧
    (∃ (s : State) (n : ChanId), s.live = true ∧ s.tick.indexLost = false ∧ s.tick.state = .locked ∧ referenceActuator s = some n) ∧
    (∃ s : State, s.live = true ∧ s.tick.indexLost = false ∧ s.tick.state = .acquire) ∧ (∃ s : State, s.live = true ∧ s.tick.state = .substitute) ∧
    (∃ (s : State) (n : ChanId), s.live = true ∧ s.tick.indexLost = true ∧ s.tick.lost10s = false ∧ s.tick.state = .holdover ∧ s.power.phase = .ready ∧
      s.power.restarting = false ∧ chanFitted s n = true) ∧
    (∃ s : State, s.live = true ∧ s.tick.speedFault = true ∧ s.power.phase = .ready ∧ s.power.restarting = false) ∧
    (∃ s : State, s.live = true ∧ s.tick.speedFault = false) :=
  ⟨⟨ready, by decide⟩, ⟨ready.modSdm 2 (fun x => { x with validRun := 16, wedge0 := [0] }), 2, by decide⟩, ⟨{ ready with tick.state := .acquire }, by decide⟩,
    ⟨{ ready with tick.state := .substitute }, by decide⟩, ⟨{ ready with tick.state := .holdover, tick.indexLost := true }, 0, by decide⟩,
    ⟨{ ready with tick.speedFault := true }, by decide⟩, ⟨ready, by decide⟩⟩
theorem witness_SheepdogPassLateWithdrawsThePass : (∃ s : State, s.live = true ∧ s.sched.passLateNow = false ∧ placementStopped s = false) ∧
    (∃ s : State, s.live = true ∧ s.sched.passLateNow = true) := ⟨⟨ready, by decide⟩, ⟨{ ready with sched.passLateNow := true }, by decide⟩⟩
/-- Channel 0 in REACQUIRE. -/
def reacquiring : State := loaded.modSdm 0 (fun x => { x with reacq := true })
theorem witness_WedgeStrobesAndTheirWindow :
    (∃ s : State, s.live = true ∧ unloaded s 0 = false ∧ qualifiedPeaks s 0 field = [] ∧ (s.wr 0).levelPending = none ∧ (s.sdm 0).missRun < 3) ∧
    (∃ s : State, s.live = true ∧ unloaded s 0 = true) ∧
    (∃ s : State, s.live = true ∧ unloaded s 0 = false ∧ qualifiedPeaks s 0 samField ≠ [] ∧ (s.wr 0).levelPending = none ∧ (s.wr 0).armed = false) ∧
    (∃ s : State, s.live = true ∧ (s.sdm 0).reacq = true ∧ (s.chan 0).load = .loaded ∧ chanServes s 0 = true) :=
  ⟨⟨loaded, by decide⟩, ⟨ready, by decide⟩, ⟨loaded, by decide⟩, ⟨reacquiring, by decide⟩⟩
/-- A zero record of channel 0. -/
def rec0 : ServoRec := ⟨0, 0, 0, .good, 0, .follow, false, false, false, false, false, false, false, false, false, false, false, false, false, 0, 0, 0, 0, 0, 0, 0, 0, 0, 0, 0, 0, 0, 0⟩
/-- A computation of the control engine. -/
def comp : Computation := ⟨(ready.ce 0).hist, 5, 6, 7, 8, rec0⟩
/-- A ladder. -/
def ladder : Ladder := ⟨op, 0, .secondLook, [], [], [], 0, none, 0, 0, 0, 0, [], none, none⟩
/-- Channel 0 with a change of its write side. -/
def writing (f : WriteSide → WriteSide) : State := loaded.modWr 0 f

/-- A request of the access port. -/
def accessReq : AccessReq := ⟨0, 0, 0, false⟩
/-- Channel 0's engine with an output ready. -/
def outputReady : State := ready.modCe 0 (fun c => { c with busy := some comp })
/-- Channel 0 loaded, a move under way. -/
def moving : State := loaded.modCe 0 (fun c => { c with moving := true })
/-- Channel 0 loaded, a request held. -/
def held : State := loaded.modChan 0 (fun c => { c with access := some accessReq })
theorem witness_AccessRequestsOutputsAndSeekFaults :
    (∃ (s : State) (n : ChanId) (r : AccessReq), s.live = true ∧ chanServes s n = true ∧ chanOf r.head = n ∧ headFitted s r.head = true) ∧
    (∃ (s : State) (n : ChanId) (b : Computation), s.live = true ∧ (s.ce n).busy = some b ∧ (s.wr n).levelPending = none) ∧
    (∃ (s : State) (n : ChanId), s.live = true ∧ (s.ce n).busy = none) ∧
    (∃ (s : State) (n : ChanId), s.live = true ∧ unloaded s n = false ∧ (s.ce n).moving = true) ∧
    (∃ (s : State) (n : ChanId) (r : AccessReq), s.live = true ∧ unloaded s n = false ∧ (s.ce n).moving = false ∧ (s.chan n).access = some r) :=
  ⟨⟨ready, 0, accessReq, by decide⟩, ⟨outputReady, 0, comp, by decide, rfl, by decide⟩, ⟨ready, 0, by decide⟩, ⟨moving, 0, by decide⟩,
    ⟨held, 0, accessReq, by decide, by decide, by decide, rfl⟩⟩
/-- Channel 0 after a written window. -/
def monitored0 : State := writing (fun w => { w with wroteIn := some (⟨0, 0⟩, 0) })
theorem witness_ASectorsWritePermissionFollowsThePreamplifier :
    (∃ (s : State) (n : ChanId), s.live = true ∧ chanFitted s n = true ∧ (s.wr n).levelPending = some (5, false)) ∧
    (∃ (s : State) (n : ChanId), s.live = true ∧ chanFitted s n = true ∧ (s.wr n).paLow = false) ∧
    (∃ (s : State) (n : ChanId), s.live = true ∧ chanFitted s n = true ∧ (s.wr n).paLow = true ∧ (s.wr n).paCharged = false) ∧
    (∃ (s : State) (n : ChanId), s.live = true ∧ chanFitted s n = true ∧ (s.wr n).paHold = true ∧ (s.wr n).levelPending = none) ∧
    (∃ (s : State) (n : ChanId), s.live = true ∧ chanFitted s n = true ∧ assistType s n ≠ 0 ∧ trimEnabled s = true ∧ (s.wr n).fixed = none ∧
      unloaded s n = false ∧ (s.wr n).wroteIn.isSome = true ∧ (∃ m : Word16, fieldU (assistRec s (s.sdm n).head) 8 2 < m.toNat) ∧
      ∃ m : Word16, fieldU (assistRec s (s.sdm n).head) 6 2 ≤ m.toNat ∧ m.toNat ≤ fieldU (assistRec s (s.sdm n).head) 8 2) :=
  ⟨⟨writing (fun w => { w with levelPending := some (5, false) }), 0, by decide⟩, ⟨ready, 0, by decide⟩, ⟨writing (fun w => { w with paLow := true }), 0, by decide⟩,
    ⟨writing (fun w => { w with paHold := true }), 0, by decide⟩,
    ⟨monitored0, 0, by decide, by decide, by decide, by decide, by decide, by decide, by decide, ⟨0xFFFF, by decide⟩, ⟨0, by decide⟩⟩⟩
/-- A sector in the write FIFO. -/
def fifoSector : FifoSector := ⟨0, 0, false, false, 0, []⟩
/-- Channel 0 with a sector of a run in progress. -/
def inSector : State := writing (fun w => { w with request := true, run := some ⟨op, 0, none, false⟩, fifo := [fifoSector] })
/-- Channel 0 with an excursion. -/
def excursion (v r : List Nat) : State := writing (fun w => { w with pendingExc := [⟨⟨0, 0⟩, 0, v, r, 0, []⟩] })
/-- Channel 0 with a run whose first sector aborted. -/
def stalled : State := writing (fun w => { w with run := some ⟨op, 0, some 1, false⟩ })
theorem witness_SectorsOnMediaAndTheWriteRun :
    (∃ s : State, s.live = true ∧ (s.chan 0).load = .loaded ∧ (s.wr 0).request = true) ∧
    (∃ (s : State) (r : WriteRun) (x : FifoSector) (y : List FifoSector), s.servoLive = true ∧ s.live = true ∧ (s.wr 0).request = true ∧
      (s.wr 0).levelPending = none ∧ (s.wr 0).run = some r ∧ (s.wr 0).fifo = x :: y) ∧
    (∃ (s : State) (r : WriteRun) (x : FifoSector) (y : List FifoSector), s.servoLive = true ∧ s.live = false ∧ (s.wr 0).request = true ∧
      (s.wr 0).levelPending = none ∧ (s.wr 0).run = some r ∧ (s.wr 0).fifo = x :: y) ∧
    (∃ s : State, (s.wr 0).request = false ∧ (s.wr 0).armed = false ∧ (s.wr 0).levelPending = none) ∧
    (∃ (s : State) (e : Excursion), s.live = true ∧ verifyDue s 0 = some e) ∧
    (∃ (s : State) (e : Excursion), s.live = true ∧ repairDue s 0 = some e) ∧
    (∃ (s : State) (r : WriteRun), s.live = true ∧ (s.wr 0).run = some r ∧ r.firstAbort.isSome = true) ∧ (∃ s : State, (s.wr 0).run = none) :=
  ⟨⟨inSector, by decide⟩, ⟨inSector, _, _, _, by decide, by decide, by decide, by decide, rfl, rfl⟩,
    ⟨{ inSector with power.vault := .triggered }, _, _, _, by decide, by decide, by decide, by decide, rfl, rfl⟩, ⟨ready, by decide⟩,
    ⟨excursion [1] [], _, by decide, rfl⟩, ⟨excursion [] [1], _, by decide, rfl⟩, ⟨stalled, _, by decide, rfl, by decide⟩, ⟨ready, by decide⟩⟩
/-- A verify read of two sectors. -/
def verifyOp : MediaOp := { op with kind := .verify, count := 2 }
/-- Channel 0 on the track of its verify read. -/
def verifying : State := (loaded.modRwc 0 (fun r => { r with op := some verifyOp })).modCe 0 (fun c => { c with mode := .follow, target := targetOf ready ⟨0, 0⟩ 0 })
/-- Channel 0 with a ladder that waits for its re-read. -/
def rereading : State := loaded.modRwc 0 (fun r => { r with ladders := [{ ladder with step := .reread 0, op := verifyOp }] })
/-- A codeword in the decoder. -/
def codeword : Codeword := ⟨verifyOp, 0, 0, false, true, [], [], (0, 0), false, readParams ready 0 ⟨0, 0⟩ 0 0 0⟩
/-- Channel 0 with a codeword in the decoder. -/
def decoding0 : State := loaded.modRwc 0 (fun r => { r with decoding := [codeword] })
/-- An attempt of the second-look engine. -/
def attempt : Attempt := ⟨1, 0, 0, 1, 0, readParams ready 0 ⟨0, 0⟩ 0 0 0⟩
/-- Channel 0 with an attempt, and ladders. -/
def attempting (l : List Ladder) : State := loaded.modRwc 0 (fun r => { r with attempt := some attempt, ladders := l })
theorem witness_SectorsReadAndTheirDecoding :
    (∃ (s : State) (i : Fin 10) (o : MediaOp), s.live = true ∧ tickReads s = true ∧ (s.rwc 0).decoding.length < 2 ∧ (s.wr 0).run = none ∧
      (entriesIn (dropUnwanted 0 s) 0 .free).head? = some i ∧ ((dropUnwanted 0 s).rwc 0).op = some o ∧ opWanted (dropUnwanted 0 s) o = true ∧
      (s.rwc 0).stopRead = false ∧ (s.rwc 0).nextSector + 1 < o.count ∧
      atSector (dropUnwanted 0 s) 0 o.band (o.offset + (s.rwc 0).nextSector) (opOffset (dropUnwanted 0 s) o) = true) ∧
    (∃ (s : State) (i : Fin 10) (l : Ladder), s.live = true ∧ tickReads s = true ∧ (s.rwc 0).decoding.length < 2 ∧ (s.wr 0).run = none ∧
      (entriesIn (dropUnwanted 0 s) 0 .free).head? = some i ∧ ((dropUnwanted 0 s).rwc 0).op = none ∧ nextReread (dropUnwanted 0 s) 0 = some l) ∧
    (∃ s : State, s.live = true ∧ tickReads s = false) ∧
    (∃ (s : State) (c : Codeword) (r : List Codeword), s.live = true ∧ (s.rwc 0).decoding = c :: r) ∧
    (∃ (s : State) (a : Attempt), s.live = true ∧ (s.rwc 0).attempt = some a ∧ (s.rwc 0).ladders = []) ∧
    (∃ (s : State) (a : Attempt) (l : Ladder), s.live = true ∧ (s.rwc 0).attempt = some a ∧ (s.rwc 0).ladders = [l] ∧ l.op.id = a.opId ∧
      l.offset = a.offset ∧ l.stop = none) ∧
    (∃ s : State, s.live = true ∧ (s.rwc 0).attempt = none) ∧
    (∃ (s : State) (l : Ladder), s.live = true ∧ firstToExpire s 0 = some l ∧ l.early = none ∧ attemptOf s 0 l = false) ∧
    (∃ (s : State) (l : Ladder), s.live = true ∧ firstToExpire s 0 = some l ∧ l.early.isSome = true ∧ attemptOf s 0 l = false) ∧
    (∃ (s : State) (l : Ladder), s.live = true ∧ firstToExpire s 0 = some l ∧ l.early = none ∧ attemptOf s 0 l = true) :=
  ⟨⟨verifying, 0, verifyOp, by decide⟩,
    ⟨rereading, 0, _, by decide, by decide, by decide, by decide, by decide, by decide, rfl⟩,
    ⟨{ ready with tick.state := .stopped }, by decide⟩, ⟨decoding0, _, _, by decide, rfl⟩, ⟨attempting [], _, by decide, rfl, rfl⟩,
    ⟨attempting [ladder], _, _, by decide, rfl, rfl, by decide, by decide, by decide⟩, ⟨ready, by decide⟩,
    ⟨rereading, _, by decide, rfl, by decide, by decide⟩, ⟨attempting [{ ladder with op := verifyOp, offset := 5, early := some (0, 7) }], _, by decide, rfl, by decide, by decide⟩,
    ⟨attempting [ladder], _, by decide, rfl, by decide, by decide⟩⟩
/-- A run on a calibration track that has gone through its phases. -/
def runDone (k : Option CalKind) : CalRunning := { newRun ready 0 k .normal with kind := k, phase := .done }
/-- The run in progress on channel 0. -/
def calRunning (k : Option CalKind) : State := { ready with cal.running := ready.cal.running.set 0 (some (runDone k)), cal.verify := [0] }
/-- A SYNC run with all its sectors. -/
def syncDone : State := { ready with cal.requests := [⟨0, .sync, 0, .normal⟩], cal.syncCount := 1000000 }
/-- A tally that every gate of FE and ALIGN passes. -/
def goodTally : CalTally := { CalTally.zero with read := 10, conv := 10, absCount := 1, absA := 100, absB := 100, pre := 1000000 }
/-- A run of channel 0 that is done, with that tally. -/
def goodRun (k : CalKind) : CalRunning := { runDone (some k) with total := goodTally }
/-- The drive with a run on channel 0, and requests. -/
def calAt (r : CalRunning) (l : List CalReq) : State := { ready with cal.running := ready.cal.running.set 0 (some r), cal.requests := l }
/-- An EQ run with all its sectors. -/
def eqDone : State := { ready with cal.requests := [⟨0, .eq, 0, .normal⟩], cal.eqRuns := [⟨0, 0, [], 1000, 0, 0, 256, 256, 256, true, false⟩] }
/-- A run on a calibration track of head 0 that is done, in a state whose cores run. -/
def CalDone (s : State) (r : CalRunning) (k : Option CalKind) : Prop := s.resident = true ∧ s.faults.mgmtDown = false ∧ headServes s 0 = true ∧
  s.cal.running[chanOf 0] = some r ∧ r.head = 0 ∧ r.kind = k ∧ r.phase = .done
theorem witness_CalibrationRunsAreAskedForAndEnd :
    (∃ s : State, s.resident = true ∧ s.faults.mgmtDown = false ∧ calEnabled s .servo = true ∧ headServes s 0 = true ∧ kindOpen s 0 .servo = true ∧
      s.cal.requests.any (sameRun ⟨0, .servo, 0, .background⟩) = false) ∧
    (∃ s : State, s.resident = true ∧ s.faults.mgmtDown = false ∧ calEnabled s .servo = true ∧ headServes s 0 = true ∧ kindOpen s 0 .servo = true ∧
      s.cal.requests.any (sameRun ⟨0, .servo, 0, .background⟩) = true) ∧
    (∃ s : State, s.resident = true ∧ s.faults.mgmtDown = false ∧ calEnabled s .eq = true ∧ headServes s 0 = true ∧
      s.cal.requests.any (fun q => q.kind = .eq && q.head = 0) = false) ∧
    (∃ s : State, s.resident = true ∧ s.faults.mgmtDown = false ∧ headServes s 31 = false) ∧
    (∃ (s : State) (r : CalRunning), CalDone s r (some .servo) ∧ trackResult s r .servo = .deferred) ∧
    (∃ (s : State) (r : CalRunning), CalDone s r (some .servo) ∧ trackResult s r .servo = .abandoned) ∧
    (∃ (s : State) (r : CalRunning) (l : List CalValue), CalDone s r (some .align) ∧ trackResult s r .align = .values l ∧ r.touched = true) ∧
    (∃ (s : State) (r : CalRunning) (l : List CalValue), CalDone s r (some .align) ∧ trackResult s r .align = .values l ∧ r.touched = false) ∧
    (∃ (s : State) (r : CalRunning) (l : List CalValue), CalDone s r (some .fe) ∧ trackResult s r .fe = .values l ∧
      s.cal.requests.any (fun q => q.kind = .align && q.head = 0) = true) ∧
    (∃ (s : State) (r : CalRunning), CalDone s r none) ∧
    (∃ s : State, s.resident = true ∧ s.faults.mgmtDown = false ∧ headServes s 0 = true ∧ ordinaryComplete s 0 .sync 0 = true) ∧
    (∃ s : State, s.resident = true ∧ s.faults.mgmtDown = false ∧ headServes s 0 = true ∧ ordinaryComplete s 0 .eq 0 = true) ∧
    (∃ (s : State) (q : CalReq), s.resident = true ∧ s.faults.mgmtDown = false ∧ deferredReq s 0 .eq = some q) :=
  ⟨⟨ready, by decide⟩, ⟨{ ready with cal.requests := [⟨0, .servo, 0, .normal⟩] }, by decide⟩, ⟨ready, by decide⟩, ⟨ready, by decide⟩,
    ⟨calAt { runDone (some .servo) with deferred := true } [], _, ⟨by decide, by decide, by decide, rfl, by decide⟩, by decide⟩,
    ⟨calRunning (some .servo), _, ⟨by decide, by decide, by decide, rfl, by decide⟩, by decide⟩,
    ⟨calAt { goodRun .align with touched := true } [], _, _, ⟨by decide, by decide, by decide, rfl, by decide⟩, rfl, by decide⟩,
    ⟨calAt (goodRun .align) [], _, _, ⟨by decide, by decide, by decide, rfl, by decide⟩, rfl, by decide⟩,
    ⟨calAt (goodRun .fe) [⟨0, .align, 0, .normal⟩], _, _, ⟨by decide, by decide, by decide, rfl, by decide⟩, rfl, by decide⟩,
    ⟨calRunning none, _, by decide, by decide, by decide, rfl, by decide⟩, ⟨syncDone, by decide⟩, ⟨eqDone, by decide⟩,
    ⟨{ ready with cal.requests := [⟨0, .eq, 0, .normal⟩] }, _, by decide, by decide, rfl⟩⟩
theorem witness_PortResetsReachTheirPortOnly :
    (∃ s : State, s.live = true ∧ (s.port 0).perst = false ∧ portExists s 0 = true) ∧
    (∃ s : State, s.live = true ∧ (s.port 0).perst = true ∧ (s.power.straps.portMode && decide ((0 : PortId) = 1)) = false) ∧
    (∃ (s : State) (l : Nat × Nat) (v : Word32), s.live = true ∧ (s.port 0).link = some l ∧ v ≠ 0x4E564D65) ∧
    (∃ s : State, s.live = true ∧ (s.port 0).link = none) :=
  ⟨⟨hosted, by decide⟩, ⟨ready, by decide⟩, ⟨hosted, (5, 2), 0, by decide⟩, ⟨ready, by decide⟩⟩
theorem witness_ControllerEnableDisableAndShutdown :
    (∃ (s : State) (l : Nat × Nat), s.live = true ∧ (s.port 0).link = some l ∧ (s.port 0).en = false) ∧ (∃ s : State, s.live = true ∧ (s.port 0).en = true) ∧
    (∃ (s : State) (n : BitVec 2), s.live = true ∧ (n = 1 ∨ n = 2) ∧ (s.port 0).shst = 0) ∧ (∃ n : BitVec 2, n = 0 ∨ n = 3) ∧
    (∃ s : State, s.live = true ∧ (s.port 0).shst ≠ 0) :=
  ⟨⟨ready.modPort 0 (fun q => { q with link := some (5, 2) }), (5, 2), by decide⟩, ⟨hosted, by decide⟩, ⟨hosted, 2, by decide⟩, ⟨3, by decide⟩,
    ⟨hosted.modPort 0 (fun q => { q with shst := 2 }), by decide⟩⟩
theorem witness_DoorbellsMoveTheirQueues :
    (∃ (s : State) (x : Sq) (v : Nat), s.live = true ∧ (s.port 0).rdy = true ∧ x ∈ (s.port 0).sqs ∧ x.qid = 1 ∧ v < x.size) ∧
    (∃ (s : State) (x : Sq) (v : Nat), s.live = true ∧ (s.port 0).rdy = true ∧ x ∈ (s.port 0).sqs ∧ x.size ≤ v) ∧
    (∃ (s : State) (x : Cq) (v : Nat), s.live = true ∧ (s.port 0).rdy = true ∧ x ∈ (s.port 0).cqs ∧ x.qid = 1 ∧ v < x.size ∧
      (v + x.size - x.head) % x.size ≤ x.used) ∧
    (∃ (s : State) (x : Cq) (v : Nat), s.live = true ∧ (s.port 0).rdy = true ∧ x ∈ (s.port 0).cqs ∧ x.used < (v + x.size - x.head) % x.size) :=
  ⟨⟨hosted.modPort 0 (fun q => { q with sqs := [⟨1, 16, 0, 0, 1⟩] }), ⟨1, 16, 0, 0, 1⟩, 15, by decide⟩,
    ⟨hosted.modPort 0 (fun q => { q with sqs := [⟨1, 16, 0, 0, 1⟩] }), ⟨1, 16, 0, 0, 1⟩, 16, by decide⟩,
    ⟨hosted.modPort 0 (fun q => { q with cqs := [⟨1, 16, 0, 2, 0, true⟩] }), ⟨1, 16, 0, 2, 0, true⟩, 2, by decide⟩,
    ⟨hosted.modPort 0 (fun q => { q with cqs := [⟨1, 16, 0, 2, 0, true⟩] }), ⟨1, 16, 0, 2, 0, true⟩, 3, by decide⟩⟩
/-- A context of port 0 that has started. -/
def started (o : IoOp) : Ctx := { ctx o with started := true }
/-- Port 0 with an entry to post. -/
def posting : State := hosted.modPort 0 (fun q => { q with cqs := [⟨1, 16, 0, 2, 0, true⟩], committed := [completionOf (started .read) .success false 0 0 0] })
/-- Port 0 with an entry to fetch. -/
def admitting : State := hosted.modPort 0 (fun q => { q with sqs := [⟨1, 16, 0, 1, 1⟩] })
theorem witness_AdmissionCompletionAndPosting :
    (∃ (s : State) (x : Sq), mayFetch s 0 = true ∧ s.cmds.mediaStopped = false ∧ pickQueue (s.port 0) = some x) ∧ (∃ s : State, mayFetch s 0 = false) ∧
    (∃ (s : State) (c : Ctx), s.live = true ∧ rowCtx s 1 ioBlocks = some c ∧ c.entry.op = .read ∧ c.started = true ∧ c.waiting = [] ∧ c.silent = false) ∧
    (∃ (s : State) (c : Ctx), s.live = true ∧ rowCtx s 1 ioBlocks = some c ∧ c.entry.op ≠ .read ∧ writeReady s c = true ∧ c.silent = false) ∧
    (∃ (s : State) (c : Ctx), s.live = true ∧ rowCtx s 1 (fun o => decide (o = .flush)) = some c ∧ c.started = true ∧ flushDone s c = true ∧ c.silent = false) ∧
    (∃ (s : State) (l : Nat × Nat) (x : Completion × List Completion), s.live = true ∧ (s.port 0).link = some l ∧ cqRoom (s.port 0) 1 = true ∧
      takeCompletion 1 (s.port 0).committed = some x) ∧ (∃ s : State, cqRoom (s.port 0) 1 = false) :=
  ⟨⟨admitting, ⟨1, 16, 0, 1, 1⟩, by decide, by decide, by
      unfold admitting; rw [pickQueue, show (List.filter Sq.ready _) = [(⟨1, 16, 0, 1, 1⟩ : Sq)] from rfl, List.mergeSort_singleton]; rfl⟩, ⟨ready, by decide⟩,
    ⟨holding (started .read), started .read, by decide, rfl, by decide, by decide, by decide, by decide⟩,
    ⟨holding { started .write with dataDone := true, writeBack := true }, { started .write with dataDone := true, writeBack := true }, by decide, rfl, by decide, by decide, by decide⟩,
    ⟨holding { started .flush with flushAtOnce := true }, { started .flush with flushAtOnce := true }, by decide, rfl, by decide, by decide, by decide⟩,
    ⟨posting, (5, 2), _, by decide, by decide, by decide, rfl⟩, ⟨hosted, by decide⟩⟩
/-- Port 0 with one I/O completion queue. -/
def queued : State := hosted.modPort 0 (fun q => { q with cqs := [⟨1, 16, 0, 0, 0, true⟩], sqs := [⟨1, 16, 0, 0, 1⟩] })
theorem witness_QueueCommandsCreateAndDelete :
    (∃ (s : State) (a : AdminHdr) (qid size cqid : Nat), adminRuns s a ∧ createSqStatus (s.port a.port) qid size cqid true = none) ∧
    (∃ (s : State) (a : AdminHdr) (qid cqid : Nat), adminRuns s a ∧ (qid = 0 ∨ 64 < qid) ∧ 1 ≤ cqid ∧ cqid ≤ 64 ∧ (s.port a.port).cqs.any (fun x => x.qid = cqid) = true) ∧
    (∃ (s : State) (a : AdminHdr) (st : Status), adminRuns s a ∧ createSqStatus (s.port a.port) 1 1 1 true = some st) ∧
    (∃ (s : State) (a : AdminHdr) (st : Status), adminRuns s a ∧ createCqStatus (s.port a.port) 1 1 1 true = some st) ∧
    (∃ (s : State) (a : AdminHdr), adminRuns s a ∧ (s.port a.port).sqs.any (fun x => x.qid = 5) = false ∧ (s.port a.port).cqs.any (fun x => x.qid = 5) = false) ∧
    (∃ (s : State) (a : AdminHdr) (qid size vector : Nat), adminRuns s a ∧ createCqStatus (s.port a.port) qid size vector true = none) ∧
    (∃ (s : State) (a : AdminHdr) (qid : Nat), adminRuns s a ∧ qid ≠ 0 ∧ (s.port a.port).sqs.any (fun x => x.qid = qid) = true) ∧
    (∃ (s : State) (a : AdminHdr) (qid : Nat), adminRuns s a ∧ qid ≠ 0 ∧ (s.port a.port).cqs.any (fun x => x.qid = qid) = true ∧
      (s.port a.port).sqs.any (fun x => x.cqid = qid) = false ∧ (s.port a.port).deleting = []) ∧
    (∃ (s : State) (a : AdminHdr) (qid : Nat), adminRuns s a ∧ qid ≠ 0 ∧ (s.port a.port).cqs.any (fun x => x.qid = qid) = true ∧
      (s.port a.port).sqs.any (fun x => x.cqid = qid) = true) :=
  ⟨⟨queued, hdr, 64, 4096, 1, ⟨by decide, by decide⟩, by decide⟩, ⟨queued, hdr, 65, 1, ⟨by decide, by decide⟩, by decide⟩,
    ⟨queued, hdr, _, ⟨by decide, by decide⟩, rfl⟩, ⟨queued, hdr, _, ⟨by decide, by decide⟩, rfl⟩, ⟨queued, hdr, ⟨by decide, by decide⟩, by decide⟩, ⟨queued, hdr, 64, 2, 64, ⟨by decide, by decide⟩, by decide⟩,
    ⟨queued, hdr, 1, ⟨by decide, by decide⟩, by decide⟩, ⟨queued.modPort 0 (fun q => { q with sqs := [] }), hdr, 1, ⟨by decide, by decide⟩, by decide⟩,
    ⟨queued, hdr, 1, ⟨by decide, by decide⟩, by decide⟩⟩
/-- Port 0 with a context of a read on queue 1. -/
def reading : State := holding (started .read)
/-- Port 0 with a context of a write with a sector on media. -/
def onMedia : State := holding { started .write with onMedia := true, dataDone := true }
theorem witness_IdentifyLogsFeaturesAbortAndEvents :
    (∃ v, identifyData hosted 0 0x02 0 0 0 = .ok v) ∧ (∃ st, identifyData hosted 0 0xFF 0 0 0 = .error st) ∧
    (∃ d x, featureValue hosted 0 0x01 0 0 = .ok (d, x)) ∧ (∃ v u, logPage hosted 0 0x04 = (some v, u) ∧ logStatus 0x04 0 0 4 v.length = none) ∧
    (∃ u, logPage hosted 0 0x7F = (none, u)) ∧ (∃ v u st, logPage hosted 0 0x04 = (some v, u) ∧ logStatus 0x04 0 2 4 v.length = some st) ∧
    (∃ st, featureValue hosted 0 0xFF 0 0 = .error st) ∧
    (∃ s : State, adminRuns s hdr ∧ (s.port 0).abortWait.length + (s.port 0).abortDone.length + (s.port 0).abortAdmin.length < 8 ∧
      (s.port 0).abortWait.any (fun x => x.2 = 5) = false ∧ (begunAdmin s 0).contains 5 = false ∧ (s.port 0).aers.contains 5 = true) ∧
    (∃ s : State, adminRuns s hdr ∧ (s.port 0).abortWait.length + (s.port 0).abortDone.length + (s.port 0).abortAdmin.length < 8 ∧
      s.cmds.ctxs.find? (fun c => c.port = 0 && c.sqid = 1 && c.entry.cid = 5 && !c.silent) = none) ∧
    (∃ (s : State) (c : Ctx), adminRuns s hdr ∧ s.cmds.ctxs.find? (fun c => c.port = 0 && c.sqid = 1 && c.entry.cid = 9 && !c.silent) = some c ∧ c.committed = false ∧
      c.unabortable s = false) ∧
    (∃ (s : State) (c : Ctx), adminRuns s hdr ∧ s.cmds.ctxs.find? (fun c => c.port = 0 && c.sqid = 1 && c.entry.cid = 9 && !c.silent) = some c ∧ c.committed = false ∧
      c.unabortable s = true) ∧
    (∃ s : State, adminRuns s hdr ∧ 8 ≤ (s.port 0).abortWait.length + (s.port 0).abortDone.length + (s.port 0).abortAdmin.length) ∧ (∃ s : State, adminRuns s hdr ∧ (s.port 0).aers.length < 4 ∧ (s.port 0).events = []) ∧
    (∃ s : State, adminRuns s hdr ∧ 4 ≤ (s.port 0).aers.length) :=
  ⟨⟨_, rfl⟩, ⟨_, rfl⟩, ⟨_, _, rfl⟩, ⟨_, _, rfl, by decide⟩, ⟨_, rfl⟩, ⟨_, _, _, rfl, rfl⟩, ⟨_, rfl⟩,
    ⟨hosted.modPort 0 (fun q => { q with aers := [5] }), ⟨by decide, by decide⟩, by decide, by decide, by decide, by decide⟩,
    ⟨hosted, ⟨by decide, by decide⟩, by decide, by decide⟩,
    ⟨reading, started .read, ⟨by decide, by decide⟩, rfl, by decide, by decide⟩,
    ⟨onMedia, _, ⟨by decide, by decide⟩, rfl, by decide, by decide⟩,
    ⟨hosted.modPort 0 (fun q => { q with abortWait := List.replicate 8 (0, 0) }), ⟨by decide, by decide⟩, by decide⟩,
    ⟨hosted, ⟨by decide, by decide⟩, by decide, by decide⟩, ⟨hosted.modPort 0 (fun q => { q with aers := [1, 2, 3, 4] }), ⟨by decide, by decide⟩, by decide⟩⟩
theorem witness_SetFeaturesChangesItsFeatureOnly : (∃ (s : State) (a : AdminHdr) (v : Word32), adminRuns s a ∧ v.toNat % 65536 ≤ 64 ∧ v.toNat < 65536) ∧
    (∃ v : Word32, v.toNat / 65536 % 16 = 0 ∧ v.toNat / 1048576 % 4 = 1) ∧ (∃ v : Word32, v.toNat % 32 ≤ 2) ∧ (∃ v : Word32, 2 < v.toNat % 32) ∧
    (∃ v : Word32, v.toNat / 65536 % 16 ≠ 0) ∧ (∃ v : Word32, 64 < v.toNat % 65536) ∧
    (∃ (s : State) (a : AdminHdr), adminRuns s a ∧ ((s.port a.port).sqs.any (fun x => x.qid ≠ 0) || (s.port a.port).cqs.any (fun x => x.qid ≠ 0)) = true) ∧
    (∃ (s : State) (a : AdminHdr), adminRuns s a ∧ ((s.port a.port).sqs.any (fun x => x.qid ≠ 0) || (s.port a.port).cqs.any (fun x => x.qid ≠ 0)) = false) :=
  ⟨⟨hosted, hdr, 64, ⟨by decide, by decide⟩, by decide, by decide⟩, ⟨0x100000, by decide⟩, ⟨2, by decide⟩, ⟨3, by decide⟩, ⟨0x10000, by decide⟩, ⟨65, by decide⟩,
    ⟨queued, hdr, ⟨by decide, by decide⟩, by decide⟩, ⟨hosted, hdr, ⟨by decide, by decide⟩, by decide⟩⟩
/-- The drive with one namespace. -/
def withNs : State := { hosted with sub.namespaces := [ns1] }
theorem witness_SetFeaturesOfANamespaceAndSave : (∃ (s : State) (a : AdminHdr) (nsid : Word32), adminRuns s a ∧ nsid ≠ 0xFFFFFFFF ∧ attachedNs s a.port nsid.toNat = none) ∧
    ∃ (s : State) (a : AdminHdr) (nsid v : Word32) (n : Nat), adminRuns s a ∧ featureNsStatus s a.port nsid.toNat = none ∧
    v.getLsbD 16 = false ∧ n ∈ featureNs s a.port nsid.toNat :=
  ⟨⟨withNs, hdr, 2, ⟨by decide, by decide⟩, by decide, by decide⟩, withNs, hdr, 1, 0, 1, ⟨by decide, by decide⟩, by decide, by decide, by decide⟩
theorem freeBand_found (s : State) (z : Bool) (x : Nat × BandKey) (h : (allBands s z).contains x = true ∧ (bandRec s x.2).nsid = 0 ∧
    (bandRec s x.2).excluded = false ∧ (bandRec s x.2).state ≠ .offline ∧ (bandRec s x.2).state ≠ .readOnly ∧ headServes s x.2.head = true ∧
    headReadOnly s x.2.head = false) : 65536 / 65536 ≤ (freeBands s z).length := by
  obtain ⟨h0, h1, h2, h3, h4, h5, h6⟩ := h
  have m : x ∈ allBands s z := by simpa using h0
  have : x.2 ∈ freeBands s z := by
    rw [freeBands, List.mem_map]
    exact ⟨x, by rw [List.mem_mergeSort, List.mem_filter]; simp [m, h1, h2, h3, h4, h5, h6], rfl⟩
  exact List.length_pos_of_mem this


/-- Namespace management is open: the admin commands run after READY, and no sanitize runs or has failed. -/
def nsRuns (s : State) (a : AdminHdr) : Prop := adminRuns s a ∧ beforeReady s = false ∧ s.sub.sanitize.running = false ∧ s.sub.sanitize.failed = false
/-- The drive with one namespace that is attached to no controller. -/
def loneNs : State := { hosted with sub.namespaces := [{ ns1 with attached0 := false, attached1 := false }] }
theorem namespace_bands : 65536 / 65536 ≤ (freeBands hosted (decide ((0 : Byte).toNat = 2))).length := by
  rw [show decide ((0 : Byte).toNat = 2) = false from by decide]
  exact freeBand_found _ _ (0, ⟨0, 0⟩) (by decide)
theorem hosted_runs : nsRuns hosted hdr := ⟨⟨by decide, by decide⟩, by decide⟩
theorem withNs_runs : nsRuns withNs hdr := ⟨⟨by decide, by decide⟩, by decide⟩
theorem loneNs_runs : nsRuns loneNs hdr := ⟨⟨by decide, by decide⟩, by decide⟩
theorem namespace_create : ∃ (s : State) (a : AdminHdr) (csi : Byte) (n k : Nat), nsRuns s a ∧ (csi = 0 ∨ csi = 2) ∧ n ≠ 0 ∧ n % 65536 = 0 ∧
    s.dict.unvalidated = false ∧ formatChanging s = false ∧ freeNsid s = some k ∧ n / 65536 ≤ (freeBands s (csi.toNat = 2)).length :=
  ⟨hosted, hdr, 0, 65536, 1, hosted_runs, .inl rfl, by decide, by decide, by decide, by decide, by decide, namespace_bands⟩
theorem witness_NamespacesFormatAndSanitize :
    (∃ (s : State) (a : AdminHdr) (csi : Byte) (n k : Nat), nsRuns s a ∧ (csi = 0 ∨ csi = 2) ∧ n ≠ 0 ∧ n % 65536 = 0 ∧ s.dict.unvalidated = false ∧ formatChanging s = false ∧
      freeNsid s = some k ∧ n / 65536 ≤ (freeBands s (csi.toNat = 2)).length) ∧
    (∃ (s : State) (a : AdminHdr) (n m : Nat), nsRuns s a ∧ (n ≠ m ∨ n = 0 ∨ n % 65536 ≠ 0)) ∧
    (∃ (s : State) (a : AdminHdr) (nsid : Word32), nsRuns s a ∧
      (s.sub.namespaces.filter (fun n => nsid = 0xFFFFFFFF || n.nsid = nsid.toNat)) ≠ [] ∧
      nsDenied s a.port (s.sub.namespaces.filter (fun n => nsid = 0xFFFFFFFF || n.nsid = nsid.toNat)) = false) ∧
    (∃ (s : State) (a : AdminHdr) (nsid : Word32) (l : List Word16) (n : Namespace), nsRuns s a ∧ ctrlListOk s l = true ∧
      shownNsAt s nsid.toNat = some n ∧ nsDenied s a.port [n] = false ∧ (∀ c ∈ l, n.attached (if c = 1 then 0 else 1) = false)) ∧
    (∃ (s : State) (a : AdminHdr) (nsid : Word32) (l : List Word16) (n : Namespace), nsRuns s a ∧ ctrlListOk s l = true ∧
      shownNsAt s nsid.toNat = some n ∧ nsDenied s a.port [n] = false ∧ (∀ c ∈ l, n.attached (if c = 1 then 0 else 1) = true)) ∧
    (∃ (s : State) (a : AdminHdr) (nsid : Word32) (n : Namespace), nsRuns s a ∧ nsid ≠ 0xFFFFFFFF ∧ attachedNs s a.port nsid.toNat = some n ∧
      nsDenied s a.port [n] = false) ∧
    (∃ (s : State) (a : AdminHdr) (f : BitVec 4) (e : BitVec 3) (nsid : Word32), nsRuns s a ∧ (f ≠ 0 ∨ e ≠ 0 ∨ nsid = 0xFFFFFFFF)) ∧
    (∃ (s : State) (a : AdminHdr) (k : BitVec 4), nsRuns s a ∧ 1 ≤ k.toNat ∧ k.toNat ≤ 4 ∧ nsDenied s a.port s.sub.namespaces = false) ∧
    (∃ (s : State) (a : AdminHdr) (z : BitVec 3), nsRuns s a ∧ z ≠ 3) ∧
    (∃ (s : State) (a : AdminHdr), adminRuns s a ∧ beforeReady s = false ∧ s.sub.sanitize.running = false ∧ s.sub.sanitize.failed = true) ∧
    (∃ s : State, s.resident = true ∧ s.sub.sanitize.running = true) :=
  ⟨namespace_create,
    ⟨hosted, hdr, 65537, 65537, hosted_runs, by decide⟩,
    ⟨withNs, hdr, 0xFFFFFFFF, withNs_runs, by decide, by decide⟩,
    ⟨loneNs, hdr, 1, [1], { ns1 with attached0 := false, attached1 := false }, loneNs_runs, by decide, by decide, by decide, by simp [Namespace.attached]⟩,
    ⟨withNs, hdr, 1, [1], ns1, withNs_runs, by decide, by decide, by decide, by simp [ns1, Namespace.attached]⟩,
    ⟨withNs, hdr, 1, ns1, withNs_runs, by decide, by decide, by decide⟩,
    ⟨hosted, hdr, 0, 0, 0xFFFFFFFF, hosted_runs, by decide⟩,
    ⟨withNs, hdr, 4, withNs_runs, by decide, by decide, by decide⟩, ⟨hosted, hdr, 2, hosted_runs, by decide⟩,
    ⟨{ hosted with sub.sanitize := ⟨false, true, 1, 0, 0⟩ }, hdr, ⟨by decide, by decide⟩, by decide⟩,
    ⟨{ hosted with sub.sanitize := ⟨true, false, 1, 0, 0⟩ }, by decide⟩⟩
/-- The slot that is not active holds a sealed image, the drive turns at its speed and has passed its hold-up check. -/
def sealed : State := { modSlot 1 (fun x => { x with length := 0x200000, imageId := 7, state := 2 }) hosted with tick.lastRev := some (nominalRev hosted), power.holdupPassed := true }
/-- Port 0 stages an image of which its piece at 4,096 is due. -/
def pieceDue : State := modSlot 1 (fun x => { x with length := 0x200000, imageId := 7, state := 1 }) (modPath .port0 (fun q => { q with sourceImage := some 7 }) { hosted with fw.source := some .port0, fw.header := some [] })
/-- Port 0 in the privileged view. -/
def privHost : State := modPath .port0 (fun q => { q with priv := true }) hosted
/-- An object's write by port 0 is accepted. -/
def hostAccepts (s : State) (i j : Nat) (v : List Byte) (staged : Bool) : Bool :=
  match admitWrite s .port0 i j (decide (v = [2])) with
  | .error _ => false
  | .ok o => dictServes s && !partFailed s i && decide (valueCode s i j o v = 0) && decide (o.staged = staged)
theorem hostAccepted (s : State) (i j : Nat) (v : List Byte) (staged : Bool) (h : hostAccepts s i j v staged = true) :
    ∃ o, o.staged = staged ∧ AcceptedWrite s .port0 i j v o := by
  unfold hostAccepts at h
  split at h
  · simp at h
  · rename_i o e
    simp only [Bool.and_eq_true, Bool.not_eq_true', decide_eq_true_eq] at h
    exact ⟨o, h.2, h.1.1.1, e, h.1.1.2, h.1.2⟩
/-- A staged set without heads and actuators: validation passes. -/
def emptySet : List (ObjKey × List Byte) :=
  [(⟨0x2100, 4⟩, [0]), (⟨0x3000, 2⟩, [0]), (⟨0x3000, 3⟩, [0]), (⟨0x3000, 4⟩, [1]), (⟨0x3000, 5⟩, [1]), (⟨0x4000, 1⟩, [1]), (⟨0x5100, 5⟩, [0])]
    ++ (List.range 4).flatMap (fun n => [(⟨0x4110 + n, 1⟩, [0, 0, 1, 0, 1, 0, 1]), (⟨0x4110 + n, 2⟩, []), (⟨0x4110 + n, 3⟩, []),
      (⟨0x4120 + n, 1⟩, [0xFF]), (⟨0x4120 + n, 2⟩, [0xFF]), (⟨0x4120 + n, 3⟩, [0xFF]), (⟨0x4120 + n, 4⟩, [0xFF])])
    ++ (List.range 16).flatMap (fun h => [(⟨0x3100, h⟩, []), (⟨0x5102, h⟩, []), (⟨0x5103, h⟩, [])])
/-- With a staged set of port 0. -/
def hostStaging (l : List (ObjKey × List Byte)) : State := { privHost with dict.staged := l, dict.owner := some .port0, power.crx4 := true }
theorem host_staging_passes : commitFailure (atOffset 0 (hostStaging emptySet)) = none := by decide +kernel
theorem host_commit_runs : CommitRuns (atOffset 0 (hostStaging emptySet)) := ⟨by decide, by decide, host_staging_passes, by decide⟩
theorem host_commit : hostAccepts (atOffset 0 (hostStaging emptySet)) 0x1020 1 [1] false = true := by decide
theorem host_discard : hostAccepts (hostStaging []) 0x1020 1 [2] false = true := by decide
theorem host_staged : hostAccepts privHost 0x5100 5 [1] true = true := by decide
theorem host_plain : hostAccepts privHost 0x2201 1 [1] false = true := by decide
theorem witness_FirmwareAndVendorAdminCommands :
    (∃ (s : State) (a : AdminHdr) (x : FwPiece), adminRuns s a ∧ judgePiece (pathOf a.port) x s = .accepted) ∧
    (∃ (s : State) (a : AdminHdr) (x : FwPiece) (r : PieceAnswer), adminRuns s a ∧ judgePiece (pathOf a.port) x s = r ∧ r ≠ .accepted) ∧
    (∃ (s u : State) (a : AdminHdr) (f : BitVec 3) (st : Status), adminRuns s a ∧ fwAction 0 f.toNat (pathOf a.port) (some a) false s = (some st, u)) ∧
    (∃ (s u : State) (a : AdminHdr) (f : BitVec 3), adminRuns s a ∧ fwAction 3 f.toNat (pathOf a.port) (some a) false s = (none, u)) ∧
    (∃ (s : State) (a : AdminHdr) (f : BitVec 3) (i : Fin 2), adminRuns s a ∧ namedSlot s f.toNat = some i ∧
      (∀ k : Fin 4, fwActionRefusal k.val i s = none) ∧ s.fw.slots[i].resetOnly = false) ∧
    (∃ (s u : State) (a : AdminHdr) (ns n : Nat), adminRuns s a ∧ dictWrite (pathOf a.port) (.command a) 0x1020 1 [1] (atOffset ns s) = (some n, u)) ∧
    (∃ (s u : State) (a : AdminHdr) (n : Nat), adminRuns s a ∧ dictWrite (pathOf a.port) (.command a) 0x1020 1 [2] s = (some n, u)) ∧
    (∃ (s : State) (a : AdminHdr) (ns : Nat) (o : Obj), adminRuns s a ∧ AcceptedWrite (atOffset ns s) (pathOf a.port) 0x1020 1 [1] o ∧ CommitRuns (atOffset ns s)) ∧
    (∃ (s : State) (a : AdminHdr) (o : Obj), adminRuns s a ∧ AcceptedWrite s (pathOf a.port) 0x1020 1 [2] o ∧ s.dict.stage = .idle) ∧
    (∃ (s : State) (a : AdminHdr) (x : Word32) (d : List Byte) (o : Obj), adminRuns s a ∧ cdwBad x 0 24 0 d.length = false ∧ cdwSegment x = false ∧
      cdwIndex x ≠ 0x1020 ∧ o.staged = true ∧ AcceptedWrite s (pathOf a.port) (cdwIndex x) (cdwSub x) d o) ∧
    (∃ (s : State) (a : AdminHdr) (x : Word32) (d : List Byte) (o : Obj), adminRuns s a ∧ cdwBad x 0 24 0 d.length = false ∧ cdwSegment x = false ∧
      cdwIndex x ≠ 0x1020 ∧ o.staged = false ∧ AcceptedWrite s (pathOf a.port) (cdwIndex x) (cdwSub x) d o ∧
      specialWrite (pathOf a.port) (cdwIndex x) (cdwSub x) d s = none) ∧
    (∃ (s : State) (a : AdminHdr) (x m : Word32), adminRuns s a ∧ cdwBad x 0 25 1 m.toNat = false ∧ x.getLsbD 24 = false ∧ cdwSegment x = false ∧
      readCode s (pathOf a.port) (cdwIndex x) (cdwSub x) = 0 ∧ destructive (cdwIndex x) (cdwSub x) = false) ∧
    (∃ (x : Word32) (d : List Byte), cdwBad x 0 24 0 d.length = false ∧ cdwSegment x = false) ∧
    (∃ (x o : Word32) (d : List Byte), cdwBad x o 24 0 d.length = true) ∧ (∃ (x o m : Word32), cdwBad x o 25 1 m.toNat = true) ∧
    (∃ (s u : State) (x m : Word32) (n k : Nat) (v : List Byte), cdwBad x 0 25 1 m.toNat = false ∧
      dictRead (pathOf hdr.port) (x.toNat % 65536) (x.toNat / 65536 % 256) (x.getLsbD 24) (cdwSegment x) 0 m.toNat s = (n, v, k, u)) :=
  ⟨⟨pieceDue, hdr, { piece with offset := 4096 }, ⟨by decide, by decide⟩, by decide⟩,
    ⟨hosted, hdr, piece, .outOfRange, ⟨by decide, by decide⟩, by decide, by decide⟩,
    ⟨hosted, _, hdr, 7, _, ⟨by decide, by decide⟩, rfl⟩, ⟨sealed, _, hdr, 2, ⟨by decide, by decide⟩, rfl⟩,
    ⟨sealed, hdr, 2, 1, ⟨by decide, by decide⟩, by decide, by decide, by decide⟩,
    ⟨hosted, _, hdr, 0, _, ⟨by decide, by decide⟩, rfl⟩, ⟨hosted, _, hdr, _, ⟨by decide, by decide⟩, rfl⟩,
    (hostAccepted _ _ _ _ _ host_commit).elim
      (fun o h => ⟨hostStaging emptySet, hdr, 0, o, ⟨by decide, by decide⟩, h.2, host_commit_runs⟩),
    (hostAccepted _ _ _ _ _ host_discard).elim (fun o h => ⟨_, hdr, o, ⟨by decide, by decide⟩, h.2, by decide⟩),
    (hostAccepted _ _ _ _ _ host_staged).elim
      (fun o h => ⟨privHost, hdr, 0x55100, [1], o, ⟨by decide, by decide⟩, by decide, by decide, by decide, h.1, h.2⟩),
    (hostAccepted _ _ _ _ _ host_plain).elim
      (fun o h => ⟨privHost, hdr, 0x12201, [1], o, ⟨by decide, by decide⟩, by decide, by decide, by decide, h.1, h.2, by decide⟩),
    ⟨hosted, hdr, 0x11001, 2, ⟨by decide, by decide⟩, by decide, by decide, by decide, by decide, by decide⟩,
    ⟨0x11010, [1], by decide⟩, ⟨0, 1, [1], by decide⟩, ⟨0, 0, 0, by decide⟩, ⟨hosted, _, 0x11001, 2, _, _, _, by decide, rfl⟩⟩
/-- A SHADOW line of set 0's way 0. -/
def shadowLine : Line := { block := ⟨1, 0⟩, way := 0, state := .shadow, version := 0, hostx := 0, port := 0, gen := 0, mr := none, fromSide := false, pinned := false, poison := false, replayed := false, track := 0, data := 0 }
/-- A Flush that waits for a DIRTY line. -/
def unflushed : State := { holding { ctx .flush with covered := [(⟨1, 0⟩, some 0)] } with cache.lines := [{ shadowLine with state := .dirty }] }
theorem witness_IoCommandsRunOnTheirContexts :
    (∃ (s : State) (c : Ctx) (d : List Block), s.live = true ∧ rowCtx s 1 (fun o => decide (o = .write)) = some c ∧ c.started = false ∧ d.length = c.entry.nlb) ∧
    (∃ (s : State) (c : Ctx), s.live = true ∧ rowCtx s 1 (fun o => decide (o = .read)) = some c ∧ mayRead s c = true ∧ c.started = false) ∧
    (∃ (s : State) (c : Ctx), s.live = true ∧ rowCtx s 1 (fun o => decide (o = .read)) = some c ∧ mayRead s c = false) ∧
    (∃ (s : State) (c : Ctx), s.live = true ∧ rowCtx s 1 (fun o => decide (o = .flush)) = some c ∧ flushDone s c = true ∧ c.silent = false) ∧
    (∃ (s : State) (c : Ctx) (x : BlockKey × Option Nat), s.live = true ∧ rowCtx s 1 (fun o => decide (o = .flush)) = some c ∧ flushDone s c = false ∧ x ∈ c.covered) ∧
    (∃ (s : State) (c : Ctx) (op : Byte), s.live = true ∧ ctxOf s 1 = some c ∧ c.committed = false ∧ c.entry.op = .unsupported op ∧ c.silent = false) :=
  ⟨⟨holding (ctx .write), _, [0], by decide, rfl, by decide, by decide⟩, ⟨holding (ctx .read), _, by decide, rfl, by decide, by decide⟩,
    ⟨{ hosted with cmds.ctxs := [{ ctx .write with id := 0 }, started .read] }, started .read, by decide, rfl, by decide⟩,
    ⟨holding { ctx .flush with flushAtOnce := true }, _, by decide, rfl, by decide, by decide⟩,
    ⟨unflushed, { ctx .flush with covered := [(⟨1, 0⟩, some 0)] }, (⟨1, 0⟩, some 0), by decide, rfl, by decide, by decide⟩,
    ⟨holding (ctx (.unsupported 0x7F)), _, 0x7F, by decide, rfl, by decide, rfl, by decide⟩⟩
/-- The drive with one zoned namespace of one band. -/
def zonedNs : State := { hosted with sub.namespaces := [⟨1, true, 65536, [⟨0, 40⟩], true, true, ⟨0, [], none, false⟩⟩] }
/-- With a context of an operation on its zone. -/
def zoning (op : IoOp) : State := { zonedNs with cmds.ctxs := [{ ctx op with effect := true }] }
theorem witness_ZoneManagementActsAtItsOrderingPoint :
    (∃ (s : State) (c : Ctx) (k : BandKey), s.live = true ∧ rowCtx s 1 (fun o => decide (o = .zoneOffline)) = some c ∧ mayAct s c = true ∧
      c.entry.selectAll = false ∧ actionTargets s c = [k] ∧ actionStatus s .zoneOffline (bandRec s k).state ≠ .success) ∧
    (∃ (s : State) (c : Ctx) (k : BandKey), s.live = true ∧ rowCtx s 1 (fun o => decide (o = .zoneReset)) = some c ∧ mayAct s c = true ∧
      c.entry.selectAll = false ∧ actionTargets s c = [k] ∧ actionStatus s .zoneReset (bandRec s k).state = .success ∧ c.silent = false ∧
      zoneWrites s k = [] ∧ isCalBand k = false ∧ (bandRec s k).shingled = true) ∧
    (∃ (s : State) (k : BandKey), isCalBand k = false ∧ (bandRec s k).state.isOpen = true ∧ (bandRec s k).state ≠ .empty ∧ (bandRec s k).shingled = true) ∧
    (∃ (s : State) (c : Ctx), s.live = true ∧ rowCtx s 1 (fun o => decide (o = .zoneReset) || decide (o = .zoneOffline)) = some c ∧ c.effect = true) ∧
    (∃ (s : State) (c : Ctx), s.live = true ∧ rowCtx s 1 (fun o => decide (o = .zoneReset) || decide (o = .zoneOffline)) = some c ∧ mayAct s c = true ∧ c.effect = false) ∧
    (∃ (s : State) (c : Ctx), s.live = true ∧ rowCtx s 1 (fun o => decide (o = .setZoneDescExt)) = some c ∧ c.silent = false) ∧
    (∃ (s : State) (c : Ctx), s.live = true ∧ rowCtx s 1 (fun o => decide (o = .extReportZones)) = some c ∧ c.silent = false) ∧
    (∃ (s : State) (c : Ctx), s.live = true ∧ rowCtx s 1 (fun o => decide (o = .reportZones)) = some c ∧ c.entry.zraOption.toNat ≤ 7 ∧ c.silent = false) ∧
    (∃ (s : State) (c : Ctx), s.live = true ∧ rowCtx s 1 (fun o => decide (o = .reportZones)) = some c ∧ 7 < c.entry.zraOption.toNat) :=
  ⟨⟨zoning .zoneOffline, _, _, by decide, rfl, by decide, by decide, rfl, by decide⟩,
    ⟨{ zoning .zoneReset with sub.bands := [{ freeBand ready ⟨0, 40⟩ with state := .full, shingled := true }] }, _, _, by decide, rfl, by decide, by decide, rfl, by decide, by decide, by decide, by decide, by decide⟩,
    ⟨{ zonedNs with sub.bands := [{ freeBand ready ⟨0, 40⟩ with state := .explicitOpen, shingled := true }] }, ⟨0, 40⟩, by decide⟩, ⟨zoning .zoneReset, _, by decide, rfl, by decide⟩,
    ⟨{ zonedNs with cmds.ctxs := [ctx .zoneReset] }, _, by decide, rfl, by decide, by decide⟩, ⟨zoning .setZoneDescExt, _, by decide, rfl, by decide⟩,
    ⟨zoning .extReportZones, _, by decide, rfl, by decide⟩, ⟨zoning .reportZones, _, by decide, rfl, by decide, by decide⟩,
    ⟨{ zonedNs with cmds.ctxs := [{ ctx .reportZones with entry := { entry .reportZones with zraOption := 8 } }] }, _, by decide, rfl, by decide⟩⟩
/-- The drive with a reservation on its namespace and a context. -/
def reserved (r : Reservation) (c : Ctx) : State := { hosted with sub.namespaces := [{ ns1 with res := r }], cmds.ctxs := [c] }
/-- A context on namespace 1. -/
def onNs (o : IoOp) (act : BitVec 3) : Ctx := { ctx o with entry := { entry o with resAction := act, rtype := 1 } }
theorem witness_ReservationsAnswerTheirHost :
    (∃ (s : State) (c : Ctx) (n : Namespace), s.live = true ∧ findNs s c.ns = some n ∧ rowCtx s 1 (fun o => decide (o = .resRegister)) = some c ∧
      (registerRes n.res (hostOf s c.port) c.entry).1 ≠ .success ∧ n.res.holder = none ∧ c.silent = false ∧ c.entry.resAction ≠ 2) ∧
    (∃ (s : State) (c : Ctx) (n : Namespace), s.live = true ∧ findNs s c.ns = some n ∧ rowCtx s 1 (fun o => decide (o = .resRegister)) = some c ∧
      (registerRes n.res (hostOf s c.port) c.entry).1 = .success ∧ n.res.holder = none ∧ c.silent = false ∧ c.entry.resAction ≠ 2) ∧
    (∃ (s : State) (c : Ctx) (n : Namespace), s.live = true ∧ findNs s c.ns = some n ∧ rowCtx s 1 (fun o => decide (o = .resReport)) = some c ∧ c.silent = false) ∧
    (∃ (s : State) (c : Ctx) (n : Namespace), s.live = true ∧ findNs s c.ns = some n ∧ rowCtx s 1 (fun o => decide (o = .resAcquire)) = some c ∧
      (acquireRes n.res (hostOf s c.port) c.entry).1 = .success ∧ c.entry.resAction ≠ 2 ∧ c.silent = false) ∧
    (∃ (s : State) (c : Ctx) (n : Namespace), s.live = true ∧ findNs s c.ns = some n ∧ rowCtx s 1 (fun o => decide (o = .resAcquire)) = some c ∧
      (acquireRes n.res (hostOf s c.port) c.entry).1 ≠ .success ∧ c.entry.resAction ≠ 2 ∧ c.silent = false) ∧
    (∃ (s : State) (c : Ctx) (n : Namespace), s.live = true ∧ findNs s c.ns = some n ∧ rowCtx s 1 (fun o => decide (o = .resRelease)) = some c ∧
      (releaseRes n.res (hostOf s c.port) c.entry).1 = .success ∧ (releaseRes n.res (hostOf s c.port) c.entry).2.2 = 0 ∧ c.silent = false ∧ c.entry.resAction ≠ 2) ∧
    (∃ (s : State) (c : Ctx) (n : Namespace), s.live = true ∧ findNs s c.ns = some n ∧ rowCtx s 1 (fun o => decide (o = .resRelease)) = some c ∧
      (releaseRes n.res (hostOf s c.port) c.entry).1 ≠ .success ∧ c.silent = false) :=
  ⟨⟨reserved ⟨0, [], none, false⟩ (onNs .resRegister 1), onNs .resRegister 1, _, by decide, rfl, rfl, by decide, by decide, by decide, by decide⟩,
    ⟨reserved ⟨0, [], none, false⟩ (onNs .resRegister 0), onNs .resRegister 0, _, by decide, rfl, rfl, by decide, by decide, by decide, by decide⟩,
    ⟨reserved ⟨0, [], none, false⟩ (onNs .resReport 0), onNs .resReport 0, _, by decide, rfl, rfl, by decide⟩,
    ⟨reserved ⟨1, [(0, 0, 0)], none, false⟩ (onNs .resAcquire 0), onNs .resAcquire 0, _, by decide, rfl, rfl, by decide, by decide, by decide⟩,
    ⟨reserved ⟨0, [], none, false⟩ (onNs .resAcquire 0), onNs .resAcquire 0, _, by decide, rfl, rfl, by decide, by decide, by decide⟩,
    ⟨reserved ⟨1, [(0, 0, 0)], none, false⟩ (onNs .resRelease 0), onNs .resRelease 0, _, by decide, rfl, rfl, by decide, by decide, by decide, by decide⟩,
    ⟨reserved ⟨0, [], none, false⟩ (onNs .resRelease 0), onNs .resRelease 0, _, by decide, rfl, rfl, by decide, by decide⟩⟩
/-- Channel 3 with a repair write that has waited so many slots. -/
def repairing (k : Nat) : State := modBms 3 (fun b => { b with repairs := [(0, 0, 0)], writePort := { b.writePort with slot := k } }) ready
/-- A pause of the 12-way limit. -/
def pause12 : Pause := ⟨(⟨setOf ⟨1, 0⟩ % 6400, by omega⟩ : Fin 6400).val, 0, true, false⟩
theorem witness_BufferPortsGrantOneRequestASlot :
    (∃ s : State, s.power.running = true ∧ s.power.dead = false ∧ s.bms.stage ≠ .ready) ∧
    (∃ (s : State) (g : Grant), s.power.running = true ∧ s.power.dead = false ∧ s.bms.stage = .ready ∧ grantOf s s.bms.chans[(0 : Fin 4)] true = g) ∧
    (∃ (s : State) (x : Waiting), s.power.running = true ∧ s.power.dead = false ∧ s.bms.stage = .ready ∧ grantOf s s.bms.chans[(0 : Fin 4)] false = .request x) ∧
    (∃ (s : State) (x : Waiting), s.power.running = true ∧ s.power.dead = false ∧ s.bms.stage = .ready ∧ grantOf s s.bms.chans[(0 : Fin 4)] true = .request x ∧
      x.req.mask = BitVec.allOnes 32) ∧
    (∃ (s : State) (e : BitVec 22 × BufWord × Nat), s.power.running = true ∧ s.bms.chans[(3 : Fin 4)].repairs = [e] ∧
      e.2.2 + 4096 ≤ s.bms.chans[(3 : Fin 4)].writePort.slot) ∧
    (∃ (s : State) (e : BitVec 22 × BufWord × Nat), s.power.running = true ∧ s.bms.chans[(3 : Fin 4)].repairs = [e] ∧
      s.bms.chans[(3 : Fin 4)].writePort.slot < e.2.2 + 4096) ∧ (∃ s : State, s.bms.chans[(3 : Fin 4)].repairs = []) ∧
    (∃ s : State, s.live = true ∧ s.bms.stage = .ready ∧ s.bms.chans.toList.any (·.lapWarned) = false) ∧
    (∃ s : State, s.bms.chans.toList.any (·.lapWarned) = true) ∧
    (∃ (s : State) (h : HeadId) (k : Nat), s.live = true ∧ (bandRec s ⟨h, k⟩).held = true ∧ isCalBand ⟨h, k⟩ = false ∧ (bandRec s ⟨h, k⟩).shingled = true) ∧
    (∃ (s : State) (h : HeadId) (k : Nat), s.live = true ∧ (bandRec s ⟨h, k⟩).held = true ∧ isCalBand ⟨h, k⟩ = false ∧ (bandRec s ⟨h, k⟩).shingled = false) :=
  ⟨⟨{ ready with bms.stage := .fill }, by decide⟩, ⟨ready, _, by decide, by decide, by decide, rfl⟩,
    ⟨modBms 0 (queueReqs false [⟨0, .normal, 0, 0, 0⟩]) ready, _, by decide, by decide, by decide, rfl⟩,
    ⟨modBms 0 (queueReqs true [⟨0, .normal, 0, 0, BitVec.allOnes 32⟩]) ready, _, by decide, by decide, by decide, rfl, by decide⟩,
    ⟨repairing 4096, (0, 0, 0), by decide, by decide, by decide⟩, ⟨repairing 4095, (0, 0, 0), by decide, by decide, by decide⟩,
    ⟨ready, by decide⟩, ⟨ready, by decide⟩, ⟨modBms 3 (fun b => { b with lapWarned := true }) ready, by decide⟩,
    ⟨{ ready with sub.bands := [{ freeBand ready ⟨0, 0⟩ with held := true, shingled := true }] }, 0, 0, by decide⟩,
    ⟨{ ready with sub.bands := [{ freeBand ready ⟨0, 0⟩ with held := true, shingled := false }] }, 0, 0, by decide⟩⟩
theorem witness_CacheWaitsIdleUnloadsAndPlaneRestarts :
    (∃ (s : State) (q : Fin 6400) (p : Pause) (x : Line), s.live = true ∧ s.cache.pauses.find? (fun p => p.set = q.val && p.twelve && !p.expired) = some p ∧
      s.cache.pauses.count p = 1 ∧ (∀ y ∈ s.cache.pauses, y.expired = false) ∧
      (setLines s q.val).any (fun l => l.state = .dirty) = false ∧ (setLines s q.val).find? (fun l => l.state = .shadow) = some x) ∧
    (∃ s : State, s.live = true ∧ s.cache.pauses = []) ∧
    (∃ s : State, s.live = true ∧ s.power.phase = .ready ∧ inPs1 s = true ∧ (s.chan 0).load = .loaded ∧ chanIdle s 0 = true) ∧
    (∃ s : State, s.live = true ∧ inPs1 s = false) ∧ (∃ s : State, s.live = true ∧ s.faults.dataDown = true ∧ s.faults.mgmtDown = true) ∧
    (∃ s : State, s.live = true ∧ s.faults.dataDown = false ∧ s.faults.mgmtDown = false) :=
  ⟨⟨{ ready with cache.pauses := [pause12], cache.lines := [shadowLine] }, ⟨setOf ⟨1, 0⟩ % 6400, by omega⟩, pause12, shadowLine, by decide, by decide, by decide, by decide, by decide, rfl⟩,
    ⟨ready, by decide⟩,
    ⟨loaded, by decide⟩, ⟨hosted, by decide⟩, ⟨{ ready with faults.dataDown := true, faults.mgmtDown := true }, by decide⟩, ⟨ready, by decide⟩⟩
/-- Die 0 in an operation. -/
def nanding (o : NandOp) : State := modDie 0 (fun d => { d with op := some o }) ready
/-- Die 0 suspended, a code page waiting. -/
def missing0 : State := modDie 0 (fun d => { d with suspended := true, misses := [(5, 0)] }) ready
/-- A record of the journal. -/
def journalRec : JournalRec := .reloc ⟨0, 0⟩ 0
/-- A state whose journal holds a record to program, with the page it takes erased. -/
def journalReady : State :=
  modDie 0 (fun d => { d with erased := [(0, 18, 0)] }) { ready with mule.journalBuf := [journalRec] }
theorem witness_NandOperationsEndByTheirPulses :
    (∃ (s : State) (w : Partition) (a : PageAddr) (y : NandPage), s.power.running = true ∧ s.mule.dies[(0 : Fin 2)].op = some (.program w a [y]) ∧
      s.mule.dies[(0 : Fin 2)].suspended = false ∧ w ≠ .vault0 ∧ w ≠ .vault1) ∧
    (∃ (s : State) (w : Partition) (a : PageAddr), s.power.running = true ∧ s.mule.dies[(0 : Fin 2)].op = some (.erase w a) ∧ s.power.vault = .none ∧
      s.mule.dies[(0 : Fin 2)].suspended = false ∧ w = .journal) ∧
    (∃ (s : State) (w : Partition) (a : PageAddr), s.power.running = true ∧ s.mule.dies[(0 : Fin 2)].op = some (.erase w a) ∧ s.power.vault = .none ∧
      s.mule.dies[(0 : Fin 2)].suspended = false ∧ (w = .slotA ∨ w = .slotB)) ∧
    (∃ (s : State) (w : Partition) (a : PageAddr) (x : List NandPage) (k : Nat), s.power.running = true ∧ s.mule.dies[(0 : Fin 2)].op = some (.program w a x) ∧
      s.mule.dies[(0 : Fin 2)].suspended = false ∧ 12 < k ∧ w ≠ .vault0 ∧ w ≠ .vault1) ∧
    (∃ (s : State) (w : Partition) (a : PageAddr) (k : Nat), s.power.running = true ∧ s.mule.dies[(0 : Fin 2)].op = some (.erase w a) ∧ s.power.vault = .none ∧
      s.mule.dies[(0 : Fin 2)].suspended = false ∧ 5 < k) ∧
    (∃ (s : State) (a : PageAddr), s.live = true ∧ s.mule.dies[(0 : Fin 2)].suspended = false ∧ s.mule.dies[(0 : Fin 2)].op = some (.read .oem a)) ∧
    decodeLevel (List.replicate 8 (List.replicate 16 41) ++ [List.replicate 16 40]) = some 8 ∧ decodeLevel [List.replicate 15 0 ++ [41]] = none ∧
    (∃ (s : State) (g m : Nat) (r : List (Nat × Nat)), s.live = true ∧ s.mule.dies[(0 : Fin 2)].suspended = true ∧
      s.mule.dies[(0 : Fin 2)].misses = (g, m) :: r) ∧
    (∃ (s : State) (a : PageAddr), s.live = true ∧ s.mule.mounted = true ∧ a = pageOf s .journal (s.mule.journalSeq / 256 % journalLength) ∧
      s.mule.dies[a.die].op = none ∧ isErased s a = true ∧ s.mule.journalFlight = [] ∧ s.mule.journalBuf ≠ []) ∧
    (∃ (s : State) (g : Nat), s.resident = true ∧ codeCached s g = false) ∧ (∃ (s : State) (g : Nat), codeCached s g = true) :=
  ⟨⟨nanding (.program .journal ⟨0, 0, 0, 0⟩ [⟨1, 0, 0, 0, [], []⟩]), _, _, _, by decide, rfl, by decide, by decide, by decide⟩,
    ⟨nanding (.erase .journal ⟨0, 0, 0, 0⟩), _, _, by decide, rfl, by decide⟩, ⟨nanding (.erase .slotB ⟨0, 0, 0, 0⟩), _, _, by decide, rfl, by decide⟩,
    ⟨nanding (.program .journal ⟨0, 0, 0, 0⟩ [⟨1, 0, 0, 0, [], []⟩]), _, _, _, 13, by decide, rfl, by decide, by decide, by decide, by decide⟩,
    ⟨nanding (.erase .slotB ⟨0, 0, 0, 0⟩), _, _, 6, by decide, rfl, by decide⟩,
    ⟨nanding (.read .oem ⟨0, 0, 0, 0⟩), _, by decide, by decide, rfl⟩, by decide, by decide, ⟨missing0, 5, 0, [], by decide, by decide, rfl⟩,
    ⟨journalReady, _, by decide, by decide, rfl, by decide, by decide, by decide, by decide⟩,
    ⟨ready, 5, by decide⟩, ⟨{ ready with mule.codeCache := [(5, [5])] }, 5, by decide⟩⟩
theorem witness_MailboxAndItsRegisters :
    (∃ s : State, s.live = true ∧ (s.port 0).mbGo = true) ∧ (∃ (s : State) (v : Word32), s.live = true ∧ (s.port 0).mbGo = false ∧ v.getLsbD 31 = true ∧ v.toNat % 65536 = 4096) ∧
    (∃ (s : State) (v : Word32), s.live = true ∧ (s.port 0).mbGo = false ∧ v.getLsbD 31 = true ∧ v.toNat % 65536 = 1) ∧
    (∃ (s : State) (v : Word32), s.live = true ∧ (s.port 0).mbGo = false ∧ v.getLsbD 31 = true ∧ v.toNat % 65536 = 0) ∧
    (∃ (s : State) (v : Word32), s.live = true ∧ (s.port 0).mbGo = false ∧ v.getLsbD 31 = false) ∧
    (∃ (s : State) (v : Word32), s.live = true ∧ (s.port 0).mbGo = false ∧ v.getLsbD 31 = true ∧ v.toNat % 65536 = 4097) ∧
    (∃ (s : State) (r : List Byte), s.live = true ∧ (s.port 0).mbWait = some r) ∧ (∃ s : State, s.live = true ∧ (s.port 0).mbWait = none) :=
  ⟨⟨ready.modPort 0 (fun q => { q with mbGo := true }), by decide⟩, ⟨ready, 0x80001000, by decide⟩, ⟨ready, 0x80000001, by decide⟩, ⟨ready, 0x80000000, by decide⟩,
    ⟨ready, 0x00001000, by decide⟩, ⟨ready, 0x80001001, by decide⟩,
    ⟨ready.modPort 0 (fun q => { q with mbWait := some [1] }), [1], by decide⟩, ⟨ready, by decide⟩⟩
/-- The sideband path on, in MCTP_CONTROL. -/
def sideband : State := { ready with dict.values := [(⟨0x1100, 3⟩, [3])] }
theorem witness_PlarikRequestsArriveOverTheirPath :
    (∀ k : Fin 5, ∃ (r : PlarikReq) (s : State), reqOp r.bytes = 1 + k.val ∧ mctpOpen s = true ∧ 4 ≤ r.bytes.length ∧ addressed s .mctp r.bytes = true ∧
      malformed r.bytes = false ∧ plarikBusy s .mctp r.endpoint = false) ∧
    (∃ (r : PlarikReq) (s : State), (decide (reqOp r.bytes = 3) && decide (reqPayload r.bytes = [2])) = true ∧ mctpOpen s = true ∧ 4 ≤ r.bytes.length ∧
      addressed s .mctp r.bytes = true ∧ malformed r.bytes = false ∧ plarikBusy s .mctp r.endpoint = false) ∧
    (∃ (r : PlarikReq) (s : State), (decide (reqOp r.bytes = 3) && decide (reqPayload r.bytes ≠ [2])) = true ∧ mctpOpen s = true ∧ 4 ≤ r.bytes.length ∧
      addressed s .mctp r.bytes = true ∧ malformed r.bytes = false ∧ plarikBusy s .mctp r.endpoint = false) ∧
    (∃ (r : PlarikReq) (s : State), mctpOpen s = true ∧ 4 ≤ r.bytes.length ∧ addressed s .mctp r.bytes = true ∧ malformed r.bytes = false ∧ 5 < reqOp r.bytes) ∧ (∃ r : PlarikReq, decide (reqOp r.bytes = 1) = false) ∧
    (∃ (r : PlarikReq) (s : State), s.live = true ∧ (s.port 1).mbGo = false ∧ reqOp r.bytes = 1 ∧ dictServes s = true ∧ 4 ≤ r.bytes.length ∧
      malformed r.bytes = false ∧ dictBusy s = false) ∧
    (∃ (b : List Byte) (s : State), dictServes s = true ∧ (b.length < 4 ∨ addressed s .mctp b = false)) ∧
    (∃ (b : List Byte) (s : State), dictServes s = true ∧ 4 ≤ b.length ∧ addressed s .mctp b = true ∧ malformed b = true) ∧
    (∃ (b : List Byte) (s : State), dictServes s = true ∧ 4 ≤ b.length ∧ addressed s .mctp b = true ∧ malformed b = false ∧ (reqOp b = 0 ∨ 5 < reqOp b)) :=
  ⟨fun k => ⟨⟨[BitVec.ofNat 8 (1 + k.val), 1] ++ List.replicate 14 0, 0⟩, sideband, by revert k; decide⟩,
    ⟨⟨[3, 1, 0, 0, 0, 0, 0x20, 0x10, 1, 0, 1, 0, 0, 0, 0, 0, 2], 0⟩, sideband, by decide⟩, ⟨⟨[3, 1, 0, 0, 0, 0, 0x20, 0x10, 1, 0, 1, 0, 0, 0, 0, 0, 1], 0⟩, sideband, by decide⟩,
    ⟨⟨[6, 1] ++ List.replicate 14 0, 0⟩, sideband, by decide⟩, ⟨⟨[6], 0⟩, by decide⟩, ⟨⟨[1, 1] ++ List.replicate 14 0, 0⟩, ready, by decide⟩, ⟨[1, 1, 0], ready, by decide⟩, ⟨[1, 1, 0, 0], ready, by decide⟩,
    ⟨[6, 1] ++ List.replicate 14 0, ready, by decide⟩⟩
theorem witness_MctpControlMessagesAreAnswered : (∃ s : State, mctpOpen s = true) ∧ (∃ e : Byte, e ≠ 0 ∧ e ≠ 0xFF) ∧ (∃ k : Byte, k ≠ 0 ∧ k ≠ 4 ∧ k ≠ 0x7E ∧ k ≠ 0xFF) ∧
    (∃ (k : BitVec 7) (ic : Bool), ((k ≠ 0 ∧ k ≠ 4 ∧ k ≠ 0x7E) ∨ (ic = true ∧ k ≠ 4))) := ⟨⟨sideband, by decide⟩, ⟨8, by decide⟩, ⟨1, by decide⟩, ⟨0, true, by decide⟩⟩
theorem witness_NvmeMiAndTheManagementBuses : (∃ (s : State) (c : Word16), mctpOpen s = true ∧ (controllers s).contains c.toNat = true) ∧
    (∃ (s : State) (c : Word16), mctpOpen s = true ∧ (controllers s).contains c.toNat = false) ∧ (∃ v : Word16, 64 ≤ v.toNat ∧ v.toNat ≤ 256) ∧
    (∃ s : State, mctpOpen s = true ∧ bitOf (cfg s 0x1100 3) 0 = true ∧ s.power.alertLow = true) ∧ (∃ s : State, mctpOpen s = true ∧ s.power.alertLow = false) ∧
    (∃ s : State, mctpOpen s = true ∧ bitOf (cfg s 0x1100 3) 1 = true) ∧ (∃ k : Byte, 5 ≤ k.toNat) ∧
    (∃ (s : State) (st : BitVec 7), mctpOpen s = true ∧ bitOf (cfg s 0x1100 3) 1 = true ∧ cfg s 0x1100 4 ≠ 0 ∧ st.toNat = cfg s 0x1100 4) ∧
    (∃ (s : State) (st : BitVec 7), mctpOpen s = true ∧ bitOf (cfg s 0x1100 3) 1 = true ∧ st.toNat ≠ cfg s 0x1100 4) :=
  ⟨⟨sideband, 1, by decide⟩, ⟨sideband, 0, by decide⟩, ⟨256, by decide⟩, ⟨{ sideband with power.alertLow := true }, by decide⟩, ⟨sideband, by decide⟩, ⟨sideband, by decide⟩,
    ⟨5, by decide⟩, ⟨{ ready with dict.values := [(⟨0x1100, 3⟩, [3]), (⟨0x1100, 4⟩, [0x1D])] }, 0x1D, by decide⟩,
    ⟨{ ready with dict.values := [(⟨0x1100, 3⟩, [3]), (⟨0x1100, 4⟩, [0x1D])] }, 0x1E, by decide⟩⟩
/-- READY, and the MCTP path in the privileged view. -/
def privileged : State := modPath .mctp (fun q => { q with priv := true }) { ready with dict.stage := .idle }
/-- A write by MCTP is accepted, of an object that is staged or not. -/
def accepts (s : State) (i j : Nat) (v : List Byte) (staged : Bool) : Bool :=
  match admitWrite s .mctp i j (decide (v = [2])) with
  | .error _ => false
  | .ok o => dictServes s && !partFailed s i && decide (valueCode s i j o v = 0) && decide (o.staged = staged)
theorem accepted (s : State) (i j : Nat) (v : List Byte) (staged : Bool) (h : accepts s i j v staged = true) :
    ∃ o, o.staged = staged ∧ AcceptedWrite s .mctp i j v o := by
  unfold accepts at h
  split at h
  · simp at h
  · rename_i o e
    simp only [Bool.and_eq_true, Bool.not_eq_true', decide_eq_true_eq] at h
    exact ⟨o, h.2, h.1.1.1, e, h.1.1.2, h.1.2⟩
/-- The page that OEM_BLOCK and OEM_PAGE select is erased. -/
def oemErased : State := modDie (oemPageNow privileged).die
  (fun d => { d with erased := [((oemPageNow privileged).plane, (oemPageNow privileged).block, (oemPageNow privileged).page)] }) privileged
theorem witness_AcceptedObjectWritesHaveTheirEffect :
    (∀ x ∈ [(0x2201, 1, [(1 : Byte)]), (0x2205, 2, [1]), (0x2300, 1, [1]), (0x2300, 3, [100, 0]), (0x4010, 1, [1]), (0x4010, 3, [1]), (0x7302, 1, [0, 192]),
      (0x7302, 2, [1]), (0x7050, 3, [1]), (0x7050, 3, [3]), (0x7060, 1, [1]), (0x1001, 1, [1, 0]), (0x7202, 1, [1, 0, 0, 0]), (0x7200, 1, [1]), (0x7200, 2, [1])],
      ∃ o, o.staged = false ∧ AcceptedWrite privileged .mctp x.1 x.2.1 x.2.2 o) ∧
    (∃ o, o.staged = false ∧ AcceptedWrite oemErased .mctp 0x7050 3 [2] o) ∧
    (∃ o, o.staged = false ∧ AcceptedWrite privileged .mctp 0x7302 1 (leBytes 2 (0xC000 + (0 : ChanId).val)) o ∧ unitRetired privileged (.channel 0) = false) ∧
    (∃ o, o.staged = false ∧ AcceptedWrite privileged .mctp 0x6103 2 [1] o ∧ calEnabled privileged .fe = true ∧ privileged.cal.requests = [] ∧
      headServes privileged (Fin.ofNat 32 privileged.cal.reqHead) = true) ∧
    (∃ o, o.staged = false ∧ AcceptedWrite privileged .mctp (0x2201 : Word16).toNat (1 : Byte).toNat [1] o ∧ specialWrite .mctp 0x2201 1 [1] privileged = none) := by
  refine ⟨fun x hx => accepted _ _ _ _ _ ?_, accepted _ _ _ _ _ (by decide),
    (accepted privileged 0x7302 1 (leBytes 2 (0xC000 + (0 : ChanId).val)) false (by decide)).elim (fun o h => ⟨o, h.1, h.2, by decide⟩),
    (accepted privileged 0x6103 2 [1] false (by decide)).elim (fun o h => ⟨o, h.1, h.2, by decide⟩),
    (accepted privileged (0x2201 : Word16).toNat (1 : Byte).toNat [1] false (by decide)).elim (fun o h => ⟨o, h.1, h.2, by decide⟩)⟩
  revert x
  decide
/-- With a staged set of the MCTP path. -/
def staging (l : List (ObjKey × List Byte)) : State := { privileged with dict.staged := l, dict.owner := some .mctp, power.crx4 := true }
theorem staging_passes : commitFailure (staging emptySet) = none := by decide +kernel
theorem staging_runs : CommitRuns (staging emptySet) := ⟨by decide, by decide, staging_passes, by decide⟩
theorem witness_PrivilegeCommitAndFirmwareObjects :
    (∀ x ∈ [(0x1010, 1, [0, 0, 0, (0 : Byte)]), (0x1011, 1, [1]), (0x1020, 1, [2]), (0x1020, 1, [1]), (0x7100, 8, [1]), (0x7102, 1, [0]), (0x7102, 1, [1]),
      (0x7102, 1, [2]), (0x7102, 1, [3])], ∃ o, o.staged = false ∧ AcceptedWrite privileged .mctp x.1 x.2.1 x.2.2 o) ∧
    (∃ o, o.staged = true ∧ AcceptedWrite privileged .mctp 0x5100 5 [1] o) ∧
    (∃ u, requestCommit .mctp (.write .mctp) (staging [(⟨0x2100, 4⟩, [0xFF, 0xFF])]) = (some 0xD0000021, u)) ∧
    (∃ u, requestCommit .mctp (.write .mctp) (staging emptySet) = (none, u)) ∧
    (∃ (s : State) (o : Obj), AcceptedWrite (atOffset 0 s) .mctp 0x1020 1 [1] o ∧ CommitRuns (atOffset 0 s)) ∧
    (∃ (s : State) (o : Obj), AcceptedWrite s .mctp 0x1020 1 [2] o ∧ s.dict.stage = .idle) ∧
    (∃ (s : State) (o : Obj), o.staged = false ∧ AcceptedWrite s .mctp 0x1011 1 [1] o ∧ s.mgmt.lock = none) ∧
    (∃ (s : State) (o : Obj), o.staged = false ∧ AcceptedWrite s .mctp 0x1011 1 [0] o ∧ s.mgmt.lock.isSome = true) ∧
    (∃ (s : State) (o : Obj), o.staged = false ∧ AcceptedWrite s .mctp 0x7100 8 [1] o ∧ fwBound s = true) ∧
    (∀ k : Fin 4, ∃ (s : State) (o : Obj) (i : Fin 2), o.staged = false ∧ namedSlot s s.fw.actionSlot = some i ∧
      AcceptedWrite s .mctp 0x7102 1 [BitVec.ofNat 8 k.val] o ∧ fwActionRefusal k.val i s = none ∧ s.fw.slots[i].resetOnly = false) := by
  refine ⟨fun x hx => accepted _ _ _ _ _ ?_, accepted _ _ _ _ _ (by decide), ⟨_, rfl⟩, ⟨_, by unfold requestCommit; rw [staging_passes]; rfl⟩,
    (accepted (atOffset 0 (staging emptySet)) 0x1020 1 [1] false (by decide)).elim (fun o h => ⟨staging emptySet, o, h.2, staging_runs⟩),
    (accepted (staging []) 0x1020 1 [2] false (by decide)).elim (fun o h => ⟨_, o, h.2, by decide⟩),
    (accepted privileged 0x1011 1 [1] false (by decide)).elim (fun o h => ⟨_, o, h.1, h.2, by decide⟩),
    (accepted { privileged with mgmt.lock := some (.mctp, identOf privileged .mctp) } 0x1011 1 [0] false (by decide)).elim (fun o h => ⟨_, o, h.1, h.2, by decide⟩),
    (accepted { privileged with fw.source := some .mctp } 0x7100 8 [1] false (by decide)).elim (fun o h => ⟨_, o, h.1, h.2, by decide⟩),
    fun k => (accepted { sealed with mgmt.paths := privileged.mgmt.paths, fw.actionSlot := 2 } 0x7102 1 [BitVec.ofNat 8 k.val] false (by revert k; decide)).elim
      (fun o h => ⟨_, o, 1, h.1, by decide, h.2, by clear h; revert k; decide, by decide⟩)⟩
  revert x
  decide
theorem witness_ObjectWritesAreRefusedWithTheirAbortCode : dictServes ready = true ∧ (match admitWrite ready .mctp 0x2201 1 false with | .ok _ => 0 | .error e => e) = 0xD0000010 ∧
    (match admitWrite { privileged with faults.mgmtDown := true } .mctp 0x2201 1 false with | .ok _ => 0 | .error e => e) = 0xD0000050 := by decide
theorem witness_ObjectReadsAndTheirAnswers : dictServes ready = true ∧ readCode ready .mctp 0x2206 3 = 0 ∧ readCode ready .mctp 0x4133 7 = 0 ∧
    readCode ready .mctp 0x7040 3 = 0 ∧ readCode ready .mctp 0x4012 1 = 0 ∧ readCode privileged .mctp 0x7202 2 = 0 ∧
    dictServes privileged = true ∧ readCode ready .mctp 0x7202 2 ≠ 0 ∧ readCode { ready with faults.mgmtDown := true } .mctp 0x4012 1 ≠ 0 := by decide
theorem witness_DictionaryTimersStatusAndSwaps :
    (∃ (s : State) (q : Path), s.resident = true ∧ s.dict.owner = some q ∧ s.dict.stage = .idle) ∧ (∃ s : State, s.dict.owner = none) ∧ (∃ s : State, s.resident = true ∧ cfg s 0x1010 4 ≠ 0) ∧
    (∃ s : State, cfg s 0x1010 4 = 0) ∧ (∃ o, o.staged = false ∧ AcceptedWrite privileged .mctp 0x1101 1 [1, 0] o) ∧
    (∃ s : State, s.live = true ∧ s.dict.servoSwapped = true ∧ (s.rwc 0).swapPending = true) ∧ (∃ s : State, s.live = true ∧ s.dict.servoSwapped = false) :=
  ⟨⟨{ ready with dict.owner := some .port0, dict.stage := .idle }, .port0, by decide⟩, ⟨ready, by decide⟩, ⟨{ ready with dict.values := [(⟨0x1010, 4⟩, [5, 0])] }, by decide⟩,
    ⟨{ ready with dict.values := [(⟨0x1010, 4⟩, [0, 0])] }, by decide⟩, accepted _ _ _ _ _ (by decide),
    ⟨{ ready.modRwc 0 (fun r => { r with swapPending := true }) with dict.servoSwapped := true }, by decide⟩, ⟨ready, by decide⟩⟩
/-- An activation that drains. -/
def draining : State := { ready with fw.activation := .draining, fw.target := some 1 }
/-- The MCTP path stages an image of which its piece at 4,096 is due. -/
def mctpPiece : State := modSlot 1 (fun x => { x with length := 0x200000, imageId := 7, state := 1 }) (modPath .mctp (fun q => { q with sourceImage := some 7, fwOffset := 4096, priv := true }) { hosted with fw.source := some .mctp, fw.header := some [] })
theorem witness_FirmwareStagingAndActivation :
    (∃ (s : State) (x : FwPiece) (o : Obj), s.live = true ∧ dictServes s = true ∧ admitWrite s .mctp 0x7101 2 false = .ok o ∧ x.length ≤ 1048576 ∧
      judgePiece .mctp { x with offset := (pathState s .mctp).fwOffset } s = .accepted) ∧ (∃ s : State, s.live = true ∧ s.fw.sealing = true) ∧
    (∃ s : State, s.live = true ∧ s.resident = true ∧ fwBound s = true ∧ s.fw.sealing = false) ∧
    (∃ s : State, s.live = true ∧ s.fw.target = some 1 ∧ s.fw.activation = .draining ∧ drained s = true) ∧ (∃ s : State, s.live = true ∧ drained s = false) ∧
    (∃ s : State, s.live = true ∧ s.fw.activation = .loading) ∧ (∃ s : State, s.live = true ∧ s.fw.activation = .switched) :=
  ⟨⟨mctpPiece, piece, _, by decide, by decide, rfl, by decide, by decide⟩, ⟨{ ready with fw.sealing := true }, by decide⟩, ⟨{ ready with fw.source := some .port0 }, by decide⟩, ⟨draining, by decide⟩,
    ⟨reading, by decide⟩, ⟨{ draining with fw.activation := .loading }, by decide⟩, ⟨{ draining with fw.activation := .switched }, by decide⟩⟩
theorem witness_EventsAreWrittenFrozenAndMirrored :
    (∃ s : State, s.live = true ∧ s.mule.mounted = true ∧ s.evr.queue = [] ∧ s.evr.frozen = false) ∧ (∃ s : State, s.live = true ∧ s.mule.mounted = false) ∧
    (∃ s : State, s.live = true ∧ s.evr.frozen = true ∧ s.evr.freezeLeft = 0 ∧ s.evr.frozenCount = 0) ∧
    (∃ s : State, s.live = true ∧ s.evr.frozen = true ∧ s.evr.frozenCount ≠ 0) ∧
    (∃ (s : State) (e : Event) (q : List Event), s.live = true ∧ s.mule.mounted = true ∧ s.evr.queue = e :: q ∧ s.evr.frozen = true ∧ s.evr.freezeLeft ≠ 0) ∧
    (∃ (s : State) (e : Event) (q : List Event), s.live = true ∧ s.mule.mounted = true ∧ s.evr.queue = e :: q ∧ s.evr.frozen = false ∧ s.evr.fill = true ∧
      s.evr.lostSince = 0) ∧
    (∃ (s : State) (e : Event) (q : List Event) (r : EventRec) (l : List EventRec), s.live = true ∧ s.mule.mounted = true ∧ s.evr.queue = e :: q ∧ s.evr.frozen = false ∧
      s.evr.fill = false ∧ s.evr.lostSince = 0 ∧ s.evr.isOpen = true ∧ s.evr.ring = r :: l ∧ sameEvent e r.event = true) ∧
    (∃ s : State, s.live = true ∧ s.mule.mounted = true ∧ s.evr.frozen = false ∧ pagesWritten s .eventLog < partPages .eventLog) :=
  ⟨⟨ready, by decide⟩, ⟨{ ready with mule.mounted := false }, by decide⟩, ⟨{ ready with evr.frozen := true }, by decide⟩,
    ⟨{ ready with evr.frozen := true, evr.frozenCount := 1 }, by decide⟩,
    ⟨{ ready with evr.frozen := true, evr.freezeLeft := 1, evr.queue := [evt] }, evt, [], by decide⟩, ⟨{ ready with evr.fill := true, evr.queue := [evt] }, evt, [], by decide⟩,
    ⟨{ ready with evr.isOpen := true, evr.ring := [⟨evt, 0, 0, 0⟩], evr.queue := [evt] }, evt, [], ⟨evt, 0, 0, 0⟩, [], by decide⟩, ⟨ready, by decide⟩⟩

end Sys2Proof.Tests
end

section
/-! SUPPORT. The frame of every command, from the lemmas of the Frame files: a command changes only the parts that its row of `touches`
names. With it the 64-bit tick counter (spec 01, R32): what counts it, what clears it, and how a host reads it. -/

namespace Sys2Proof.Machine

/-! ## The frame of every command -/

/-- A list of parts as a set of bits. -/
def partMask : List Part → Nat
  | [] => 0
  | p :: l => 2 ^ p.bit ||| partMask l

theorem Part.bit_eq_ctorIdx (p : Part) : p.bit = p.ctorIdx := by cases p <;> rfl

theorem Part.bit_injective : Function.Injective Part.bit := fun p q h => by
  rw [← Part.ofNat_ctorIdx p, ← Part.bit_eq_ctorIdx, h, Part.bit_eq_ctorIdx, Part.ofNat_ctorIdx]

theorem partMask_testBit (l : List Part) (p : Part) : (partMask l).testBit p.bit = l.contains p := by
  induction l with
  | nil => exact Nat.zero_testBit _
  | cons q l ih =>
    have hq : (2 ^ q.bit).testBit p.bit = (p == q) := by
      rw [Nat.testBit_two_pow, Bool.eq_iff_iff, decide_eq_true_iff, beq_iff_eq, Part.bit_injective.eq_iff, eq_comm]
    rw [partMask, Nat.testBit_or, ih, hq, List.contains_cons]

theorem Sub.refl (a : Nat) : Sub a a := fun _ hi => hi

/-- What an operation may change lies in the row of its command: an `&&&` of two numbers, once the row is written out. -/
theorem sub_touches {a : Nat} {c : Instr} (h : a &&& partMask (touches c) = a := by dsimp only [touches]; decide) :
    Sub a (partMask (touches c)) :=
  Sub.of h (Sub.refl _)

/-- Every command keeps what its row of `touches` does not name: the operation that `exec` hands it to does. -/
theorem exec_keeps {c : Instr} {s t : State} (h : exec c s = .next t) : Keeps (partMask (touches c)) s t := by
  cases c with
  | powerGood _ _ _ => exact execPowerGood_keeps (.refl s) h sub_touches
  | railUndervoltage _ => exact execRailUndervoltage_keeps (.refl s) h sub_touches
  | bufferSelftest _ => exact execBufferSelftest_keeps (.refl s) h sub_touches
  | bufferTrainingDone => exact execBufferTrainingDone_keeps (.refl s) h sub_touches
  | bufferTrainingTimeout _ => exact execBufferTrainingTimeout_keeps (.refl s) h sub_touches
  | bufferFillDone => exact execBufferFillDone_keeps (.refl s) h sub_touches
  | mountEnd _ => exact execMountEnd_keeps (.refl s) h sub_touches
  | replayEnd _ => exact execReplayEnd_keeps (.refl s) h sub_touches
  | zoneMetadataLoadEnd _ => exact execZoneMetadataLoadEnd_keeps (.refl s) h sub_touches
  | spinUpInstant => exact execSpinUpInstant_keeps (.refl s) h sub_touches
  | spinupTimeout => exact execSpinupTimeout_keeps (.refl s) h sub_touches
  | testresFrame _ _ => exact execTestresFrame_keeps (.refl s) h sub_touches
  | storeFrame _ _ => exact execStoreFrame_keeps (.refl s) h sub_touches
  | holdupCheckRepeat => exact execHoldupCheckRepeat_keeps (.refl s) h sub_touches
  | actuatorLoadStart => exact execActuatorLoadStart_keeps (.refl s) h sub_touches
  | loadTimeout _ => exact execLoadTimeout_keeps (.refl s) h sub_touches
  | phaseLimitExpired => exact execPhaseLimitExpired_keeps (.refl s) h sub_touches
  | tickBoundary => exact execTickBoundary_keeps (.refl s) h sub_touches
  | sheepdogPassLate => exact execSheepdogPassLate_keeps (.refl s) h sub_touches
  | indexFrame _ _ => exact execIndexFrame_keeps (.refl s) h sub_touches
  | indexLoss => exact execIndexLoss_keeps (.refl s) h sub_touches
  | indexLoss10s => exact execIndexLoss10s_keeps (.refl s) h sub_touches
  | bemfFrame _ _ => exact execBemfFrame_keeps (.refl s) h sub_touches
  | faultFrame _ _ => exact execFaultFrame_keeps (.refl s) h sub_touches
  | adlIdleFrame _ _ => exact execAdlIdleFrame_keeps (.refl s) h sub_touches
  | linkLoss _ => exact execLinkLoss_keeps (.refl s) h sub_touches
  | linkLossLimit _ => exact execLinkLossLimit_keeps (.refl s) h sub_touches
  | speedFaultLimit => exact execSpeedFaultLimit_keeps (.refl s) h sub_touches
  | wedgeStrobe _ _ => exact execWedgeStrobe_keeps (.refl s) h sub_touches
  | samWindowClose _ _ => exact execSamWindowClose_keeps (.refl s) h sub_touches
  | reacqLimitExpired _ => exact execReacqLimitExpired_keeps (.refl s) h sub_touches
  | accessRequest _ _ => exact execAccessRequest_keeps (.refl s) h sub_touches
  | ceOutputIssue _ => exact execCeOutputIssue_keeps (.refl s) h sub_touches
  | seekFault _ => exact execSeekFault_keeps (.refl s) h sub_touches
  | trimLate _ => exact execTrimLate_keeps (.refl s) h sub_touches
  | dataWindowOpen _ _ _ => exact execDataWindowOpen_keeps (.refl s) h sub_touches
  | sectorOnMedia _ => exact execSectorOnMedia_keeps (.refl s) h sub_touches
  | excursionVerifyDone _ _ => exact execExcursionVerifyDone_keeps (.refl s) h sub_touches
  | repairDone _ _ => exact execRepairDone_keeps (.refl s) h sub_touches
  | writeTimeLimit _ => exact execWriteTimeLimit_keeps (.refl s) h sub_touches
  | paFaultFall _ => exact execPaFaultFall_keeps (.refl s) h sub_touches
  | paFaultRise _ => exact execPaFaultRise_keeps (.refl s) h sub_touches
  | paFaultHold _ => exact execPaFaultHold_keeps (.refl s) h sub_touches
  | monitorReadDone _ _ => exact execMonitorReadDone_keeps (.refl s) h sub_touches
  | faultReadDone _ _ => exact execFaultReadDone_keeps (.refl s) h sub_touches
  | sectorRead _ _ => exact execSectorRead_keeps (.refl s) h sub_touches
  | decodeComplete _ _ => exact execDecodeComplete_keeps (.refl s) h sub_touches
  | secondLookAttemptEnd _ _ => exact execSecondLookAttemptEnd_keeps (.refl s) h sub_touches
  | retryTimeLimit _ => exact execRetryTimeLimit_keeps (.refl s) h sub_touches
  | envDecision _ => exact execEnvDecision_keeps (.refl s) h sub_touches
  | calSchedule _ _ => exact execCalSchedule_keeps (.refl s) h sub_touches
  | calReqKindsWrite _ _ => exact execCalReqKindsWrite_keeps (.refl s) h sub_touches
  | calRunEnd _ _ => exact execCalRunEnd_keeps (.refl s) h sub_touches
  | calDeferTimeout _ _ => exact execCalDeferTimeout_keeps (.refl s) h sub_touches
  | perstAssert _ => exact execPerstAssert_keeps (.refl s) h sub_touches
  | perstDeassert _ => exact execPerstDeassert_keeps (.refl s) h sub_touches
  | refclkLoss _ => exact execRefclkLoss_keeps (.refl s) h sub_touches
  | hotReset _ => exact execHotReset_keeps (.refl s) h sub_touches
  | functionLevelReset _ => exact execFunctionLevelReset_keeps (.refl s) h sub_touches
  | linkDisable _ => exact execLinkDisable_keeps (.refl s) h sub_touches
  | ccEnable _ => exact execCcEnable_keeps (.refl s) h sub_touches
  | ccDisable _ => exact execCcDisable_keeps (.refl s) h sub_touches
  | ccShutdown _ _ => exact execCcShutdown_keeps (.refl s) h sub_touches
  | nvmSubsystemReset _ _ => exact execNvmSubsystemReset_keeps (.refl s) h sub_touches
  | sqTailDoorbell _ _ _ => exact execSqTailDoorbell_keeps (.refl s) h sub_touches
  | cqHeadDoorbell _ _ _ => exact execCqHeadDoorbell_keeps (.refl s) h sub_touches
  | commandAdmission _ _ => exact execCommandAdmission_keeps (.refl s) h sub_touches
  | completionCommit _ => exact execCompletionCommit_keeps (.refl s) h sub_touches
  | completionPost _ _ => exact execCompletionPost_keeps (.refl s) h sub_touches
  | flushCommit _ => exact execFlushCommit_keeps (.refl s) h sub_touches
  | createIoSq _ _ _ _ _ => exact execCreateIoSq_keeps (.refl s) h sub_touches
  | deleteIoSq _ _ => exact execDeleteIoSq_keeps (.refl s) h sub_touches
  | createIoCq _ _ _ _ _ _ => exact execCreateIoCq_keeps (.refl s) h sub_touches
  | deleteIoCq _ _ => exact execDeleteIoCq_keeps (.refl s) h sub_touches
  | getLogPage _ _ _ _ _ _ => exact execGetLogPage_keeps (.refl s) h sub_touches
  | identify _ _ _ _ _ => exact execIdentify_keeps (.refl s) h sub_touches
  | abort _ _ _ => exact execAbort_keeps (.refl s) h sub_touches
  | getFeatures _ _ _ _ => exact execGetFeatures_keeps (.refl s) h sub_touches
  | setFeatArbitration _ _ _ => exact execSetFeatArbitration_keeps (.refl s) h sub_touches
  | setFeatPowerManagement _ _ _ => exact execSetFeatPowerManagement_keeps (.refl s) h sub_touches
  | setFeatTemperatureThreshold _ _ _ => exact execSetFeatTemperatureThreshold_keeps (.refl s) h sub_touches
  | setFeatErrorRecovery _ _ _ _ => exact execSetFeatErrorRecovery_keeps (.refl s) h sub_touches
  | setFeatVolatileWriteCache _ _ _ => exact execSetFeatVolatileWriteCache_keeps (.refl s) h sub_touches
  | setFeatNumberOfQueues _ _ _ => exact execSetFeatNumberOfQueues_keeps (.refl s) h sub_touches
  | setFeatInterruptCoalescing _ _ _ => exact execSetFeatInterruptCoalescing_keeps (.refl s) h sub_touches
  | setFeatInterruptVectorConfig _ _ _ => exact execSetFeatInterruptVectorConfig_keeps (.refl s) h sub_touches
  | setFeatWriteAtomicity _ _ _ => exact execSetFeatWriteAtomicity_keeps (.refl s) h sub_touches
  | setFeatAsyncEventConfig _ _ _ => exact execSetFeatAsyncEventConfig_keeps (.refl s) h sub_touches
  | setFeatTimestamp _ _ _ => exact execSetFeatTimestamp_keeps (.refl s) h sub_touches
  | setFeatHostBehaviorSupport _ _ _ => exact execSetFeatHostBehaviorSupport_keeps (.refl s) h sub_touches
  | setFeatSoftwareProgressMarker _ _ _ => exact execSetFeatSoftwareProgressMarker_keeps (.refl s) h sub_touches
  | setFeatHostIdentifier _ _ _ _ => exact execSetFeatHostIdentifier_keeps (.refl s) h sub_touches
  | setFeatReservationNotifMask _ _ _ _ => exact execSetFeatReservationNotifMask_keeps (.refl s) h sub_touches
  | setFeatReservationPersistence _ _ _ _ => exact execSetFeatReservationPersistence_keeps (.refl s) h sub_touches
  | asyncEventRequest _ => exact execAsyncEventRequest_keeps (.refl s) h sub_touches
  | namespaceCreate _ _ _ _ _ => exact execNamespaceCreate_keeps (.refl s) h sub_touches
  | namespaceDelete _ _ => exact execNamespaceDelete_keeps (.refl s) h sub_touches
  | namespaceAttach _ _ _ => exact execNamespaceAttach_keeps (.refl s) h sub_touches
  | namespaceDetach _ _ _ => exact execNamespaceDetach_keeps (.refl s) h sub_touches
  | formatNvm _ _ _ _ => exact execFormatNvm_keeps (.refl s) h sub_touches
  | sanitizeOverwrite _ _ _ _ => exact execSanitizeOverwrite_keeps (.refl s) h sub_touches
  | sanitizeExitFailureMode _ => exact execSanitizeExitFailureMode_keeps (.refl s) h sub_touches
  | sanitizeOverwriteDone _ => exact execSanitizeOverwriteDone_keeps (.refl s) h sub_touches
  | firmwareImageDownload _ _ => exact execFirmwareImageDownload_keeps (.refl s) h sub_touches
  | fwCommitKeep _ _ => exact execFwCommitKeep_keeps (.refl s) h sub_touches
  | fwCommitNextReset _ _ => exact execFwCommitNextReset_keeps (.refl s) h sub_touches
  | fwCommitExisting _ _ => exact execFwCommitExisting_keeps (.refl s) h sub_touches
  | fwCommitImmediate _ _ => exact execFwCommitImmediate_keeps (.refl s) h sub_touches
  | fwCommitBootPartition _ ca => exact execFwCommitBootPartition_keeps (_ca := ca) (.refl s) h sub_touches
  | vendorCommit _ => exact execVendorCommit_keeps (.refl s) h sub_touches
  | vendorDiscard _ => exact execVendorDiscard_keeps (.refl s) h sub_touches
  | setObject _ _ _ _ => exact execSetObject_keeps (.refl s) h sub_touches
  | getObject _ _ _ _ => exact execGetObject_keeps (.refl s) h sub_touches
  | unsupportedAdminOpcode _ _ _ _ => exact execUnsupportedAdminOpcode_keeps (.refl s) h sub_touches
  | flush _ => exact execFlush_keeps (.refl s) h sub_touches
  | write _ _ => exact execWrite_keeps (.refl s) h sub_touches
  | read _ => exact execRead_keeps (.refl s) h sub_touches
  | writeZeroes _ => exact execWriteZeroes_keeps (.refl s) h sub_touches
  | reservationRegister _ => exact execReservationRegister_keeps (.refl s) h sub_touches
  | reservationReport _ => exact execReservationReport_keeps (.refl s) h sub_touches
  | reservationAcquire _ => exact execReservationAcquire_keeps (.refl s) h sub_touches
  | reservationRelease _ => exact execReservationRelease_keeps (.refl s) h sub_touches
  | zoneClose _ => exact execZoneClose_keeps (.refl s) h sub_touches
  | zoneFinish _ => exact execZoneFinish_keeps (.refl s) h sub_touches
  | zoneOpen _ => exact execZoneOpen_keeps (.refl s) h sub_touches
  | zoneReset _ => exact execZoneReset_keeps (.refl s) h sub_touches
  | zoneOffline _ => exact execZoneOffline_keeps (.refl s) h sub_touches
  | setZoneDescriptorExt _ => exact execSetZoneDescriptorExt_keeps (.refl s) h sub_touches
  | reportZones _ => exact execReportZones_keeps (.refl s) h sub_touches
  | extendedReportZones _ => exact execExtendedReportZones_keeps (.refl s) h sub_touches
  | zoneAppend _ _ => exact execZoneAppend_keeps (.refl s) h sub_touches
  | unsupportedIoOpcode _ => exact execUnsupportedIoOpcode_keeps (.refl s) h sub_touches
  | maintenanceOrderingPoint _ => exact execMaintenanceOrderingPoint_keeps (.refl s) h sub_touches
  | unloadIdleExpired _ => exact execUnloadIdleExpired_keeps (.refl s) h sub_touches
  | statusWrite _ _ _ => exact execStatusWrite_keeps (.refl s) h sub_touches
  | intEnableWrite _ _ => exact execIntEnableWrite_keeps (.refl s) h sub_touches
  | tickLoRead _ => exact execTickLoRead_keeps (.refl s) h sub_touches
  | evtBaseWrite _ _ => exact execEvtBaseWrite_keeps (.refl s) h sub_touches
  | mbDoorbellWrite _ _ _ => exact execMbDoorbellWrite_keeps (.refl s) h sub_touches
  | mailboxResponse _ => exact execMailboxResponse_keeps (.refl s) h sub_touches
  | msixUnmask _ => exact execMsixUnmask_keeps (.refl s) h sub_touches
  | holdSenseFall => exact execHoldSenseFall_keeps (.refl s) h sub_touches
  | holdSenseRise => exact execHoldSenseRise_keeps (.refl s) h sub_touches
  | pwrdisRise => exact execPwrdisRise_keeps (.refl s) h sub_touches
  | pwrdisFall => exact execPwrdisFall_keeps (.refl s) h sub_touches
  | vaultTrigger _ => exact execVaultTrigger_keeps (.refl s) h sub_touches
  | vaultRetract => exact execVaultRetract_keeps (.refl s) h sub_touches
  | vaultRestart _ => exact execVaultRestart_keeps (.refl s) h sub_touches
  | bufferSlotGrant _ _ _ _ => exact execBufferSlotGrant_keeps (.refl s) h sub_touches
  | repairWriteDrop _ => exact execRepairWriteDrop_keeps (.refl s) h sub_touches
  | rebuildDone _ _ _ _ => exact execRebuildDone_keeps (.refl s) h sub_touches
  | scrubLapWarn _ => exact execScrubLapWarn_keeps (.refl s) h sub_touches
  | scrubEnableWrite _ _ => exact execScrubEnableWrite_keeps (.refl s) h sub_touches
  | ceTableClear _ _ => exact execCeTableClear_keeps (.refl s) h sub_touches
  | waitMaxRead _ _ => exact execWaitMaxRead_keeps (.refl s) h sub_touches
  | delayMaxRead _ _ => exact execDelayMaxRead_keeps (.refl s) h sub_touches
  | missWaitMaxRead _ => exact execMissWaitMaxRead_keeps (.refl s) h sub_touches
  | cacheModeWrite _ _ => exact execCacheModeWrite_keeps (.refl s) h sub_touches
  | dirtyLimitWrite _ _ => exact execDirtyLimitWrite_keeps (.refl s) h sub_touches
  | allocWaitExpired _ => exact execAllocWaitExpired_keeps (.refl s) h sub_touches
  | captureDataRead _ _ => exact execCaptureDataRead_keeps (.refl s) h sub_touches
  | captureCtrlWrite _ _ => exact execCaptureCtrlWrite_keeps (.refl s) h sub_touches
  | captureDecimWrite _ _ => exact execCaptureDecimWrite_keeps (.refl s) h sub_touches
  | memExceptionDataPlane => exact execMemExceptionDataPlane_keeps (.refl s) h sub_touches
  | memExceptionMgmtPlane => exact execMemExceptionMgmtPlane_keeps (.refl s) h sub_touches
  | retireReqWrite _ _ => exact execRetireReqWrite_keeps (.refl s) h sub_touches
  | unretireWrite _ _ => exact execUnretireWrite_keeps (.refl s) h sub_touches
  | nandProgramDone _ _ => exact execNandProgramDone_keeps (.refl s) h sub_touches
  | nandEraseDone _ _ => exact execNandEraseDone_keeps (.refl s) h sub_touches
  | nandReadDone _ _ _ => exact execNandReadDone_keeps (.refl s) h sub_touches
  | journalFlushTimer => exact execJournalFlushTimer_keeps (.refl s) h sub_touches
  | checkpointTrigger => exact execCheckpointTrigger_keeps (.refl s) h sub_touches
  | codeMiss _ _ => exact execCodeMiss_keeps (.refl s) h sub_touches
  | suspendIntervalEnd _ => exact execSuspendIntervalEnd_keeps (.refl s) h sub_touches
  | oemRead _ => exact execOemRead_keeps (.refl s) h sub_touches
  | oemProgram _ => exact execOemProgram_keeps (.refl s) h sub_touches
  | oemErase _ => exact execOemErase_keeps (.refl s) h sub_touches
  | slotEraseWrite _ _ => exact execSlotEraseWrite_keeps (.refl s) h sub_touches
  | mctpMessageDiscard _ _ => exact execMctpMessageDiscard_keeps (.refl s) h sub_touches
  | plarikGet _ _ => exact execPlarikGet_keeps (.refl s) h sub_touches
  | plarikSet _ _ => exact execPlarikSet_keeps (.refl s) h sub_touches
  | plarikCommit _ _ => exact execPlarikCommit_keeps (.refl s) h sub_touches
  | plarikDiscard _ _ => exact execPlarikDiscard_keeps (.refl s) h sub_touches
  | plarikDescribe _ _ => exact execPlarikDescribe_keeps (.refl s) h sub_touches
  | plarikNext _ _ => exact execPlarikNext_keeps (.refl s) h sub_touches
  | plarikUnknownOp _ _ => exact execPlarikUnknownOp_keeps (.refl s) h sub_touches
  | setEndpointId _ => exact execSetEndpointId_keeps (.refl s) h sub_touches
  | getEndpointId => exact execGetEndpointId_keeps (.refl s) h sub_touches
  | getEndpointUuid => exact execGetEndpointUuid_keeps (.refl s) h sub_touches
  | getMctpVersionSupport _ => exact execGetMctpVersionSupport_keeps (.refl s) h sub_touches
  | getMessageTypeSupport => exact execGetMessageTypeSupport_keeps (.refl s) h sub_touches
  | getVendorDefinedMsgSupport _ => exact execGetVendorDefinedMsgSupport_keeps (.refl s) h sub_touches
  | readNvmeMiDataStructure _ _ _ => exact execReadNvmeMiDataStructure_keeps (.refl s) h sub_touches
  | nvmSubsystemHealthPoll _ => exact execNvmSubsystemHealthPoll_keeps (.refl s) h sub_touches
  | controllerHealthPoll _ _ _ => exact execControllerHealthPoll_keeps (.refl s) h sub_touches
  | miConfigurationSet _ _ _ => exact execMiConfigurationSet_keeps (.refl s) h sub_touches
  | miConfigurationGet _ _ => exact execMiConfigurationGet_keeps (.refl s) h sub_touches
  | miAdminTunnel _ _ => exact execMiAdminTunnel_keeps (.refl s) h sub_touches
  | smbusAlertResponse => exact execSmbusAlertResponse_keeps (.refl s) h sub_touches
  | objectWrite _ _ _ _ => exact execObjectWrite_keeps (.refl s) h sub_touches
  | commitWrite _ => exact execCommitWrite_keeps (.refl s) h sub_touches
  | discardWrite _ => exact execDiscardWrite_keeps (.refl s) h sub_touches
  | channelCommitSwap _ => exact execChannelCommitSwap_keeps (.refl s) h sub_touches
  | privEnterWrite _ _ => exact execPrivEnterWrite_keeps (.refl s) h sub_touches
  | ownerLockWrite _ _ => exact execOwnerLockWrite_keeps (.refl s) h sub_touches
  | nodeNumberWrite _ _ => exact execNodeNumberWrite_keeps (.refl s) h sub_touches
  | mctpStatusWrite _ _ _ => exact execMctpStatusWrite_keeps (.refl s) h sub_touches
  | stageLeaseExpired => exact execStageLeaseExpired_keeps (.refl s) h sub_touches
  | privIdleExpired _ => exact execPrivIdleExpired_keeps (.refl s) h sub_touches
  | segmentTimeout _ => exact execSegmentTimeout_keeps (.refl s) h sub_touches
  | snapshotTimeout _ => exact execSnapshotTimeout_keeps (.refl s) h sub_touches
  | fwPieceWrite path x => exact execFwPieceWrite_keeps (p := path) (piece := x) (.refl s) h sub_touches
  | fwSealDone _ => exact execFwSealDone_keeps (.refl s) h sub_touches
  | fwLeaseExpired => exact execFwLeaseExpired_keeps (.refl s) h sub_touches
  | fwAbortWrite _ _ => exact execFwAbortWrite_keeps (.refl s) h sub_touches
  | fwActionKeep _ => exact execFwActionKeep_keeps (.refl s) h sub_touches
  | fwActionNextReset _ => exact execFwActionNextReset_keeps (.refl s) h sub_touches
  | fwActionExisting _ => exact execFwActionExisting_keeps (.refl s) h sub_touches
  | fwActionImmediate _ => exact execFwActionImmediate_keeps (.refl s) h sub_touches
  | activationDrainDone _ => exact execActivationDrainDone_keeps (.refl s) h sub_touches
  | activationDrainLimit => exact execActivationDrainLimit_keeps (.refl s) h sub_touches
  | activationResume => exact execActivationResume_keeps (.refl s) h sub_touches
  | activationFallback => exact execActivationFallback_keeps (.refl s) h sub_touches
  | eventWrite => exact execEventWrite_keeps (.refl s) h sub_touches
  | evtFreezeWrite _ _ => exact execEvtFreezeWrite_keeps (.refl s) h sub_touches
  | freezeLeaseExpired => exact execFreezeLeaseExpired_keeps (.refl s) h sub_touches
  | evtModeWrite _ _ => exact execEvtModeWrite_keeps (.refl s) h sub_touches
  | mirrorPageProgram => exact execMirrorPageProgram_keeps (.refl s) h sub_touches
  | logSelectWrite _ _ => exact execLogSelectWrite_keeps (.refl s) h sub_touches
  | logRead _ => exact execLogRead_keeps (.refl s) h sub_touches
  | porstAssert => exact execPorstAssert_keeps (.refl s) h sub_touches
  | railRestored _ _ => exact execRailRestored_keeps (.refl s) h sub_touches
  | substituteLoss => exact execSubstituteLoss_keeps (.refl s) h sub_touches
  | pcieLinkDown _ => exact execPcieLinkDown_keeps (.refl s) h sub_touches
  | i3cAddressAssignment _ => exact execI3cAddressAssignment_keeps (.refl s) h sub_touches
  | planeRestartDone _ => exact execPlaneRestartDone_keeps (.refl s) h sub_touches
  | setFeatUnsupported _ _ _ v => exact execSetFeatUnsupported_keeps (_v := v) (.refl s) h sub_touches

theorem Keeps.samePart {m : Nat} {s t : State} (h : Keeps m s t) {p : Part} (hp : m.testBit p.bit = false) : SamePart p s t := by
  obtain ⟨-, -, -, hparts⟩ := h
  exact (hparts p).resolve_left (by rw [hp]; exact Bool.false_ne_true)

theorem exec_samePart {c : Instr} {s t : State} {p : Part} (h : exec c s = .next t) (hp : (touches c).contains p = false) :
    SamePart p s t :=
  (exec_keeps h).samePart ((partMask_testBit _ p).trans hp)

/-! ## The tick counter -/

/-- Only a tick boundary and a power-on reset have the counter in their row. -/
theorem touches_counter {c : Instr} (hpor : isPowerOnReset c = false) (htick : c ≠ .tickBoundary) :
    (touches c).contains .counter = false := by
  cases c with
  | tickBoundary => exact absurd rfl htick
  | porstAssert => exact Bool.noConfusion hpor
  | railUndervoltage _ => exact Bool.noConfusion hpor
  | vaultRestart _ => exact Bool.noConfusion hpor
  | _ => rfl

/-- Every part but the tick counter. -/
abbrev uncounted : Nat := partMask (allBut [.counter])

theorem sub_uncounted {a : Nat} (h : a &&& uncounted = a := by decide) : Sub a uncounted := Sub.of h (Sub.refl _)

theorem Keeps.counter {s t : State} (h : Keeps uncounted s t) : t.tick.counter = s.tick.counter :=
  h.samePart (p := .counter) (by decide)

theorem issueBoundary_counter (s : State) : (issueBoundary s).tick.counter = s.tick.counter + 1 :=
  congrArg (· + 1) (advanceTick_keeps (.refl s) sub_uncounted).counter

theorem boundaryServo_uncounted (s : State) : Keeps uncounted s (boundaryServo s) := boundaryServo_keeps (.refl s) sub_uncounted

/-- What a boundary of a live controller does once it is issued. -/
theorem boundaryWork_uncounted (s : State) :
    Keeps uncounted s (sheepdogPass (boundaryRest (boundaryRecords (boundaryServo s)))) :=
  sheepdogPass_keeps (boundaryRest_keeps (boundaryRecords_keeps (boundaryServo_uncounted s) sub_uncounted) sub_uncounted) sub_uncounted

/-- R32: a boundary of a controller that runs counts once, whether all planes are live, a vault leaves only the servo part, or the
vault has retracted the heads and ticks alone go on. -/
theorem tickBoundary_counter {s : State} (hrun : s.power.running = true) (hdead : s.power.dead = false)
    (htest : s.power.straps.testMode = false) : Answers .tickBoundary s (fun t => t.tick.counter = s.tick.counter + 1) := by
  refine ⟨_, rfl, ?_⟩
  rw [if_neg (by rw [hrun, hdead, htest]; decide), ← issueBoundary_counter]
  dsimp only
  split
  · exact (boundaryWork_uncounted _).counter
  · split
    · exact (boundaryServo_uncounted _).counter
    · rfl

theorem raise_counter (e : Event) (s : State) : (raise e s).tick.counter = s.tick.counter :=
  (raise_keeps (.refl s) sub_uncounted).counter

/-- R32: the power-on reset clears the count. -/
theorem porReset_counter (s : State) : (porReset s).tick.counter = 0 := by
  unfold porReset
  dsimp only
  split
  · exact raise_counter _ _
  · rfl

theorem bootUp_counter (st : Straps) (b : BootCheck) (pwrdis : Bool) (s : State) :
    (bootUp st b pwrdis s).tick.counter = s.tick.counter :=
  (bootUp_keeps (.refl s) sub_uncounted).counter

/-- R63: a monitored rail that was good and falls is a power-on reset. -/
theorem exec_railUndervoltage_of_monitored {s : State} {r : Rail} (hmon : monitored r = true)
    (hgood : s.power.railsLow.contains r = false) :
    exec (.railUndervoltage r) s = .next (porReset { s with power.railsLow := s.power.railsLow ++ [r] }) := by
  show execRailUndervoltage r s = _
  rw [execRailUndervoltage, hmon, hgood]
  rfl

/-- R70: the restart after the vault is a power-on reset followed by start-up. -/
theorem exec_vaultRestart_of_vaulted {s : State} (b : BootCheck) (hvault : s.power.vault = .vaulted ∨ s.power.vault = .noVault)
    (hhold : s.power.holdLow = false) (hpwrdis : s.power.pwrdis = false) :
    exec (.vaultRestart b) s = .next (bootUp s.power.straps b false (porReset s)) := by
  show execVaultRestart b s = _
  rw [execVaultRestart, if_pos (by simpa [hhold, hpwrdis] using hvault)]

/-! ## The tick counter in BAR2 (spec 10, R314) -/

theorem bar2Reg_tickLo (s : State) (p : PortId) : bar2Reg s p 0x0018 = s.tick.counter.toNat % 2 ^ 32 :=
  BitVec.toNat_setWidth 32 s.tick.counter

theorem bar2Reg_tickHi (s : State) (p : PortId) : bar2Reg s p 0x001C = (s.port p).tickHi.toNat := rfl

/-- The upper half of a 64-bit count needs no reduction to fit its 32 bits. -/
theorem upperHalf_toNat (c : Word64) : ((c >>> 32).truncate 32 : Word32).toNat = c.toNat / 2 ^ 32 := by
  have hc : c.toNat / 2 ^ 32 < 2 ^ 32 := by have := c.isLt; omega
  calc ((c >>> 32).truncate 32 : Word32).toNat
      = (c >>> 32).toNat % 2 ^ 32 := BitVec.toNat_setWidth 32 _
    _ = c.toNat / 2 ^ 32 % 2 ^ 32 := by rw [BitVec.toNat_ushiftRight, Nat.shiftRight_eq_div_pow]
    _ = c.toNat / 2 ^ 32 := Nat.mod_eq_of_lt hc

theorem exec_tickLoRead_of_live {s : State} (p : PortId) (hlive : s.live = true) :
    exec (.tickLoRead p) s = .next (s.modPort p (fun q => { q with tickHi := (s.tick.counter >>> 32).truncate 32 })) := by
  show execTickLoRead p s = _
  rw [execTickLoRead, ifLive, if_pos hlive]

/-- Settles O7: a boundary counts by `issueBoundary` alone, every other command but a power-on reset has no counter in its frame, and
the three power-on resets go through `porReset`. -/
theorem tickCounterCountsEveryBoundary : Obligations.TickCounterCountsEveryBoundary := by
  unfold Obligations.TickCounterCountsEveryBoundary
  refine ⟨fun s => tickBoundary_counter, fun c s t h hpor htick => ?others, fun s => ?porst, fun s r hmon hgood => ?rail,
    fun s b hvault hhold hpwrdis => ?vault, bar2Reg_tickLo, fun s p hlive => ?tickHi⟩
  case others => exact exec_samePart (p := .counter) h (touches_counter hpor htick)
  case porst => exact ⟨_, rfl, porReset_counter _⟩
  case rail => exact ⟨_, exec_railUndervoltage_of_monitored hmon hgood, porReset_counter _⟩
  case vault => exact ⟨_, exec_vaultRestart_of_vaulted b hvault hhold hpwrdis, (bootUp_counter ..).trans (porReset_counter s)⟩
  case tickHi =>
    refine ⟨_, exec_tickLoRead_of_live p hlive, ?_, rfl⟩
    rw [bar2Reg_tickHi, State.modPort_port_self, upperHalf_toNat]

end Sys2Proof.Machine
end

section
/-! SUPPORT. The Gray conversion of spec 05 (R134): one bit more of a Gray word is one bit more, at the low end, of its binary value;
the bits and the bound of the value follow by induction along the word. -/

namespace Sys2Proof.Machine

/-- The `bit` of R134 after the bits of a word: their exclusive or. -/
def xorOf (bits : List Bool) : Bool := bits.foldl (fun a b => a != b) false

theorem b2n_eq_toNat (b : Bool) : b2n b = b.toNat := by cases b <;> rfl

/-- One round of the loop of R134 over its `bit` and `bin`. -/
def grayRound (a : Bool × Nat) (g : Bool) : Bool × Nat := (a.1 != g, 2 * a.2 + b2n (a.1 != g))

theorem grayValue_eq_snd (bits : List Bool) : grayValue bits = (bits.foldl grayRound (false, 0)).2 := rfl

theorem xorOf_eq_fst (bits : List Bool) : xorOf bits = (bits.foldl grayRound (false, 0)).1 :=
  List.foldl_hom (g₁ := grayRound) (init := (false, 0)) Prod.fst fun _ _ => rfl

theorem xorOf_concat (bits : List Bool) (b : Bool) : xorOf (bits ++ [b]) = (xorOf bits != b) := List.foldl_concat ..

/-- A round of R134 appends the exclusive or so far to the value, as its low bit. -/
theorem grayValue_concat (bits : List Bool) (b : Bool) :
    grayValue (bits ++ [b]) = Nat.bit (xorOf (bits ++ [b])) (grayValue bits) := by
  rw [xorOf_concat, xorOf_eq_fst, Nat.bit_val, ← b2n_eq_toNat, grayValue_eq_snd, List.foldl_concat, grayValue_eq_snd, grayRound]

theorem grayValue_lt (bits : List Bool) : grayValue bits < 2 ^ bits.length := by
  induction bits using List.reverseRecOn with
  | nil => exact Nat.one_pos
  | append_singleton bits b ih =>
    rw [grayValue_concat, List.length_append, List.length_singleton, Nat.bit_lt_two_pow_succ_iff]
    exact ih

/-- Bit `i` of the value is the exclusive or of the Gray bits down to bit `i`: the low bit is the last round's, the others stand where
the rounds before put them. -/
theorem grayValue_testBit {bits : List Bool} {i : Nat} (hi : i < bits.length) :
    (grayValue bits).testBit i = xorOf (bits.take (bits.length - i)) := by
  induction bits using List.reverseRecOn generalizing i with
  | nil => exact absurd hi (Nat.not_lt_zero i)
  | append_singleton bits b ih =>
    rw [grayValue_concat]
    cases i with
    | zero => rw [Nat.testBit_bit_zero, Nat.sub_zero, List.take_length]
    | succ i =>
      rw [List.length_append, List.length_singleton] at hi ⊢
      rw [Nat.testBit_bit_succ, ih (Nat.lt_of_succ_lt_succ hi), Nat.add_sub_add_right,
        List.take_append_of_le_length (Nat.sub_le ..)]

theorem erasuresOf_map_some (bits : List Bool) : erasuresOf (bits.map some) = 0 := by
  simp [erasuresOf, List.countP_map]

/-- R135: without an erasure the decoded value is the one candidate. -/
theorem trackCandidates_map_some (bits : List Bool) : trackCandidates (bits.map some) = [grayValue bits] := by
  have hbits : (bits.map some).map (·.getD false) = bits := (List.map_map ..).trans (List.map_id bits)
  simp only [trackCandidates, erasuresOf_map_some, hbits]

/-- Settles O19: the three facts hold of a word of any length, and here it has 22 bits. -/
theorem grayCodeGivesTheTrackNumber : Obligations.GrayCodeGivesTheTrackNumber := by
  unfold Obligations.GrayCodeGivesTheTrackNumber
  intro g hg
  refine ⟨trackCandidates_map_some g, hg ▸ grayValue_lt g, fun i hi => ?_⟩
  rw [← hg] at hi ⊢
  exact grayValue_testBit hi

end Sys2Proof.Machine
end

section
/-! SUPPORT. Requests for a message of vector 65 (spec 10, R314 to R318): what a request makes of a port, and that each place which
requests one does so by its own condition on INT_CAUSE. Then the unmask of a vector (R291, R318). -/

namespace Sys2Proof.Machine

/-! ## Ports -/

theorem State.modPort_port_ne {s : State} {p x : PortId} {f : Port → Port} (h : x ≠ p) : (s.modPort p f).port x = s.port x := by
  rw [State.modPort_port, if_neg h.symm]

theorem State.modPorts_port (s : State) (f : Port → Port) (p : PortId) : (s.modPorts f).port p = f (s.port p) := by
  match p with
  | 0 => rw [State.modPorts, State.modPort_port_ne (by decide), State.modPort_port_self]
  | 1 => rw [State.modPorts, State.modPort_port_self, State.modPort_port_ne (by decide)]

theorem port_ne_other (p : PortId) : p ≠ 1 - p := by decide +revert

theorem setFlag_port (f : Flag) (s : State) (p : PortId) : (setFlag f s).port p = setPortFlag f (s.port p) :=
  State.modPorts_port s (setPortFlag f) p

/-! ## A request under a condition (R318) -/

section
variable (want : Prop) [Decidable want] (q : Port)

theorem status_ite_requestMsg : (if want then requestMsg q else q).status = q.status := by
  unfold requestMsg
  split_ifs <;> rfl

theorem intEnable_ite_requestMsg : (if want then requestMsg q else q).intEnable = q.intEnable := by
  unfold requestMsg
  split_ifs <;> rfl

theorem intCause_ite_requestMsg : intCause (if want then requestMsg q else q) = intCause q := by
  rw [intCause, status_ite_requestMsg, intEnable_ite_requestMsg, intCause]

theorem asked_ite_requestMsg : Asked want q (if want then requestMsg q else q) := by
  by_cases hwant : want
  · rw [if_pos hwant, requestMsg]
    cases hmask : q.masked65 <;> simp [Asked, hwant, hmask]
  · simp [Asked, hwant]

end

/-! ## A flag set by the hardware (R317, R318) -/

theorem withStatus_status (v : Word32) (q : Port) : (withStatus v q).status = v := status_ite_requestMsg ..

/-- The write of STATUS inside `withStatus` leaves what `Asked` compares, so the request is one from `q` itself. -/
theorem withStatus_asked (v : Word32) (q : Port) :
    Asked (intCause q = 0 ∧ intCause (withStatus v q) ≠ 0) q (withStatus v q) := by
  have hcause : intCause (withStatus v q) = intCause { q with status := v } := intCause_ite_requestMsg ..
  rw [hcause]
  exact asked_ite_requestMsg (intCause q = 0 ∧ intCause { q with status := v } ≠ 0) { q with status := v }

/-! ## Writes of STATUS and INT_ENABLE (R314, R317, R318) -/

/-- What a write of STATUS or of INT_ENABLE ends with on its port (R318): no test of INT_CAUSE before the write. -/
def requestIfCaused (q : Port) : Port := if intCause q ≠ 0 then requestMsg q else q

theorem requestIfCaused_status (q : Port) : (requestIfCaused q).status = q.status := status_ite_requestMsg ..

theorem requestIfCaused_intEnable (q : Port) : (requestIfCaused q).intEnable = q.intEnable := intEnable_ite_requestMsg ..

theorem requestIfCaused_asked (q : Port) : Asked (intCause (requestIfCaused q) ≠ 0) q (requestIfCaused q) := by
  have hcause : intCause (requestIfCaused q) = intCause q := intCause_ite_requestMsg ..
  rw [hcause]
  exact asked_ite_requestMsg ..

/-- On the port of the write; the flags set in the same cycle reach the other port by themselves. -/
theorem statusWrite_port {s : State} (p : PortId) (v now : Word32) (hlive : s.live = true) :
    Answers (.statusWrite p v now) s (fun t =>
      t.port p = requestIfCaused { s.port p with status := ((s.port p).status &&& ~~~v) ||| (now &&& statusMask) }) := by
  refine ⟨_, congrArg Host.Outcome.next (if_neg (by rw [hlive]; decide)), ?_⟩
  exact (State.modPort_port_ne (port_ne_other p)).trans (State.modPort_port_self ..)

theorem exec_intEnableWrite_of_live {s : State} (p : PortId) (v : Word32) (hlive : s.live = true) :
    exec (.intEnableWrite p v) s =
      .next (s.modPort p (fun q => requestIfCaused { q with intEnable := v &&& statusMask })) :=
  congrArg Host.Outcome.next (if_neg (by rw [hlive]; decide))

/-! ## The unmask of a vector (R291, R318) -/

theorem getLsbD_and_not_shiftLeft_one {w : Nat} (x : BitVec w) (v : Nat) : (x &&& ~~~((1 : BitVec w) <<< v)).getLsbD v = false := by
  by_cases hv : v < w
  · simp [hv]
  · exact BitVec.getLsbD_of_ge _ _ (Nat.le_of_not_lt hv)

theorem unmaskVector_masked64 (v : Nat) (q : Port) : (unmaskVector v q).masked64.getLsbD v = false := by
  dsimp only [unmaskVector]
  split <;> exact getLsbD_and_not_shiftLeft_one ..

theorem unmaskVector_pending64 (v : Nat) (q : Port) : (unmaskVector v q).pending64.getLsbD v = false := by
  dsimp only [unmaskVector]
  split
  next => exact getLsbD_and_not_shiftLeft_one ..
  next hpend => exact Bool.eq_false_of_not_eq_true hpend

theorem unmaskVector_msgs64 (v : Nat) (q : Port) :
    (unmaskVector v q).msgs64 = q.msgs64 ++ (if q.pending64.getLsbD v then [v] else []) := by
  dsimp only [unmaskVector]
  split
  next => rfl
  next => exact (List.append_nil _).symm

theorem unmaskVector_msgs65 (v : Nat) (q : Port) : (unmaskVector v q).msgs65 = q.msgs65 := by
  dsimp only [unmaskVector]
  split <;> rfl

theorem exec_msixUnmask_of_ne {s : State} (p : PortId) {v : Fin 66} (hlive : s.live = true) (hv : v ≠ 65) :
    exec (.msixUnmask ⟨p, v⟩) s = .next (s.modPort p (unmaskVector v.val)) := by
  show execMsixUnmask ⟨p, v⟩ s = _
  simp only [execMsixUnmask, ifLive, if_pos hlive, if_pos hv]

/-- Vector 65 unmasked: a pending message is sent once. -/
def unmask65 (q : Port) : Port :=
  if q.pending65 then { q with masked65 := false, pending65 := false, msgs65 := q.msgs65 + 1 } else { q with masked65 := false }

theorem unmask65_masked65 (q : Port) : (unmask65 q).masked65 = false := by
  unfold unmask65
  split <;> rfl

theorem unmask65_pending65 (q : Port) : (unmask65 q).pending65 = false := by
  unfold unmask65
  split
  next => rfl
  next hpend => exact Bool.eq_false_of_not_eq_true hpend

theorem unmask65_msgs65 (q : Port) : (unmask65 q).msgs65 = q.msgs65 + (if q.pending65 then 1 else 0) := by
  unfold unmask65
  split <;> rfl

theorem unmask65_status (q : Port) : (unmask65 q).status = q.status := by
  unfold unmask65
  split <;> rfl

theorem exec_msixUnmask_65 {s : State} (p : PortId) (hlive : s.live = true) :
    exec (.msixUnmask ⟨p, 65⟩) s = .next (s.modPort p unmask65) := by
  show execMsixUnmask ⟨p, 65⟩ s = _
  rw [execMsixUnmask, ifLive, if_pos hlive]
  rfl

/-- Settles O18: each of the three that set or enable a flag ends with `requestMsg` under its own condition, and the unmask of a vector
works on its port alone. -/
theorem vendorInterruptMessages : Obligations.VendorInterruptMessages := by
  unfold Obligations.VendorInterruptMessages
  refine ⟨fun f s p => ?flag, fun s p v now hlive => ?status, fun s p v hlive => ?enable, fun s p v hlive hv => ?queues,
    fun s p hlive => ?vendor⟩
  case flag =>
    rw [setFlag_port]
    exact ⟨withStatus_status .., withStatus_asked ..⟩
  case status =>
    obtain ⟨t, hexec, hport⟩ := statusWrite_port p v now hlive
    refine ⟨t, hexec, ?_⟩
    dsimp only
    rw [hport]
    exact ⟨requestIfCaused_status _, requestIfCaused_asked _⟩
  case enable =>
    refine ⟨_, exec_intEnableWrite_of_live p v hlive, ?_, ?_, fun _ => State.modPort_port_ne⟩
    all_goals rw [State.modPort_port_self]
    · exact requestIfCaused_intEnable _
    · exact requestIfCaused_asked _
  case queues =>
    refine ⟨_, exec_msixUnmask_of_ne p hlive hv, ?_, ?_, ?_, ?_, fun _ => State.modPort_port_ne⟩
    all_goals rw [State.modPort_port_self]
    · exact unmaskVector_masked64 ..
    · exact unmaskVector_pending64 ..
    · exact unmaskVector_msgs64 ..
    · exact unmaskVector_msgs65 ..
  case vendor =>
    refine ⟨_, exec_msixUnmask_65 p hlive, ?_, ?_, ?_, ?_, fun _ => State.modPort_port_ne⟩
    all_goals rw [State.modPort_port_self]
    · exact unmask65_masked65 _
    · exact unmask65_pending65 _
    · exact unmask65_msgs65 _
    · exact unmask65_status _

end Sys2Proof.Machine
end

section
/-! SUPPORT. The step as a whole: every command answers a next state, and what the frame of a command (`exec_keeps`) gives every step,
whichever command it takes. -/

set_option Elab.async false

namespace Sys2Proof.Machine

/-- Each arm of the dispatch ends with a next state, whatever its case. -/
theorem exec_next (c : Instr) (s : State) : ∃ t, exec c s = .next t := by
  cases c <;> exact ⟨_, rfl⟩

theorem step_nil {s : State} (h : s.pending = []) : step s = .next s := by
  rw [step, h]

theorem step_cons {s : State} {c : Instr} {r : List Instr} (h : s.pending = c :: r) :
    step s = exec c { s with pending := r } := by
  rw [step, h]

theorem exec_pending {c : Instr} {s t : State} (h : exec c s = .next t) : t.pending = s.pending := by
  obtain ⟨hpending, -⟩ := exec_keeps h
  exact hpending

/-- A property of states that neither the queue nor any command disturbs is kept by a step. -/
theorem step_induction {P : State → Prop} (hqueue : ∀ s r, P s → P { s with pending := r })
    (hexec : ∀ c s t, exec c s = .next t → P s → P t) {s t : State} (hs : P s) (h : step s = .next t) : P t := by
  match hpending : s.pending with
  | [] =>
    rw [step_nil hpending] at h
    cases h
    exact hs
  | c :: r =>
    rw [step_cons hpending] at h
    exact hexec c _ t h (hqueue s r hs)

/-- Settles O1: the two equations of `step`. -/
theorem stepRunsTheFrontCommand : Obligations.StepRunsTheFrontCommand := by
  unfold Obligations.StepRunsTheFrontCommand
  exact fun s => ⟨fun c r => step_cons, step_nil⟩

/-- Settles O2: every arm answers a next state, and its frame holds the queue. -/
theorem everyCommandAnswersAndLeavesTheQueue : Obligations.EveryCommandAnswersAndLeavesTheQueue := by
  unfold Obligations.EveryCommandAnswersAndLeavesTheQueue
  refine ⟨fun c s => ?_, fun s c r hpending => ?_⟩
  · obtain ⟨t, ht⟩ := exec_next c s
    exact ⟨t, ht, exec_pending ht⟩
  · obtain ⟨t, ht⟩ := exec_next c { s with pending := r }
    exact ⟨t, (step_cons hpending).trans ht, exec_pending ht⟩

/-- Settles O3: the buffer part of the frame, along a step. -/
theorem everyStepKeepsTheBufferWords : Obligations.EveryStepKeepsTheBufferWords := by
  unfold Obligations.EveryStepKeepsTheBufferWords
  refine fun s t => step_induction (P := BufferWf) (fun _ _ => id) fun c s t h => ?_
  obtain ⟨-, hbuffer, -⟩ := exec_keeps h
  exact hbuffer

/-- Settles O4: the recorder's part of the frame, along a step. -/
theorem everyStepKeepsTheRecorderInBounds : Obligations.EveryStepKeepsTheRecorderInBounds := by
  unfold Obligations.EveryStepKeepsTheRecorderInBounds
  refine fun s t => step_induction (P := fun s => RecorderOk s.evr) (fun _ _ => id) fun c s t h => ?_
  obtain ⟨-, -, hrecorder, -⟩ := exec_keeps h
  exact hrecorder

/-- Settles O8: the frame of each command, `exec_keeps`, part by part. -/
theorem everyCommandLeavesTheOtherPartsAlone : Obligations.EveryCommandLeavesTheOtherPartsAlone := by
  unfold Obligations.EveryCommandLeavesTheOtherPartsAlone
  exact fun c s t p => exec_samePart

/-! ## The reset state -/

theorem bufferWf_reset : BufferWf State.reset := by unfold BufferWf; decide

theorem recorderOk_reset : RecorderOk State.reset.evr := by
  refine ⟨?_, ?_, ?_, ?_, ?_⟩ <;> decide

/-- Settles O5. -/
theorem resetMeetsTheInvariants : Obligations.ResetMeetsTheInvariants := ⟨bufferWf_reset, recorderOk_reset⟩

/-- Settles O6: each claim is read off the reset state. -/
theorem resetLeavesWhatTheSpecSays : Obligations.ResetLeavesWhatTheSpecSays := by
  unfold Obligations.ResetLeavesWhatTheSpecSays
  refine ⟨rfl, rfl, rfl, fun k => ?links, fun n => ?chans, fun p => ?ports, rfl, rfl, rfl, rfl⟩
  case links => revert k; decide
  case chans => revert n; decide
  case ports => revert p; decide

end Sys2Proof.Machine
end

section
/-! SUPPORT. A controller held in reset with no vault in progress (spec 02, R60, R63): none of the conditions under which a command acts
holds. -/

set_option Elab.async false

namespace Sys2Proof.Machine

theorem when_false (f : State → State) (s : State) : when false f s = s := rfl

theorem when_true (f : State → State) (s : State) : when true f s = f s := rfl

section
variable {s : State} (hrun : s.power.running = false)
include hrun

theorem not_live_of_held : s.live = false := by simp [State.live, hrun]

theorem not_servoLive_of_held : s.servoLive = false := by simp [State.servoLive, hrun]

theorem not_portsAct_of_held : s.portsAct = false := by simp [State.portsAct, hrun]

theorem not_resident_of_held : s.resident = false := by simp [State.resident, not_live_of_held hrun]

theorem not_dictServes_of_held : dictServes s = false := by simp [dictServes, not_resident_of_held hrun]

theorem not_mayFetch_of_held (p : PortId) : mayFetch s p = false := by simp [mayFetch, not_live_of_held hrun]

theorem ifLive_of_held (f : State → State) : ifLive s f = s := if_neg (by simp [not_live_of_held hrun])

theorem ifResident_of_held (f : State → State) : ifResident s f = s := if_neg (by simp [not_resident_of_held hrun])

theorem onMctp_of_held (f : State → State) : onMctp f s = s := if_neg (by simp [mctpOpen, not_dictServes_of_held hrun])

theorem onFrame_of_held (k : LinkId) (type : Nat) (f : UpFrame) (g : State → State) : onFrame k type f g s = s :=
  if_pos (by simp [hrun])

theorem onReservation_of_held (op : IoOp) (id : Nat) (f : Ctx → Namespace → State → State) : onReservation op id f s = s :=
  if_pos (by simp [not_live_of_held hrun])

theorem plarikArrives_of_held (ofRow : List Byte → Bool) (p : Path) (r : PlarikReq) : plarikArrives ofRow p r s = s :=
  if_pos (by simp [not_live_of_held hrun])

theorem objectAccess_of_held (p : Path) (index sub : Nat) (v : List Byte) : objectAccess p index sub v s = s :=
  if_pos (by simp [not_dictServes_of_held hrun])

theorem objectRead_of_held (p : Path) (index sub limit : Nat) : objectRead p index sub limit s = s :=
  if_pos (by simp [not_dictServes_of_held hrun])

theorem adminExec_of_held (a : AdminHdr) (b : Bool) (f : State → State) : adminExec a b f s = s :=
  if_pos (by simp [adminOpen, not_live_of_held hrun])

theorem setFeature_of_held (a : AdminHdr) (fid nsid : Nat) (save : Bool) (st : State → Option Status) (dw0 : Nat) (f : State → State) :
    setFeature a fid nsid save st dw0 f s = s := adminExec_of_held hrun ..

theorem nsCommand_of_held (a : AdminHdr) (opcode nsid cdw10 : Nat) (f : State → State) : nsCommand a opcode nsid cdw10 f s = s :=
  adminExec_of_held hrun ..

theorem sanitizeCommand_of_held (a : AdminHdr) (cdw10 : Nat) (f : State → State) : sanitizeCommand a cdw10 f s = s :=
  adminExec_of_held hrun ..

theorem fwCommit_of_held (a : AdminHdr) (ca : Nat) (fs : BitVec 3) (b : Bool) : fwCommit a ca fs b s = s := adminExec_of_held hrun ..

end

/-- Settles O9: each command other than a pin acts under one of the conditions above, or on a vault in progress. -/
theorem heldInResetNothingAnswers : Obligations.HeldInResetNothingAnswers := by
  unfold Obligations.HeldInResetNothingAnswers
  intro c s hrun hvault _ hpin
  cases c
  case powerGood | railUndervoltage | railRestored | porstAssert | perstAssert | perstDeassert | pwrdisRise | pwrdisFall | holdSenseFall |
    holdSenseRise => exact Bool.noConfusion hpin
  all_goals refine congrArg Host.Outcome.next ?_
  all_goals simp [hrun, hvault, not_live_of_held hrun, not_servoLive_of_held hrun, not_portsAct_of_held hrun,
    not_resident_of_held hrun, not_dictServes_of_held hrun, not_mayFetch_of_held hrun, ifLive_of_held hrun, ifResident_of_held hrun,
    onMctp_of_held hrun, onFrame_of_held hrun, onReservation_of_held hrun, plarikArrives_of_held hrun, objectAccess_of_held hrun,
    objectRead_of_held hrun, adminExec_of_held hrun, setFeature_of_held hrun, nsCommand_of_held hrun, sanitizeCommand_of_held hrun,
    fwCommit_of_held hrun, when_false]
  all_goals split <;> rfl

end Sys2Proof.Machine
end

section
/-! SUPPORT. What the shared operations of start-up and of the recorder make of the state: an event changes the recorder alone, a phase
and a failure change the fields of the power domain that the manual names. -/

set_option Elab.async false

namespace Sys2Proof.Machine

/-! ## An event that arrives (spec 17, R483) -/

theorem raise_eq (e : Event) (s : State) : ∃ r, raise e s = { s with evr := r } := by
  unfold raise
  dsimp only
  split_ifs <;> exact ⟨_, rfl⟩

section
variable (e : Event) (s : State)

@[simp] theorem raise_power : (raise e s).power = s.power := by obtain ⟨r, h⟩ := raise_eq e s; rw [h]
@[simp] theorem raise_clock : (raise e s).clock = s.clock := by obtain ⟨r, h⟩ := raise_eq e s; rw [h]
@[simp] theorem raise_tick : (raise e s).tick = s.tick := by obtain ⟨r, h⟩ := raise_eq e s; rw [h]
@[simp] theorem raise_links : (raise e s).links = s.links := by obtain ⟨r, h⟩ := raise_eq e s; rw [h]
@[simp] theorem raise_chans : (raise e s).chans = s.chans := by obtain ⟨r, h⟩ := raise_eq e s; rw [h]
@[simp] theorem raise_heads : (raise e s).heads = s.heads := by obtain ⟨r, h⟩ := raise_eq e s; rw [h]
@[simp] theorem raise_env : (raise e s).env = s.env := by obtain ⟨r, h⟩ := raise_eq e s; rw [h]
@[simp] theorem raise_cal : (raise e s).cal = s.cal := by obtain ⟨r, h⟩ := raise_eq e s; rw [h]
@[simp] theorem raise_ports : (raise e s).ports = s.ports := by obtain ⟨r, h⟩ := raise_eq e s; rw [h]
@[simp] theorem raise_sub : (raise e s).sub = s.sub := by obtain ⟨r, h⟩ := raise_eq e s; rw [h]
@[simp] theorem raise_cmds : (raise e s).cmds = s.cmds := by obtain ⟨r, h⟩ := raise_eq e s; rw [h]
@[simp] theorem raise_sched : (raise e s).sched = s.sched := by obtain ⟨r, h⟩ := raise_eq e s; rw [h]
@[simp] theorem raise_bms : (raise e s).bms = s.bms := by obtain ⟨r, h⟩ := raise_eq e s; rw [h]
@[simp] theorem raise_cache : (raise e s).cache = s.cache := by obtain ⟨r, h⟩ := raise_eq e s; rw [h]
@[simp] theorem raise_faults : (raise e s).faults = s.faults := by obtain ⟨r, h⟩ := raise_eq e s; rw [h]
@[simp] theorem raise_mule : (raise e s).mule = s.mule := by obtain ⟨r, h⟩ := raise_eq e s; rw [h]
@[simp] theorem raise_dict : (raise e s).dict = s.dict := by obtain ⟨r, h⟩ := raise_eq e s; rw [h]
@[simp] theorem raise_mgmt : (raise e s).mgmt = s.mgmt := by obtain ⟨r, h⟩ := raise_eq e s; rw [h]
@[simp] theorem raise_fw : (raise e s).fw = s.fw := by obtain ⟨r, h⟩ := raise_eq e s; rw [h]
@[simp] theorem raise_loadQueue : (raise e s).loadQueue = s.loadQueue := by obtain ⟨r, h⟩ := raise_eq e s; rw [h]

end

/-- An event that arrives touches no record. -/
theorem raise_recorded (e : Event) (s : State) : recorded (raise e s).evr = recorded s.evr :=
  (raise_keeps (.refl s) (Sub.refl _)).samePart (p := .recorder) rfl

@[simp] theorem raise_log (e : Event) (s : State) : (raise e s).evr.log = s.evr.log := by
  have h := congrArg Evr.log (raise_recorded e s)
  exact h

/-! ## Flags, phases and start-up failures (spec 03, R79, R98; spec 10, R317) -/

theorem setFlag_eq (f : Flag) (s : State) : ∃ v w a, setFlag f s = { s with ports := v, mgmt.status := w, power.alertLow := a } :=
  ⟨_, _, _, rfl⟩

/-- ALERT_N apart, a flag leaves the power domain as it is; a phase enters with its instant, and READY may note its time. -/
theorem enterPhase_power (ph : Phase) (s : State) : ∃ a r, (enterPhase ph s).power =
    { s.power with phase := ph, phaseStart := s.clock.ns, alertLow := a, readyTime := r } := by
  unfold enterPhase
  dsimp only
  obtain ⟨r, h⟩ := raise_eq (event 0x0002 0 srcController ph.code (nowMs { s with power.phase := ph, power.phaseStart := s.clock.ns }))
    { s with power.phase := ph, power.phaseStart := s.clock.ns }
  rw [h]
  split_ifs <;> exact ⟨_, _, rfl⟩

@[simp] theorem enterPhase_phase (ph : Phase) (s : State) : (enterPhase ph s).power.phase = ph := by
  obtain ⟨a, r, h⟩ := enterPhase_power ph s
  rw [h]

theorem startFault_power (code : Nat) (s : State) :
    (startFault code s).power = { s.power with fault := BitVec.ofNat 16 code } := raise_power ..

theorem enterFailed_power (s : State) : ∃ a r, (enterFailed s).power = { s.power with
    phase := .failed, phaseStart := s.clock.ns, restarting := false, braking := false, speedChange := .none, alertLow := a, readyTime := r } := by
  obtain ⟨a, r, h⟩ := enterPhase_power .failed { s with power.restarting := false, power.braking := false, power.speedChange := .none }
  refine ⟨a, r, Eq.trans ?_ h⟩
  unfold enterFailed
  dsimp only
  split_ifs <;> rfl

theorem failStart_power (code : Nat) (s : State) : ∃ a r, (failStart code s).power = { s.power with
    phase := .failed, phaseStart := s.clock.ns, restarting := false, braking := false, speedChange := .none, alertLow := a, readyTime := r
    fault := BitVec.ofNat 16 code, failCodes := s.power.failCodes ++ [BitVec.ofNat 16 code] } := by
  obtain ⟨a, r, h⟩ := enterFailed_power { startFault code s with power.failCodes := s.power.failCodes ++ [BitVec.ofNat 16 code] }
  have hclock : (startFault code s).clock = s.clock := raise_clock ..
  refine ⟨a, r, h.trans ?_⟩
  dsimp only
  rw [startFault_power, hclock]

theorem failStart_phase (code : Nat) (s : State) : (failStart code s).power.phase = .failed := by
  obtain ⟨a, r, h⟩ := failStart_power code s
  rw [h]

theorem failStart_fault (code : Nat) (s : State) : (failStart code s).power.fault = BitVec.ofNat 16 code := by
  obtain ⟨a, r, h⟩ := failStart_power code s
  rw [h]

/-! ## Power-on reset (spec 02, R60, R63) -/

theorem porReset_heldInReset (s : State) : HeldInReset s (porReset s) := by
  unfold porReset
  dsimp only
  split
  · rw [HeldInReset, raise_power, raise_chans, raise_links, raise_cmds, raise_cache, raise_tick, raise_fw, raise_mgmt, raise_log]
    exact ⟨rfl, rfl, rfl, rfl, rfl, rfl, rfl, rfl, rfl, rfl, rfl, rfl⟩
  · exact ⟨rfl, rfl, rfl, rfl, rfl, rfl, rfl, rfl, rfl, rfl, rfl, rfl⟩

theorem porReset_pins (s : State) : (porReset s).power.porst = s.power.porst ∧ (porReset s).power.railsLow = s.power.railsLow := by
  unfold porReset
  dsimp only
  split
  · rw [raise_power]
    exact ⟨rfl, rfl⟩
  · exact ⟨rfl, rfl⟩

/-- Settles O10: both are `porReset`, PORST_N low once more after it. -/
theorem porstAndUndervoltageHoldTheDeviceInReset : Obligations.PorstAndUndervoltageHoldTheDeviceInReset := by
  unfold Obligations.PorstAndUndervoltageHoldTheDeviceInReset
  refine ⟨fun s => ⟨_, rfl, porReset_heldInReset { s with power.porst := false }, rfl, ?_⟩, fun s r hmon hgood => ?_, fun s r h => ?_⟩
  · obtain ⟨-, hrails⟩ := porReset_pins { s with power.porst := false }
    exact hrails
  · obtain ⟨hporst, hrails⟩ := porReset_pins { s with power.railsLow := s.power.railsLow ++ [r] }
    exact ⟨_, exec_railUndervoltage_of_monitored hmon hgood, porReset_heldInReset _, hporst, hrails⟩
  · exact congrArg Host.Outcome.next (if_pos (by rcases h with h | h <;> simp only [h, Bool.not_false, Bool.true_or, Bool.or_true]))

/-- Settles O12: each pin writes its own fields. -/
theorem holdSenseAndPwrdisPinsRunTheirTimers : Obligations.HoldSenseAndPwrdisPinsRunTheirTimers := by
  unfold Obligations.HoldSenseAndPwrdisPinsRunTheirTimers
  refine fun s => ⟨rfl, fun hrun => ?_, fun hrun hhold hvault => ?_, rfl, rfl⟩
  · show execHoldSenseRise s = _
    rw [execHoldSenseRise, hrun]
    rfl
  · show execHoldSenseRise s = _
    rw [execHoldSenseRise, hrun, hhold, hvault]
    rfl

end Sys2Proof.Machine
end

section
/-! SUPPORT. Power good (spec 02, R62, R66; spec 03, R82): which image is run, and what the rest of the way into BOOT leaves alone. -/

set_option Elab.async false

namespace Sys2Proof.Machine

/-- A field of the power domain other than ALERT_N, across an operation that has no power in its frame. -/
theorem Keeps.powerField {m : Nat} {s t : State} (h : Keeps m s t) (hm : m.testBit Part.power.bit = false) {α : Type} (f : Power → α)
    (hf : ∀ p, f { p with alertLow := false } = f p := by intro p; rfl) : f t.power = f s.power := by
  have hpower : SamePart .power s t := h.samePart hm
  rw [← hf t.power, ← hf s.power, hpower]

/-- What start-up leaves of the power domain, the power cycles and the slot record's numbers. -/
def SameStart (s t : State) : Prop :=
  t.power.running = s.power.running ∧ t.power.straps = s.power.straps ∧ t.power.pwrdis = s.power.pwrdis ∧
    t.clock.cycles = s.clock.cycles

theorem SameStart.trans {s t u : State} (h : SameStart s t) (h' : SameStart t u) : SameStart s u := by
  obtain ⟨hrun, hstraps, hpwrdis, hcycles⟩ := h
  obtain ⟨hrun', hstraps', hpwrdis', hcycles'⟩ := h'
  exact ⟨hrun'.trans hrun, hstraps'.trans hstraps, hpwrdis'.trans hpwrdis, hcycles'.trans hcycles⟩

theorem Keeps.sameStart {m : Nat} {s t : State} (h : Keeps m s t) (hpower : m.testBit Part.power.bit = false)
    (hclock : m.testBit Part.clock.bit = false) : SameStart s t := by
  have hc : SamePart .clock s t := h.samePart hclock
  exact ⟨h.powerField hpower Power.running, h.powerField hpower Power.straps, h.powerField hpower Power.pwrdis, congrArg Clock.cycles hc⟩

theorem enterPhase_sameStart (ph : Phase) (s : State) : SameStart s (enterPhase ph s) := by
  obtain ⟨a, r, hpower⟩ := enterPhase_power ph s
  have hclock : SamePart .clock s (enterPhase ph s) := (enterPhase_keeps (.refl s) (Sub.refl _)).samePart rfl
  exact ⟨by rw [hpower], by rw [hpower], by rw [hpower], congrArg Clock.cycles hclock⟩

theorem enterPhase_fw (ph : Phase) (s : State) : (enterPhase ph s).fw = s.fw :=
  (enterPhase_keeps (.refl s) (Sub.refl _)).samePart (p := .fw) rfl

theorem relayout_keepsAll (old : Nat) (s : State) : SameStart s (relayout old s) ∧ (relayout old s).fw = s.fw := by
  have h := relayout_keeps (old := old) (.refl s) (Sub.refl _)
  exact ⟨h.sameStart rfl rfl, h.samePart (p := .fw) rfl⟩

theorem updateSystem_keepsAll (s : State) : SameStart s (updateSystem s) ∧ (updateSystem s).fw = s.fw := by
  have h := updateSystem_keeps (.refl s) (Sub.refl _)
  exact ⟨h.sameStart rfl rfl, h.samePart (p := .fw) rfl⟩

theorem startFault_sameStart (code : Nat) (s : State) : SameStart s (startFault code s) := by
  have hclock : SamePart .clock s (startFault code s) := (startFault_keeps (.refl s) (Sub.refl _)).samePart rfl
  exact ⟨by rw [startFault_power], by rw [startFault_power], by rw [startFault_power], congrArg Clock.cycles hclock⟩

/-! ## The image that is run -/

theorem loadImage_of_active {b : BootCheck} {s : State} (h : slotPasses b s.fw.active = true) : loadImage b s = enterPhase .boot s :=
  if_pos h

theorem loadImage_of_other {b : BootCheck} {s : State} (h : slotPasses b s.fw.active = false)
    (hother : slotPasses b (1 - s.fw.active) = true) :
    loadImage b s = enterPhase .boot (relayout s.fw.slots[s.fw.active].dictVersion
      (updateSystem (raise (event 0x0012 2 srcController s.fw.active.val) { s with fw.active := 1 - s.fw.active }))) :=
  (if_neg (ne_true_of_eq_false h)).trans (if_pos hother)

theorem loadImage_of_neither {b : BootCheck} {s : State} (h : slotPasses b s.fw.active = false)
    (hother : slotPasses b (1 - s.fw.active) = false) :
    loadImage b s = enterPhase .recovery (startFault 0x0201 { s with power.bootEnded := true }) :=
  (if_neg (ne_true_of_eq_false h)).trans (if_neg (ne_true_of_eq_false hother))

/-- The three ends of the boot ROM's choice, given the slot that is to be run. -/
def BootsFrom (b : BootCheck) (a : Fin 2) (t : State) : Prop :=
  (slotPasses b a = true → t.power.phase = .boot ∧ t.fw.active = a) ∧
    (slotPasses b a = false → slotPasses b (1 - a) = true → t.power.phase = .boot ∧ t.fw.active = 1 - a) ∧
    (slotPasses b a = false → slotPasses b (1 - a) = false → t.power.phase = .recovery ∧ t.power.fault = 0x0201)

theorem loadImage_bootsFrom (b : BootCheck) (s : State) : BootsFrom b s.fw.active (loadImage b s) := by
  refine ⟨fun h => ?_, fun h hother => ?_, fun h hother => ?_⟩
  · rw [loadImage_of_active h]
    exact ⟨enterPhase_phase .., congrArg Fw.active (enterPhase_fw ..)⟩
  · rw [loadImage_of_other h hother, enterPhase_fw, (relayout_keepsAll ..).2, (updateSystem_keepsAll _).2, raise_fw]
    exact ⟨enterPhase_phase .., rfl⟩
  · rw [loadImage_of_neither h hother]
    obtain ⟨a, r, hpower⟩ := enterPhase_power .recovery (startFault 0x0201 { s with power.bootEnded := true })
    rw [hpower, startFault_power]
    exact ⟨rfl, rfl⟩

theorem loadImage_sameStart (b : BootCheck) (s : State) : SameStart s (loadImage b s) := by
  cases h : slotPasses b s.fw.active
  · cases hother : slotPasses b (1 - s.fw.active)
    · rw [loadImage_of_neither h hother]
      exact SameStart.trans (startFault_sameStart 0x0201 { s with power.bootEnded := true }) (enterPhase_sameStart ..)
    · rw [loadImage_of_other h hother]
      have hraise : SameStart s (raise (event 0x0012 2 srcController s.fw.active.val) { s with fw.active := 1 - s.fw.active }) := by
        simp only [SameStart, raise_power, raise_clock, and_self]
      exact ((hraise.trans (updateSystem_keepsAll _).1).trans (relayout_keepsAll ..).1).trans (enterPhase_sameStart ..)
  · rw [loadImage_of_active h]
    exact enterPhase_sameStart ..

theorem activatePending_active (s : State) : (activatePending s).fw.active = s.fw.next.getD s.fw.active := by
  unfold activatePending
  split
  next hnext => rw [hnext, Option.getD_none]
  next x hnext =>
    rw [raise_fw, (relayout_keepsAll ..).2, (updateSystem_keepsAll _).2, hnext, Option.getD_some]

theorem activatePending_sameStart (s : State) : SameStart s (activatePending s) :=
  (activatePending_keeps (.refl s) (Sub.refl _)).sameStart rfl rfl

/-! ## Start-up -/

theorem bootUp_of_sound {st : Straps} {b : BootCheck} {pw : Bool} {s : State} (hsound : b.memoriesOk = true) (htest : st.testMode = false) :
    bootUp st b pw s = takeSpeed (trainPort 1 (trainPort 0 (loadImage b (activatePending { s with
      power.running := true, power.straps := st, power.pwrdis := pw, power.pwrdisSeenLow := !pw, power.dead := false
      clock.cycles := s.clock.cycles + 1 })))) := by
  unfold bootUp
  simp only [hsound, htest, Bool.not_true, Bool.or_self, Bool.false_eq_true, if_true, if_false]

theorem bootUp_of_unsound {st : Straps} {b : BootCheck} {pw : Bool} {s : State} (h : (!b.memoriesOk || st.testMode) = true) :
    bootUp st b pw s = { s with
      power.running := true, power.straps := st, power.pwrdis := pw, power.pwrdisSeenLow := !pw, power.dead := !b.memoriesOk
      clock.cycles := s.clock.cycles + 1, power.uart := if b.memoriesOk then s.power.uart else s.power.uart ++ [0x0101] } :=
  if_pos h

/-- The links train and the set speed is taken after the image has been chosen. -/
theorem trained_keeps (s : State) : Keeps (partMask [.ports, .flags, .freeCount, .tick]) s (takeSpeed (trainPort 1 (trainPort 0 s))) :=
  takeSpeed_keeps (trainPort_keeps (trainPort_keeps (.refl s)
    (Sub.of (by decide) (Sub.refl _))) (Sub.of (by decide) (Sub.refl _))) (Sub.of (by decide) (Sub.refl _))

theorem bootUp_startsUp (st : Straps) (b : BootCheck) (pw : Bool) (s : State) : StartsUp st b pw s (bootUp st b pw s) := by
  cases h : !b.memoriesOk || st.testMode
  · obtain ⟨hsound, htest⟩ : b.memoriesOk = true ∧ st.testMode = false := by simpa using h
    rw [bootUp_of_sound hsound htest]
    generalize hu : ({ s with
      power.running := true, power.straps := st, power.pwrdis := pw, power.pwrdisSeenLow := !pw, power.dead := false
      clock.cycles := s.clock.cycles + 1 } : State) = u
    have hkeeps := trained_keeps (loadImage b (activatePending u))
    have hsame := ((activatePending_sameStart u).trans (loadImage_sameStart b _)).trans (hkeeps.sameStart rfl rfl)
    obtain ⟨hrun, hstraps, hpwrdis, hcycles⟩ := hsame
    have hboots := loadImage_bootsFrom b (activatePending u)
    rw [activatePending_active] at hboots
    have hfw : SamePart .fw (loadImage b (activatePending u)) _ := hkeeps.samePart rfl
    have hphase := hkeeps.powerField rfl Power.phase
    have hfault := hkeeps.powerField rfl Power.fault
    subst hu
    refine ⟨hrun, hstraps, hpwrdis, hcycles, fun _ _ => ?_⟩
    rw [hfw, hphase, hfault]
    exact hboots
  · rw [bootUp_of_unsound h]
    refine ⟨rfl, rfl, rfl, rfl, fun hsound htest => ?_⟩
    rw [hsound, htest] at h
    exact absurd h (by decide)

/-! ## The commands that start up -/

theorem exec_railRestored_of_low {s : State} {r : Rail} (b : BootCheck) (hlow : s.power.railsLow.contains r = true) :
    exec (.railRestored r b) s = .next (if s.power.railsLow.filter (· ≠ r) = [] ∧ s.power.porst ∧ !s.power.running then
      bootUp s.power.straps b s.power.pwrdis { s with power.railsLow := s.power.railsLow.filter (· ≠ r) }
      else { s with power.railsLow := s.power.railsLow.filter (· ≠ r) }) :=
  congrArg Host.Outcome.next (if_neg (by rw [hlow]; decide))

/-- Settles O11: the three ways to start up end in `bootUp`; the two that come too early only note their pin. -/
theorem powerGoodSamplesTheStrapsAndStartsBoot : Obligations.PowerGoodSamplesTheStrapsAndStartsBoot := by
  unfold Obligations.PowerGoodSamplesTheStrapsAndStartsBoot
  refine ⟨fun s st b pw hrun hrails => ⟨_, ?_, bootUp_startsUp st b pw { s with power.porst := true }⟩, fun s st b pw hrun hrails => ?_,
    fun s r b hrails hporst hrun => ⟨_, ?_, bootUp_startsUp _ b s.power.pwrdis { s with power.railsLow := [] }⟩,
    fun s r b hlow hother => ?_, fun s b hvault hhold hpwrdis => ⟨_, exec_vaultRestart_of_vaulted b hvault hhold hpwrdis, bootUp_startsUp ..⟩⟩
  · show execPowerGood st b pw s = _
    rw [execPowerGood, if_neg (by rw [hrun]; decide), if_neg (not_not_intro hrails)]
  · show execPowerGood st b pw s = _
    rw [execPowerGood, if_neg (by rw [hrun]; decide), if_pos hrails]
  · have hnone : s.power.railsLow.filter (· ≠ r) = [] := by rw [hrails]; simp
    rw [exec_railRestored_of_low b (by rw [hrails]; simp), hnone, if_pos ⟨rfl, hporst, by rw [hrun]; rfl⟩]
  · rw [exec_railRestored_of_low b hlow, if_neg fun h => hother h.1]

end Sys2Proof.Machine
end

section
/-! SUPPORT. The steps of start-up that the manual gives one by one: the buffer initialiser (spec 12, R354 to R356) and the spin-up attempts
(spec 03, R88). -/

set_option Elab.async false

namespace Sys2Proof.Machine

/-! ## The buffer initialiser -/

theorem failStart_bms (code : Nat) (s : State) : (failStart code s).bms = s.bms :=
  (failStart_keeps (.refl s) (Sub.refl _)).samePart (p := .bms) rfl

theorem enterPhase_bms (ph : Phase) (s : State) : (enterPhase ph s).bms = s.bms :=
  (enterPhase_keeps (.refl s) (Sub.refl _)).samePart (p := .bms) rfl

/-- The first of six steps that fails is the one found. -/
theorem find?_first {p : Fin 6 → Bool} {k : Fin 6} (hk : p k = true) (hbefore : ∀ j : Fin 6, j.val < k.val → p j = false) :
    ([0, 1, 2, 3, 4, 5] : List (Fin 6)).find? p = some k := by
  revert p k
  decide

theorem exec_bufferSelftest_of_stage {s : State} (r : SelftestReading) (hlive : s.live = true) (hstage : s.bms.stage = .selfTest) :
    exec (.bufferSelftest r) s = .next (match ([0, 1, 2, 3, 4, 5] : List (Fin 6)).find? (selfTestFails r) with
      | none => { s with bms.stage := .training }
      | some k => failStart 0x0301 { s with bms.stage := .failed, bms.fault := BitVec.ofNat 8 (0x10 + k.val + 1) }) :=
  congrArg Host.Outcome.next (if_neg (by rw [hlive, hstage]; decide))

/-- Settles O14: each step of the initialiser leads to the next, or to `failStart`. -/
theorem bufferInitialiserRunsItsSteps : Obligations.BufferInitialiserRunsItsSteps := by
  unfold Obligations.BufferInitialiserRunsItsSteps
  refine fun s hlive => ⟨fun r hstage hpass => ?passes, fun r k hstage hfails hbefore => ?fails, fun hstage => ?trained,
    fun c hstage => ?untrained, fun hstage hphase => ?filled⟩
  case passes =>
    have hnone : ([0, 1, 2, 3, 4, 5] : List (Fin 6)).find? (selfTestFails r) = none :=
      List.find?_eq_none.mpr fun k _ => by rw [hpass k]; decide
    rw [exec_bufferSelftest_of_stage r hlive hstage, hnone]
  case fails =>
    refine ⟨_, (exec_bufferSelftest_of_stage r hlive hstage).trans (by rw [find?_first hfails hbefore]), failStart_phase .., failStart_fault .., ?_⟩
    rw [failStart_bms]
    exact ⟨rfl, congrArg (BitVec.ofNat 8) (by omega)⟩
  case trained => exact congrArg Host.Outcome.next (if_neg (by rw [hlive, hstage]; decide))
  case untrained =>
    refine ⟨_, congrArg Host.Outcome.next (if_neg (by rw [hlive, hstage]; decide)), failStart_phase .., failStart_fault .., ?_⟩
    rw [failStart_bms]
    exact ⟨rfl, rfl⟩
  case filled =>
    refine ⟨_, congrArg Host.Outcome.next ((if_neg (by rw [hlive, hstage]; decide)).trans (if_pos hphase)), ?_, enterPhase_phase .., ?_⟩
    all_goals rw [enterPhase_bms]
    rfl

/-! ## Frames on the drive links (spec 02, R54, R55) -/

theorem State.modLink_link_ne {s : State} {k j : LinkId} {f : Link → Link} (h : j ≠ k) : (s.modLink k f).link j = s.link j := by
  rw [State.modLink_link, if_neg h.symm]

theorem sendFrame_of_running {s : State} (k : LinkId) (f : DownFrame) (hrun : s.power.running = true) :
    sendFrame k f s = s.modLink k (fun l => l.send f) :=
  if_neg (by rw [hrun]; decide)

theorem sendFrame_sends {s : State} (k : LinkId) (f : DownFrame) (hrun : s.power.running = true) : Sends s (sendFrame k f s) k f := by
  unfold Sends
  rw [sendFrame_of_running k f hrun, State.modLink_link_self]
  exact ⟨rfl, rfl⟩

theorem Sends.congr {s s' t t' : State} {k : LinkId} {f : DownFrame} (h : Sends s t k f) (hs : s'.links = s.links) (ht : t'.links = t.links) :
    Sends s' t' k f := by
  unfold Sends State.link at *
  rw [hs, ht]
  exact h

theorem sendFrame_power (k : LinkId) (f : DownFrame) (s : State) : (sendFrame k f s).power = s.power := by
  unfold sendFrame sendFrames
  split <;> rfl

end Sys2Proof.Machine
end

section
/-! SUPPORT. The spin-up attempts (spec 03, R88), what a frame of a drive link does when it is valid and when it is not (spec 02, R56, R57),
and the judgement of the hold-up check (spec 02, R77). -/

set_option Elab.async false

namespace Sys2Proof.Machine

/-! ## The spin-up attempts -/

theorem running_of_live {s : State} (hlive : s.live = true) : s.power.running = true := by
  simp only [State.live, Bool.and_eq_true] at hlive
  exact hlive.1.1.1

theorem enterPhase_links (ph : Phase) (s : State) : (enterPhase ph s).links = s.links :=
  (enterPhase_keeps (.refl s) (Sub.refl _)).samePart (p := .links) rfl

/-- An operation that changes neither part of the dictionary leaves the whole of it. -/
theorem Keeps.dict {m : Nat} {s t : State} (h : Keeps m s t) (hvalues : m.testBit Part.values.bit = false)
    (hrest : m.testBit Part.dict.bit = false) : t.dict = s.dict := by
  have hv : t.dict.values = s.dict.values := h.samePart hvalues
  have hr : { t.dict with values := [] } = { s.dict with values := [] } := h.samePart hrest
  exact (congrArg (fun d : Dict => { d with values := t.dict.values }) hr).trans (congrArg (fun v => { s.dict with values := v }) hv)

theorem Keeps.crx4 {m : Nat} {s t : State} (h : Keeps m s t) (hstraps : m.testBit Part.straps.bit = false) :
    t.power.crx4 = s.power.crx4 :=
  congrArg Prod.snd (h.samePart (p := .straps) hstraps)

/-- What the dictionary answers depends on the dictionary and on one strap only. -/
def SameDict (s t : State) : Prop := t.dict = s.dict ∧ t.power.crx4 = s.power.crx4

theorem SameDict.trans {s t u : State} (h : SameDict s t) (h' : SameDict t u) : SameDict s u :=
  ⟨h'.1.trans h.1, h'.2.trans h.2⟩

theorem Keeps.sameDict {m : Nat} {s t : State} (h : Keeps m s t) (hvalues : m.testBit Part.values.bit = false)
    (hrest : m.testBit Part.dict.bit = false) (hstraps : m.testBit Part.straps.bit = false) : SameDict s t :=
  ⟨h.dict hvalues hrest, h.crx4 hstraps⟩

theorem SameDict.valueOf {s t : State} (h : SameDict s t) (index sub : Nat) : valueOf t index sub = valueOf s index sub := by
  unfold Machine.valueOf
  rw [h.1, h.2]

theorem SameDict.cfg {s t : State} (h : SameDict s t) (index sub : Nat) : cfg t index sub = cfg s index sub :=
  congrArg leNat (h.valueOf index sub)

theorem SameDict.servoCfg {s t : State} (h : SameDict s t) (index sub : Nat) : servoCfg t index sub = servoCfg s index sub := by
  unfold Machine.servoCfg servoVal stagedOf
  rw [h.valueOf, h.1]

theorem SameDict.spindleLink {s t : State} (h : SameDict s t) : spindleLink t = spindleLink s := by
  unfold Machine.spindleLink
  rw [h.servoCfg]

theorem SameDict.setRpm {s t : State} (h : SameDict s t) : setRpm t = setRpm s := h.servoCfg ..

theorem failStart_links (code : Nat) (s : State) : (failStart code s).links = s.links :=
  (failStart_keeps (.refl s) (Sub.refl _)).samePart (p := .links) rfl

theorem sendSpin_power (c : Nat) (s : State) : (sendSpin c s).power = s.power := sendFrame_power ..

theorem startRamp_power (s : State) : (startRamp s).power = s.power := by
  unfold startRamp takeSpeed
  dsimp only
  split <;> rfl

theorem startRamp_links (s : State) : (startRamp s).links = s.links :=
  (startRamp_keeps (.refl s) (Sub.refl _)).samePart (p := .links) rfl

theorem sendFrame_tick (k : LinkId) (f : DownFrame) (s : State) : (sendFrame k f s).tick = s.tick := by
  unfold sendFrame sendFrames
  split <;> rfl

theorem State.modLink_up (s : State) (k : LinkId) (f : Link → Link) (hf : ∀ l, (f l).up = l.up) (j : LinkId) :
    ((s.modLink k f).link j).up = (s.link j).up := by
  rw [State.modLink_link]
  split
  next h => rw [hf, h]
  next => rfl

theorem Link.send_up (l : Link) (f : DownFrame) : (l.send f).up = l.up := rfl

theorem sendFrame_up (k j : LinkId) (f : DownFrame) (s : State) : ((sendFrame k f s).link j).up = (s.link j).up := by
  unfold sendFrame sendFrames
  split
  · rfl
  · exact State.modLink_up s k _ (fun l => Link.send_up l f) j

/-- A failed attempt that is not the last one brakes the spindle and counts. -/
theorem failSpinUp_of_first {combo : Bool} {s : State} (h : s.power.attempts = 0) :
    failSpinUp combo s = { sendSpin 2 { s with power.attempts := s.power.attempts + 1, tick.ramp := false } with power.braking := true } :=
  if_neg (by rw [sendSpin_power]; simp [h])

theorem failSpinUp_of_second {combo : Bool} {s : State} (h : 1 ≤ s.power.attempts) :
    failSpinUp combo s = failStart (if combo then 0x0502 else 0x0501)
      { sendSpin 2 { s with power.attempts := s.power.attempts + 1, tick.ramp := false } with power.braking := false } :=
  if_pos (by rw [sendSpin_power]; exact Nat.succ_le_succ h)

/-- The state in which the first spin-up frame is sent: SPIN_UP entered, no speed change any more. -/
def spinUpEntered (s : State) : State := enterPhase .spinUp { s with power.speedChange := .none }

theorem spinUpEntered_sameDict (s : State) : SameDict s (spinUpEntered s) :=
  (enterPhase_keeps (.refl _) (Sub.refl _)).sameDict rfl rfl rfl

theorem spinUpEntered_running (s : State) : (spinUpEntered s).power.running = s.power.running := by
  obtain ⟨a, r, h⟩ := enterPhase_power .spinUp { s with power.speedChange := .none }
  rw [spinUpEntered, h]

theorem spinUpEntered_attempts (s : State) : (spinUpEntered s).power.attempts = s.power.attempts := by
  obtain ⟨a, r, h⟩ := enterPhase_power .spinUp { s with power.speedChange := .none }
  rw [spinUpEntered, h]

theorem spinUp_power (s : State) : (spinUp s).power = s.power := (startRamp_power _).trans (sendSpin_power ..)

theorem spinUp_link_up (s : State) (k : LinkId) : ((spinUp s).link k).up = (s.link k).up := by
  unfold State.link spinUp
  rw [startRamp_links]
  exact sendFrame_up ..

theorem exec_spinUpInstant_of_ready {s : State} (hlive : s.live = true) (hphase : s.power.phase = .spinWait) (hready : spinUpReady s = true) :
    exec .spinUpInstant s = .next (if (s.link (spindleLink s)).up then spinUp (spinUpEntered s) else failSpinUp true (spinUp (spinUpEntered s))) := by
  show execSpinUpInstant s = _
  rw [execSpinUpInstant, if_neg (by rw [hlive, hphase, hready]; decide)]
  have hdict : SameDict s (spinUp (spinUpEntered s)) :=
    (spinUpEntered_sameDict s).trans ((spinUp_keeps (.refl _) (Sub.refl _)).sameDict rfl rfl rfl)
  have hup : ∀ k, ((spinUp (spinUpEntered s)).link k).up = (s.link k).up := fun k =>
    (spinUp_link_up ..).trans (congrArg (fun l : Vector Link 2 => (l[k]).up) (enterPhase_links ..))
  rw [← hup, ← hdict.spindleLink]
  rfl

theorem exec_spinupTimeout_of_ramp {s : State} (hlive : s.live = true) (hramp : s.tick.ramp = true) (hbraking : s.power.braking = false) :
    exec .spinupTimeout s = .next (failSpinUp false s) :=
  congrArg Host.Outcome.next (if_pos (by rw [hlive, hramp, hbraking]; decide))

/-- Settles O16: the first failure brakes, the second ends start-up. -/
theorem spinUpAttemptsAndTheirFailures : Obligations.SpinUpAttemptsAndTheirFailures := by
  unfold Obligations.SpinUpAttemptsAndTheirFailures
  refine ⟨fun s hlive hphase hready hup => ?spins, fun s hlive hphase hready hup hfirst => ?down, fun s hlive hramp hbrk hfirst => ?first,
    fun s hlive hramp hbrk hsecond => ?second⟩
  case spins =>
    refine ⟨_, exec_spinUpInstant_of_ready hlive hphase hready, ?_⟩
    rw [if_pos hup]
    refine ⟨?_, rfl, ?_⟩
    · rw [spinUp_power]
      exact enterPhase_phase ..
    · have h := sendFrame_sends (spindleLink (spinUpEntered s)) (.spin 1 (setRpm (spinUpEntered s)))
        ((spinUpEntered_running s).trans (running_of_live hlive))
      rw [(spinUpEntered_sameDict s).spindleLink, (spinUpEntered_sameDict s).setRpm] at h
      refine h.congr (enterPhase_links _ { s with power.speedChange := .none }).symm ?_
      rw [spinUp, startRamp_links, sendSpin]
      rw [(spinUpEntered_sameDict s).spindleLink, (spinUpEntered_sameDict s).setRpm]
  case down =>
    have hattempts : (spinUp (spinUpEntered s)).power.attempts = 0 := by rw [spinUp_power, spinUpEntered_attempts, hfirst]
    refine ⟨_, exec_spinUpInstant_of_ready hlive hphase hready, ?_⟩
    rw [if_neg (by rw [hup]; decide), failSpinUp_of_first hattempts]
    refine ⟨?_, rfl⟩
    show (sendSpin _ _).power.attempts = 1
    rw [sendSpin_power]
    exact congrArg (· + 1) hattempts
  case first =>
    refine ⟨_, exec_spinupTimeout_of_ramp hlive hramp hbrk, ?_⟩
    rw [failSpinUp_of_first hfirst]
    refine ⟨?_, rfl, ?_, ?_⟩
    · show (sendSpin _ _).power.attempts = 1
      rw [sendSpin_power]
      exact congrArg (· + 1) hfirst
    · exact congrArg Tick.ramp (sendFrame_tick ..)
    · exact (sendFrame_sends (s := { s with power.attempts := s.power.attempts + 1, tick.ramp := false }) (spindleLink s)
        (.spin 2 (setRpm s)) (running_of_live hlive)).congr rfl rfl
  case second =>
    refine ⟨_, exec_spinupTimeout_of_ramp hlive hramp hbrk, ?_⟩
    rw [failSpinUp_of_second hsecond]
    exact ⟨failStart_phase .., failStart_fault ..⟩

end Sys2Proof.Machine
end

section
/-! SUPPORT. What a frame of a drive link does to its link when it is valid and when it is not (spec 02, R56, R57), and the judgement of the
hold-up check (spec 02, R77). -/

set_option Elab.async false

namespace Sys2Proof.Machine

/-! ## Frames of the drive links -/

theorem frameCrcOk_of_valid {s : State} {k : LinkId} {type : Nat} {f : UpFrame} (h : frameValid s k type f = true) : frameCrcOk type f = true :=
  (Bool.and_eq_true_iff.mp h).1

theorem noteFrame_of_valid {s : State} {k : LinkId} {type : Nat} {f : UpFrame} (h : frameValid s k type f = true) :
    noteFrame k type f (atOffset f.atNs s) = heard k f s := by
  have hcrc := frameCrcOk_of_valid h
  have h' : frameValid (atOffset f.atNs s) k type f = true := h
  unfold noteFrame heard
  rw [h', hcrc]
  exact congrArg (State.modLink _ k) (funext fun l => by rw [Bool.or_true, Bool.not_true, Bool.and_false, Bool.and_false]; rfl)

theorem noteFrame_of_invalid {s : State} {k : LinkId} {type : Nat} {f : UpFrame} (h : frameValid s k type f = false) :
    noteFrame k type f (atOffset f.atNs s) = (atOffset f.atNs s).modLink k (fun l => { l with
      badFrames := l.badFrames + 1, rxSeq := if frameCrcOk type f then some (f.seq + 1) else l.rxSeq }) := by
  have h' : frameValid (atOffset f.atNs s) k type f = false := h
  unfold noteFrame
  rw [h']
  exact congrArg (State.modLink _ k) (funext fun l => by rw [Bool.or_false, Bool.not_false, Bool.and_true, Bool.and_true]; rfl)

theorem onFrame_of_invalid {s : State} {k : LinkId} {type : Nat} {f : UpFrame} (g : State → State) (hrun : s.power.running = true)
    (h : frameValid s k type f = false) :
    onFrame k type f g s = (atOffset f.atNs s).modLink k (fun l => { l with
      badFrames := l.badFrames + 1, rxSeq := if frameCrcOk type f then some (f.seq + 1) else l.rxSeq }) := by
  have h' : frameValid s k type f = false := h
  rw [onFrame, if_neg (by rw [hrun]; decide), h', noteFrame_of_invalid h]
  rfl

theorem servoLive_of_live {s : State} (hlive : s.live = true) : s.servoLive = true := by
  simp only [State.live, State.servoLive, Bool.and_eq_true, decide_eq_true_eq] at *
  simp [hlive]

theorem heard_live (k : LinkId) (f : UpFrame) (s : State) : (heard k f s).live = s.live := rfl

theorem onFrame_of_valid {s : State} {k : LinkId} {type : Nat} {f : UpFrame} (g : State → State) (hlive : s.live = true)
    (h : frameValid s k type f = true) : onFrame k type f g s = g (heard k f s) := by
  rw [onFrame, if_neg (by rw [running_of_live hlive]; decide), h, noteFrame_of_valid h]
  exact if_pos (by rw [servoLive_of_live ((heard_live k f s).trans hlive)]; rfl)

/-- Settles O20: such a frame only goes through `noteFrame`. -/
theorem linkFramesThatAreNotValidOnlyCount : Obligations.LinkFramesThatAreNotValidOnlyCount := by
  unfold Obligations.LinkFramesThatAreNotValidOnlyCount
  intro k f s c type hc hrun hbad
  have hframe := fun g => congrArg (Host.Outcome.next (φ := Fault) (ρ := Refusal)) (onFrame_of_invalid g hrun hbad)
  simp only [List.mem_cons, List.not_mem_nil, or_false, Prod.mk.injEq] at hc
  obtain ⟨rfl, rfl⟩ | ⟨rfl, rfl⟩ | ⟨rfl, rfl⟩ | ⟨rfl, rfl⟩ | ⟨rfl, rfl⟩ | ⟨rfl, rfl⟩ := hc
  all_goals exact hframe _

/-! ## The hold-up check -/

theorem setFlag_power (f : Flag) (s : State) : ∃ a, (setFlag f s).power = { s.power with alertLow := a } := by
  obtain ⟨v, w, a, h⟩ := setFlag_eq f s
  exact ⟨a, by rw [h]⟩

theorem noteWarning_power (s : State) : (noteWarning s).power = s.power := by
  unfold noteWarning
  split <;> rfl

theorem driveFault_power (k : FaultKind) (extra : Nat) (s : State) : (driveFault k extra s).power = s.power := raise_power ..

theorem holdupFail_power (s : State) : ∃ a c, (holdupFail s).power =
    { s.power with holdupPassed := false, holdupWarn := true, holdTesting := false, fault := c, alertLow := a } := by
  obtain ⟨a, h⟩ := setFlag_power .holdupResult (startFault 0x0601
    (driveFault .holdupFail 0 { s with power.holdupPassed := false, power.holdupWarn := true, power.holdTesting := false }))
  unfold holdupFail
  dsimp only
  rw [noteWarning_power]
  split
  · refine ⟨a, 0x0601, h.trans ?_⟩
    rw [startFault_power, driveFault_power]
    rfl
  · refine ⟨s.power.alertLow, 0x0601, ?_⟩
    rw [startFault_power, driveFault_power]
    rfl

/-- What the judgement leaves in the power domain: its figures, its verdict, the end of the test. -/
theorem holdupJudge_power (vs ve e : Nat) (s : State) : ∃ ever w a c, (holdupJudge vs ve e s).power =
    { s.power with holdupCap := holdupCapOf vs ve e, holdupEnergy := holdupEnergyOf s vs ve e, holdTesting := false,
                   holdupPassed := holdupSuffices s vs ve e, holdupEver := ever, holdupWarn := w, alertLow := a, fault := c } := by
  have hsame : holdupSuffices { s with power.holdupCap := holdupCapOf vs ve e, power.holdupEnergy := holdupEnergyOf s vs ve e } vs ve e =
    holdupSuffices s vs ve e := rfl
  unfold holdupJudge
  dsimp only
  rw [hsame]
  cases hsuff : holdupSuffices s vs ve e with
  | true =>
    obtain ⟨a, h⟩ := setFlag_power .holdupResult
      (holdupPass { s with power.holdupCap := holdupCapOf vs ve e, power.holdupEnergy := holdupEnergyOf s vs ve e })
    rw [if_pos rfl]
    split
    · exact ⟨_, _, _, _, rfl⟩
    · exact ⟨_, _, _, _, h⟩
  | false =>
    obtain ⟨a, c, h⟩ := holdupFail_power { s with power.holdupCap := holdupCapOf vs ve e, power.holdupEnergy := holdupEnergyOf s vs ve e }
    exact ⟨_, _, _, _, h⟩

theorem sq_not_le_of_lt {ve vs : Nat} (h : ve < vs) : ¬ vs * vs ≤ ve * ve := by
  simpa [Nat.mul_self_le_mul_self_iff] using h

/-- Settles O22: the verdict is `holdupSuffices`. -/
theorem holdupCheckIsJudgedByItsEnergy : Obligations.HoldupCheckIsJudgedByItsEnergy := by
  unfold Obligations.HoldupCheckIsJudgedByItsEnergy
  intro vs ve e s
  obtain ⟨ever, w, a, c, h⟩ := holdupJudge_power vs ve e s
  rw [h]
  refine ⟨rfl, rfl, rfl, ?verdict, fun hlt hmin => ?energy⟩
  case verdict => simp [holdupSuffices, and_assoc]
  case energy =>
    have hno : ¬ (vs * vs ≤ ve * ve ∨ vs ≤ cfg s 0x7010 1) := not_or.mpr ⟨sq_not_le_of_lt hlt, not_le.mpr hmin⟩
    rw [holdupEnergyOf]
    exact if_neg (by simpa using hno)

end Sys2Proof.Machine
end

section
/-! SUPPORT. Five statements about admin commands say that the completions a port holds grow by the command's own entry only. They fail in one
state: an Abort of an admin command that cannot be aborted waits until the command commits (spec 11, R338), so that the commit brings two
entries, the command's and the Abort's. -/

set_option Elab.async false

namespace Sys2Proof.Machine

/-! ## An Abort that waits for the command it names -/

/-- A controller that serves, with an Abort (identifier 9) that waits for admin command 7. -/
def abortWaits : State :=
  { State.reset with power.running := true, power.phase := .ready }.modPort 0 (fun q => { q with rdy := true, abortAdmin := [(7, 9)] })

/-- The header of the command that the Abort waits for. -/
def awaited : AdminHdr := ⟨0, 7⟩

theorem abortWaits_runs : adminRuns abortWaits awaited := ⟨by decide, by decide⟩

/-- The command's commit posts two entries where a statement expects one. -/
theorem not_single_of_length_two {l : List Completion} (h : l.length = 2) (c : Completion) : l ≠ (abortWaits.port awaited.port).committed ++ [c] := by
  rintro rfl
  exact absurd h (by simp [abortWaits, awaited, State.port, State.modPort, State.reset, Port.reset, upd])

/-- What a command leaves is not its own entry alone where it brings two. -/
theorem not_answers_single {c : Instr} {P : State → Prop} {e : Completion} (hP : ∀ t, P t → (t.port 0).committed = (abortWaits.port 0).committed ++ [e])
    (hlen : ∀ t, exec c abortWaits = .next t → (t.port 0).committed.length = 2) : ¬ Answers c abortWaits P := by
  rintro ⟨t, hexec, ht⟩
  exact not_single_of_length_two (hlen t hexec) e (hP t ht)

/-- Refutes O38: the creation of a queue, as command 7, also ends the Abort. -/
theorem not_queueCommandsCreateAndDelete : ¬ Obligations.QueueCommandsCreateAndDelete := by
  unfold Obligations.QueueCommandsCreateAndDelete
  intro h
  obtain ⟨-, -, -, hcq, -⟩ := h awaited abortWaits abortWaits_runs
  refine not_answers_single (fun t ht => ht.2.2) (fun t ht => ?_) (hcq 1 2 0 true (by decide))
  cases ht
  decide

/-- Refutes O39: the second clause, of a refused command 7. -/
theorem not_identifyLogsFeaturesAbortAndEvents : ¬ Obligations.IdentifyLogsFeaturesAbortAndEvents := by
  unfold Obligations.IdentifyLogsFeaturesAbortAndEvents
  intro h
  obtain ⟨-, hrefused, -⟩ := h awaited abortWaits
  exact not_single_of_length_two (by decide) _ (hrefused .invalidOpcode 0 0 0)

/-- Refutes O40: Set Features of arbitration, as command 7. -/
theorem not_setFeaturesChangesItsFeatureOnly : ¬ Obligations.SetFeaturesChangesItsFeatureOnly := by
  unfold Obligations.SetFeaturesChangesItsFeatureOnly
  intro h
  obtain ⟨hset, -⟩ := h awaited abortWaits 0 abortWaits_runs
  refine not_answers_single (fun t ht => ht.2.2) (fun t ht => ?_) (hset false 0 (.setFeatArbitration awaited false 0) _ _ rfl (.inl (.head _)))
  cases ht
  decide

/-- Refutes O41: the notification mask of every namespace (there is none), as command 7. -/
theorem not_setFeaturesOfANamespaceAndSave : ¬ Obligations.SetFeaturesOfANamespaceAndSave := by
  unfold Obligations.SetFeaturesOfANamespaceAndSave
  intro h
  obtain ⟨hset, -⟩ := h awaited abortWaits 0xFFFFFFFF 0 abortWaits_runs
  obtain ⟨-, -, hmask, -⟩ := hset (by decide)
  refine not_answers_single (fun t ht => ht.1) (fun t ht => ?_) hmask
  cases ht
  decide

/-- Refutes O43: commit action 010b of the active slot, as command 7. -/
theorem not_firmwareAndVendorAdminCommands : ¬ Obligations.FirmwareAndVendorAdminCommands := by
  unfold Obligations.FirmwareAndVendorAdminCommands
  intro h
  obtain ⟨-, -, -, -, hslot, -⟩ := h awaited abortWaits abortWaits_runs
  obtain ⟨-, -, hexisting, -⟩ := hslot 1 0 (by decide)
  refine not_answers_single (fun t ht => ht.2) (fun t ht => ?_) (hexisting (by decide))
  cases ht
  decide

end Sys2Proof.Machine
end

section
/-! SUPPORT. MCTP control messages, NVMe-MI and the management buses (spec 15, R464 to R466): each of their rows is one answer sent over an
open path. -/

set_option Elab.async false

namespace Sys2Proof.Machine

/-! ## Control messages -/

theorem onMctp_of_open {s : State} (h : mctpOpen s = true) (f : State → State) : onMctp f s = f s := if_pos h

@[simp] theorem mctpSend_sent (b : List Byte) (s : State) : (mctpSend b s).mgmt.sent = s.mgmt.sent ++ [b] := rfl

theorem exec_setEndpointId_of_valid {s : State} (hopen : mctpOpen s = true) {e : Byte} (h0 : e ≠ 0) (hff : e ≠ 0xFF) :
    exec (.setEndpointId e) s = .next (mctpSend [0x01, 0x00, 0, e, 0] { s with mgmt.eid := e }) :=
  congrArg Host.Outcome.next ((onMctp_of_open hopen _).trans (if_neg (by simpa using ⟨h0, hff⟩)))

/-- The versions that Get MCTP Version Support knows, by message type. -/
theorem exec_getMctpVersionSupport_of_unknown {s : State} (hopen : mctpOpen s = true) {k : Byte} (h0 : k ≠ 0) (h4 : k ≠ 4) (h7e : k ≠ 0x7E)
    (hff : k ≠ 0xFF) : exec (.getMctpVersionSupport k) s = .next (mctpSend [0x04, 0x80] s) := by
  show execGetMctpVersionSupport k s = _
  simp only [execGetMctpVersionSupport, onMctp_of_open hopen, h0, h4, h7e, hff, decide_false, Bool.or_self, Bool.false_eq_true, if_false]
  rfl

theorem exec_getMctpVersionSupport_sends {s : State} (hopen : mctpOpen s = true) (k : Byte) :
    ∃ b, exec (.getMctpVersionSupport k) s = .next (mctpSend b s) := by
  show ∃ b, execGetMctpVersionSupport k s = _
  rw [execGetMctpVersionSupport, onMctp_of_open hopen]
  repeat' split
  all_goals exact ⟨_, rfl⟩

/-- Settles O52: over an open path each message is answered by one `mctpSend`. -/
theorem mctpControlMessagesAreAnswered : Obligations.MctpControlMessagesAreAnswered := by
  unfold Obligations.MctpControlMessagesAreAnswered
  intro s hopen
  have hsent : ∀ f, onMctp f s = f s := onMctp_of_open hopen
  have hnext : ∀ {f t}, f s = t → (Host.Outcome.next (onMctp f s) : Host.Outcome State Fault Refusal) = .next t :=
    fun h => congrArg _ ((hsent _).trans h)
  refine ⟨fun e h0 hff => exec_setEndpointId_of_valid hopen h0 hff, hnext rfl, hnext rfl, hnext rfl, hnext rfl, hnext rfl, hnext rfl, hnext rfl,
    hnext rfl, fun k => ?version, fun k h0 h4 h7e hff => exec_getMctpVersionSupport_of_unknown hopen h0 h4 h7e hff, hnext rfl, hnext rfl,
    fun k hk => ?selector, fun e h0 hff => ⟨_, exec_setEndpointId_of_valid hopen h0 hff, rfl, rfl⟩, fun x r hx => ?answers,
    fun k ic hbad => hnext (if_pos ?bad), hnext rfl⟩
  case version =>
    obtain ⟨b, h⟩ := exec_getMctpVersionSupport_sends hopen k
    exact ⟨_, h, by simp, rfl⟩
  case selector =>
    show execGetVendorDefinedMsgSupport k s = _
    rw [execGetVendorDefinedMsgSupport, if_neg (by simpa using hk), hsent]
    rfl
  case answers =>
    simp only [List.mem_cons, List.not_mem_nil, or_false, Prod.mk.injEq] at hx
    obtain ⟨rfl, rfl⟩ | ⟨rfl, rfl⟩ | ⟨rfl, rfl⟩ | ⟨rfl, rfl⟩ | ⟨rfl, rfl⟩ := hx <;> exact ⟨_, hnext rfl, rfl⟩
  case bad => simpa [and_assoc] using hbad

/-! ## NVMe-MI and the buses -/

@[simp] theorem miAnswer_sent_length (st : Nat) (m d : List Byte) (s : State) :
    (miAnswer st m d s).mgmt.sent.length = s.mgmt.sent.length + 1 := List.length_append

/-- Whatever data there are, the answer to Read NVMe-MI Data Structure is one message. -/
theorem exec_readNvmeMiDataStructure_answers {s : State} (hopen : mctpOpen s = true) (k x : Byte) (c : Word16) :
    ∃ st m d, exec (.readNvmeMiDataStructure k x c) s = .next (miAnswer st m d s) := by
  show ∃ st m d, execReadNvmeMiDataStructure k x c s = _
  rw [execReadNvmeMiDataStructure, onMctp_of_open hopen]
  cases miPortInfo s x.toNat
  all_goals repeat' split
  all_goals exact ⟨_, _, _, rfl⟩

theorem exec_readNvmeMiDataStructure_of_unknown {s : State} (hopen : mctpOpen s = true) {k : Byte} (hk : 5 ≤ k.toNat) (x : Byte) (c : Word16) :
    exec (.readNvmeMiDataStructure k x c) s = .next (miAnswer 0x04 [] [] s) := by
  have hne : ∀ j : Byte, j.toNat < 5 → k ≠ j := fun j hj h => by subst h; omega
  show execReadNvmeMiDataStructure k x c s = _
  rw [execReadNvmeMiDataStructure, onMctp_of_open hopen, if_neg (hne 0 (by decide)), if_neg (hne 1 (by decide)), if_neg (hne 2 (by decide)),
    if_neg (hne 3 (by decide)), if_neg (hne 4 (by decide))]

theorem tunnelAnswer_sent_length (r : Except Status (Nat × CplData)) (s : State) :
    (tunnelAnswer r s).mgmt.sent.length = s.mgmt.sent.length + 1 := miAnswer_sent_length ..

theorem logPage_mgmt (s : State) (p : PortId) (lid : Nat) : (logPage s p lid).2.mgmt = s.mgmt := by
  unfold logPage
  split <;> rfl

theorem tunnelRun_sent_length (p : PortId) (u : Tunnel) (s : State) : (tunnelRun p u s).mgmt.sent.length = s.mgmt.sent.length + 1 := by
  cases u with
  | getLogPage lid nsid =>
    unfold tunnelRun
    dsimp only
    split
    · exact tunnelAnswer_sent_length ..
    · split
      · exact tunnelAnswer_sent_length ..
      · rw [tunnelAnswer_sent_length, logPage_mgmt]
  | identify | getFeatures | other => exact tunnelAnswer_sent_length ..

theorem exec_miConfigurationSet_sends {s : State} (hopen : mctpOpen s = true) (c : MiConfig) (x : Byte) (v : Word16) :
    Answers (.miConfigurationSet c x v) s (fun t => t.mgmt.sent.length = s.mgmt.sent.length + 1) := by
  refine ⟨_, congrArg Host.Outcome.next (onMctp_of_open hopen _), ?_⟩
  cases c <;> dsimp only <;> repeat' split
  all_goals exact miAnswer_sent_length ..

theorem exec_miConfigurationGet_sends {s : State} (hopen : mctpOpen s = true) (c : MiConfig) (x : Byte) :
    Answers (.miConfigurationGet c x) s (fun t => t.mgmt.sent.length = s.mgmt.sent.length + 1) := by
  refine ⟨_, congrArg Host.Outcome.next (onMctp_of_open hopen _), ?_⟩
  cases c <;> dsimp only <;> repeat' split
  all_goals exact miAnswer_sent_length ..

/-- Settles O53: over an open path each message is answered by one `miAnswer`; the buses change one field. -/
theorem nvmeMiAndTheManagementBuses : Obligations.NvmeMiAndTheManagementBuses := by
  unfold Obligations.NvmeMiAndTheManagementBuses
  intro s hopen
  have hserves : dictServes s = true := (Bool.and_eq_true_iff.mp hopen).1
  have hnext : ∀ {f t}, f s = t → (Host.Outcome.next (onMctp f s) : Host.Outcome State Fault Refusal) = .next t :=
    fun h => congrArg _ ((onMctp_of_open hopen _).trans h)
  refine ⟨hnext rfl, fun k x c hk => exec_readNvmeMiDataStructure_of_unknown hopen hk x c, fun k x c => ?dataStructure,
    fun k x v => ⟨hnext rfl, hnext rfl⟩, fun b => ⟨_, hnext rfl, ?poll⟩, fun a m b => ⟨_, hnext rfl, ?poll'⟩,
    fun v hv => hnext (if_pos ?freq), fun v hlo hhi => hnext ?unit, fun x v => hnext rfl, ⟨_, hnext rfl, rfl⟩,
    fun c x v => ⟨exec_miConfigurationSet_sends hopen c x v, exec_miConfigurationGet_sends hopen c x⟩,
    fun v hv => ⟨_, hnext (if_pos ?freq'), rfl⟩, fun c u => ?tunnel, hnext rfl, hnext rfl, fun c u => ⟨fun h => hnext (if_pos h), fun h => hnext ?unknown⟩,
    fun hbus hlow => congrArg _ (if_pos ?alert), fun hlow => congrArg _ (if_neg ?noAlert), fun x hbus => congrArg _ (if_pos ?entdaa),
    fun st x hbus => ⟨fun h0 hst => congrArg _ ((if_pos ?setdasa).trans (if_pos ?static)), fun hst => congrArg _ ((if_pos ?setdasa').trans (if_neg ?other))⟩⟩
  case dataStructure =>
    obtain ⟨st, m, d, h⟩ := exec_readNvmeMiDataStructure_answers hopen k x c
    exact ⟨_, h, miAnswer_sent_length ..⟩
  case poll | poll' => exact ⟨miAnswer_sent_length .., rfl⟩
  case freq | freq' => simpa using hv
  case unit =>
    dsimp only
    rw [if_neg (by simp), if_pos (by simp [miPcie, hlo, hhi])]
  case tunnel =>
    refine ⟨_, hnext rfl, ?_⟩
    dsimp only
    split
    · exact tunnelRun_sent_length ..
    · exact miAnswer_sent_length ..
  case unknown => exact if_neg (by rw [h]; decide)
  case alert => rw [hserves, hbus, hlow]; rfl
  case noAlert => rw [hlow]; simp
  case entdaa | setdasa | setdasa' => rw [hserves, hbus]; rfl
  case static => simpa using ⟨h0, hst⟩
  case other => simp [hst]

end Sys2Proof.Machine
end

section
/-! SUPPORT. Access to objects of the dictionary by a row of their own (spec 15, R440): a write that is not admitted, and the reads. -/

set_option Elab.async false

namespace Sys2Proof.Machine

/-! ## Writes that are not admitted -/

theorem length_leBytes (k n : Nat) : (leBytes k n).length = k := by
  induction k generalizing n with
  | zero => rfl
  | succ k ih => rw [leBytes, List.length_cons, ih]

theorem leBytes_ne_singleton {k : Nat} (hk : k ≠ 1) (n : Nat) (b : Byte) : leBytes k n ≠ [b] := fun h =>
  hk ((length_leBytes k n).symm.trans (congrArg List.length h))

theorem objectAccess_of_serves {s : State} (hserves : dictServes s = true) (p : Path) (i j : Nat) (v : List Byte) :
    objectAccess p i j v s = match (dictWrite p (.write p) i j v s).1 with
      | none => (dictWrite p (.write p) i j v s).2
      | some c => showAnswer c [] (dictWrite p (.write p) i j v s).2 := if_neg (by rw [hserves]; decide)

theorem objectAccess_of_not_admitted {s : State} (hserves : dictServes s = true) {p : Path} {i j e : Nat} {v : List Byte}
    (h : admitWrite s p i j (decide (v = [2])) = .error e) : objectAccess p i j v s = showAnswer e [] s := by
  rw [objectAccess_of_serves hserves, dictWrite, h]

theorem atOffset_zero (s : State) : atOffset 0 s = s := by
  unfold atOffset
  rw [Nat.max_zero]

/-- A row that writes an object: it is `objectAccess` with a value whose discard test is the row's. -/
def WritesObject (s : State) (p : Path) (r : Instr × Nat × Nat × Bool) : Prop :=
  ∃ v, decide (v = [2]) = r.2.2.2 ∧ exec r.1 s = .next (objectAccess p r.2.1 r.2.2.1 v s)

/-- Settles O56: every row goes through `objectAccess` with its value. -/
theorem objectWritesAreRefusedWithTheirAbortCode : Obligations.ObjectWritesAreRefusedWithTheirAbortCode := by
  unfold Obligations.ObjectWritesAreRefusedWithTheirAbortCode
  intro p s b h oi w ox ov x i j e d hserves hx herr
  have h2 : ∀ n, decide (leBytes 2 n = [2]) = false := fun n => decide_eq_false (leBytes_ne_singleton (by decide) n 2)
  have h4 : ∀ n, decide (leBytes 4 n = [2]) = false := fun n => decide_eq_false (leBytes_ne_singleton (by decide) n 2)
  have hcommit : exec (.commitWrite ⟨p, 0⟩) s = .next (objectAccess p 0x1020 1 [1] s) :=
    congrArg Host.Outcome.next ((if_pos hserves).trans (congrArg (objectAccess p 0x1020 1 [1]) (atOffset_zero s)))
  have hrow : WritesObject s p (x, i, j, d) := by
    revert hx
    generalize (x, i, j, d) = r
    revert r
    simp only [List.forall_mem_cons]
    exact ⟨⟨_, rfl, rfl⟩, ⟨_, rfl, rfl⟩, ⟨_, rfl, rfl⟩, ⟨_, rfl, rfl⟩, ⟨_, rfl, rfl⟩, ⟨_, rfl, rfl⟩, ⟨_, rfl, rfl⟩, ⟨_, rfl, rfl⟩,
      ⟨_, rfl, rfl⟩, ⟨_, rfl, rfl⟩, ⟨_, rfl, rfl⟩, ⟨_, rfl, rfl⟩, ⟨[1], rfl, rfl⟩, ⟨[2], rfl, rfl⟩, ⟨[3], rfl, rfl⟩, ⟨[1], rfl, hcommit⟩,
      ⟨[2], rfl, rfl⟩, ⟨[0], rfl, rfl⟩, ⟨[1], rfl, rfl⟩, ⟨[2], rfl, rfl⟩, ⟨[3], rfl, rfl⟩, ⟨_, h2 _, rfl⟩, ⟨_, h2 _, rfl⟩, ⟨_, h2 _, rfl⟩,
      ⟨_, h4 _, rfl⟩, ⟨_, h4 _, rfl⟩, ⟨_, rfl, rfl⟩, fun _ hnil => absurd hnil List.not_mem_nil⟩
  obtain ⟨v, hv, hexec⟩ := hrow
  rw [hexec]
  exact congrArg _ (objectAccess_of_not_admitted hserves (hv ▸ herr))

/-! ## Reads -/

theorem objectRead_of_refused {s : State} (hserves : dictServes s = true) {p : Path} {i j m : Nat} (h : readCode s p i j ≠ 0) :
    objectRead p i j m s = showAnswer (readCode s p i j) [] s := by
  rw [objectRead, if_neg (by rw [hserves]; decide), dictRead, if_pos h]

theorem objectRead_of_allowed {s : State} (hserves : dictServes s = true) {p : Path} {i j m : Nat} (h : readCode s p i j = 0) :
    objectRead p i j m s = showAnswer 0 ((takeValue p i j false m (dropSnapshot p s)).1.take m)
      (takeValue p i j false m (dropSnapshot p s)).2.2 := by
  rw [objectRead, if_neg (by rw [hserves]; decide), dictRead, if_neg (by simp [h]), if_neg (by simp), if_neg (by simp)]

theorem takeValue_dropSnapshot_dict (p : Path) (i j m : Nat) (s : State) :
    (takeValue p i j false m (dropSnapshot p s)).2.2.dict = s.dict :=
  (takeValue_keeps (dropSnapshot_keeps (pm := partMask [.chans, .bms, .mule, .mgmt, .recorder]) (.refl s) (Sub.of rfl (Sub.refl _))) (Sub.of rfl (Sub.refl _))).dict rfl rfl

/-- Settles O57: every row goes through `objectRead`. -/
theorem objectReadsAndTheirAnswers : Obligations.ObjectReadsAndTheirAnswers := by
  unfold Obligations.ObjectReadsAndTheirAnswers
  intro p s x i j m c n hserves hx
  have hexec : exec x s = .next (objectRead p i j m s) := by
    simp only [List.mem_cons, List.not_mem_nil, or_false, Prod.mk.injEq] at hx
    obtain ⟨rfl, rfl, rfl, rfl⟩ | ⟨rfl, rfl, rfl, rfl⟩ | ⟨rfl, rfl, rfl, rfl⟩ | ⟨rfl, rfl, rfl, -⟩ | ⟨rfl, rfl, rfl, rfl⟩ := hx <;> rfl
  refine ⟨fun h => ?_, fun h => ⟨_, hexec, ?_⟩, fun h => by rw [hexec, objectRead_of_refused hserves h]⟩
  · rw [hexec, objectRead_of_allowed hserves h]
  · rw [objectRead_of_allowed hserves h]
    exact ⟨rfl, takeValue_dropSnapshot_dict ..⟩

end Sys2Proof.Machine
end

section
/-! SUPPORT. What an accepted write of an object does (spec 15, R440 to R451): the object's own effect, a stored value, or the staging copy. -/

set_option Elab.async false

namespace Sys2Proof.Machine

/-! ## Association lists and numbers -/

theorem assocGet_assocSet_self {κ α : Type} [DecidableEq κ] (k : κ) (v : α) (l : List (κ × α)) : assocGet k (assocSet k v l) = some v := by
  induction l with
  | nil => simp [assocSet, assocGet]
  | cons x l ih =>
    rw [assocSet]
    split
    · simp [assocGet]
    · next hne =>
      unfold assocGet at ih ⊢
      rw [List.find?_cons_of_neg (by simpa using hne), ih]

theorem leNat_leBytes (k n : Nat) : leNat (leBytes k n) = n % 256 ^ k := by
  induction k generalizing n with
  | zero => simp [leBytes, leNat, Nat.mod_one]
  | succ k ih =>
    rw [leBytes, leNat, ih, BitVec.toNat_ofNat, pow_succ' 256 k, Nat.mod_mul]

theorem leNat_take_leBytes {k n : Nat} (hk : k ≤ 8) (hn : n < 256 ^ k) : leNat ((leBytes k n).take 8) = n := by
  rw [List.take_of_length_le (by rw [length_leBytes]; exact hk), leNat_leBytes, Nat.mod_eq_of_lt hn]

/-! ## Accepted writes -/

theorem dictWrite_of_accepted {s : State} {p : Path} {w : Waiter} {i j : Nat} {v : List Byte} {o : Obj} (h : AcceptedWrite s p i j v o) :
    dictWrite p w i j v s =
      if i = 0x1020 && j = 1 then
        (if v = [2] then (some 0, requestDiscard p s) else requestCommit p w s)
      else if o.staged then (some 0, stageValue p i j v s)
      else match specialWrite p i j v s with
        | some r => (some r.1, r.2)
        | none => (some 0, storeValue p i j o.persistent v s) := by
  obtain ⟨hserves, hadmit, hpart, hvalue⟩ := h
  rw [dictWrite, hadmit]
  show writeWhole p w i j o v s = _
  rw [writeWhole, if_neg (by rw [hpart]; decide), hvalue]
  rfl

theorem dictWrite_of_special {s : State} {p : Path} {w : Waiter} {i j : Nat} {v : List Byte} {o : Obj} {r : Nat × State}
    (h : AcceptedWrite s p i j v o) (hstaged : o.staged = false) (hcommit : ¬(i = 0x1020 ∧ j = 1)) (hspecial : specialWrite p i j v s = some r) :
    dictWrite p w i j v s = (some r.1, r.2) := by
  rw [dictWrite_of_accepted h, if_neg (by simpa using hcommit), if_neg (by rw [hstaged]; decide), hspecial]

theorem dictWrite_of_plain {s : State} {p : Path} {w : Waiter} {i j : Nat} {v : List Byte} {o : Obj}
    (h : AcceptedWrite s p i j v o) (hstaged : o.staged = false) (hcommit : ¬(i = 0x1020 ∧ j = 1)) (hspecial : specialWrite p i j v s = none) :
    dictWrite p w i j v s = (some 0, storeValue p i j o.persistent v s) := by
  rw [dictWrite_of_accepted h, if_neg (by simpa using hcommit), if_neg (by rw [hstaged]; decide), hspecial]

theorem dictWrite_of_staged {s : State} {p : Path} {w : Waiter} {i j : Nat} {v : List Byte} {o : Obj}
    (h : AcceptedWrite s p i j v o) (hstaged : o.staged = true) (hcommit : ¬(i = 0x1020 ∧ j = 1)) :
    dictWrite p w i j v s = (some 0, stageValue p i j v s) := by
  rw [dictWrite_of_accepted h, if_neg (by simpa using hcommit), if_pos hstaged]

theorem objectAccess_of_special {s : State} {p : Path} {i j : Nat} {v : List Byte} {o : Obj} {r : Nat × State}
    (h : AcceptedWrite s p i j v o) (hstaged : o.staged = false) (hcommit : ¬(i = 0x1020 ∧ j = 1)) (hspecial : specialWrite p i j v s = some r) :
    objectAccess p i j v s = showAnswer r.1 [] r.2 := by
  rw [objectAccess_of_serves h.1, dictWrite_of_special h hstaged hcommit hspecial]

theorem objectAccess_of_plain {s : State} {p : Path} {i j : Nat} {v : List Byte} {o : Obj}
    (h : AcceptedWrite s p i j v o) (hstaged : o.staged = false) (hcommit : ¬(i = 0x1020 ∧ j = 1)) (hspecial : specialWrite p i j v s = none) :
    objectAccess p i j v s = showAnswer 0 [] (storeValue p i j o.persistent v s) := by
  rw [objectAccess_of_serves h.1, dictWrite_of_plain h hstaged hcommit hspecial]

theorem objectAccess_of_staged {s : State} {p : Path} {i j : Nat} {v : List Byte} {o : Obj}
    (h : AcceptedWrite s p i j v o) (hstaged : o.staged = true) (hcommit : ¬(i = 0x1020 ∧ j = 1)) :
    objectAccess p i j v s = showAnswer 0 [] (stageValue p i j v s) := by
  rw [objectAccess_of_serves h.1, dictWrite_of_staged h hstaged hcommit]

/-! ## What the effects leave -/

theorem storeValue_value (p : Path) (i j : Nat) (b : Bool) (v : List Byte) (s : State) :
    assocGet ⟨i, j⟩ (storeValue p i j b v s).dict.values = some v := by
  have hset : assocGet ⟨i, j⟩ (setValue s i j v).dict.values = some v := assocGet_assocSet_self ..
  unfold storeValue
  dsimp only
  split
  · have hkeep : (persistValue i j v (pathCode p) (setValue s i j v)).dict = (setValue s i j v).dict :=
      (persistValue_keeps (.refl _) (Sub.refl _)).dict rfl rfl
    rw [hkeep]
    exact hset
  · exact hset

theorem requestMode_requested (m : CacheMode) (s : State) : (requestMode m s).cache.requested = m := by
  cases m <;> unfold requestMode <;> dsimp only <;> repeat' split
  all_goals rfl

theorem applyDirtyLimit_dict (s : State) : (applyDirtyLimit s).dict = s.dict := by
  unfold applyDirtyLimit
  split <;> rfl

/-- What every round of a fold leaves, the fold leaves. -/
theorem foldl_field {α β : Type} (g : State → β) (f : State → α → State) (h : ∀ s x, g (f s x) = g s) (l : List α) (s : State) :
    g (l.foldl f s) = g s := by
  induction l generalizing s with
  | nil => rfl
  | cons x l ih => exact (ih (f s x)).trans (h s x)

theorem restartDecim_mgmt (s : State) : (restartDecim s).mgmt = s.mgmt := 
  foldl_field State.mgmt (fun s n => s.modSdm n (fun x => { x with decim := 0 })) (fun _ _ => rfl) _ s

theorem setEvtMode_fill (b : Bool) (s : State) : (setEvtMode b s).evr.fill = b := by
  unfold setEvtMode
  split
  · assumption
  · rfl

theorem freeze_frozen (s : State) : (freeze s).evr.frozen = true := by
  unfold freeze
  split
  · assumption
  · rfl

theorem unfreeze_frozen (s : State) : (unfreeze s).evr.frozen = false := by
  unfold unfreeze
  split
  · next h => simpa using h
  · dsimp only
    split <;> rfl

/-- What the NAND work of a slot's erase and of the record of the slots leaves. -/
theorem updateSystem_slotErase (s : State) : (updateSystem s).mule.slotErase = s.mule.slotErase := by
  unfold updateSystem
  refine foldl_field (fun s => s.mule.slotErase) _ (fun s d => ?_) _ _
  dsimp only
  split <;> rfl

theorem recordSlots_slotErase (f : Fw) (s : State) : (recordSlots f s).mule.slotErase = s.mule.slotErase := by
  unfold recordSlots
  split
  · rfl
  · exact updateSystem_slotErase s

theorem startJournal_slotErase (s : State) : (startJournal s).mule.slotErase = s.mule.slotErase := by
  unfold startJournal
  dsimp only
  split <;> rfl

theorem startErase_slotErase (d : Fin 2) (s : State) : (startErase d s).mule.slotErase = s.mule.slotErase := by
  unfold startErase
  dsimp only
  repeat' split
  all_goals rfl

theorem kickDies_slotErase (s : State) : (kickDies s).mule.slotErase = s.mule.slotErase := by
  unfold kickDies
  split
  · rfl
  · dsimp only
    rw [startErase_slotErase, startErase_slotErase]
    split
    · exact startJournal_slotErase s
    · rfl

theorem kickDies_fw (s : State) : (kickDies s).fw = s.fw := (kickDies_keeps (.refl s) (Sub.refl _)).samePart (p := .fw) rfl

theorem recordSlots_fw (f : Fw) (s : State) : (recordSlots f s).fw = s.fw := (recordSlots_keeps (.refl s) (Sub.refl _)).samePart (p := .fw) rfl

theorem eraseLamb_fw (s : State) : (eraseLamb s).fw = { s.fw with erasing := true, eraseLeft := .replicate 2 2 } := kickDies_fw _

theorem eraseSlot_fw (v : Nat) (s : State) : (eraseSlot v s).fw.slots[lamb s].state = 0 ∧ (eraseSlot v s).fw.next = none := by
  have h : (eraseSlot v s).fw = { s.fw with
      slots := upd s.fw.slots (lamb s) (fun _ => Slot.reset), next := none, programmed := [], assembly := [], erasing := true
      eraseLeft := .replicate 2 2 } := by
    unfold eraseSlot
    dsimp only
    rw [recordSlots_fw, eraseLamb_fw]
    rfl
  rw [h]
  exact ⟨congrArg Slot.state (upd_get_self ..), rfl⟩

theorem eraseSlot_slotErase (v : Nat) (s : State) : (eraseSlot v s).mule.slotErase = BitVec.ofNat 8 v := by
  unfold eraseSlot
  dsimp only
  rw [recordSlots_slotErase]
  exact kickDies_slotErase _

theorem oemStart_mule (v : Nat) (s : State) : (oemStart v s).mule.oemCmd = BitVec.ofNat 8 v ∧
    (oemStart v s).mule.oemStatus = (s.mule.oemStatus &&& 0xF0) ||| 1 := by
  unfold oemStart startOem
  dsimp only
  repeat' split
  all_goals exact ⟨rfl, rfl⟩

theorem decideUnit_channel {s : State} {n : ChanId} (h : unitRetired s (.channel n) = false) :
    (.channel n, true) ∈ (decideUnit (.channel n) true s).faults.decided := by
  unfold decideUnit
  dsimp only
  split
  · next hskip =>
    rw [h] at hskip
    simpa using hskip
  · exact List.mem_append_right _ (List.mem_singleton.mpr rfl)

theorem requestedUnit_channel (n : ChanId) : requestedUnit (0xC000 + n.val) = some (.channel n) := by decide +revert

theorem retireByRequest_channel {s : State} {n : ChanId} (h : unitRetired s (.channel n) = false) :
    (.channel n, true) ∈ (retireByRequest (0xC000 + n.val) s).faults.decided := by
  unfold retireByRequest
  rw [requestedUnit_channel]
  exact decideUnit_channel h

theorem requestKinds_fe {s : State} (hfe : calEnabled s .fe = true) (hnone : s.cal.requests = []) (hserves : headServes s (Fin.ofNat 32 s.cal.reqHead) = true) :
    (requestKinds 1 s).cal.requests = [⟨Fin.ofNat 32 s.cal.reqHead, .fe, 0, .normal⟩] := by
  have hreq : requestKinds 1 s = requestCal ⟨Fin.ofNat 32 s.cal.reqHead, .fe, 0, .normal⟩ s := rfl
  generalize (Fin.ofNat 32 s.cal.reqHead : HeadId) = h at hserves hreq ⊢
  have hopen : kindOpen s h .fe = true := rfl
  rw [hreq, requestCal, hfe, hserves, hopen, if_neg (by decide), hnone]
  rfl

end Sys2Proof.Machine
end

section
/-! SUPPORT. The rows that write an object of their own, object by object (spec 15, Index ranges). -/

set_option Elab.async false

namespace Sys2Proof.Machine

/-! ## The rows with an effect of their own -/

theorem byte_eq_one_iff (v : Byte) : v.toNat = 1 ↔ v = 1 := by
  constructor
  · intro h
    exact BitVec.eq_of_toNat_eq h
  · rintro rfl
    rfl

theorem ite_byte_one {α : Type} (v : Byte) (a b : α) : (if v.toNat = 1 then a else b) = if v = 1 then a else b := by
  simp only [byte_eq_one_iff]

theorem word16_toNat_lt (v : Word16) : v.toNat < 256 ^ 2 := v.isLt

theorem word32_toNat_lt (v : Word32) : v.toNat < 256 ^ 4 := v.isLt

/-- The row of an object with an effect of its own answers with that effect's code and state. -/
theorem exec_of_special {s : State} {p : Path} {i j : Nat} {v : List Byte} {o : Obj} {c : Instr} {r : Nat × State}
    (hexec : exec c s = .next (objectAccess p i j v s)) (hstaged : o.staged = false) (hcommit : ¬(i = 0x1020 ∧ j = 1))
    (hacc : AcceptedWrite s p i j v o) (hspecial : specialWrite p i j v s = some r) : exec c s = .next (showAnswer r.1 [] r.2) := by
  rw [hexec, objectAccess_of_special hacc hstaged hcommit hspecial]

theorem exec_of_plain {s : State} {p : Path} {i j : Nat} {v : List Byte} {o : Obj} {c : Instr}
    (hexec : exec c s = .next (objectAccess p i j v s)) (hstaged : o.staged = false) (hcommit : ¬(i = 0x1020 ∧ j = 1))
    (hacc : AcceptedWrite s p i j v o) (hspecial : specialWrite p i j v s = none) :
    exec c s = .next (showAnswer 0 [] (storeValue p i j o.persistent v s)) := by
  rw [hexec, objectAccess_of_plain hacc hstaged hcommit hspecial]

section
variable {p : Path} {o : Obj} {s : State} (hstaged : o.staged = false)
include hstaged

theorem exec_scrubEnableWrite (v : Byte) (h : AcceptedWrite s p 0x2201 1 [v] o) :
    exec (.scrubEnableWrite p v) s = .next (showAnswer 0 [] (storeValue p 0x2201 1 o.persistent [v] s)) :=
  exec_of_plain rfl hstaged (by decide) h rfl

theorem exec_ceTableClear (v : Byte) (h : AcceptedWrite s p 0x2205 2 [v] o) :
    exec (.ceTableClear p v) s = .next (showAnswer 0 [] (if v = 1 then { s with bms.ceTable := [] } else s)) :=
  (exec_of_special rfl hstaged (by decide) h rfl).trans (by rw [← ite_byte_one]; rfl)

theorem exec_cacheModeWrite (v : Byte) (h : AcceptedWrite s p 0x2300 1 [v] o) :
    exec (.cacheModeWrite p v) s = .next (showAnswer 0 [] (requestMode (cacheModeOf v.toNat) (storeValue p 0x2300 1 true [v] s))) :=
  exec_of_special rfl hstaged (by decide) h rfl

theorem exec_dirtyLimitWrite (v : Word16) (h : AcceptedWrite s p 0x2300 3 (leBytes 2 v.toNat) o) :
    exec (.dirtyLimitWrite p v) s = .next (showAnswer 0 [] (applyDirtyLimit (storeValue p 0x2300 3 true (leBytes 2 v.toNat) s))) :=
  exec_of_special rfl hstaged (by decide) h rfl

theorem exec_captureCtrlWrite (v : Byte) (h : AcceptedWrite s p 0x4010 1 [v] o) :
    exec (.captureCtrlWrite p v) s = .next (showAnswer 0 [] (restartDecim { s with mgmt.capCtrl := v.toNat, mgmt.capLost := 0 })) :=
  exec_of_special rfl hstaged (by decide) h rfl

theorem exec_captureDecimWrite (v : Byte) (h : AcceptedWrite s p 0x4010 3 [v] o) :
    exec (.captureDecimWrite p v) s = .next (showAnswer 0 [] (restartDecim { s with mgmt.capDecim := v.toNat })) :=
  exec_of_special rfl hstaged (by decide) h rfl

theorem exec_retireReqWrite (v : Word16) (h : AcceptedWrite s p 0x7302 1 (leBytes 2 v.toNat) o) :
    exec (.retireReqWrite p v) s = .next (showAnswer 0 [] (retireByRequest v.toNat s)) := by
  have hx : specialWrite p 0x7302 1 (leBytes 2 v.toNat) s = some (0, retireByRequest (leNat ((leBytes 2 v.toNat).take 8)) s) := rfl
  rw [leNat_take_leBytes (by decide) (word16_toNat_lt v)] at hx
  exact exec_of_special rfl hstaged (by decide) h hx

theorem exec_unretireWrite (v : Byte) (h : AcceptedWrite s p 0x7302 2 [v] o) :
    exec (.unretireWrite p v) s = .next (showAnswer 0 [] { s with faults.unretire := decide (v.toNat = 1) }) :=
  exec_of_special rfl hstaged (by decide) h rfl

theorem exec_oemRead (h : AcceptedWrite s p 0x7050 3 [1] o) : exec (.oemRead p) s = .next (showAnswer 0 [] (oemStart 1 s)) :=
  exec_of_special rfl hstaged (by decide) h rfl

theorem exec_oemProgram (h : AcceptedWrite s p 0x7050 3 [2] o) : exec (.oemProgram p) s = .next (showAnswer 0 [] (oemStart 2 s)) :=
  exec_of_special rfl hstaged (by decide) h rfl

theorem exec_oemErase (h : AcceptedWrite s p 0x7050 3 [3] o) : exec (.oemErase p) s = .next (showAnswer 0 [] (oemStart 3 s)) :=
  exec_of_special rfl hstaged (by decide) h rfl

theorem exec_slotEraseWrite (v : Byte) (h : AcceptedWrite s p 0x7060 1 [v] o) :
    exec (.slotEraseWrite p v) s = .next (showAnswer 0 [] (eraseSlot v.toNat s)) :=
  exec_of_special rfl hstaged (by decide) h rfl

theorem exec_nodeNumberWrite (v : Word16) (h : AcceptedWrite s p 0x1001 1 (leBytes 2 v.toNat) o) :
    exec (.nodeNumberWrite p v) s = .next (showAnswer 0 [] (storeValue p 0x1001 1 o.persistent (leBytes 2 v.toNat) s)) :=
  exec_of_plain rfl hstaged (by decide) h rfl

theorem exec_logSelectWrite (v : Word32) (h : AcceptedWrite s p 0x7202 1 (leBytes 4 v.toNat) o) :
    exec (.logSelectWrite p v) s = .next (showAnswer 0 [] { s with evr.logSelect := v.toNat }) := by
  have hx : specialWrite p 0x7202 1 (leBytes 4 v.toNat) s = some (0, { s with evr.logSelect := leNat ((leBytes 4 v.toNat).take 8) }) := rfl
  rw [leNat_take_leBytes (by decide) (word32_toNat_lt v)] at hx
  exact exec_of_special rfl hstaged (by decide) h hx

theorem exec_evtModeWrite (v : Byte) (h : AcceptedWrite s p 0x7200 1 [v] o) :
    exec (.evtModeWrite p v) s = .next (showAnswer 0 [] (setEvtMode (decide (v.toNat = 1)) (storeValue p 0x7200 1 true [v] s))) :=
  exec_of_special rfl hstaged (by decide) h rfl

theorem exec_evtFreezeWrite (v : Byte) (h : AcceptedWrite s p 0x7200 2 [v] o) :
    exec (.evtFreezeWrite p v) s = .next (showAnswer 0 [] (if v.toNat = 1 then freeze s else unfreeze s)) :=
  exec_of_special rfl hstaged (by decide) h rfl

theorem exec_calReqKindsWrite (v : Byte) (h : AcceptedWrite s p 0x6103 2 [v] o) :
    exec (.calReqKindsWrite p v) s = .next (showAnswer 0 [] (requestKinds v.toNat s)) :=
  exec_of_special rfl hstaged (by decide) h rfl

end

/-- Settles O54: each row has the effect of its object, by the `exec_…Write` lemmas. -/
theorem acceptedObjectWritesHaveTheirEffect : Obligations.AcceptedObjectWritesHaveTheirEffect := by
  unfold Obligations.AcceptedObjectWritesHaveTheirEffect
  intro p o s hst
  refine ⟨exec_scrubEnableWrite hst, exec_ceTableClear hst, exec_cacheModeWrite hst, exec_dirtyLimitWrite hst, exec_captureCtrlWrite hst,
    exec_captureDecimWrite hst, exec_retireReqWrite hst, exec_unretireWrite hst, exec_oemRead hst, exec_oemProgram hst, exec_oemErase hst,
    exec_slotEraseWrite hst, exec_nodeNumberWrite hst, exec_logSelectWrite hst, exec_evtModeWrite hst, exec_evtFreezeWrite hst,
    fun b h => ⟨_, exec_scrubEnableWrite hst b h, storeValue_value .., rfl⟩, fun h => ⟨_, exec_ceTableClear hst 1 h, rfl, rfl⟩,
    fun b h => ⟨_, exec_cacheModeWrite hst b h, requestMode_requested .., rfl⟩, fun w h => ⟨_, exec_dirtyLimitWrite hst w h, ?dirty, rfl⟩,
    fun b h => ⟨_, exec_captureCtrlWrite hst b h, ?capture⟩, fun b h => ⟨_, exec_captureDecimWrite hst b h, ?decim⟩, fun n h hin => ?retire,
    fun b h => ⟨_, exec_unretireWrite hst b h, ?unretire, rfl⟩, fun x k hx h => ?oem, fun b h => ⟨_, exec_slotEraseWrite hst b h, ?slot⟩,
    fun w h => ⟨_, exec_nodeNumberWrite hst w h, storeValue_value .., rfl⟩, fun w h => ⟨_, exec_logSelectWrite hst w h, rfl, rfl⟩,
    fun b h => ⟨_, exec_evtModeWrite hst b h, ?mode, rfl⟩, fun b h => ⟨_, exec_evtFreezeWrite hst b h, ?freeze, rfl⟩,
    fun b h hfe hnone hserves hb => ?kinds, fun i x v h _ hc hsp => ⟨_, exec_of_plain rfl hst hc h hsp, storeValue_value .., rfl⟩,
    fun i x v h _ hc hsp => exec_of_plain rfl hst hc h hsp⟩
  case dirty =>
    show assocGet _ (applyDirtyLimit _).dict.values = _
    rw [applyDirtyLimit_dict]
    exact storeValue_value ..
  case capture =>
    simp only [showAnswer, restartDecim_mgmt]
    exact ⟨trivial, trivial, rfl⟩
  case decim =>
    simp only [showAnswer, restartDecim_mgmt]
    exact ⟨trivial, rfl⟩
  case retire =>
    have hnat : (BitVec.ofNat 16 (0xC000 + n.val)).toNat = 0xC000 + n.val := by
      clear h hin
      decide +revert
    refine ⟨_, exec_retireReqWrite hst _ (by rwa [hnat]), ?_, rfl⟩
    rw [hnat]
    exact retireByRequest_channel hin
  case unretire => exact decide_eq_decide.mpr (byte_eq_one_iff b)
  case oem =>
    simp only [List.mem_cons, List.not_mem_nil, or_false, Prod.mk.injEq] at hx
    obtain ⟨rfl, rfl⟩ | ⟨rfl, rfl⟩ | ⟨rfl, rfl⟩ := hx
    · exact ⟨_, exec_oemRead hst h, (oemStart_mule 1 s).1, (oemStart_mule 1 s).2, rfl⟩
    · exact ⟨_, exec_oemProgram hst h, (oemStart_mule 2 s).1, (oemStart_mule 2 s).2, rfl⟩
    · exact ⟨_, exec_oemErase hst h, (oemStart_mule 3 s).1, (oemStart_mule 3 s).2, rfl⟩
  case slot =>
    obtain ⟨hstate, hnext⟩ := eraseSlot_fw b.toNat s
    exact ⟨hstate, hnext, (eraseSlot_slotErase ..).trans (BitVec.ofNat_toNat ..), rfl⟩
  case mode => exact (setEvtMode_fill ..).trans (decide_eq_decide.mpr (byte_eq_one_iff b))
  case freeze =>
    show (ite _ _ _ : State).evr.frozen = _
    rw [ite_byte_one]
    split
    next hb => rw [freeze_frozen, decide_eq_true hb]
    next hb => rw [unfreeze_frozen, decide_eq_false hb]
  case kinds =>
    subst hb
    exact ⟨_, exec_calReqKindsWrite hst 1 h, requestKinds_fe hfe hnone hserves, rfl⟩

end Sys2Proof.Machine
end

section
/-! SUPPORT. The objects of privilege, of the owner lock, of commit and discard, and of firmware (spec 15, Staging and commit, Privilege, Owner
lock; spec 16, Activation). -/

set_option Elab.async false

namespace Sys2Proof.Machine

/-! ## Commit and discard -/

theorem dictWrite_of_commit {s : State} {p : Path} {w : Waiter} {v : List Byte} {o : Obj} (h : AcceptedWrite s p 0x1020 1 v o) :
    dictWrite p w 0x1020 1 v s = if v = [2] then (some 0, requestDiscard p s) else requestCommit p w s := dictWrite_of_accepted h

theorem objectAccess_commit {s : State} {p : Path} {o : Obj} (h : AcceptedWrite s p 0x1020 1 [1] o) :
    objectAccess p 0x1020 1 [1] s = match (requestCommit p (.write p) s).1 with
      | none => (requestCommit p (.write p) s).2
      | some c => showAnswer c [] (requestCommit p (.write p) s).2 := by
  rw [objectAccess_of_serves h.1, dictWrite_of_commit h]
  rfl

theorem exec_discardWrite {s : State} {p : Path} {o : Obj} (h : AcceptedWrite s p 0x1020 1 [2] o) :
    exec (.discardWrite p) s = .next (showAnswer 0 [] (requestDiscard p s)) := by
  show Host.Outcome.next (objectAccess p 0x1020 1 [2] s) = _
  rw [objectAccess_of_serves h.1, dictWrite_of_commit h]
  rfl

theorem exec_commitWrite {s : State} {p : Path} {ns : Nat} {o : Obj} (h : AcceptedWrite (atOffset ns s) p 0x1020 1 [1] o) :
    exec (.commitWrite ⟨p, ns⟩) s = .next (match (requestCommit p (.write p) (atOffset ns s)).1 with
      | none => (requestCommit p (.write p) (atOffset ns s)).2
      | some c => showAnswer c [] (requestCommit p (.write p) (atOffset ns s)).2) := by
  have hserves : dictServes s = true := h.1
  exact congrArg Host.Outcome.next ((if_pos hserves).trans (objectAccess_commit h))

theorem requestCommit_of_runs {s : State} (p : Path) (w : Waiter) (h : CommitRuns s) : requestCommit p w s =
    (none, { s with dict.stage := .swapping, dict.waiter := some w, dict.commitAt := s.clock.ns + s.clock.sub, dict.changedSince := false }) := by
  obtain ⟨hsegment, hns, hvalid, hstaged⟩ := h
  have hns' : (if s.sub.namespaces = [] then none else s.dict.staged.find? (fun e => e.1.index = 0x3100)) = none := by
    split
    · rfl
    · next hne => exact hns.resolve_left hne
  unfold requestCommit
  dsimp only
  rw [hsegment, hns', hvalid]
  exact if_neg hstaged

theorem discardStaging_dict (cause src : Nat) (s : State) :
    (discardStaging cause src s).dict.staged = [] ∧ (discardStaging cause src s).dict.owner = none := by
  unfold discardStaging
  split
  · next h => simpa using h
  · rw [raise_dict]
    exact ⟨rfl, rfl⟩

theorem requestDiscard_dict {s : State} (p : Path) (hidle : s.dict.stage = .idle) :
    (requestDiscard p s).dict.staged = [] ∧ (requestDiscard p s).dict.owner = none := by
  unfold requestDiscard wantDiscard
  rw [if_pos hidle]
  exact discardStaging_dict ..

/-! ## Privilege and the owner lock -/

theorem modPath_pathState (p : Path) (f : PathState → PathState) (s : State) : pathState (modPath p f s) p = f (pathState s p) :=
  upd_get_self ..

theorem enterPriv_priv (p : Path) (x : Nat) (s : State) : (pathState (enterPriv p x s).2 p).priv = decide (x = cfg s 0x1010 2) ∧
    (enterPriv p x s).1 = if x = cfg s 0x1010 2 then 0 else 0xD0000010 := by
  unfold enterPriv
  split
  next h => exact ⟨by rw [modPath_pathState, decide_eq_true h], rfl⟩
  next h => exact ⟨by rw [modPath_pathState, decide_eq_false h], rfl⟩

theorem lockChanged_lock (src : Nat) (s : State) : (lockChanged src s).mgmt.lock = s.mgmt.lock := by
  have h : { (lockChanged src s).mgmt with status := 0 } = { s.mgmt with status := 0 } :=
    (lockChanged_keeps (.refl s) (Sub.refl _)).samePart (p := .mgmt) rfl
  exact (congrArg (fun m : Mgmt => m.lock) h :)

theorem setFlag_lock (f : Flag) (s : State) : (setFlag f s).mgmt.lock = s.mgmt.lock := by
  obtain ⟨v, w, a, h⟩ := setFlag_eq f s
  rw [h]

theorem writeLock_sets {s : State} (p : Path) (h : s.mgmt.lock = none) : (writeLock p 1 s).mgmt.lock = some (p, identOf s p) := by
  unfold writeLock
  rw [h]
  dsimp only
  rw [if_neg (by decide), setFlag_lock, raise_mgmt, lockChanged_lock]

theorem writeLock_clears {s : State} (p : Path) (h : s.mgmt.lock.isSome = true) : (writeLock p 0 s).mgmt.lock = none := by
  obtain ⟨l, hl⟩ := Option.isSome_iff_exists.mp h
  unfold writeLock
  rw [hl]
  dsimp only
  rw [if_neg (by decide), setFlag_lock, raise_mgmt, lockChanged_lock]

/-! ## Firmware -/

theorem releaseBinding_fw (cause src : Nat) (s : State) : (releaseBinding cause src s).fw = { s.fw with
    slots := upd s.fw.slots (lamb s) (fun _ => Slot.reset), source := none, header := none, sealing := false, programmed := []
    assembly := [], sinceMap := 0, erasing := true, eraseLeft := .replicate 2 2 } := by
  unfold releaseBinding
  dsimp only
  rw [recordSlots_fw, eraseLamb_fw, raise_fw]
  rfl

theorem releaseBinding_releases (cause src : Nat) (s : State) : (releaseBinding cause src s).fw.source = none ∧
    (releaseBinding cause src s).fw.header = none ∧ (releaseBinding cause src s).fw.slots[lamb s].state = 0 ∧
    (releaseBinding cause src s).fw.sealing = false := by
  rw [releaseBinding_fw]
  exact ⟨rfl, rfl, congrArg Slot.state (upd_get_self ..), rfl⟩

theorem fwAction_of_allowed {s : State} {ca fs : Nat} {i : Fin 2} (p : Path) (a : Option AdminHdr) (b : Bool) (hslot : namedSlot s fs = some i)
    (hno : fwActionRefusal ca i s = none) :
    fwAction ca fs p a b s = ((fwActionEffect ca i a s).1, recordSlots s.fw (fwActionEffect ca i a s).2) := by
  unfold fwAction
  dsimp only
  rw [hslot]
  dsimp only
  rw [hno]

theorem writeFwAction_of_allowed {s : State} {ca : Nat} {i : Fin 2} (p : Path) (hslot : namedSlot s s.fw.actionSlot = some i)
    (hno : fwActionRefusal ca i s = none) :
    (writeFwAction p ca s).1 = (fwActionEffect ca i none s).1.elim 0 actionCode ∧
    (writeFwAction p ca s).2.fw = { (fwActionEffect ca i none s).2.fw with
      actionResult := BitVec.ofNat 32 ((fwActionEffect ca i none s).1.elim 0 actionCode) } ∧
    (writeFwAction p ca s).2.cmds = (fwActionEffect ca i none s).2.cmds := by
  unfold writeFwAction
  rw [fwAction_of_allowed p none true hslot hno]
  refine ⟨rfl, ?_, ?_⟩
  · dsimp only
    rw [recordSlots_fw]
  · exact (recordSlots_keeps (.refl _) (Sub.refl _)).samePart (p := .cmds) rfl

theorem not_recovery_of_serves {s : State} (h : dictServes s = true) : s.power.phase ≠ .recovery := by
  simp only [dictServes, State.resident, Bool.and_eq_true, decide_eq_true_eq] at h
  exact h.1.2

theorem fwActionEffect_immediate {s : State} {i : Fin 2} (a : Option AdminHdr) (hslot : s.fw.slots[i].resetOnly = false)
    (hphase : s.power.phase ≠ .recovery) : fwActionEffect 3 i a s = (none, startActivation i a s) := by
  have hno : ¬ ((s.fw.slots[i].resetOnly || decide (s.power.phase = .recovery)) = true) := by
    rw [hslot, decide_eq_false hphase]
    decide
  exact if_neg hno

/-! ## The statement -/

section
variable {p : Path} {o : Obj} {s : State} (hstaged : o.staged = false)
include hstaged

theorem exec_privEnterWrite (v : Word32) (h : AcceptedWrite s p 0x1010 1 (leBytes 4 v.toNat) o) :
    exec (.privEnterWrite p v) s = .next (showAnswer (enterPriv p v.toNat s).1 [] (enterPriv p v.toNat s).2) := by
  have hx : specialWrite p 0x1010 1 (leBytes 4 v.toNat) s = some (enterPriv p (leNat ((leBytes 4 v.toNat).take 8)) s) := rfl
  rw [leNat_take_leBytes (by decide) (word32_toNat_lt v)] at hx
  exact exec_of_special rfl hstaged (by decide) h hx

theorem exec_ownerLockWrite (v : Byte) (h : AcceptedWrite s p 0x1011 1 [v] o) :
    exec (.ownerLockWrite p v) s = .next (showAnswer 0 [] (writeLock p v.toNat s)) :=
  exec_of_special rfl hstaged (by decide) h rfl

theorem exec_fwAbortWrite (v : Byte) (h : AcceptedWrite s p 0x7100 8 [v] o) : exec (.fwAbortWrite p v) s =
    .next (showAnswer 0 [] (if v.toNat = 1 ∧ fwBound s = true then releaseBinding 2 (pathCode p) s else s)) := by
  refine (exec_of_special rfl hstaged (by decide) h rfl).trans ?_
  show Host.Outcome.next (showAnswer 0 [] (abortStaging p v.toNat s)) = _
  simp only [abortStaging, Bool.and_eq_true, decide_eq_true_eq]

theorem exec_fwAction {x : Instr} {k : Byte}
    (hx : (x, k) ∈ [(Instr.fwActionKeep p, 0), (.fwActionNextReset p, 1), (.fwActionExisting p, 2), (.fwActionImmediate p, 3)])
    (h : AcceptedWrite s p 0x7102 1 [k] o) :
    exec x s = .next (showAnswer (writeFwAction p k.toNat s).1 [] (writeFwAction p k.toNat s).2) := by
  have hexec : exec x s = .next (objectAccess p 0x7102 1 [k] s) := by
    simp only [List.mem_cons, List.not_mem_nil, or_false, Prod.mk.injEq] at hx
    obtain ⟨rfl, rfl⟩ | ⟨rfl, rfl⟩ | ⟨rfl, rfl⟩ | ⟨rfl, rfl⟩ := hx <;> rfl
  exact exec_of_special hexec hstaged (by decide) h rfl

end

/-- Settles O55: each row has the effect of its object, by the lemmas above. -/
theorem privilegeCommitAndFirmwareObjects : Obligations.PrivilegeCommitAndFirmwareObjects := by
  unfold Obligations.PrivilegeCommitAndFirmwareObjects
  intro p o s
  refine ⟨fun v hst h => exec_privEnterWrite hst v h, fun v hst h => exec_ownerLockWrite hst v h, exec_discardWrite, fun ns u h => ⟨fun hu => ?waits,
    fun n hu => ?coded, fun hruns => ⟨_, exec_commitWrite h, ?begun⟩⟩, fun h hidle => ⟨_, exec_discardWrite h, ?discarded⟩,
    fun v hst h => ⟨_, exec_privEnterWrite hst v h, ?priv⟩, fun hst h hl => ⟨_, exec_ownerLockWrite hst 1 h, writeLock_sets p hl, rfl⟩,
    fun hst h hl => ⟨_, exec_ownerLockWrite hst 0 h, writeLock_clears p hl, rfl⟩, fun hst h hb => ⟨_, exec_fwAbortWrite hst 1 h, ?aborted⟩,
    fun i hst hi => ⟨fun h hno => ⟨_, exec_fwAction hst (by simp) h, ?keep⟩, fun h hno => ⟨_, exec_fwAction hst (by simp) h, ?next⟩,
      fun h hno => ⟨_, exec_fwAction hst (by simp) h, ?existing⟩, fun h hno hslot => ⟨_, exec_fwAction hst (by simp) h, ?immediate⟩⟩,
    fun v hst h => exec_fwAbortWrite hst v h, fun x k hx hst h => exec_fwAction hst hx h,
    fun i x v hst h hc => congrArg Host.Outcome.next (objectAccess_of_staged h hst hc)⟩
  case waits => rw [exec_commitWrite h, hu]
  case coded => rw [exec_commitWrite h, hu]
  case begun =>
    rw [requestCommit_of_runs _ _ hruns]
    exact ⟨rfl, rfl, rfl, rfl⟩
  case discarded =>
    obtain ⟨hs, ho⟩ := requestDiscard_dict p hidle
    exact ⟨hs, ho, rfl⟩
  case priv =>
    obtain ⟨hpriv, hcode⟩ := enterPriv_priv p v.toNat s
    refine ⟨hpriv, ?_⟩
    show some (BitVec.ofNat 32 (enterPriv p v.toNat s).1, []) = _
    rw [hcode]
    split <;> rfl
  case aborted =>
    obtain ⟨hsource, hheader, hstate, -⟩ := releaseBinding_releases 2 (pathCode p) s
    rw [if_pos ⟨rfl, hb⟩]
    exact ⟨hsource, hheader, hstate, rfl⟩
  case keep | next | existing =>
    obtain ⟨hcode, hfw, -⟩ := writeFwAction_of_allowed p hi hno
    refine ⟨hfw, ?_⟩
    show some (BitVec.ofNat 32 _, []) = _
    exact congrArg (fun n => some (BitVec.ofNat 32 n, ([] : List Byte))) hcode
  case immediate =>
    obtain ⟨-, hfw, hcmds⟩ := writeFwAction_of_allowed p hi hno
    have heff := fwActionEffect_immediate none hslot (not_recovery_of_serves h.1)
    rw [heff] at hfw hcmds
    refine ⟨?_, ?_, ?_⟩
    · exact congrArg (fun f : Fw => f.activation) hfw
    · exact congrArg (fun f : Fw => f.target) hfw
    · exact congrArg (fun c : Cmds => c.fetchStopped) hcmds

end Sys2Proof.Machine
end

section
/-! SUPPORT. The event recorder (spec 17): a write, a repeat, the end of a freeze and a page of the mirror. -/

set_option Elab.async false

namespace Sys2Proof.Machine

/-! ## The write of the next event -/

theorem ifLive_of_live {s : State} (hlive : s.live = true) (f : State → State) : ifLive s f = f s := if_pos hlive

theorem exec_ifLive {s : State} (hlive : s.live = true) (f : State → State) :
    (Host.Outcome.next (ifLive s f) : Host.Outcome State Fault Refusal) = .next (f s) := congrArg _ (ifLive_of_live hlive f)

theorem setFlag_evr (f : Flag) (s : State) : (setFlag f s).evr = s.evr := by
  obtain ⟨v, w, a, h⟩ := setFlag_eq f s
  rw [h]

theorem newRecord_evr (e : Event) (b : Bool) (s : State) : (newRecord e b s).evr = { s.evr with
    ring := capped 4096 (⟨e, s.evr.nextSeq, s.clock.cycles, 0⟩ :: s.evr.ring), nextSeq := (s.evr.nextSeq + 1) % 2 ^ 32, isOpen := b } :=
  setFlag_evr ..

theorem overflowRecord_of_none {s : State} (h : s.evr.lostSince = 0) : overflowRecord s = s := if_neg (by simp [h])

theorem recordEvent_of_fill {e : Event} {s : State} (h : s.evr.fill = true) : recordEvent e s = newRecord e false s := by
  unfold recordEvent
  split
  · rw [if_neg (by rw [h]; simp), h]
    rfl
  · rw [h]
    rfl

theorem recordEvent_of_repeat {e : Event} {s : State} {r : EventRec} {l : List EventRec} (hfill : s.evr.fill = false) (hopen : s.evr.isOpen = true)
    (hring : s.evr.ring = r :: l) (hsame : sameEvent e r.event = true) :
    recordEvent e s = { s with evr.ring := { r with rept := r.rept + 1 } :: l, evr.isOpen := r.rept + 1 < 65535 } := by
  unfold recordEvent
  rw [hring]
  exact if_pos (by rw [hfill, hopen, hsame]; rfl)

theorem writeNext_of_empty {s : State} (h : s.evr.queue = []) : writeNext s = s := by
  unfold writeNext
  rw [h]

theorem writeNext_of_frozen_out {s : State} (hfrozen : s.evr.frozen = true) (hleft : s.evr.freezeLeft = 0) : writeNext s = s := by
  unfold writeNext
  split
  · rfl
  · dsimp only
    rw [if_pos hfrozen, if_pos hleft]

theorem writeNext_of_frozen {s : State} {e : Event} {q : List Event} (hqueue : s.evr.queue = e :: q) (hfrozen : s.evr.frozen = true)
    (hleft : s.evr.freezeLeft ≠ 0) :
    writeNext s = newRecord e false { s with evr.queue := q, evr.freezeLeft := s.evr.freezeLeft - 1 } := by
  unfold writeNext
  rw [hqueue]
  dsimp only
  rw [if_pos hfrozen, if_neg hleft]

theorem writeNext_of_running {s : State} {e : Event} {q : List Event} (hqueue : s.evr.queue = e :: q) (hfrozen : s.evr.frozen = false) :
    writeNext s = overflowRecord (recordEvent e { s with evr.queue := q }) := by
  unfold writeNext
  rw [hqueue]
  exact if_neg (by rw [hfrozen]; decide)

theorem writeNext_evr_of_frozen {s : State} {e : Event} {q : List Event} (hqueue : s.evr.queue = e :: q) (hfrozen : s.evr.frozen = true)
    (hleft : s.evr.freezeLeft ≠ 0) :
    (writeNext s).evr.queue = q ∧ (writeNext s).evr.freezeLeft = s.evr.freezeLeft - 1 := by
  rw [writeNext_of_frozen hqueue hfrozen hleft, newRecord_evr]
  exact ⟨rfl, rfl⟩

theorem writeNext_evr_of_fill {s : State} {e : Event} {q : List Event} (hqueue : s.evr.queue = e :: q) (hfrozen : s.evr.frozen = false)
    (hfill : s.evr.fill = true) (hlost : s.evr.lostSince = 0) : (writeNext s).evr = { s.evr with
      queue := q, ring := capped 4096 (⟨e, s.evr.nextSeq, s.clock.cycles, 0⟩ :: s.evr.ring), nextSeq := (s.evr.nextSeq + 1) % 2 ^ 32
      isOpen := false } := by
  have hrec : recordEvent e { s with evr.queue := q } = newRecord e false { s with evr.queue := q } := recordEvent_of_fill hfill
  rw [writeNext_of_running hqueue hfrozen, hrec, overflowRecord_of_none, newRecord_evr]
  rw [newRecord_evr]
  exact hlost

theorem writeNext_evr_of_repeat {s : State} {e : Event} {q : List Event} {r : EventRec} {l : List EventRec} (hqueue : s.evr.queue = e :: q)
    (hfrozen : s.evr.frozen = false) (hfill : s.evr.fill = false) (hlost : s.evr.lostSince = 0) (hopen : s.evr.isOpen = true)
    (hring : s.evr.ring = r :: l) (hsame : sameEvent e r.event = true) : (writeNext s).evr = { s.evr with
      queue := q, ring := { r with rept := r.rept + 1 } :: l, isOpen := r.rept + 1 < 65535 } := by
  have hrec := recordEvent_of_repeat (s := { s with evr.queue := q }) hfill hopen hring hsame
  rw [writeNext_of_running hqueue hfrozen, hrec, overflowRecord_of_none]
  exact hlost

theorem exec_eventWrite_of_mounted {s : State} (hlive : s.live = true) (hmounted : s.mule.mounted = true) :
    exec .eventWrite s = .next (writeNext s) := (exec_ifLive hlive _).trans (congrArg _ (if_pos hmounted))

theorem exec_eventWrite_of_unmounted {s : State} (hlive : s.live = true) (hmounted : s.mule.mounted = false) :
    exec .eventWrite s = .next s := (exec_ifLive hlive _).trans (congrArg _ (if_neg (by rw [hmounted]; decide)))

theorem exec_eventWrite_of_fixed {s : State} (hlive : s.live = true) (h : writeNext s = s) : exec .eventWrite s = .next s := by
  cases hm : s.mule.mounted with
  | true => rw [exec_eventWrite_of_mounted hlive hm, h]
  | false => exact exec_eventWrite_of_unmounted hlive hm

/-! ## The end of a freeze -/

theorem unfreeze_of_running {s : State} (h : s.evr.frozen = false) : unfreeze s = s := if_pos (by rw [h]; rfl)

theorem unfreeze_evr {s : State} (h : s.evr.frozen = true) : ∃ q, (unfreeze s).evr = { s.evr with
    frozen := false, freezeLeft := 0, frozenCount := 0, frozen3 := 0, frozen2 := 0, frozenLast := 0, queue := q } ∧
    (s.evr.frozenCount = 0 → q = s.evr.queue) ∧ (s.evr.frozenCount ≠ 0 → q.length = s.evr.queue.length + 1) := by
  unfold unfreeze
  rw [if_neg (by rw [h]; decide)]
  dsimp only
  split
  next h0 => exact ⟨_, rfl, fun _ => rfl, fun hne => absurd h0 hne⟩
  next h0 =>
    refine ⟨_, rfl, fun h => absurd h h0, fun _ => ?_⟩
    rw [List.length_append, List.length_cons, ← Nat.add_assoc, ← List.length_append, List.take_append_drop]

/-! ## The mirror -/

/-- The event recorder put together from what it recorded and what has arrived. -/
def evrOf (r : Evr) (a : List Event × List Event × Nat × Nat × Nat × Nat × Word16 × Word32 × Nat) : Evr :=
  let ⟨queue, boot, bootLost, frozenCount, frozen3, frozen2, frozenLast, overflows, lostSince⟩ := a
  { r with queue, boot, bootLost, frozenCount, frozen3, frozen2, frozenLast, overflows, lostSince }

theorem evrOf_recorded_arrived (r : Evr) : evrOf (recorded r) (arrived r) = r := rfl

/-- An operation that changes neither part of the event recorder leaves the whole of it. -/
theorem Keeps.evr {m : Nat} {s t : State} (h : Keeps m s t) (hrecorder : m.testBit Part.recorder.bit = false)
    (hevents : m.testBit Part.events.bit = false) : t.evr = s.evr := by
  have hr : recorded t.evr = recorded s.evr := h.samePart hrecorder
  have he : arrived t.evr = arrived s.evr := h.samePart hevents
  rw [← evrOf_recorded_arrived t.evr, hr, he, evrOf_recorded_arrived]

theorem programNext_evr (w : Partition) (k : Nat) (o d : List Byte) (s : State) : (programNext w k o d s).evr = s.evr :=
  (programNext_keeps (.refl s) (Sub.refl _)).evr rfl rfl

theorem makeRoom_evr (s : State) : ∃ l, (makeRoom s).evr = { s.evr with log := l } := by
  unfold makeRoom
  split <;> exact ⟨_, rfl⟩

theorem makeRoom_of_room {s : State} (h : pagesWritten s .eventLog < partPages .eventLog) : makeRoom s = s := by
  have hround : comesRound s .eventLog = false := by
    rw [comesRound, decide_eq_false (not_le.mpr h)]
    rfl
  exact if_neg (by rw [hround]; decide)

theorem logPages_ring (l : List EventRec) (s : State) : (logPages l s).evr.ring = s.evr.ring := by
  refine foldl_field (fun s => s.evr.ring) _ (fun s i => ?_) _ _
  obtain ⟨g, h⟩ := makeRoom_evr s
  show (programNext _ _ _ _ (makeRoom s)).evr.ring = _
  rw [programNext_evr, h]

/-- At most one page is written, and with room left no stripe is given up for it. -/
theorem logPages_evr_of_room {l : List EventRec} {s : State} (hl : l.length ≤ 512) (h : pagesWritten s .eventLog < partPages .eventLog) :
    (logPages l s).evr = s.evr := by
  have hpages : ceilDiv l.length 512 = 0 ∨ ceilDiv l.length 512 = 1 := by
    unfold ceilDiv
    omega
  unfold logPages
  obtain h0 | h1 := hpages
  · rw [h0]
    rfl
  · rw [h1]
    show (programNext _ _ _ _ (makeRoom s)).evr = s.evr
    rw [programNext_evr, makeRoom_of_room h]

/-- Settles O60: `writeNext`, `unfreeze` and `mirrorPage`, case by case. -/
theorem eventsAreWrittenFrozenAndMirrored : Obligations.EventsAreWrittenFrozenAndMirrored := by
  unfold Obligations.EventsAreWrittenFrozenAndMirrored
  refine fun s hlive => ⟨exec_eventWrite_of_mounted hlive, exec_eventWrite_of_unmounted hlive,
    fun h => exec_eventWrite_of_fixed hlive (writeNext_of_empty h), fun hf h0 => exec_eventWrite_of_fixed hlive (writeNext_of_frozen_out hf h0),
    fun e q hm hq hf h0 => ⟨_, exec_eventWrite_of_mounted hlive hm, ?frozen⟩, fun e q hm hq hf hfill hlost => ⟨_, exec_eventWrite_of_mounted hlive hm, ?fill⟩,
    fun e q r l hm hq hf hfill hlost hopen hring hsame => ⟨_, exec_eventWrite_of_mounted hlive hm, ?again⟩,
    fun hf => (exec_ifLive hlive unfreeze).trans (congrArg _ (unfreeze_of_running hf)), fun hf => ⟨_, exec_ifLive hlive unfreeze, ?unfrozen⟩,
    fun hm hf => ?mirror, fun hf => (exec_ifLive hlive _).trans (congrArg _ (if_neg (by simp [hf])))⟩
  case frozen => exact writeNext_evr_of_frozen hq hf h0
  case fill =>
    beta_reduce
    rw [writeNext_evr_of_fill hq hf hfill hlost]
    exact ⟨rfl, rfl, _, rfl, rfl, rfl, rfl⟩
  case again =>
    beta_reduce
    rw [writeNext_evr_of_repeat hq hf hfill hlost hopen hring hsame]
    exact ⟨rfl, rfl, rfl⟩
  case unfrozen =>
    obtain ⟨q, hevr, hzero, hsome⟩ := unfreeze_evr hf
    rw [hevr]
    exact ⟨rfl, rfl, rfl, rfl, hzero, hsome⟩
  case mirror =>
    have hexec : exec .mirrorPageProgram s = .next (mirrorPage (logPages ((gathered s.evr).take 512) s)) :=
      (exec_ifLive hlive _).trans (congrArg _ (if_pos (by rw [hm, hf]; rfl)))
    refine ⟨hexec, _, hexec, logPages_ring .., fun hroom => ?_⟩
    show (appendLog _ (logPages _ s).evr).log = _
    rw [logPages_evr_of_room (by simp) hroom]
    rfl

end Sys2Proof.Machine
end

section
/-! SUPPORT. Firmware (spec 16): a piece, the seal, the lease and the activation. -/

set_option Elab.async false

namespace Sys2Proof.Machine

/-! ## Pieces -/

theorem storeImage_fw (f : Fw) (s : State) : (storeImage f s).fw = s.fw :=
  (storeImage_keeps (.refl s) (Sub.refl _)).samePart (p := .fw) rfl

theorem programPages_pieces (s : State) : (programPages s).fw.pieces = s.fw.pieces := by
  unfold programPages
  split <;> rfl

theorem assemble_pieces (u : Nat) (f : Fw) : (assemble u f).pieces = f.pieces := by
  unfold assemble
  dsimp only
  repeat' split
  all_goals rfl

theorem addUnit_pieces (n : Nat) (f : Fw) (u : Nat) : (addUnit n f u).pieces = f.pieces := by
  unfold addUnit
  dsimp only
  split <;> exact assemble_pieces u f

theorem addUnits_pieces (n : Nat) (l : List Nat) (f : Fw) : (l.foldl (addUnit n) f).pieces = f.pieces := by
  induction l generalizing f with
  | nil => rfl
  | cons u l ih => exact (ih _).trans (addUnit_pieces n f u)

theorem takeUnits_pieces (first count : Nat) (s : State) : (takeUnits first count s).fw.pieces = s.fw.pieces := by
  have h : ∀ f : Fw, (storeImage f (programPages { s with
      fw := (((List.range count).map (first + ·)).filter (fun u => !unitHeld s.fw u)).foldl (addUnit (fwUnits s)) s.fw })).fw.pieces = s.fw.pieces := by
    intro f
    rw [storeImage_fw, programPages_pieces]
    exact addUnits_pieces ..
  unfold takeUnits
  dsimp only
  split
  · exact h _
  · exact h _

theorem bindImage_pieces (src : Path) (b : List Byte) (s : State) : (bindImage src b s).fw.pieces = s.fw.pieces := by
  unfold bindImage
  rw [eraseLamb_fw]
  rfl

theorem takePiece_pieces (src : Path) (x : FwPiece) (s : State) : (takePiece src x s).fw.pieces = s.fw.pieces + 1 := by
  unfold takePiece
  dsimp only
  rw [recordSlots_fw, takeUnits_pieces]
  refine congrArg (· + 1) ?_
  split
  · rfl
  · show (setSourceImage _ _ _).fw.pieces = _
    unfold setSourceImage modPath
    dsimp only
    split
    · rfl
    · exact bindImage_pieces ..

theorem exec_fwPieceWrite {s : State} {p : Path} {x : FwPiece} {o : Obj} (hserves : dictServes s = true)
    (hadmit : admitWrite s p 0x7101 2 false = .ok o) (hlen : x.length ≤ 1048576) :
    exec (.fwPieceWrite p x) s = .next (showAnswer (deliverPiece p { x with offset := (pathState s p).fwOffset } s).1 []
      (deliverPiece p { x with offset := (pathState s p).fwOffset } s).2) := by
  show execFwPieceWrite p x s = _
  rw [execFwPieceWrite, if_neg (by rw [hserves]; decide), hadmit]
  exact congrArg Host.Outcome.next (if_neg (not_lt.mpr hlen))

theorem deliverPiece_of_accepted {s : State} {p : Path} {x : FwPiece} (h : judgePiece p x s = .accepted) :
    deliverPiece p x s = (0, takePiece p x s) := if_pos h

/-! ## The seal -/

theorem setFlag_fw (f : Flag) (s : State) : (setFlag f s).fw = s.fw := by
  obtain ⟨v, w, a, h⟩ := setFlag_eq f s
  rw [h]

theorem sealSlot_fw (s : State) : (sealSlot s).fw = { s.fw with
    slots := upd s.fw.slots (lamb s) (fun x => { x with state := 2 }), source := none, header := none, sealing := false } := by
  unfold sealSlot
  dsimp only
  rw [setFlag_fw, recordSlots_fw, raise_fw]
  rfl

theorem exec_fwSealDone {s : State} (hlive : s.live = true) (hsealing : s.fw.sealing = true) (b : Bool) :
    exec (.fwSealDone b) s = .next (if b then sealSlot s else releaseBinding 0 srcController s) :=
  (exec_ifLive hlive _).trans (congrArg _ (if_neg (by rw [hsealing]; decide)))

/-! ## The activation -/

theorem adminDone_fw (a : AdminHdr) (st : Status) (n : Nat) (d : CplData) (s : State) : (adminDone a st n d s).fw = s.fw :=
  (adminDone_keeps (.refl s) (Sub.refl _)).samePart (p := .fw) rfl

theorem adminDone_cmds (a : AdminHdr) (st : Status) (n : Nat) (d : CplData) (s : State) : (adminDone a st n d s).cmds = s.cmds :=
  (adminDone_keeps (.refl s) (Sub.refl _)).samePart (p := .cmds) rfl

theorem endActivation_fw (st : Status) (s : State) : ∃ r, (endActivation st s).fw = { s.fw with
    activation := .none, target := none, asker := none, badImage := false, actionResult := r } := by
  unfold endActivation
  dsimp only
  split
  · split
    · exact ⟨_, adminDone_fw ..⟩
    · exact ⟨_, rfl⟩
  · exact ⟨_, rfl⟩

theorem endActivation_fetchStopped (st : Status) (s : State) : (endActivation st s).cmds.fetchStopped = s.faults.dataDown := by
  unfold endActivation
  dsimp only
  split
  · split
    · exact congrArg (fun c : Cmds => c.fetchStopped) (adminDone_cmds ..)
    · rfl
  · rfl

theorem relayout_fw (n : Nat) (s : State) : (relayout n s).fw = s.fw := (relayout_keepsAll n s).2

theorem updateSystem_fw (s : State) : (updateSystem s).fw = s.fw := (updateSystem_keepsAll s).2

theorem leaveFailed_fw (s : State) : (leaveFailed s).fw = s.fw := (leaveFailed_keeps (.refl s) (Sub.refl _)).samePart (p := .fw) rfl

theorem exec_activationResume_of_switched {s : State} (hlive : s.live = true) (h : s.fw.activation = .switched) :
    exec .activationResume s = .next (leaveFailed (endActivation .success
      (raise (event 0xC013 2 srcController s.fw.active.val s.fw.slots[s.fw.active].version)
        (relayout s.fw.slots[s.fw.before].dictVersion { s with fw.activations := s.fw.activations + 1, fw.programmed := [] })))) := by
  refine (exec_ifLive hlive _).trans (congrArg _ ?_)
  dsimp only
  split
  case h_1 =>
    exact (congrArg (fun f : Fw => leaveFailed (endActivation .success (raise (event 0xC013 2 srcController f.active.val f.slots[f.active].version)
      (relayout s.fw.slots[s.fw.before].dictVersion { s with fw.activations := s.fw.activations + 1, fw.programmed := [] }))))
      (relayout_fw s.fw.slots[s.fw.before].dictVersion { s with fw.activations := s.fw.activations + 1, fw.programmed := [] }) :)
  case h_2 heq => exact absurd (h.symm.trans heq) (by decide)
  case h_3 hne _ => exact absurd h hne

theorem exec_activationResume_of_loading {s : State} (hlive : s.live = true) (h : s.fw.activation = .loading) :
    exec .activationResume s = .next (endActivation .invalidFwImage s) := by
  refine (exec_ifLive hlive _).trans (congrArg _ ?_)
  dsimp only
  split
  case h_1 heq => exact absurd (h.symm.trans heq) (by decide)
  case h_2 => rfl
  case h_3 _ hne => exact absurd h hne

theorem exec_activationFallback_of_switched {s : State} (hlive : s.live = true) (h : s.fw.activation = .switched) :
    exec .activationFallback s = .next (endActivation .invalidFwImage (raise (event 0xC014 3 srcController s.fw.before.val
      s.fw.slots[s.fw.active].version) (updateSystem { s with fw.active := s.fw.before, fw.fallbacks := s.fw.fallbacks + 1 }))) := by
  refine (exec_ifLive hlive _).trans ?_
  dsimp only
  rw [if_neg (not_not.mpr h), updateSystem_fw]

theorem exec_activationDrainLimit {s : State} (hlive : s.live = true) (h : s.fw.activation = .draining) :
    exec .activationDrainLimit s = .next (endActivation .fwProhibited s) := (exec_ifLive hlive _).trans (congrArg _ (if_pos h))

theorem exec_activationDrainDone_of_busy {s : State} (hlive : s.live = true) (h : drained s = false) (b : Bool) :
    exec (.activationDrainDone b) s = .next s := by
  refine (exec_ifLive hlive _).trans (congrArg _ ?_)
  dsimp only
  split
  · rfl
  · exact if_pos (by rw [h]; simp)

theorem exec_activationDrainDone_of_drained {s : State} {k : Fin 2} (hlive : s.live = true) (htarget : s.fw.target = some k)
    (hdraining : s.fw.activation = .draining) (hdrained : drained s = true) (b : Bool) : exec (.activationDrainDone b) s = .next (
      if b then updateSystem { activationDiscards s with fw.activation := .switched, fw.active := k, fw.next := none }
      else { activationDiscards s with fw.activation := .loading, fw.badImage := true }) := by
  refine (exec_ifLive hlive _).trans (congrArg _ ?_)
  dsimp only
  rw [htarget]
  exact if_neg (by rw [hdraining, hdrained]; decide)

theorem exec_fwLeaseExpired {s : State} (hresident : s.resident = true) (hbound : fwBound s = true) (hsealing : s.fw.sealing = false) :
    exec .fwLeaseExpired s = .next (releaseBinding 1 srcController s) :=
  congrArg Host.Outcome.next ((if_pos hresident).trans (if_pos (by rw [hbound, hsealing]; rfl)))

/-- Settles O59: each row's exact result, and what it leaves of the firmware part. -/
theorem firmwareStagingAndActivation : Obligations.FirmwareStagingAndActivation := by
  unfold Obligations.FirmwareStagingAndActivation
  refine fun s hlive => ⟨fun p x o hserves hadmit hlen => ⟨exec_fwPieceWrite hserves hadmit hlen, fun hok => ⟨_, exec_fwPieceWrite hserves hadmit hlen, ?piece⟩⟩,
    fun h => ⟨exec_fwSealDone hlive h true, exec_fwSealDone hlive h false⟩,
    fun h => ⟨⟨_, exec_fwSealDone hlive h true, ?sealed⟩, _, exec_fwSealDone hlive h false, ?unsound⟩,
    fun hres hb hs => ⟨_, exec_fwLeaseExpired hres hb hs, ?lease⟩, fun h => ⟨_, exec_activationDrainLimit hlive h, ?limit⟩,
    fun h => ⟨⟨_, exec_activationResume_of_switched hlive h, ?resumed⟩, _, exec_activationFallback_of_switched hlive h, ?fallback⟩,
    exec_fwLeaseExpired, fun k ht hd hdr => ⟨⟨_, exec_activationDrainDone_of_drained hlive ht hd hdr true, ?switched⟩,
      _, exec_activationDrainDone_of_drained hlive ht hd hdr false, rfl, rfl⟩,
    fun h => ⟨exec_activationDrainDone_of_busy hlive h true, exec_activationDrainDone_of_busy hlive h false⟩, exec_activationDrainLimit hlive,
    exec_activationResume_of_loading hlive, fun h => ⟨exec_activationResume_of_switched hlive h, exec_activationFallback_of_switched hlive h⟩⟩
  case piece =>
    rw [deliverPiece_of_accepted hok]
    exact ⟨takePiece_pieces .., rfl⟩
  case sealed =>
    have h := sealSlot_fw s
    refine ⟨?_, (congrArg (fun f : Fw => f.sealing) h :), (congrArg (fun f : Fw => f.source) h :)⟩
    exact (congrArg (fun f : Fw => f.slots[lamb s].state) h).trans (congrArg Slot.state (upd_get_self ..))
  case unsound =>
    obtain ⟨hsource, -, hstate, hsealing⟩ := releaseBinding_releases 0 srcController s
    exact ⟨hstate, hsealing, hsource⟩
  case lease =>
    obtain ⟨hsource, -, hstate, -⟩ := releaseBinding_releases 1 srcController s
    exact ⟨hsource, hstate⟩
  case limit =>
    obtain ⟨r, hfw⟩ := endActivation_fw .fwProhibited s
    rw [hfw]
    exact ⟨rfl, rfl, endActivation_fetchStopped ..⟩
  case resumed =>
    beta_reduce
    rw [leaveFailed_fw]
    obtain ⟨r, hfw⟩ := endActivation_fw .success
      (raise (event 0xC013 2 srcController s.fw.active.val s.fw.slots[s.fw.active].version)
        (relayout s.fw.slots[s.fw.before].dictVersion { s with fw.activations := s.fw.activations + 1, fw.programmed := [] }))
    rw [hfw, raise_fw, relayout_fw]
    exact ⟨rfl, rfl, rfl⟩
  case fallback =>
    obtain ⟨r, hfw⟩ := endActivation_fw .invalidFwImage (raise (event 0xC014 3 srcController s.fw.before.val
      s.fw.slots[s.fw.active].version) (updateSystem { s with fw.active := s.fw.before, fw.fallbacks := s.fw.fallbacks + 1 }))
    rw [hfw, raise_fw, updateSystem_fw]
    exact ⟨rfl, rfl, rfl⟩
  case switched =>
    beta_reduce
    rw [if_pos rfl, updateSystem_fw]
    exact ⟨rfl, rfl, rfl⟩

end Sys2Proof.Machine
end

section
/-! SUPPORT. A late pass of Sheepdog (spec 01), the doorbells (spec 10) and what a strobe leaves in the servo demodulator (spec 05). -/

set_option Elab.async false

namespace Sys2Proof.Machine

/-! ## Sheepdog -/

theorem withdrawDecision_passLate (s : State) (x : ChanId × Bool) : (withdrawDecision s x).sched.passLate = s.sched.passLate := by
  unfold withdrawDecision
  dsimp only
  split
  · rfl
  · split
    · rfl
    · unfold refile
      split <;> rfl

theorem withdrawDecisions_passLate (l : List (ChanId × Bool)) (s : State) : (l.foldl withdrawDecision s).sched.passLate = s.sched.passLate :=
  foldl_field (fun s => s.sched.passLate) withdrawDecision withdrawDecision_passLate l s

theorem withdrawDecisions_counter (l : List (ChanId × Bool)) (s : State) : (l.foldl withdrawDecision s).tick.counter = s.tick.counter :=
  foldl_field (fun s => s.tick.counter) withdrawDecision
    (fun s _ => (withdrawDecision_keeps (.refl s) (Sub.refl _)).samePart (p := .counter) rfl) l s

theorem exec_sheepdogPassLate {s : State} (hlive : s.live = true) (hnow : s.sched.passLateNow = false) (hplace : placementStopped s = false) :
    exec .sheepdogPassLate s = .next (raise (event 0x2001 1 srcController 0 s.tick.counter.toNat)
      { s.sched.fresh.foldl withdrawDecision s with
        sched.fresh := [], sched.ahead := .replicate 8 none, sched.passLateNow := true, sched.passLate := s.sched.passLate + 1 }) := by
  refine (exec_ifLive hlive _).trans (congrArg _ ((if_neg (by rw [hnow, hplace]; decide)).trans ?_))
  dsimp only
  rw [withdrawDecisions_counter, withdrawDecisions_passLate]

/-- Settles O25: the pass's decisions are withdrawn, nothing else. -/
theorem sheepdogPassLateWithdrawsThePass : Obligations.SheepdogPassLateWithdrawsThePass := by
  unfold Obligations.SheepdogPassLateWithdrawsThePass
  refine fun s hlive => ⟨fun hnow hplace => ⟨_, exec_sheepdogPassLate hlive hnow hplace, ?_⟩,
    fun hnow => (exec_ifLive hlive _).trans (congrArg _ (if_pos (by rw [hnow]; rfl)))⟩
  beta_reduce
  rw [raise_sched]
  exact ⟨rfl, rfl, rfl, rfl⟩

/-! ## Doorbells -/

/-- Only what an update makes of the port's present value counts. -/
theorem State.modPort_congr {s : State} {p : PortId} {f g : Port → Port} (h : f (s.port p) = g (s.port p)) : s.modPort p f = s.modPort p g :=
  congrArg (fun q => { s with ports := s.ports.set p q }) h

/-- The submission queues after a write of a tail. -/
def tailWritten (qid tail : Nat) (x : Sq) : Sq := if x.qid = qid && tail < x.size then { x with tail := tail } else x

/-- The completion queues after a write of a head. -/
def headWritten (qid head : Nat) (x : Cq) : Cq :=
  if x.qid = qid && head < x.size && (head + x.size - x.head) % x.size ≤ x.used then
    { x with head := head, used := x.used - (head + x.size - x.head) % x.size }
  else x

theorem exec_sqTailDoorbell {s : State} {p : PortId} (hlive : s.live = true) (hrdy : (s.port p).rdy = true) (qid tail : Nat) :
    exec (.sqTailDoorbell p qid tail) s = .next (s.modPort p (fun x => { x with sqs := (s.port p).sqs.map (tailWritten qid tail) })) :=
  congrArg Host.Outcome.next ((if_pos (by rw [hlive, hrdy]; rfl)).trans (State.modPort_congr rfl))

theorem exec_cqHeadDoorbell {s : State} {p : PortId} (hlive : s.live = true) (hrdy : (s.port p).rdy = true) (qid head : Nat) :
    exec (.cqHeadDoorbell p qid head) s = .next (s.modPort p (fun x => { x with cqs := (s.port p).cqs.map (headWritten qid head) })) :=
  congrArg Host.Outcome.next ((if_pos (by rw [hlive, hrdy]; rfl)).trans (State.modPort_congr rfl))

theorem tailWritten_of_skip {qid tail : Nat} {x : Sq} (h : x.qid ≠ qid ∨ x.size ≤ tail) : tailWritten qid tail x = x :=
  if_neg (by simp only [Bool.and_eq_true, decide_eq_true_eq]; omega)

theorem tailWritten_of_hit {qid tail : Nat} {x : Sq} (hq : x.qid = qid) (ht : tail < x.size) : tailWritten qid tail x = { x with tail := tail } :=
  if_pos (by simp [hq, ht])

theorem headWritten_of_skip {qid head : Nat} {x : Cq}
    (h : x.qid ≠ qid ∨ x.size ≤ head ∨ x.used < (head + x.size - x.head) % x.size) : headWritten qid head x = x :=
  if_neg (by simp only [Bool.and_eq_true, decide_eq_true_eq]; omega)

theorem headWritten_of_hit {qid head : Nat} {x : Cq} (hq : x.qid = qid) (hh : head < x.size) (hu : (head + x.size - x.head) % x.size ≤ x.used) :
    headWritten qid head x = { x with head := head, used := x.used - (head + x.size - x.head) % x.size } :=
  if_pos (by simp [hq, hh, hu])

/-- Settles O36: a queue moves where `tailWritten` or `headWritten` moves it. -/
theorem doorbellsMoveTheirQueues : Obligations.DoorbellsMoveTheirQueues := by
  unfold Obligations.DoorbellsMoveTheirQueues
  refine fun p s qid v hlive hrdy => ⟨⟨_, exec_sqTailDoorbell hlive hrdy qid v, List.length_map .., fun x hx => ⟨fun h => ?_, fun hq ht => ?_⟩⟩,
    ⟨_, exec_cqHeadDoorbell hlive hrdy qid v, List.length_map .., fun x hx => ⟨fun h => ?_, fun hq hh hu => ?_⟩⟩⟩
  · exact List.mem_map.mpr ⟨x, hx, tailWritten_of_skip h⟩
  · exact List.mem_map.mpr ⟨x, hx, tailWritten_of_hit hq ht⟩
  · exact List.mem_map.mpr ⟨x, hx, headWritten_of_skip h⟩
  · exact List.mem_map.mpr ⟨x, hx, headWritten_of_hit hq hh hu⟩

/-! ## The servo demodulator -/

theorem State.modSdm_sdm_ne {s : State} {n j : ChanId} {f : Sdm → Sdm} (h : j ≠ n) : (s.modSdm n f).sdm j = s.sdm j :=
  congrArg Chan.sdm (upd_get_ne _ _ h.symm)

theorem sdm_congr {s t : State} (h : t.chans = s.chans) (j : ChanId) : t.sdm j = s.sdm j :=
  congrArg (fun v : Vector Chan 8 => v[j].sdm) h

/-- What a wedge's sample makes of its demodulator, but for the offsets of wedge 0. -/
def strobed (s : State) (n : ChanId) (f : ServoField) (m : Sample) (x : Sdm) : Sdm :=
  let miss := if m.cls = .good then 0 else (s.sdm n).missRun + 1
  let leaves := (s.sdm n).reacq && m.cls = .good
  let kappa := if m.wedgeOk || leaves then some ((s.tick.number + wedges s - m.wedge) % wedges s) else none
  let wrap := match (s.sdm n).lastTick with | none => false | some t => s.tick.number ≠ (t + 1) % wedges s
  { x with
    pos := m.pos, vel := travel s x m, missRun := miss, reacq := x.reacq && !leaves
    reacqField := if x.reacq && !leaves then reacqField m else none
    wedge := m.wedge
    validRun := if m.wedgeOk && !x.reacq then x.validRun + 1 else 0
    goodRun := if m.cls = .good then x.goodRun + 1 else 0
    intervals := (samTimes (s.sdm n) m).1, sinceSam := (samTimes (s.sdm n) m).2, kappa := kappa, phase := f.phaseNs
    lastTick := some s.tick.number, wraps := x.wraps + BitVec.ofNat 32 (b2n wrap)
    missed := x.missed + BitVec.ofNat 32 (b2n (m.cls ≠ .good)) }

/-- An operation that leaves every demodulator as it is, but for the offsets of wedge 0 of one. -/
def OnlyWedge0 (n : ChanId) (s t : State) : Prop := (∃ w, t.sdm n = { s.sdm n with wedge0 := w }) ∧ ∀ j, j ≠ n → t.sdm j = s.sdm j

theorem OnlyWedge0.of_chans {n : ChanId} {s t : State} (h : t.chans = s.chans) : OnlyWedge0 n s t :=
  ⟨⟨_, sdm_congr h n⟩, fun j _ => sdm_congr h j⟩

theorem wedgeZero_onlyWedge0 (n : ChanId) (m : Sample) (t : Nat) (s : State) : OnlyWedge0 n s (wedgeZero n m t s) := by
  have hset : ∀ (g : Sdm → Sdm) (u : State), u.chans = (s.modSdm n g).chans → (∃ w, g (s.sdm n) = { s.sdm n with wedge0 := w }) →
      OnlyWedge0 n s u := fun g u hu ⟨w, hw⟩ =>
    ⟨⟨w, (sdm_congr hu n).trans ((State.modSdm_sdm_self ..).trans hw)⟩, fun j hj => (sdm_congr hu j).trans (State.modSdm_sdm_ne hj)⟩
  unfold wedgeZero
  split
  · exact .of_chans rfl
  · split
    · exact .of_chans rfl
    · dsimp only
      cases m.wedgeOk
      · split <;> exact .of_chans rfl
      · rw [if_pos (rfl : true = true)]
        split
        · refine hset _ _ (State.modHead_chans ..) ?_
          exact ⟨_, rfl⟩
        · exact hset _ _ rfl ⟨_, rfl⟩

theorem substituteStrobe_chans (n : ChanId) (t : Nat) (s : State) : (substituteStrobe n t s).chans = s.chans :=
  (substituteStrobe_keeps (.refl s) (Sub.refl _)).samePart (p := .chans) rfl

theorem substituteOrMeasure_onlyWedge0 (n : ChanId) (m : Sample) (t : Nat) (s : State) :
    OnlyWedge0 n s (sdmStrobe.substituteOrMeasure n m t s) := by
  unfold sdmStrobe.substituteOrMeasure
  dsimp only
  split
  · obtain ⟨⟨w, hw⟩, hother⟩ := wedgeZero_onlyWedge0 n m t s
    have h := substituteStrobe_chans n t (wedgeZero n m t s)
    exact ⟨⟨w, (sdm_congr h n).trans hw⟩, fun j hj => (sdm_congr h j).trans (hother j hj)⟩
  · exact wedgeZero_onlyWedge0 n m t s

theorem sdmStrobe_sdm (n : ChanId) (f : ServoField) (m : Sample) (s : State) :
    (∃ w, (sdmStrobe n f m s).sdm n = { strobed s n f m (s.sdm n) with wedge0 := w }) ∧ ∀ j, j ≠ n → (sdmStrobe n f m s).sdm j = s.sdm j := by
  have heq : sdmStrobe n f m s =
      (let u := if m.cls = .good then s.modSdm n (strobed s n f m) else chanFault .missedWedge n (s.modSdm n (strobed s n f m))
       sdmStrobe.substituteOrMeasure n m (u.clock.ns + f.phaseNs) u) := rfl
  have hsplit : ∃ t u, u.chans = (s.modSdm n (strobed s n f m)).chans ∧ sdmStrobe n f m s = sdmStrobe.substituteOrMeasure n m t u := by
    refine ⟨_, _, ?_, heq⟩
    split
    · rfl
    · exact raise_chans ..
  obtain ⟨t, u, hu, hstrobe⟩ := hsplit
  obtain ⟨⟨w, hw⟩, hother⟩ := substituteOrMeasure_onlyWedge0 n m t u
  rw [hstrobe]
  refine ⟨⟨w, hw.trans ?_⟩, fun j hj => (hother j hj).trans ((sdm_congr hu j).trans (State.modSdm_sdm_ne hj))⟩
  rw [sdm_congr hu n, State.modSdm_sdm_self]

/-- Settles O27: the demodulator after a strobe is `strobed`. -/
theorem aStrobeLeavesItsSampleInTheDemodulator : Obligations.AStrobeLeavesItsSampleInTheDemodulator := by
  unfold Obligations.AStrobeLeavesItsSampleInTheDemodulator
  intro n f m s
  obtain ⟨⟨w, hw⟩, hother⟩ := sdmStrobe_sdm n f m s
  dsimp only
  rw [hw]
  refine ⟨rfl, rfl, rfl, ?_, rfl, ?_, fun hcoasted => if_pos hcoasted, rfl, hother⟩
  · show _ + BitVec.ofNat 32 (b2n (decide (m.cls ≠ .good))) = _
    by_cases h : m.cls = .good <;> simp [h, b2n]
  · show ((s.sdm n).reacq && !((s.sdm n).reacq && decide (m.cls = .good))) = ((s.sdm n).reacq && decide (m.cls ≠ .good))
    cases (s.sdm n).reacq <;> simp

end Sys2Proof.Machine
end

section
/-! SUPPORT. A sharper frame of the work that goes on with many commands: an unload aborts its sectors without a fault, so that it places
nothing elsewhere; what goes on (`progress`) moves no band, charges no fault and commits no command. -/

set_option Elab.async false

namespace Sys2Proof.Machine

/-! ## Unloads and the work, part by part -/

/-- The parts that an unload may change: links, channels, calibration, the queue, the cache's pins, events, the load queue. -/
def unloadBits : Nat := 0x4000000 ||| 0x1000000 ||| 0x20000 ||| 0x8000 ||| 0x200 ||| 0x40 ||| 0x20

theorem unloadBits_eq : unloadBits = partMask [.links, .chans, .cal, .sched, .cache, .events, .loadQueue] := by decide

theorem abortSector_unfaulted_keeps {pm : Nat} {s0 s : State} {n : ChanId} (hk : Keeps pm s0 s) (hm : Sub unloadBits pm) :
    Keeps pm s0 (abortSector false n s) := by
  unfold abortSector
  dsimp only
  split
  · exact sectorOver_keeps hk
  · rw [if_pos (by rfl)]
    exact State.modWr_keeps (sectorOver_keeps hk)

theorem parkChannel_keeps_unload {pm : Nat} {s0 s : State} {n : ChanId} (hk : Keeps pm s0 s) (hm : Sub unloadBits pm) :
    Keeps pm s0 (parkChannel n s) := by
  have habort : Keeps pm s0 (if ((breakRun 4 n s).wr n).request then abortSector false n (breakRun 4 n s) else breakRun 4 n s) :=
    keeps_ite (abortSector_unfaulted_keeps (breakRun_keeps hk) hm) (breakRun_keeps hk)
  have hstop := modeFrame_keeps (n := n) (i := 16) (stopRead_keeps (n := n) (endRun_keeps (n := n) (keepRest := true) habort))
  unfold parkChannel
  dsimp only
  split
  · exact State.modChan_keeps hstop
  · exact State.modChan_keeps (refile_keeps (unplace_keeps hstop))

theorem unloadChans_keeps_unload {pm : Nat} {s0 s : State} {l : List ChanId} (hk : Keeps pm s0 s) (hm : Sub unloadBits pm) :
    Keeps pm s0 (unloadChans l s) :=
  foldl_keeps (foldl_keeps hk fun _ _ h => keeps_ite h (sendRetract_keeps h)) fun _ _ h => parkChannel_keeps_unload h hm

theorem unloadAll_keeps_unload {pm : Nat} {s0 s : State} (hk : Keeps pm s0 s) (hm : Sub unloadBits pm) : Keeps pm s0 (unloadAll s) :=
  unloadChans_keeps_unload (Keeps.upd rfl rfl rfl rfl rfl rfl hk) hm

/-- The parts that the work may change. -/
def workBits : Nat := unloadBits ||| 0x1 ||| 0x8 ||| 0x400 ||| 0x800 ||| 0x4000 ||| 0x80000

theorem workBits_eq : workBits = partMask [.power, .tick, .links, .chans, .cal, .ports, .flags, .cmds, .sched, .cache, .mule, .events, .loadQueue] := by
  decide

theorem shutdownProgress_keeps_work {pm : Nat} {s0 s : State} (hk : Keeps pm s0 s) (hm : Sub workBits pm) :
    Keeps pm s0 (shutdownProgress s) := by
  have hports := foldl_keeps (l := allPorts) (g := fun s p =>
    if (s.port p).shst = 1 && !s.cmds.ctxs.any (fun c => c.port = p) && (s.port p).committed = [] && !adminOpenOn s p
        && (s.power.holdupEver || !hasDirty s) then
      s.modPort p (fun q => { q with shst := 2 })
    else s) hk fun _ _ h => keeps_ite (State.modPort_keeps h) h
  exact keeps_ite (unloadAll_keeps_unload (Keeps.upd rfl rfl rfl rfl rfl rfl hports) (Sub.of (by decide) hm)) hports

theorem standbyProgress_keeps_work {pm : Nat} {s0 s : State} (hk : Keeps pm s0 s) (hm : Sub workBits pm) :
    Keeps pm s0 (standbyProgress s) :=
  keeps_ite (keeps_ite hk (keeps_ite (destageFirst_keeps hk)
    (enterPhase_keeps (sendSpin_keeps (unloadAll_keeps_unload (Keeps.upd rfl rfl rfl rfl rfl rfl hk) (Sub.of (by decide) hm)))))) hk

theorem thermalProgress_keeps_work {pm : Nat} {s0 s : State} (hk : Keeps pm s0 s) (hm : Sub workBits pm) :
    Keeps pm s0 (thermalProgress s) :=
  keeps_ite (enterPhase_keeps (sendSpin_keeps (unloadAll_keeps_unload (Keeps.upd rfl rfl rfl rfl rfl rfl hk) (Sub.of (by decide) hm)))) hk

theorem speedProgress_keeps_work {pm : Nat} {s0 s : State} (hk : Keeps pm s0 s) (hm : Sub workBits pm) :
    Keeps pm s0 (speedProgress s) :=
  keeps_ite (changeSpeed_keeps (unloadAll_keeps_unload hk (Sub.of (by decide) hm))) hk

theorem progress_keeps_work {pm : Nat} {s0 s : State} (hk : Keeps pm s0 s) (hm : Sub workBits pm) : Keeps pm s0 (progress s) :=
  kickDies_keeps (loadForWork_keeps (speedProgress_keeps_work (shutdownProgress_keeps_work (thermalProgress_keeps_work (standbyProgress_keeps_work
    (endDraining_keeps (servePauses_keeps (releaseRegions_keeps hk))) hm) hm) hm) hm))

theorem progress_work (s : State) : Keeps workBits s (progress s) := progress_keeps_work (.refl s) (Sub.refl _)

theorem unloadAll_unload (s : State) : Keeps unloadBits s (unloadAll s) := unloadAll_keeps_unload (.refl s) (Sub.refl _)

theorem Keeps.sub {m : Nat} {s t : State} (h : Keeps m s t) (hbands : m.testBit Part.bands.bit = false) (hrest : m.testBit Part.sub.bit = false) :
    t.sub = s.sub := by
  have hb : t.sub.bands = s.sub.bands := h.samePart hbands
  have hr : { t.sub with bands := [] } = { s.sub with bands := [] } := h.samePart hrest
  exact (congrArg (fun d : Subsys => { d with bands := t.sub.bands }) hr :).trans (congrArg (fun b => { s.sub with bands := b }) hb :)

@[simp] theorem progress_sub (s : State) : (progress s).sub = s.sub := (progress_work s).sub rfl rfl
@[simp] theorem progress_clock (s : State) : (progress s).clock = s.clock := (progress_work s).samePart (p := .clock) rfl
@[simp] theorem progress_heads (s : State) : (progress s).heads = s.heads := (progress_work s).samePart (p := .heads) rfl
@[simp] theorem progress_env (s : State) : (progress s).env = s.env := (progress_work s).samePart (p := .env) rfl
@[simp] theorem progress_bms (s : State) : (progress s).bms = s.bms := (progress_work s).samePart (p := .bms) rfl
@[simp] theorem progress_faults (s : State) : (progress s).faults = s.faults := (progress_work s).samePart (p := .faults) rfl
@[simp] theorem progress_dict (s : State) : (progress s).dict = s.dict := (progress_work s).dict rfl rfl
@[simp] theorem progress_fw (s : State) : (progress s).fw = s.fw := (progress_work s).samePart (p := .fw) rfl

/-! ## Channels: everything but the write and the read side -/

/-- The write side without its run and what is sent for it: the gate, the preamplifier's faults and the counts that no run changes. -/
@[reducible] def WriteSide.besideRun (w : WriteSide) : WriteSide :=
  { w with
    run := none, fixed := none, fifo := [], armed := false, posFaults := [], sinceInside := 0, pendingExc := [], warmFrom := none, level := 0
    levelPending := none, levelSent := false, writerSent := false, serial := [], aborts := 0, slips := 0, underruns := 0, capClamps := 0 }

/-- The write side without its run and its gate. -/
@[reducible] def WriteSide.lasting (w : WriteSide) : WriteSide :=
  { w.besideRun with request := false, wg := false, wd := none, wroteIn := none, assistReady := false, withdrawAtEnd := false }

/-- A channel without its read side and without the run on its write side. -/
def Chan.besideRuns (c : Chan) : Chan := { c with rwc := (Chan.resetAt 0).rwc, wr := c.wr.besideRun }

/-- A channel without its read side and what lasts of its write side, which is where the work on sectors goes on. -/
def Chan.besideOps (c : Chan) : Chan := { c with rwc := (Chan.resetAt 0).rwc, wr := c.wr.lasting }

/-- The channels without the runs on them. -/
def State.gates (s : State) : ChanId → Chan := fun n => (s.chan n).besideRuns

/-- The channels without the work on sectors. -/
def State.frames (s : State) : ChanId → Chan := fun n => (s.chan n).besideOps

theorem frames_of_gates {s t : State} (h : t.gates = s.gates) : t.frames = s.frames :=
  funext fun n => (congrArg Chan.besideOps (congrFun h n) :)

theorem gates_of_chans {s t : State} (h : t.chans = s.chans) : t.gates = s.gates :=
  congrArg (fun v : Vector Chan 8 => fun n : ChanId => v[n].besideRuns) h

theorem frames_of_chans {s t : State} (h : t.chans = s.chans) : t.frames = s.frames :=
  congrArg (fun v : Vector Chan 8 => fun n : ChanId => v[n].besideOps) h

theorem Keeps.gates {m : Nat} {s t : State} (h : Keeps m s t) (hm : m.testBit Part.chans.bit = false) : t.gates = s.gates :=
  gates_of_chans (h.samePart (p := .chans) hm)

theorem Keeps.frames {m : Nat} {s t : State} (h : Keeps m s t) (hm : m.testBit Part.chans.bit = false) : t.frames = s.frames :=
  frames_of_chans (h.samePart (p := .chans) hm)

theorem modChan_gates {s : State} {n : ChanId} {f : Chan → Chan} (h : ∀ c, (f c).besideRuns = c.besideRuns) : (s.modChan n f).gates = s.gates := by
  funext j
  unfold State.gates
  rw [State.modChan_chan]
  split
  next hj => rw [h, hj]
  next => rfl

theorem modChan_frames {s : State} {n : ChanId} {f : Chan → Chan} (h : ∀ c, (f c).besideOps = c.besideOps) : (s.modChan n f).frames = s.frames := by
  funext j
  unfold State.frames
  rw [State.modChan_chan]
  split
  next hj => rw [h, hj]
  next => rfl

@[simp] theorem modWr_gates (s : State) (n : ChanId) (f : WriteSide → WriteSide) (hf : ∀ w, (f w).besideRun = w.besideRun) :
    (s.modWr n f).gates = s.gates := modChan_gates fun c => congrArg (fun w => { c with rwc := (Chan.resetAt 0).rwc, wr := w }) (hf c.wr)

@[simp] theorem modWr_frames (s : State) (n : ChanId) (f : WriteSide → WriteSide) (hf : ∀ w, (f w).lasting = w.lasting) :
    (s.modWr n f).frames = s.frames := modChan_frames fun c => congrArg (fun w => { c with rwc := (Chan.resetAt 0).rwc, wr := w }) (hf c.wr)

@[simp] theorem modRwc_gates (s : State) (n : ChanId) (f : Rwc → Rwc) : (s.modRwc n f).gates = s.gates := modChan_gates fun _ => rfl
@[simp] theorem modRwc_frames (s : State) (n : ChanId) (f : Rwc → Rwc) : (s.modRwc n f).frames = s.frames := modChan_frames fun _ => rfl

theorem besideRuns_of_gates {s t : State} (h : t.gates = s.gates) (n : ChanId) : (t.chan n).besideRuns = (s.chan n).besideRuns :=
  congrFun h n

theorem besideOps_of_frames {s t : State} (h : t.frames = s.frames) (n : ChanId) : (t.chan n).besideOps = (s.chan n).besideOps :=
  congrFun h n

theorem sdm_of_frames {s t : State} (h : t.frames = s.frames) (n : ChanId) : t.sdm n = s.sdm n :=
  (congrArg Chan.sdm (besideOps_of_frames h n) :)

theorem ite_gates {c : Prop} [Decidable c] {a b : State} {x : ChanId → Chan} (ha : a.gates = x) (hb : b.gates = x) :
    (if c then a else b).gates = x := by
  split
  · exact ha
  · exact hb

theorem ite_frames {c : Prop} [Decidable c] {a b : State} {x : ChanId → Chan} (ha : a.frames = x) (hb : b.frames = x) :
    (if c then a else b).frames = x := by
  split
  · exact ha
  · exact hb

/-! ## The work on runs -/

@[simp] theorem serialFrame_gates (n : ChanId) (r : Bool) (a d : Nat) (s : State) : (serialFrame n r a d s).gates = s.gates := by
  unfold serialFrame
  split
  · rfl
  · exact modWr_gates _ _ _ fun _ => rfl

@[simp] theorem levelFrame_gates (n : ChanId) (l : Nat) (s : State) : (levelFrame n l s).gates = s.gates := by
  simp [levelFrame]

@[simp] theorem flushLevel_gates (n : ChanId) (s : State) : (flushLevel n s).gates = s.gates := by
  unfold flushLevel
  split <;> simp

@[simp] theorem otherFrame_gates (n : ChanId) (r : Bool) (a d : Nat) (s : State) : (otherFrame n r a d s).gates = s.gates := by
  simp [otherFrame]

@[simp] theorem modeFrame_gates (n : ChanId) (i : Nat) (s : State) : (modeFrame n i s).gates = s.gates := by simp [modeFrame]

@[simp] theorem settlePins_gates (s : State) : (settlePins s).gates = s.gates := rfl

@[simp] theorem unplace_gates (n : ChanId) (s : State) : (unplace n s).gates = s.gates := rfl

@[simp] theorem refile_gates (o : MediaOp) (s : State) : (refile o s).gates = s.gates := by
  unfold refile
  split <;> rfl

@[simp] theorem fileOp_gates (k : OpKind) (b : BandKey) (o c t : Nat) (s : State) : (fileOp k b o c t s).gates = s.gates :=
  (fileOp_keeps (.refl s) (Sub.refl _)).gates rfl

@[simp] theorem stopRead_gates (n : ChanId) (s : State) : (stopRead n s).gates = s.gates := by
  unfold stopRead
  split <;> simp

@[simp] theorem recordResult_gates (h : HeadId) (k : CalKind) (t c : Nat) (s : State) : (recordResult h k t c s).gates = s.gates :=
  (recordResult_keeps (.refl s) (Sub.refl _)).gates rfl

@[simp] theorem withdrawRun_gates (p : MediaOp → Bool) (n : ChanId) (s : State) : (withdrawRun p n s).gates = s.gates := by
  unfold withdrawRun
  split <;> simp

@[simp] theorem withdrawOps_gates (p : MediaOp → Bool) (s : State) : (withdrawOps p s).gates = s.gates :=
  foldl_field State.gates _ (fun s n => withdrawRun_gates p n s) _ _

@[simp] theorem dropLines_gates (p : Line → Bool) (s : State) : (dropLines p s).gates = s.gates := rfl

@[simp] theorem releaseWrite_gates (i : Nat) (s : State) : (releaseWrite i s).gates = s.gates := by
  unfold releaseWrite
  extract_lets a
  have ha : a.gates = s.gates := by simp only [a, withdrawOps_gates, dropLines_gates]
  clear_value a
  rw [← ha]
  exact gates_of_chans rfl

@[simp] theorem commitCtx_gates (i : Nat) (st : Status) (a b : Nat) (s : State) : (commitCtx i st a b s).gates = s.gates :=
  (commitCtx_keeps (.refl s) (Sub.refl _)).gates rfl

@[simp] theorem setBand_gates (r : BandRec) (s : State) : (setBand r s).gates = s.gates := (setBand_keeps (.refl s) (Sub.refl _)).gates rfl

@[simp] theorem raise_gates (e : Event) (s : State) : (raise e s).gates = s.gates := gates_of_chans (raise_chans ..)

@[simp] theorem rollback_gates (i : Nat) (k : BandKey) (m : Nat) (p : PortId) (s : State) : (rollback i k m p s).gates = s.gates := by
  have hfold : ∀ l : List Ctx, (l.foldl (fun s c => commitCtx c.id .zoneInvalidWrite 0 0 (releaseWrite c.id s)) s).gates = s.gates := fun l =>
    foldl_field State.gates _ (fun s c => by simp) l s
  unfold rollback
  dsimp only
  split <;> simp [hfold]

@[simp] theorem dropOlder_gates (c : Ctx) (s : State) : (dropOlder c s).gates = s.gates := (dropOlder_keeps (.refl s) (Sub.refl _)).gates rfl

@[simp] theorem endWrite_gates (c : Ctx) (s : State) : (endWrite c s).gates = s.gates := by
  unfold endWrite
  dsimp only
  split
  · simp
  · split <;> simp

@[simp] theorem endRead_gates (c : Ctx) (s : State) : (endRead c s).gates = s.gates := rfl

@[simp] theorem modCtx_gates (i : Nat) (f : Ctx → Ctx) (s : State) : (modCtx i f s).gates = s.gates := rfl

@[simp] theorem endUnacked_gates (c : Ctx) (st : Status) (s : State) : (endUnacked c st s).gates = s.gates := by
  unfold endUnacked
  dsimp only
  split
  · rfl
  · split <;> simp

@[simp] theorem loseLine_gates (k : BandKey) (o c : Nat) (b : BlockKey) (s : State) : (loseLine k o c b s).gates = s.gates :=
  (loseLine_keeps (.refl s) (Sub.refl _)).gates rfl

@[simp] theorem unplaceable_gates (op : MediaOp) (o c : Nat) (st : Status) (s : State) : (unplaceable op o c st s).gates = s.gates := by
  unfold unplaceable
  repeat' split
  all_goals simp

@[simp] theorem movedOff_gates (k : BandKey) (l : List Nat) (s : State) : (movedOff k l s).gates = s.gates :=
  (movedOff_keeps (.refl s) (Sub.refl _)).gates rfl

@[simp] theorem modBand_gates (k : BandKey) (f : BandRec → BandRec) (s : State) : (modBand k f s).gates = s.gates :=
  (modBand_keeps (.refl s) (Sub.refl _)).gates rfl

@[simp] theorem relocate_gates (n : ChanId) (k : BandKey) (o : Nat) (s : State) : (relocate n k o s).2.gates = s.gates := by
  unfold relocate
  dsimp only
  split
  · rfl
  · have hset : ∀ r (m : Mule), { setBand r s with mule := m }.gates = s.gates := fun r m =>
      Eq.trans (b := (setBand r s).gates) (gates_of_chans rfl) (setBand_gates r s)
    rw [settlePins_gates, modWr_gates]
    · refine ite_gates ?_ (hset ..)
      rw [movedOff_gates, modBand_gates]
      exact hset ..
    · exact fun _ => rfl

@[simp] theorem placeElsewhere_gates (n : ChanId) (op : MediaOp) (o : Nat) (s : State) : (placeElsewhere n op o s).gates = s.gates := by
  unfold placeElsewhere
  split
  next ok t h =>
    have ht : t.gates = s.gates := by rw [← relocate_gates n op.band o s, h]
    split
    · exact ht
    · simp [passOffset, ht]

@[simp] theorem setFaultsAt_gates (n : ChanId) (k : BandKey) (p c : Nat) (s : State) : (setFaultsAt n k p c s).gates = s.gates := modWr_gates _ _ _ fun _ => rfl

@[simp] theorem transientFault_gates (k : FaultKind) (u : Option UnitId) (i : Nat) (s : State) : (transientFault k u i s).gates = s.gates :=
  (transientFault_keeps (.refl s) (Sub.refl _)).gates rfl

/-! ## The work on sectors -/

@[simp] theorem serialFrame_frames (n : ChanId) (r : Bool) (a d : Nat) (s : State) : (serialFrame n r a d s).frames = s.frames :=
  frames_of_gates (serialFrame_gates ..)

@[simp] theorem flushLevel_frames (n : ChanId) (s : State) : (flushLevel n s).frames = s.frames := frames_of_gates (flushLevel_gates ..)

@[simp] theorem modeFrame_frames (n : ChanId) (i : Nat) (s : State) : (modeFrame n i s).frames = s.frames := frames_of_gates (modeFrame_gates ..)

@[simp] theorem settlePins_frames (s : State) : (settlePins s).frames = s.frames := frames_of_gates (settlePins_gates ..)

@[simp] theorem unplace_frames (n : ChanId) (s : State) : (unplace n s).frames = s.frames := frames_of_gates (unplace_gates ..)

@[simp] theorem refile_frames (o : MediaOp) (s : State) : (refile o s).frames = s.frames := frames_of_gates (refile_gates ..)

@[simp] theorem fileOp_frames (k : OpKind) (b : BandKey) (o c t : Nat) (s : State) : (fileOp k b o c t s).frames = s.frames :=
  frames_of_gates (fileOp_gates ..)

@[simp] theorem stopRead_frames (n : ChanId) (s : State) : (stopRead n s).frames = s.frames := frames_of_gates (stopRead_gates ..)

@[simp] theorem recordResult_frames (h : HeadId) (k : CalKind) (t c : Nat) (s : State) : (recordResult h k t c s).frames = s.frames :=
  frames_of_gates (recordResult_gates ..)

@[simp] theorem releaseWrite_frames (i : Nat) (s : State) : (releaseWrite i s).frames = s.frames := frames_of_gates (releaseWrite_gates ..)

@[simp] theorem endUnacked_frames (c : Ctx) (st : Status) (s : State) : (endUnacked c st s).frames = s.frames :=
  frames_of_gates (endUnacked_gates ..)

@[simp] theorem unplaceable_frames (op : MediaOp) (o c : Nat) (st : Status) (s : State) : (unplaceable op o c st s).frames = s.frames :=
  frames_of_gates (unplaceable_gates ..)

@[simp] theorem movedOff_frames (k : BandKey) (l : List Nat) (s : State) : (movedOff k l s).frames = s.frames :=
  frames_of_gates (movedOff_gates ..)

@[simp] theorem placeElsewhere_frames (n : ChanId) (op : MediaOp) (o : Nat) (s : State) : (placeElsewhere n op o s).frames = s.frames :=
  frames_of_gates (placeElsewhere_gates ..)

@[simp] theorem setFaultsAt_frames (n : ChanId) (k : BandKey) (p c : Nat) (s : State) : (setFaultsAt n k p c s).frames = s.frames :=
  frames_of_gates (setFaultsAt_gates ..)

@[simp] theorem transientFault_frames (k : FaultKind) (u : Option UnitId) (i : Nat) (s : State) : (transientFault k u i s).frames = s.frames :=
  frames_of_gates (transientFault_gates ..)

@[simp] theorem sectorOver_frames (n : ChanId) (s : State) : (sectorOver n s).frames = s.frames := modWr_frames _ _ _ fun _ => rfl

@[simp] theorem endRun_frames (n : ChanId) (b : Bool) (s : State) : (endRun n b s).frames = s.frames := by
  unfold endRun
  split
  · rfl
  · dsimp only
    split <;> split <;> simp

@[simp] theorem dropCalOps_frames (n : ChanId) (s : State) : (dropCalOps n s).frames = s.frames := by
  unfold dropCalOps
  extract_lets a b q c
  have ha : a.frames = s.frames := ite_frames (endRun_frames ..) rfl
  have hb : b.frames = s.frames := ite_frames ((unplace_frames ..).trans ((modRwc_frames ..).trans ha)) ha
  have hc : c.frames = b.frames := frames_of_chans rfl
  exact ite_frames ((unplace_frames ..).trans (hc.trans hb)) (hc.trans hb)

@[simp] theorem breakRun_frames (c : Nat) (n : ChanId) (s : State) : (breakRun c n s).frames = s.frames := by
  unfold breakRun
  split
  · rfl
  · dsimp only
    split
    · exact dropCalOps_frames ..
    · split
      · exact (recordResult_frames ..).trans (dropCalOps_frames ..)
      · exact (recordResult_frames ..).trans (dropCalOps_frames ..)

@[simp] theorem abortSector_frames (b : Bool) (n : ChanId) (s : State) : (abortSector b n s).frames = s.frames := by
  unfold abortSector
  dsimp only
  split
  · simp
  · split
    · simp
    · split <;> simp

@[simp] theorem gateCheck_frames (b : Bool) (n : ChanId) (s : State) : (gateCheck b n s).frames = s.frames := by
  unfold gateCheck
  repeat' split
  all_goals simp

end Sys2Proof.Machine
end

section
/-! SUPPORT. Retracts, parks and unloads of channels: what they leave in each channel. -/

set_option Elab.async false

namespace Sys2Proof.Machine

/-! ## One channel at a time -/

theorem chan_of_chans {s t : State} (h : t.chans = s.chans) (n : ChanId) : t.chan n = s.chan n := congrArg (fun v : Vector Chan 8 => v[n]) h

theorem Keeps.chan {m : Nat} {s t : State} (h : Keeps m s t) (hm : m.testBit Part.chans.bit = false) (n : ChanId) : t.chan n = s.chan n :=
  chan_of_chans (h.samePart (p := .chans) hm) n

theorem State.modChan_chan_ne {s : State} {n j : ChanId} (f : Chan → Chan) (h : j ≠ n) : (s.modChan n f).chan j = s.chan j :=
  (State.modChan_chan s n j f).trans (if_neg (Ne.symm h))

@[simp] theorem refile_chan (o : MediaOp) (t : State) (j : ChanId) : (refile o t).chan j = t.chan j := (refile_keeps (.refl t) (Sub.refl _)).chan rfl j

@[simp] theorem unplace_chan (n : ChanId) (t : State) (j : ChanId) : (unplace n t).chan j = t.chan j := rfl

@[simp] theorem settlePins_chan (t : State) (j : ChanId) : (settlePins t).chan j = t.chan j := rfl

section
variable {n j : ChanId} {s : State} (hj : j ≠ n)
include hj

theorem modWr_chan_ne (f : WriteSide → WriteSide) : (s.modWr n f).chan j = s.chan j := State.modChan_chan_ne _ hj

theorem modRwc_chan_ne (f : Rwc → Rwc) : (s.modRwc n f).chan j = s.chan j := State.modChan_chan_ne _ hj

theorem modeFrame_chan_ne (i : Nat) : (modeFrame n i s).chan j = s.chan j := by
  have hserial : ∀ (r : Bool) (a d : Nat) (t : State), (serialFrame n r a d t).chan j = t.chan j := fun r a d t => by
    unfold serialFrame
    split
    · rfl
    · exact modWr_chan_ne hj _
  unfold modeFrame otherFrame flushLevel
  rw [hserial]
  split
  · rfl
  · unfold levelFrame
    rw [modWr_chan_ne hj, modWr_chan_ne hj, hserial]

theorem endRun_chan_ne (b : Bool) : (endRun n b s).chan j = s.chan j := by
  have hfile : ∀ (k : OpKind) (b : BandKey) (o c t : Nat) (u : State), (fileOp k b o c t u).chan j = u.chan j := fun k b o c t u =>
    (fileOp_keeps (.refl u) (Sub.refl _)).chan rfl j
  have hover : ∀ t : State, (sectorOver n t).chan j = t.chan j := fun t => modWr_chan_ne hj _
  unfold endRun
  split
  · rfl
  next r _ =>
    extract_lets a b c
    have ha : a.chan j = s.chan j := by rw [settlePins_chan, modWr_chan_ne hj, hover]
    have hb : b.chan j = s.chan j := by rw [unplace_chan, modeFrame_chan_ne hj, ha]
    have hc : c.chan j = s.chan j := by
      unfold c
      split
      · rw [hfile, hb]
      · exact hb
    split
    · rw [refile_chan, hc]
    · exact hc

theorem stopRead_chan_ne : (stopRead n s).chan j = s.chan j := by
  unfold stopRead
  split
  · rfl
  · rw [refile_chan, unplace_chan, modRwc_chan_ne hj]

theorem dropCalOps_chan_ne : (dropCalOps n s).chan j = s.chan j := by
  unfold dropCalOps
  extract_lets a b q c
  have ha : a.chan j = s.chan j := by
    unfold a
    split
    · exact endRun_chan_ne hj false
    · rfl
  have hb : b.chan j = s.chan j := by
    unfold b
    split
    · rw [unplace_chan, modRwc_chan_ne hj, ha]
    · exact ha
  split
  · exact hb
  · exact hb

theorem breakRun_chan_ne (c : Nat) : (breakRun c n s).chan j = s.chan j := by
  have hresult : ∀ (h : HeadId) (k : CalKind) (t c : Nat) (u : State), (recordResult h k t c u).chan j = u.chan j := fun h k t c u =>
    (recordResult_keeps (.refl u) (Sub.refl _)).chan rfl j
  have hdrop : ∀ u : State, u.chan j = s.chan j → (dropCalOps n u).chan j = s.chan j := fun u hu => (dropCalOps_chan_ne hj).trans hu
  unfold breakRun
  split
  · rfl
  · dsimp only
    split
    · exact hdrop _ rfl
    · split
      · exact Eq.trans (hresult ..) (hdrop _ rfl)
      · exact Eq.trans (hresult ..) (hdrop _ rfl)

theorem abortSector_unfaulted_chan_ne : (abortSector false n s).chan j = s.chan j := by
  unfold abortSector
  dsimp only
  split
  · exact modWr_chan_ne hj _
  · rw [if_pos (by rfl)]
    exact (modWr_chan_ne hj _).trans (modWr_chan_ne hj _)

end

/-! ## Parking -/

/-- A channel at rest: unloaded, off track, with its gate and its request low. -/
structure Chan.AtRest (c : Chan) : Prop where
  load : c.load = .unloaded
  offTrack : c.sdm.onTrack = false
  wg : c.wr.wg = false
  request : c.wr.request = false

/-- What parking puts in a channel beside its write and its read side. -/
def Chan.parked (c : Chan) : Chan :=
  { c with
    load := .unloaded
    sdm := { c.sdm with onTrack := false, reacq := false, reacqField := none, goodRun := 0, validRun := 0, intervals := [], sinceSam := none, kappa := none, lastTick := none }
    ce := { c.ce with busy := none, flockOut := none, moving := false, moveNew := false, settleCount := 0 } }

/-- A park is a change of its own channel, on a state with the frames it began with. -/
theorem parkChannel_eq (n : ChanId) (s : State) : ∃ (t : State) (f : Chan → Chan), parkChannel n s = t.modChan n f ∧ t.frames = s.frames ∧
    (∀ j, j ≠ n → t.chan j = s.chan j) ∧ (∀ c, (f c).besideOps = c.besideOps.parked) ∧ ∀ c, (f c).AtRest := by
  unfold parkChannel
  extract_lets a b c d
  have hb : b.frames = s.frames := ite_frames ((abortSector_frames ..).trans (breakRun_frames ..)) (breakRun_frames ..)
  have hbc : ∀ j, j ≠ n → b.chan j = s.chan j := fun j hj => by
    unfold b
    split
    · exact (abortSector_unfaulted_chan_ne hj).trans (breakRun_chan_ne hj 4)
    · exact breakRun_chan_ne hj 4
  have hc : c.frames = s.frames := (modeFrame_frames ..).trans ((stopRead_frames ..).trans ((endRun_frames ..).trans hb))
  have hcc : ∀ j, j ≠ n → c.chan j = s.chan j := fun j hj =>
    (modeFrame_chan_ne hj 16).trans ((stopRead_chan_ne hj).trans ((endRun_chan_ne hj true).trans (hbc j hj)))
  refine ⟨d, _, rfl, ?_, fun j hj => ?_, fun _ => rfl, fun _ => ⟨rfl, rfl, rfl, rfl⟩⟩
  · unfold d
    split
    · exact hc
    · exact (refile_frames ..).trans hc
  · unfold d
    split
    · exact hcc j hj
    · exact (refile_chan ..).trans (hcc j hj)

theorem parkChannel_chan_ne {n j : ChanId} {s : State} (hj : j ≠ n) : (parkChannel n s).chan j = s.chan j := by
  obtain ⟨t, f, heq, -, hne, -⟩ := parkChannel_eq n s
  rw [heq, State.modChan_chan_ne f hj, hne j hj]

theorem parkChannel_atRest (n : ChanId) (s : State) : ((parkChannel n s).chan n).AtRest := by
  obtain ⟨t, f, heq, -, -, -, hrest⟩ := parkChannel_eq n s
  rw [heq, State.modChan_chan_self]
  exact hrest _

theorem parkChannel_besideOps (n : ChanId) (s : State) : ((parkChannel n s).chan n).besideOps = (s.chan n).besideOps.parked := by
  obtain ⟨t, f, heq, hframes, -, hparked, -⟩ := parkChannel_eq n s
  rw [heq, State.modChan_chan_self, hparked, besideOps_of_frames hframes]

theorem parkAll_chan_of_not_mem {j : ChanId} : ∀ {l : List ChanId} {s : State}, j ∉ l → (l.foldl (fun s n => parkChannel n s) s).chan j = s.chan j
  | [], _, _ => rfl
  | n :: l, s, h => by
    rw [List.foldl_cons, parkAll_chan_of_not_mem fun hl => h (List.mem_cons_of_mem n hl)]
    exact parkChannel_chan_ne fun hj => h (hj ▸ List.mem_cons_self)

theorem parkAll_atRest {j : ChanId} (l : List ChanId) : ∀ s : State, j ∈ l → ((l.foldl (fun s n => parkChannel n s) s).chan j).AtRest := by
  induction l with
  | nil => exact fun _ h => absurd h List.not_mem_nil
  | cons n l ih =>
    intro s h
    rw [List.foldl_cons]
    by_cases hl : j ∈ l
    · exact ih _ hl
    · rw [parkAll_chan_of_not_mem hl, (List.mem_cons.1 h).resolve_right hl]
      exact parkChannel_atRest n s

/-! ## Retracts and unloads -/

/-- A field of a channel that a retract does not touch: anything but the access port. -/
def Chan.SansAccess {α : Type} (g : Chan → α) : Prop := ∀ (c : Chan) (r : Option MoveReport), g { c with report := r, access := none } = g c

theorem sendFrame_chan (k : LinkId) (f : DownFrame) (s : State) (j : ChanId) : (sendFrame k f s).chan j = s.chan j :=
  (sendFrame_keeps (.refl s) (Sub.refl _)).chan rfl j

theorem sendRetract_field {α : Type} {g : Chan → α} (hg : Chan.SansAccess g) (k : LinkId) (ns : List ChanId) (s : State) (j : ChanId) :
    g ((sendRetract k ns s).chan j) = g (s.chan j) := by
  unfold sendRetract
  dsimp only
  refine (foldl_field (fun s : State => g (s.chan j)) _ (fun t n => ?_) _ _).trans (congrArg g (sendFrame_chan k _ s j))
  rw [State.modChan_chan]
  split
  next h => rw [hg, h]
  next => rfl

/-- The retracts with which an unload begins. -/
theorem retracts_field {α : Type} {g : Chan → α} (hg : Chan.SansAccess g) (ns : List ChanId) (ks : List LinkId) (s : State) (j : ChanId) :
    g ((ks.foldl (fun s k => let on := ns.filter (fun n => linkOf n = k); if on = [] then s else sendRetract k on s) s).chan j) = g (s.chan j) := by
  refine foldl_field (fun s : State => g (s.chan j)) _ (fun t k => ?_) _ _
  dsimp only
  split
  · rfl
  · exact sendRetract_field hg ..

theorem unloadChans_atRest {l : List ChanId} {j : ChanId} (h : j ∈ l) (s : State) : ((unloadChans l s).chan j).AtRest := parkAll_atRest l _ h

theorem unloadChans_field {α : Type} {g : Chan → α} (hg : Chan.SansAccess g) {l : List ChanId} {j : ChanId} (h : j ∉ l) (s : State) :
    g ((unloadChans l s).chan j) = g (s.chan j) := by
  unfold unloadChans
  dsimp only
  rw [parkAll_chan_of_not_mem h]
  exact retracts_field hg l [0, 1] s j

/-- A field of every channel that neither a retract nor a park touches. -/
theorem unloadChans_stays {α : Type} {g : Chan → α} (hg : Chan.SansAccess g) (hb : ∀ c : Chan, g c.besideOps = g c)
    (hp : ∀ c : Chan, g c.parked = g c) (l : List ChanId) (s : State) (j : ChanId) : g ((unloadChans l s).chan j) = g (s.chan j) := by
  unfold unloadChans
  dsimp only
  refine (foldl_field (fun s : State => g (s.chan j)) _ (fun t n => ?_) l _).trans (retracts_field hg l [0, 1] s j)
  by_cases hj : j = n
  · subst hj
    rw [← hb, parkChannel_besideOps, hp, hb]
  · rw [parkChannel_chan_ne hj]

theorem unloadChans_loadFails (l : List ChanId) (s : State) (j : ChanId) : ((unloadChans l s).chan j).loadFails = (s.chan j).loadFails :=
  unloadChans_stays (g := Chan.loadFails) (fun _ _ => rfl) (fun _ => rfl) (fun _ => rfl) l s j

theorem unloadAll_unloaded {s : State} {n : ChanId} (h : chanFitted s n = true) : ((unloadAll s).chan n).load = .unloaded := by
  unfold unloadAll
  by_cases hload : (s.chan n).load = .unloaded
  · have hout : n ∉ allChans.filter (fun n => chanFitted s n && !unloaded s n) := by
      simp [unloaded, hload]
    exact (unloadChans_field (g := Chan.load) (fun _ _ => rfl) hout _).trans hload
  · exact (unloadChans_atRest (List.mem_filter.2 ⟨List.mem_finRange n, by simp [h, unloaded, hload]⟩) _).load

end Sys2Proof.Machine
end

section
/-! SETTLED. The loss of the index, the loss of a link, the vault's trigger, and loads with their limits (O13, O17, O23, O24). -/

set_option Elab.async false

namespace Sys2Proof.Machine

/-! ## A part and the flags beside it -/

theorem Keeps.wholePower {m : Nat} {s t : State} (h : Keeps m s t) (hpower : m.testBit Part.power.bit = false)
    (hflags : m.testBit Part.flags.bit = false) : t.power = s.power := by
  have hp : SamePart .power s t := h.samePart hpower
  have hf : SamePart .flags s t := h.samePart hflags
  have ha : t.power.alertLow = s.power.alertLow := congrArg (fun x => x.2.2) hf
  exact (congrArg (fun p : Power => { p with alertLow := t.power.alertLow }) hp :).trans (by rw [ha])

theorem Keeps.wholeTick {m : Nat} {s t : State} (h : Keeps m s t) (htick : m.testBit Part.tick.bit = false)
    (hcounter : m.testBit Part.counter.bit = false) : t.tick = s.tick := by
  have ht : SamePart .tick s t := h.samePart htick
  have hc : t.tick.counter = s.tick.counter := h.samePart (p := .counter) hcounter
  exact (congrArg (fun p : Tick => { p with counter := t.tick.counter }) ht :).trans (by rw [hc])

/-! ## A restart of the drive (spec 13, R399) -/

@[simp] theorem unloadAll_power (s : State) : (unloadAll s).power = s.power := (unloadAll_unload s).wholePower rfl rfl
@[simp] theorem unloadAll_faults (s : State) : (unloadAll s).faults = s.faults := (unloadAll_unload s).samePart (p := .faults) rfl
@[simp] theorem unloadAll_tick (s : State) : (unloadAll s).tick = s.tick := (unloadAll_unload s).wholeTick rfl rfl
@[simp] theorem sendSpin_faults (c : Nat) (s : State) : (sendSpin c s).faults = s.faults := (sendSpin_keeps (.refl s) (Sub.refl _)).samePart (p := .faults) rfl
@[simp] theorem sendSpin_tick (c : Nat) (s : State) : (sendSpin c s).tick = s.tick := (sendSpin_keeps (.refl s) (Sub.refl _)).wholeTick rfl rfl
@[simp] theorem sendSpin_chan (c : Nat) (s : State) (n : ChanId) : (sendSpin c s).chan n = s.chan n := sendFrame_chan ..

/-- What a restart of a drive that is ready leaves. -/
structure Restarted (s t : State) : Prop where
  restarting : t.power.restarting = true
  braking : t.power.braking = true
  counted : t.faults.driveRestarts = s.faults.driveRestarts + 1
  unloaded : ∀ n, chanFitted s n = true → (t.chan n).load = .unloaded

theorem driveRestart_of_ready {s : State} (hphase : s.power.phase = .ready) (hrest : s.power.restarting = false) : Restarted s (driveRestart s) := by
  have heq : driveRestart s = sendSpin 2 { unloadAll { s with faults.driveRestarts := s.faults.driveRestarts + 1, power.speedChange := .none } with
      power.restarting := true, power.braking := true } := by
    unfold driveRestart
    rw [if_neg (by simp [hphase, hrest]), hphase]
    rfl
  rw [heq]
  refine ⟨?_, ?_, ?_, fun n hn => ?_⟩
  · rw [sendSpin_power]
  · rw [sendSpin_power]
  · rw [sendSpin_faults, unloadAll_faults]
  · rw [sendSpin_chan]
    exact unloadAll_unloaded (s := { s with faults.driveRestarts := s.faults.driveRestarts + 1, power.speedChange := .none }) hn

theorem driveRestart_tick (s : State) : (driveRestart s).tick = s.tick := by
  unfold driveRestart
  split
  · rfl
  · dsimp only
    rw [sendSpin_tick]
    split <;> simp

theorem driveRestart_indexLosses (s : State) : (driveRestart s).faults.indexLosses = s.faults.indexLosses := by
  unfold driveRestart
  split
  · rfl
  · dsimp only
    rw [sendSpin_faults]
    split <;> simp

/-! ## The loss of the index (spec 01, R43 to R47) -/

theorem loseIndex_answer (s : State) :
    (loseIndex s).tick.indexLost = true ∧ (loseIndex s).tick.lostAt = s.clock.ns ∧ (loseIndex s).tick.state = s.tick.state ∧
    (s.tick.state = .locked → ∀ n, referenceActuator s = some n → (loseIndex s).tick.next = some .substitute ∧ (loseIndex s).tick.refAct = n) ∧
    (s.tick.state = .locked → referenceActuator s = none → (loseIndex s).tick.next = some .holdover) ∧
    (s.tick.state = .acquire → (loseIndex s).tick.next = some .holdover) := by
  have hsame : referenceActuator { s with tick.indexLost := true, tick.lostAt := s.clock.ns, tick.lost10s := false } = referenceActuator s := rfl
  unfold loseIndex
  dsimp only
  rw [hsame]
  cases hstate : s.tick.state <;> cases href : referenceActuator s <;> simp [tickTo]
theorem driveFault_tick (k : FaultKind) (e : Nat) (s : State) : (driveFault k e s).tick = s.tick := raise_tick ..
theorem driveFault_faults (k : FaultKind) (e : Nat) (s : State) : (driveFault k e s).faults = s.faults := raise_faults ..

theorem SameDict.chanFitted {s t : State} (h : SameDict s t) (n : ChanId) : chanFitted t n = chanFitted s n := by
  unfold Machine.chanFitted
  rw [h.cfg, h.2]

/-- Settles O24: INDEX_LOSS sets the next state of the tick generator, and the two limits restart a drive that is ready. -/
theorem indexAndSpeedLossesStartTheirFallbacks : Obligations.IndexAndSpeedLossesStartTheirFallbacks := by
  unfold Obligations.IndexAndSpeedLossesStartTheirFallbacks
  intro s hlive
  refine ⟨fun hlost hstate => ?_, fun hstate => ?_, fun hlost h10 => ?_, fun hspeed hphase hrest => ?_, fun hspeed => ?_⟩
  · exact ⟨_, congrArg Host.Outcome.next (if_pos (by simp [hlive, hlost, hstate])), loseIndex_answer s⟩
  · refine congrArg Host.Outcome.next ((if_pos (by simp [hlive, hstate])).trans ?_)
    simp [tickTo, hstate]
  · refine ⟨_, congrArg Host.Outcome.next (if_neg (by simp [hlive, hlost, h10])), ?_⟩
    generalize hu : driveFault .indexLoss 0 { s with tick.lost10s := true, faults.indexLosses := s.faults.indexLosses + 1 } = u
    have htick : u.tick = { s.tick with lost10s := true } := by rw [← hu]; exact driveFault_tick ..
    have hpower : u.power = s.power := by rw [← hu]; exact driveFault_power ..
    have hfaults : u.faults = { s.faults with indexLosses := s.faults.indexLosses + 1 } := by rw [← hu]; exact driveFault_faults ..
    have hfit : ∀ n, chanFitted u n = chanFitted s n := fun n => by
      rw [← hu]
      exact SameDict.chanFitted ((driveFault_keeps (.refl _) (Sub.refl _)).sameDict rfl rfl rfl) n
    dsimp only
    split
    next hhold =>
      rw [driveRestart_tick, driveRestart_indexLosses, htick, hfaults]
      refine ⟨rfl, rfl, fun _ hphase hrest => ?_⟩
      obtain ⟨h1, -, h3, h4⟩ := driveRestart_of_ready (s := u) (by rw [hpower, hphase]) (by rw [hpower, hrest])
      exact ⟨h1, by rw [h3, hfaults], fun n hn => h4 n (by rw [hfit, hn])⟩
    next hhold =>
      rw [htick, hfaults]
      exact ⟨rfl, rfl, fun h => absurd h (by rw [htick] at hhold; exact hhold)⟩
  · obtain ⟨h1, h2, h3, h4⟩ := driveRestart_of_ready hphase hrest
    exact ⟨_, congrArg Host.Outcome.next (if_pos (by simp [hlive, hspeed])), h1, h2, h3, h4⟩
  · exact congrArg Host.Outcome.next (if_neg (by simp [hspeed]))

end Sys2Proof.Machine
end

section
/-! SETTLED. The loss of a link, the vault's trigger, and loads with their limits (O13, O17, O23). -/

set_option Elab.async false

namespace Sys2Proof.Machine

/-! ## A gate that closes without a fault -/

theorem abortSector_unfaulted_chansOnly {pm : Nat} {s0 s : State} {n : ChanId} (hk : Keeps pm s0 s) (hm : Sub 0x40 pm) :
    Keeps pm s0 (abortSector false n s) := by
  unfold abortSector
  dsimp only
  split
  · exact sectorOver_keeps hk
  · rw [if_pos (by rfl)]
    exact State.modWr_keeps (sectorOver_keeps hk)

theorem gateCheck_unfaulted_chansOnly {pm : Nat} {s0 s : State} {n : ChanId} (hk : Keeps pm s0 s) (hm : Sub 0x40 pm) :
    Keeps pm s0 (gateCheck false n s) :=
  keeps_ite hk (keeps_ite (abortSector_unfaulted_chansOnly hk hm) (State.modWr_keeps hk))

/-! ## The loss of a link (spec 02, R57; spec 13, R399) -/

/-- What the loss of a link does to its channels. -/
theorem linkLossChans_keeps (l : List ChanId) (s : State) : Keeps (0x1040000 ||| 0x40) s (l.foldl (fun s n =>
    let s := transientFault .linkLoss (some (.channel n)) 0 s
    gateCheck false n (s.modSdm n (fun x => { x with onTrack := false }))) s) :=
  foldl_keeps (.refl s) fun _ _ h =>
    gateCheck_unfaulted_chansOnly (State.modSdm_keeps (transientFault_keeps h (Sub.of (by decide) (Sub.refl _))) (Sub.of (by decide) (Sub.refl _)))
      (Sub.of (by decide) (Sub.refl _))

theorem linkLoss_answer {k : LinkId} {s : State} (hlive : s.live = true) (hup : (s.link k).up = true)
    (hspin : k ≠ spindleLink s ∨ s.power.phase ≠ .spinUp) :
    Answers (.linkLoss k) s (fun t => t.links = (s.modLink k (fun l => { l with up := false, lost := true, charged := false, rxSeq := none })).links) := by
  refine ⟨_, congrArg Host.Outcome.next (if_neg (by simp [servoLive_of_live hlive, hup])), ?_⟩
  extract_lets a b
  have hb : Keeps (0x1040000 ||| 0x40) a b := linkLossChans_keeps ((chansOf k).filter (chanFitted a)) a
  have hlink : spindleLink b = spindleLink s := (hb.sameDict rfl rfl rfl).spindleLink
  have hphase : b.power.phase = s.power.phase := congrArg Power.phase (hb.wholePower rfl rfl)
  rw [if_neg]
  · exact hb.samePart (p := .links) rfl
  · rw [hlink, hphase]
    rcases hspin with h | h <;> simp [h]

theorem linkLossLimit_exec {k : LinkId} {s : State} (hlive : s.live = true) (hlost : (s.link k).lost = true) (hcharged : (s.link k).charged = false) :
    exec (.linkLossLimit k) s = .next (
      let u := ((chansOf k).filter (chanFitted s)).foldl (fun s n => charge .linkLoss (.channel n) false 0 s)
        (s.modLink k (fun l => { l with charged := true }))
      if k = spindleLink u then driveRestart u else u) :=
  congrArg Host.Outcome.next (if_neg (by simp [hlive, hlost, hcharged]))

/-- A link without what it sends. -/
def Link.receiving (l : Link) : Link := { l with sent := [], txSeq := 0, sinceTick := 0 }

theorem parkChannel_links (n : ChanId) (s : State) : (parkChannel n s).links = s.links := by
  have hk : Keeps (0x1000000 ||| 0x20000 ||| 0x8000 ||| 0x200 ||| 0x40) s (parkChannel n s) := by
    have habort : Keeps (0x1000000 ||| 0x20000 ||| 0x8000 ||| 0x200 ||| 0x40) s
        (if ((breakRun 4 n s).wr n).request then abortSector false n (breakRun 4 n s) else breakRun 4 n s) :=
      keeps_ite (abortSector_unfaulted_chansOnly (breakRun_keeps (.refl s) (Sub.of (by decide) (Sub.refl _))) (Sub.of (by decide) (Sub.refl _)))
        (breakRun_keeps (.refl s) (Sub.of (by decide) (Sub.refl _)))
    have hstop := modeFrame_keeps (n := n) (i := 16) (stopRead_keeps (n := n) (endRun_keeps (n := n) (keepRest := true) habort
      (Sub.of (by decide) (Sub.refl _))) (Sub.of (by decide) (Sub.refl _))) (Sub.of (by decide) (Sub.refl _))
    unfold parkChannel
    dsimp only
    split
    · exact State.modChan_keeps hstop (Sub.of (by decide) (Sub.refl _))
    · exact State.modChan_keeps (refile_keeps (unplace_keeps hstop (Sub.of (by decide) (Sub.refl _))) (Sub.of (by decide) (Sub.refl _)))
        (Sub.of (by decide) (Sub.refl _))
  exact hk.samePart (p := .links) rfl

theorem sendFrame_receiving (k j : LinkId) (f : DownFrame) (s : State) : ((sendFrame k f s).link j).receiving = (s.link j).receiving := by
  unfold sendFrame sendFrames
  split
  · rfl
  · rw [List.foldl_cons, List.foldl_nil, State.modLink_link]
    split
    next h => rw [h]; rfl
    next => rfl

theorem sendRetract_receiving (k j : LinkId) (ns : List ChanId) (s : State) : ((sendRetract k ns s).link j).receiving = (s.link j).receiving := by
  unfold sendRetract
  dsimp only
  refine (foldl_field (fun s : State => (s.link j).receiving) _ (fun t n => ?_) _ _).trans (sendFrame_receiving ..)
  rfl

theorem unloadChans_receiving (l : List ChanId) (s : State) (j : LinkId) : ((unloadChans l s).link j).receiving = (s.link j).receiving := by
  unfold unloadChans
  rw [foldl_field (fun s : State => (s.link j).receiving) _ fun s n => congrArg (fun v : Vector Link 2 => v[j].receiving) (parkChannel_links n s)]
  refine foldl_field (fun s : State => (s.link j).receiving) _ (fun t k => ?_) _ _
  dsimp only
  split
  · rfl
  · exact sendRetract_receiving ..

theorem driveRestart_receiving (s : State) (j : LinkId) : ((driveRestart s).link j).receiving = (s.link j).receiving := by
  unfold driveRestart
  split
  · rfl
  · dsimp only
    refine (sendFrame_receiving ..).trans ?_
    split <;> exact unloadChans_receiving ..

/-- Settles O23: the loss of a link changes its flags; at the limit each fitted channel is charged once, and the drive restarts on the spindle link. -/
theorem linkLossAndItsLimit : Obligations.LinkLossAndItsLimit := by
  unfold Obligations.LinkLossAndItsLimit
  intro k s hlive
  refine ⟨fun hup hspin => ?_, fun hup => ?_, fun hlost hcharged => ?_, fun hlost hcharged => ?_, fun hcharged => ?_⟩
  · obtain ⟨t, hexec, hlinks⟩ := linkLoss_answer hlive hup hspin
    have hlink : ∀ j, t.link j = (s.modLink k (fun l => { l with up := false, lost := true, charged := false, rxSeq := none })).link j := fun j =>
      congrArg (fun v : Vector Link 2 => v[j]) hlinks
    refine ⟨t, hexec, ?_⟩
    beta_reduce
    rw [hlink k, State.modLink_link_self]
    refine ⟨rfl, rfl, rfl, rfl, fun j hj => ?_⟩
    rw [hlink j, State.modLink_link_ne hj]
    exact ⟨rfl, rfl⟩
  · exact congrArg Host.Outcome.next (if_pos (by simp [hup]))
  · exact ⟨_, linkLossLimit_exec hlive hlost hcharged, rfl⟩
  · refine ⟨_, linkLossLimit_exec hlive hlost hcharged, ?_⟩
    extract_lets u
    have hu : Keeps 0x1040000 (s.modLink k (fun l => { l with charged := true })) u := foldl_keeps (.refl _) fun _ _ h => charge_keeps h (Sub.refl _)
    have hpower : u.power = s.power := hu.wholePower rfl rfl
    have hdict : SameDict s u := hu.sameDict rfl rfl rfl
    have hlink : u.link k = { s.link k with charged := true } :=
      (congrArg (fun v : Vector Link 2 => v[k]) (hu.samePart (p := .links) rfl)).trans (State.modLink_link_self ..)
    rw [hdict.spindleLink]
    split
    next hk =>
      have hr := driveRestart_receiving u k
      have hc : ((driveRestart u).link k).charged = (u.link k).charged := (congrArg Link.charged hr :)
      have hl : ((driveRestart u).link k).lost = (u.link k).lost := (congrArg Link.lost hr :)
      refine ⟨by rw [hc, hlink], by rw [hl, hlink]; exact hlost, fun _ hphase hrest => ?_⟩
      obtain ⟨h1, -, -, h4⟩ := driveRestart_of_ready (s := u) (by rw [hpower, hphase]) (by rw [hpower, hrest])
      exact ⟨h1, fun n hn => h4 n (by rw [hdict.chanFitted, hn])⟩
    next hk => exact ⟨by rw [hlink], by rw [hlink]; exact hlost, fun h => absurd h hk⟩
  · exact congrArg Host.Outcome.next (if_pos (by simp [hcharged]))

/-! ## Loads and their limits (spec 03, R79, R90, R98) -/

theorem holdupCheckRepeat_answer {s : State} (hlive : s.live = true) (hlocked : s.tick.state = .locked) (htest : s.power.holdTesting = false)
    (hphase : s.power.phase ≠ .holdupCheck) (hpassed : s.power.holdupPassed = false) :
    Answers .holdupCheckRepeat s (fun t => t.power.holdTesting = true ∧ Sends s t 0 (.holdtest (cfg s 0x7010 5))) := by
  refine ⟨startHoldtest s, congrArg Host.Outcome.next (if_pos (by simp [hlive, hlocked, htest, hphase, hpassed])), ?_, ?_⟩
  · exact congrArg Power.holdTesting (sendFrame_power ..)
  · exact sendFrame_sends (s := { s with power.holdTesting := true }) 0 _ (running_of_live hlive)

/-- A state with the load of a channel just begun and the rest of the load queue. -/
def loadStarted (n : ChanId) (rest : List ChanId) (s : State) : State :=
  { s with loadQueue := rest }.modChan n (fun c => { c with
    load := .beforeSam, loadDoomed := !(s.link (linkOf n)).up
    ce := { c.ce with mode := .reacquire, uHold := fieldS (servoVal s (0x4110 + n.val) 1) 30 2, busy := none, moving := false, moveNew := false }
    sdm := { c.sdm with goodRun := 0, validRun := 0, missRun := 0, reacq := true, intervals := [], sinceSam := none } })

theorem actuatorLoadStart_exec {s : State} {n : ChanId} {r : List ChanId} (hlive : s.live = true) (hqueue : s.loadQueue = n :: r)
    (hunval : s.dict.unvalidated = false) (hrest : s.power.restarting = false) (hramp : s.power.speedChange ≠ .ramping) :
    exec .actuatorLoadStart s = .next (loadStarted n r s) := by
  show execActuatorLoadStart s = _
  unfold execActuatorLoadStart
  rw [hqueue]
  exact congrArg Host.Outcome.next (if_neg (by simp [hlive, hunval, hrest, hramp]))

theorem loadTimeout_answer {s : State} {n : ChanId} (hlive : s.live = true) (hunloaded : (s.chan n).load ≠ .unloaded)
    (hloaded : (s.chan n).load ≠ .loaded) (hfails : (s.chan n).loadFails < 2) :
    Answers (.loadTimeout n) s (fun t => (t.chan n).load = .unloaded ∧ (t.chan n).loadFails = (s.chan n).loadFails + 1 ∧ n ∈ t.loadQueue) := by
  refine ⟨_, congrArg Host.Outcome.next ((if_neg (by simp [hlive, hunloaded, hloaded])).trans (if_pos (by omega))), ?_, ?_, ?_⟩
  · exact (unloadChans_atRest List.mem_cons_self _).load
  · refine (unloadChans_loadFails [n] _ n).trans ?_
    rw [State.modChan_chan_self]
  · exact List.mem_append_right _ List.mem_cons_self

theorem phaseFails_of_boot_or_mount {s : State} (h : s.power.phase = .boot ∨ s.power.phase = .mount) :
    ∃ u, phaseFails s = failStart 0x0B01 u := by
  unfold phaseFails
  rcases h with h | h <;> rw [h] <;> exact ⟨_, rfl⟩

theorem phaseFails_of_replay {s : State} (h : s.power.phase = .replay) : phaseFails s = startFault 0x0B01 s := by
  unfold phaseFails
  rw [h]

/-- Settles O17: the check's repeat, a load's start and its time limit, and what the limit of each phase leads to. -/
theorem holdupCheckLoadsAndPhaseLimits : Obligations.HoldupCheckLoadsAndPhaseLimits := by
  unfold Obligations.HoldupCheckLoadsAndPhaseLimits
  refine ⟨fun s hlive hlocked htest hphase hpassed => holdupCheckRepeat_answer hlive hlocked htest hphase hpassed,
    fun s n r hlive hqueue hunval hrest hramp => ?_, fun s n hlive hunloaded hloaded hfails => loadTimeout_answer hlive hunloaded hloaded hfails,
    fun s hlive hlate => ?_, fun s hlive hzone hlate hphase => ?_, fun s hlive hzone hlate hphase => ?_⟩
  · have hself : (loadStarted n r s).chan n = _ := State.modChan_chan_self ..
    exact ⟨_, actuatorLoadStart_exec hlive hqueue hunval hrest hramp, rfl, (congrArg Chan.load hself :), (congrArg (fun c => c.ce.mode) hself :),
      (congrArg (fun c => c.sdm.reacq) hself :), (congrArg (fun c => c.sdm.goodRun) hself :), fun m hm => State.modChan_chan_ne _ hm⟩
  · exact ⟨_, congrArg Host.Outcome.next ((if_neg (by simp [hlive])).trans (if_pos hlate)), failStart_phase .., failStart_fault ..⟩
  · obtain ⟨u, hu⟩ := phaseFails_of_boot_or_mount hphase
    exact ⟨_, congrArg Host.Outcome.next ((if_neg (by simp [hlive])).trans ((if_neg (by simp [hzone])).trans ((if_pos hlate).trans hu))),
      failStart_phase .., failStart_fault ..⟩
  · refine ⟨_, congrArg Host.Outcome.next ((if_neg (by simp [hlive])).trans ((if_neg (by simp [hzone])).trans
      ((if_pos hlate).trans (phaseFails_of_replay hphase)))), ?_⟩
    beta_reduce
    rw [startFault_power]
    exact ⟨hphase, rfl⟩

/-! ## The vault's trigger and its retract (spec 02, R73 to R76) -/

theorem triggerVault_live (b : Bool) (s : State) : (triggerVault b s).live = false := by
  unfold triggerVault State.live
  dsimp only
  split <;> simp

theorem triggerVault_vaultAt (b : Bool) (s : State) : (triggerVault b s).power.vaultAt = s.clock.ns := by
  have hclock : (vaultRecords b s).clock = s.clock := (vaultRecords_keeps (.refl s) (Sub.refl _)).samePart (p := .clock) rfl
  unfold triggerVault
  dsimp only
  rw [hclock]

theorem vaultRetract_exec {s : State} (h : s.power.vault = .triggered) : ∃ u : State,
    exec .vaultRetract s = .next (startVault ((allChans.foldl (fun s n => parkChannel n s) u).evr.queue.foldl (fun s _ => writeNext s)
      (allChans.foldl (fun s n => parkChannel n s) u))) :=
  ⟨_, congrArg Host.Outcome.next (if_neg (by simp [h]))⟩

theorem vaultEnd_chan (s : State) (n : ChanId) : (startVault (s.evr.queue.foldl (fun s _ => writeNext s) s)).chan n = s.chan n := by
  refine ((startVault_keeps (.refl _) (Sub.refl _)).chan rfl n).trans ?_
  exact foldl_field (fun s : State => s.chan n) _ (fun t _ => (writeNext_keeps (.refl t) (Sub.refl _)).chan rfl n) _ _

/-- Settles O13: the trigger's own fields, and a retract that leaves every channel at rest. -/
theorem vaultTriggerStopsThePlanes : Obligations.VaultTriggerStopsThePlanes := by
  unfold Obligations.VaultTriggerStopsThePlanes
  refine ⟨fun s b hlive hdue => ?_, fun s b hvault => ?_, fun s hvault => ?_, fun s hvault => ?_⟩
  · refine ⟨triggerVault b s, congrArg Host.Outcome.next (if_pos (by simp [hlive, hdue])), ?_, ?_, rfl, rfl, triggerVault_live b s, rfl, rfl, rfl⟩
    · simp [triggerVault, or_assoc]
    · exact triggerVault_vaultAt b s
  · exact congrArg Host.Outcome.next (if_neg (by simp [State.live, hvault]))
  · exact ⟨_, rfl, rfl, by simp [hvault, b2n]⟩
  · obtain ⟨u, hexec⟩ := vaultRetract_exec hvault
    refine ⟨_, hexec, fun n => ?_⟩
    obtain ⟨hload, -, hwg, hrequest⟩ := parkAll_atRest (j := n) allChans u (List.mem_finRange n)
    have hchan := vaultEnd_chan (allChans.foldl (fun s n => parkChannel n s) u) n
    unfold State.wr
    rw [hchan]
    exact ⟨hwg, hrequest, hload⟩

end Sys2Proof.Machine
end

section
/-! SETTLED. A wait for a cache line, an idle unload, and memory exceptions of the planes (O48). -/

set_option Elab.async false

namespace Sys2Proof.Machine

/-! ## SHADOW lines released early: only for a pause that has waited ALLOC_WAIT (spec 12, R377) -/

/-- The count of SHADOW lines released early. -/
def State.early (s : State) : Word32 := s.cache.shadowEarly

theorem Keeps.early {m : Nat} {s t : State} (h : Keeps m s t) (hm : m.testBit Part.cache.bit = false) : t.early = s.early :=
  congrArg Cache.shadowEarly (h.samePart (p := .cache) hm)

/-- The pauses of writes, and the count of SHADOW lines released early. -/
def State.waits (s : State) : List Pause × Word32 := (s.cache.pauses, s.cache.shadowEarly)

theorem Keeps.waits {m : Nat} {s t : State} (h : Keeps m s t) (hm : m.testBit Part.cache.bit = false) : t.waits = s.waits :=
  congrArg (fun c : Cache => (c.pauses, c.shadowEarly)) (h.samePart (p := .cache) hm)

theorem early_of_waits {s t : State} (h : t.waits = s.waits) : t.early = s.early := congrArg Prod.snd h

theorem ite_field {α : Type} {g : State → α} {c : Prop} [Decidable c] {a b : State} {x : α} (ha : g a = x) (hb : g b = x) :
    g (if c then a else b) = x := by
  split
  · exact ha
  · exact hb

theorem endRun_waits (n : ChanId) (b : Bool) (s : State) : (endRun n b s).waits = s.waits := by
  have hfile : ∀ (k : OpKind) (b : BandKey) (o c t : Nat) (u : State), (fileOp k b o c t u).waits = u.waits := fun k b o c t u =>
    (fileOp_keeps (.refl u) (Sub.refl _)).waits rfl
  have hrefile : ∀ (o : MediaOp) (u : State), (refile o u).waits = u.waits := fun o u => (refile_keeps (.refl u) (Sub.refl _)).waits rfl
  have hmode : ∀ (i : Nat) (u : State), (modeFrame n i u).waits = u.waits := fun i u => (modeFrame_keeps (.refl u) (Sub.refl _)).waits rfl
  unfold endRun
  split
  · rfl
  · extract_lets a b c
    have hb : b.waits = s.waits := (hmode 14 a :)
    have hc : c.waits = s.waits := ite_field (g := State.waits) ((hfile ..).trans hb) hb
    exact ite_field (g := State.waits) ((hrefile ..).trans hc) hc

theorem dropCalOps_waits (n : ChanId) (s : State) : (dropCalOps n s).waits = s.waits := by
  unfold dropCalOps
  extract_lets a b q c
  have ha : a.waits = s.waits := ite_field (g := State.waits) (endRun_waits ..) rfl
  have hb : b.waits = s.waits := ite_field (g := State.waits) ha ha
  exact ite_field (g := State.waits) hb hb

theorem breakRun_waits (c : Nat) (n : ChanId) (s : State) : (breakRun c n s).waits = s.waits := by
  have hresult : ∀ (h : HeadId) (k : CalKind) (t c : Nat) (u : State), (recordResult h k t c u).waits = u.waits := fun h k t c u =>
    (recordResult_keeps (.refl u) (Sub.refl _)).waits rfl
  unfold breakRun
  split
  · rfl
  · dsimp only
    split
    · exact dropCalOps_waits ..
    · split
      · exact (hresult ..).trans (dropCalOps_waits ..)
      · exact (hresult ..).trans (dropCalOps_waits ..)

theorem parkChannel_waits (n : ChanId) (s : State) : (parkChannel n s).waits = s.waits := by
  have hrefile : ∀ (o : MediaOp) (u : State), (refile o u).waits = u.waits := fun o u => (refile_keeps (.refl u) (Sub.refl _)).waits rfl
  unfold parkChannel
  extract_lets a b c d
  have hb : b.waits = s.waits := ite_field (g := State.waits)
    (((abortSector_unfaulted_chansOnly (.refl a) (Sub.refl _)).waits rfl).trans (breakRun_waits ..)) (breakRun_waits ..)
  have hc : c.waits = s.waits :=
    ((modeFrame_keeps (.refl _) (Sub.refl _)).waits rfl).trans (((stopRead_keeps (.refl _) (Sub.refl _)).waits rfl).trans ((endRun_waits ..).trans hb))
  refine Eq.trans (b := d.waits) rfl ?_
  unfold d
  split
  · exact hc
  · exact (hrefile ..).trans hc

theorem unloadAll_waits (s : State) : (unloadAll s).waits = s.waits := by
  unfold unloadAll unloadChans
  rw [foldl_field State.waits _ fun s n => parkChannel_waits n s]
  refine foldl_field State.waits _ (fun t k => ?_) _ _
  exact ite_field (g := State.waits) rfl ((sendRetract_keeps (.refl t) (Sub.refl _)).waits rfl)

theorem receiveFrom_early (id : Nat) : ∀ (l : List Block) (s : State), (receiveFrom id l s).early = s.early := by
  have hpause : ∀ (q : Nat) (r : List Block) (s : State), (pauseWrite id q r s).early = s.early := fun q r s => by
    unfold pauseWrite pauseDestage
    dsimp only
    split <;> rfl
  have halloc : ∀ (mk : Fin 16 → Line) (b : BlockKey) (s s' : State), allocLine mk b s = some s' → s'.early = s.early := fun mk b s s' h => by
    obtain ⟨w, -, rfl⟩ := Option.map_eq_some_iff.1 h
    rfl
  intro l
  induction l with
  | nil => exact fun s => rfl
  | cons d r ih =>
    intro s
    rw [receiveFrom]
    split
    · rfl
    · dsimp only
      split
      · split
        next s' h => rw [ih, (wantSupersede_keeps (.refl s') (Sub.refl _)).early rfl, halloc _ _ _ _ h]
        · exact hpause ..
      · exact hpause ..

theorem servePause_early (id : Nat) (s : State) : (servePause id s).early = s.early := by
  have hmedia : ∀ u : State, (toMedia id u).early = u.early := fun u => by
    unfold toMedia
    split
    · rfl
    · exact ite_field (g := State.early) ((fileSpans_keeps (.refl _) (Sub.refl _)).early rfl) rfl
  unfold servePause
  split
  · rfl
  · split
    · exact (hmedia _).trans (receiveFrom_early id _ { s with cache.pauses := _ })
    · unfold pauseDestage
      split <;> rfl

/-- What goes on with many commands serves the pauses, and nothing else of them. -/
theorem progress_waits (s : State) : (progress s).waits = (servePauses (releaseRegions s)).waits := by
  have hdrain : ∀ u : State, (endDraining u).waits = u.waits := fun u => ite_field (g := State.waits) rfl rfl
  have hspin : ∀ u : State, (enterPhase .standby (sendSpin 0 (unloadAll u))).waits = u.waits := fun u =>
    ((enterPhase_keeps (.refl _) (Sub.refl _)).waits rfl).trans (((sendSpin_keeps (.refl _) (Sub.refl _)).waits rfl).trans (unloadAll_waits u))
  have hstandby : ∀ u : State, (standbyProgress u).waits = u.waits := fun u =>
    ite_field (g := State.waits) (ite_field (g := State.waits) rfl (ite_field (g := State.waits) rfl (hspin _))) rfl
  have hthermal : ∀ u : State, (thermalProgress u).waits = u.waits := fun u => ite_field (g := State.waits) (hspin _) rfl
  have hshutdown : ∀ u : State, (shutdownProgress u).waits = u.waits := fun u => by
    unfold shutdownProgress
    extract_lets a
    have ha : a.waits = u.waits := foldl_field State.waits _ (fun t p => by split <;> rfl) _ _
    clear_value a
    exact ite_field (g := State.waits) ((unloadAll_waits _).trans ha) ha
  have hspeed : ∀ u : State, (speedProgress u).waits = u.waits := fun u =>
    ite_field (g := State.waits) (((changeSpeed_keeps (.refl _) (Sub.refl _)).waits rfl).trans (unloadAll_waits u)) rfl
  unfold progress
  rw [(kickDies_keeps (.refl _) (Sub.refl _)).waits rfl, (loadForWork_keeps (.refl _) (Sub.refl _)).waits rfl, hspeed, hshutdown, hthermal,
    hstandby, hdrain]

/-- Of what goes on with many commands, only the early releases themselves count in SHADOW_EARLY. -/
theorem progress_early (s : State) :
    (progress s).early = ((releaseRegions s).cache.pauses.foldl (fun s p => releaseEarly p s) (releaseRegions s)).early :=
  (early_of_waits (progress_waits s)).trans (foldl_field State.early _ (fun s id => servePause_early id s) _ _)

/-- A pause whose wait has passed. -/
def Pause.expire (p : Pause) : Pause := { p with expired := true }

theorem releaseEarly_of_unexpired {l : List Pause} (h : ∀ y ∈ l, y.expired = false) (s : State) : l.foldl (fun s p => releaseEarly p s) s = s := by
  induction l generalizing s with
  | nil => rfl
  | cons y l ih =>
    have hy : releaseEarly y s = s := if_pos (by rw [h y List.mem_cons_self]; rfl)
    rw [List.foldl_cons, hy]
    exact ih (fun z hz => h z (List.mem_cons_of_mem y hz)) s

theorem expireOne_of_not_mem {p : Pause} {l : List Pause} (h : p ∉ l) : l.map (fun y => if y = p then y.expire else y) = l :=
  (List.map_congr_left fun _ hy => if_neg fun heq : _ = p => h (heq ▸ hy)).trans (List.map_id' l)

/-- With one pause expired among pauses that are not, its set's SHADOW line is the one released. -/
theorem releases_of_expired {p : Pause} {x : Line} {l : List Pause} {s : State} (hcount : l.count p = 1) (hfresh : ∀ y ∈ l, y.expired = false)
    (hdirty : (setLines s p.set).any (fun l => l.state = .dirty) = false) (hshadow : (setLines s p.set).find? (fun l => l.state = .shadow) = some x) :
    ((l.map (fun y => if y = p then y.expire else y)).foldl (fun s p => releaseEarly p s) s).early = s.early + 1 := by
  obtain ⟨a, b, rfl⟩ := List.mem_iff_append.1 (List.count_pos_iff.1 (by omega : 0 < l.count p))
  rw [List.count_append, List.count_cons_self] at hcount
  have ha : p ∉ a := List.count_eq_zero.1 (by omega)
  have hb : p ∉ b := List.count_eq_zero.1 (by omega)
  have hone : releaseEarly p.expire s = { mapLines (fun l => if sameLine l x then { l with state := .clean } else l) s with
      cache.shadowEarly := s.cache.shadowEarly + 1
      cache.pauses := s.cache.pauses.map (fun y => if y = p.expire then { y with expired := false } else y) } := by
    unfold releaseEarly
    rw [if_neg (by simp [Pause.expire, hdirty])]
    show (match (setLines s p.set).find? (fun l => l.state = .shadow) with | none => s | some x => _) = _
    rw [hshadow]
  rw [List.map_append, List.map_cons, if_pos rfl, expireOne_of_not_mem ha, expireOne_of_not_mem hb, List.foldl_append,
    releaseEarly_of_unexpired fun y hy => hfresh y (List.mem_append_left _ hy), List.foldl_cons, hone,
    releaseEarly_of_unexpired fun y hy => hfresh y (List.mem_append_right _ (List.mem_cons_of_mem p hy))]
  rfl

theorem releaseRegions_cache (s : State) : (releaseRegions s).cache = s.cache := (releaseRegions_keeps (.refl s) (Sub.refl _)).samePart (p := .cache) rfl

theorem allocWaitExpired_exec {q : Fin 6400} {p : Pause} {s : State} (hlive : s.live = true)
    (hfind : s.cache.pauses.find? (fun p => p.set = q.val && p.twelve && !p.expired) = some p) : exec (.allocWaitExpired q) s =
      .next (progress { s with cache.pauses := s.cache.pauses.map (fun y => if y = p then { y with expired := true } else y) }) := by
  show execAllocWaitExpired q s = _
  unfold execAllocWaitExpired
  rw [hfind]
  exact congrArg Host.Outcome.next (if_pos hlive)

theorem allocWaitExpired_early {q : Fin 6400} {p : Pause} {x : Line} {s : State}
    (hfind : s.cache.pauses.find? (fun p => p.set = q.val && p.twelve && !p.expired) = some p) (hcount : s.cache.pauses.count p = 1)
    (hfresh : ∀ y ∈ s.cache.pauses, y.expired = false) (hdirty : (setLines s q.val).any (fun l => l.state = .dirty) = false)
    (hshadow : (setLines s q.val).find? (fun l => l.state = .shadow) = some x) :
    (progress { s with cache.pauses := s.cache.pauses.map (fun y => if y = p then { y with expired := true } else y) }).cache.shadowEarly =
      s.cache.shadowEarly + 1 := by
  have hmark : (fun y => if y = p then { y with expired := true } else y) = fun y => if y = p then y.expire else y := rfl
  rw [hmark]
  have hset : p.set = q.val := by
    have h := List.find?_some hfind
    simp only [Bool.and_eq_true, decide_eq_true_eq] at h
    exact h.1.1
  generalize hu : { s with cache.pauses := s.cache.pauses.map (fun y => if y = p then y.expire else y) } = u
  have hcache : (releaseRegions u).cache = { s.cache with pauses := s.cache.pauses.map (fun y => if y = p then y.expire else y) } := by
    rw [releaseRegions_cache, ← hu]
  have hlines : ∀ n, setLines (releaseRegions u) n = setLines s n := fun n => by
    unfold setLines
    rw [hcache]
  refine (progress_early u).trans ?_
  rw [hcache, releases_of_expired hcount hfresh (by rw [hlines, hset, hdirty]) (by rw [hlines, hset, hshadow])]
  unfold State.early
  rw [hcache]

/-! ## Memory exceptions of the planes (spec 13, R400) -/

theorem commitCtx_fetchStopped (id : Nat) (st : Status) (a b : Nat) (s : State) : (commitCtx id st a b s).cmds.fetchStopped = s.cmds.fetchStopped := by
  have hreleases : ∀ (p : PortId) (u : State), (releaseAborts p id u).cmds = u.cmds := fun p u =>
    (releaseAborts_keeps (.refl u) (Sub.refl _)).samePart (p := .cmds) rfl
  have hcount : ∀ (c : Ctx) (u : State), (countHost c st u).cmds = u.cmds := fun c u => (countHost_keeps (.refl u) (Sub.refl _)).samePart (p := .cmds) rfl
  have hcompletion : ∀ (p : PortId) (c : Completion) (u : State), (commitCompletion p c u).cmds = u.cmds := fun p c u =>
    (commitCompletion_keeps (.refl u) (Sub.refl _)).samePart (p := .cmds) rfl
  unfold commitCtx
  split
  · rfl
  · split
    · rfl
    · split
      · rfl
      · rw [hreleases, hcount, hcompletion]
        rfl

theorem releaseWrite_cmds (id : Nat) (s : State) : (releaseWrite id s).cmds = s.cmds := (releaseWrite_keeps (.refl s) (Sub.refl _)).samePart (p := .cmds) rfl

theorem setBand_cmds (r : BandRec) (s : State) : (setBand r s).cmds = s.cmds := (setBand_keeps (.refl s) (Sub.refl _)).samePart (p := .cmds) rfl

theorem rollback_fetchStopped (id : Nat) (k : BandKey) (m : Nat) (p : PortId) (s : State) :
    (rollback id k m p s).cmds.fetchStopped = s.cmds.fetchStopped := by
  have hfold : ∀ l : List Ctx, (l.foldl (fun s c => commitCtx c.id .zoneInvalidWrite 0 0 (releaseWrite c.id s)) s).cmds.fetchStopped =
      s.cmds.fetchStopped := fun l =>
    foldl_field (fun s : State => s.cmds.fetchStopped) _ (fun s c => (commitCtx_fetchStopped ..).trans (congrArg Cmds.fetchStopped (releaseWrite_cmds ..))) l s
  unfold rollback
  dsimp only
  split
  · rw [setBand_cmds, hfold]
  · rw [raise_cmds, setBand_cmds, hfold]

theorem endWrite_fetchStopped (c : Ctx) (s : State) : (endWrite c s).cmds.fetchStopped = s.cmds.fetchStopped := by
  have hdrop : (dropOlder c (releaseWrite c.id s)).cmds = s.cmds :=
    Eq.trans ((dropOlder_keeps (.refl _) (Sub.refl _)).samePart (p := .cmds) rfl) (releaseWrite_cmds ..)
  unfold endWrite
  dsimp only
  split
  · rw [hdrop]
  · split
    · rw [rollback_fetchStopped, hdrop]
    · rw [hdrop]

theorem endUnacked_fetchStopped (c : Ctx) (st : Status) (s : State) : (endUnacked c st s).cmds.fetchStopped = s.cmds.fetchStopped := by
  unfold endUnacked
  split
  · rfl
  · dsimp only
    rw [commitCtx_fetchStopped]
    split
    · rw [endWrite_fetchStopped]
      rfl
    · rfl

/-- What an exception of a plane leaves, whether or not it comes again too soon. -/
theorem endUnackedAll_faults (l : List Ctx) (s : State) : (l.foldl (fun s c =>
    match ctxOf s c.id with | none => s | some c => if c.committed then s else endUnacked c .internalError s) s).faults = s.faults := by
  refine foldl_field State.faults _ (fun t c => ?_) l s
  split
  · rfl
  · exact ite_field (g := State.faults) rfl ((endUnacked_keeps (.refl t) (Sub.refl _)).samePart (p := .faults) rfl)

theorem endUnackedAll_fetchStopped (l : List Ctx) (s : State) : (l.foldl (fun s c =>
    match ctxOf s c.id with | none => s | some c => if c.committed then s else endUnacked c .internalError s) s).cmds.fetchStopped =
    s.cmds.fetchStopped := by
  refine foldl_field (fun s : State => s.cmds.fetchStopped) _ (fun t c => ?_) l s
  split
  · rfl
  · split
    · rfl
    · exact endUnacked_fetchStopped ..

theorem enterFailed_faults (s : State) : (enterFailed s).faults = s.faults := (enterFailed_keeps (.refl s) (Sub.refl _)).samePart (p := .faults) rfl

theorem dataPlaneRestart_faults (s : State) : (dataPlaneRestart s).faults =
    { s.faults with planeRestarts := s.faults.planeRestarts + 1, dataRestart := some (powerOn s), dataDown := true } := by
  unfold dataPlaneRestart
  refine ite_field (g := State.faults) ((enterFailed_faults _).trans ?_) ?_ <;>
    exact (endUnackedAll_faults ..).trans (driveFault_faults ..)

theorem dataPlaneRestart_fetchStopped (s : State) : (dataPlaneRestart s).cmds.fetchStopped = true := by
  have hfault : ∀ u : State, (driveFault .memException 0 u).cmds = u.cmds := fun u => raise_cmds ..
  have hfailed : ∀ u : State, (enterFailed u).cmds = u.cmds := fun u => (enterFailed_keeps (.refl u) (Sub.refl _)).samePart (p := .cmds) rfl
  unfold dataPlaneRestart
  extract_lets again oldCmds oldFaults b c
  have hb : b.cmds.fetchStopped = true := by
    unfold b
    rw [hfault]
  have hc : c.cmds.fetchStopped = true := (endUnackedAll_fetchStopped ..).trans hb
  refine ite_field (g := fun s : State => s.cmds.fetchStopped) ?_ hc
  rw [hfailed, hc]

/-- The parts that a restart of the management plane changes on the way. -/
def mgmtRestartBits : Nat := 0x1028240 ||| 0x600c00 ||| 0x1200000 ||| 0x1000c01

theorem gateCheckAll_unfaulted_keeps {pm : Nat} {s0 s : State} (hk : Keeps pm s0 s) (hm : Sub 0x40 pm) : Keeps pm s0 (gateCheckAll false s) :=
  foldl_keeps hk fun _ _ h => gateCheck_unfaulted_chansOnly h hm

theorem mgmtPlaneRestart_keeps_rest {pm : Nat} (s : State) (hm : Sub mgmtRestartBits pm) : Keeps pm (driveFault .memException 1 { s with
    faults.planeRestarts := s.faults.planeRestarts + 1, faults.mgmtRestart := some (powerOn s), faults.mgmtDown := true, env.held := true })
    (mgmtPlaneRestart s) := by
  unfold mgmtPlaneRestart
  dsimp only
  generalize driveFault .memException 1 _ = a
  have hbusy : Keeps pm a (answerBusy (stopRuns a)) := answerBusy_keeps (stopRuns_keeps (.refl a) (Sub.of (by decide) hm)) (Sub.of (by decide) hm)
  generalize answerBusy (stopRuns a) = b at hbusy ⊢
  have hstaging : Keeps pm a (discardStaging 4 srcController { b with dict.stage := .idle }) :=
    discardStaging_keeps (Keeps.upd rfl rfl rfl rfl rfl rfl hbusy) (Sub.of (by decide) hm)
  refine keeps_ite (enterFailed_keeps (gateCheckAll_unfaulted_keeps ?_ (Sub.of (by decide) hm)) (Sub.of (by decide) hm))
    (gateCheckAll_unfaulted_keeps ?_ (Sub.of (by decide) hm))
  all_goals
    split
    · exact hbusy
    · exact hstaging

theorem mgmtPlaneRestart_faults (s : State) : (mgmtPlaneRestart s).faults =
    { s.faults with planeRestarts := s.faults.planeRestarts + 1, mgmtRestart := some (powerOn s), mgmtDown := true } :=
  Eq.trans ((mgmtPlaneRestart_keeps_rest s (Sub.refl _)).samePart (p := .faults) rfl) (driveFault_faults ..)

theorem mgmtPlaneRestart_held (s : State) : (mgmtPlaneRestart s).env.held = true := by
  have henv : (mgmtPlaneRestart s).env = { s.env with held := true } :=
    Eq.trans ((mgmtPlaneRestart_keeps_rest s (Sub.refl _)).samePart (p := .env) rfl) (raise_env ..)
  rw [henv]

/-- Settles O48: a wait marked and served, an idle unload, and the two planes' exceptions with the end of their restarts. -/
theorem cacheWaitsIdleUnloadsAndPlaneRestarts : Obligations.CacheWaitsIdleUnloadsAndPlaneRestarts := by
  unfold Obligations.CacheWaitsIdleUnloadsAndPlaneRestarts
  intro s hlive
  refine ⟨fun q p hfind => ⟨allocWaitExpired_exec hlive hfind, fun x hcount hfresh hdirty hshadow =>
      ⟨_, allocWaitExpired_exec hlive hfind, ?_⟩⟩, fun q hfind => ?_,
    fun n hphase hps hload hidle => ?_, fun n hps => ?_, fun hdown => ?_, fun hdown => ?_, fun hdown => ?_, fun hdown => ?_, ?_⟩
  · exact allocWaitExpired_early hfind hcount hfresh hdirty hshadow
  · show execAllocWaitExpired q s = _
    unfold execAllocWaitExpired
    rw [hfind]
  · exact ⟨_, congrArg Host.Outcome.next (if_pos (by simp [hlive, hphase, hps, hload, hidle])), (unloadChans_atRest List.mem_cons_self s).load, rfl⟩
  · exact congrArg Host.Outcome.next (if_neg (by simp [hps]))
  · have hexec : exec .memExceptionDataPlane s = .next (dataPlaneRestart s) := (exec_ifLive hlive _).trans (by rw [hdown]; rfl)
    refine ⟨hexec, _, hexec, ?_⟩
    beta_reduce
    rw [dataPlaneRestart_faults]
    exact ⟨rfl, dataPlaneRestart_fetchStopped s, rfl, rfl⟩
  · have hdone : exec (.planeRestartDone .dataPlane) s =
        .next (rebuildDestage { s with faults.dataDown := false, cmds.fetchStopped := decide (s.fw.activation ≠ .none) }) :=
      (exec_ifLive hlive _).trans (by rw [hdown]; rfl)
    have hkeeps := fun u => rebuildDestage_keeps (.refl u) (Sub.refl _)
    refine ⟨(exec_ifLive hlive _).trans (by rw [hdown]; rfl), hdone, _, hdone, ?_⟩
    beta_reduce
    rw [(hkeeps _).samePart (p := .faults) rfl, (hkeeps _).samePart (p := .cmds) rfl]
    exact ⟨rfl, rfl, rfl⟩
  · have hexec : exec .memExceptionMgmtPlane s = .next (mgmtPlaneRestart s) := (exec_ifLive hlive _).trans (by rw [hdown]; rfl)
    refine ⟨hexec, _, hexec, ?_⟩
    beta_reduce
    rw [mgmtPlaneRestart_faults]
    exact ⟨rfl, mgmtPlaneRestart_held s, rfl, rfl⟩
  · exact (exec_ifLive hlive _).trans (by rw [hdown]; rfl)
  · exact exec_ifLive hlive _

end Sys2Proof.Machine
end

section
/-! SETTLED. A wedge strobe of the last actuator that loads, with no actuator left that serves (O26). -/

set_option Elab.async false

namespace Sys2Proof.Machine

/-- The start-up's last load on a drive of which every channel is retired: the strobe that completes it ends the start-up, and the retract
forgets when the actuator was last seen. -/
def lastLoad : State :=
  { State.reset with power.running := true, power.phase := .headLoad, faults.retiredChannels := 0xFF }.modChan 0
    (fun c => { c with load := .settling, ce := { c.ce with mode := .follow } })

/-- A wedge without a signal. -/
def silentField : ServoField := ⟨0, [], 0, [], [], 0, 0, 0, 0, 0⟩

/-- A state after a command, as far as one looks at it. -/
def seenAfter {α : Type} (c : Instr) (s : State) (g : State → α) : Option α :=
  match exec c s with
  | .next t => some (g t)
  | _ => none

theorem seenAfter_of_next {α : Type} {c : Instr} {s t : State} (g : State → α) (h : exec c s = .next t) : seenAfter c s g = some (g t) := by
  unfold seenAfter
  rw [h]

theorem lastLoad_strobe_forgets : seenAfter (.wedgeStrobe 0 silentField) lastLoad (fun t => (t.sdm 0).lastTick) = some none := by decide +kernel

theorem lastLoad_strobe_lastTick {t : State} (h : exec (.wedgeStrobe 0 silentField) lastLoad = .next t) : (t.sdm 0).lastTick = none :=
  Option.some.inj ((seenAfter_of_next (fun t => (t.sdm 0).lastTick) h).symm.trans lastLoad_strobe_forgets)

/-- Refutes O26: the strobe takes the wedge, but the load that it completes leads to FAILED with every actuator retracted, so no tick is noted. -/
theorem not_wedgeStrobesAndTheirWindow : ¬ Obligations.WedgeStrobesAndTheirWindow := by
  unfold Obligations.WedgeStrobesAndTheirWindow
  intro h
  obtain ⟨⟨-, t, hexec, -, -, hlast⟩, -⟩ := (h 0 silentField lastLoad (by decide)).imp_left fun hstrobe => hstrobe (by decide)
  exact absurd ((lastLoad_strobe_lastTick hexec).symm.trans (hlast (by decide))) (by decide)

end Sys2Proof.Machine
end

section
/-! SETTLED. The access port, the output of a control engine, and a seek fault (O28). -/

set_option Elab.async false

namespace Sys2Proof.Machine

@[simp] theorem seekFaultEvent_chans (n : ChanId) (s : State) : (seekFaultEvent n s).chans = s.chans :=
  (seekFaultEvent_keeps (.refl s) (Sub.refl _)).samePart (p := .chans) rfl

theorem flushLevel_of_none {n : ChanId} {s : State} (h : (s.wr n).levelPending = none) : flushLevel n s = s := by
  unfold flushLevel
  rw [h]

/-! ## The output of an engine (spec 06, R155, R176) -/

/-- A channel whose engine has issued its output. -/
def Chan.issued (b : Computation) (c : Chan) : Chan :=
  { c with
    ce := { logCommand b.vcm b.record.missRun c.ce with
      busy := none, hist := b.hist, flockOut := some (b.vcm, b.tickOf), lastVcm := b.vcm, lastMa := b.ma
      abandonRun := 0, overrunHold := false
      capClamps := c.ce.capClamps + BitVec.ofNat 32 (b2n b.record.cap)
      delayMax := if c.ce.delayMax.toNat < b.delay then BitVec.ofNat 16 b.delay else c.ce.delayMax }
    sdm := match c.sdm.openRec with | none => c.sdm | some r => { c.sdm with openRec := none, closed := c.sdm.closed ++ [r] } }

theorem issueOutput_chan_self (n : ChanId) (b : Computation) (s : State) : (issueOutput n b s).chan n = (s.chan n).issued b := by
  have hce : ∀ u : State, u.chan n = { s.chan n with ce := ((s.chan n).issued b).ce } → (closeRecord n u).chan n = (s.chan n).issued b := fun u hu => by
    unfold closeRecord State.modSdm
    rw [State.modChan_chan_self, hu]
    rfl
  refine hce _ ((sendFrame_chan ..).trans ?_)
  unfold State.modCe
  rw [State.modChan_chan_self]
  rfl

theorem issueOutput_chan_ne {n j : ChanId} (hj : j ≠ n) (b : Computation) (s : State) : (issueOutput n b s).chan j = s.chan j := by
  refine (State.modChan_chan_ne _ hj).trans ((sendFrame_chan ..).trans (State.modChan_chan_ne _ hj))

theorem issued_openRec (b : Computation) (c : Chan) : (c.issued b).sdm.openRec = none := by
  unfold Chan.issued
  dsimp only
  split
  next h => exact h
  next => rfl

theorem ceOutputIssue_exec {n : ChanId} {b : Computation} {s : State} (hlive : s.live = true) (hbusy : (s.ce n).busy = some b)
    (hpending : (s.wr n).levelPending = none) : exec (.ceOutputIssue n) s = .next (issueOutput n b s) := by
  have hwr : ((issueOutput n b s).wr n).levelPending = none := by
    unfold State.wr
    rw [issueOutput_chan_self]
    exact hpending
  show execCeOutputIssue n s = _
  unfold execCeOutputIssue
  rw [if_neg (by simp [servoLive_of_live hlive]), hbusy]
  exact congrArg Host.Outcome.next (flushLevel_of_none hwr)

theorem issueOutput_sends {n : ChanId} {b : Computation} {s : State} (hlive : s.live = true) :
    Sends s (issueOutput n b s) (linkOf n) (.cmd (slotOf n) (BitVec.ofInt 16 b.ma) (BitVec.ofInt 16 b.vcm)) :=
  sendFrame_sends (s := s.modCe n _) _ _ (running_of_live hlive)

/-! ## A seek fault (spec 06, R168) -/

/-- A channel whose move has failed. -/
def Chan.seekFailed (s : State) (n : ChanId) (c : Chan) : Chan :=
  let ref := if (s.ce n).moving then (s.ce n).target else ((s.chan n).access.map (·.target)).getD (s.ce n).target
  { c with
    access := if (s.ce n).moving then c.access else none, report := some .failed
    ce := { c.ce with
      hist := zeroCeHist, busy := c.ce.busy.map (fun b => { b with hist := zeroCeHist }), mode := .follow, flockOut := none
      reinitHold := fieldU (ceHeader s n) 3 1, abandonRun := 0, settleCount := 0
      target := nearestTrack (reinitialise n s) c.sdm.head ref c.sdm.pos, offset := 0, moving := false, moveNew := false
      seekFaults := c.ce.seekFaults + 1 }
    sdm := { c.sdm with onTrack := false } }

theorem seekFault_answer {n : ChanId} {s : State} (hlive : s.live = true) (hload : unloaded s n = false)
    (hmove : (s.ce n).moving = true ∨ (s.chan n).access.isSome = true) : Answers (.seekFault n) s (fun t =>
      (t.chan n).besideOps = ((s.chan n).seekFailed s n).besideOps ∧ ∀ j, j ≠ n → (t.chan j).besideOps = (s.chan j).besideOps) := by
  refine ⟨_, congrArg Host.Outcome.next (if_neg ?_), ?_⟩
  · rcases hmove with h | h <;> simp [servoLive_of_live hlive, hload, h]
  · extract_lets moved ref u v
    have hv : v.frames = (gateCheck true n (seekFaultEvent n v)).frames := by
      rw [gateCheck_frames, frames_of_chans (seekFaultEvent_chans ..)]
    have hself : v.chan n = (s.chan n).seekFailed s n := by
      unfold v u reinitialise State.modCe
      rw [State.modChan_chan_self, State.modChan_chan_self]
      rfl
    have hother : ∀ j, j ≠ n → v.chan j = s.chan j := fun j hj => (State.modChan_chan_ne _ hj).trans (State.modChan_chan_ne _ hj)
    exact ⟨(congrFun hv n).symm.trans (congrArg Chan.besideOps hself), fun j hj => (congrFun hv j).symm.trans (congrArg Chan.besideOps (hother j hj))⟩

/-- Settles O28: a request held, an output issued, and a move that fails. -/
theorem accessRequestsOutputsAndSeekFaults : Obligations.AccessRequestsOutputsAndSeekFaults := by
  unfold Obligations.AccessRequestsOutputsAndSeekFaults
  intro n s hlive
  refine ⟨fun r hserves hhead hfitted => ?_, fun b hbusy hpending => ?_, fun hbusy => ?_, fun hload hmove => ?_, fun r hload hmove haccess => ?_⟩
  · exact congrArg Host.Outcome.next (if_pos (by simp [hlive, hserves, hhead, hfitted]))
  · have hself := issueOutput_chan_self n b s
    exact ⟨_, ceOutputIssue_exec hlive hbusy hpending, issueOutput_sends hlive, (congrArg (fun c => c.ce.busy) hself :),
      (congrArg (fun c => c.ce.lastVcm) hself :), (congrArg (fun c => c.ce.lastMa) hself :), (congrArg (fun c => c.ce.hist) hself :),
      (congrArg (fun c => c.ce.flockOut) hself :), (congrArg (fun c => c.ce.abandonRun) hself :), (congrArg (fun c => c.ce.overrunHold) hself :),
      (congrArg (fun c => c.sdm.openRec) hself :).trans (issued_openRec ..), fun j hj => issueOutput_chan_ne hj b s⟩
  · show execCeOutputIssue n s = _
    unfold execCeOutputIssue
    rw [hbusy]
    exact congrArg Host.Outcome.next (ite_self s)
  · obtain ⟨t, hexec, hself, hother⟩ := seekFault_answer hlive hload (.inl hmove)
    refine ⟨t, hexec, ?_, (congrArg Chan.report hself :), (congrArg (fun c => c.sdm.onTrack) hself :), (congrArg (fun c => c.ce.moving) hself :),
      (congrArg (fun c => c.ce.mode) hself :), (congrArg (fun c => c.ce.offset) hself :), (congrArg (fun c => c.ce.seekFaults) hself :),
      fun j hj => (congrArg Chan.ce (hother j hj) :)⟩
    exact (congrArg Chan.access hself :).trans (if_pos hmove)
  · obtain ⟨t, hexec, hself, -⟩ := seekFault_answer hlive hload (.inr (by rw [haccess]; rfl))
    refine ⟨t, hexec, ?_, (congrArg Chan.report hself :), (congrArg (fun c => c.ce.seekFaults) hself :)⟩
    exact (congrArg Chan.access hself :).trans (if_neg (by rw [hmove]; decide))

end Sys2Proof.Machine
end

section
/-! SETTLED. Valid frames of the links and their effects (O21). -/

set_option Elab.async false

namespace Sys2Proof.Machine

/-! ## The index edge (spec 01, R36, R43) -/

/-- An edge that is no glitch is the last one; the count of glitches stands, and a locked generator measures the revolution. -/
theorem measured_tick (raw period atNs : Nat) (s : State) : (measured raw period atNs s).tick.lastEdge = s.tick.lastEdge ∧
    (measured raw period atNs s).tick.glitches = s.tick.glitches ∧ (measured raw period atNs s).tick.lastRev = some period := by
  have hfault : ∀ (k : FaultKind) (e : Nat) (u : State), (driveFault k e u).tick = u.tick := fun _ _ _ => raise_tick ..
  have hjudge : ∀ (p : Nat) (u : State), (judgeSpeed p u).tick.lastEdge = u.tick.lastEdge ∧ (judgeSpeed p u).tick.glitches = u.tick.glitches ∧
      (judgeSpeed p u).tick.lastRev = u.tick.lastRev := fun p u => by
    unfold judgeSpeed
    dsimp only
    split
    · exact ⟨rfl, rfl, rfl⟩
    · split
      · rw [hfault]
        exact ⟨rfl, rfl, rfl⟩
      · exact ⟨rfl, rfl, rfl⟩
  unfold measured
  extract_lets good t u v w x
  split
  · split
    · exact ⟨rfl, rfl, rfl⟩
    · obtain ⟨h1, h2, h3⟩ := hjudge period { u with tick.revNs := period, tick.goodRevs := 0 }
      exact ⟨h1, h2, h3⟩
  · obtain ⟨h1, h2, h3⟩ := hjudge period { u with tick.revNs := period }
    split
    · exact ⟨h1, h2, h3⟩
    · exact ⟨h1, h2, h3⟩
  · exact ⟨rfl, rfl, rfl⟩

theorem indexReturns_tick (raw atNs : Nat) (s : State) : (indexReturns raw atNs s).tick.lastEdge = s.tick.lastEdge ∧
    (indexReturns raw atNs s).tick.glitches = s.tick.glitches := by
  unfold indexReturns
  extract_lets rev close t u
  split
  · split <;> exact ⟨rfl, rfl⟩
  · exact ⟨rfl, rfl⟩
  · exact ⟨rfl, rfl⟩
  · exact ⟨rfl, rfl⟩

theorem indexEdge_of_glitch {raw atNs : Nat} {s : State} (h : isGlitch s raw = true) :
    indexEdge raw atNs s = { s with tick.glitches := s.tick.glitches + 1 } := if_pos h

theorem indexEdge_tick {raw : Nat} (atNs : Nat) {s : State} (h : isGlitch s raw = false) : (indexEdge raw atNs s).tick.lastEdge = some raw ∧
    (indexEdge raw atNs s).tick.glitches = s.tick.glitches ∧
    ∀ e, s.tick.state = .locked → s.tick.indexLost = false → s.tick.lastEdge = some e → (indexEdge raw atNs s).tick.lastRev = some (raw - e) := by
  unfold indexEdge
  rw [if_neg (by rw [h]; decide)]
  extract_lets last away t u
  by_cases haway : away = true
  · rw [if_pos haway]
    obtain ⟨h1, h2⟩ := indexReturns_tick raw atNs u
    refine ⟨h1, h2, fun e hlocked hlost _ => absurd haway ?_⟩
    simp [away, hlocked, hlost]
  · rw [if_neg haway]
    cases hlast : last with
    | none => exact ⟨rfl, rfl, fun e _ _ he => nomatch (hlast.symm.trans he)⟩
    | some p =>
      obtain ⟨h1, h2, h3⟩ := measured_tick raw (raw - p) atNs u
      refine ⟨h1, h2, fun e _ _ he => ?_⟩
      cases hlast.symm.trans he
      exact h3

theorem indexEdge_links (raw atNs : Nat) (s : State) : (indexEdge raw atNs s).links = s.links :=
  (indexEdge_keeps (.refl s) (Sub.refl _)).samePart (p := .links) rfl

/-! ## The end of a hold-up check (spec 03, R89) -/

/-- The verdict and the figures of the hold-up check. -/
def Power.checked (p : Power) : Bool × Nat × Nat × Bool := (p.holdTesting, p.holdupCap, p.holdupEnergy, p.holdupPassed)

theorem enterPhase_checked (ph : Phase) (s : State) : (enterPhase ph s).power.checked = s.power.checked := by
  obtain ⟨a, r, h⟩ := enterPhase_power ph s
  rw [h]
  rfl

theorem failStart_checked (code : Nat) (s : State) : (failStart code s).power.checked = s.power.checked := by
  obtain ⟨a, r, h⟩ := failStart_power code s
  rw [h]
  rfl

theorem destageFirst_power (l : List BlockKey) (s : State) : (destageFirst l s).power = s.power := rfl

theorem enterReady_power (s : State) : (enterReady s).power.checked = s.power.checked ∧ (enterReady s).power.phase = .ready := by
  unfold enterReady
  dsimp only
  rw [destageFirst_power, enterPhase_checked, enterPhase_phase]
  exact ⟨rfl, rfl⟩

theorem endCalibrate_power (s : State) : (endCalibrate s).power.checked = s.power.checked ∧ (endCalibrate s).power.phase ≠ .holdupCheck := by
  unfold endCalibrate
  split
  · obtain ⟨hc, hp⟩ := enterReady_power s
    exact ⟨hc, by rw [hp]; decide⟩
  · exact ⟨enterPhase_checked .zoneLoad s, by rw [enterPhase_phase]; decide⟩

theorem beginCalibrate_power (s : State) : (beginCalibrate s).power.checked = s.power.checked ∧ (beginCalibrate s).power.phase ≠ .holdupCheck := by
  unfold beginCalibrate
  extract_lets heads oldCal a
  generalize hb : heads.foldl (fun s h => if tempAway s h then requestFull h s else s) a = b
  have hpower : b.power = a.power := by
    rw [← hb]
    exact foldl_field State.power _ (fun t h => ite_field (g := State.power) ((requestFull_keeps (.refl t) (Sub.refl _)).wholePower rfl rfl) rfl) _ _
  have hac : a.power.checked = s.power.checked := enterPhase_checked .calibrate { s with cal.startLeft := heads, cal.verify := _ }
  have hap : a.power.phase = .calibrate := enterPhase_phase ..
  unfold calibrateDone
  split
  · obtain ⟨hc, hp⟩ := endCalibrate_power b
    exact ⟨by rw [hc, hpower, hac], hp⟩
  · rw [hpower, hap]
    exact ⟨hac, by decide⟩

theorem loadsDone_power {s : State} (hphase : s.power.phase ≠ .holdupCheck) :
    (loadsDone s).power.checked = s.power.checked ∧ (loadsDone s).power.phase ≠ .holdupCheck := by
  unfold loadsDone
  extract_lets serving oldPower a
  have hac : a.power.checked = s.power.checked := by unfold a; split <;> rfl
  have hap : a.power.phase = s.power.phase := by unfold a; split <;> rfl
  clear_value a
  split
  · split
    · split
      · exact ⟨by rw [failStart_checked, sendSpin_power, unloadAll_power, hac], by rw [failStart_phase]; decide⟩
      · obtain ⟨hc, hp⟩ := beginCalibrate_power a
        exact ⟨hc.trans hac, hp⟩
    · exact ⟨hac, by rw [hap]; exact hphase⟩
  · exact ⟨rfl, hphase⟩

theorem beginHeadLoad_power (s : State) : (beginHeadLoad s).power.checked = s.power.checked ∧ (beginHeadLoad s).power.phase ≠ .holdupCheck := by
  have hp : (queueLoads (enterPhase .headLoad s)).power.phase = .headLoad := enterPhase_phase .headLoad s
  obtain ⟨h1, h2⟩ := loadsDone_power (s := queueLoads (enterPhase .headLoad s)) (by rw [hp]; decide)
  exact ⟨h1.trans (enterPhase_checked .headLoad s), h2⟩

theorem beginHeadLoad_receiving (s : State) (j : LinkId) : ((beginHeadLoad s).link j).receiving = (s.link j).receiving := by
  have hsame : ∀ {u v : State}, v.links = u.links → (v.link j).receiving = (u.link j).receiving := fun h =>
    congrArg (fun v : Vector Link 2 => v[j].receiving) h
  have hqueue : ((queueLoads (enterPhase .headLoad s)).link j).receiving = (s.link j).receiving :=
    hsame ((queueLoads_keeps (enterPhase_keeps (.refl s) (Sub.of (by decide) (Sub.refl 0x5000c01))) (Sub.of (by decide) (Sub.refl _))).samePart (p := .links) rfl)
  have hcal : ∀ u : State, ((beginCalibrate u).link j).receiving = (u.link j).receiving := fun u =>
    hsame ((beginCalibrate_keeps (.refl u) (Sub.refl _)).samePart (p := .links) rfl)
  have hdone : ∀ u : State, ((loadsDone u).link j).receiving = (u.link j).receiving := fun u => by
    unfold loadsDone
    extract_lets serving oldPower a
    have ha : a.links = u.links := by unfold a; split <;> rfl
    clear_value a
    refine ite_field (g := fun s : State => (s.link j).receiving) (ite_field (g := fun s : State => (s.link j).receiving)
      (ite_field (g := fun s : State => (s.link j).receiving) ?_ ?_) (hsame ha)) rfl
    · exact (hsame (failStart_links ..)).trans ((sendFrame_receiving ..).trans ((unloadChans_receiving ..).trans (hsame ha)))
    · exact (hcal a).trans (hsame ha)
  exact (hdone _).trans hqueue

/-! ## A FAULT frame (spec 02, R57) -/

/-- The fault of one slot. -/
def faultSlot (at_ : Nat) (s : State) (n : ChanId) : State :=
  gateCheck true n (s.modSdm n (fun x => { x with onTrack := false, faultAt := some (s.clock.ns + at_) }))

theorem faultSlots_eq (k : LinkId) (mask at_ : Nat) (s : State) : faultSlots k mask at_ s =
    (chansOf k).foldl (fun s n => if bitOf mask (n.val % 4) then faultSlot at_ s n else s) s := rfl

theorem faultSlot_sdm_ne {n j : ChanId} (hj : j ≠ n) (at_ : Nat) (s : State) : (faultSlot at_ s n).sdm j = s.sdm j :=
  (sdm_of_frames (gateCheck_frames ..) j).trans (State.modSdm_sdm_ne hj)

theorem faultSlot_sdm_self (at_ : Nat) (s : State) (n : ChanId) :
    (faultSlot at_ s n).sdm n = { s.sdm n with onTrack := false, faultAt := some (s.clock.ns + at_) } :=
  (sdm_of_frames (gateCheck_frames ..) n).trans (State.modSdm_sdm_self ..)

/-- What no slot's fault changes. -/
theorem faultSlot_keeps {s0 s : State} (at_ : Nat) (n : ChanId) (h : Keeps 0x10efc40 s0 s) : Keeps 0x10efc40 s0 (faultSlot at_ s n) :=
  gateCheck_keeps (State.modSdm_keeps h (Sub.of (by decide) (Sub.refl _))) (Sub.of (by decide) (Sub.refl _))

theorem faultSlots_keeps_rest (l : List ChanId) (mask at_ : Nat) (s : State) :
    Keeps 0x10efc40 s (l.foldl (fun s n => if bitOf mask (n.val % 4) then faultSlot at_ s n else s) s) :=
  foldl_keeps (.refl s) fun _ n h => keeps_ite (faultSlot_keeps at_ n h) h

theorem faultSlots_sdm_of_not_mem {n : ChanId} (mask at_ : Nat) {l : List ChanId} (h : n ∉ l) (s : State) :
    (l.foldl (fun s n => if bitOf mask (n.val % 4) then faultSlot at_ s n else s) s).sdm n = s.sdm n := by
  induction l generalizing s with
  | nil => rfl
  | cons m l ih =>
    rw [List.foldl_cons, ih fun hl => h (List.mem_cons_of_mem m hl)]
    split
    · exact faultSlot_sdm_ne (fun hm : n = m => h (List.mem_cons.2 (.inl hm))) at_ s
    · rfl

theorem faultSlots_sdm {n : ChanId} {mask : Nat} (at_ : Nat) (hbit : bitOf mask (n.val % 4) = true) {l : List ChanId} (h : n ∈ l) (s : State) :
    ((l.foldl (fun s n => if bitOf mask (n.val % 4) then faultSlot at_ s n else s) s).sdm n).onTrack = false ∧
    ((l.foldl (fun s n => if bitOf mask (n.val % 4) then faultSlot at_ s n else s) s).sdm n).faultAt = some (s.clock.ns + at_) := by
  induction l generalizing s with
  | nil => exact absurd h List.not_mem_nil
  | cons m l ih =>
    rw [List.foldl_cons]
    by_cases hl : n ∈ l
    · obtain ⟨h1, h2⟩ := ih hl (if bitOf mask (m.val % 4) then faultSlot at_ s m else s)
      refine ⟨h1, h2.trans ?_⟩
      split
      · rw [(faultSlot_keeps at_ m (.refl s)).samePart (p := .clock) rfl]
      · rfl
    · obtain rfl := (List.mem_cons.1 h).resolve_right hl
      rw [faultSlots_sdm_of_not_mem mask at_ hl, if_pos hbit, faultSlot_sdm_self]
      exact ⟨rfl, rfl⟩

/-! ## The frames -/

theorem heard_link_self (k : LinkId) (f : UpFrame) (s : State) :
    (heard k f s).link k = { s.link k with rxSeq := some (f.seq + 1), up := true, lost := false, charged := false } :=
  State.modLink_link_self ..

theorem link_of_links {s t : State} (h : t.links = s.links) (k : LinkId) : t.link k = s.link k := congrArg (fun v : Vector Link 2 => v[k]) h

/-- A link that has been heard with an INDEX frame. -/
def revNoted (k : LinkId) (f : UpFrame) (s : State) : State :=
  (heard k f s).modLink k (fun l => { l with revCount := BitVec.ofNat 16 (payloadHi f) })

theorem revNoted_link (k : LinkId) (f : UpFrame) (s : State) : (revNoted k f s).link k =
    { s.link k with rxSeq := some (f.seq + 1), up := true, lost := false, charged := false, revCount := BitVec.ofNat 16 (payloadHi f) } := by
  unfold revNoted
  rw [State.modLink_link_self, heard_link_self]

theorem indexFrame_exec {k : LinkId} {f : UpFrame} {s : State} (hlive : s.live = true) (h : frameValid s k 8 f = true) :
    exec (.indexFrame k f) s = .next (if k = spindleLink s then indexEdge (s.clock.ns + f.atNs - payloadLo f) f.atNs (revNoted k f s)
      else revNoted k f s) := by
  refine congrArg Host.Outcome.next ((onFrame_of_valid _ hlive h).trans ?_)
  have hup : ((revNoted k f s).link k).up = true := by rw [revNoted_link]
  show (if k = spindleLink (revNoted k f s) && ((revNoted k f s).link k).up then _ else _) = _
  rw [hup, Bool.and_true]
  simp only [decide_eq_true_eq]
  rfl

theorem faultFrame_answer {k : LinkId} {f : UpFrame} {s : State} (hlive : s.live = true) (h : frameValid s k 10 f = true)
    (hphase : s.power.phase ≠ .spinUp) : Answers (.faultFrame k f) s (fun t =>
      t = faultSlots k (payloadHi f % 16) f.atNs ((heard k f s).modLink k (fun l => { l with faultCode := BitVec.ofNat 16 (payloadLo f) }))) := by
  refine ⟨_, congrArg Host.Outcome.next ((onFrame_of_valid _ hlive h).trans ?_), rfl⟩
  have hkeeps := faultSlots_keeps_rest (chansOf k) (payloadHi f % 16) f.atNs ((heard k f s).modLink k (fun l => { l with faultCode := BitVec.ofNat 16 (payloadLo f) }))
  exact if_neg (by
    rw [show (faultSlots k (payloadHi f % 16) f.atNs ((heard k f s).modLink k (fun l => { l with faultCode := BitVec.ofNat 16 (payloadLo f) }))).power.phase
      = s.power.phase from hkeeps.powerField rfl Power.phase]
    simp [hphase])

theorem testresFrame_exec {k : LinkId} {f : UpFrame} {s : State} (hlive : s.live = true) (h : frameValid s k 12 f = true) :
    exec (.testresFrame k f) s = .next (if s.power.holdTesting = false ∨ k ≠ 0 then heard k f s
      else if (holdupJudge s.power.storeMv (payloadHi f) (payloadLo f) (heard k f s)).power.phase = .holdupCheck then
        beginHeadLoad (holdupJudge s.power.storeMv (payloadHi f) (payloadLo f) (heard k f s))
      else holdupJudge s.power.storeMv (payloadHi f) (payloadLo f) (heard k f s)) := by
  refine congrArg Host.Outcome.next ((onFrame_of_valid _ hlive h).trans ?_)
  have hl : (heard k f s).live = true := (heard_live k f s).trans hlive
  have ht : (heard k f s).power = s.power := rfl
  dsimp only
  rw [hl, ht]
  cases s.power.holdTesting <;> simp

theorem spindleStopped_of_unbraked {s : State} (h : s.power.braking = false) : spindleStopped s = tickTo .stopped s :=
  if_pos (by rw [show (tickTo .stopped s).power.braking = s.power.braking from rfl, h]; rfl)

/-- The low four bits of a mask say what the whole says of a slot. -/
theorem bitOf_lowNibble {v : Nat} {n : ChanId} (h : v.testBit (n.val % 4) = true) : bitOf (v % 16) (n.val % 4) = true := by
  unfold bitOf
  rw [show (16 : Nat) = 2 ^ 4 from rfl, Nat.testBit_mod_two_pow, h]
  simp [Nat.mod_lt]

/-- Settles O21: each type's effect on the state in which its link has been heard. -/
theorem linkFramesThatAreValidAct : Obligations.LinkFramesThatAreValidAct := by
  unfold Obligations.LinkFramesThatAreValidAct
  intro k f s hlive
  have hheard := heard_link_self k f s
  refine ⟨fun h => ?_, fun h hk => ?_, fun h hk hglitch => ?_, fun h hk hglitch => ?_, fun h hk => ?_, fun h hk hstop hbrake => ?_,
    fun h hk => ?_, fun h hk => ?_, fun h hphase => ?_, fun h htest hk => ?_, fun h hk => ?_⟩
  · have hexec : exec (.adlIdleFrame k f) s = .next (heard k f s) := congrArg Host.Outcome.next (onFrame_of_valid _ hlive h)
    exact ⟨hexec, _, hexec, by rw [hheard], by rw [hheard], by rw [hheard], rfl⟩
  · exact (indexFrame_exec hlive h).trans (congrArg Host.Outcome.next (if_neg hk))
  · have hrev := revNoted_link k f s
    refine ⟨_, (indexFrame_exec hlive h).trans (congrArg Host.Outcome.next (if_pos hk)), ?_⟩
    beta_reduce
    rw [link_of_links (indexEdge_links ..), hrev]
    exact ⟨rfl, rfl, rfl, indexEdge_tick f.atNs (s := revNoted k f s) hglitch⟩
  · have hrev := revNoted_link k f s
    refine ⟨_, (indexFrame_exec hlive h).trans (congrArg Host.Outcome.next ((if_pos hk).trans (indexEdge_of_glitch hglitch))), ?_, rfl⟩
    exact (congrArg Link.up hrev :)
  · refine congrArg Host.Outcome.next ((onFrame_of_valid _ hlive h).trans (if_neg ?_))
    show ¬((s.live && k = spindleLink s && bitOf (payloadHi f) 0) = true)
    rcases hk with hk | hk
    · simp [hk]
    · simp [bitOf, payloadHi, hk, Nat.testBit_zero]
  · refine ⟨_, congrArg Host.Outcome.next ((onFrame_of_valid _ hlive h).trans (if_pos ?_)), ?_⟩
    · show (s.live && k = spindleLink s && bitOf (payloadHi f) 0) = true
      simp [hlive, hk, bitOf, payloadHi, hstop]
    · beta_reduce
      rw [spindleStopped_of_unbraked (show ((heard k f s).modLink k _).power.braking = false from hbrake)]
      exact ⟨rfl, (congrArg Link.bemfFlags (State.modLink_link_self ..) :)⟩
  · subst hk
    have hexec : exec (.storeFrame 0 f) s = .next { heard 0 f s with power.storeMv := f.payload.toNat % 65536, power.inputVolts := f.payload.toNat / 65536 } :=
      congrArg Host.Outcome.next (onFrame_of_valid _ hlive h)
    exact ⟨hexec, _, hexec, rfl, rfl, (congrArg Link.up hheard :), (congrArg Link.rxSeq hheard :)⟩
  · exact congrArg Host.Outcome.next ((onFrame_of_valid _ hlive h).trans (if_pos hk))
  · obtain ⟨t, hexec, rfl⟩ := faultFrame_answer hlive h hphase
    have hlinks := (faultSlots_keeps_rest (chansOf k) (payloadHi f % 16) f.atNs
      ((heard k f s).modLink k (fun l => { l with faultCode := BitVec.ofNat 16 (payloadLo f) }))).samePart (p := .links) rfl
    refine ⟨_, hexec, ?_, ?_, fun n hn hbit => ?_⟩
    · rw [faultSlots_eq, link_of_links hlinks, State.modLink_link_self, hheard]
    · rw [faultSlots_eq, link_of_links hlinks, State.modLink_link_self]
      rfl
    · refine faultSlots_sdm (s := (heard k f s).modLink k (fun l => { l with faultCode := BitVec.ofNat 16 (payloadLo f) })) f.atNs ?_ hn
      exact bitOf_lowNibble hbit
  · refine ⟨_, (testresFrame_exec hlive h).trans (congrArg Host.Outcome.next (if_neg (by simp [htest, hk]))), ?_⟩
    generalize hu : holdupJudge s.power.storeMv (payloadHi f) (payloadLo f) (heard k f s) = u
    obtain ⟨ever, w, a, c, hpower⟩ := holdupJudge_power s.power.storeMv (payloadHi f) (payloadLo f) (heard k f s)
    rw [hu] at hpower
    have hchecked : u.power.checked = (false, holdupCapOf s.power.storeMv (payloadHi f) (payloadLo f),
        holdupEnergyOf s s.power.storeMv (payloadHi f) (payloadLo f), holdupSuffices s s.power.storeMv (payloadHi f) (payloadLo f)) := by
      rw [hpower]
      rfl
    have hlinks : u.links = (heard k f s).links := by
      rw [← hu]
      exact (holdupJudge_keeps (.refl _) (Sub.refl _)).samePart (p := .links) rfl
    split
    · obtain ⟨h1, h2⟩ := beginHeadLoad_power u
      have hup : ((beginHeadLoad u).link k).up = true := by
        have hr : ((beginHeadLoad u).link k).up = (u.link k).up := (congrArg Link.up (beginHeadLoad_receiving u k) :)
        rw [hr, link_of_links hlinks, hheard]
      rw [hchecked] at h1
      exact ⟨hup, (congrArg Prod.fst h1 :), h2, (congrArg (fun x => x.2.1) h1 :), (congrArg (fun x => x.2.2.1) h1 :), (congrArg (fun x => x.2.2.2) h1 :)⟩
    · refine ⟨by rw [link_of_links hlinks, hheard], (congrArg Prod.fst hchecked :), by assumption, (congrArg (fun x => x.2.1) hchecked :),
        (congrArg (fun x => x.2.2.1) hchecked :), (congrArg (fun x => x.2.2.2) hchecked :)⟩
  · exact (testresFrame_exec hlive h).trans (congrArg Host.Outcome.next (if_pos hk))

end Sys2Proof.Machine
end

section
/-! SUPPORT. Frames of the ports: what a command's end, a log, a warning and the work that goes on leave of a controller. -/

set_option Elab.async false

namespace Sys2Proof.Machine

/-! ## A port beside its completions -/

/-- A port without what the end of a command changes: the error log, the completions and the Aborts that wait. -/
def Port.besideEnds (q : Port) : Port := { q with errors := [], errorCount := 0, abortWait := [], abortAdmin := [], committed := [] }

/-- The ports without what the ends of commands change. -/
def State.besideEnds (s : State) : PortId → Port := fun p => (s.port p).besideEnds

theorem Keeps.wholePorts {m : Nat} {s t : State} (h : Keeps m s t) (hports : m.testBit Part.ports.bit = false)
    (hflags : m.testBit Part.flags.bit = false) (p : PortId) : t.port p = s.port p := by
  have hp : t.ports.map hostSide = s.ports.map hostSide := h.samePart (p := .ports) hports
  have hf : t.ports.map portFlags = s.ports.map portFlags := congrArg Prod.fst (h.samePart (p := .flags) hflags)
  have hhost : hostSide (t.port p) = hostSide (s.port p) := by
    have h := congrArg (fun v : Vector Port 2 => v[p]) hp
    simpa [State.port] using h
  have hflag : portFlags (t.port p) = portFlags (s.port p) := by
    have h := congrArg (fun v : Vector (Word32 × Bool × Nat) 2 => v[p]) hf
    simpa [State.port] using h
  have heq : ∀ q : Port, q = { hostSide q with status := (portFlags q).1, pending65 := (portFlags q).2.1, msgs65 := (portFlags q).2.2 } := fun _ => rfl
  rw [heq (t.port p), hhost, hflag, ← heq]

theorem Keeps.ends {m : Nat} {s t : State} (h : Keeps m s t) (hports : m.testBit Part.ports.bit = false)
    (hflags : m.testBit Part.flags.bit = false) : t.besideEnds = s.besideEnds :=
  funext fun p => congrArg Port.besideEnds (h.wholePorts hports hflags p)

theorem modPort_ends {s : State} {p : PortId} {f : Port → Port} (h : ∀ q, (f q).besideEnds = q.besideEnds) :
    (s.modPort p f).besideEnds = s.besideEnds := by
  funext x
  unfold State.besideEnds
  by_cases hx : x = p
  · subst hx
    rw [State.modPort_port_self, h]
  · rw [State.modPort_port_ne hx]

@[simp] theorem commitCompletion_ends (p : PortId) (c : Completion) (s : State) : (commitCompletion p c s).besideEnds = s.besideEnds := by
  have herror : ∀ (q : Port), (noteError c.sqid c.cid c.status q).besideEnds = q.besideEnds := fun q => by
    unfold noteError
    split <;> rfl
  unfold commitCompletion
  split
  · rfl
  · dsimp only
    refine (modPort_ends ?_).trans ?_
    · exact fun q => (herror _).trans rfl
    · split <;> rfl

@[simp] theorem releaseAborts_ends (p : PortId) (i : Nat) (s : State) : (releaseAborts p i s).besideEnds = s.besideEnds := by
  unfold releaseAborts
  split
  · rfl
  · exact modPort_ends fun _ => rfl

@[simp] theorem commitCtx_ends (i : Nat) (st : Status) (a b : Nat) (s : State) : (commitCtx i st a b s).besideEnds = s.besideEnds := by
  have hcount : ∀ (c : Ctx) (u : State), (countHost c st u).besideEnds = u.besideEnds := fun c u => (countHost_keeps (.refl u) (Sub.refl _)).ends rfl rfl
  unfold commitCtx
  split
  · rfl
  · split
    · rfl
    · split
      · rfl
      · rw [releaseAborts_ends, hcount, commitCompletion_ends]
        rfl

@[simp] theorem releaseWrite_ends (i : Nat) (s : State) : (releaseWrite i s).besideEnds = s.besideEnds :=
  (releaseWrite_keeps (.refl s) (Sub.refl _)).ends rfl rfl

@[simp] theorem setBand_ends (r : BandRec) (s : State) : (setBand r s).besideEnds = s.besideEnds := (setBand_keeps (.refl s) (Sub.refl _)).ends rfl rfl

@[simp] theorem raise_ends (e : Event) (s : State) : (raise e s).besideEnds = s.besideEnds := (raise_keeps (.refl s) (Sub.refl _)).ends rfl rfl

@[simp] theorem rollback_ends (i : Nat) (k : BandKey) (m : Nat) (p : PortId) (s : State) : (rollback i k m p s).besideEnds = s.besideEnds := by
  have hfold : ∀ l : List Ctx, (l.foldl (fun s c => commitCtx c.id .zoneInvalidWrite 0 0 (releaseWrite c.id s)) s).besideEnds = s.besideEnds := fun l =>
    foldl_field State.besideEnds _ (fun s c => by simp) l s
  unfold rollback
  dsimp only
  split <;> simp [hfold]

@[simp] theorem endWrite_ends (c : Ctx) (s : State) : (endWrite c s).besideEnds = s.besideEnds := by
  have hdrop : (dropOlder c (releaseWrite c.id s)).besideEnds = s.besideEnds :=
    ((dropOlder_keeps (.refl _) (Sub.refl _)).ends rfl rfl).trans (releaseWrite_ends ..)
  unfold endWrite
  dsimp only
  split
  · exact hdrop
  · split
    · rw [rollback_ends, hdrop]
    · exact hdrop

@[simp] theorem discardCtx_ends (c : Ctx) (s : State) : (discardCtx c s).besideEnds = s.besideEnds := by
  unfold discardCtx
  dsimp only
  refine Eq.trans (b := (if ioWrites c.entry.op then endWrite c (modCtx c.id (fun c => { c with status := .abortRequested }) s)
    else endRead c (modCtx c.id (fun c => { c with status := .abortRequested }) s)).besideEnds) rfl ?_
  split
  · rw [endWrite_ends]
    rfl
  · rfl

@[simp] theorem resetCommands_ends (p : PortId) (s : State) : (resetCommands p s).besideEnds = s.besideEnds := by
  unfold resetCommands
  dsimp only
  refine (foldl_field State.besideEnds _ (fun t c => ?_) _ s :)
  split
  · rfl
  · split
    · rfl
    · exact discardCtx_ends ..

/-! ## A port beside its flags, logs and warnings as well -/

/-- A port without what ends, flags, logs, warnings, asynchronous events and a shutdown's progress change. -/
def Port.core (q : Port) : Port :=
  { q.besideEnds with aers := [], events := [], masked := [], warning := 0, status := 0, pending65 := false, msgs65 := 0, shst := 0 }

/-- The ports without what the work that goes on changes. -/
def State.cores (s : State) : PortId → Port := fun p => (s.port p).core

theorem cores_of_ends {s t : State} (h : t.besideEnds = s.besideEnds) : t.cores = s.cores :=
  congrArg (fun f : PortId → Port => fun p => { f p with aers := [], events := [], masked := [], warning := 0, status := 0, pending65 := false, msgs65 := 0, shst := 0 }) h

theorem Keeps.cores {m : Nat} {s t : State} (h : Keeps m s t) (hports : m.testBit Part.ports.bit = false) : t.cores = s.cores := by
  funext p
  have hp : t.ports.map hostSide = s.ports.map hostSide := h.samePart (p := .ports) hports
  have hhost : hostSide (t.port p) = hostSide (s.port p) := by
    have h := congrArg (fun v : Vector Port 2 => v[p]) hp
    simpa [State.port] using h
  exact (congrArg Port.core hhost :)

theorem core_of_cores {s t : State} (h : t.cores = s.cores) (p : PortId) : (t.port p).core = (s.port p).core := congrFun h p

theorem modPort_cores {s : State} {p : PortId} {f : Port → Port} (h : ∀ q, (f q).core = q.core) : (s.modPort p f).cores = s.cores := by
  funext x
  unfold State.cores
  by_cases hx : x = p
  · subst hx
    rw [State.modPort_port_self, h]
  · rw [State.modPort_port_ne hx]

@[simp] theorem setFlag_cores (f : Flag) (s : State) : (setFlag f s).cores = s.cores := (setFlag_keeps (.refl s) (Sub.refl _)).cores rfl

theorem postAen_core (a : Aen) (q : Port) : (postAen a q).core = q.core := by
  unfold postAen
  dsimp only
  split
  · rfl
  · split <;> rfl

theorem postAens_core {ι : Type} (a : ι → Aen) (l : List ι) (q : Port) : (l.foldl (fun q i => postAen (a i) q) q).core = q.core := by
  induction l generalizing q with
  | nil => rfl
  | cons i l ih => rw [List.foldl_cons, ih, postAen_core]

@[simp] theorem noteWarning_cores (s : State) : (noteWarning s).cores = s.cores := by
  have hport : ∀ (p : PortId) (u : State), (noteWarningPort p u).cores = u.cores := fun p u => by
    unfold noteWarningPort
    dsimp only
    exact modPort_cores fun q => (postAens_core ..).trans rfl
  unfold noteWarning
  split
  · rfl
  · rw [hport, hport]

@[simp] theorem logDeferred_cores (n l c k h : Nat) (p : PortId) (s : State) : (logDeferred n l c k h p s).cores = s.cores := by
  have haen : ∀ u : State, (deferredAen h u).cores = u.cores := fun u => by
    unfold deferredAen
    split
    · rfl
    · refine foldl_field State.cores _ (fun t p => ?_) _ _
      split
      · exact modPort_cores fun q => postAen_core ..
      · rfl
  unfold logDeferred
  dsimp only
  rw [haen, cores_of_ends (raise_ends ..), setFlag_cores]
  rfl

/-! ## What goes on -/

/-- A port without its flags and a shutdown's progress, which is all that the work that goes on changes. -/
def Port.steady (q : Port) : Port := { hostSide q with shst := 0 }

/-- The ports without their flags and a shutdown's progress. -/
def State.steadies (s : State) : PortId → Port := fun p => (s.port p).steady

theorem Keeps.steadies {m : Nat} {s t : State} (h : Keeps m s t) (hports : m.testBit Part.ports.bit = false) : t.steadies = s.steadies := by
  funext p
  have hp : t.ports.map hostSide = s.ports.map hostSide := h.samePart (p := .ports) hports
  have hhost : hostSide (t.port p) = hostSide (s.port p) := by
    have h := congrArg (fun v : Vector Port 2 => v[p]) hp
    simpa [State.port] using h
  exact congrArg (fun q : Port => { q with shst := 0 }) hhost

theorem steady_of_steadies {s t : State} (h : t.steadies = s.steadies) (p : PortId) : (t.port p).steady = (s.port p).steady := congrFun h p

theorem cores_of_steadies {s t : State} (h : t.steadies = s.steadies) : t.cores = s.cores := by
  funext p
  exact (congrArg Port.core (steady_of_steadies h p) :)

@[simp] theorem shutdownProgress_steadies (s : State) : (shutdownProgress s).steadies = s.steadies := by
  have hunload : ∀ u : State, (unloadAll u).steadies = u.steadies := fun u => (unloadAll_unload u).steadies rfl
  unfold shutdownProgress
  extract_lets a oldMule
  have ha : a.steadies = s.steadies := foldl_field State.steadies _ (fun t p => by
    split
    · funext x
      unfold State.steadies
      by_cases hx : x = p
      · subst hx
        rw [State.modPort_port_self]
        rfl
      · rw [State.modPort_port_ne hx]
    · rfl) _ _
  clear_value a
  exact ite_field (g := State.steadies) ((hunload _).trans ha) ha

/-- A spindle that stops into STANDBY. -/
theorem spinDown_steadies (s : State) : (enterPhase .standby (sendSpin 0 (unloadAll s))).steadies = s.steadies :=
  ((enterPhase_keeps (.refl _) (Sub.refl _)).steadies rfl).trans
    (((sendSpin_keeps (.refl _) (Sub.refl _)).steadies rfl).trans ((unloadAll_unload s).steadies rfl))

@[simp] theorem standbyProgress_steadies (s : State) : (standbyProgress s).steadies = s.steadies :=
  ite_field (g := State.steadies) (ite_field (g := State.steadies) rfl (ite_field (g := State.steadies) rfl (spinDown_steadies _))) rfl

@[simp] theorem progress_steadies (s : State) : (progress s).steadies = s.steadies := by
  have hthermal : ∀ u : State, (thermalProgress u).steadies = u.steadies := fun u => ite_field (g := State.steadies) (spinDown_steadies _) rfl
  have hspeed : ∀ u : State, (speedProgress u).steadies = u.steadies := fun u =>
    ite_field (g := State.steadies) (((changeSpeed_keeps (.refl _) (Sub.refl _)).steadies rfl).trans ((unloadAll_unload u).steadies rfl)) rfl
  unfold progress
  rw [(kickDies_keeps (.refl _) (Sub.refl _)).steadies rfl, (loadForWork_keeps (.refl _) (Sub.refl _)).steadies rfl, hspeed,
    shutdownProgress_steadies, hthermal, standbyProgress_steadies, (endDraining_keeps (.refl _) (Sub.refl _)).steadies rfl,
    (servePauses_keeps (.refl _) (Sub.refl _)).steadies rfl, (releaseRegions_keeps (.refl _) (Sub.refl _)).steadies rfl]

theorem powerStates_steadies (s : State) : (powerStates s).steadies = s.steadies :=
  ite_field (g := State.steadies) (ite_field (g := State.steadies) (standbyProgress_steadies _) rfl)
    (ite_field (g := State.steadies) ((restartFromSpinWait_keeps (.refl s) (Sub.refl _)).steadies rfl) rfl)

/-- Power states and the work after a port's change. -/
@[simp] theorem settle_steadies (s : State) : (settle s).steadies = s.steadies := by
  unfold settle
  rw [progress_steadies]
  exact ite_field (g := State.steadies) (powerStates_steadies s) rfl

theorem settle_cores (s : State) : (settle s).cores = s.cores := cores_of_steadies (settle_steadies s)

end Sys2Proof.Machine
end

section
/-! SETTLED. Resets of a port's functions, CC.EN and CC.SHN (O33, O34, O35). -/

set_option Elab.async false

namespace Sys2Proof.Machine

/-! ## The reset of a controller (spec 10, R299; spec 11, R347) -/

theorem controllerReset_port (p : PortId) (s : State) (x : PortId) :
    (controllerReset p s).port x = (controllerFields p (resetCommands p s)).port x := by
  unfold controllerReset
  dsimp only
  split
  · split <;> rfl
  · rfl

theorem controllerReset_port_self (p : PortId) (s : State) : ((controllerReset p s).port p).besideEnds = { (s.port p).besideEnds with
    en := false, rdy := false, cfs := false, shst := 0, pp := false, sqs := [], cqs := [], rrQid := 0, rrTaken := 0
    feat := featuresAtReset (resetCommands p s).clock.ns (s.port p).feat, aers := [], events := [], masked := [], deleting := [], abortDone := [] } := by
  have hends : ((resetCommands p s).port p).besideEnds = (s.port p).besideEnds := congrFun (resetCommands_ends p s) p
  have hfeat : ((resetCommands p s).port p).feat = (s.port p).feat := (congrArg Port.feat hends :)
  rw [controllerReset_port, controllerFields, State.modPort_port_self, hfeat]
  exact congrArg (fun q : Port => { q with
    en := false, rdy := false, cfs := false, shst := 0, pp := false, sqs := [], cqs := [], rrQid := 0, rrTaken := 0
    feat := featuresAtReset (resetCommands p s).clock.ns (s.port p).feat, aers := [], events := [], masked := [], deleting := [], abortDone := [] }) hends

theorem controllerReset_committed (p : PortId) (s : State) : ((controllerReset p s).port p).committed = [] ∧ ((controllerReset p s).port p).abortWait = [] := by
  rw [controllerReset_port, controllerFields, State.modPort_port_self]
  exact ⟨rfl, rfl⟩

theorem controllerReset_port_ne {p x : PortId} (hx : x ≠ p) (s : State) :
    ((controllerReset p s).port x).besideEnds = (s.port x).besideEnds := by
  rw [controllerReset_port, controllerFields, State.modPort_port_ne hx]
  exact congrFun (resetCommands_ends p s) x

/-- Settles O34: what the reset of the commands leaves of the port, then the fields of its controller; the vendor block's own registers. -/
theorem aFunctionResetClearsItsControllerAndVendorBlock : Obligations.AFunctionResetClearsItsControllerAndVendorBlock := by
  unfold Obligations.AFunctionResetClearsItsControllerAndVendorBlock
  refine fun p s => ⟨?_, ?_⟩
  · have hself := controllerReset_port_self p s
    obtain ⟨hcommitted, habort⟩ := controllerReset_committed p s
    exact ⟨(congrArg Port.en hself :), (congrArg Port.rdy hself :), (congrArg Port.sqs hself :), (congrArg Port.cqs hself :), (congrArg Port.aers hself :),
      (congrArg Port.events hself :), hcommitted, habort, (congrArg Port.deleting hself :), (congrArg (fun q => q.feat.ps) hself :),
      (congrArg (fun q => q.feat.hostId) hself :), (congrArg Port.status hself :)⟩
  · have hself : (vendorReset p s).port p = _ := State.modPort_port_self ..
    refine ⟨(congrArg Port.status hself :), (congrArg Port.intEnable hself :), (congrArg Port.masked65 hself :), (congrArg Port.pending65 hself :),
      (congrArg Port.mbGo hself :), (congrArg Port.mbResp hself :), (congrArg Port.mbWait hself :), (congrArg Port.evtBase hself :), ?_, ?_,
      fun x hx => State.modPort_port_ne hx⟩
    · exact (congrArg (fun q : Port => q.status.toNat) hself :)
    · exact (congrArg (fun q : Port => (intCause q).toNat) hself :).trans (by simp [intCause])

/-! ## The reset of a port's functions -/

/-- A port of which the controller and the vendor block have been reset. -/
structure Port.Cleared (q : Port) : Prop where
  en : q.en = false
  rdy : q.rdy = false
  sqs : q.sqs = []
  cqs : q.cqs = []
  intEnable : q.intEnable = 0
  mbGo : q.mbGo = false

theorem Port.Cleared.of_core {q r : Port} (h : r.core = q.core) (hq : q.Cleared) : r.Cleared where
  en := (congrArg Port.en h :).trans hq.en
  rdy := (congrArg Port.rdy h :).trans hq.rdy
  sqs := (congrArg Port.sqs h :).trans hq.sqs
  cqs := (congrArg Port.cqs h :).trans hq.cqs
  intEnable := (congrArg Port.intEnable h :).trans hq.intEnable
  mbGo := (congrArg Port.mbGo h :).trans hq.mbGo

/-- A reset of a port's functions after its event: the controller, the vendor block, the privileged view, and what goes on. -/
def portReset (p : PortId) (s : State) : State := settle (resetPrivilege p (vendorReset p (controllerReset p s)))

theorem functionReset_eq (p : PortId) (k : Nat) (s : State) : functionReset p k s = portReset p (portEvent p k s) := rfl

theorem resetPrivilege_cores (p : PortId) (s : State) : (resetPrivilege p s).cores = s.cores := (resetPrivilege_keeps (.refl s) (Sub.refl _)).cores rfl

theorem core_of_besideEnds {q r : Port} (h : r.besideEnds = q.besideEnds) : r.core = q.core :=
  congrArg (fun f : Port => { f with aers := [], events := [], masked := [], warning := 0, status := 0, pending65 := false, msgs65 := 0, shst := 0 }) h

theorem portReset_core_ne {p x : PortId} (hx : x ≠ p) (s : State) : ((portReset p s).port x).core = (s.port x).core := by
  have hport : ((vendorReset p (controllerReset p s)).port x).core = (s.port x).core := by
    rw [vendorReset, State.modPort_port_ne hx]
    exact core_of_besideEnds (controllerReset_port_ne hx s)
  exact (core_of_cores ((settle_cores _).trans (resetPrivilege_cores p _)) x).trans hport

theorem portReset_core_self (p : PortId) (s : State) : ((portReset p s).port p).core = ((vendorReset p (controllerReset p s)).port p).core :=
  core_of_cores ((settle_cores _).trans (resetPrivilege_cores p _)) p

theorem portReset_cleared (p : PortId) (s : State) : ((portReset p s).port p).Cleared := by
  have hself : (vendorReset p (controllerReset p s)).port p = _ := State.modPort_port_self ..
  have hreset := controllerReset_port_self p s
  exact .of_core (portReset_core_self p s) {
    en := (congrArg Port.en hself :).trans (congrArg Port.en hreset :)
    rdy := (congrArg Port.rdy hself :).trans (congrArg Port.rdy hreset :)
    sqs := (congrArg Port.sqs hself :).trans (congrArg Port.sqs hreset :)
    cqs := (congrArg Port.cqs hself :).trans (congrArg Port.cqs hreset :)
    intEnable := (congrArg Port.intEnable hself :)
    mbGo := (congrArg Port.mbGo hself :) }

theorem Port.link_of_core {q r : Port} (h : r.core = q.core) : r.link = q.link := (congrArg Port.link h :)
theorem Port.perst_of_core {q r : Port} (h : r.core = q.core) : r.perst = q.perst := (congrArg Port.perst h :)
theorem Port.en_of_core {q r : Port} (h : r.core = q.core) : r.en = q.en := (congrArg Port.en h :)

theorem vendorReset_pins (p : PortId) (s : State) : ((vendorReset p s).port p).link = (s.port p).link ∧ ((vendorReset p s).port p).perst = (s.port p).perst := by
  rw [vendorReset, State.modPort_port_self]
  exact ⟨rfl, rfl⟩

theorem controllerReset_pins (p : PortId) (s : State) :
    ((controllerReset p s).port p).link = (s.port p).link ∧ ((controllerReset p s).port p).perst = (s.port p).perst := by
  have h := controllerReset_port_self p s
  exact ⟨(congrArg Port.link h :), (congrArg Port.perst h :)⟩

theorem portReset_link (p x : PortId) (s : State) : ((portReset p s).port x).link = (s.port x).link := by
  by_cases hx : x = p
  · subst hx
    rw [Port.link_of_core (portReset_core_self x s), (vendorReset_pins x _).1, (controllerReset_pins x s).1]
  · exact Port.link_of_core (portReset_core_ne hx s)

theorem portReset_perst (p : PortId) (s : State) : ((portReset p s).port p).perst = (s.port p).perst := by
  rw [Port.perst_of_core (portReset_core_self p s), (vendorReset_pins p _).2, (controllerReset_pins p s).2]

/-! ## The privileged view -/

/-- The views of the paths stay as they are. -/
theorem pathState_of_mgmt {m : Nat} {s t : State} (h : Keeps m s t) (hm : m.testBit Part.mgmt.bit = false) (a : Path) : pathState t a = pathState s a := by
  have hmgmt : { t.mgmt with status := 0 } = { s.mgmt with status := 0 } := h.samePart (p := .mgmt) hm
  exact (congrArg (fun m : Mgmt => m.paths[pathIx a]) hmgmt :)

theorem resetPrivilege_pathState (p : PortId) (s : State) (a : Path) :
    (pathState (resetPrivilege p s) a).priv = if a = pathOf p then false else (pathState s a).priv := by
  have hmod : (pathState (modPath (pathOf p) (fun x => { x with priv := false }) s) a).priv = if a = pathOf p then false else (pathState s a).priv := by
    unfold pathState modPath
    rw [upd_get]
    cases a <;> match p with | 0 => rfl | 1 => rfl
  unfold resetPrivilege
  dsimp only
  split
  · rw [pathState_of_mgmt (wantDiscard_keeps (.refl _) (Sub.refl _)) rfl, hmod]
  · exact hmod

theorem portReset_pathState (p : PortId) (s : State) (a : Path) :
    (pathState (portReset p s) a).priv = if a = pathOf p then false else (pathState s a).priv := by
  have hreset : pathState (vendorReset p (controllerReset p s)) a = pathState s a :=
    Eq.trans (b := pathState (controllerReset p s) a) rfl (pathState_of_mgmt (controllerReset_keeps (.refl s) (Sub.refl _)) rfl a)
  unfold portReset
  rw [pathState_of_mgmt (settle_keeps (.refl _) (Sub.refl _)) rfl, resetPrivilege_pathState, hreset]

theorem wasReset_of_cleared {p : PortId} {t : State} (h : (t.port p).Cleared) (hpriv : (pathState t (pathOf p)).priv = false) : WasReset p t :=
  ⟨h.en, h.rdy, h.sqs, h.cqs, h.intEnable, h.mbGo, hpriv⟩

theorem portReset_wasReset (p : PortId) (s : State) : WasReset p (portReset p s) :=
  wasReset_of_cleared (portReset_cleared p s) ((portReset_pathState p s _).trans (if_pos rfl))

/-- Another port's reset leaves a port that was reset so. -/
theorem WasReset.portReset {p : PortId} {s : State} (h : WasReset p s) (q : PortId) : WasReset p (portReset q s) := by
  by_cases hp : p = q
  · subst hp
    exact portReset_wasReset p s
  · obtain ⟨hen, hrdy, hsqs, hcqs, hint, hgo, hpriv⟩ := h
    refine wasReset_of_cleared (.of_core (portReset_core_ne hp s) ⟨hen, hrdy, hsqs, hcqs, hint, hgo⟩) ((portReset_pathState q s _).trans ?_)
    rw [hpriv]
    split <;> rfl

theorem WasReset.of_keeps {p : PortId} {m : Nat} {s t : State} (h : WasReset p s) (hk : Keeps m s t) (hports : m.testBit Part.ports.bit = false)
    (hmgmt : m.testBit Part.mgmt.bit = false) : WasReset p t := by
  obtain ⟨hen, hrdy, hsqs, hcqs, hint, hgo, hpriv⟩ := h
  exact wasReset_of_cleared (.of_core (core_of_cores (hk.cores hports) p) ⟨hen, hrdy, hsqs, hcqs, hint, hgo⟩)
    ((congrArg PathState.priv (pathState_of_mgmt hk hmgmt _) :).trans hpriv)

theorem subsystemReset_wasReset {q : PortId} (l : List PortId) (s : State) (h : q ∈ l ∨ WasReset q s) :
    WasReset q (l.foldl (fun s q => functionReset q 4 s) s) := by
  induction l generalizing s with
  | nil => exact h.resolve_left List.not_mem_nil
  | cons x l ih =>
    rw [List.foldl_cons]
    refine ih _ ?_
    by_cases hx : q = x
    · subst hx
      exact .inr (portReset_wasReset ..)
    · exact h.imp (fun hm => (List.mem_cons.1 hm).resolve_left hx)
        fun hw => (hw.of_keeps (raise_keeps (.refl s) (Sub.refl _)) rfl rfl).portReset x

/-! ## The causes of a reset -/

theorem portEvent_port (p : PortId) (k : Nat) (s : State) (x : PortId) : (portEvent p k s).port x = s.port x :=
  congrArg (fun v : Vector Port 2 => v[x]) (raise_ports ..)

theorem functionReset_link (p x : PortId) (k : Nat) (s : State) : ((functionReset p k s).port x).link = (s.port x).link := by
  rw [functionReset_eq, portReset_link, portEvent_port]

theorem functionReset_en_ne {p x : PortId} (hx : x ≠ p) (k : Nat) (s : State) : ((functionReset p k s).port x).en = (s.port x).en := by
  rw [functionReset_eq]
  rw [Port.en_of_core (portReset_core_ne hx _), portEvent_port]

theorem portsAct_of_live {s : State} (h : s.live = true) : s.portsAct = true := by
  simp only [State.live, Bool.and_eq_true] at h
  simp only [State.portsAct, Bool.and_eq_true]
  exact h.1

/-- A port that loses its link. -/
def unlinked (p : PortId) (s : State) : State := s.modPort p (fun q => { q with link := none })

theorem dropLink_of_link {p : PortId} {s : State} (hlive : s.live = true) (hlink : (s.port p).link.isSome = true) :
    dropLink p s = portEvent p 5 (unlinked p s) := by
  have hlive' : s.live = true := hlive
  unfold dropLink
  rw [if_neg (by rw [Option.isNone_iff_eq_none]; intro h; rw [h] at hlink; cases hlink)]
  exact if_pos hlive'

section
variable {p : PortId} {s : State} (hlive : s.live = true) (hlink : (s.port p).link.isSome = true)
include hlive hlink

theorem isNone_of_linked : ¬((!s.portsAct || (s.port p).link.isNone) = true) := by
  obtain ⟨l, hl⟩ := Option.isSome_iff_exists.1 hlink
  simp [portsAct_of_live hlive, hl]

theorem hotReset_exec : exec (.hotReset p) s = .next (functionReset p 1 s) :=
  congrArg Host.Outcome.next ((if_neg (isNone_of_linked hlive hlink)).trans (if_pos hlive))

theorem functionLevelReset_exec : exec (.functionLevelReset p) s = .next (functionReset p 2 s) :=
  congrArg Host.Outcome.next ((if_neg (isNone_of_linked hlive hlink)).trans (if_pos hlive))

theorem refclkLoss_exec : exec (.refclkLoss p) s = .next (portEvent p 5 (unlinked p s)) := by
  show Host.Outcome.next (when s.portsAct (dropLink p) s) = _
  rw [portsAct_of_live hlive, when_true, dropLink_of_link hlive hlink]

theorem pcieLinkDown_exec : exec (.pcieLinkDown p) s = .next (portEvent p 5 (unlinked p s)) := by
  show Host.Outcome.next (when s.portsAct (dropLink p) s) = _
  rw [portsAct_of_live hlive, when_true, dropLink_of_link hlive hlink]

theorem linkDisable_exec : exec (.linkDisable p) s = .next (portReset p (portEvent p 5 (unlinked p s))) :=
  congrArg Host.Outcome.next ((if_neg (isNone_of_linked hlive hlink)).trans ((if_pos hlive).trans
    (congrArg (portReset p) (dropLink_of_link hlive hlink))))

theorem nvmSubsystemReset_exec : exec (.nvmSubsystemReset p 0x4E564D65) s =
    .next (leaveFailed ((allPorts.filter (portExists s)).foldl (fun s q => functionReset q 4 s) s)) :=
  congrArg Host.Outcome.next ((if_neg (by
    obtain ⟨l, hl⟩ := Option.isSome_iff_exists.1 hlink
    simp [portsAct_of_live hlive, hl])).trans (if_pos hlive))

end

theorem unlinked_port_self (p : PortId) (s : State) : (unlinked p s).port p = { s.port p with link := none } := State.modPort_port_self ..

theorem unlinked_port_ne {p x : PortId} (hx : x ≠ p) (s : State) : (unlinked p s).port x = s.port x := State.modPort_port_ne hx

/-- A link that goes down: its event touches no port. -/
theorem linkLost_ports (p : PortId) (s : State) :
    ((portEvent p 5 (unlinked p s)).port p).link = none ∧ ((portEvent p 5 (unlinked p s)).port p).en = (s.port p).en ∧
    ∀ x, x ≠ p → (portEvent p 5 (unlinked p s)).port x = s.port x := by
  simp only [portEvent_port, unlinked_port_self, true_and]
  exact fun x hx => unlinked_port_ne hx s

theorem perstDeassert_answer {p : PortId} {s : State} (hlive : s.live = true) (hperst : (s.port p).perst = true)
    (hmode : (s.power.straps.portMode && decide (p = 1)) = false) : Answers (.perstDeassert p) s (fun t =>
      (t.port p).perst = false ∧ (t.port p).link = some (trained (if s.power.straps.portMode then 4 else 2) (Config.freeValue s.freeCount)) ∧
      (t.port p).clocking = cfg s 0x2001 (2 + p.val) ∧ ∀ x, x ≠ p → t.port x = s.port x) := by
  have hreleased : (s.modPort p (fun q => { q with perst := false })).port p = { s.port p with perst := false } := State.modPort_port_self ..
  refine ⟨_, congrArg Host.Outcome.next ((if_pos (by rw [hlive, hperst]; rfl)).trans (if_neg ?_)), ?_⟩
  · rw [hreleased]
    simpa using hmode
  · beta_reduce
    rw [State.modPort_port_self]
    exact ⟨(congrArg Port.perst hreleased :), rfl, rfl, fun x hx => (State.modPort_port_ne hx).trans (State.modPort_port_ne hx)⟩

theorem mem_allPorts (p : PortId) : p ∈ allPorts := by decide +revert

/-- Settles O33: each cause leads to the reset of its port's functions, or to the loss of its link alone. -/
theorem portResetsReachTheirPortOnly : Obligations.PortResetsReachTheirPortOnly := by
  unfold Obligations.PortResetsReachTheirPortOnly
  intro p s hlive
  have hperst : (s.port p).perst = false → portExists s p = true → exec (.perstAssert p) s =
      .next (functionReset p 0 (s.modPort p (fun q => { q with perst := true, link := none }))) := fun hlow hexists =>
    congrArg Host.Outcome.next (if_pos (by rw [hlive, hlow, hexists]; rfl))
  refine ⟨hperst, fun hhigh => ?_, fun hhigh hmode => perstDeassert_answer hlive hhigh hmode, fun l hl => ?_, fun hlow hexists => ?_, fun hlink => ?_,
    fun hlink v c hc => ?_⟩
  · exact congrArg Host.Outcome.next ((if_neg (by rw [hhigh]; simp)).trans (if_neg (by rw [hlive]; simp)))
  · have hlink : (s.port p).link.isSome = true := by rw [hl]; rfl
    exact ⟨hotReset_exec hlive hlink, functionLevelReset_exec hlive hlink, refclkLoss_exec hlive hlink, pcieLinkDown_exec hlive hlink,
      linkDisable_exec hlive hlink, nvmSubsystemReset_exec hlive hlink, fun v hv => congrArg Host.Outcome.next (if_pos (by simpa using .inr hv))⟩
  · have hself : (s.modPort p (fun q => { q with perst := true, link := none })).port p = { s.port p with perst := true, link := none } :=
      State.modPort_port_self ..
    refine ⟨_, hperst hlow hexists, ?_, ?_, portReset_wasReset .., fun x hx => ⟨?_, ?_⟩⟩
    · rw [functionReset_eq, portReset_perst, portEvent_port, hself]
    · rw [functionReset_link, hself]
    · rw [functionReset_link, State.modPort_port_ne hx]
    · rw [functionReset_en_ne hx, State.modPort_port_ne hx]
  · obtain ⟨hnone, hen, hother⟩ := linkLost_ports p s
    refine ⟨fun c hc => ?_, fun c hc => ?_, ⟨_, linkDisable_exec hlive hlink, ?_, portReset_wasReset .., fun x hx => ⟨?_, ?_⟩⟩,
      ⟨_, nvmSubsystemReset_exec hlive hlink, fun q hq => ?_⟩⟩
    · rcases List.mem_pair.1 hc with rfl | rfl
      · exact ⟨_, hotReset_exec hlive hlink, portReset_wasReset .., fun x => ⟨functionReset_link .., fun hx => functionReset_en_ne hx ..⟩⟩
      · exact ⟨_, functionLevelReset_exec hlive hlink, portReset_wasReset .., fun x => ⟨functionReset_link .., fun hx => functionReset_en_ne hx ..⟩⟩
    · rcases List.mem_pair.1 hc with rfl | rfl
      · exact ⟨_, refclkLoss_exec hlive hlink, hnone, hen, hother⟩
      · exact ⟨_, pcieLinkDown_exec hlive hlink, hnone, hen, hother⟩
    · rw [portReset_link, hnone]
    · rw [Port.en_of_core (portReset_core_ne hx _), hother x hx]
    · rw [portReset_link, hother x hx]
    · exact (subsystemReset_wasReset _ s (.inl (List.mem_filter.2 ⟨mem_allPorts q, hq⟩))).of_keeps (leaveFailed_keeps (.refl _) (Sub.refl _)) rfl rfl
  · have hnone : ((!s.portsAct || (s.port p).link.isNone) = true) := by rw [hlink]; simp
    have hdrop : dropLink p s = s := if_pos (by rw [hlink]; rfl)
    simp only [List.mem_cons, List.not_mem_nil, or_false] at hc
    rcases hc with rfl | rfl | rfl | rfl | rfl | rfl
    · exact congrArg Host.Outcome.next (if_pos hnone)
    · exact congrArg Host.Outcome.next (if_pos hnone)
    · show Host.Outcome.next (when s.portsAct (dropLink p) s) = _
      rw [portsAct_of_live hlive, when_true, hdrop]
    · show Host.Outcome.next (when s.portsAct (dropLink p) s) = _
      rw [portsAct_of_live hlive, when_true, hdrop]
    · exact congrArg Host.Outcome.next (if_pos hnone)
    · exact congrArg Host.Outcome.next (if_pos (by rw [hlink]; simp))

/-! ## CC.EN and CC.SHN (spec 10, R297, R311) -/

/-- A controller that has just been enabled. -/
def enabled (s : State) (q : Port) : Port := { q with
  en := true, shst := 0, rdy := (s.mule.mounted || decide (s.power.phase = .recovery)) && decide (s.fw.activation = .none)
  cfs := decide (s.power.phase = .failed) && !s.mule.mounted, sqs := [⟨0, 4096, 0, 0, 0⟩], cqs := [⟨0, 4096, 0, 0, 0, true⟩] }

theorem ccEnable_exec {p : PortId} {s : State} (hlive : s.live = true) (hlink : (s.port p).link.isSome = true) (hen : (s.port p).en = false) :
    exec (.ccEnable p) s = .next (settle (s.modPort p (enabled s))) :=
  congrArg Host.Outcome.next (if_pos (by rw [hlive, hlink, hen]; rfl))

/-- The shutdown status of a port goes on at most from under way to done. -/
theorem shutdownPorts_shst (l : List PortId) (p : PortId) (s : State) (h : (s.port p).shst = 1 ∨ (s.port p).shst = 2) :
    ((l.foldl (fun s p =>
      if (s.port p).shst = 1 && !s.cmds.ctxs.any (fun c => c.port = p) && (s.port p).committed = [] && !adminOpenOn s p
          && (s.power.holdupEver || !hasDirty s) then
        s.modPort p (fun q => { q with shst := 2 })
      else s) s).port p).shst = 1 ∨ ((l.foldl (fun s p =>
      if (s.port p).shst = 1 && !s.cmds.ctxs.any (fun c => c.port = p) && (s.port p).committed = [] && !adminOpenOn s p
          && (s.power.holdupEver || !hasDirty s) then
        s.modPort p (fun q => { q with shst := 2 })
      else s) s).port p).shst = 2 := by
  induction l generalizing s with
  | nil => exact h
  | cons x l ih =>
    rw [List.foldl_cons]
    refine ih _ ?_
    split
    · by_cases hx : p = x
      · subst hx
        rw [State.modPort_port_self]
        exact .inr rfl
      · rwa [State.modPort_port_ne hx]
    · exact h

theorem Keeps.shst {m : Nat} {s t : State} (h : Keeps m s t) (hports : m.testBit Part.ports.bit = false) (p : PortId) :
    (t.port p).shst = (s.port p).shst := by
  have hp : t.ports.map hostSide = s.ports.map hostSide := h.samePart (p := .ports) hports
  have hhost : hostSide (t.port p) = hostSide (s.port p) := by
    have h := congrArg (fun v : Vector Port 2 => v[p]) hp
    simpa [State.port] using h
  exact (congrArg Port.shst hhost :)

theorem progress_shst {p : PortId} {s : State} (h : (s.port p).shst = 1 ∨ (s.port p).shst = 2) :
    ((progress s).port p).shst = 1 ∨ ((progress s).port p).shst = 2 := by
  have hspin : ∀ u : State, ((enterPhase .standby (sendSpin 0 (unloadAll u))).port p).shst = (u.port p).shst := fun u => by
    rw [(enterPhase_keeps (.refl _) (Sub.refl _)).shst rfl, (sendSpin_keeps (.refl _) (Sub.refl _)).shst rfl, (unloadAll_unload u).shst rfl]
  have hstandby : ∀ u : State, ((standbyProgress u).port p).shst = (u.port p).shst := fun u =>
    ite_field (g := fun s : State => (s.port p).shst) (ite_field (g := fun s : State => (s.port p).shst) rfl
      (ite_field (g := fun s : State => (s.port p).shst) rfl (hspin _))) rfl
  have hthermal : ∀ u : State, ((thermalProgress u).port p).shst = (u.port p).shst := fun u => ite_field (g := fun s : State => (s.port p).shst) (hspin _) rfl
  have hspeed : ∀ u : State, ((speedProgress u).port p).shst = (u.port p).shst := fun u => by
    refine ite_field (g := fun s : State => (s.port p).shst) ?_ rfl
    rw [(changeSpeed_keeps (.refl _) (Sub.refl _)).shst rfl, (unloadAll_unload u).shst rfl]
  have hshutdown : ∀ u : State, ((u.port p).shst = 1 ∨ (u.port p).shst = 2) → ((shutdownProgress u).port p).shst = 1 ∨ ((shutdownProgress u).port p).shst = 2 := fun u hu => by
    unfold shutdownProgress
    extract_lets a oldMule
    have ha : (a.port p).shst = 1 ∨ (a.port p).shst = 2 := shutdownPorts_shst allPorts p u hu
    clear_value a
    split
    · rwa [(unloadAll_unload _).shst rfl]
    · exact ha
  unfold progress
  rw [(kickDies_keeps (.refl _) (Sub.refl _)).shst rfl, (loadForWork_keeps (.refl _) (Sub.refl _)).shst rfl, hspeed]
  refine hshutdown _ ?_
  rwa [hthermal, hstandby, (endDraining_keeps (.refl _) (Sub.refl _)).shst rfl, (servePauses_keeps (.refl _) (Sub.refl _)).shst rfl,
    (releaseRegions_keeps (.refl _) (Sub.refl _)).shst rfl]

/-- Settles O35: an enabled controller, a disabled one, and a shutdown that begins. -/
theorem controllerEnableDisableAndShutdown : Obligations.ControllerEnableDisableAndShutdown := by
  unfold Obligations.ControllerEnableDisableAndShutdown
  intro p s hlive
  have hdisable : (s.port p).en = true → exec (.ccDisable p) s = .next (settle (controllerReset p (portEvent p 3 s))) := fun hen =>
    congrArg Host.Outcome.next ((if_neg (by rw [portsAct_of_live hlive, hen]; decide)).trans (if_pos hlive))
  have hshutdown : ∀ n : BitVec 2, (n = 1 ∨ n = 2) → (s.port p).shst = 0 →
      exec (.ccShutdown p n) s = .next (progress (s.modPort p (fun q => { q with shst := 1 }))) := fun n hn hshst =>
    congrArg Host.Outcome.next (if_pos (by rcases hn with rfl | rfl <;> simp [hlive, hshst]))
  refine ⟨fun l hl hen => ccEnable_exec hlive (by rw [hl]; rfl) hen, fun hen => ⟨hdisable hen, ?_, _, hdisable hen, ?_⟩, fun hlink hen => ?_,
    fun n hn hshst => ⟨hshutdown n hn hshst, _, hshutdown n hn hshst, progress_shst (.inl (congrArg Port.shst (State.modPort_port_self ..) :))⟩, fun n hn => ?_⟩
  · exact congrArg Host.Outcome.next (if_neg (by rw [hen]; simp))
  · have hcore := core_of_cores (settle_cores (controllerReset p (portEvent p 3 s))) p
    have hreset := controllerReset_port_self p (portEvent p 3 s)
    rw [portEvent_port] at hreset
    beta_reduce
    generalize (settle (controllerReset p (portEvent p 3 s))).port p = q at hcore ⊢
    generalize (controllerReset p (portEvent p 3 s)).port p = r at hcore hreset
    generalize s.port p = q0 at hreset ⊢
    exact ⟨(congrArg Port.en hcore :).trans (congrArg Port.en hreset :), (congrArg Port.rdy hcore :).trans (congrArg Port.rdy hreset :),
      (congrArg Port.sqs hcore :).trans (congrArg Port.sqs hreset :), (congrArg Port.cqs hcore :).trans (congrArg Port.cqs hreset :),
      (congrArg Port.link hcore :).trans (congrArg Port.link hreset :)⟩
  · have hcore := core_of_cores (settle_cores (s.modPort p (enabled s))) p
    rw [State.modPort_port_self] at hcore
    refine ⟨_, ccEnable_exec hlive hlink hen, ?_⟩
    beta_reduce
    generalize (settle (s.modPort p (enabled s))).port p = q at hcore ⊢
    exact ⟨(congrArg Port.en hcore :), (congrArg Port.rdy hcore :), (congrArg Port.sqs hcore :), (congrArg Port.cqs hcore :)⟩
  · exact congrArg Host.Outcome.next (if_neg (by rcases hn with rfl | rfl | h <;> simp_all))

end Sys2Proof.Machine
end

section
/-! SETTLED. The end of MOUNT with only the oldest of too many SYSTEM copies readable (O15). -/

set_option Elab.async false

namespace Sys2Proof.Machine

/-- A copy of SYSTEM without a bad block. -/
def soundCopy : SystemCopy := ⟨1, .replicate 2 [], .replicate 2 [], .replicate 2 175, 0, none, none, Fw.reset.slots⟩

/-- A drive in MOUNT whose SYSTEM partition lists one copy more than it can hold. -/
def crowdedSystem : State :=
  { State.reset with power.running := true, power.phase := .mount, mule.system := List.replicate 2689 soundCopy }

/-- A reading of which only the oldest copy decodes. -/
def oldestOnly : MountReading := ⟨true, true, 2688, []⟩

theorem crowdedSystem_copy : systemCopy oldestOnly crowdedSystem = some soundCopy := by decide +kernel

theorem crowdedSystem_blocks : ∀ d : Fin 2, 3300 ≤ goodBlocks (factoryScan oldestOnly (takeSystem soundCopy crowdedSystem)) d := by decide +kernel

/-- The copy that the factory scan writes pushes the oldest one out, so that none decodes when MOUNT is judged. -/
theorem crowdedSystem_unmounted : seenAfter (.mountEnd oldestOnly) crowdedSystem (fun t => t.mule.mounted) = some false := by decide +kernel

/-- Refutes O15: a copy decodes at MOUNT_END and the good blocks are there, yet the factory scan's own copy displaces it and start-up fails. -/
theorem not_mountReplayAndZoneLoadEnd : ¬ Obligations.MountReplayAndZoneLoadEnd := by
  unfold Obligations.MountReplayAndZoneLoadEnd
  intro h
  obtain ⟨t, hexec, hmounted, -⟩ := h.1 crowdedSystem oldestOnly soundCopy (by decide) rfl crowdedSystem_copy crowdedSystem_blocks
  have hseen := (seenAfter_of_next (fun t => t.mule.mounted) hexec).symm.trans crowdedSystem_unmounted
  rw [hmounted] at hseen
  exact absurd hseen (by decide)

end Sys2Proof.Machine
end

section
/-! SETTLED. The mailbox of a port, and EVT_BASE (O50). -/

set_option Elab.async false

namespace Sys2Proof.Machine

/-! ## What a message leaves of the mailbox registers -/

/-- GO, MB_RESPONSE and MB_REQUEST. -/
def Port.box (q : Port) : Bool × Option (List Byte) × List Byte := (q.mbGo, q.mbResp, q.mbReq)

/-- The mailbox registers of the ports. -/
def State.boxes (s : State) : PortId → Bool × Option (List Byte) × List Byte := fun p => (s.port p).box

theorem Keeps.boxes {m : Nat} {s t : State} (h : Keeps m s t) (hports : m.testBit Part.ports.bit = false) : t.boxes = s.boxes := by
  funext p
  exact (congrArg Port.box (steady_of_steadies (h.steadies hports) p) :)

theorem modPort_boxes {s : State} {p : PortId} {f : Port → Port} (h : ∀ q, (f q).box = q.box) : (s.modPort p f).boxes = s.boxes := by
  funext x
  unfold State.boxes
  by_cases hx : x = p
  · subst hx
    rw [State.modPort_port_self, h]
  · rw [State.modPort_port_ne hx]

theorem modPorts_boxes {s : State} {f : Port → Port} (h : ∀ q, (f q).box = q.box) : (s.modPorts f).boxes = s.boxes := by
  funext x
  unfold State.boxes
  rw [State.modPorts_port, h]

theorem deliverTo_boxes (a : Path) (e : Byte) (r : List Byte) (s : State) : (deliverTo a e r s).boxes = s.boxes := by
  have hwait : ∀ q : Port, (if q.mbGo then { q with mbWait := some r } else q).box = q.box := fun q => by split <;> rfl
  unfold deliverTo
  split
  · exact modPort_boxes hwait
  · exact modPort_boxes hwait
  · rfl

theorem answerWaiter_boxes (k : Nat) (s : State) : (answerWaiter k s).boxes = s.boxes := by
  unfold answerWaiter
  dsimp only
  split
  · rfl
  · rfl
  · exact (deliverTo_boxes ..).trans rfl
  · split
    · rfl
    · refine (modPort_boxes fun q => ?_).trans rfl
      unfold noteError
      split <;> rfl

theorem withStatus_box (v : Word32) (q : Port) : (withStatus v q).box = q.box := by
  unfold withStatus
  dsimp only
  split
  · unfold requestMsg
    split <;> rfl
  · rfl

theorem clearMctpStatus_boxes (v k : Word16) (s : State) : (clearMctpStatus v k s).boxes = s.boxes := by
  unfold clearMctpStatus
  dsimp only
  refine Eq.trans ((refreshAlert_keeps (.refl _) (Sub.refl _)).boxes rfl) ?_
  exact modPorts_boxes fun q => withStatus_box ..

theorem postAen_box (a : Aen) (q : Port) : (postAen a q).box = q.box := (congrArg Port.box (postAen_core a q) :)

theorem startActivation_boxes (slot : Fin 2) (a : Option AdminHdr) (s : State) : (startActivation slot a s).boxes = s.boxes := by
  have hstarting : ∀ u : State, (activationStarting u).boxes = u.boxes := fun u => modPorts_boxes fun q => by
    split
    · exact postAen_box ..
    · rfl
  unfold startActivation
  dsimp only
  refine Eq.trans (modPorts_boxes fun q => ?_) ((hstarting _).trans ((unfreeze_keeps (.refl s) (Sub.refl _)).boxes rfl))
  split <;> rfl

theorem fwAction_boxes (ca fs : Nat) (src : Path) (a : Option AdminHdr) (d : Bool) (s : State) : (fwAction ca fs src a d s).2.boxes = s.boxes := by
  have heffect : ∀ slot, (fwActionEffect ca slot a s).2.boxes = s.boxes := fun slot => by
    unfold fwActionEffect
    split
    · rfl
    · split
      · rfl
      · split
        · rfl
        · split
          · rfl
          · exact startActivation_boxes ..
  unfold fwAction
  dsimp only
  split
  · exact (fwRefuse_keeps (.refl s) (Sub.refl _)).boxes rfl
  · split
    · exact (fwRefuse_keeps (.refl s) (Sub.refl _)).boxes rfl
    · exact ((recordSlots_keeps (.refl _) (Sub.refl _)).boxes rfl).trans (heffect _)

theorem finishCommit_boxes (s : State) : (finishCommit s).boxes = s.boxes := by
  unfold finishCommit
  extract_lets src changed oldDict a b c
  have hb : b.boxes = s.boxes := foldl_field State.boxes _ (fun t e => (persistValue_keeps (.refl t) (Sub.refl _)).boxes rfl) _ a
  have hc : c.boxes = s.boxes := ite_field (g := State.boxes) (((recountBands_keeps (.refl b) (Sub.refl _)).boxes rfl).trans hb) hb
  exact (answerWaiter_boxes ..).trans (((setFlag_keeps (.refl c) (Sub.refl _)).boxes rfl).trans hc)

theorem requestCommit_boxes (a : Path) (w : Waiter) (s : State) : (requestCommit a w s).2.boxes = s.boxes := by
  have hrefuse : ∀ (k : Nat) (o : ObjKey), (refuseCommit a k o s).boxes = s.boxes := fun k o => (refuseCommit_keeps (.refl s) (Sub.refl _)).boxes rfl
  unfold requestCommit
  dsimp only
  split
  · exact hrefuse ..
  · split
    · exact hrefuse ..
    · split
      · exact hrefuse ..
      · split
        · exact (finishCommit_boxes _).trans rfl
        · rfl

/-! ## Writes -/



/-- Every object with a row of its own but two, FW_ACTION and MCTP_STATUS, leaves the ports to the flags. -/
theorem specialWrite_keeps_noPorts {pm : Nat} {a : Path} {index sub : Nat} {v : List Byte} {s : State} (haction : index ≠ 0x7102)
    (hstatus : index ≠ 0x1101) (hm : Sub 0xbff5a40 pm) : OptKeeps pm s (specialWrite a index sub v s) := by
  have hk : Keeps pm s s := .refl s
  have hvalue : ∀ b : Bool, Keeps pm s (storeValue a index sub b v s) := fun b => storeValue_keeps hk
  unfold specialWrite
  dsimp only
  rw [if_neg (by simp [hstatus] : ¬((decide (index = 0x1101) && decide (sub = 1)) = true)), if_neg haction]
  refine optKeeps_ite (optKeeps_pair (writeOem_keeps hk)) (optKeeps_ite (optKeeps_pair (enterPriv_keeps hk)) (optKeeps_ite (optKeeps_some (writeLock_keeps hk)) ?_))
  refine optKeeps_ite (optKeeps_some (refreshAlert_keeps (hvalue _))) (optKeeps_ite (optKeeps_some (keeps_ite ?_ hk)) ?_)
  · exact Keeps.upd rfl rfl rfl rfl rfl rfl hk
  refine optKeeps_ite (optKeeps_some (requestMode_keeps (hvalue _))) (optKeeps_ite (optKeeps_some (applyDirtyLimit_keeps (hvalue _))) ?_)
  refine optKeeps_ite (optKeeps_some (Keeps.upd rfl rfl rfl rfl rfl rfl (hvalue true))) (optKeeps_ite (optKeeps_some (recountBands_keeps (hvalue _))) ?_)
  refine optKeeps_ite (optKeeps_some (writeCaptureCtrl_keeps hk)) (optKeeps_ite (optKeeps_some (restartDecim_keeps (Keeps.upd rfl rfl rfl rfl rfl rfl hk))) ?_)
  refine optKeeps_ite (optKeeps_some (storeValue_keeps hk)) (optKeeps_ite (optKeeps_some (Keeps.upd rfl rfl rfl rfl rfl rfl hk)) ?_)
  refine optKeeps_ite (optKeeps_some (requestKinds_keeps hk)) (optKeeps_ite ?_ ?_)
  · split
    · exact optKeeps_some (Keeps.upd rfl rfl rfl rfl rfl rfl hk)
    · exact optKeeps_some (Keeps.upd rfl rfl rfl rfl rfl rfl hk)
    · exact optKeeps_some (oemStart_keeps hk)
    · exact optKeeps_some (Keeps.upd rfl rfl rfl rfl rfl rfl hk)
  refine optKeeps_ite (optKeeps_some (eraseSlot_keeps hk)) (optKeeps_ite (optKeeps_some (abortStaging_keeps hk)) ?_)
  refine optKeeps_ite (optKeeps_ite (optKeeps_some (modPath_keeps hk)) (optKeeps_pair (deliverPiece_keeps (pieceOfBytes_keeps hk)))) ?_
  refine optKeeps_ite (optKeeps_some (setEvtMode_keeps (hvalue _))) (optKeeps_ite (optKeeps_some (keeps_ite (freeze_keeps hk) (unfreeze_keeps hk))) ?_)
  refine optKeeps_ite (optKeeps_some (Keeps.upd rfl rfl rfl rfl rfl rfl hk)) (optKeeps_ite (optKeeps_ite (optKeeps_some (retireByRequest_keeps hk)) ?_) optKeeps_none)
  exact optKeeps_some (Keeps.upd rfl rfl rfl rfl rfl rfl hk)

theorem specialWrite_boxes {a : Path} {index sub : Nat} {v : List Byte} {s : State} {r : Nat × State} (h : specialWrite a index sub v s = some r) :
    r.2.boxes = s.boxes := by
  by_cases haction : index = 0x7102
  · subst haction
    have heq : specialWrite a 0x7102 sub v s =
        if sub = 1 then some (writeFwAction a (leNat (v.take 8)) s) else some (0, { s with fw.actionSlot := leNat (v.take 8) }) := by
      simp [specialWrite]
    rw [heq] at h
    split at h
    · cases h
      exact fwAction_boxes ..
    · cases h
      rfl
  · by_cases hstatus : index = 0x1101
    · subst hstatus
      by_cases hsub : sub = 1
      · subst hsub
        have heq : specialWrite a 0x1101 1 v s = some (0, clearMctpStatus (BitVec.ofNat 16 (leNat (v.take 8))) 0 s) := by
          simp [specialWrite]
        rw [heq] at h
        cases h
        exact clearMctpStatus_boxes ..
      · have heq : specialWrite a 0x1101 sub v s = none := by
          simp [specialWrite, hsub]
        rw [heq] at h
        cases h
    · exact (specialWrite_keeps_noPorts haction hstatus (Sub.refl _) r h).boxes rfl

theorem writeWhole_boxes (a : Path) (w : Waiter) (index sub : Nat) (o : Obj) (v : List Byte) (s : State) :
    (writeWhole a w index sub o v s).2.boxes = s.boxes := by
  have hstore : ∀ b : Bool, (storeValue a index sub b v s).boxes = s.boxes := fun b => (storeValue_keeps (.refl s) (Sub.refl _)).boxes rfl
  unfold writeWhole
  dsimp only
  split
  · rfl
  · split
    · exact ite_field (g := State.boxes) ((noteRefusal_keeps (.refl s) (Sub.refl _)).boxes rfl) rfl
    · split
      · split
        · exact (requestDiscard_keeps (.refl s) (Sub.refl _)).boxes rfl
        · exact requestCommit_boxes ..
      · split
        · exact (stageValue_keeps (.refl s) (Sub.refl _)).boxes rfl
        · split
          next r h => exact specialWrite_boxes h
          next => exact hstore _

theorem dictWrite_boxes (a : Path) (w : Waiter) (index sub : Nat) (v : List Byte) (s : State) : (dictWrite a w index sub v s).2.boxes = s.boxes := by
  unfold dictWrite
  split
  · rfl
  · exact writeWhole_boxes ..

theorem segmentWrite_boxes (a : Path) (w : Waiter) (index sub off : Nat) (last : Bool) (v : List Byte) (s : State) :
    (segmentWrite a w index sub off last v s).2.boxes = s.boxes := by
  have hdrop : ∀ u : State, (dropSegment a u).boxes = u.boxes := fun u => (dropSegment_keeps (.refl u) (Sub.refl _)).boxes rfl
  unfold segmentWrite
  split
  · rfl
  · dsimp only
    split
    · exact hdrop s
    · split
      · rw [writeWhole_boxes, hdrop]
        split <;> rfl
      · refine Eq.trans ((modPath_keeps (.refl _) (Sub.refl _)).boxes rfl) ?_
        split <;> rfl

/-! ## Plarik messages -/

theorem plarikRun_boxes (a : Path) (e : Byte) (r : List Byte) (s : State) : (plarikRun a e r s).2.boxes = s.boxes := by
  unfold plarikRun
  split
  · exact (plarikRead_keeps (.refl s) (Sub.refl _)).boxes rfl
  · unfold plarikWrite laterAnswer
    dsimp only
    split
    · exact segmentWrite_boxes ..
    · exact dictWrite_boxes ..
  · exact dictWrite_boxes ..
  · exact (plarikDescribe_keeps (.refl s) (Sub.refl 0)).boxes rfl
  · exact (plarikNext_keeps (.refl s) (Sub.refl 0)).boxes rfl

theorem plarikRefuse_boxes (a : Path) (e : Byte) (r : List Byte) (k : Nat) (s : State) : (plarikRefuse a e r k s).boxes = s.boxes := by
  unfold plarikRefuse
  split
  · rfl
  · exact deliverTo_boxes ..

theorem plarikReceive_boxes (a : Path) (e : Byte) (r : List Byte) (s : State) : (plarikReceive a e r s).boxes = s.boxes := by
  have hreply : ∀ (u : State) (x : Option PlarikAnswer × State), x.2.boxes = s.boxes → (plarikReply a e r u x).boxes = s.boxes := fun u x hx => by
    unfold plarikReply
    split
    · exact (deliverTo_boxes ..).trans hx
    · split
      · exact Eq.trans rfl hx
      · exact hx
  unfold plarikReceive
  refine ite_field (g := State.boxes) rfl (ite_field (g := State.boxes) rfl (ite_field (g := State.boxes) (plarikRefuse_boxes ..)
    (ite_field (g := State.boxes) (plarikRefuse_boxes ..) (ite_field (g := State.boxes) (plarikRefuse_boxes ..) (hreply _ _ ?_)))))
  exact (plarikRun_boxes ..).trans rfl

/-! ## The registers -/

/-- A page written from its first byte on. -/
def pageWritten (m : List Byte) (q : Port) : List Byte := (m ++ q.mbReq.drop m.length).take 4096

theorem requestWrite_of_idle {p : PortId} {m : List Byte} {s : State} (hgo : (s.port p).mbGo = false) :
    requestWrite p m s = s.modPort p (fun q => { q with mbReq := pageWritten m (s.port p) }) := by
  have hother : ∀ q : Port, q = s.port p → (if q.mbGo then q else { q with mbReq := (m ++ q.mbReq.drop m.length).take 4096 }) =
      { q with mbReq := pageWritten m (s.port p) } := fun q hq => by
    subst hq
    rw [hgo]
    rfl
  have hat := hother _ rfl
  unfold requestWrite State.modPort upd
  exact congrArg (fun q => { s with ports := s.ports.set p q }) hat

theorem mailboxDone_port_self (p : PortId) (s : State) : (mailboxDone p s).port p = setPortFlag .mailboxDone (s.port p) := by
  have halert : ∀ u : State, (refreshAlert u).port p = u.port p := fun u => rfl
  unfold mailboxDone
  rw [halert]
  exact State.modPort_port_self ..

theorem setPortFlag_status (f : Flag) (q : Port) : (setPortFlag f q).status = q.status ||| (1 <<< f.bit) := withStatus_status ..

theorem setPortFlag_mailbox (f : Flag) (q : Port) : (setPortFlag f q).box = q.box ∧ (setPortFlag f q).mbWait = q.mbWait := by
  refine ⟨withStatus_box .., ?_⟩
  unfold setPortFlag withStatus
  dsimp only
  split
  · unfold requestMsg
    split <;> rfl
  · rfl

/-- What the response of a mailbox leaves in its port. -/
theorem mailboxDone_answer (p : PortId) {s : State} {q : Port} (h : s.port p = q) : ((mailboxDone p s).port p).mbGo = q.mbGo ∧
    ((mailboxDone p s).port p).mbResp = q.mbResp ∧ ((mailboxDone p s).port p).mbReq = q.mbReq ∧ ((mailboxDone p s).port p).mbWait = q.mbWait ∧
    ((mailboxDone p s).port p).status = q.status ||| 0x200 := by
  obtain ⟨hbox, hwait⟩ := setPortFlag_mailbox .mailboxDone q
  rw [mailboxDone_port_self, h]
  exact ⟨(congrArg Prod.fst hbox :), (congrArg (fun x => x.2.1) hbox :), (congrArg (fun x => x.2.2) hbox :), hwait, setPortFlag_status ..⟩

theorem mailboxSend_boxes (p : PortId) (r : List Byte) (s : State) : (mailboxSend p r s).boxes p = (true, none, (s.port p).mbReq) := by
  unfold mailboxSend
  rw [plarikReceive_boxes]
  unfold State.boxes
  rw [State.modPort_port_self]
  rfl

/-- The state in which a request has been written. -/
def requested (p : PortId) (page : List Byte) (s : State) : State := s.modPort p (fun q => { q with mbReq := page })

theorem requested_port (p : PortId) (page : List Byte) (s : State) : (requested p page s).port p = { s.port p with mbReq := page } :=
  State.modPort_port_self ..

theorem bar2Reg_mbResult (s : State) (p : PortId) : bar2Reg s p 0x0044 = mbResult (s.port p) := rfl

theorem lowHalf (v : Word32) : bitsOf v.toNat 0 16 = v.toNat % 65536 := by
  unfold bitsOf
  rw [Nat.pow_zero, Nat.div_one]
  rfl

section
variable {p : PortId} {v : Word32} {m page : List Byte} {s : State} (hlive : s.live = true) (hgo : (s.port p).mbGo = false)
  (hpage : page = (m ++ (s.port p).mbReq.drop m.length).take 4096)
include hlive hgo hpage

theorem mbDoorbellWrite_exec : exec (.mbDoorbellWrite p v m) s = .next (
    if v.getLsbD 31 = false then (requested p page s).modPort p (fun q => { q with mbLen := BitVec.ofNat 16 (v.toNat % 65536) })
    else if v.toNat % 65536 < 1 ∨ 4096 < v.toNat % 65536 then
      mailboxDone p ((requested p page s).modPort p (fun q => { q with mbLen := BitVec.ofNat 16 (v.toNat % 65536), mbResp := some [], mbWait := none }))
    else mailboxSend p ((page ++ List.replicate 4096 0).take (v.toNat % 65536)) (requested p page s)) := by
  have hwrite : requestWrite p m s = requested p page s := by
    rw [requestWrite_of_idle hgo, hpage]
    rfl
  show execMbDoorbellWrite p v m s = _
  unfold execMbDoorbellWrite
  dsimp only
  rw [if_neg (by rw [hlive, hgo]; decide), hwrite, lowHalf, requested_port]
  cases v.getLsbD 31 with
  | false => rfl
  | true => simp only [Bool.or_eq_true, decide_eq_true_eq, Bool.not_true, Bool.false_eq_true, if_false, Bool.true_eq_false]

end

/-- Settles O50: a doorbell while GO is set, the three outcomes of one while it is not, a response, and EVT_BASE. -/
theorem mailboxAndItsRegisters : Obligations.MailboxAndItsRegisters := by
  unfold Obligations.MailboxAndItsRegisters
  intro p s hlive
  refine ⟨fun v m hgo => ?_, fun v m page hgo hpage => ⟨fun hset hlow hhigh => ?_, fun hset hlen => ?_, fun hclear => ?_⟩, fun r hwait => ?_, fun hwait => ?_,
    fun v => exec_ifLive hlive _⟩
  · exact congrArg Host.Outcome.next (if_pos (by rw [hgo]; simp))
  · have hexec : exec (.mbDoorbellWrite p v m) s = .next (mailboxSend p ((page ++ List.replicate 4096 0).take (v.toNat % 65536)) (requested p page s)) :=
      (mbDoorbellWrite_exec hlive hgo hpage).trans (congrArg Host.Outcome.next ((if_neg (by rw [hset]; decide)).trans (if_neg (by omega))))
    have hboxes := mailboxSend_boxes p ((page ++ List.replicate 4096 0).take (v.toNat % 65536)) (requested p page s)
    rw [requested_port] at hboxes
    exact ⟨hexec, _, hexec, (congrArg Prod.fst hboxes :), (congrArg (fun x => x.2.1) hboxes :), (congrArg (fun x => x.2.2) hboxes :)⟩
  · have hexec := (mbDoorbellWrite_exec hlive hgo hpage).trans (congrArg Host.Outcome.next ((if_neg (by rw [hset]; decide)).trans (if_pos (by omega))))
    have hport : ((requested p page s).modPort p (fun q => { q with mbLen := BitVec.ofNat 16 (v.toNat % 65536), mbResp := some [], mbWait := none })).port p =
        { s.port p with mbReq := page, mbLen := BitVec.ofNat 16 (v.toNat % 65536), mbResp := some [], mbWait := none } := by
      rw [State.modPort_port_self, requested_port]
    obtain ⟨h1, h2, h3, -, h5⟩ := mailboxDone_answer p hport
    refine ⟨_, hexec, h1.trans hgo, h2, h3, ?_, h5⟩
    rw [bar2Reg_mbResult, mbResult, h2]
    rfl
  · exact (mbDoorbellWrite_exec hlive hgo hpage).trans (congrArg Host.Outcome.next ((if_pos hclear).trans (State.modPort_modPort ..)))
  · refine ⟨_, (exec_ifLive hlive _).trans (by rw [hwait]), ?_⟩
    obtain ⟨h1, h2, -, h4, h5⟩ := mailboxDone_answer p (s := s.modPort p (fun q => { q with mbGo := false, mbResp := some r, mbWait := none })) (State.modPort_port_self ..)
    exact ⟨h1, h2, h4, h5⟩
  · exact (exec_ifLive hlive _).trans (by rw [hwait])

end Sys2Proof.Machine
end

section
/-! SETTLED. Admission, completion commit, Flush and the posting of an entry (O37). -/

set_option Elab.async false

namespace Sys2Proof.Machine

/-! ## The commit of a completion (spec 11, R336) -/

theorem noteError_committed (qid : Nat) (cid : Word16) (st : Status) (q : Port) : (noteError qid cid st q).committed = q.committed := by
  unfold noteError
  split <;> rfl

theorem mem_commitCompletion {s : State} (hvault : s.power.vault = .none) (p : PortId) (c : Completion) : c ∈ ((commitCompletion p c s).port p).committed := by
  unfold commitCompletion
  rw [if_neg (by rw [hvault]; decide)]
  dsimp only
  rw [State.modPort_port_self, noteError_committed]
  simp

theorem mem_releaseAborts {s : State} {p : PortId} {y : Completion} (h : y ∈ (s.port p).committed) (i : Nat) :
    y ∈ ((releaseAborts p i s).port p).committed := by
  unfold releaseAborts
  split
  · exact h
  · rw [State.modPort_port_self]
    exact List.mem_append_left _ h

/-- A command that ends brings its entry. -/
theorem mem_commitCtx {s : State} {id : Nat} {c : Ctx} (hctx : ctxOf s id = some c) (hcommitted : c.committed = false)
    (hvault : s.power.vault = .none) (hsilent : c.silent = false) (st : Status) (a b : Nat) :
    completionOf c st false 0 a b ∈ ((commitCtx id st a b s).port c.port).committed := by
  have hcount : ∀ u : State, (countHost c st u).port c.port = u.port c.port := fun u => (countHost_keeps (.refl u) (Sub.refl _)).wholePorts rfl rfl _
  have heq : commitCtx id st a b s = releaseAborts c.port id (countHost c st (commitCompletion c.port (completionOf c st false 0 a b)
      (modCtx id (fun c => { c with committed := true, status := st }) s))) := by
    unfold commitCtx
    rw [hctx]
    dsimp only
    rw [if_neg (by simp [hcommitted, hvault]), if_neg (by simp [hsilent])]
  rw [heq]
  refine mem_releaseAborts ?_ id
  rw [hcount]
  exact mem_commitCompletion (s := modCtx id (fun c => { c with committed := true, status := st }) s) hvault ..

theorem commitCtx_completedIo {s : State} {id : Nat} {c : Ctx} (hctx : ctxOf s id = some c) (hcommitted : c.committed = false)
    (hvault : s.power.vault = .none) (hsilent : c.silent = false) (st : Status) (a b : Nat) : CompletedIo c st (commitCtx id st a b s) :=
  ⟨completionOf c st false 0 a b, mem_commitCtx hctx hcommitted hvault hsilent st a b, rfl, rfl, rfl⟩

theorem CompletedIo.of_steadies {c : Ctx} {st : Status} {s t : State} (h : CompletedIo c st s) (hst : t.steadies = s.steadies) : CompletedIo c st t := by
  obtain ⟨y, hy, h1, h2, h3⟩ := h
  have hcom : (t.port c.port).committed = (s.port c.port).committed := (congrArg Port.committed (steady_of_steadies hst c.port) :)
  exact ⟨y, by rw [hcom]; exact hy, h1, h2, h3⟩

theorem CompletedIo.progress {c : Ctx} {st : Status} {s : State} (h : CompletedIo c st s) : CompletedIo c st (progress s) := h.of_steadies (progress_steadies s)

/-- A context of a row, in the form that its commit needs. -/
theorem rowCtx_some {s : State} {id : Nat} {p : IoOp → Bool} {c : Ctx} (h : rowCtx s id p = some c) :
    ctxOf s id = some c ∧ p c.entry.op = true ∧ c.committed = false := by
  obtain ⟨x, hx, hif⟩ := Option.bind_eq_some_iff.1 h
  split at hif
  next hc =>
    cases hif
    simp only [Bool.and_eq_true, Bool.not_eq_true'] at hc
    exact ⟨hx, hc.1, hc.2⟩
  next => cases hif

theorem ctxOf_of_cmds {s t : State} (h : t.cmds = s.cmds) (id : Nat) : ctxOf t id = ctxOf s id := by
  unfold ctxOf
  rw [h]

theorem vault_of_live {s : State} (h : s.live = true) : s.power.vault = .none := by
  simp only [State.live, Bool.and_eq_true, decide_eq_true_eq] at h
  exact h.2

theorem ctx_id {s : State} {id : Nat} {c : Ctx} (h : ctxOf s id = some c) : c.id = id := by
  have h := List.find?_some h
  simpa using h

/-- The work after a command's end. -/
theorem completedIo_after {c : Ctx} {st : Status} {s : State} (h : CompletedIo c st s) : CompletedIo c st (progress (lookupWaiting s)) :=
  (h.of_steadies ((lookupWaiting_keeps (.refl s) (Sub.refl _)).steadies rfl)).progress

theorem commitRead_completedIo {s : State} {id : Nat} {c : Ctx} (hlive : s.live = true) (hctx : ctxOf s id = some c) (hcommitted : c.committed = false)
    (hsilent : c.silent = false) : CompletedIo c c.status (commitRead c s) := by
  have hkeep := noteLatency_keeps (c := c) (.refl s) (Sub.refl _)
  unfold commitRead
  refine commitCtx_completedIo ((ctxOf_of_cmds (hkeep.samePart (p := .cmds) rfl) _).trans ?_) hcommitted
    ((hkeep.powerField rfl Power.vault).trans (vault_of_live hlive)) hsilent ..
  rw [ctx_id hctx, hctx]

theorem commitWrite_completedIo {s : State} {id : Nat} {c : Ctx} (hlive : s.live = true) (hctx : ctxOf s id = some c) (hcommitted : c.committed = false)
    (hsilent : c.silent = false) : CompletedIo c .success (commitWrite c s) := by
  have hkeep := installWrite_keeps (c := c) (.refl s) (Sub.refl _)
  unfold commitWrite
  refine commitCtx_completedIo ((ctxOf_of_cmds (hkeep.samePart (p := .cmds) rfl) _).trans ?_) hcommitted
    ((hkeep.powerField rfl Power.vault).trans (vault_of_live hlive)) hsilent ..
  rw [ctx_id hctx, hctx]

/-! ## Admission (spec 11, R322) -/

/-- The next admission number and the ports as they stand between commands. -/
def State.admitted (s : State) : Nat × (PortId → List Sq) := (s.cmds.nextId, fun p => (s.port p).sqs)

theorem Keeps.admitted {m : Nat} {s t : State} (h : Keeps m s t) (hcmds : m.testBit Part.cmds.bit = false)
    (hports : m.testBit Part.ports.bit = false) : t.admitted = s.admitted := by
  have hc : t.cmds = s.cmds := h.samePart (p := .cmds) hcmds
  refine Prod.ext (congrArg Cmds.nextId hc) (funext fun p => ?_)
  exact (congrArg Port.sqs (steady_of_steadies (h.steadies hports) p) :)

theorem admitted_of_steadies {s t : State} (hcmds : t.cmds.nextId = s.cmds.nextId) (h : t.steadies = s.steadies) : t.admitted = s.admitted :=
  Prod.ext hcmds (funext fun p => (congrArg Port.sqs (steady_of_steadies h p) :))

theorem unloadAll_cmds (s : State) : (unloadAll s).cmds = s.cmds := (unloadAll_unload s).samePart (p := .cmds) rfl

theorem spinDown_cmds (s : State) : (enterPhase .standby (sendSpin 0 (unloadAll s))).cmds = s.cmds := by
  rw [(enterPhase_keeps (.refl _) (Sub.refl _)).samePart (p := .cmds) rfl, (sendSpin_keeps (.refl _) (Sub.refl _)).samePart (p := .cmds) rfl, unloadAll_cmds]

theorem standbyProgress_cmds (s : State) : (standbyProgress s).cmds = s.cmds :=
  ite_field (g := State.cmds) (ite_field (g := State.cmds) rfl (ite_field (g := State.cmds) rfl (spinDown_cmds _))) rfl

theorem powerStates_cmds (s : State) : (powerStates s).cmds = s.cmds :=
  ite_field (g := State.cmds) (ite_field (g := State.cmds) (standbyProgress_cmds _) rfl)
    (ite_field (g := State.cmds) ((restartFromSpinWait_keeps (.refl s) (Sub.refl _)).samePart (p := .cmds) rfl) rfl)

/-- What goes on serves the pauses of writes: the contexts' data move, and nothing else of the commands. -/
theorem progress_cmds (s : State) : (progress s).cmds = (servePauses (releaseRegions s)).cmds := by
  have hthermal : ∀ u : State, (thermalProgress u).cmds = u.cmds := fun u => ite_field (g := State.cmds) (spinDown_cmds _) rfl
  have hspeed : ∀ u : State, (speedProgress u).cmds = u.cmds := fun u =>
    ite_field (g := State.cmds) (Eq.trans ((changeSpeed_keeps (.refl _) (Sub.refl _)).samePart (p := .cmds) rfl) (unloadAll_cmds u)) rfl
  have hshutdown : ∀ u : State, (shutdownProgress u).cmds = u.cmds := fun u => by
    unfold shutdownProgress
    extract_lets a oldMule
    have ha : a.cmds = u.cmds := foldl_field State.cmds _ (fun t p => by split <;> rfl) _ _
    clear_value a
    exact ite_field (g := State.cmds) ((unloadAll_cmds _).trans ha) ha
  unfold progress
  rw [(kickDies_keeps (.refl _) (Sub.refl _)).samePart (p := .cmds) rfl, (loadForWork_keeps (.refl _) (Sub.refl _)).samePart (p := .cmds) rfl, hspeed,
    hshutdown, hthermal, standbyProgress_cmds, (endDraining_keeps (.refl _) (Sub.refl _)).samePart (p := .cmds) rfl]

theorem receiveFrom_nextId (id : Nat) : ∀ (l : List Block) (s : State), (receiveFrom id l s).cmds.nextId = s.cmds.nextId := by
  have hpause : ∀ (q : Nat) (r : List Block) (s : State), (pauseWrite id q r s).cmds.nextId = s.cmds.nextId := fun q r s => by
    unfold pauseWrite pauseDestage
    dsimp only
    split <;> rfl
  have halloc : ∀ (mk : Fin 16 → Line) (b : BlockKey) (s s' : State), allocLine mk b s = some s' → s'.cmds = s.cmds := fun mk b s s' h => by
    obtain ⟨w, -, rfl⟩ := Option.map_eq_some_iff.1 h
    rfl
  intro l
  induction l with
  | nil => exact fun s => rfl
  | cons d r ih =>
    intro s
    rw [receiveFrom]
    split
    · rfl
    · dsimp only
      split
      · split
        next s' h => rw [ih, (wantSupersede_keeps (.refl s') (Sub.refl _)).samePart (p := .cmds) rfl, halloc _ _ _ _ h]
        · exact hpause ..
      · exact hpause ..

theorem progress_nextId (s : State) : (progress s).cmds.nextId = s.cmds.nextId := by
  have hmedia : ∀ (id : Nat) (u : State), (toMedia id u).cmds.nextId = u.cmds.nextId := fun id u => by
    unfold toMedia
    split
    · rfl
    · refine ite_field (g := fun s : State => s.cmds.nextId) ?_ rfl
      rw [(fileSpans_keeps (.refl _) (Sub.refl _)).samePart (p := .cmds) rfl]
      rfl
  have hserve : ∀ (id : Nat) (u : State), (servePause id u).cmds.nextId = u.cmds.nextId := fun id u => by
    unfold servePause
    split
    · rfl
    · split
      · exact (hmedia _ _).trans (receiveFrom_nextId id _ { u with cache.pauses := _ })
      · unfold pauseDestage
        split <;> rfl
  have hrelease : ∀ (l : List Pause) (u : State), (l.foldl (fun s p => releaseEarly p s) u).cmds.nextId = u.cmds.nextId := fun l u =>
    foldl_field (fun s : State => s.cmds.nextId) _ (fun t p => by
      rw [(releaseEarly_keeps (.refl t) (Sub.refl _)).samePart (p := .cmds) rfl]) l u
  rw [progress_cmds]
  unfold servePauses
  refine (foldl_field (fun s : State => s.cmds.nextId) _ (fun t id => hserve id t) _ _).trans ((hrelease _ _).trans ?_)
  rw [(releaseRegions_keeps (.refl s) (Sub.refl _)).samePart (p := .cmds) rfl]

theorem progress_admitted (s : State) : (progress s).admitted = s.admitted := admitted_of_steadies (progress_nextId s) (progress_steadies s)

/-- An admission takes its entry's number and place, whatever becomes of the command. -/
theorem admitOne_admitted {p : PortId} {x : Sq} {e : SqEntry} {s : State} (hmedia : s.cmds.mediaStopped = false) : (admitOne p x e s).admitted =
    (takeEntry p x { s with cmds.nextId := s.cmds.nextId + 1, tick.tokens := s.tick.tokens.map (· - 1) }).admitted := by
  have hwake : ∀ u : State, (wakeFor p u).admitted = u.admitted := fun u => by
    unfold wakeFor
    split
    · refine (admitted_of_steadies (congrArg Cmds.nextId (powerStates_cmds _)) (powerStates_steadies _)).trans ?_
      refine Prod.ext rfl (funext fun y => ?_)
      by_cases hy : y = p
      · subst hy
        exact (congrArg Port.sqs (State.modPort_port_self ..) :)
      · exact congrArg Port.sqs (State.modPort_port_ne hy)
    · rfl
  have hcompletion : ∀ (y : PortId) (z : Completion) (u : State), (commitCompletion y z u).admitted = u.admitted := fun y z u =>
    Prod.ext (congrArg Cmds.nextId ((commitCompletion_keeps (.refl u) (Sub.refl _)).samePart (p := .cmds) rfl))
      (funext fun w => (congrArg Port.sqs (congrFun (commitCompletion_ends y z u) w) :))
  have hfile : ∀ (c : Ctx) (u : State), (fileCommand c u).admitted = u.admitted := fun c u => by
    unfold fileCommand
    extract_lets z d base oldCmds a
    have hz : z.2.admitted = u.admitted := by
      unfold z
      split
      · exact (hostIndex_keeps (.refl u) (Sub.refl _)).admitted rfl rfl
      · rfl
    have ha : a.admitted = u.admitted := Eq.trans rfl hz
    exact ite_field (g := State.admitted) (((writeOverFills_keeps (.refl _) (Sub.refl _)).admitted rfl rfl).trans
      (((openZone_keeps (.refl a) (Sub.refl _)).admitted rfl rfl).trans ha)) ha
  unfold admitOne
  extract_lets start c oldCmds oldTick a j b
  rw [if_neg (by rw [hmedia]; simp)]
  have hb : b.admitted = a.admitted := ite_field (g := State.admitted) (hwake _) rfl
  clear_value b j
  split
  · exact (hcompletion ..).trans (((cmdRefused_keeps (.refl _) (Sub.refl _)).admitted rfl rfl).trans hb)
  · exact (hcompletion ..).trans (Eq.trans rfl hb)
  · exact (hfile ..).trans hb

/-! ## Posting (spec 11, R337) -/

theorem postCompletion_posted {p : PortId} {qid : Nat} {s : State} {x : Completion} {r : List Completion}
    (h : takeCompletion qid (s.port p).committed = some (x, r)) : x ∈ ((postCompletion p qid s).port p).posted := by
  have hfinish : ∀ u : State, ((finishDeletes p u).port p).posted = (u.port p).posted := fun u => by
    unfold finishDeletes
    split
    · rfl
    · dsimp only
      rw [State.modPort_port_self]
  have hposts : ∀ (ids : List Nat) (u : State), ((postAborts p ids u).port p).posted = (u.port p).posted := fun ids u => by
    unfold postAborts
    split
    · rfl
    · rw [State.modPort_port_self]
  have hsignal : ∀ q : Port, (signalCq qid q).posted = q.posted := fun q => by
    unfold signalCq
    split
    · rfl
    · split
      · rfl
      · split <;> rfl
  unfold postCompletion
  rw [h]
  dsimp only
  rw [hfinish, hposts]
  have hport : ∀ (u : State) (f : Port → Port), ((u.modPort p f).port p).posted = (f (u.port p)).posted := fun u f =>
    congrArg Port.posted (State.modPort_port_self ..)
  have hmem : ∀ l : List Cq, x ∈ (({ s.port p with committed := r, posted := (s.port p).posted ++ [x], cqs := l } : Port)).posted := fun l =>
    List.mem_append_right _ List.mem_cons_self
  exact ((congrArg (x ∈ ·) ((hport s (fun q => signalCq qid { q with
    committed := r, posted := q.posted ++ [x]
    cqs := q.cqs.map (fun x => if x.qid = qid then { x with used := x.used + 1 } else x) })).trans (hsignal _))).mpr (hmem _) :)

/-- Settles O37: an admission, the three commits, and a post. -/
theorem admissionCompletionAndPosting : Obligations.AdmissionCompletionAndPosting := by
  unfold Obligations.AdmissionCompletionAndPosting
  intro p s
  have hadmit : ∀ (e : SqEntry) (x : Sq), mayFetch s p = true → pickQueue (s.port p) = some x →
      exec (.commandAdmission p e) s = .next (progress (admitOne p x e s)) := fun e x hfetch hpick => by
    show execCommandAdmission p e s = _
    unfold execCommandAdmission
    rw [if_neg (by rw [hfetch]; decide), hpick]
  have hpost : ∀ (qid : Nat) (l : Nat × Nat), s.live = true → (s.port p).link = some l → cqRoom (s.port p) qid = true →
      exec (.completionPost p qid) s = .next (progress (postCompletion p qid s)) := fun qid l hlive hl hroom => by
    have hkeep : (postCompletion p qid s).live = s.live :=
      (postCompletion_keeps (.refl s) (Sub.refl _)).powerField rfl (fun w => w.running && !w.dead && !w.straps.testMode && decide (w.vault = .none))
    have hact := portsAct_of_live hlive
    simp only [State.portsAct, Bool.and_eq_true, Bool.not_eq_true'] at hact
    obtain ⟨⟨hrun, hdead⟩, htest⟩ := hact
    exact congrArg Host.Outcome.next ((if_neg (by simp [hrun, hdead, htest, hl, hroom])).trans (if_pos (hkeep.trans hlive)))
  refine ⟨hadmit, fun e x hfetch hpick hmedia => ⟨_, hadmit e x hfetch hpick, ?_⟩, fun e hfetch => congrArg Host.Outcome.next (if_pos (by rw [hfetch]; rfl)),
    fun id c hlive hrow hop hstart hwait => ?_, fun id c hlive hrow hop hready => ?_, fun id c hlive hrow hstart hdone => ?_,
    fun qid l hlive hl hroom => ⟨hpost qid l hlive hl hroom, fun x r htake => ⟨_, hpost qid l hlive hl hroom, ?_⟩⟩, fun qid hroom => ?_⟩
  · have hadm := (progress_admitted _).trans (admitOne_admitted (p := p) (x := x) (e := e) hmedia)
    beta_reduce
    generalize progress (admitOne p x e s) = t at hadm ⊢
    refine ⟨congrArg Prod.fst hadm, (congrFun (congrArg Prod.snd hadm) p).trans ?_⟩
    exact congrArg Port.sqs (State.modPort_port_self ..)
  · obtain ⟨hctx, -, hcommitted⟩ := rowCtx_some hrow
    have hexec : exec (.completionCommit id) s = .next (progress (lookupWaiting (commitRead c s))) := by
      show execCompletionCommit id s = _
      unfold execCompletionCommit
      rw [if_neg (by rw [hlive]; decide), hrow]
      exact congrArg Host.Outcome.next ((if_pos hop).trans (if_pos (by simp [hstart, hwait])))
    exact ⟨hexec, fun hsilent => ⟨_, hexec, completedIo_after (commitRead_completedIo hlive hctx hcommitted hsilent)⟩⟩
  · obtain ⟨hctx, -, hcommitted⟩ := rowCtx_some hrow
    have hexec : exec (.completionCommit id) s = .next (progress (lookupWaiting (commitWrite c s))) := by
      show execCompletionCommit id s = _
      unfold execCompletionCommit
      rw [if_neg (by rw [hlive]; decide), hrow]
      exact congrArg Host.Outcome.next ((if_neg hop).trans (if_pos hready))
    exact ⟨hexec, fun hsilent => ⟨_, hexec, completedIo_after (commitWrite_completedIo hlive hctx hcommitted hsilent)⟩⟩
  · obtain ⟨hctx, -, hcommitted⟩ := rowCtx_some hrow
    have hexec : exec (.flushCommit id) s = .next (progress (commitCtx id .success 0 0 s)) := by
      show execFlushCommit id s = _
      unfold execFlushCommit
      rw [if_neg (by rw [hlive]; decide), hrow]
      exact congrArg Host.Outcome.next (if_pos (by simp [hstart, hdone]))
    exact ⟨hexec, fun hsilent => ⟨_, hexec, (commitCtx_completedIo hctx hcommitted (vault_of_live hlive) hsilent ..).progress⟩⟩
  · have hst := steady_of_steadies (progress_steadies (postCompletion p qid s)) p
    have hmem := postCompletion_posted htake
    beta_reduce
    generalize (progress (postCompletion p qid s)).port p = q at hst ⊢
    generalize (postCompletion p qid s).port p = q' at hst hmem
    have hposted : q.posted = q'.posted := (congrArg Port.posted hst :)
    rwa [hposted]
  · exact congrArg Host.Outcome.next (if_pos (by simp [hroom]))

end Sys2Proof.Machine
end


section
/-! SETTLED. Write, Write Zeroes, Zone Append, Read, Flush, and an opcode that is not supported (O44). -/

set_option Elab.async false

namespace Sys2Proof.Machine

/-! ## Commands that have started -/

/-- The contexts by identifier, and which of them have started. -/
def State.starts (s : State) : List (Nat × Bool) := s.cmds.ctxs.map (fun c => (c.id, c.started))

theorem Keeps.starts {m : Nat} {s t : State} (h : Keeps m s t) (hm : m.testBit Part.cmds.bit = false) : t.starts = s.starts :=
  (congrArg (fun d : Cmds => d.ctxs.map (fun c => (c.id, c.started))) (h.samePart (p := .cmds) hm) :)

theorem modCtx_starts (id : Nat) {f : Ctx → Ctx} (s : State) (hf : ∀ c, ((f c).id, (f c).started) = (c.id, c.started) := by exact fun _ => rfl) :
    (modCtx id f s).starts = s.starts := by
  unfold modCtx State.starts
  rw [List.map_map]
  refine List.map_congr_left fun c _ => ?_
  rw [Function.comp_apply]
  split
  · exact hf c
  · rfl

theorem begun_of_starts {s t : State} {id : Nat} (hst : t.starts = s.starts) (h : ∀ y ∈ s.cmds.ctxs, y.id = id → y.started = true) :
    ∀ y ∈ t.cmds.ctxs, y.id = id → y.started = true := by
  intro y hy hid
  have hmem : (y.id, y.started) ∈ s.starts := by
    rw [← hst]
    exact List.mem_map_of_mem hy
  obtain ⟨x, hx, heq⟩ := List.mem_map.1 hmem
  obtain ⟨h1, h2⟩ := Prod.ext_iff.1 heq
  exact h2.symm.trans (h x hx (h1.trans hid))

/-- What a start leaves in every context of its identifier. -/
theorem modCtx_begun {id : Nat} {f : Ctx → Ctx} (hf : ∀ c, (f c).started = true) (s : State) :
    ∀ y ∈ (modCtx id f s).cmds.ctxs, y.id = id → y.started = true := by
  intro y hy hid
  obtain ⟨x, -, rfl⟩ := List.mem_map.1 hy
  by_cases hx : x.id = id
  · rw [if_pos hx]
    exact hf x
  · exact absurd ((congrArg Ctx.id (if_neg hx)).symm.trans hid) hx

theorem takeBlock_starts (id i : Nat) (d : Block) (s : State) : (takeBlock id i d s).starts = s.starts := modCtx_starts id s

theorem failBlock_starts (id i : Nat) (s : State) : (failBlock id i s).starts = s.starts := modCtx_starts id s

theorem readFrom_starts (n : ChanId) (id : Nat) (s : State) : (modCtx id (readFrom n) s).starts = s.starts := modCtx_starts id s

theorem mergeInto_starts (id : Nat) (m : MissReg) (s : State) : (mergeInto id m s).starts = s.starts := by
  unfold mergeInto
  split
  · rfl
  · dsimp only
    split
    · rfl
    · exact readFrom_starts _ id s

theorem lookupBlock_starts (c : Ctx) (i : Nat) (s : State) : (lookupBlock c i s).starts = s.starts := by
  have htouch : ∀ (q w : Nat) (u : State), (touch q w u).starts = u.starts := fun q w u => (touch_keeps (.refl u) (Sub.refl _)).starts rfl
  have hslot : ∀ (x : SideSlot) (u : State), (slotToLine x u).starts = u.starts := fun x u => (slotToLine_keeps (.refl u) (Sub.refl _)).starts rfl
  have hreg : ∀ (b : BlockKey) (m : MissReg) (u : State), (fromReg c.id i b m u).starts = u.starts := fun b m u => by
    unfold fromReg
    split
    · rfl
    · exact takeBlock_starts ..
  unfold lookupBlock
  extract_lets b
  split
  · exact takeBlock_starts ..
  · split
    · exact failBlock_starts ..
    · split
      · split
        · exact failBlock_starts ..
        · exact (htouch ..).trans (takeBlock_starts ..)
      · split
        · exact takeBlock_starts ..
        · split
          · exact (hslot ..).trans (takeBlock_starts ..)
          · split
            · split
              · exact (hreg ..).trans (mergeInto_starts ..)
              · rfl
            · rfl

theorem demandReg_starts (id nsid lba count : Nat) (k : BandKey) (off created : Nat) (s : State) :
    (demandReg id nsid lba count k off created s).starts = s.starts := by
  unfold demandReg
  extract_lets mr oldCache a b
  have hb : b.starts = a.starts := foldl_field State.starts _ (fun t i => (fillingLine_keeps (.refl t) (Sub.refl _)).starts rfl) _ _
  clear_value b
  refine Eq.trans ((fileOp_keeps (.refl _) (Sub.refl _)).starts rfl) ?_
  exact (readFrom_starts _ id b).trans hb

theorem allocRuns_starts (id : Nat) : ∀ (l : List Nat) (s : State), (allocRuns id l s).starts = s.starts
  | [], _ => rfl
  | i :: rest, s => by
    rw [allocRuns]
    split
    · rfl
    · split
      · exact allocRuns_starts id rest s
      · dsimp only
        split
        · exact allocRuns_starts id rest s
        · exact (allocRuns_starts id rest _).trans (demandReg_starts ..)

theorem lookupRead_starts (id : Nat) (s : State) : (lookupRead id s).starts = s.starts := by
  unfold lookupRead
  split
  · rfl
  next c _ => exact (allocRuns_starts ..).trans (foldl_field State.starts _ (fun t i => lookupBlock_starts c i t) _ _)

/-! ## Writes: the data, or a pause for a line (spec 12, R377) -/

theorem pauseWrite_starts (id q : Nat) (rest : List Block) (s : State) : (pauseWrite id q rest s).starts = s.starts := by
  unfold pauseWrite pauseDestage
  extract_lets twelve a
  have ha : a.starts = s.starts := modCtx_starts id s
  clear_value a
  split
  · exact ha
  · exact ha

theorem receiveFrom_starts (id : Nat) : ∀ (l : List Block) (s : State), (receiveFrom id l s).starts = s.starts := by
  have halloc : ∀ (mk : Fin 16 → Line) (b : BlockKey) (s s' : State), allocLine mk b s = some s' → s'.starts = s.starts := fun mk b s s' h => by
    obtain ⟨w, -, rfl⟩ := Option.map_eq_some_iff.1 h
    rfl
  intro l
  induction l with
  | nil => exact fun s => modCtx_starts id s
  | cons d r ih =>
    intro s
    rw [receiveFrom]
    split
    · rfl
    · dsimp only
      split
      · split
        next s' h => rw [ih, (wantSupersede_keeps (.refl s') (Sub.refl _)).starts rfl, halloc _ _ _ _ h]
        · exact pauseWrite_starts ..
      · exact pauseWrite_starts ..

theorem toMedia_starts (id : Nat) (s : State) : (toMedia id s).starts = s.starts := by
  unfold toMedia
  split
  · rfl
  · exact ite_field (g := State.starts) (((fileSpans_keeps (.refl _) (Sub.refl _)).starts rfl).trans (modCtx_starts id s)) rfl

theorem receiveData_starts (id : Nat) (l : List Block) (s : State) : (receiveData id l s).starts = s.starts :=
  (toMedia_starts ..).trans (receiveFrom_starts ..)

theorem pauseDestage_starts (q : Nat) (s : State) : (pauseDestage q s).starts = s.starts := by
  unfold pauseDestage
  split
  · rfl
  · rfl

theorem servePause_starts (id : Nat) (s : State) : (servePause id s).starts = s.starts := by
  unfold servePause
  split
  · rfl
  · split
    · exact receiveData_starts id _ { s with cache.pauses := _ }
    · exact pauseDestage_starts ..

theorem progress_starts (s : State) : (progress s).starts = s.starts := by
  have hcmds : (progress s).starts = (servePauses (releaseRegions s)).starts :=
    (congrArg (fun d : Cmds => d.ctxs.map (fun c => (c.id, c.started))) (progress_cmds s) :)
  refine hcmds.trans ?_
  unfold servePauses
  refine (foldl_field State.starts _ (fun t id => servePause_starts id t) _ _).trans ?_
  refine (foldl_field State.starts _ (fun t p => (releaseEarly_keeps (.refl t) (Sub.refl _)).starts rfl) _ _).trans ?_
  exact (releaseRegions_keeps (.refl s) (Sub.refl _)).starts rfl

/-- Every context of the identifier has its data, or waits for a line. -/
def State.Receives (id : Nat) (s : State) : Prop := ∀ y ∈ s.cmds.ctxs, y.id = id → y.dataDone = true ∨ ∃ p ∈ s.cache.pauses, p.ctx = id

theorem State.Receives.congr {id : Nat} {s t : State} (h : s.Receives id) (hc : t.cmds = s.cmds) (hp : t.cache.pauses = s.cache.pauses) :
    t.Receives id := by
  unfold State.Receives
  rw [hc, hp]
  exact h

theorem modCtx_receives {id j : Nat} {f : Ctx → Ctx} (hid : ∀ c, (f c).id = c.id) (hdone : ∀ c, c.dataDone = true → (f c).dataDone = true)
    {s : State} (h : s.Receives id) : (modCtx j f s).Receives id := by
  intro y hy hyid
  obtain ⟨x, hx, rfl⟩ := List.mem_map.1 hy
  by_cases hj : x.id = j
  · rw [if_pos hj] at hyid ⊢
    exact (h x hx ((hid x).symm.trans hyid)).imp_left (hdone x)
  · rw [if_neg hj] at hyid ⊢
    exact h x hx hyid

theorem modCtx_done (id : Nat) {f : Ctx → Ctx} (hf : ∀ c, (f c).dataDone = true) (s : State) : (modCtx id f s).Receives id := by
  intro y hy hid
  obtain ⟨x, -, rfl⟩ := List.mem_map.1 hy
  by_cases hx : x.id = id
  · rw [if_pos hx]
    exact .inl (hf x)
  · exact absurd ((congrArg Ctx.id (if_neg hx)).symm.trans hid) hx

theorem pauseDestage_receives {id q : Nat} {s : State} (h : s.Receives id) : (pauseDestage q s).Receives id := by
  unfold pauseDestage
  split
  · exact h
  · exact h.congr rfl rfl

theorem pauseWrite_receives (id q : Nat) (rest : List Block) (s : State) : (pauseWrite id q rest s).Receives id :=
  pauseDestage_receives fun _ _ _ => .inr ⟨⟨q, id, !fits12 s q, false⟩, List.mem_append_right _ List.mem_cons_self, rfl⟩

theorem State.Receives.pauseWrite {id j q : Nat} {rest : List Block} {s : State} (h : s.Receives id) : (Machine.pauseWrite j q rest s).Receives id := by
  refine pauseDestage_receives fun y hy hyid => ?_
  have hm := modCtx_receives (j := j) (f := fun c => { c with data := rest }) (fun _ => rfl) (fun _ h => h) h
  exact (hm y hy hyid).imp_right fun ⟨p, hp, hc⟩ => ⟨p, List.mem_append_left _ hp, hc⟩

theorem allocLine_waits {mk : Fin 16 → Line} {b : BlockKey} {s s' : State} (h : allocLine mk b s = some s') :
    s'.cmds = s.cmds ∧ s'.cache.pauses = s.cache.pauses := by
  obtain ⟨w, -, rfl⟩ := Option.map_eq_some_iff.1 h
  exact ⟨rfl, rfl⟩

theorem wantSupersede_receives {id j : Nat} {b : BlockKey} {s : State} (h : s.Receives id) : (wantSupersede b j s).Receives id := by
  unfold wantSupersede
  split
  · exact h.congr rfl rfl
  · exact h

/-- Whatever stood before, the data that come in are in, or wait. -/
theorem receiveFrom_receives (id : Nat) : ∀ (l : List Block) (s : State), (receiveFrom id l s).Receives id
  | [], s => modCtx_done id (fun _ => rfl) s
  | d :: r, s => by
    rw [receiveFrom]
    split
    next hnone => exact fun y hy hid => absurd (List.find?_eq_none.1 hnone y hy) (by simp [hid])
    · dsimp only
      split
      · split
        · exact receiveFrom_receives id r _
        · exact pauseWrite_receives _ _ _ _
      · exact pauseWrite_receives _ _ _ _

theorem State.Receives.receiveFrom {id j : Nat} : ∀ (l : List Block) {s : State}, s.Receives id → (Machine.receiveFrom j l s).Receives id
  | [], _, h => modCtx_receives (f := fun c => { c with data := [], dataDone := true }) (fun _ => rfl) (fun _ _ => rfl) h
  | d :: r, s, h => by
    rw [Machine.receiveFrom]
    split
    · exact h
    · dsimp only
      split
      · split
        next s' hs' =>
          obtain ⟨hc, hp⟩ := allocLine_waits hs'
          exact (wantSupersede_receives (h.congr hc hp)).receiveFrom r
        · exact h.pauseWrite
      · exact h.pauseWrite

theorem toMedia_receives {id j : Nat} {s : State} (h : s.Receives id) : (toMedia j s).Receives id := by
  unfold toMedia
  split
  · exact h
  next c _ =>
    split
    · have hkeep := fileSpans_keeps (kind := .hostWrite j) (nsid := c.ns) (lba := c.start) (count := c.entry.nlb) (created := c.admittedNs)
        (.refl (modCtx j (fun c => { c with media := true }) s)) (Sub.refl _)
      exact (modCtx_receives (j := j) (f := fun c => { c with media := true }) (fun _ => rfl) (fun _ h => h) h).congr
        (hkeep.samePart (p := .cmds) rfl) (congrArg Cache.pauses (hkeep.samePart (p := .cache) rfl))
    · exact h

theorem servePause_receives {id j : Nat} {s : State} (h : s.Receives id) : (servePause j s).Receives id := by
  unfold servePause
  by_cases hj : j = id
  · subst hj
    split
    next hnone => exact fun y hy hid => absurd (List.find?_eq_none.1 hnone y hy) (by simp [hid])
    · split
      · exact toMedia_receives (receiveFrom_receives _ _ _)
      · exact pauseDestage_receives h
  · have hdrop : State.Receives id { s with cache.pauses := s.cache.pauses.filter (fun p => p.ctx ≠ j) } := fun y hy hid =>
      (h y hy hid).imp_right fun ⟨p, hp, hc⟩ => ⟨p, List.mem_filter.2 ⟨hp, by simpa [hc] using fun h => hj h.symm⟩, hc⟩
    split
    · exact hdrop
    · split
      · exact toMedia_receives (hdrop.receiveFrom _)
      · exact pauseDestage_receives h

theorem releaseEarly_receives {id : Nat} {p : Pause} {s : State} (h : s.Receives id) : (releaseEarly p s).Receives id := by
  unfold releaseEarly
  split
  · exact h
  · split
    · exact h
    · refine fun y hy hid => (h y hy hid).imp_right fun ⟨q, hq, hc⟩ => ⟨_, List.mem_map_of_mem hq, ?_⟩
      split
      · exact hc
      · exact hc

theorem foldl_holds {α : Type} {P : State → Prop} {f : State → α → State} (hf : ∀ s x, P s → P (f s x)) (l : List α) :
    ∀ {s : State}, P s → P (l.foldl f s) := by
  induction l with
  | nil => exact id
  | cons x l ih => exact fun h => ih (hf _ x h)

theorem pauses_of_waits {s t : State} (h : t.waits = s.waits) : t.cache.pauses = s.cache.pauses := congrArg Prod.fst h

theorem progress_receives {id : Nat} {s : State} (h : s.Receives id) : (progress s).Receives id := by
  refine State.Receives.congr (s := servePauses (releaseRegions s)) ?_ (progress_cmds s) (pauses_of_waits (progress_waits s))
  have hregions : (releaseRegions s).Receives id := h.congr ((releaseRegions_keeps (.refl s) (Sub.refl _)).samePart (p := .cmds) rfl)
    (congrArg Cache.pauses ((releaseRegions_keeps (.refl s) (Sub.refl _)).samePart (p := .cache) rfl))
  unfold servePauses
  exact foldl_holds (fun _ _ h => servePause_receives h) _ (foldl_holds (fun _ _ h => releaseEarly_receives h) _ hregions)

/-! ## The rows -/

theorem startWrite_received {id : Nat} {op : IoOp} {data : Nat → List Block} {s : State} {c : Ctx} (hrow : rowCtx s id (fun o => decide (o = op)) = some c)
    (hstart : c.started = false) (hlen : (data c.entry.nlb).length = c.entry.nlb) :
    ∀ y ∈ (startWrite op id data s).cmds.ctxs, y.id = id →
      y.started = true ∧ (y.dataDone = true ∨ ∃ p ∈ (startWrite op id data s).cache.pauses, p.ctx = id) := by
  have heq : startWrite op id data s = progress (receiveData id (data c.entry.nlb) (modCtx id (fun c => { c with started := true }) s)) := by
    unfold startWrite
    rw [hrow]
    exact if_neg (by simp [hstart, hlen])
  have hbegun := begun_of_starts ((progress_starts _).trans (receiveData_starts id (data c.entry.nlb) _))
    (modCtx_begun (id := id) (f := fun c => { c with started := true }) (fun _ => rfl) s)
  have hreceives : State.Receives id (progress (receiveData id (data c.entry.nlb) (modCtx id (fun c => { c with started := true }) s))) :=
    progress_receives (toMedia_receives (receiveFrom_receives id _ _))
  rw [heq]
  generalize progress (receiveData id (data c.entry.nlb) (modCtx id (fun c => { c with started := true }) s)) = t at hbegun hreceives
  exact fun y hy hid => ⟨hbegun y hy hid, hreceives y hy hid⟩

theorem startRead_begun (c : Ctx) (s : State) : ∀ y ∈ (progress (startRead c s)).cmds.ctxs, y.id = c.id → y.started = true := by
  refine begun_of_starts ((progress_starts _).trans (((noteStream_keeps (.refl _) (Sub.refl _)).starts rfl).trans (lookupRead_starts c.id _))) ?_
  exact modCtx_begun (fun _ => rfl) s

theorem mem_destageFirst {l : List BlockKey} {b : BlockKey} (hb : b ∈ l) (s : State) : b ∈ (destageFirst l s).cache.urgent := by
  by_cases h : b ∈ s.cache.urgent
  · exact List.mem_append_left _ h
  · exact List.mem_append_right _ (List.mem_filter.2 ⟨hb, by simpa using h⟩)

theorem refuseCtx_completedIo {s : State} {id : Nat} {c : Ctx} (hlive : s.live = true) (hctx : ctxOf s id = some c) (hcommitted : c.committed = false)
    (hsilent : c.silent = false) (st : Status) : CompletedIo c st (refuseCtx c st s) := by
  have hkeep := cmdRefused_keeps (p := c.port) (opcode := ioOpcode c.entry.op) (io := 1) (nsid := c.ns) (cdw10 := c.entry.slba % 2 ^ 32) (st := st) (.refl s)
    (Sub.refl _)
  unfold refuseCtx
  refine commitCtx_completedIo ((ctxOf_of_cmds (hkeep.samePart (p := .cmds) rfl) _).trans ?_) hcommitted
    ((hkeep.powerField rfl Power.vault).trans (vault_of_live hlive)) hsilent ..
  rw [ctx_id hctx, hctx]

/-- Settles O44: each row by its one definition; a start stands in every context of the identifier, and the data are in or wait. -/
theorem ioCommandsRunOnTheirContexts : Obligations.IoCommandsRunOnTheirContexts := by
  unfold Obligations.IoCommandsRunOnTheirContexts
  intro id s hlive
  have hwrite : ∀ d, exec (.write id d) s = .next (startWrite .write id (fun _ => d) s) := fun d => exec_ifLive hlive _
  have happend : ∀ d, exec (.zoneAppend id d) s = .next (startWrite .zoneAppend id (fun _ => d) s) := fun d => exec_ifLive hlive _
  have hzeroes : exec (.writeZeroes id) s = .next (startWrite .writeZeroes id (fun n => List.replicate n 0) s) := exec_ifLive hlive _
  have hread : ∀ c, rowCtx s id (fun o => decide (o = .read)) = some c → mayRead s c = true →
      exec (.read id) s = .next (progress (if c.started then lookupRead id s else startRead c s)) := fun c hrow hmay => by
    show execRead id s = _
    unfold execRead
    rw [if_neg (by rw [hlive]; decide), hrow]
    refine congrArg Host.Outcome.next ((if_neg (by simp [hmay])).trans ?_)
    exact (apply_ite progress _ _ _).symm
  have hflush : ∀ c, rowCtx s id (fun o => decide (o = .flush)) = some c → exec (.flush id) s =
      .next (if flushDone s c then progress (commitCtx id .success 0 0 s)
        else modCtx id (fun c => { c with started := true }) (destageFirst (c.covered.map (·.1)) s)) := fun c hrow => by
    show execFlush id s = _
    unfold execFlush
    rw [if_neg (by rw [hlive]; decide), hrow]
  refine ⟨fun d => ⟨hwrite d, happend d⟩, hzeroes, fun c d x op hx hrow hstart hlen => ?_, fun c hrow hmay hstart => ⟨_, hread c hrow hmay, ?_⟩,
    fun c hrow => ⟨fun hdone hsilent => ⟨_, hflush c hrow, ?_⟩, fun hdone => ⟨_, hflush c hrow, ?_⟩⟩, hread, fun c hrow hmay => ?_, hflush,
    fun c op hctx hcommitted hop => ?_⟩
  · simp only [List.mem_cons, Prod.mk.injEq, List.not_mem_nil, or_false] at hx
    obtain ⟨rfl, rfl⟩ | ⟨rfl, rfl⟩ | ⟨rfl, rfl⟩ := hx
    · exact ⟨_, hwrite d, startWrite_received hrow hstart hlen⟩
    · exact ⟨_, happend d, startWrite_received hrow hstart hlen⟩
    · exact ⟨_, hzeroes, startWrite_received hrow hstart (List.length_replicate ..)⟩
  · beta_reduce
    rw [if_neg (by simp [hstart]), ← ctx_id (rowCtx_some hrow).1]
    exact startRead_begun c s
  · obtain ⟨hctx, -, hcommitted⟩ := rowCtx_some hrow
    rw [if_pos hdone]
    exact (commitCtx_completedIo hctx hcommitted (vault_of_live hlive) hsilent ..).progress
  · beta_reduce
    rw [if_neg (by simp [hdone])]
    exact ⟨modCtx_begun (fun _ => rfl) _, fun x hx => mem_destageFirst (List.mem_map_of_mem hx) s⟩
  · show execRead id s = _
    unfold execRead
    rw [if_neg (by rw [hlive]; decide), hrow]
    exact congrArg Host.Outcome.next (if_pos (by simp [hmay]))
  · have hexec : exec (.unsupportedIoOpcode id) s = .next (progress (refuseCtx c .invalidOpcode s)) := by
      show execUnsupportedIoOpcode id s = _
      unfold execUnsupportedIoOpcode rowCtx
      rw [if_neg (by rw [hlive]; decide), hctx, Option.bind_some, if_pos (by simp [hop, hcommitted])]
    exact ⟨hexec, fun hsilent => ⟨_, hexec, (refuseCtx_completedIo hlive hctx hcommitted hsilent _).progress⟩⟩

end Sys2Proof.Machine
end


section
/-! SETTLED. Reservation Register, Report, Acquire and Release (O46, refuted). -/

set_option Elab.async false

namespace Sys2Proof.Machine

open Sys2Proof.Tests (ctx entry ready zonedNs)

/-! ## A Preempt and Abort that ends its own command: the write it aborts takes a later write of the zone with it (spec 11, R342), and
where that one bears the number of the command itself, the command ends with the write's status. -/

/-- A Preempt and Abort of host 0 on namespace 1: key 5 preempts key 7. -/
def preemptAbort : Ctx := { ctx .resAcquire with entry := { entry .resAcquire with resAction := 2, rtype := 1, crkey := 5, nrkey := 7 } }

/-- A write of port 1 on the same zone, from a block on. -/
def zoneWriteAt (id block : Nat) : Ctx := { ctx .write with id := id, port := 1, start := block, entry := { entry .write with slba := block } }

/-- Namespace 1 with both hosts registered, and writes 0 and 1 of host 1, the second with the number of the Preempt and Abort. -/
def sharedNumber : State :=
  { zonedNs.modPort 1 (fun q => { q with feat := { q.feat with hostId := 1 } }) with
    sub.namespaces := [⟨1, true, 65536, [⟨0, 40⟩], true, true, ⟨0, [(0, 0, 5), (1, 1, 7)], none, false⟩⟩]
    sub.bands := [{ freeBand ready ⟨0, 40⟩ with state := .explicitOpen, shingled := true }]
    cmds.ctxs := [zoneWriteAt 0 0, preemptAbort, zoneWriteAt 1 1] }

theorem sharedNumber_preempt_status : seenAfter (.reservationAcquire 1) sharedNumber
    (fun t => (t.port 0).committed.map (fun y => y.status)) = some [.zoneInvalidWrite] := by decide +kernel

theorem sharedNumber_preempt_refuses {t : State} (h : exec (.reservationAcquire 1) sharedNumber = .next t) :
    (t.port 0).committed.map (fun y => y.status) = [.zoneInvalidWrite] :=
  Option.some.inj ((seenAfter_of_next (fun t => (t.port 0).committed.map (fun y => y.status)) h).symm.trans sharedNumber_preempt_status)

/-- Refutes O46: on `sharedNumber` the Preempt and Abort, which the rules of R308 allow, ends with Zone Invalid Write. -/
theorem not_reservationsAnswerTheirHost : ¬ Obligations.ReservationsAnswerTheirHost := by
  unfold Obligations.ReservationsAnswerTheirHost
  intro h
  obtain ⟨-, -, -, hrows, -⟩ := h 1 sharedNumber preemptAbort _ (by decide) rfl
  obtain ⟨t, hexec, ⟨y, hy, -, -, hst⟩, -⟩ := (hrows _ _ _ (List.mem_cons_of_mem _ List.mem_cons_self) (by decide) (by decide)).1 (by decide)
  have hmem : y.status ∈ (t.port 0).committed.map (fun y => y.status) := List.mem_map_of_mem hy
  rw [sharedNumber_preempt_refuses hexec, hst] at hmem
  exact absurd hmem (by decide)

end Sys2Proof.Machine
end


section
/-! SETTLED. Zone management: the five actions, the reports, and the ordering point (O45). -/

set_option Elab.async false

namespace Sys2Proof.Machine

/-! ## Band records (spec 04, R121) -/

theorem freeBand_key (s : State) (k : BandKey) : (freeBand s k).key = k := by
  unfold freeBand
  split <;> rfl

@[simp] theorem bandRec_key (s : State) (k : BandKey) : (bandRec s k).key = k := by
  unfold bandRec
  cases h : s.sub.bands.find? (fun b => b.key = k) with
  | none => exact freeBand_key s k
  | some b => simpa using List.find?_some h

/-- A stored record is the one that is read. -/
theorem setBand_find {r : BandRec} {s : State} (hcal : isCalBand r.key = false) : (setBand r s).sub.bands.find? (fun b => b.key = r.key) = some r := by
  have hbands : (setBand r s).sub.bands = if s.sub.bands.any (fun b => b.key = r.key) then s.sub.bands.map (fun b => if b.key = r.key then r else b)
      else s.sub.bands ++ [r] := if_neg (by rw [hcal]; decide)
  rw [hbands]
  split
  next hany =>
    generalize s.sub.bands = l at hany
    induction l with
    | nil => simp at hany
    | cons b l ih =>
      by_cases hb : b.key = r.key
      · simp [hb]
      · simpa [hb] using ih (by simpa [hb] using hany)
  next hany =>
    rw [List.find?_append, List.find?_eq_none.2 (by simpa using hany), Option.none_or, List.find?_cons_of_pos (by simp)]

theorem bandRec_of_find {s : State} {k : BandKey} {r : BandRec} (h : s.sub.bands.find? (fun b => b.key = k) = some r) : bandRec s k = r := by
  unfold bandRec
  rw [h]
  rfl

theorem bandRec_setBand {r : BandRec} {s : State} {k : BandKey} (hk : r.key = k) (hcal : isCalBand k = false) : bandRec (setBand r s) k = r := by
  subst hk
  exact bandRec_of_find (setBand_find hcal)

/-- What a band's record, stored or free, is read from. -/
theorem Keeps.bandRec {m : Nat} {s t : State} (h : Keeps m s t) (hbands : m.testBit Part.bands.bit = false) (hvalues : m.testBit Part.values.bit = false)
    (hdict : m.testBit Part.dict.bit = false) (hfaults : m.testBit Part.faults.bit = false) (hstraps : m.testBit Part.straps.bit = false)
    (k : BandKey) : Machine.bandRec t k = Machine.bandRec s k := by
  have hb : t.sub.bands = s.sub.bands := h.samePart (p := .bands) hbands
  have hd : t.dict = s.dict := h.dict hvalues hdict
  have hf : t.faults = s.faults := h.samePart (p := .faults) hfaults
  have hx : t.power.crx4 = s.power.crx4 := h.crx4 hstraps
  unfold Machine.bandRec freeBand bandPlace formatOf factoryBad headRetired chanRetired valueOf
  rw [hb, hd, hf, hx]

theorem modBand_find {k : BandKey} {f : BandRec → BandRec} (hf : ∀ r, (f r).key = r.key) (hcal : isCalBand k = false) (s : State) :
    (modBand k f s).sub.bands.find? (fun b => b.key = k) = some (f (bandRec s k)) := by
  have hkey : (f (bandRec s k)).key = k := (hf _).trans (bandRec_key s k)
  have h := setBand_find (r := f (bandRec s k)) (s := s) ((congrArg isCalBand hkey).trans hcal)
  rwa [hkey] at h

theorem setZoneState_state {k : BandKey} (hcal : isCalBand k = false) (z : ZoneState) (s : State) : (bandRec (setZoneState k z s) k).state = z :=
  congrArg BandRec.state (bandRec_setBand (r := { bandRec s k with state := z, activeSlot := _ }) (bandRec_key s k) hcal)

theorem Keeps.namespaces {m : Nat} {s t : State} (h : Keeps m s t) (hm : m.testBit Part.sub.bit = false) : t.sub.namespaces = s.sub.namespaces := by
  have hrest : { t.sub with bands := [] } = { s.sub with bands := [] } := h.samePart (p := .sub) hm
  exact (congrArg Subsys.namespaces hrest :)

theorem zoneWrites_of_same {s t : State} (hc : t.cmds = s.cmds) (hn : t.sub.namespaces = s.sub.namespaces) (k : BandKey) : zoneWrites t k = zoneWrites s k := by
  unfold zoneWrites ctxBand locateBlock findNs
  rw [hc, hn]

/-! ## The five actions on one zone (spec 11, R330) -/

theorem promote_reset (s : State) (r : BandRec) (h : r.state = .empty) :
    ((promote s r).state = .empty ∨ (promote s r).state = .offline) ∧ (promote s r).wp = r.wp ∧ (promote s r).key = r.key := by
  unfold promote
  split
  · exact ⟨.inl h, rfl, rfl⟩
  · dsimp only
    split
    · exact ⟨.inr rfl, rfl, rfl⟩
    · exact ⟨.inl h, rfl, rfl⟩

theorem emptyBand_reset {k : BandKey} {s : State} (hcal : isCalBand k = false) (hshingled : (bandRec s k).shingled = true) :
    ((bandRec (emptyBand k s) k).state = .empty ∨ (bandRec (emptyBand k s) k).state = .offline) ∧ (bandRec (emptyBand k s) k).wp = 0 := by
  obtain ⟨hstate, hwp, hkey⟩ := promote_reset s { bandRec s k with
    wp := 0, awp := 0, state := .empty, activeSlot := none, gen := (bandRec s k).gen + 1, frontier := 0, onMedia := [], lost := [] } rfl
  unfold emptyBand
  rw [if_pos hshingled]
  dsimp only at hwp hkey ⊢
  generalize promote s _ = r at hstate hwp hkey ⊢
  have hrec : bandRec (setBand r s) k = r := bandRec_setBand (hkey.trans (bandRec_key s k)) hcal
  have hevent : bandRec (if r.excluded then faultEvent .bandRetired .immediate none 0 k.band (setBand r s) else setBand r s) k = r :=
    ite_field (g := fun u => bandRec u k) (((faultEvent_keeps (.refl _) (Sub.refl _)).bandRec rfl rfl rfl rfl rfl k).trans hrec) hrec
  rw [hevent]
  exact ⟨hstate, hwp⟩

theorem actOn_states {k : BandKey} (hcal : isCalBand k = false) (b : Bool) (s : State) :
    ((bandRec s k).state.isOpen = true → (bandRec (actOn .zoneClose b k s) k).state = .closed) ∧
    (bandRec (actOn .zoneFinish b k s) k).state = .full ∧ (bandRec (actOn .zoneOpen b k s) k).state = .explicitOpen ∧
    (bandRec (actOn .zoneOffline b k s) k).state = .offline := by
  refine ⟨fun hopen => ?_, setZoneState_state hcal _ s, setZoneState_state hcal _ s, setZoneState_state hcal _ _⟩
  unfold actOn
  dsimp only
  rw [if_pos hopen]
  exact setZoneState_state hcal _ s

theorem bandRec_ordering (b : Bool) (k : BandKey) (s : State) : bandRec (if b then s else zoneOrdering k s) k = bandRec s k :=
  ite_field (g := fun u => bandRec u k) rfl ((zoneOrdering_keeps (.refl s) (Sub.refl _)).bandRec rfl rfl rfl rfl rfl k)

theorem actOn_reset {k : BandKey} (hcal : isCalBand k = false) (b : Bool) {s : State} (hne : (bandRec s k).state ≠ .empty)
    (hshingled : (bandRec s k).shingled = true) :
    ((bandRec (actOn .zoneReset b k s) k).state = .empty ∨ (bandRec (actOn .zoneReset b k s) k).state = .offline) ∧
      (bandRec (actOn .zoneReset b k s) k).wp = 0 := by
  have heq : actOn .zoneReset b k s = emptyBand k (if b then s else zoneOrdering k s) := if_neg hne
  rw [heq]
  exact emptyBand_reset hcal (by rw [bandRec_ordering]; exact hshingled)

/-- The zone's write pointer for new writes is taken back to the one on media; with no later write on it that is all. -/
theorem rejudge_of_none {id : Nat} {k : BandKey} {s : State} (h : zoneWrites s k = []) : rejudge id k s = modBand k (fun r => { r with awp := r.wp }) s := by
  unfold rejudge
  rw [h]
  rfl

/-! ## The command's own context through its action -/

theorem ctxOf_modCtx_ne {id j : Nat} (hj : j ≠ id) {f : Ctx → Ctx} (s : State) (hf : ∀ c, (f c).id = c.id := by exact fun _ => rfl) :
    ctxOf (modCtx j f s) id = ctxOf s id := by
  unfold ctxOf modCtx
  dsimp only
  generalize s.cmds.ctxs = l
  induction l with
  | nil => rfl
  | cons c l ih =>
    by_cases hc : c.id = id
    · simp [hc, hj.symm]
    · rw [List.map_cons, List.find?_cons_of_neg (by split <;> simp [hf, hc]), List.find?_cons_of_neg (by simp [hc]), ih]

theorem ctxOf_dropCtx_ne {id j : Nat} (hj : j ≠ id) (s : State) : ctxOf (dropCtx j s) id = ctxOf s id := by
  unfold ctxOf dropCtx
  dsimp only
  rw [List.find?_filter]
  congr 1
  funext c
  by_cases hc : c.id = id <;> simp [hc, hj.symm]

theorem commitCtx_ctxOf_ne {id j : Nat} (hj : j ≠ id) (st : Status) (a b : Nat) (s : State) : ctxOf (commitCtx j st a b s) id = ctxOf s id := by
  unfold commitCtx
  split
  · rfl
  next c _ =>
    refine ite_field (g := fun u => ctxOf u id) rfl (ite_field (g := fun u => ctxOf u id) (ctxOf_dropCtx_ne hj s) ?_)
    rw [ctxOf_of_cmds ((releaseAborts_keeps (.refl _) (Sub.refl _)).samePart (p := .cmds) rfl),
      ctxOf_of_cmds ((countHost_keeps (.refl _) (Sub.refl _)).samePart (p := .cmds) rfl),
      ctxOf_of_cmds ((commitCompletion_keeps (.refl _) (Sub.refl _)).samePart (p := .cmds) rfl)]
    exact ctxOf_modCtx_ne hj s

/-- Only commands that are younger are judged again. -/
theorem rejudge_ctxOf (id : Nat) (k : BandKey) (s : State) : ctxOf (rejudge id k s) id = ctxOf s id := by
  have hstep : ∀ (l : List Ctx) (u : State), (∀ c ∈ l, c.id ≠ id) → ctxOf (l.foldl (fun s c =>
      match ctxOf s c.id with
      | none => s
      | some c =>
        if c.committed then s
        else match zoneWriteStatus s k (c.start % 65536) c.entry.nlb with
          | some st => commitCtx c.id st 0 0 (releaseWrite c.id (modCtx c.id (fun c => { c with status := st }) s))
          | none => openZone c s) u) id = ctxOf u id := by
    intro l
    induction l with
    | nil => exact fun _ _ => rfl
    | cons x l ih =>
      intro u hl
      refine (ih _ fun c hc => hl c (List.mem_cons_of_mem _ hc)).trans ?_
      have hx : x.id ≠ id := hl x List.mem_cons_self
      dsimp only
      split
      · rfl
      next c hc =>
        rw [← ctx_id hc] at hx
        refine ite_field (g := fun u => ctxOf u id) rfl ?_
        split
        · rw [commitCtx_ctxOf_ne hx, ctxOf_of_cmds ((releaseWrite_keeps (.refl _) (Sub.refl _)).samePart (p := .cmds) rfl)]
          exact ctxOf_modCtx_ne hx u
        · exact ctxOf_of_cmds ((openZone_keeps (.refl u) (Sub.refl _)).samePart (p := .cmds) rfl) id
  unfold rejudge
  refine (hstep _ _ fun c hc => ?_).trans (ctxOf_of_cmds (setBand_cmds ..) id)
  have hlater := (List.mem_filter.1 hc).2
  simp only [Bool.and_eq_true, decide_eq_true_eq] at hlater
  exact Nat.ne_of_gt hlater.1.1

/-! ## The rows -/

/-- An action of one zone that may be taken, as it ends. -/
def oneZone (op : IoOp) (id : Nat) (k : BandKey) (b : Bool) (s : State) : State :=
  commitCtx id .success 0 0 (rejudge id k (noteBand k (actOn op b k s)))

theorem zoneAction_refused {op : IoOp} {id : Nat} {s : State} {c : Ctx} {k : BandKey} (hrow : rowCtx s id (fun o => decide (o = op)) = some c)
    (hmay : mayAct s c = true) (hall : c.entry.selectAll = false) (hks : actionTargets s c = [k])
    (hst : actionStatus s op (bandRec s k).state ≠ .success) :
    zoneAction op id s = progress (refuseCtx c (actionStatus s op (bandRec s k).state) s) := by
  unfold zoneAction
  rw [hrow]
  dsimp only
  rw [if_neg (by simp [hmay]), hks, if_neg (by simp [hall]), List.findSome?_cons, if_neg hst]

theorem zoneAction_taken {op : IoOp} {id : Nat} {s : State} {c : Ctx} {k : BandKey} (hrow : rowCtx s id (fun o => decide (o = op)) = some c)
    (hmay : mayAct s c = true) (hall : c.entry.selectAll = false) (hks : actionTargets s c = [k])
    (hst : actionStatus s op (bandRec s k).state = .success) :
    zoneAction op id s = progress (lookupWaiting (oneZone op id k c.effect s)) := by
  unfold zoneAction oneZone
  rw [hrow]
  dsimp only
  rw [if_neg (by simp [hmay]), hks, if_neg (by simp [hall]), List.findSome?_cons, if_pos hst]
  dsimp only [List.findSome?_nil, List.foldl_cons, List.foldl_nil]
  rw [if_pos hst]

theorem oneZone_completedIo {op : IoOp} {id : Nat} {s : State} {c : Ctx} (hlive : s.live = true) (hctx : ctxOf s id = some c)
    (hcommitted : c.committed = false) (hsilent : c.silent = false) (k : BandKey) (b : Bool) : CompletedIo c .success (oneZone op id k b s) := by
  have hact := actOn_keeps (op := op) (done := b) (k := k) (.refl s) (Sub.refl _)
  have hvault : (rejudge id k (noteBand k (actOn op b k s))).power.vault = s.power.vault :=
    ((rejudge_keeps (.refl _) (Sub.refl _)).powerField rfl Power.vault).trans (Eq.trans rfl (hact.powerField rfl Power.vault))
  refine commitCtx_completedIo ?_ hcommitted (hvault.trans (vault_of_live hlive)) hsilent ..
  rw [rejudge_ctxOf]
  exact (ctxOf_of_cmds (hact.samePart (p := .cmds) rfl) id).trans hctx

/-- What the action makes of the zone's record stands after the work that goes on with the command. -/
theorem oneZone_state {op : IoOp} {id : Nat} {k : BandKey} {s : State} (hwrites : zoneWrites s k = []) (hcal : isCalBand k = false) (b : Bool) :
    (bandRec (progress (lookupWaiting (oneZone op id k b s))) k).state = (bandRec (actOn op b k s) k).state := by
  have hact := actOn_keeps (op := op) (done := b) (k := k) (.refl s) (Sub.refl _)
  have hnone : zoneWrites (noteBand k (actOn op b k s)) k = [] :=
    (zoneWrites_of_same (hact.samePart (p := .cmds) rfl) (hact.namespaces rfl) k).trans hwrites
  have hbands : (progress (lookupWaiting (oneZone op id k b s))).sub.bands = (rejudge id k (noteBand k (actOn op b k s))).sub.bands := by
    rw [progress_sub, (lookupWaiting_keeps (.refl _) (Sub.refl _)).samePart (p := .bands) rfl]
    exact (commitCtx_keeps (.refl _) (Sub.refl _)).samePart (p := .bands) rfl
  have hfind := modBand_find (f := fun r => { r with awp := r.wp }) (fun _ => rfl) hcal (noteBand k (actOn op b k s))
  rw [← rejudge_of_none (id := id) hnone, ← hbands] at hfind
  rw [bandRec_of_find hfind]
  rfl

theorem ctxOf_modCtx_self {s : State} {id : Nat} {c : Ctx} {f : Ctx → Ctx} (hf : ∀ c, (f c).id = c.id) (h : ctxOf s id = some c) :
    ctxOf (modCtx id f s) id = some (f c) := by
  unfold ctxOf at h ⊢
  unfold modCtx
  dsimp only
  generalize s.cmds.ctxs = l at h
  induction l with
  | nil => cases h
  | cons x l ih =>
    by_cases hx : x.id = id
    · rw [List.find?_cons_of_pos (by simp [hx])] at h
      cases h
      rw [List.map_cons, if_pos hx, List.find?_cons_of_pos (by simp [hf, hx])]
    · rw [List.find?_cons_of_neg (by simp [hx])] at h
      rw [List.map_cons, if_neg hx, List.find?_cons_of_neg (by simp [hx]), ih h]

/-- Set Zone Descriptor Extension and Extended Report Zones: refused, with the completion. -/
theorem refused_completes {x : Instr} {id : Nat} {s : State} {c : Ctx} (hlive : s.live = true) (hctx : ctxOf s id = some c)
    (hcommitted : c.committed = false) (hexec : exec x s = .next (progress (refuseCtx c .invalidField s))) :
    exec x s = .next (progress (refuseCtx c .invalidField s)) ∧ (c.silent = false → Answers x s (CompletedIo c .invalidField)) :=
  ⟨hexec, fun hsilent => ⟨_, hexec, (refuseCtx_completedIo hlive hctx hcommitted hsilent _).progress⟩⟩

theorem reportZones_reported {id : Nat} {s : State} {c : Ctx} (hlive : s.live = true) (hctx : ctxOf s id = some c) (hcommitted : c.committed = false)
    (hsilent : c.silent = false) (g : Ctx → List Byte) : ∃ y ∈ ((progress (commitCtx id .success 0 0 (modCtx id (fun c => { c with result := .bytes (g c) }) s))).port
      c.port).committed, y.cid = c.entry.cid ∧ y.sqid = c.sqid ∧ y.status = .success ∧ y.data = .bytes (g c) := by
  have hctx' := ctxOf_modCtx_self (f := fun c => { c with result := .bytes (g c) }) (fun _ => rfl) hctx
  have hmem := mem_commitCtx (c := { c with result := .bytes (g c) }) hctx' hcommitted (vault_of_live hlive) hsilent .success 0 0
  have hst := steady_of_steadies (progress_steadies (commitCtx id .success 0 0 (modCtx id (fun c => { c with result := .bytes (g c) }) s))) c.port
  generalize progress (commitCtx id .success 0 0 (modCtx id (fun c => { c with result := .bytes (g c) }) s)) = t at hst ⊢
  have hcom : (t.port c.port).committed = _ := (congrArg Port.committed hst :)
  rw [hcom]
  exact ⟨_, hmem, rfl, rfl, rfl, rfl⟩

/-- Settles O45: the five actions by the one lemma on one zone, the reports, and the ordering point. -/
theorem zoneManagementActsAtItsOrderingPoint : Obligations.ZoneManagementActsAtItsOrderingPoint := by
  unfold Obligations.ZoneManagementActsAtItsOrderingPoint
  intro id s hlive
  refine ⟨fun x op hx => ?_, fun k b hcal => ?_, fun c hrow => ?_, fun c hrow => ?_, fun c hrow => ?_, fun c hrow => ?_⟩
  · have hexec : exec x s = .next (zoneAction op id s) := by
      simp only [List.mem_cons, Prod.mk.injEq, List.not_mem_nil, or_false] at hx
      obtain ⟨rfl, rfl⟩ | ⟨rfl, rfl⟩ | ⟨rfl, rfl⟩ | ⟨rfl, rfl⟩ | ⟨rfl, rfl⟩ := hx
      all_goals exact exec_ifLive hlive _
    refine ⟨hexec, fun c k hrow hmay hall hks => ⟨fun hst => ?_, fun hst => ?_⟩⟩
    · rw [hexec, zoneAction_refused hrow hmay hall hks hst]
    · have htaken := hexec.trans (congrArg Host.Outcome.next (zoneAction_taken hrow hmay hall hks hst))
      obtain ⟨hctx, -, hcommitted⟩ := rowCtx_some hrow
      refine ⟨htaken, fun hsilent => ⟨_, htaken, completedIo_after (oneZone_completedIo hlive hctx hcommitted hsilent k c.effect)⟩,
        fun hwrites hcal hshingled => ⟨_, htaken, ?_⟩⟩
      obtain ⟨hclose, hfinish, hopen, hoffline⟩ := actOn_states hcal c.effect s
      rw [oneZone_state hwrites hcal]
      refine ⟨?_, ?_, ?_, ?_, ?_⟩
      · rintro rfl
        exact hclose
      · rintro rfl
        exact hfinish
      · rintro rfl
        exact hopen
      · rintro rfl
        exact hoffline
      · rintro rfl
        by_cases hempty : (bandRec s k).state = .empty
        · have heq : actOn .zoneReset c.effect k s = s := if_pos hempty
          rw [heq]
          exact .inl hempty
        · exact (actOn_reset hcal c.effect hempty hshingled).1
  · obtain ⟨hclose, hfinish, hopen, hoffline⟩ := actOn_states hcal b s
    exact ⟨hclose, hfinish, hopen, hoffline, actOn_reset hcal b⟩
  · obtain ⟨hctx, -, hcommitted⟩ := rowCtx_some hrow
    refine refused_completes hlive hctx hcommitted ?_
    show execSetZoneDescriptorExt id s = _
    unfold execSetZoneDescriptorExt
    rw [if_neg (by rw [hlive]; decide), hrow]
  · obtain ⟨hctx, -, hcommitted⟩ := rowCtx_some hrow
    refine refused_completes hlive hctx hcommitted ?_
    show execExtendedReportZones id s = _
    unfold execExtendedReportZones
    rw [if_neg (by rw [hlive]; decide), hrow]
  · obtain ⟨hctx, -, hcommitted⟩ := rowCtx_some hrow
    have hexec : exec (.reportZones id) s = .next (progress (if 7 < c.entry.zraOption.toNat then refuseCtx c .invalidField s
        else commitCtx id .success 0 0 (modCtx id (fun c => { c with result := .bytes (zoneReport s c) }) s))) := by
      show execReportZones id s = _
      unfold execReportZones
      rw [if_neg (by rw [hlive]; decide), hrow]
    refine ⟨fun hopt => ?_, fun hopt => ?_⟩
    · rw [hexec, if_pos hopt]
    · rw [if_neg (Nat.not_lt.2 hopt)] at hexec
      exact ⟨hexec, fun hsilent => ⟨_, hexec, reportZones_reported hlive hctx hcommitted hsilent (zoneReport s)⟩⟩
  · have hexec : exec (.maintenanceOrderingPoint id) s = .next (if !mayAct s c || c.effect then s
        else modCtx id (fun c => { c with effect := true })
          (((actionTargets s c).filter (fun k => actionStatus s c.entry.op (bandRec s k).state = .success)).foldl (fun s k => zoneOrdering k s) s)) := by
      show execMaintenanceOrderingPoint id s = _
      unfold execMaintenanceOrderingPoint
      rw [if_neg (by rw [hlive]; decide), hrow]
    refine ⟨fun heffect => ?_, fun hmay heffect => ⟨_, hexec, ?_⟩⟩
    · rw [hexec, if_pos (by simp [heffect])]
    · beta_reduce
      rw [if_neg (by simp [hmay, heffect])]
      refine ⟨fun y hy hid => ?_, rfl⟩
      obtain ⟨z, -, rfl⟩ := List.mem_map.1 hy
      by_cases hz : z.id = id
      · rw [if_pos hz]
      · exact absurd ((congrArg Ctx.id (if_neg hz)).symm.trans hid) hz

end Sys2Proof.Machine
end


section
/-! SETTLED. The ports of the buffer memory, a repair that is dropped, a slow lap, and the end of a rebuild (O47). -/

set_option Elab.async false

namespace Sys2Proof.Machine

/-! ## A slot of a port (spec 12, R349, R367) -/

theorem modBms_chan (c : Fin 4) (f : BmsChan → BmsChan) (s : State) : (modBms c f s).bms.chans[c] = f s.bms.chans[c] := upd_get_self ..

theorem modArbiter_arbiter (b : Bool) (f : Arbiter → Arbiter) (x : BmsChan) : (modArbiter b f x).arbiter b = f (x.arbiter b) := by
  cases b <;> rfl

theorem modBms_id {c : Fin 4} {f : BmsChan → BmsChan} {s : State} (h : f s.bms.chans[c] = s.bms.chans[c]) : modBms c f s = s := by
  have hvec : upd s.bms.chans c f = s.bms.chans := by
    refine Vector.ext fun i hi => ?_
    have hget := upd_get s.bms.chans c ⟨i, hi⟩ f
    rw [h] at hget
    refine hget.trans ?_
    split
    next heq => rw [heq]; rfl
    next => rfl
  unfold modBms
  rw [hvec]

/-- The slot counter of a port. -/
def State.slotOf (c : Fin 4) (b : Bool) (s : State) : Nat := (s.bms.chans[c].arbiter b).slot

theorem modBms_slotOf {c : Fin 4} {f : BmsChan → BmsChan} {b : Bool} (s : State)
    (hf : ∀ x, ((f x).arbiter b).slot = (x.arbiter b).slot := by exact fun _ => rfl) : (modBms c f s).slotOf c b = s.slotOf c b := by
  unfold State.slotOf
  rw [modBms_chan]
  exact hf _

theorem Keeps.slotOf {m : Nat} {s t : State} (h : Keeps m s t) (hm : m.testBit Part.bms.bit = false) (c : Fin 4) (b : Bool) :
    t.slotOf c b = s.slotOf c b := by
  have hb : t.bms = s.bms := h.samePart (p := .bms) hm
  unfold State.slotOf
  rw [hb]

/-- A change of a channel beside its two ports. -/
theorem modBms_slotOf_ports {c : Fin 4} {f : BmsChan → BmsChan} {b : Bool} (s : State)
    (hf : ∀ x, ((f x).readPort, (f x).writePort) = (x.readPort, x.writePort) := by exact fun _ => rfl) :
    (modBms c f s).slotOf c b = s.slotOf c b := by
  refine modBms_slotOf s fun x => ?_
  obtain ⟨hr, hw⟩ := Prod.ext_iff.1 (hf x)
  cases b
  · exact congrArg Arbiter.slot hr
  · exact congrArg Arbiter.slot hw

theorem regionError_slotOf (a q : Nat) (c : Fin 4) (b : Bool) (s : State) : (regionError a q s).slotOf c b = s.slotOf c b :=
  (regionError_keeps (.refl s) (Sub.refl _)).slotOf rfl c b

theorem transientFault_slotOf (k : FaultKind) (x : Nat) (c : Fin 4) (b : Bool) (s : State) : (transientFault k none x s).slotOf c b = s.slotOf c b :=
  (transientFault_keeps (.refl s) (Sub.refl _)).slotOf rfl c b

theorem noteCorrection_slotOf (c : Fin 4) (i j : Nat) (v : Byte) (z b : Bool) (s : State) : (noteCorrection c i j v z s).slotOf c b = s.slotOf c b := by
  have htable : ∀ (i j : Nat) (v : Byte) (z : Bool) (u : State), (tableCorrection i j v z u).slotOf c b = u.slotOf c b := fun i j v z u => by
    unfold tableCorrection
    exact ite_field (g := State.slotOf c b) rfl (ite_field (g := State.slotOf c b) rfl rfl)
  unfold noteCorrection
  rw [transientFault_slotOf, htable, modBms_slotOf_ports]

theorem readWord_slotOf (c : Fin 4) (row : BitVec 22) (w : BufWord) (requester : Nat) (repair : Bool) (noise : BufWord) (b : Bool) (s : State) :
    (readWord c row w requester repair noise s).2.slotOf c b = s.slotOf c b := by
  unfold readWord
  dsimp only
  split
  · exact regionError_slotOf ..
  · split
    · rfl
    · dsimp only
      split
      · unfold queueRepair
        rw [modBms_slotOf_ports, noteCorrection_slotOf]
      · exact noteCorrection_slotOf ..
    · dsimp only
      rw [regionError_slotOf, modBms_slotOf_ports]
    · unfold noteUncorrectable
      dsimp only
      rw [regionError_slotOf, transientFault_slotOf, modBms_slotOf_ports]

theorem queueReqs_slot (b : Bool) (l : List BufReq) (x : BmsChan) : ((queueReqs b l x).arbiter b).slot = (x.arbiter b).slot := by
  unfold queueReqs
  induction l generalizing x with
  | nil => rfl
  | cons r l ih =>
    rw [List.foldl_cons, ih]
    split
    · rfl
    · cases b <;> rfl

theorem served_slot (b : Bool) (w : Waiting) (x : BmsChan) : ((served b w x).arbiter b).slot = (x.arbiter b).slot := by
  unfold served
  dsimp only
  cases b <;> split <;> rfl

theorem served_write (w : Waiting) (x : BmsChan) : w ∉ (served true w x).writePort.waiting ∧ (served true w x).words = x.words := by
  unfold served
  dsimp only
  split
  · exact ⟨by simp [modArbiter], rfl⟩
  · exact ⟨by simp [modArbiter], rfl⟩

/-- A slot of a running channel whose buffer is ready. -/
theorem bufferSlotGrant_ready {c : Fin 4} {s : State} (hrun : s.power.running = true) (hdead : s.power.dead = false) (hready : s.bms.stage = .ready)
    (b : Bool) (w : BufWord) : exec (.bufferSlotGrant c b [] w) s =
      .next (modBms c (modArbiter b (fun a => { a with slot := a.slot + 1 })) (performGrant c b w (grantOf s s.bms.chans[c] b) s)) := by
  have hqueue : modBms c (queueReqs b []) s = s := modBms_id rfl
  show execBufferSlotGrant c b [] w s = _
  unfold execBufferSlotGrant
  rw [if_neg (by simp [hrun, hdead])]
  dsimp only
  rw [hqueue, if_pos hready]

theorem performGrant_read (c : Fin 4) (noise : BufWord) (x : Waiting) (s : State) :
    (performGrant c false noise (.request x) s).slotOf c false = s.slotOf c false ∧
      ∃ d, (performGrant c false noise (.request x) s).bms.chans[c].lastRead = some (x.req.requester.val, d) := by
  unfold performGrant
  dsimp only
  rw [if_neg (by decide)]
  refine ⟨?_, ?_⟩
  · rw [modBms_slotOf_ports, readWord_slotOf]
    exact modBms_slotOf s fun y => served_slot false x y
  · rw [modBms_chan]
    exact ⟨_, rfl⟩

theorem performGrant_write (c : Fin 4) (noise : BufWord) {x : Waiting} (hmask : x.req.mask = BitVec.allOnes 32) (s : State) :
    (performGrant c true noise (.request x) s).slotOf c true = s.slotOf c true ∧
      x ∉ (performGrant c true noise (.request x) s).bms.chans[c].writePort.waiting ∧
      (performGrant c true noise (.request x) s).bms.chans[c].words = writeRow x.req.row.toNat (encodeWord x.req.data) s.bms.chans[c].words := by
  have heq : performGrant c true noise (.request x) s = storeWord c x.req.row (encodeWord x.req.data) x.req.requester.val (modBms c (served true x) s) :=
    if_pos hmask
  obtain ⟨hwaiting, hwords⟩ := served_write x s.bms.chans[c]
  rw [heq]
  unfold storeWord
  refine ⟨?_, ?_, ?_⟩
  · rw [modBms_slotOf_ports]
    exact modBms_slotOf s fun y => served_slot true x y
  · rw [modBms_chan, modBms_chan]
    exact hwaiting
  · rw [modBms_chan, modBms_chan]
    exact congrArg (writeRow _ _) hwords

/-! ## The end of a rebuild (spec 13, R407) -/

/-- A band whose record is stored, and not held. -/
def State.Released (k : BandKey) (s : State) : Prop := ∃ r, s.sub.bands.find? (fun b => b.key = k) = some r ∧ r.held = false

theorem State.Released.held {k : BandKey} {s : State} (h : s.Released k) : (bandRec s k).held = false := by
  obtain ⟨r, hr, hheld⟩ := h
  rw [bandRec_of_find hr]
  exact hheld

theorem State.Released.of_bands {k : BandKey} {s t : State} (h : s.Released k) (hb : t.sub.bands = s.sub.bands) : t.Released k := by
  unfold State.Released
  rw [hb]
  exact h

theorem setBand_released {k : BandKey} {r : BandRec} (hkey : r.key = k) (hcal : isCalBand k = false) (hheld : r.held = false) (s : State) :
    (setBand r s).Released k := by
  subst hkey
  exact ⟨r, setBand_find hcal, hheld⟩

theorem setZoneState_released {k : BandKey} (hcal : isCalBand k = false) {s : State} (h : s.Released k) (z : ZoneState) : (setZoneState k z s).Released k :=
  setBand_released (r := { bandRec s k with state := z, activeSlot := _ }) (bandRec_key s k) hcal h.held s

theorem markLost_released {k : BandKey} (hcal : isCalBand k = false) {s : State} (h : s.Released k) (cause : Nat) (l : List (Nat × Nat × PortId)) :
    (markLost k cause l s).Released k := by
  unfold markLost
  split
  · exact h
  · extract_lets r offs a b oldSub oldMule d e
    have ha : a.Released k := setBand_released (r := { r with lost := r.lost ++ offs.filter (fun o => !r.lost.contains o) }) (bandRec_key s k) hcal h.held s
    have hb : b.Released k := by
      unfold b
      split
      · exact setZoneState_released hcal ha _
      · exact ha
    have hd : d.Released k := hb.of_bands rfl
    have he : e.sub.bands = d.sub.bands := foldl_field (fun u : State => u.sub.bands) _ (fun t x => by
      split
      · rfl
      · exact (logDeferred_keeps (.refl t) (Sub.refl _)).samePart (p := .bands) rfl) _ _
    exact (hd.of_bands he).of_bands ((noteWarning_keeps (.refl e) (Sub.refl _)).samePart (p := .bands) rfl)

theorem settleZone_released {k : BandKey} (hcal : isCalBand k = false) {s : State} (h : s.Released k) : (settleZone k s).Released k := by
  unfold settleZone
  dsimp only
  split
  · exact setZoneState_released hcal h _
  · split
    · exact setZoneState_released hcal h _
    · exact h

/-- The count of rebuilds. -/
def State.rebuilds (s : State) : Word32 := s.faults.rebuilds

theorem Keeps.rebuilds {m : Nat} {s t : State} (h : Keeps m s t) (hm : m.testBit Part.faults.bit = false) : t.rebuilds = s.rebuilds :=
  congrArg Faults.rebuilds (h.samePart (p := .faults) hm)

theorem rewriteMeta_rebuilds (k : BandKey) (s : State) : (rewriteMeta k s).rebuilds = s.rebuilds := by
  unfold rewriteMeta
  refine foldl_field State.rebuilds _ (fun t c => ?_) _ _
  rfl

theorem rebuildBand_rebuilds (k : BandKey) (j : Bool) (m : Nat) (s : State) : (rebuildBand k j m s).rebuilds = s.rebuilds + 1 := by
  have hset : ∀ (r : BandRec) (u : State), (setBand r u).rebuilds = u.rebuilds := fun r u => rfl
  unfold rebuildBand
  extract_lets r oldFaults a b x n wp d
  have ha : a.rebuilds = s.rebuilds + 1 := rewriteMeta_rebuilds ..
  have hb : b.rebuilds = s.rebuilds + 1 := (hset _ a).trans ha
  have hd : d.rebuilds = s.rebuilds + 1 :=
    ite_field (g := State.rebuilds) (((settleZone_keeps (.refl _) (Sub.refl _)).rebuilds rfl).trans ((hset _ a).trans ha)) ((hset _ a).trans ha)
  clear_value a b d
  refine ite_field (g := State.rebuilds) ?_ ?_
  · exact ((noteWarning_keeps (.refl _) (Sub.refl _)).rebuilds rfl).trans
      (ite_field (g := State.rebuilds) (((offlineZone_keeps (.refl b) (Sub.refl _)).rebuilds rfl).trans hb) ((hset _ b).trans hb))
  · exact ((loseExtents_keeps (.refl d) (Sub.refl _)).rebuilds rfl).trans hd

theorem rebuiltRecord_held (s : State) (k : BandKey) : (rebuiltRecord s k).held = false := rfl

theorem rebuiltRecord_key (s : State) (k : BandKey) : (rebuiltRecord s k).key = k := by
  unfold rebuiltRecord
  dsimp only
  split
  · exact bandRec_key s k
  · exact bandRec_key s k

theorem rebuildBand_journaled {k : BandKey} (hcal : isCalBand k = false) (m : Nat) (s : State) : (rebuildBand k true m s).Released k := by
  unfold rebuildBand
  extract_lets r oldFaults a b x n wp d
  have hkey : n.key = k := rebuiltRecord_key a k
  have hheld : n.held = false := rebuiltRecord_held a k
  clear_value n wp
  have hd : d.Released k := by
    unfold d
    split
    · exact settleZone_released hcal (setBand_released (r := { n with wp := wp, awp := max r.awp wp }) hkey hcal hheld a)
    · exact setBand_released hkey hcal hheld a
  rw [if_neg (by decide)]
  exact markLost_released hcal hd ..

theorem bandRec_noteWarning (k : BandKey) (s : State) : bandRec (noteWarning s) k = bandRec s k :=
  (noteWarning_keeps (.refl s) (Sub.refl _)).bandRec rfl rfl rfl rfl rfl k

/-- Without a journaled record the zone is Offline, a conventional band excluded. -/
theorem rebuildBand_unjournaled {k : BandKey} (hcal : isCalBand k = false) (m : Nat) (s : State) :
    (bandRec (rebuildBand k false m s) k).held = false ∧
      ((bandRec s k).shingled = true → (bandRec (rebuildBand k false m s) k).state = .offline) ∧
      ((bandRec s k).shingled = false → (bandRec (rebuildBand k false m s) k).excluded = true) := by
  unfold rebuildBand
  extract_lets r oldFaults a b
  rw [if_pos (by decide), bandRec_noteWarning]
  have hb : bandRec b k = { r with held := false, lostWords := [] } :=
    bandRec_setBand (r := { r with held := false, lostWords := [] }) (bandRec_key s k) hcal
  have hmaintain : bandRec (maintainBand k b) k = bandRec b k := (maintainBand_keeps (.refl b) (Sub.refl _)).bandRec rfl rfl rfl rfl rfl k
  by_cases hs : (bandRec s k).shingled = true
  · rw [if_pos hs]
    have hrec := bandRec_setBand (s := maintainBand k b) (k := k)
      (r := { bandRec (maintainBand k b) k with state := .offline, activeSlot := none }) (bandRec_key _ k) hcal
    have hoffline : bandRec (offlineZone k b) k = { bandRec (maintainBand k b) k with state := .offline, activeSlot := none } := hrec
    rw [hoffline, hmaintain, hb]
    exact ⟨rfl, fun _ => rfl, fun h => absurd (hs.symm.trans h) (by decide)⟩
  · rw [if_neg hs]
    have hrec : bandRec (modBand k (fun x => { x with excluded := true }) b) k = { bandRec b k with excluded := true } :=
      bandRec_setBand (r := { bandRec b k with excluded := true }) (bandRec_key b k) hcal
    rw [hrec, hb]
    exact ⟨rfl, fun h => absurd h hs, fun _ => rfl⟩

/-- Settles O47: the slot of each port through the one grant, the repairs by their age, the lap, and the rebuilt record. -/
theorem bufferPortsGrantOneRequestASlot : Obligations.BufferPortsGrantOneRequestASlot := by
  unfold Obligations.BufferPortsGrantOneRequestASlot
  intro c s
  have hslot : ∀ (b : Bool) (u : State),
      ((modBms c (modArbiter b (fun a => { a with slot := a.slot + 1 })) u).bms.chans[c].arbiter b).slot = u.slotOf c b + 1 := fun b u => by
    rw [modBms_chan, modArbiter_arbiter]
    rfl
  have hdrop : ∀ (e : BitVec 22 × BufWord × Nat) (r : List (BitVec 22 × BufWord × Nat)), s.power.running = true → s.bms.chans[c].repairs = e :: r →
      e.2.2 + 4096 ≤ s.bms.chans[c].writePort.slot →
      exec (.repairWriteDrop c) s = .next (modBms c (fun b => { b with repairs := b.repairs.drop 1, drops := b.drops + 1 }) s) :=
    fun e r hrun he hold => congrArg Host.Outcome.next (if_pos (by rw [hrun, he]; simpa using hold))
  have hlap : s.live = true → s.bms.stage = .ready → s.bms.chans.toList.any (·.lapWarned) = false → exec (.scrubLapWarn c) s =
      .next (raise (event 0x3001 2 srcController c.val ((s.clock.ns - s.bms.lapStart) / 1000000000))
        (modBms c (fun b => { b with lapWarned := true }) s)) := fun hlive hready hwarned =>
    (exec_ifLive hlive _).trans (congrArg Host.Outcome.next (if_neg (by simp [hready, hwarned])))
  have hrebuild : ∀ (h : HeadId) (k : Nat) (j : Bool) (m : Nat), s.live = true → (bandRec s ⟨h, k⟩).held = true →
      exec (.rebuildDone h k j m) s = .next (progress (rebuildBand ⟨h, k⟩ j m s)) := fun h k j m hlive hheld =>
    (exec_ifLive hlive _).trans (congrArg Host.Outcome.next (if_pos hheld))
  refine ⟨fun b l w hrun hdead hstage => ?_, fun w x hrun hdead hready hgrant => ⟨_, bufferSlotGrant_ready hrun hdead hready false w, ?_⟩,
    fun b w g hrun hdead hready hgrant => hgrant ▸ bufferSlotGrant_ready hrun hdead hready b w,
    fun w x hrun hdead hready hgrant hmask => ⟨_, bufferSlotGrant_ready hrun hdead hready true w, ?_⟩,
    fun e r hrun he => ⟨fun hold => ⟨_, hdrop e r hrun he hold, rfl, ?_, ?_⟩, fun hyoung => ?_⟩, fun hnone => ?_, hlap,
    fun hlive hready hwarned => ⟨_, hlap hlive hready hwarned, ?_⟩, fun hwarned => ?_, fun h k j m hlive hheld => ⟨hrebuild h k j m hlive hheld, fun hcal =>
      ⟨_, hrebuild h k j m hlive hheld, ?_⟩⟩⟩
  · have hexec : exec (.bufferSlotGrant c b l w) s =
        .next (modBms c (modArbiter b (fun a => { a with slot := a.slot + 1 })) (modBms c (queueReqs b l) s)) := by
      show execBufferSlotGrant c b l w s = _
      unfold execBufferSlotGrant
      rw [if_neg (by simp [hrun, hdead])]
      exact congrArg (fun u => Host.Outcome.next (modBms c _ u)) (if_neg hstage)
    refine ⟨hexec, _, hexec, ?_, ?_⟩
    · rw [modBms_chan, modBms_chan]
      exact (modArbiter_words ..).trans (queueReqs_words ..)
    · rw [hslot, modBms_slotOf _ fun x => queueReqs_slot b l x]
      rfl
  · beta_reduce
    rw [hgrant, hslot]
    obtain ⟨hsame, d, hread⟩ := performGrant_read c w x s
    refine ⟨congrArg (· + 1) hsame, d, ?_⟩
    rw [modBms_chan]
    exact hread
  · beta_reduce
    rw [hgrant, hslot]
    obtain ⟨hsame, hwaiting, hwords⟩ := performGrant_write c w hmask s
    refine ⟨congrArg (· + 1) hsame, ?_, ?_⟩
    · rw [modBms_chan]
      exact hwaiting
    · rw [modBms_chan]
      exact hwords
  · rw [modBms_chan]
    exact congrArg (List.drop 1) he
  · rw [modBms_chan]
  · refine congrArg Host.Outcome.next (if_neg ?_)
    rw [he]
    simp only [List.head?_cons, Option.any_some, Bool.and_eq_true, decide_eq_true_eq, not_and]
    exact fun _ => Nat.not_le.2 hyoung
  · refine congrArg Host.Outcome.next (if_neg ?_)
    rw [hnone]
    simp
  · beta_reduce
    rw [raise_bms, modBms_chan]
  · by_cases hlive : s.live = true
    · exact (exec_ifLive hlive _).trans (congrArg Host.Outcome.next (if_pos (by simp [hwarned])))
    · exact congrArg Host.Outcome.next (if_neg hlive)
  · have hcount : (progress (rebuildBand ⟨h, k⟩ j m s)).faults.rebuilds = s.faults.rebuilds + 1 :=
      (congrArg Faults.rebuilds (progress_faults _)).trans (rebuildBand_rebuilds ..)
    have hprogress : ∀ u : State, bandRec (progress u) ⟨h, k⟩ = bandRec u ⟨h, k⟩ := fun u =>
      (progress_work u).bandRec rfl rfl rfl rfl rfl _
    beta_reduce
    rw [hprogress, hcount]
    cases j with
    | true => exact ⟨(rebuildBand_journaled hcal m s).held, rfl, fun hj => absurd hj (by decide), fun hj => absurd hj (by decide)⟩
    | false =>
      obtain ⟨hreleased, hoffline, hexcluded⟩ := rebuildBand_unjournaled hcal m s
      exact ⟨hreleased, rfl, fun _ => hoffline, fun _ => hexcluded⟩

end Sys2Proof.Machine
end


section
/-! SETTLED. The ends of NAND operations, the journal, the checkpoint and code misses (O49, refuted). -/

set_option Elab.async false

namespace Sys2Proof.Machine

/-! ## A page that does not stay: a refresh that waits for the die to be free writes the next copy of SYSTEM, to the place
where the operation that ends has put its page (spec 14, R415, R430) -/

/-- A page of SYSTEM, at the place of the copy that is written next. -/
def systemPlace : NandPage := ⟨0, 1, 7, 8, [], []⟩

/-- Die 0 programs that page, and a block of it waits to be refreshed. -/
def refreshWaits : State :=
  modDie 0 (fun d => { d with op := some (.program .system ⟨0, 0, 0, 1⟩ [systemPlace]) })
    { State.reset with power.running := true, power.porst := true, power.phase := .ready, mule.refresh := [(0, 0, 20)] }

/-- Whether the die that the page goes to holds it. -/
def holdsPlace (t : State) : Bool := t.mule.dies[(pageOf refreshWaits .system 8).die].pages.any (fun e => e.2 = systemPlace)

theorem refreshWaits_programDone_place : seenAfter (.nandProgramDone 0 1) refreshWaits holdsPlace = some false := by decide +kernel

/-- Refutes O49: on `refreshWaits` the page programmed is gone once the die is free. -/
theorem not_nandOperationsEndByTheirPulses : ¬ Obligations.NandOperationsEndByTheirPulses := by
  unfold Obligations.NandOperationsEndByTheirPulses
  intro h
  obtain ⟨hprogram, -⟩ := h 0 refreshWaits
  obtain ⟨-, hgood, -⟩ := hprogram 1 .system ⟨0, 0, 0, 1⟩ [systemPlace] rfl rfl rfl
  obtain ⟨t, hexec, e, he, hplace⟩ := hgood (by decide) (by decide) (by decide) systemPlace rfl
  have hholds : holdsPlace t = true := List.any_eq_true.2 ⟨e, he, decide_eq_true hplace⟩
  have hgone := (seenAfter_of_next holdsPlace hexec).symm.trans refreshWaits_programDone_place
  rw [hholds] at hgone
  exact absurd (Option.some.inj hgone) (by decide)

end Sys2Proof.Machine
end


section
/-! SETTLED. The data window, a sector on media, verification and repair, and the write's time limit (O30). -/

set_option Elab.async false

namespace Sys2Proof.Machine

/-! ## What of the write side lasts through the work on sectors -/

theorem lasting_of_frames {s t : State} (h : t.frames = s.frames) (n : ChanId) : (t.wr n).lasting = (s.wr n).lasting :=
  (congrArg Chan.wr (besideOps_of_frames h n) :)

theorem Keeps.lasting {m : Nat} {s t : State} (h : Keeps m s t) (hm : m.testBit Part.chans.bit = false) (n : ChanId) :
    (t.wr n).lasting = (s.wr n).lasting := lasting_of_frames (h.frames hm) n

theorem unloadAll_lasting (s : State) (n : ChanId) : ((unloadAll s).wr n).lasting = (s.wr n).lasting :=
  unloadChans_stays (g := fun c => c.wr.lasting) (fun _ _ => rfl) (fun _ => rfl) (fun _ => rfl) _ { s with loadQueue := [] } n

/-- The work that goes on with a command stops runs, and no more of the write side. -/
theorem progress_lasting (s : State) (n : ChanId) : ((progress s).wr n).lasting = (s.wr n).lasting := by
  have hspin : ∀ u : State, ((enterPhase .standby (sendSpin 0 (unloadAll u))).wr n).lasting = (u.wr n).lasting := fun u =>
    ((enterPhase_keeps (.refl _) (Sub.refl _)).lasting rfl n).trans (((sendSpin_keeps (.refl _) (Sub.refl _)).lasting rfl n).trans (unloadAll_lasting u n))
  have hstandby : ∀ u : State, ((standbyProgress u).wr n).lasting = (u.wr n).lasting := fun u =>
    ite_field (g := fun t : State => (t.wr n).lasting) (ite_field (g := fun t : State => (t.wr n).lasting) rfl
      (ite_field (g := fun t : State => (t.wr n).lasting) rfl (hspin _))) rfl
  have hthermal : ∀ u : State, ((thermalProgress u).wr n).lasting = (u.wr n).lasting := fun u =>
    ite_field (g := fun t : State => (t.wr n).lasting) (hspin _) rfl
  have hshutdown : ∀ u : State, ((shutdownProgress u).wr n).lasting = (u.wr n).lasting := fun u => by
    unfold shutdownProgress
    extract_lets a
    have ha : (a.wr n).lasting = (u.wr n).lasting := foldl_field (fun t : State => (t.wr n).lasting) _ (fun t p => by split <;> rfl) _ _
    clear_value a
    exact ite_field (g := fun t : State => (t.wr n).lasting) ((unloadAll_lasting _ n).trans ha) ha
  have hspeed : ∀ u : State, ((speedProgress u).wr n).lasting = (u.wr n).lasting := fun u =>
    ite_field (g := fun t : State => (t.wr n).lasting) (((changeSpeed_keeps (.refl _) (Sub.refl _)).lasting rfl n).trans (unloadAll_lasting u n)) rfl
  unfold progress
  rw [(kickDies_keeps (.refl _) (Sub.refl _)).lasting rfl, (loadForWork_keeps (.refl _) (Sub.refl _)).lasting rfl, hspeed, hshutdown, hthermal,
    hstandby, (endDraining_keeps (.refl _) (Sub.refl _)).lasting rfl, (servePauses_keeps (.refl _) (Sub.refl _)).lasting rfl,
    (releaseRegions_keeps (.refl _) (Sub.refl _)).lasting rfl]

/-! ## A sector that lands (spec 08, R232, R248) -/

@[simp] theorem fillFifo_frames (n : ChanId) : ∀ (l : List Bool) (s : State), (fillFifo n l s).frames = s.frames
  | [], _ => rfl
  | p :: l, s => by
    rw [fillFifo]
    dsimp only
    split
    · rfl
    · split
      · rfl
      · rw [fillFifo_frames n l, modWr_frames]
        exact fun _ => rfl

@[simp] theorem alignFifo_frames (n : ChanId) (o : Nat) (s : State) : (alignFifo n o s).frames = s.frames := by simp [alignFifo]

@[simp] theorem beginSector_frames (n : ChanId) (f : FifoSector) (s : State) : (beginSector n f s).frames = s.frames := by
  unfold beginSector
  split
  · rfl
  · simp

@[simp] theorem startArmed_frames (n : ChanId) (s : State) : (startArmed n s).frames = s.frames := by
  unfold startArmed
  split
  · split
    · split <;> simp
    · simp
  · rfl

@[simp] theorem runOn_frames (n : ChanId) : ∀ (fuel : Nat) (after : Option Nat) (s : State), (runOn n fuel after s).frames = s.frames
  | 0, _, _ => rfl
  | fuel + 1, after, s => by
    rw [runOn]
    split
    · rfl
    · split
      · exact endRun_frames ..
      · dsimp only
        split
        · simp
        · simp
        · rw [endRun_frames]
          refine (frames_of_chans (s := alignFifo n _ _) rfl).trans ?_
          simp
        · simp
        · split <;> simp
        · rw [runOn_frames n fuel]
          simp
        · rw [runOn_frames n fuel]
          simp
        · split <;> simp

theorem landBlock_frames (r : WriteRun) (f : FifoSector) (s : State) : (landBlock r f s).frames = s.frames := by
  have hline : ∀ (b : BlockKey) (u : State), (landLine r f b u).frames = u.frames := fun b u => (landLine_keeps (.refl u) (Sub.refl _)).frames rfl
  unfold landBlock
  split
  · rfl
  · split
    · split
      · rfl
      · split
        · exact hline ..
        · split
          · exact hline ..
          · split
            · rfl
            · split
              · exact endUnacked_frames ..
              · rfl
    · exact modWr_frames _ _ _ fun _ => rfl
    · exact hline ..

/-- A sector that lands is counted. -/
theorem sectorLands_written {n : ChanId} {s : State} {r : WriteRun} {x : FifoSector} {y : List FifoSector} (hrun : (s.wr n).run = some r)
    (hfifo : (s.wr n).fifo = x :: y) (fill : List Bool) : ((sectorLands n fill s).wr n).sectorsWritten = (s.wr n).sectorsWritten + 1 := by
  unfold sectorLands
  rw [hrun, hfifo]
  dsimp -zeta only
  extract_lets k p a b d e
  have hd : d.frames = s.frames := by
    refine ((endStalls_keeps (.refl _) (Sub.refl _)).frames rfl).trans ?_
    refine (setFaultsAt_frames ..).trans (((advanceFrontier_keeps (.refl _) (Sub.refl _)).frames rfl).trans ?_)
    exact ((landBand_keeps (.refl _) (Sub.refl _)).frames rfl).trans (landBlock_frames r x s)
  have he : (e.wr n).sectorsWritten = (d.wr n).sectorsWritten + 1 := by
    unfold e
    rw [State.modWr_wr_self]
    exact congrArg (· + 1) (congrArg WriteSide.sectorsWritten (lasting_of_frames (sectorOver_frames n d) n) :)
  have hrunOn := lasting_of_frames ((runOn_frames n (r.op.count + 1) (some p) (fillFifo n fill e)).trans (fillFifo_frames n fill e)) n
  have hds : (d.wr n).sectorsWritten = (s.wr n).sectorsWritten := (congrArg WriteSide.sectorsWritten (lasting_of_frames hd n) :)
  have hlast := (congrArg WriteSide.sectorsWritten hrunOn :)
  exact hlast.trans (he.trans (congrArg (· + 1) hds))

/-- With the request up, and no level that waits, an armed sector changes nothing. -/
theorem startArmed_of_request {n : ChanId} {s : State} (h : (s.wr n).request = true) : startArmed n s = s := by
  unfold startArmed
  rw [if_neg (by simp [h])]

theorem startArmed_of_unarmed {n : ChanId} {s : State} (h : (s.wr n).armed = false) : startArmed n s = s := by
  unfold startArmed
  rw [if_neg (by simp [h])]

theorem gateAllowed_settlePins (s : State) (n : ChanId) : gateAllowed (settlePins s) n = gateAllowed s n := rfl

/-! ## Verification and repair (spec 08, R251) -/

theorem settleExcursion_frames (n : ChanId) (e : Excursion) (fix : List Nat) (tries : Nat) (s : State) : (settleExcursion n e fix tries s).frames = s.frames := by
  unfold settleExcursion
  extract_lets mine own all
  refine ite_frames ?_ ?_
  · exact ((advanceFrontier_keeps (.refl _) (Sub.refl _)).frames rfl).trans (modWr_frames _ _ _ fun _ => rfl)
  · exact ((fileExcursion_keeps (.refl _) (Sub.refl _)).frames rfl).trans (((dirtyAgain_keeps (.refl _) (Sub.refl _)).frames rfl).trans
      (modWr_frames _ _ _ fun _ => rfl))

theorem verifiedGood_frames (k : BandKey) (l : List Nat) (s : State) : (verifiedGood k l s).frames = s.frames :=
  (verifiedGood_keeps (.refl s) (Sub.refl _)).frames rfl

theorem givenUp_frames (k : BandKey) (l : List Nat) (c : Nat) (s : State) : (givenUp k l c s).frames = s.frames :=
  (givenUp_keeps (.refl s) (Sub.refl _)).frames rfl

theorem verifyRead_counted {n : ChanId} {s : State} {e : Excursion} (h : verifyDue s n = some e) (reads : List (Nat × Nat)) :
    ((verifyRead n reads s).wr n).excursions = (s.wr n).excursions + 1 := by
  unfold verifyRead
  rw [h]
  dsimp -zeta only
  extract_lets good bad a hasLine lost fix
  have ha : (a.wr n).lasting = { (s.wr n).lasting with excursions := (s.wr n).excursions + 1 } :=
    (lasting_of_frames (verifiedGood_frames ..) n).trans (congrArg WriteSide.lasting (State.modWr_wr_self ..))
  clear_value fix lost a
  refine (congrArg WriteSide.excursions ((lasting_of_frames ((settleExcursion_frames ..).trans ?_) n).trans ha) :)
  exact ite_frames rfl (givenUp_frames ..)

theorem repairRead_counted {n : ChanId} {s : State} {e : Excursion} (h : repairDue s n = some e) (reads : List (Nat × Nat)) :
    ((repairRead n reads s).wr n).repairs = (s.wr n).repairs + 1 := by
  unfold repairRead
  rw [h]
  dsimp -zeta only
  extract_lets good bad a
  have ha : (a.wr n).lasting = { (s.wr n).lasting with repairs := (s.wr n).repairs + 1 } :=
    (lasting_of_frames (verifiedGood_frames ..) n).trans (congrArg WriteSide.lasting (State.modWr_wr_self ..))
  clear_value a
  refine (congrArg WriteSide.repairs ((lasting_of_frames ?_ n).trans ha) :)
  exact ite_frames ((settleExcursion_frames ..).trans (givenUp_frames ..)) (settleExcursion_frames ..)

/-! ## The write's time limit (spec 08, R250) -/

theorem serialFrame_run (n : ChanId) (r : Bool) (a d : Nat) (s : State) : ((serialFrame n r a d s).wr n).run = (s.wr n).run := by
  unfold serialFrame
  split
  · rfl
  · rw [State.modWr_wr_self]

theorem modeFrame_run (n : ChanId) (i : Nat) (s : State) : ((modeFrame n i s).wr n).run = (s.wr n).run := by
  have hlevel : ∀ (l : Nat) (u : State), ((levelFrame n l u).wr n).run = (u.wr n).run := fun l u => by
    unfold levelFrame
    rw [State.modWr_wr_self]
    exact serialFrame_run ..
  have hflush : ((flushLevel n s).wr n).run = (s.wr n).run := by
    unfold flushLevel
    split
    · rfl
    · rw [State.modWr_wr_self]
      exact hlevel ..
  unfold modeFrame otherFrame
  exact (serialFrame_run ..).trans hflush

theorem endRun_run (n : ChanId) (keep : Bool) (s : State) : ((endRun n keep s).wr n).run = none := by
  have hsame : ∀ {u t : State}, t.chans = u.chans → (t.wr n).run = (u.wr n).run := fun h => congrArg (fun v : Vector Chan 8 => v[n].wr.run) h
  unfold endRun
  split
  next h => exact h
  next r h =>
    extract_lets a b d
    have ha : (a.wr n).run = none := by
      show (((sectorOver n s).modWr n (fun w => { w with run := none, fixed := none, fifo := [] })).wr n).run = none
      rw [State.modWr_wr_self]
    have hb : (b.wr n).run = none := (hsame rfl).trans ((modeFrame_run n 14 a).trans ha)
    have hd : (d.wr n).run = none :=
      ite_field (g := fun u : State => (u.wr n).run) ((hsame ((fileOp_keeps (.refl b) (Sub.refl _)).samePart (p := .chans) rfl)).trans hb) hb
    exact ite_field (g := fun u : State => (u.wr n).run) ((hsame ((refile_keeps (.refl d) (Sub.refl _)).samePart (p := .chans) rfl)).trans hd) hd

/-- Settles O30: the lasting part of the write side counts each sector, verification and repair once. -/
theorem sectorsOnMediaAndTheWriteRun : Obligations.SectorsOnMediaAndTheWriteRun := by
  unfold Obligations.SectorsOnMediaAndTheWriteRun
  intro n s
  have hopen : ∀ (a : Nat) (l : List Nat), s.live = true → (s.chan n).load = .loaded →
      exec (.dataWindowOpen n a l) s = .next (openWindow n (fifoMarks a l) s) := fun a l hlive hload =>
    congrArg Host.Outcome.next (if_pos (by simp [servoLive_of_live hlive, hload]))
  have hland : ∀ (a : Nat) (l : List Nat), s.servoLive = true → (s.wr n).request = true → (s.wr n).levelPending = none →
      exec (.sectorOnMedia ⟨n, a, l⟩) s =
        .next (if s.live then progress (sectorLands n (fifoMarks a l) s) else sectorLands n (fifoMarks a l) s) := fun a l hservo hrequest hlevel => by
    have hsame : startArmed n (flushLevel n s) = s := by rw [flushLevel_of_none hlevel, startArmed_of_request hrequest]
    show execSectorOnMedia ⟨n, a, l⟩ s = _
    unfold execSectorOnMedia
    refine congrArg Host.Outcome.next ((if_neg (by rw [hservo]; decide)).trans ?_)
    rw [hsame]
    exact if_neg (by rw [hrequest]; decide)
  have hverify : ∀ (l : List (Nat × Nat)) (e : Excursion), s.live = true → verifyDue s n = some e →
      exec (.excursionVerifyDone n l) s = .next (progress (verifyRead n l s)) := fun l e hlive hdue =>
    congrArg Host.Outcome.next (if_pos (by simp [hlive, hdue]))
  have hrepair : ∀ (l : List (Nat × Nat)) (e : Excursion), s.live = true → repairDue s n = some e →
      exec (.repairDone n l) s = .next (progress (repairRead n l s)) := fun l e hlive hdue =>
    congrArg Host.Outcome.next (if_pos (by simp [hlive, hdue]))
  have hcount : ∀ {α : Type} (g : WriteSide → α) (hg : ∀ w, g w.lasting = g w) (u : State), g ((progress u).wr n) = g (u.wr n) := fun g hg u => by
    rw [← hg, progress_lasting, hg]
  refine ⟨hopen, fun hlive hload hrequest => ⟨_, hopen 0 [] hlive hload, ?_⟩, fun a l r x y hservo hrequest hlevel hrun hfifo =>
      ⟨⟨_, hland a l hservo hrequest hlevel, ?_⟩, hland a l hservo hrequest hlevel⟩, fun a l hrequest harmed hlevel => ?_,
    fun l e hlive hdue => ⟨⟨_, hverify l e hlive hdue, ?_⟩, hverify l e hlive hdue⟩,
    fun l e hlive hdue => ⟨⟨_, hrepair l e hlive hdue, ?_⟩, hrepair l e hlive hdue⟩, fun r hlive hrun habort => ?_, fun hrun => ?_⟩
  · have heq : openWindow n (fifoMarks 0 []) s = (settlePins s).modWr n (fun w => { w with
        wg := gateAllowed (settlePins s) n
        wroteIn := if gateAllowed (settlePins s) n then w.run.map (fun r => (r.op.band, trackIn (settlePins s) r.op.band r.offset)) else w.wroteIn }) :=
      if_pos hrequest
    beta_reduce
    rw [heq]
    refine ⟨?_, ?_, ?_, fun j hj => ?_⟩
    · rw [State.modWr_wr_self]
      exact gateAllowed_settlePins s n
    · rw [State.modWr_wr_self]
      exact hrequest
    · rw [State.modWr_wr_self]
      rfl
    · exact (congrArg Chan.wr (State.modChan_chan_ne _ hj) :)
  · beta_reduce
    split
    · exact (hcount WriteSide.sectorsWritten (fun _ => rfl) _).trans (sectorLands_written hrun hfifo _)
    · exact sectorLands_written hrun hfifo _
  · have hsame : startArmed n (flushLevel n s) = s := by rw [flushLevel_of_none hlevel, startArmed_of_unarmed harmed]
    show execSectorOnMedia ⟨n, a, l⟩ s = _
    unfold execSectorOnMedia
    refine congrArg Host.Outcome.next ?_
    split
    · rfl
    · rw [hsame]
      exact if_pos (by rw [hrequest]; decide)
  · exact (hcount WriteSide.excursions (fun _ => rfl) _).trans (verifyRead_counted hdue l)
  · exact (hcount WriteSide.repairs (fun _ => rfl) _).trans (repairRead_counted hdue l)
  · have hexec : exec (.writeTimeLimit n) s = .next (writeStallEvent r.op.band.head (endRun n true s)) := by
      show execWriteTimeLimit n s = _
      unfold execWriteTimeLimit
      rw [hrun]
      exact congrArg Host.Outcome.next (if_pos (by simp [hlive, habort]))
    refine ⟨hexec, _, hexec, ?_⟩
    have hstall : (writeStallEvent r.op.band.head (endRun n true s)).chans = (endRun n true s).chans :=
      (writeStallEvent_keeps (.refl _) (Sub.refl _)).samePart (p := .chans) rfl
    exact (congrArg (fun v : Vector Chan 8 => v[n].wr.run) hstall).trans (endRun_run n true s)
  · show execWriteTimeLimit n s = _
    unfold execWriteTimeLimit
    rw [hrun]

end Sys2Proof.Machine
end


section
/-! SETTLED. The preamplifier's fault pin, its monitor, and a trim that comes too late (O29). -/

set_option Elab.async false

namespace Sys2Proof.Machine

/-! ## The gate after the end of a sector (spec 08, R244, R250) -/

theorem besideRun_of_gates {s t : State} (h : t.gates = s.gates) (n : ChanId) : (t.wr n).besideRun = (s.wr n).besideRun :=
  (congrArg Chan.wr (besideRuns_of_gates h n) :)

/-- An abort is the end of its sector; where the sector goes then opens no gate. -/
theorem abortSector_gates (b : Bool) (n : ChanId) (s : State) : (abortSector b n s).gates = (sectorOver n s).gates := by
  unfold abortSector
  extract_lets a
  split
  · rfl
  · extract_lets k p d c e
    have hd : d.gates = a.gates := modWr_gates _ _ _ fun _ => rfl
    have he : e.gates = a.gates := (transientFault_gates ..).trans hd
    clear_value c e d
    split
    · exact hd
    · split
      · exact (placeElsewhere_gates ..).trans ((setFaultsAt_gates ..).trans he)
      · exact (setFaultsAt_gates ..).trans he

theorem abortSector_shuts (b : Bool) (n : ChanId) (s : State) : ((abortSector b n s).wr n).wg = false ∧
    ((abortSector b n s).wr n).assistReady = ((s.wr n).assistReady && !(s.wr n).withdrawAtEnd) := by
  have h := besideRun_of_gates (abortSector_gates b n s) n
  have hover : (sectorOver n s).wr n = _ := State.modWr_wr_self ..
  rw [hover] at h
  exact ⟨(congrArg WriteSide.wg h :), (congrArg WriteSide.assistReady h :)⟩

/-- Without assist-ready nothing is permitted, and the check leaves the gate shut. -/
theorem gateCheck_shut {n : ChanId} {s : State} (h : (s.wr n).assistReady = false) (b : Bool) : ((gateCheck b n s).wr n).assistReady = false ∧
    ((s.wr n).wg = false → ((gateCheck b n s).wr n).wg = false) := by
  unfold gateCheck
  rw [if_neg (by simp [writePermission, h])]
  split
  · obtain ⟨hwg, hassist⟩ := abortSector_shuts b n s
    exact ⟨hassist.trans (by rw [h]; rfl), fun _ => hwg⟩
  · rw [State.modWr_wr_self]
    exact ⟨h, id⟩

/-! ## Frames, and the window that closes -/

/-- The calibration level of a write side, and its gate. -/
def WriteSide.held (w : WriteSide) : Option Nat × Bool := (w.fixed, w.wg)

theorem serialFrame_held (n : ChanId) (r : Bool) (a d : Nat) (s : State) : ((serialFrame n r a d s).wr n).held = (s.wr n).held := by
  unfold serialFrame
  split
  · rfl
  · rw [State.modWr_wr_self]
    rfl

theorem flushLevel_held (n : ChanId) (s : State) : ((flushLevel n s).wr n).held = (s.wr n).held := by
  unfold flushLevel levelFrame
  split
  · rfl
  · rw [State.modWr_wr_self, State.modWr_wr_self]
    exact serialFrame_held ..

theorem modRwc_wr (n : ChanId) (f : Rwc → Rwc) (s : State) : (s.modRwc n f).wr n = s.wr n := (congrArg Chan.wr (State.modChan_chan_self ..) :)

theorem startArmed_fixed (n : ChanId) (s : State) : ((startArmed n s).wr n).fixed = (s.wr n).fixed := by
  unfold startArmed beginSector
  split
  · split
    · split
      · split
        · rfl
        · rw [State.modWr_wr_self, modRwc_wr, State.modWr_wr_self]
      · rw [State.modWr_wr_self]
    · rw [State.modWr_wr_self]
  · rfl

theorem closeWindow_held (n : ChanId) (s : State) : ((closeWindow n s).wr n).held = ((s.wr n).fixed, false) := by
  unfold closeWindow
  rw [State.modWr_wr_self]
  exact congrArg (·, false) (startArmed_fixed n s)

theorem closeWindow_frames (n : ChanId) (s : State) : (closeWindow n s).frames = s.frames := by
  simp [closeWindow]

/-- The frame of a monitor read, after the written window has closed. -/
def monitorFrame (n : ChanId) (s : State) : State := serialFrame n true (paReg s n 8) 0 (flushLevel n (closeWindow n s))

theorem monitorFrame_held (n : ChanId) (s : State) : ((monitorFrame n s).wr n).held = ((s.wr n).fixed, false) :=
  (serialFrame_held ..).trans ((flushLevel_held ..).trans (closeWindow_held ..))

theorem monitorFrame_lasting (n : ChanId) (s : State) : ((monitorFrame n s).wr n).lasting = (s.wr n).lasting :=
  lasting_of_frames ((serialFrame_frames ..).trans ((flushLevel_frames ..).trans (closeWindow_frames ..))) n

/-! ## The monitor (spec 08, R242, R247) -/

/-- A monitor read out of its bounds. -/
theorem monitorOut_shut {n : ChanId} {s : State} (h : HeadId) (hwg : (s.wr n).wg = false) : ((monitorOut n h s).wr n).assistReady = false ∧
    ((monitorOut n h s).wr n).monOut = (s.wr n).monOut + 1 ∧ (monitorOut n h s).heads[h].trim = 0 ∧ ((monitorOut n h s).wr n).wg = false := by
  unfold monitorOut
  extract_lets run hit a b
  have haw : a.wr n = { s.wr n with monOut := (s.wr n).monOut + 1, assistReady := false, withdrawAtEnd := false, warmFrom := none } :=
    State.modWr_wr_self ..
  have hwr : (a.modHead h (fun x => { x with trim := 0, monRun := if hit then 0 else run })).wr n = a.wr n := rfl
  have htrim : (a.modHead h (fun x => { x with trim := 0, monRun := if hit then 0 else run })).heads[h].trim = 0 :=
    (congrArg Head.trim (upd_get_self ..) :)
  have hb : (b.wr n).assistReady = false ∧ (b.wr n).monOut = (s.wr n).monOut + 1 ∧ b.heads[h].trim = 0 ∧ (b.wr n).wg = false := by
    unfold b
    clear_value a
    generalize a.modHead h _ = u at hwr htrim
    have hassist : (u.wr n).assistReady = false := by rw [hwr, haw]
    obtain ⟨hoff, hshut⟩ := gateCheck_shut hassist false
    have hlast : ((gateCheck false n u).wr n).monOut = (u.wr n).monOut := (congrArg WriteSide.monOut (lasting_of_frames (gateCheck_frames false n u) n) :)
    have hheads : (gateCheck false n u).heads = u.heads := (gateCheck_unfaulted_chansOnly (.refl u) (Sub.refl _)).samePart (p := .heads) rfl
    refine ⟨hoff, hlast.trans (by rw [hwr, haw]), by rw [hheads, htrim], hshut (by rw [hwr, haw]; exact hwg)⟩
  clear_value b
  split
  · have hcharge := charge_keeps (k := .assistMon) (u := .head h) (writeSide := true) (extra := 0) (.refl b) (Sub.refl _)
    have hchans : (charge .assistMon (.head h) true 0 b).wr n = b.wr n := congrArg (fun v : Vector Chan 8 => v[n].wr) (hcharge.samePart (p := .chans) rfl)
    have htrim : (charge .assistMon (.head h) true 0 b).heads[h].trim = b.heads[h].trim :=
      congrArg (fun v : Vector Head 32 => v[h].trim) (hcharge.samePart (p := .heads) rfl)
    rw [hchans, htrim]
    exact hb
  · exact hb

/-- A trim taken: a level frame waits. -/
theorem takeTrim_pending {n : ChanId} {s : State} (h : HeadId) (x : Int) (hwg : (s.wr n).wg = false) (hrun : s.heads[h].monRun = 0) (l : Nat × Bool) :
    let t := (takeTrim n h x s).2.modWr n (fun w => { w with levelPending := some l })
    (t.wr n).levelPending.isSome = true ∧ t.heads[h].monRun = 0 ∧ (t.wr n).wg = false := by
  intro t
  have hheads : t.heads[h].monRun = s.heads[h].monRun := (congrArg Head.monRun (upd_get_self ..) :)
  have hwr : t.wr n = { (takeTrim n h x s).2.wr n with levelPending := some l } := State.modWr_wr_self ..
  have htake : ((takeTrim n h x s).2.wr n).wg = (s.wr n).wg := (congrArg WriteSide.wg (State.modWr_wr_self ..) :)
  rw [hwr]
  exact ⟨rfl, hheads.trans hrun, htake.trans hwg⟩

/-- A fall of the fault pin, before the gate is checked. -/
def paFell (n : ChanId) (s : State) : State :=
  let s := s.modWr n (fun w => { w with
    paLow := true, paHold := true, paFirst := true, paClean := false, paCharged := false, paHighWedges := 0
    assistReady := false, withdrawAtEnd := false, warmFrom := none, paFaults := w.paFaults + 1 })
  transientFault .paFault (some (.head (s.sdm n).head)) 0 s

theorem paFell_chans (n : ChanId) (s : State) : (paFell n s).chans = (s.modWr n (fun w => { w with
    paLow := true, paHold := true, paFirst := true, paClean := false, paCharged := false, paHighWedges := 0
    assistReady := false, withdrawAtEnd := false, warmFrom := none, paFaults := w.paFaults + 1 })).chans :=
  (transientFault_keeps (.refl _) (Sub.refl _)).samePart (p := .chans) rfl

theorem paFell_self (n : ChanId) (s : State) : (paFell n s).wr n = { s.wr n with
    paLow := true, paHold := true, paFirst := true, paClean := false, paCharged := false, paHighWedges := 0
    assistReady := false, withdrawAtEnd := false, warmFrom := none, paFaults := (s.wr n).paFaults + 1 } :=
  (congrArg (fun v : Vector Chan 8 => v[n].wr) (paFell_chans n s)).trans (State.modWr_wr_self ..)

theorem paFell_ne {n j : ChanId} (hj : j ≠ n) (s : State) : (paFell n s).wr j = s.wr j :=
  (congrArg (fun v : Vector Chan 8 => v[j].wr) (paFell_chans n s)).trans (congrArg Chan.wr (State.modChan_chan_ne _ hj))

/-- Settles O29: the pin and its reads on the write side's lasting part, and the monitor after the window that closes. -/
theorem aSectorsWritePermissionFollowsThePreamplifier : Obligations.ASectorsWritePermissionFollowsThePreamplifier := by
  unfold Obligations.ASectorsWritePermissionFollowsThePreamplifier
  intro n s hlive hfitted
  have hservo := servoLive_of_live hlive
  refine ⟨fun l hlevel => congrArg Host.Outcome.next (if_pos (by simp [hservo, hlevel])), fun hhigh => ?_, fun hlow => ⟨?_, ?_⟩, fun hlow hcharged => ?_,
    fun v hhold hlevel => ?_, fun m htype htrim hfixed hloaded hwrote => ?_⟩
  · have hexec : exec (.paFaultFall n) s = .next (gateCheck true n (paFell n s)) :=
      congrArg Host.Outcome.next (if_neg (by simp [hservo, hfitted, hhigh]))
    refine ⟨_, hexec, ?_⟩
    have hframes := gateCheck_frames true n (paFell n s)
    have hself : ((gateCheck true n (paFell n s)).wr n).lasting = ((paFell n s).wr n).lasting := lasting_of_frames hframes n
    rw [paFell_self] at hself
    refine ⟨(gateCheck_shut (congrArg WriteSide.assistReady (paFell_self n s)) true).1, (congrArg WriteSide.paLow hself :),
      (congrArg WriteSide.paHold hself :), (congrArg WriteSide.paFaults hself :), fun j hj => ?_⟩
    have hother : ((gateCheck true n (paFell n s)).wr j).lasting = (s.wr j).lasting :=
      (lasting_of_frames hframes j).trans (congrArg WriteSide.lasting (paFell_ne hj s))
    exact ⟨(congrArg WriteSide.paLow hother :), (congrArg WriteSide.paFaults hother :)⟩
  · exact congrArg Host.Outcome.next (if_pos (by simp [hlow]))
  · exact congrArg Host.Outcome.next (if_pos (by simp [hservo, hlow]))
  · have hexec : exec (.paFaultHold n) s = .next (charge .paFault (.head (s.sdm n).head) true 0 (s.modWr n (fun w => { w with paCharged := true }))) :=
      congrArg Host.Outcome.next (if_pos (by simp [hlive, hlow, hcharged]))
    refine ⟨hexec, _, hexec, ?_⟩
    have hwr : (charge .paFault (.head (s.sdm n).head) true 0 (s.modWr n (fun w => { w with paCharged := true }))).wr n =
        { s.wr n with paCharged := true } :=
      (congrArg (fun v : Vector Chan 8 => v[n].wr) ((charge_keeps (.refl _) (Sub.refl _)).samePart (p := .chans) rfl)).trans (State.modWr_wr_self ..)
    beta_reduce
    rw [hwr]
    exact ⟨rfl, hlow⟩
  · have hexec : exec (.faultReadDone n v) s = .next ((otherFrame n true (paReg s n 9) 0 s).modWr n (fun w => { w with
        lastPaFault := if w.paFirst then v else w.lastPaFault, paFirst := false, paClean := w.paClean || v = 0 })) :=
      congrArg Host.Outcome.next (if_neg (by simp [hservo, hhold]))
    refine ⟨_, hexec, ?_⟩
    have hframe : (otherFrame n true (paReg s n 9) 0 s).wr n = { s.wr n with
        serial := (s.wr n).serial ++ [BitVec.ofNat 24 (2 ^ 23 + paReg s n 9 % 128 * 65536)] } := by
      unfold otherFrame serialFrame
      rw [flushLevel_of_none hlevel, if_neg (by simp [hfitted]), State.modWr_wr_self]
      simp [b2n]
    beta_reduce
    rw [State.modWr_wr_self, hframe]
    exact ⟨rfl, rfl, rfl, rfl⟩
  · have hheld := monitorFrame_held n s
    have hfixed' : ((monitorFrame n s).wr n).fixed = none := (congrArg Prod.fst hheld).trans hfixed
    have hwg : ((monitorFrame n s).wr n).wg = false := congrArg Prod.snd hheld
    have hmon : ((monitorFrame n s).wr n).monOut = (s.wr n).monOut := (congrArg WriteSide.monOut (monitorFrame_lasting n s) :)
    have hexec : exec (.monitorReadDone n m) s = .next (
        if m.toNat < fieldU (assistRec s (s.sdm n).head) 6 2 || fieldU (assistRec s (s.sdm n).head) 8 2 < m.toNat then
          monitorOut n (s.sdm n).head (monitorFrame n s)
        else
          let l := takeTrim n (s.sdm n).head (trimFrom (monitorFrame n s) n (s.sdm n).head m.toNat)
            ((monitorFrame n s).modHead (s.sdm n).head (fun x => { x with monRun := 0 }))
          l.2.modWr n (fun w => { w with levelPending := some (l.1, false) })) :=
      congrArg Host.Outcome.next ((if_neg (by simp [hservo, htype, htrim, hloaded, hwrote])).trans (if_neg (by
        show ¬((monitorFrame n s).wr n).fixed.isSome = true
        simp [hfixed'])))
    refine ⟨fun hout => ⟨_, hexec, ?_⟩, fun hlo hhi => ⟨_, hexec, ?_⟩⟩
    · beta_reduce
      rw [if_pos (by simpa using hout), ← hmon]
      exact monitorOut_shut _ hwg
    · beta_reduce
      rw [if_neg (by simp; omega)]
      exact takeTrim_pending (s := (monitorFrame n s).modHead (s.sdm n).head (fun x => { x with monRun := 0 })) _ _ hwg
        (congrArg Head.monRun (upd_get_self ..) :) _

end Sys2Proof.Machine
end


section
/-! SETTLED. A sector read, its decoding, the second look, and the limit of a retry (O31). -/

set_option Elab.async false

namespace Sys2Proof.Machine

/-! ## The read in progress and its decoder: what the ladders' work leaves -/

/-- Where a read stands, and the sectors in the decoder. -/
def Rwc.queue (r : Rwc) : Nat × Bool × List Codeword := (r.nextSector, r.stopRead, r.decoding)

/-- The reads and the decoders of all channels. -/
def State.queues (s : State) : ChanId → Nat × Bool × List Codeword := fun n => (s.rwc n).queue

theorem queues_of_chans {s t : State} (h : t.chans = s.chans) : t.queues = s.queues :=
  congrArg (fun v : Vector Chan 8 => fun n : ChanId => v[n].rwc.queue) h

theorem Keeps.queues {m : Nat} {s t : State} (h : Keeps m s t) (hm : m.testBit Part.chans.bit = false) : t.queues = s.queues :=
  queues_of_chans (h.samePart (p := .chans) hm)

theorem modRwc_queues (n : ChanId) (f : Rwc → Rwc) (s : State) (hf : ∀ r, (f r).queue = r.queue := by exact fun _ => rfl) :
    (s.modRwc n f).queues = s.queues := by
  funext j
  unfold State.queues State.rwc State.modRwc
  rw [State.modChan_chan]
  split
  next h => rw [hf, h]
  next => rfl

/-- No ladder of a channel is of this sector. -/
def State.Sans (s : State) (n : ChanId) (o : MediaOp) (off : Nat) : Prop := ∀ x ∈ (s.rwc n).ladders, sameSector o off x = false

/-- What the work on ladders does: the reads and the decoders stand, and no ladder is of a sector of which there was none. -/
structure LadderWork (s t : State) : Prop where
  queues : t.queues = s.queues
  sans : ∀ n o off, s.Sans n o off → t.Sans n o off

theorem LadderWork.refl (s : State) : LadderWork s s := ⟨rfl, fun _ _ _ h => h⟩

theorem LadderWork.trans {s t u : State} (h1 : LadderWork s t) (h2 : LadderWork t u) : LadderWork s u :=
  ⟨h2.queues.trans h1.queues, fun n o off h => h2.sans n o off (h1.sans n o off h)⟩

theorem Keeps.ladderWork {m : Nat} {s t : State} (h : Keeps m s t) (hm : m.testBit Part.chans.bit = false) : LadderWork s t :=
  ⟨h.queues hm, fun n o off hs => by
    have hladders : (t.rwc n).ladders = (s.rwc n).ladders := congrArg (fun v : Vector Chan 8 => v[n].rwc.ladders) (h.samePart (p := .chans) hm)
    unfold State.Sans
    rw [hladders]
    exact hs⟩

theorem modRwc_ladderWork (n : ChanId) (f : Rwc → Rwc) (s : State)
    (hl : ∀ r, ∀ x ∈ (f r).ladders, ∃ y ∈ r.ladders, y.op.id = x.op.id ∧ y.offset = x.offset := by exact fun _ x h => ⟨x, h, rfl, rfl⟩)
    (hq : ∀ r, (f r).queue = r.queue := by exact fun _ => rfl) : LadderWork s (s.modRwc n f) := by
  refine ⟨modRwc_queues n f s hq, fun j o off h x hx => ?_⟩
  unfold State.rwc State.modRwc at hx
  rw [State.modChan_chan] at hx
  split at hx
  next hj =>
    subst hj
    obtain ⟨y, hy, hid, hoff⟩ := hl _ x hx
    have hy := h y hy
    unfold sameSector at hy ⊢
    rwa [hid, hoff] at hy
  next => exact h x hx

theorem foldl_ladderWork {α : Type} {f : State → α → State} (h : ∀ s x, LadderWork s (f s x)) : ∀ (l : List α) (s : State), LadderWork s (l.foldl f s)
  | [], s => .refl s
  | x :: l, s => (h s x).trans (foldl_ladderWork h l (f s x))

theorem modEntry_ladderWork (n : ChanId) (i : Fin 10) (f : CaptureEntry → CaptureEntry) (s : State) : LadderWork s (modEntry n i f s) :=
  modRwc_ladderWork n _ s

theorem keepEntries_ladderWork (n : ChanId) (l : List (Fin 10)) (b : Bool) (s : State) : LadderWork s (keepEntries n l b s) :=
  foldl_ladderWork (fun s i => modEntry_ladderWork n i _ s) l s

theorem holdActuator_ladderWork (n : ChanId) (s : State) : LadderWork s (holdActuator n s) := modRwc_ladderWork n _ s

theorem modLadder_ladderWork (n : ChanId) (o : MediaOp) (off : Nat) (f : Ladder → Ladder) (s : State)
    (hf : ∀ x, (f x).op = x.op ∧ (f x).offset = x.offset := by exact fun _ => ⟨rfl, rfl⟩) : LadderWork s (modLadder n o off f s) := by
  refine modRwc_ladderWork n _ s fun r x hx => ?_
  obtain ⟨y, hy, rfl⟩ := List.mem_map.1 hx
  refine ⟨y, hy, ?_⟩
  split
  · exact ⟨congrArg MediaOp.id (hf y).1.symm, (hf y).2.symm⟩
  · exact ⟨rfl, rfl⟩

theorem endLadder_ladderWork (n : ChanId) (l : Ladder) (b : Bool) (s : State) : LadderWork s (endLadder n l b s) :=
  (keepEntries_ladderWork n l.entries b s).trans ((modRwc_ladderWork n _ _ fun _ x hx => ⟨x, (List.mem_filter.1 hx).1, rfl, rfl⟩).trans
    (holdActuator_ladderWork n _))

/-- The ladder of a sector that ends is gone. -/
theorem endLadder_sans (n : ChanId) (l : Ladder) (b : Bool) (s : State) : (endLadder n l b s).Sans n l.op l.offset := by
  refine (holdActuator_ladderWork n _).sans n _ _ fun x hx => ?_
  unfold State.rwc State.modRwc at hx
  rw [State.modChan_chan_self] at hx
  simpa using (List.mem_filter.1 hx).2

theorem stopNow_ladderWork (n : ChanId) (b : Bool) (l : Ladder) (s : State) : LadderWork s (stopNow n b l s) := by
  unfold stopNow
  dsimp only
  split
  · exact (endLadder_ladderWork n l false s).trans ((refile_keeps (.refl _) (Sub.refl _)).ladderWork rfl)
  · exact endLadder_ladderWork n l false s

theorem stopLadders_ladderWork (p : Ladder → Bool) (b : Bool) (n : ChanId) (s : State) : LadderWork s (stopLadders p b n s) := by
  refine foldl_ladderWork (fun t l => ?_) _ s
  split
  · exact modLadder_ladderWork n l.op l.offset _ t
  · exact stopNow_ladderWork n b l t

theorem dropUnwanted_ladderWork (n : ChanId) (s : State) : LadderWork s (dropUnwanted n s) := stopLadders_ladderWork _ false n s

theorem deliverBad_ladderWork (o : MediaOp) (off : Nat) (s : State) : LadderWork s (deliverBad o off s) := (deliverBad_keeps (.refl s) (Sub.refl _)).ladderWork rfl

theorem pendingDefect_ladderWork (k : BandKey) (off : Nat) (s : State) : LadderWork s (pendingDefect k off s) :=
  (pendingDefect_keeps (.refl s) (Sub.refl _)).ladderWork rfl

theorem transientFault_ladderWork (k : FaultKind) (u : Option UnitId) (x : Nat) (s : State) : LadderWork s (transientFault k u x s) :=
  (transientFault_keeps (.refl s) (Sub.refl _)).ladderWork rfl

theorem countRecovery_ladderWork (n : ChanId) (i : Fin 6) (s : State) : LadderWork s (countRecovery n i s) := modRwc_ladderWork n _ s

theorem unrecovered_ladderWork (n : ChanId) (l : Ladder) (s : State) : LadderWork s (unrecovered n l s) :=
  (pendingDefect_ladderWork ..).trans ((countRecovery_ladderWork n 5 _).trans ((transientFault_ladderWork ..).trans
    ((endLadder_ladderWork n l false _).trans (deliverBad_ladderWork ..))))

theorem unrecovered_sans (n : ChanId) (l : Ladder) (s : State) : (unrecovered n l s).Sans n l.op l.offset :=
  (deliverBad_ladderWork l.op l.offset _).sans n _ _ (endLadder_sans n l false _)

theorem nextStep_ladderWork (n : ChanId) (l : Ladder) (s : State) : LadderWork s (nextStep n l s) := by
  unfold nextStep
  split
  · exact unrecovered_ladderWork n l s
  · exact (modLadder_ladderWork n l.op l.offset _ s).trans (holdActuator_ladderWork n _)

theorem startLookOnce_ladderWork (n : ChanId) (s : State) : LadderWork s (startLookOnce n s) := by
  unfold startLookOnce
  split
  · exact .refl s
  · split
    · exact .refl s
    next l _ =>
      split
      · exact nextStep_ladderWork n l s
      · extract_lets e late
        split
        · exact nextStep_ladderWork n l s
        · split
          · split
            · exact unrecovered_ladderWork n l s
            · exact nextStep_ladderWork n l s
          · exact (modLadder_ladderWork n l.op l.offset _ s).trans (modRwc_ladderWork n _ _)

theorem startLook_ladderWork (n : ChanId) (s : State) : LadderWork s (startLook n s) := foldl_ladderWork (fun t _ => startLookOnce_ladderWork n t) _ s

theorem endUnwanted_ladderWork (s : State) : LadderWork s (endUnwanted s) := (endUnwanted_keeps (.refl s) (Sub.refl _)).ladderWork rfl

theorem powerFrontEnds_ladderWork (n : ChanId) (s : State) : LadderWork s (powerFrontEnds n s) := by
  unfold powerFrontEnds
  exact modRwc_ladderWork n _ s

theorem settleChannel_ladderWork (n : ChanId) (s : State) : LadderWork s (settleChannel n s) :=
  (dropUnwanted_ladderWork n s).trans ((endUnwanted_ladderWork _).trans ((startLook_ladderWork n _).trans (powerFrontEnds_ladderWork n _)))

/-! ## A sector that has been decoded (spec 07, R205, R213) -/

theorem ite_queues {c : Prop} [Decidable c] {a b : State} {x : ChanId → Nat × Bool × List Codeword} (ha : a.queues = x) (hb : b.queues = x) :
    (if c then a else b).queues = x := ite_field ha hb

theorem recovered_ladderWork (n : ChanId) (l : Ladder) (d : Block) (s : State) : LadderWork s (recovered n l d s) := by
  have hdeliver : ∀ u : State, LadderWork u (deliver l.op l.offset d u) := fun u => (deliver_keeps (.refl u) (Sub.refl _)).ladderWork rfl
  unfold recovered
  extract_lets a b
  have hb : LadderWork s b := by
    unfold b
    split
    · exact (countRecovery_ladderWork n _ s).trans (pendingDefect_ladderWork ..)
    · exact countRecovery_ladderWork n _ s
  exact hb.trans ((endLadder_ladderWork n l true b).trans (hdeliver _))

theorem freeEntry_queues (n : ChanId) (i : Fin 10) (s : State) : (freeEntry n i s).queues = s.queues := modRwc_queues n _ s

theorem retain_queues (n : ChanId) (i : Fin 10) (s : State) : (retain n i s).2.queues = s.queues := by
  have hhold : ∀ u : State, (holdEntry n i u).queues = u.queues := fun u => (modRwc_queues n _ _).trans (modRwc_queues n _ u)
  have hskip : ((freeEntry n i s).modRwc n (fun r => { r with skipped := r.skipped + 1 })).queues = s.queues :=
    (modRwc_queues n _ _).trans (freeEntry_queues n i s)
  unfold retain
  split
  · exact hhold s
  · split
    · split
      · exact hskip
      · exact (hhold _).trans (freeEntry_queues ..)
    · exact hskip

theorem startLadder_queues (n : ChanId) (o : MediaOp) (off : Nat) (e : Option (Fin 10)) (spans : List (Nat × Nat)) (b : Bool) (s : State) :
    (startLadder n o off e spans b s).queues = s.queues := by
  unfold startLadder
  extract_lets reads plan steps limits mk
  clear_value plan steps
  split
  · exact (holdActuator_ladderWork n _).queues.trans (modRwc_queues n _ s)
  · exact (unrecovered_ladderWork n _ s).queues
  · exact modRwc_queues n _ s

theorem rereadFailed_queues (n : ChanId) (l : Ladder) (i : Fin 10) (b : Bool) (s : State) : (rereadFailed n l i b s).queues = s.queues := by
  unfold rereadFailed
  extract_lets x a
  have ha : a.queues = s.queues := (modLadder_ladderWork n l.op l.offset _ _).queues.trans (retain_queues n i s)
  clear_value a
  split
  · split
    · split
      · exact ha
      · exact (nextStep_ladderWork n _ a).queues.trans ha
    · exact ha
  · exact (nextStep_ladderWork n l _).queues.trans (retain_queues n i s)

theorem sectorFails_queues (n : ChanId) (c : Codeword) (b : Bool) (s : State) : (sectorFails n c b s).queues = s.queues := by
  unfold sectorFails
  extract_lets spans a d e x y
  have he : e.queues = s.queues := (transientFault_ladderWork ..).queues.trans ((modRwc_queues n _ a).trans (modRwc_queues n _ s))
  clear_value a d e
  have hx : x.2.queues = s.queues := (retain_queues ..).trans ((deliverBad_ladderWork ..).queues.trans he)
  have hy : y.2.queues = s.queues := (retain_queues ..).trans he
  split
  · exact ite_queues ((keepEntries_ladderWork ..).queues.trans hx) hx
  · split
    · split
      · exact (freeEntry_queues ..).trans he
      · exact ite_queues ((freeEntry_queues ..).trans he) ((rereadFailed_queues ..).trans he)
    · exact (startLadder_queues ..).trans hy

theorem sectorGood_queues (n : ChanId) (c : Codeword) (b : Block) (s : State) : (sectorGood n c b s).queues = s.queues := by
  have hblame : ∀ (h : HeadId) (b : Bool) (u : State), (readerBlame h b u).queues = u.queues := fun h b u =>
    (readerBlame_keeps (.refl u) (Sub.refl _)).queues rfl
  unfold sectorGood
  extract_lets e a d f
  have hd : d.queues = s.queues := by
    unfold d
    split
    · exact (modRwc_queues n _ a).trans (modRwc_queues n _ s)
    · exact modRwc_queues n _ s
  have hf : f.queues = s.queues := (freeEntry_queues ..).trans hd
  clear_value a d f
  split
  · split
    · exact hf
    · split
      · exact hf
      · refine (recovered_ladderWork ..).queues.trans ?_
        split
        · exact (hblame ..).trans hf
        · exact hf
  · exact ((deliver_keeps (.refl f) (Sub.refl _)).queues rfl).trans hf

theorem modRwc_rwc_self (n : ChanId) (f : Rwc → Rwc) (s : State) : (s.modRwc n f).rwc n = f (s.rwc n) :=
  (congrArg Chan.rwc (State.modChan_chan_self ..) :)

theorem decodeFirst_decoding {n : ChanId} {s : State} {c : Codeword} {r : List Codeword} (h : (s.rwc n).decoding = c :: r) :
    ((decodeFirst n s).rwc n).decoding = r := by
  have hqueue : ∀ {u t : State}, t.queues = u.queues → (t.rwc n).decoding = (u.rwc n).decoding := fun h =>
    (congrArg (fun x : Nat × Bool × List Codeword => x.2.2) (congrFun h n) :)
  unfold decodeFirst
  split
  next hnil => cases h.symm.trans hnil
  next c' r' hcons =>
    obtain ⟨rfl, rfl⟩ := List.cons.inj (h.symm.trans hcons)
    extract_lets d v a b e f
    have ha : (a.rwc n).decoding = r := by
      unfold a
      rw [modRwc_rwc_self]
    have hb : b.queues = a.queues := modRwc_queues n _ a
    have he : e.queues = a.queues := ite_queues (((noteSync2_keeps (.refl b) (Sub.refl _)).queues rfl).trans hb) hb
    have hf : f.queues = a.queues := by
      unfold f
      split
      · exact ((noteDecode_keeps (.refl e) (Sub.refl _)).queues rfl).trans he
      · exact ((noteFailed_keeps (.refl e) (Sub.refl _)).queues rfl).trans he
    clear_value a b e f v
    refine (hqueue ((settleChannel_ladderWork n _).queues.trans ?_)).trans ha
    cases v with
    | good x => exact (sectorGood_queues n c x f).trans hf
    | misdirected => exact (sectorFails_queues n c true f).trans hf
    | noConverge => exact (sectorFails_queues n c false f).trans hf
    | badCrc => exact (sectorFails_queues n c false f).trans hf

/-! ## A sector that is read (spec 07, R200) -/

/-- Where the reads of all channels stand. -/
def State.places (s : State) : ChanId → Nat × Bool := fun n => ((s.rwc n).nextSector, (s.rwc n).stopRead)

theorem places_of_queues {s t : State} (h : t.queues = s.queues) : t.places = s.places :=
  funext fun n => (congrArg (fun x : Nat × Bool × List Codeword => (x.1, x.2.1)) (congrFun h n) :)

theorem modRwc_places (n : ChanId) (f : Rwc → Rwc) (s : State)
    (hf : ∀ r, ((f r).nextSector, (f r).stopRead) = (r.nextSector, r.stopRead) := by exact fun _ => rfl) : (s.modRwc n f).places = s.places := by
  funext j
  unfold State.places State.rwc State.modRwc
  rw [State.modChan_chan]
  split
  next h => rw [hf, h]
  next => rfl

theorem noteSpans_queues (n : ChanId) (o : MediaOp) (off : Nat) (l : List (Nat × Nat)) (s : State) : (noteSpans n o off l s).queues = s.queues := by
  unfold noteSpans
  split
  · rfl
  · extract_lets a
    have ha : a.queues = s.queues := ite_queues (pendingDefect_ladderWork ..).queues rfl
    exact (modLadder_ladderWork n o off _ a).queues.trans ha

theorem takeSector_places (n : ChanId) (o : MediaOp) (off set : Nat) (sel : EqSel) (again : Bool) (i : Fin 10) (sig : SectorSignal) (s : State) :
    (takeSector n o off set sel again i sig s).places = s.places := by
  unfold takeSector
  extract_lets k p kinds target freq t d out e limit a b f g joint frame llr c
  have ha : a.places = s.places := (places_of_queues (foldl_field State.queues _ (fun u _ =>
    (transientFault_ladderWork ..).queues.trans (modRwc_queues n _ u)) _ _)).trans (modRwc_places n _ s)
  have hb : b.places = s.places := ite_field (g := State.places) ((places_of_queues (noteSpans_queues ..)).trans ha) ha
  have hf : f.places = s.places := (modRwc_places n _ b).trans hb
  have hg : g.places = s.places := (places_of_queues ((calSectorRead_keeps (.refl _) (Sub.refl _)).queues rfl)).trans
    ((places_of_queues ((noteSync_keeps (.refl _) (Sub.refl _)).queues rfl)).trans hf)
  clear_value a b f g
  refine ite_field (g := State.places) ((modRwc_places n _ g).trans hg) ?_
  refine (places_of_queues ((sectorFails_queues ..).trans ((transientFault_ladderWork ..).queues.trans ?_))).trans hg
  exact (noteFailed_keeps (.refl g) (Sub.refl _)).queues rfl

theorem dropUnwanted_places (n : ChanId) (s : State) : (dropUnwanted n s).places = s.places := places_of_queues (dropUnwanted_ladderWork n s).queues

theorem internalRegs_places (o : MediaOp) (s : State) : (internalRegs o s).places = s.places :=
  places_of_queues ((internalRegs_keeps (.refl s) (Sub.refl _)).queues rfl)

/-- A read under way takes the sector that passes the head. -/
theorem readNext_place {n : ChanId} {o : MediaOp} {s : State} (i : Fin 10) (g : SectorSignal) (hwanted : opWanted s o = true)
    (hstop : (s.rwc n).stopRead = false) (hcount : (s.rwc n).nextSector + 1 < o.count)
    (hat : atSector s n o.band (o.offset + (s.rwc n).nextSector) (opOffset s o) = true) :
    ((readNext n o i g s).rwc n).nextSector = (s.rwc n).nextSector + 1 := by
  unfold readNext
  extract_lets r off oldSched set a b r'
  rw [if_neg (by simp [hwanted]), if_neg (by simp [r, off, hat])]
  have ha : a.places = s.places := ite_field (g := State.places) (internalRegs_places ..) rfl
  have hb : ((b.rwc n).nextSector, (b.rwc n).stopRead) = ((s.rwc n).nextSector + 1, false) := by
    refine (congrFun (takeSector_places ..) n).trans ?_
    unfold State.places
    rw [modRwc_rwc_self]
    have hplace := congrFun ha n
    unfold State.places at hplace
    obtain ⟨h1, h2⟩ := Prod.ext_iff.1 hplace
    exact Prod.ext (congrArg (· + 1) h1) (h2.trans hstop)
  obtain ⟨hnext, hstop'⟩ := Prod.mk.inj hb
  unfold r'
  clear_value b
  rw [if_neg (by rw [hnext]; omega), if_neg (by rw [hstop']; decide)]
  exact hnext

/-! ## The second look (spec 07, R208), and a channel without ladders -/

theorem startLookOnce_of_none {n : ChanId} {s : State} (h : (s.rwc n).ladders = []) : startLookOnce n s = s := by
  unfold startLookOnce engineLadder
  rw [h]
  exact ite_self _

theorem settleChannel_of_none {n : ChanId} {s : State} (h : (s.rwc n).ladders = []) :
    ((settleChannel n s).rwc n).ladders = [] ∧ ((settleChannel n s).rwc n).attempt = (s.rwc n).attempt := by
  have hdrop : dropUnwanted n s = s := by
    unfold dropUnwanted stopLadders
    rw [h]
    rfl
  have hend : (endUnwanted s).rwc n = s.rwc n :=
    congrArg (fun v : Vector Chan 8 => v[n].rwc) ((endUnwanted_keeps (.refl s) (Sub.refl _)).samePart (p := .chans) rfl)
  have hlook : startLook n (endUnwanted s) = endUnwanted s := by
    unfold startLook
    rw [hend, h]
    exact startLookOnce_of_none (by rw [hend, h])
  unfold settleChannel powerFrontEnds
  rw [hdrop, hlook]
  dsimp only
  rw [modRwc_rwc_self, hend]
  exact ⟨h, rfl⟩

theorem stopsFall_of_none {n : ChanId} {rev : Bool} {s : State} (h : (s.rwc n).ladders = []) : stopsFall n rev s = s := by
  unfold stopsFall
  rw [h]
  rfl

/-- An attempt that ends with no ladder for it. -/
theorem lookEnds_of_none {n : ChanId} {s : State} {a : Attempt} (hattempt : (s.rwc n).attempt = some a) (h : (s.rwc n).ladders = []) :
    ((lookEnds n s).rwc n).attempt = none ∧ ((lookEnds n s).rwc n).ladders = [] := by
  have hself := modRwc_rwc_self n (fun r => { r with attempt := none }) s
  unfold lookEnds
  rw [hattempt]
  dsimp only
  generalize s.modRwc n (fun r => { r with attempt := none }) = t at hself
  have hladders : (t.rwc n).ladders = [] := (congrArg Rwc.ladders hself).trans h
  rw [hladders]
  dsimp only [List.find?_nil]
  rw [stopsFall_of_none hladders]
  obtain ⟨h1, h2⟩ := settleChannel_of_none hladders
  exact ⟨h2.trans (congrArg Rwc.attempt hself), h1⟩

/-- The ladders of a channel and what runs on its second-look engine. -/
def State.looks (n : ChanId) (s : State) : List Ladder × Option Attempt := ((s.rwc n).ladders, (s.rwc n).attempt)

theorem Keeps.looks {m : Nat} {s t : State} (h : Keeps m s t) (hm : m.testBit Part.chans.bit = false) (n : ChanId) : t.looks n = s.looks n :=
  congrArg (fun v : Vector Chan 8 => (v[n].rwc.ladders, v[n].rwc.attempt)) (h.samePart (p := .chans) hm)

theorem modRwc_looks (n : ChanId) (f : Rwc → Rwc) (s : State) (hf : ∀ r, ((f r).ladders, (f r).attempt) = (r.ladders, r.attempt) := by exact fun _ => rfl) :
    (s.modRwc n f).looks n = s.looks n := by
  unfold State.looks
  rw [modRwc_rwc_self]
  exact hf _

theorem endLadder_only {n : ChanId} {s : State} {l : Ladder} (h : s.looks n = ([l], none)) (b : Bool) : (endLadder n l b s).looks n = ([], none) := by
  have hkeep : (keepEntries n l.entries b s).looks n = s.looks n := foldl_field (State.looks n) _ (fun u i => modRwc_looks n _ u) _ s
  unfold endLadder
  refine (modRwc_looks n _ _).trans ?_
  obtain ⟨hladders, hattempt⟩ := Prod.mk.inj (hkeep.trans h)
  unfold State.looks
  rw [modRwc_rwc_self, hladders, hattempt]
  simp [sameSector]

/-- The only ladder of a channel, recovered. -/
theorem recovered_only {n : ChanId} {s : State} {l : Ladder} (h : s.looks n = ([l], none)) (b : Block) : (recovered n l b s).looks n = ([], none) := by
  unfold recovered
  extract_lets d e
  have he : e.looks n = s.looks n := ite_field (g := State.looks n)
    (((pendingDefect_keeps (.refl d) (Sub.refl _)).looks rfl n).trans (modRwc_looks n _ s)) (modRwc_looks n _ s)
  exact ((deliver_keeps (.refl _) (Sub.refl _)).looks rfl n).trans (endLadder_only (he.trans h) true)

theorem lookGood_only {n : ChanId} {s : State} {l : Ladder} (h : s.looks n = ([l], none)) (a : Attempt) (b : Block) :
    (lookGood n l a b s).looks n = ([], none) := by
  unfold lookGood
  extract_lets d e
  have hd : d.looks n = s.looks n := by
    unfold d
    split
    · exact modRwc_looks n _ s
    · exact modRwc_looks n _ s
    · rfl
  have he : e.looks n = s.looks n := ite_field (g := State.looks n) (((readerBlame_keeps (.refl d) (Sub.refl _)).looks rfl n).trans hd) hd
  exact recovered_only (he.trans h) b

/-- An attempt that recovers the only ladder. -/
theorem lookEnds_recovers {n : ChanId} {s : State} {a : Attempt} {l : Ladder} {b : Block} (hattempt : (s.rwc n).attempt = some a)
    (hladders : (s.rwc n).ladders = [l]) (hid : l.op.id = a.opId) (hoff : l.offset = a.offset) (hstop : l.stop = none)
    (hgood : judgeDecode s l.op.band l.offset (attemptDecode s (s.rwc n).entries[a.entry] a) = .good b) :
    ((lookEnds n s).rwc n).attempt = none ∧ ((lookEnds n s).rwc n).ladders = [] := by
  have hself := modRwc_rwc_self n (fun r => { r with attempt := none }) s
  have hjudge : judgeDecode (s.modRwc n (fun r => { r with attempt := none })) l.op.band l.offset
      (attemptDecode (s.modRwc n (fun r => { r with attempt := none })) (s.rwc n).entries[a.entry] a) = .good b := hgood
  unfold lookEnds
  rw [hattempt]
  dsimp only
  generalize s.modRwc n (fun r => { r with attempt := none }) = t at hself hjudge
  have hl : (t.rwc n).ladders = [l] := (congrArg Rwc.ladders hself).trans hladders
  have hentries : (t.rwc n).entries = (s.rwc n).entries := (congrArg Rwc.entries hself :)
  rw [hl, List.find?_cons_of_pos (by simp [hid, hoff])]
  dsimp only
  rw [if_neg (by simp [hstop]), hentries, hjudge]
  dsimp only
  have honly : (lookGood n l a b t).looks n = ([], none) := lookGood_only (Prod.ext hl (congrArg Rwc.attempt hself)) a b
  obtain ⟨hnone, hidle⟩ := Prod.mk.inj honly
  rw [stopsFall_of_none hnone]
  obtain ⟨h1, h2⟩ := settleChannel_of_none hnone
  exact ⟨h2.trans hidle, h1⟩

theorem nextSector_of_queues {s t : State} (h : t.queues = s.queues) (n : ChanId) : (t.rwc n).nextSector = (s.rwc n).nextSector :=
  (congrArg (fun x : Nat × Bool × List Codeword => x.1) (congrFun h n) :)

theorem settleChannel_nextSector (n : ChanId) (s : State) : ((settleChannel n s).rwc n).nextSector = (s.rwc n).nextSector :=
  nextSector_of_queues (settleChannel_ladderWork n s).queues n

/-- Settles O31: the reads and the decoders stand through the work on ladders, and a ladder that ends leaves none of its sector. -/
theorem sectorsReadAndTheirDecoding : Obligations.SectorsReadAndTheirDecoding := by
  unfold Obligations.SectorsReadAndTheirDecoding
  intro n s hlive
  refine ⟨fun g i o htick hroom hrun hfree hop => ?_, fun g i l htick hroom hrun hfree hop hnext => ?_, fun g htick => ?_, fun c r hdec => ?_, fun a hattempt => ?_,
    fun k hk => ?_, fun l hl => ⟨fun hearly hnone => ?_, fun hearly hnone => ?_, fun hearly hsome => ?_⟩⟩
  · have hexec : exec (.sectorRead n g) s = .next (settleChannel n (readNext n o i g (dropUnwanted n s))) := by
      show execSectorRead n g s = _
      unfold execSectorRead
      refine congrArg Host.Outcome.next ((if_neg (by simp [hlive, htick, hrun])).trans ((if_neg (Nat.not_le.2 hroom)).trans ?_))
      dsimp only
      rw [hfree, hop]
    refine ⟨hexec, fun hwanted hstop hcount hat => ⟨_, hexec, ?_⟩⟩
    have hplace := congrFun (dropUnwanted_places n s) n
    obtain ⟨hnext, hstop'⟩ := Prod.mk.inj hplace
    have hread := readNext_place (s := dropUnwanted n s) i g hwanted (hstop'.trans hstop) (by rw [hnext]; exact hcount) (by rw [hnext]; exact hat)
    beta_reduce
    rw [settleChannel_nextSector, hread, hnext]
  · show execSectorRead n g s = _
    unfold execSectorRead
    refine congrArg Host.Outcome.next ((if_neg (by simp [hlive, htick, hrun])).trans ((if_neg (Nat.not_le.2 hroom)).trans ?_))
    dsimp only
    rw [hfree, hop]
    dsimp only
    rw [hnext]
  · exact congrArg Host.Outcome.next (if_pos (by simp [htick]))
  · have hexec : exec (.decodeComplete n c.entry) s = .next (decodeFirst n s) := congrArg Host.Outcome.next (if_pos (by simp [hlive, hdec]))
    exact ⟨hexec, ⟨_, hexec, decodeFirst_decoding hdec⟩, fun i hi => congrArg Host.Outcome.next (if_neg (by simp [hdec, hi.symm]))⟩
  · have hexec : exec (.secondLookAttemptEnd n a.code) s = .next (lookEnds n s) := congrArg Host.Outcome.next (if_pos (by simp [hlive, hattempt]))
    refine ⟨hexec, fun hnone => ⟨_, hexec, lookEnds_of_none hattempt hnone⟩,
      fun l b hladders hid hoff hstop hgood => ⟨_, hexec, lookEnds_recovers hattempt hladders hid hoff hstop hgood⟩⟩
  · exact congrArg Host.Outcome.next (if_neg (by simp [hk]))
  · have hexec : exec (.retryTimeLimit n) s = .next (settleChannel n (unrecovered n l s)) := by
      show execRetryTimeLimit n s = _
      unfold execRetryTimeLimit
      rw [if_neg (by rw [hlive]; decide), hl]
      exact congrArg Host.Outcome.next ((if_neg (by simp [hearly])).trans (if_neg (by simp [hnone])))
    exact ⟨hexec, _, hexec, (settleChannel_ladderWork n _).sans n _ _ (unrecovered_sans n l s)⟩
  · show execRetryTimeLimit n s = _
    unfold execRetryTimeLimit
    rw [if_neg (by rw [hlive]; decide), hl]
    exact congrArg Host.Outcome.next ((if_pos hearly).trans (if_neg (by simp [hnone])))
  · show execRetryTimeLimit n s = _
    unfold execRetryTimeLimit
    rw [if_neg (by rw [hlive]; decide), hl]
    exact congrArg Host.Outcome.next ((if_neg (by simp [hearly])).trans (if_pos hsome))

end Sys2Proof.Machine
end


section
/-! SETTLED. The end of a calibration run that retracts another actuator (O32). -/

set_option Elab.async false

namespace Sys2Proof.Machine

open Sys2Proof.Tests (runDone calRunning)

/-- A SERVO run of head 0 on channel 0 is done, with no sector read, and so is one of the same head on channel 1, of which the actuator is
loaded; media access has stopped, and no command is open. -/
def runOnTwoChannels : State :=
  { calRunning (some .servo) with
    cmds.mediaStopped := true
    cal.running := (calRunning (some .servo)).cal.running.set 1 (some (runDone (some .servo))) }.modChan 1 (fun c => { c with load := .loaded })

/-- The thermal standby that follows the end retracts channel 1, and the run broken there is recorded as deferred. -/
theorem runOnTwoChannels_end_deferred :
    seenAfter (.calRunEnd 0 ⟨some .servo, 0⟩) runOnTwoChannels (fun t => t.cal.heads[(0 : HeadId)].results[(4 : Fin 6)]) = some 4 := by
  decide +kernel

theorem runOnTwoChannels_abandoned : trackResult runOnTwoChannels (runDone (some .servo)) .servo = .abandoned := by decide +kernel

theorem runOnTwoChannels_running : runOnTwoChannels.cal.running[chanOf 0] = some (runDone (some .servo)) := by decide +kernel

theorem runOnTwoChannels_end_result {t : State} (h : exec (.calRunEnd 0 ⟨some .servo, 0⟩) runOnTwoChannels = .next t) :
    t.cal.heads[(0 : HeadId)].results[(4 : Fin 6)] = 4 :=
  Option.some.inj ((seenAfter_of_next (fun t => t.cal.heads[(0 : HeadId)].results[(4 : Fin 6)]) h).symm.trans runOnTwoChannels_end_deferred)

/-- Refutes O32: an abandoned run leaves result 2, but the end lets the thermal standby begin, which retracts another channel; where a run of
the same head and kind is under way there (a state that no start of a run makes), it is broken off, and the result that stands is 4. -/
theorem not_calibrationRunsAreAskedForAndEnd : ¬ Obligations.CalibrationRunsAreAskedForAndEnd := by
  unfold Obligations.CalibrationRunsAreAskedForAndEnd
  intro h
  obtain ⟨-, -, -, -, htrack, -⟩ := h runOnTwoChannels (by decide) (by decide)
  obtain ⟨-, habandoned, -⟩ := htrack 0 (runDone (some .servo)) .servo 0 (by decide) runOnTwoChannels_running (by decide) (by decide)
    (by decide) (by decide) (by decide)
  obtain ⟨t, hexec, hresult⟩ := habandoned runOnTwoChannels_abandoned
  exact absurd ((runOnTwoChannels_end_result hexec).symm.trans hresult) (by decide)

end Sys2Proof.Machine
end
